-- ==== Sys2Proof/Word.lean ====
section
/-! DEFINITION. The word types of the machine: doublewords, bytes, vector and mask registers (R20, R148). -/

namespace Sys2Proof

/-- A doubleword (R20, R25). -/
abbrev Word := BitVec 64

/-- A byte of memory. -/
abbrev Byte := BitVec 8

/-- A vector register, 256 bytes, byte 0 in bits [7:0] (R20, R80). -/
abbrev VReg := BitVec 2048

/-- A mask register, 16 bytes (R20, R149). -/
abbrev MReg := BitVec 128

/-- A word and whether it is poisoned (R422). -/
structure PWord where
  val : Word
  bad : Bool
  deriving DecidableEq, Repr

end Sys2Proof
end

