-- ==== Sys2Proof/Config.lean ====
section
/-! DEFINITION. What the manual leaves to the implementation or calls undefined: opaque constants. None has a body, so no
proof can see a value of one (log 7). -/

namespace Sys2Proof

/-- The n-th free doubleword: the value a result takes where the manual leaves it undefined or says only that it is
poisoned (R7, R422; log 7). -/
opaque Config.freeWord : Nat → BitVec 64

/-- The n-th free number: an identifier, measurement, signature or delay that the manual names without giving a value (log 7). -/
opaque Config.freeNat : Nat → Nat

/-- PLOG of the exchange schedule that Harbour finds for a lea of a base and a length, before its limits (R324). -/
opaque Config.exchangePlog : Nat → Nat → Nat

/-- The request plane, 0 or 1, on which the flits of the n-th item of work travel (R321, R322; log 15). -/
opaque Config.requestPlane : Nat → Bool

/-- The slot of the exchange period in which Harbour places an opportunity of an ordered pair of a lea's cores, before its
limits: base, length, sender, target, and the number of the opportunity (R324). -/
opaque Config.exchangeSlot : Nat → Nat → Nat → Nat → Nat → Nat

/-- The guaranteed opportunities of that schedule for each pair, before their limits (R324). -/
opaque Config.exchangeRate : Nat → Nat → Nat

end Sys2Proof
end

