-- ==== Sys2Proof/Syntax.lean ====
section
/-! DEFINITION. The syntax: one constructor of `Instr` per row of the opcode table. A row with an encoding carries the
fields of its encoding (a field in two parts is one field, high part first, R54); `rx` is the scope of an RX prefix that
issues with the access (R66, R67). A Dorent row carries the fields of R282. A row without an encoding is a step that a
unit, Headland, Harbour or the host takes; it carries what names it. -/

namespace Sys2Proof

/-- Why an island's clock is not nominal (R329, R398). -/
inductive Throttle where
  | free | thermal | islandPower | modulePower
  deriving DecidableEq, Repr

/-- An island's clock: the clock in steps of 50 MHz (24 to 48), the rotations gated in every 16 (R329), and its readings of
power in watts and of temperature in degrees (R398). -/
structure IslandClock where
  steps : Nat
  gate : Nat
  cause : Throttle
  draw : Nat
  heat : Nat
  deriving DecidableEq, Repr

/-- Where an uncorrectable or corrected error lies (R421, R404 cause 0x55). -/
inductive ErrorSite where
  | corrected (addr : Nat)
  | data (addr : Nat)
  | stage2 (lea frame : Nat)
  | slotState (core slot : Nat)
  | plane (core : Nat) (shadow : Bool) (dword : Nat)
  | tile (core t dword : Nat)
  | mailbox (core entry word : Nat)
  | dieControl (die : Nat)
  | headland
  deriving DecidableEq, Repr

/-- A unit that Headland fences (R427, R428). -/
inductive PhysUnit where
  | core (n : Nat)
  | channel (die n : Nat)
  | port (n : Nat)
  deriving DecidableEq, Repr

/-- The fatal errors of R429. -/
inductive FatalReason where
  | headlandState | configCircuit | tideAlignment | reservedCause | uncontained
  deriving DecidableEq, Repr

/-- What the boot code finds in flash: the outcome of the two signature checks, the four measurements, the units
that the signed manifest disables and the islands' power shares that it sets (R431, R427, R398). -/
structure BootImage where
  ecdsaOk : Bool
  lmsOk : Bool
  manifestOk : Bool
  fwHash : Nat
  manifestHash : Nat
  scheduleHash : Nat
  secVersion : Nat
  disabledCores : List Nat
  disabledChannels : List (Nat × Nat)
  disabledPorts : List Nat
  shares : List Nat
  deriving DecidableEq, Repr

/-- Items named by a creation request, by count or exactly (R440). -/
inductive ItemReq where
  | count (n : Nat)
  | exact (l : List Nat)
  deriving DecidableEq, Repr

/-- A template: a TDP and the 32 doublewords of a descriptor image (R319, R341). -/
structure Template where
  tdp : Nat
  image : List Word
  deriving DecidableEq, Repr

/-- The message-thread template: the descriptor, TRAPV and the class-table entries 1 to 63 (R341). -/
structure MsgTemplate where
  base : Template
  trapv : Word
  classes : List (Nat × Word)
  deriving DecidableEq, Repr

/-- A lea's creation request (R370, R440, R391, R396, R330, R385). -/
structure LeaRequest where
  lea : Nat
  leab : Nat
  leal : Nat
  banks : List (Nat × ItemReq)
  ways : List (Nat × ItemReq)
  svc : List (Nat × ItemReq)
  bulk : Nat
  keys : List Nat
  clock : Option Nat
  digest : Nat
  s2base : Nat
  s2len : Nat
  msg : Option MsgTemplate
  deriving DecidableEq, Repr

/-- SPDM 1.3 requests of R395; `fn` is the physical function (0 or 1). -/
inductive SpdmRequest where
  | getCertificate (fn : Nat) (slot : Nat)
  | challenge (fn : Nat) (nonce : Nat)
  | getMeasurement (fn : Nat) (index : Nat) (sign : Bool)
  | keyExchange (fn : Nat) (twoWay : Bool) (rootDigest : Nat)
  | endSession (fn : Nat)
  deriving DecidableEq, Repr

/-- IDE_KM requests of R394. -/
inductive IdeRequest where
  | keyProg (key : Nat)
  | setGo
  | setStop
  | bind (vfs : List Nat)
  deriving DecidableEq, Repr

/-- What the debug function can reach of the unlocked lea (R396). -/
inductive DebugTarget where
  | reg (core slot k : Nat)
  | desc (core slot word : Nat)
  | localStore (core off : Nat)
  | commons (die off : Nat)
  | virt (die va : Nat)
  deriving DecidableEq, Repr

/-- A debug read or write of one doubleword, or a read of the control word or of an address match (R396, R397). -/
inductive DebugOp where
  | read (t : DebugTarget)
  | write (t : DebugTarget) (v : Word)
  | readControl
  | readMatch (k : Nat)
  deriving DecidableEq, Repr

/-- A request of the host: to lea memory through the lea's virtual function, to a die's commons of the lea, for a queue's retired
count, the exchange-rate capability or the fault log (R304, R393); or, on physical function 0, for the readings of an island and
the module, asked for by a function `fn`, or the key-0 region of a dump (R398, R430). -/
inductive HostOp where
  | read (len : Nat)
  | write (bytes : List Byte)
  | commonsWrite (die : Nat) (bytes : List Byte)
  | retired (queue : Nat)
  | rate
  | faults
  | readings (fn island : Nat)
  | dump
  deriving DecidableEq, Repr

/-- The steps of the machine, one constructor per row of the opcode table. -/
inductive Instr where
  /-- ADD (R111). -/
  | add (b : BitVec 5) (a : BitVec 5) (d : BitVec 5)
  /-- SUB (R111). -/
  | sub (b : BitVec 5) (a : BitVec 5) (d : BitVec 5)
  /-- MUL (R111). -/
  | mul (b : BitVec 5) (a : BitVec 5) (d : BitVec 5)
  /-- MULH (R111). -/
  | mulh (b : BitVec 5) (a : BitVec 5) (d : BitVec 5)
  /-- MULHU (R111). -/
  | mulhu (b : BitVec 5) (a : BitVec 5) (d : BitVec 5)
  /-- DIV (R112). -/
  | div (l : BitVec 4) (b : BitVec 5) (a : BitVec 5) (d : BitVec 5)
  /-- DIVU (R112). -/
  | divu (l : BitVec 4) (b : BitVec 5) (a : BitVec 5) (d : BitVec 5)
  /-- REM (R112). -/
  | rem (l : BitVec 4) (b : BitVec 5) (a : BitVec 5) (d : BitVec 5)
  /-- REMU (R112). -/
  | remu (l : BitVec 4) (b : BitVec 5) (a : BitVec 5) (d : BitVec 5)
  /-- AND (R111). -/
  | and (b : BitVec 5) (a : BitVec 5) (d : BitVec 5)
  /-- OR (R111). -/
  | or (b : BitVec 5) (a : BitVec 5) (d : BitVec 5)
  /-- XOR (R111). -/
  | xor (b : BitVec 5) (a : BitVec 5) (d : BitVec 5)
  /-- ANDN (R111). -/
  | andn (b : BitVec 5) (a : BitVec 5) (d : BitVec 5)
  /-- ORN (R111). -/
  | orn (b : BitVec 5) (a : BitVec 5) (d : BitVec 5)
  /-- SHL (R111). -/
  | shl (b : BitVec 5) (a : BitVec 5) (d : BitVec 5)
  /-- SHR (R111). -/
  | shr (b : BitVec 5) (a : BitVec 5) (d : BitVec 5)
  /-- SRA (R111). -/
  | sra (b : BitVec 5) (a : BitVec 5) (d : BitVec 5)
  /-- ROR (R111). -/
  | ror (b : BitVec 5) (a : BitVec 5) (d : BitVec 5)
  /-- MIN (R111). -/
  | min (b : BitVec 5) (a : BitVec 5) (d : BitVec 5)
  /-- MAX (R111). -/
  | max (b : BitVec 5) (a : BitVec 5) (d : BitVec 5)
  /-- MINU (R111). -/
  | minu (b : BitVec 5) (a : BitVec 5) (d : BitVec 5)
  /-- MAXU (R111). -/
  | maxu (b : BitVec 5) (a : BitVec 5) (d : BitVec 5)
  /-- CMPEQ (R111). -/
  | cmpeq (b : BitVec 5) (a : BitVec 5) (d : BitVec 5)
  /-- CMPLT (R111). -/
  | cmplt (b : BitVec 5) (a : BitVec 5) (d : BitVec 5)
  /-- CMPLTU (R111). -/
  | cmpltu (b : BitVec 5) (a : BitVec 5) (d : BitVec 5)
  /-- SEL (R114). -/
  | sel (c : BitVec 4) (b : BitVec 5) (a : BitVec 5) (d : BitVec 5)
  /-- EXTR (R115). -/
  | extr (b : BitVec 5) (a : BitVec 5) (d : BitVec 5)
  /-- INSB (R115). -/
  | insb (b : BitVec 5) (a : BitVec 5) (d : BitVec 5)
  /-- CLZ (R113). -/
  | clz (a : BitVec 5) (d : BitVec 5)
  /-- CTZ (R113). -/
  | ctz (a : BitVec 5) (d : BitVec 5)
  /-- POPC (R113). -/
  | popc (a : BitVec 5) (d : BitVec 5)
  /-- BREV (R113). -/
  | brev (a : BitVec 5) (d : BitVec 5)
  /-- BSWAP (R113). -/
  | bswap (a : BitVec 5) (d : BitVec 5)
  /-- ADDI (R116). -/
  | addi (i : BitVec 12) (a : BitVec 5) (d : BitVec 5)
  /-- MOVI (R116). -/
  | movi (i : BitVec 17) (d : BitVec 5)
  /-- SHLI (R116). -/
  | shli (n : BitVec 6) (a : BitVec 5) (d : BitVec 5)
  /-- SHRI (R116). -/
  | shri (n : BitVec 6) (a : BitVec 5) (d : BitVec 5)
  /-- SRAI (R116). -/
  | srai (n : BitVec 6) (a : BitVec 5) (d : BitVec 5)
  /-- CMPI (R116). -/
  | cmpi (c : BitVec 3) (i : BitVec 9) (a : BitVec 5) (d : BitVec 5)
  /-- LIH (R117). -/
  | lih (i : BitVec 16) (d : BitVec 5)
  /-- LEA (R120). -/
  | lea (k : BitVec 3) (n : BitVec 9) (a : BitVec 5) (d : BitVec 5)
  /-- MAPR (R121). -/
  | mapr (k : BitVec 3) (n : BitVec 9) (a : BitVec 5) (d : BitVec 5)
  /-- ADDPC (R122). -/
  | addpc (i : BitVec 17) (d : BitVec 5)
  /-- SGRD (R123). -/
  | sgrd (f : BitVec 2) (k : BitVec 3) (d : BitVec 5)
  /-- LDL (R124). -/
  | ldl (o : BitVec 11) (l : BitVec 4) (d : BitVec 5)
  /-- BEQ (R126). -/
  | beq (o : BitVec 12) (b : BitVec 5) (a : BitVec 5)
  /-- BNE (R126). -/
  | bne (o : BitVec 12) (b : BitVec 5) (a : BitVec 5)
  /-- BLT (R126). -/
  | blt (o : BitVec 12) (b : BitVec 5) (a : BitVec 5)
  /-- BGE (R126). -/
  | bge (o : BitVec 12) (b : BitVec 5) (a : BitVec 5)
  /-- BLTU (R126). -/
  | bltu (o : BitVec 12) (b : BitVec 5) (a : BitVec 5)
  /-- BGEU (R126). -/
  | bgeu (o : BitVec 12) (b : BitVec 5) (a : BitVec 5)
  /-- BZ (R126). -/
  | bz (o : BitVec 12) (a : BitVec 5)
  /-- BNZ (R126). -/
  | bnz (o : BitVec 12) (a : BitVec 5)
  /-- BR (R128). -/
  | br (o : BitVec 20)
  /-- CALLR (R129). -/
  | callr (a : BitVec 5) (f : BitVec 5)
  /-- RET (R129). -/
  | ret
  /-- JMP (R128). -/
  | jmp (a : BitVec 5)
  /-- LOOP (R130). -/
  | loop (o : BitVec 10) (a : BitVec 5)
  /-- NOP (R131). -/
  | nop
  /-- CALL (R129). -/
  | call (o : BitVec 20) (f : BitVec 5)
  /-- LDD_16 (R50). -/
  | ldd16 (rx : Option (BitVec 3)) (g : BitVec 1) (l : BitVec 4) (b : BitVec 3) (d : BitVec 3)
  /-- STD_16 (R50). -/
  | std16 (rx : Option (BitVec 3)) (g : BitVec 1) (k : BitVec 4) (b : BitVec 3) (d : BitVec 3)
  /-- ADDI_MOVE_16 (R118). -/
  | addiMove16 (d : BitVec 5) (a : BitVec 5)
  /-- ADDI_16 (R118). -/
  | addi16 (d : BitVec 5) (i : BitVec 6)
  /-- MOVI_16 (R118). -/
  | movi16 (d : BitVec 5) (i : BitVec 6)
  /-- SHLI_16 (R118). -/
  | shli16 (d : BitVec 5) (n : BitVec 6)
  /-- SHRI_16 (R118). -/
  | shri16 (d : BitVec 5) (n : BitVec 6)
  /-- ADD_16 (R111). -/
  | add16 (d : BitVec 5) (a : BitVec 5)
  /-- SUB_16 (R111). -/
  | sub16 (d : BitVec 5) (a : BitVec 5)
  /-- AND_16 (R111). -/
  | and16 (d : BitVec 5) (a : BitVec 5)
  /-- OR_16 (R111). -/
  | or16 (d : BitVec 5) (a : BitVec 5)
  /-- BZ_16 (R126). -/
  | bz16 (a : BitVec 5) (o : BitVec 6)
  /-- BNZ_16 (R126). -/
  | bnz16 (a : BitVec 5) (o : BitVec 6)
  /-- BR_16 (R126). -/
  | br16 (o : BitVec 11)
  /-- HRET (R342). -/
  | hret
  /-- RET_16 (R129). -/
  | ret16
  /-- NOP_16 (R131). -/
  | nop16
  /-- FADD (R135). -/
  | fadd (x : BitVec 1) (r : BitVec 3) (b : BitVec 5) (a : BitVec 5) (d : BitVec 5)
  /-- FSUB (R135). -/
  | fsub (x : BitVec 1) (r : BitVec 3) (b : BitVec 5) (a : BitVec 5) (d : BitVec 5)
  /-- FMUL (R135). -/
  | fmul (x : BitVec 1) (r : BitVec 3) (b : BitVec 5) (a : BitVec 5) (d : BitVec 5)
  /-- FMA (R135). -/
  | fma (x : BitVec 1) (r : BitVec 3) (b : BitVec 5) (a : BitVec 5) (d : BitVec 5)
  /-- FMS (R135). -/
  | fms (x : BitVec 1) (r : BitVec 3) (b : BitVec 5) (a : BitVec 5) (d : BitVec 5)
  /-- FNMA (R135). -/
  | fnma (x : BitVec 1) (r : BitVec 3) (b : BitVec 5) (a : BitVec 5) (d : BitVec 5)
  /-- FDIV (R136). -/
  | fdiv (x : BitVec 1) (l : BitVec 4) (b : BitVec 5) (a : BitVec 5) (d : BitVec 5)
  /-- FSQRT (R136). -/
  | fsqrt (x : BitVec 1) (l : BitVec 4) (a : BitVec 5) (d : BitVec 5)
  /-- FRSQE (R137). -/
  | frsqe (x : BitVec 1) (r : BitVec 3) (a : BitVec 5) (d : BitVec 5)
  /-- FRCPE (R137). -/
  | frcpe (x : BitVec 1) (r : BitVec 3) (a : BitVec 5) (d : BitVec 5)
  /-- FMIN (R138). -/
  | fmin (x : BitVec 1) (b : BitVec 5) (a : BitVec 5) (d : BitVec 5)
  /-- FMAX (R138). -/
  | fmax (x : BitVec 1) (b : BitVec 5) (a : BitVec 5) (d : BitVec 5)
  /-- FCMPEQ (R139). -/
  | fcmpeq (x : BitVec 1) (b : BitVec 5) (a : BitVec 5) (d : BitVec 5)
  /-- FCMPLT (R139). -/
  | fcmplt (x : BitVec 1) (b : BitVec 5) (a : BitVec 5) (d : BitVec 5)
  /-- FCMPLE (R139). -/
  | fcmple (x : BitVec 1) (b : BitVec 5) (a : BitVec 5) (d : BitVec 5)
  /-- FCLASS (R140). -/
  | fclass (x : BitVec 1) (a : BitVec 5) (d : BitVec 5)
  /-- FCVT (R141). -/
  | fcvt (x : BitVec 1) (r : BitVec 3) (t : BitVec 1) (m : BitVec 3) (a : BitVec 5) (d : BitVec 5)
  /-- FCVTI (R142). -/
  | fcvti (x : BitVec 1) (r : BitVec 3) (n : BitVec 3) (a : BitVec 5) (d : BitVec 5)
  /-- ICVTF (R142). -/
  | icvtf (x : BitVec 1) (r : BitVec 3) (n : BitVec 3) (a : BitVec 5) (d : BitVec 5)
  /-- FABS (R140). -/
  | fabs (x : BitVec 1) (a : BitVec 5) (d : BitVec 5)
  /-- FNEG (R140). -/
  | fneg (x : BitVec 1) (a : BitVec 5) (d : BitVec 5)
  /-- FSGNJ (R140). -/
  | fsgnj (x : BitVec 1) (b : BitVec 5) (a : BitVec 5) (d : BitVec 5)
  /-- LDB (R233). -/
  | ldb (rx : Option (BitVec 3)) (p : BitVec 6) (l : BitVec 4) (g : BitVec 3) (b : BitVec 5) (d : BitVec 5)
  /-- LDH (R233). -/
  | ldh (rx : Option (BitVec 3)) (p : BitVec 6) (l : BitVec 4) (g : BitVec 3) (b : BitVec 5) (d : BitVec 5)
  /-- LDW (R233). -/
  | ldw (rx : Option (BitVec 3)) (p : BitVec 6) (l : BitVec 4) (g : BitVec 3) (b : BitVec 5) (d : BitVec 5)
  /-- LDD (R233). -/
  | ldd (rx : Option (BitVec 3)) (p : BitVec 6) (l : BitVec 4) (g : BitVec 3) (b : BitVec 5) (d : BitVec 5)
  /-- STB (R233). -/
  | stb (rx : Option (BitVec 3)) (p : BitVec 6) (g : BitVec 3) (b : BitVec 5) (d : BitVec 5)
  /-- STH (R233). -/
  | sth (rx : Option (BitVec 3)) (p : BitVec 6) (g : BitVec 3) (b : BitVec 5) (d : BitVec 5)
  /-- STW (R233). -/
  | stw (rx : Option (BitVec 3)) (p : BitVec 6) (g : BitVec 3) (b : BitVec 5) (d : BitVec 5)
  /-- STD (R233). -/
  | std (rx : Option (BitVec 3)) (p : BitVec 6) (g : BitVec 3) (b : BitVec 5) (d : BitVec 5)
  /-- LD_ACQ (R232). -/
  | ldAcq (l : BitVec 4) (z : BitVec 2) (g : BitVec 3) (b : BitVec 5) (d : BitVec 5)
  /-- LDU_ACQ (R232). -/
  | lduAcq (l : BitVec 4) (z : BitVec 2) (g : BitVec 3) (b : BitVec 5) (d : BitVec 5)
  /-- ST_REL (R232). -/
  | stRel (z : BitVec 2) (g : BitVec 3) (b : BitVec 5) (d : BitVec 5)
  /-- LDBU (R232). -/
  | ldbu (rx : Option (BitVec 3)) (l : BitVec 4) (g : BitVec 3) (b : BitVec 5) (d : BitVec 5)
  /-- LDHU (R232). -/
  | ldhu (rx : Option (BitVec 3)) (l : BitVec 4) (g : BitVec 3) (b : BitVec 5) (d : BitVec 5)
  /-- LDWU (R232). -/
  | ldwu (rx : Option (BitVec 3)) (l : BitVec 4) (g : BitVec 3) (b : BitVec 5) (d : BitVec 5)
  /-- LDE (R235). -/
  | lde (l : BitVec 4) (g : BitVec 3) (b : BitVec 5) (d : BitVec 5)
  /-- LDF (R235). -/
  | ldf (l : BitVec 4) (g : BitVec 3) (b : BitVec 5) (d : BitVec 5)
  /-- STF (R235). -/
  | stf (g : BitVec 3) (b : BitVec 5) (d : BitVec 5)
  /-- STFF (R235). -/
  | stff (g : BitVec 3) (b : BitVec 5) (d : BitVec 5)
  /-- FEQ (R235). -/
  | feq (l : BitVec 4) (g : BitVec 3) (b : BitVec 5) (d : BitVec 5)
  /-- FECLR (R235). -/
  | feclr (g : BitVec 3) (b : BitVec 5)
  /-- LDB_IDX (R233). -/
  | ldbIdx (rx : Option (BitVec 3)) (i : BitVec 4) (l : BitVec 4) (g : BitVec 3) (b : BitVec 5) (d : BitVec 5)
  /-- LDBU_IDX (R233). -/
  | ldbuIdx (rx : Option (BitVec 3)) (i : BitVec 4) (l : BitVec 4) (g : BitVec 3) (b : BitVec 5) (d : BitVec 5)
  /-- LDH_IDX (R233). -/
  | ldhIdx (rx : Option (BitVec 3)) (i : BitVec 4) (l : BitVec 4) (g : BitVec 3) (b : BitVec 5) (d : BitVec 5)
  /-- LDHU_IDX (R233). -/
  | ldhuIdx (rx : Option (BitVec 3)) (i : BitVec 4) (l : BitVec 4) (g : BitVec 3) (b : BitVec 5) (d : BitVec 5)
  /-- LDW_IDX (R233). -/
  | ldwIdx (rx : Option (BitVec 3)) (i : BitVec 4) (l : BitVec 4) (g : BitVec 3) (b : BitVec 5) (d : BitVec 5)
  /-- LDWU_IDX (R233). -/
  | ldwuIdx (rx : Option (BitVec 3)) (i : BitVec 4) (l : BitVec 4) (g : BitVec 3) (b : BitVec 5) (d : BitVec 5)
  /-- LDD_IDX (R233). -/
  | lddIdx (rx : Option (BitVec 3)) (i : BitVec 4) (l : BitVec 4) (g : BitVec 3) (b : BitVec 5) (d : BitVec 5)
  /-- STB_IDX (R233). -/
  | stbIdx (rx : Option (BitVec 3)) (i : BitVec 4) (g : BitVec 3) (b : BitVec 5) (d : BitVec 5)
  /-- STH_IDX (R233). -/
  | sthIdx (rx : Option (BitVec 3)) (i : BitVec 4) (g : BitVec 3) (b : BitVec 5) (d : BitVec 5)
  /-- STW_IDX (R233). -/
  | stwIdx (rx : Option (BitVec 3)) (i : BitVec 4) (g : BitVec 3) (b : BitVec 5) (d : BitVec 5)
  /-- STD_IDX (R233). -/
  | stdIdx (rx : Option (BitVec 3)) (i : BitVec 4) (g : BitVec 3) (b : BitVec 5) (d : BitVec 5)
  /-- AMOADD (R241). -/
  | amoadd (rx : Option (BitVec 3)) (l : BitVec 4) (b : BitVec 4) (g : BitVec 3) (a : BitVec 5) (d : BitVec 5)
  /-- AMOAND (R241). -/
  | amoand (rx : Option (BitVec 3)) (l : BitVec 4) (b : BitVec 4) (g : BitVec 3) (a : BitVec 5) (d : BitVec 5)
  /-- AMOOR (R241). -/
  | amoor (rx : Option (BitVec 3)) (l : BitVec 4) (b : BitVec 4) (g : BitVec 3) (a : BitVec 5) (d : BitVec 5)
  /-- AMOXOR (R241). -/
  | amoxor (rx : Option (BitVec 3)) (l : BitVec 4) (b : BitVec 4) (g : BitVec 3) (a : BitVec 5) (d : BitVec 5)
  /-- AMOMIN (R241). -/
  | amomin (rx : Option (BitVec 3)) (l : BitVec 4) (b : BitVec 4) (g : BitVec 3) (a : BitVec 5) (d : BitVec 5)
  /-- AMOMAX (R241). -/
  | amomax (rx : Option (BitVec 3)) (l : BitVec 4) (b : BitVec 4) (g : BitVec 3) (a : BitVec 5) (d : BitVec 5)
  /-- AMOSWP (R241). -/
  | amoswp (rx : Option (BitVec 3)) (l : BitVec 4) (b : BitVec 4) (g : BitVec 3) (a : BitVec 5) (d : BitVec 5)
  /-- AMOCAS (R241). -/
  | amocas (rx : Option (BitVec 3)) (l : BitVec 4) (b : BitVec 4) (g : BitVec 3) (a : BitVec 5) (d : BitVec 5)
  /-- AMOFADD_S (R241). -/
  | amofaddS (rx : Option (BitVec 3)) (l : BitVec 4) (b : BitVec 4) (g : BitVec 3) (a : BitVec 5) (d : BitVec 5)
  /-- AMOFADD_D (R241). -/
  | amofaddD (rx : Option (BitVec 3)) (l : BitVec 4) (b : BitVec 4) (g : BitVec 3) (a : BitVec 5) (d : BitVec 5)
  /-- GET (R246). -/
  | get (l : BitVec 4) (e : BitVec 1) (k : BitVec 4) (g : BitVec 3) (a : BitVec 5) (d : BitVec 5)
  /-- PUT (R246). -/
  | put (l : BitVec 4) (e : BitVec 1) (k : BitVec 4) (g : BitVec 3) (a : BitVec 5) (d : BitVec 5)
  /-- RAMO (R246). -/
  | ramo (l : BitVec 4) (o : BitVec 4) (g : BitVec 3) (a : BitVec 5) (d : BitVec 5)
  /-- RSEM (R247). -/
  | rsem (l : BitVec 4) (k : BitVec 6) (a : BitVec 5) (d : BitVec 5)
  /-- NADD (R254). -/
  | nadd (v : BitVec 4) (g : BitVec 3) (a : BitVec 5) (d : BitVec 5)
  /-- NMAX (R254). -/
  | nmax (v : BitVec 4) (g : BitVec 3) (a : BitVec 5) (d : BitVec 5)
  /-- NRED (R254). -/
  | nred (v : BitVec 4) (g : BitVec 3) (a : BitVec 5) (d : BitVec 5)
  /-- NAXPY (R254). -/
  | naxpy (v : BitVec 4) (g : BitVec 3) (a : BitVec 5) (d : BitVec 5)
  /-- NFILL (R254). -/
  | nfill (b : BitVec 5) (g : BitVec 3) (a : BitVec 5) (d : BitVec 5)
  /-- NAMO (R255). -/
  | namo (l : BitVec 4) (b : BitVec 5) (g : BitVec 3) (a : BitVec 5) (d : BitVec 5)
  /-- FENCE (R213). -/
  | fence (k : BitVec 2) (s : BitVec 3)
  /-- FENCEB (R216). -/
  | fenceb (s : BitVec 3)
  /-- VLD (R239). -/
  | vld (rx : Option (BitVec 3)) (l : BitVec 4) (m : BitVec 3) (g : BitVec 3) (a : BitVec 5) (d : BitVec 4)
  /-- VLDS (R239). -/
  | vlds (rx : Option (BitVec 3)) (l : BitVec 4) (i : BitVec 4) (m : BitVec 3) (g : BitVec 3) (a : BitVec 5) (d : BitVec 4)
  /-- VGATH (R239). -/
  | vgath (rx : Option (BitVec 3)) (l : BitVec 4) (i : BitVec 4) (m : BitVec 3) (g : BitVec 3) (a : BitVec 5) (d : BitVec 4)
  /-- VST (R239). -/
  | vst (rx : Option (BitVec 3)) (m : BitVec 3) (g : BitVec 3) (a : BitVec 5) (d : BitVec 4)
  /-- VSTS (R239). -/
  | vsts (rx : Option (BitVec 3)) (i : BitVec 4) (m : BitVec 3) (g : BitVec 3) (a : BitVec 5) (d : BitVec 4)
  /-- VSCAT (R239). -/
  | vscat (rx : Option (BitVec 3)) (i : BitVec 4) (m : BitVec 3) (g : BitVec 3) (a : BitVec 5) (d : BitVec 4)
  /-- VIADD (R156). -/
  | viadd (t : BitVec 1) (l : BitVec 4) (m : BitVec 3) (b : BitVec 4) (a : BitVec 4) (d : BitVec 4)
  /-- VISUB (R156). -/
  | visub (t : BitVec 1) (l : BitVec 4) (m : BitVec 3) (b : BitVec 4) (a : BitVec 4) (d : BitVec 4)
  /-- VIMUL (R156). -/
  | vimul (t : BitVec 1) (l : BitVec 4) (m : BitVec 3) (b : BitVec 4) (a : BitVec 4) (d : BitVec 4)
  /-- VIMIN (R156). -/
  | vimin (t : BitVec 1) (l : BitVec 4) (m : BitVec 3) (b : BitVec 4) (a : BitVec 4) (d : BitVec 4)
  /-- VIMAX (R156). -/
  | vimax (t : BitVec 1) (l : BitVec 4) (m : BitVec 3) (b : BitVec 4) (a : BitVec 4) (d : BitVec 4)
  /-- VAND (R156). -/
  | vand (t : BitVec 1) (l : BitVec 4) (m : BitVec 3) (b : BitVec 4) (a : BitVec 4) (d : BitVec 4)
  /-- VOR (R156). -/
  | vor (t : BitVec 1) (l : BitVec 4) (m : BitVec 3) (b : BitVec 4) (a : BitVec 4) (d : BitVec 4)
  /-- VXOR (R156). -/
  | vxor (t : BitVec 1) (l : BitVec 4) (m : BitVec 3) (b : BitVec 4) (a : BitVec 4) (d : BitVec 4)
  /-- VSHL (R156). -/
  | vshl (t : BitVec 1) (l : BitVec 4) (m : BitVec 3) (b : BitVec 4) (a : BitVec 4) (d : BitVec 4)
  /-- VSHR (R156). -/
  | vshr (t : BitVec 1) (l : BitVec 4) (m : BitVec 3) (b : BitVec 4) (a : BitVec 4) (d : BitVec 4)
  /-- VSRA (R156). -/
  | vsra (t : BitVec 1) (l : BitVec 4) (m : BitVec 3) (b : BitVec 4) (a : BitVec 4) (d : BitVec 4)
  /-- VCMPEQ (R157). -/
  | vcmpeq (t : BitVec 2) (l : BitVec 4) (m : BitVec 3) (b : BitVec 4) (a : BitVec 4) (d : BitVec 3)
  /-- VCMPLT (R157). -/
  | vcmplt (t : BitVec 2) (l : BitVec 4) (m : BitVec 3) (b : BitVec 4) (a : BitVec 4) (d : BitVec 3)
  /-- VCMPLE (R157). -/
  | vcmple (t : BitVec 2) (l : BitVec 4) (m : BitVec 3) (b : BitVec 4) (a : BitVec 4) (d : BitVec 3)
  /-- VADD (R158). -/
  | vadd (t : BitVec 1) (l : BitVec 4) (m : BitVec 3) (b : BitVec 4) (a : BitVec 4) (d : BitVec 4)
  /-- VSUB (R158). -/
  | vsub (t : BitVec 1) (l : BitVec 4) (m : BitVec 3) (b : BitVec 4) (a : BitVec 4) (d : BitVec 4)
  /-- VMUL (R158). -/
  | vmul (t : BitVec 1) (l : BitVec 4) (m : BitVec 3) (b : BitVec 4) (a : BitVec 4) (d : BitVec 4)
  /-- VFMA (R158). -/
  | vfma (t : BitVec 1) (l : BitVec 4) (m : BitVec 3) (b : BitVec 4) (a : BitVec 4) (d : BitVec 4)
  /-- VFMS (R158). -/
  | vfms (t : BitVec 1) (l : BitVec 4) (m : BitVec 3) (b : BitVec 4) (a : BitVec 4) (d : BitVec 4)
  /-- VMIN (R158). -/
  | vmin (t : BitVec 1) (l : BitVec 4) (m : BitVec 3) (b : BitVec 4) (a : BitVec 4) (d : BitVec 4)
  /-- VMAX (R158). -/
  | vmax (t : BitVec 1) (l : BitVec 4) (m : BitVec 3) (b : BitVec 4) (a : BitVec 4) (d : BitVec 4)
  /-- VABS (R158). -/
  | vabs (t : BitVec 1) (l : BitVec 4) (m : BitVec 3) (a : BitVec 4) (d : BitVec 4)
  /-- VNEG (R158). -/
  | vneg (t : BitVec 1) (l : BitVec 4) (m : BitVec 3) (a : BitVec 4) (d : BitVec 4)
  /-- VRSQE (R159). -/
  | vrsqe (t : BitVec 1) (l : BitVec 4) (m : BitVec 3) (a : BitVec 4) (d : BitVec 4)
  /-- VRCPE (R159). -/
  | vrcpe (t : BitVec 1) (l : BitVec 4) (m : BitVec 3) (a : BitVec 4) (d : BitVec 4)
  /-- VEXP2E (R160). -/
  | vexp2e (t : BitVec 1) (l : BitVec 4) (m : BitVec 3) (a : BitVec 4) (d : BitVec 4)
  /-- VLOG2E (R161). -/
  | vlog2e (t : BitVec 1) (l : BitVec 4) (m : BitVec 3) (a : BitVec 4) (d : BitVec 4)
  /-- VCVT (R162). -/
  | vcvt (c : BitVec 5) (l : BitVec 4) (m : BitVec 3) (a : BitVec 4) (d : BitVec 4)
  /-- VQUANT (R165). -/
  | vquant (s : BitVec 1) (l : BitVec 4) (m : BitVec 3) (r : BitVec 1) (t : BitVec 2) (a : BitVec 4) (d : BitVec 4)
  /-- VDEQ (R166). -/
  | vdeq (s : BitVec 1) (l : BitVec 4) (m : BitVec 3) (h : BitVec 1) (a : BitVec 4) (d : BitVec 4)
  /-- MAND (R167). -/
  | mand (l : BitVec 4) (b : BitVec 3) (a : BitVec 3) (d : BitVec 3)
  /-- MOR (R167). -/
  | mor (l : BitVec 4) (b : BitVec 3) (a : BitVec 3) (d : BitVec 3)
  /-- MNOT (R167). -/
  | mnot (l : BitVec 4) (a : BitVec 3) (d : BitVec 3)
  /-- MPOP (R167). -/
  | mpop (d : BitVec 5) (l : BitVec 4) (b : BitVec 3)
  /-- VMOV (R168). -/
  | vmov (l : BitVec 4) (m : BitVec 3) (z : BitVec 2) (a : BitVec 4) (d : BitVec 4)
  /-- VBCAST (R168). -/
  | vbcast (a : BitVec 5) (l : BitVec 4) (m : BitVec 3) (z : BitVec 2) (d : BitVec 4)
  /-- VEXTR (R169). -/
  | vextr (w : BitVec 5) (l : BitVec 4) (e : BitVec 7) (b : BitVec 4)
  /-- VINS (R169). -/
  | vins (w : BitVec 5) (l : BitVec 4) (e : BitVec 7) (b : BitVec 4)
  /-- VPERM (R170). -/
  | vperm (z : BitVec 1) (l : BitVec 4) (m : BitVec 3) (b : BitVec 4) (a : BitVec 4) (d : BitVec 4)
  /-- VSLIDE (R171). -/
  | vslide (w : BitVec 5) (l : BitVec 4) (b : BitVec 4) (d : BitVec 4)
  /-- VSEL (R172). -/
  | vsel (z : BitVec 1) (l : BitVec 4) (m : BitVec 3) (b : BitVec 4) (a : BitVec 4) (d : BitVec 4)
  /-- VREDSUM (R173). -/
  | vredsum (w : BitVec 5) (l : BitVec 4) (m : BitVec 3) (b : BitVec 4) (t : BitVec 4)
  /-- VREDMAX (R173). -/
  | vredmax (w : BitVec 5) (l : BitVec 4) (m : BitVec 3) (b : BitVec 4) (t : BitVec 4)
  /-- VREDMIN (R173). -/
  | vredmin (w : BitVec 5) (l : BitVec 4) (m : BitVec 3) (b : BitVec 4) (t : BitVec 4)
  /-- MCFG (R187). -/
  | mcfg (l : BitVec 4) (b : BitVec 5) (t : BitVec 2)
  /-- MLOAD (R189). -/
  | mload (l : BitVec 4) (k : BitVec 3) (b : BitVec 5) (t : BitVec 2)
  /-- MSWAP (R190). -/
  | mswap (l : BitVec 4)
  /-- MSTEP (R191). -/
  | mstep (l : BitVec 4) (m : BitVec 3) (b : BitVec 5) (v : BitVec 4) (t : BitVec 2)
  /-- MZERO (R188). -/
  | mzero (l : BitVec 4) (t : BitVec 2)
  /-- MDRAIN (R192). -/
  | mdrain (l : BitVec 4) (r : BitVec 3) (f : BitVec 3) (b : BitVec 5) (v : BitVec 4) (t : BitVec 2)
  /-- MFLAGS (R194). -/
  | mflags (l : BitVec 4) (b : BitVec 5)
  /-- MSAVE (R196). -/
  | msave (l : BitVec 4) (k : BitVec 3) (b : BitVec 5) (t : BitVec 2)
  /-- MREST (R197). -/
  | mrest (l : BitVec 4) (k : BitVec 3) (b : BitVec 5) (t : BitVec 2)
  /-- TCOPY (R262). -/
  | tcopy (k : BitVec 6) (c : BitVec 1) (b : BitVec 5) (a : BitVec 5)
  /-- TGATH (R262). -/
  | tgath (k : BitVec 6) (c : BitVec 1) (b : BitVec 5) (a : BitVec 5)
  /-- TSCAT (R262). -/
  | tscat (k : BitVec 6) (c : BitVec 1) (b : BitVec 5) (a : BitVec 5)
  /-- TFILL (R262). -/
  | tfill (k : BitVec 6) (c : BitVec 1) (b : BitVec 5) (a : BitVec 5)
  /-- EGO (R263). -/
  | ego
  /-- ESTAT (R267). -/
  | estat (d : BitVec 5)
  /-- ECAN (R266). -/
  | ecan
  /-- SEMADD (R269). -/
  | semadd (k : BitVec 6) (a : BitVec 5)
  /-- SEMSET (R269). -/
  | semset (k : BitVec 6) (a : BitVec 5)
  /-- SEMRD (R269). -/
  | semrd (k : BitVec 6) (d : BitVec 5)
  /-- SEMWAIT (R269). -/
  | semwait (k : BitVec 6) (a : BitVec 5)
  /-- BAR (R347). -/
  | bar (k : BitVec 3)
  /-- BARAR (R347). -/
  | barar (k : BitVec 3) (d : BitVec 5)
  /-- BARWT (R347). -/
  | barwt (k : BitVec 3) (a : BitVec 5)
  /-- GRED (R349). -/
  | gred (o : BitVec 4) (a : BitVec 5) (d : BitVec 5)
  /-- SEND (R336). -/
  | send (b : BitVec 5) (a : BitVec 5) (d : BitVec 5)
  /-- SENDAM (R338). -/
  | sendam (b : BitVec 5) (a : BitVec 5) (d : BitVec 5)
  /-- SENDAM_R (R338). -/
  | sendamR (l : BitVec 4) (b : BitVec 5) (a : BitVec 5) (d : BitVec 5)
  /-- MBXST (R344). -/
  | mbxst (d : BitVec 5)
  /-- MBXST_CLR (R344). -/
  | mbxstClr (d : BitVec 5)
  /-- WAITF_ALL (R346). -/
  | waitfAll (b : BitVec 5) (d : BitVec 5)
  /-- WAITF_ANY (R346). -/
  | waitfAny (b : BitVec 5) (d : BitVec 5)
  /-- BACKOFF (R345). -/
  | backoff (d : BitVec 5)
  /-- TQPUSH (R352). -/
  | tqpush (k : BitVec 3) (b : BitVec 5) (a : BitVec 5) (d : BitVec 5)
  /-- TQDONE (R353). -/
  | tqdone (a : BitVec 5) (d : BitVec 5)
  /-- TQDONE_T (R353). -/
  | tqdoneT (a : BitVec 5) (d : BitVec 5)
  /-- SUCCOK (R354). -/
  | succok
  /-- WAITPRED (R354). -/
  | waitpred
  /-- YIELD (R355). -/
  | yield
  /-- EXIT (R356). -/
  | exit
  /-- COLLD (R278). -/
  | colld (k : BitVec 3) (b : BitVec 5) (a : BitVec 5)
  /-- COLRUN (R280). -/
  | colrun (k : BitVec 3) (a : BitVec 5)
  /-- COLWT (R281). -/
  | colwt (d : BitVec 5)
  /-- COLST (R281). -/
  | colst (d : BitVec 5)
  /-- COLST_ABORT (R281). -/
  | colstAbort (d : BitVec 5)
  /-- CRD (R408). -/
  | crd (i : BitVec 12) (d : BitVec 5)
  /-- CRD_STAT (R408). -/
  | crdStat (d : BitVec 5)
  /-- CRD_TIME (R225). -/
  | crdTime (d : BitVec 5)
  /-- CWR (R408). -/
  | cwr (i : BitVec 12) (a : BitVec 5)
  /-- CWR_STAT (R408). -/
  | cwrStat (a : BitVec 5)
  /-- CWR_TDP (R31). -/
  | cwrTdp (a : BitVec 5)
  /-- CWR_WP (R21). -/
  | cwrWp (a : BitVec 5)
  /-- CWR_VP (R21). -/
  | cwrVp (a : BitVec 5)
  /-- CWR_GTOFF (R227). -/
  | cwrGtoff (a : BitVec 5)
  /-- CWR_ROT (R17). -/
  | cwrRot (a : BitVec 5)
  /-- TRAP (R409). -/
  | trap (c : BitVec 10)
  /-- BRK (R409). -/
  | brk (c : BitVec 10)
  /-- HALT (R410). -/
  | halt
  /-- WFM (R411). -/
  | wfm (a : BitVec 5)
  /-- ERET (R412). -/
  | eret (b : BitVec 5) (a : BitVec 5)
  /-- RESUME (R413). -/
  | resume (a : BitVec 5)
  /-- PREEMPT (R414). -/
  | preempt (a : BitVec 5) (d : BitVec 5)
  /-- PREEMPT_DROP (R414). -/
  | preemptDrop (a : BitVec 5) (d : BitVec 5)
  /-- CTXLD (R416). -/
  | ctxld (b : BitVec 5) (a : BitVec 5)
  /-- CTXLD_TDP (R416). -/
  | ctxldTdp (b : BitVec 5) (a : BitVec 5)
  /-- TLBINV (R417). -/
  | tlbinv (b : BitVec 5) (a : BitVec 5)
  /-- TLBINV_ALL (R417). -/
  | tlbinvAll (b : BitVec 5) (a : BitVec 5)
  /-- SEGLD (R418). -/
  | segld (b : BitVec 5) (a : BitVec 5) (k : BitVec 3)
  /-- ROTSET (R419). -/
  | rotset (a : BitVec 5)
  /-- DSEND (R285). -/
  | dsend (buf : BitVec 3) (ch : BitVec 3) (qo : BitVec 4) (ce : BitVec 1) (cnt : BitVec 3) (len : BitVec 32)
  /-- DRECV (R285). -/
  | drecv (buf : BitVec 3) (ch : BitVec 3) (qo : BitVec 4) (ce : BitVec 1) (cnt : BitVec 3) (len : BitVec 32)
  /-- DCOPY (R285). -/
  | dcopy (buf : BitVec 3) (sbuf : BitVec 3) (qo : BitVec 4) (ce : BitVec 1) (cnt : BitVec 3) (qs : BitVec 4) (len : BitVec 32)
  /-- DRED (R288). -/
  | dred (buf : BitVec 3) (tree : BitVec 2) (qo : BitVec 4) (ce : BitVec 1) (cnt : BitVec 3) (op : BitVec 3) (len : BitVec 32)
  /-- DWAIT (R289). -/
  | dwait (n : BitVec 3) (tgt : BitVec 9) (tb : BitVec 1) (tmo : BitVec 14) (thr : BitVec 32)
  /-- DSIG (R290). -/
  | dsig (n : BitVec 3) (ch : BitVec 3) (amt : BitVec 32)
  /-- DSIG_LOC (R290). -/
  | dsigLoc (n : BitVec 3) (amt : BitVec 32)
  /-- DLOOP (R291). -/
  | dloop (qa : BitVec 4) (tgt : BitVec 9)
  /-- DLOOP_JMP (R291). -/
  | dloopJmp (tgt : BitVec 9)
  /-- DLOOP_BZ (R291). -/
  | dloopBz (qa : BitVec 4) (tgt : BitVec 9)
  /-- DLOOP_BNZ (R291). -/
  | dloopBnz (qa : BitVec 4) (tgt : BitVec 9)
  /-- DNEXT_ADD (R292). -/
  | dnextAdd (qa : BitVec 4) (imm : BitVec 32)
  /-- DNEXT_MOD (R292). -/
  | dnextMod (qa : BitVec 4) (qb : BitVec 4) (imm : BitVec 32)
  /-- DNEXT_SET (R292). -/
  | dnextSet (qa : BitVec 4) (imm : BitVec 32)
  /-- DNEXT_MOV (R292). -/
  | dnextMov (qa : BitVec 4) (qb : BitVec 4) (imm : BitVec 32)
  /-- DNEXT_MUL (R292). -/
  | dnextMul (qa : BitVec 4) (qb : BitVec 4) (imm : BitVec 32)
  /-- DNEXT_RNK (R292). -/
  | dnextRnk (qa : BitVec 4) (imm : BitVec 32)
  /-- DJOIN_SEND (R286). -/
  | djoinSend (ch : BitVec 3) (qp : BitVec 4) (rate : BitVec 16)
  /-- DJOIN_RECV (R286). -/
  | djoinRecv (ch : BitVec 3) (qp : BitVec 4) (rate : BitVec 16)
  /-- DJOIN_TREE (R287). -/
  | djoinTree (tree : BitVec 2) (qp : BitVec 4) (qc : BitVec 4) (mask : BitVec 4) (rate : BitVec 16)
  /-- DVER_RD (R293). -/
  | dverRd (qa : BitVec 4)
  /-- DVER_AGREE (R298). -/
  | dverAgree (qa : BitVec 4) (t : BitVec 12)
  /-- DBAR (R289). -/
  | dbar (tgt : BitVec 9) (tb : BitVec 1) (tmo : BitVec 14)
  /-- DHALT (R294). -/
  | dhalt (code : BitVec 7)
  /-- RESULT_FILL (R26). -/
  | resultFill (id : Nat)
  /-- ACCESS_PERFORMED_AT_HOME (R209). -/
  | accessPerformedAtHome (id : Nat) (part : Nat)
  /-- STORE_ACKNOWLEDGE (R209). -/
  | storeAcknowledge (id : Nat)
  /-- FLIT_INJECT (R322). -/
  | flitInject (id : Nat) (part : Nat)
  /-- EXCHANGE_INJECT (R324). -/
  | exchangeInject (id : Nat)
  /-- HBM_SERVICE_START (R326). -/
  | hbmServiceStart (id : Nat) (part : Nat)
  /-- HBM_SERVICE_DONE (R326). -/
  | hbmServiceDone (id : Nat) (part : Nat)
  /-- ICACHE_FILL (R437). -/
  | icacheFill (core : Nat)
  /-- TRANSLATION_WALK_DONE (R386). -/
  | translationWalkDone (id : Nat) (part : Nat)
  /-- PAGE_FAULT_WAKE (R405). -/
  | pageFaultWake (lea : Nat) (frame : Nat)
  /-- VECTOR_SERVE (R145). -/
  | vectorServe (core : Nat)
  /-- VECTOR_FILL (R146). -/
  | vectorFill (id : Nat)
  /-- BAY_ENTRY_PERFORM (R177). -/
  | bayEntryPerform (core : Nat)
  /-- BAY_ENTRY_EFFECT (R177). -/
  | bayEntryEffect (core : Nat)
  /-- PORT_TRANSFER_DONE (R189). -/
  | portTransferDone (core : Nat)
  /-- PORT_TRANSFER_FAULT (R200). -/
  | portTransferFault (core : Nat)
  /-- BANK_COMMAND_EXECUTE (R254). -/
  | bankCommandExecute (bank : Nat)
  /-- ENGINE_COMMAND_START (R263). -/
  | engineCommandStart (core : Nat)
  /-- ENGINE_WINDOW_COMMIT (R264). -/
  | engineWindowCommit (core : Nat)
  /-- ENGINE_PARK (R264). -/
  | enginePark (core : Nat)
  /-- ENGINE_RESTART (R264). -/
  | engineRestart (core : Nat)
  /-- ENGINE_INTERNAL_ERROR (R404). -/
  | engineInternalError (core : Nat)
  /-- REMOTE_ACCESS_ARRIVE (R246). -/
  | remoteAccessArrive (id : Nat)
  /-- REMOTE_COMPLETE (R219). -/
  | remoteComplete (id : Nat)
  /-- RSEM_ARRIVE (R247). -/
  | rsemArrive (id : Nat)
  /-- DEPOSIT_ARRIVE (R336). -/
  | depositArrive (id : Nat)
  /-- SEND_ACK (R336). -/
  | sendAck (id : Nat)
  /-- AM_ARRIVE (R339). -/
  | amArrive (id : Nat)
  /-- SENDAM_ACK (R338). -/
  | sendamAck (id : Nat)
  /-- SENDAM_REPLY (R342). -/
  | sendamReply (id : Nat)
  /-- HANDLER_START (R340). -/
  | handlerStart (core : Nat)
  /-- TRAP_RECORD_DELIVER (R400). -/
  | trapRecordDeliver (core : Nat) (place : Nat)
  /-- SLOT15_FAULT (R403). -/
  | slot15Fault (core : Nat)
  /-- BARRIER_ARRIVAL (R347). -/
  | barrierArrival (lea : Nat) (gid : Nat) (k : Nat) (rank : Nat)
  /-- BARRIER_COMPLETE (R347). -/
  | barrierComplete (lea : Nat) (gid : Nat) (k : Nat) (core : Nat)
  /-- GRED_CONTRIBUTION_ARRIVE (R350). -/
  | gredContributionArrive (lea : Nat) (gid : Nat) (round : Nat) (grank : Nat)
  /-- GRED_RESULT_DELIVER (R350). -/
  | gredResultDeliver (lea : Nat) (gid : Nat) (round : Nat) (rank : Nat)
  /-- THREAD_SWITCH (R31). -/
  | threadSwitch (core : Nat) (slot : Nat)
  /-- PREEMPT_SAVE_DONE (R414). -/
  | preemptSaveDone (core : Nat) (slot : Nat)
  /-- CTXLD_LOAD_DONE (R416). -/
  | ctxldLoadDone (core : Nat) (slot : Nat)
  /-- EXIT_COMPLETE (R356). -/
  | exitComplete (core : Nat) (slot : Nat)
  /-- TLBINV_COMPLETE (R417). -/
  | tlbinvComplete (core : Nat) (slot : Nat)
  /-- ROT_APPLY (R17). -/
  | rotApply (core : Nat)
  /-- YIELD_END (R355). -/
  | yieldEnd (core : Nat) (slot : Nat)
  /-- BACKOFF_EXPIRE (R345). -/
  | backoffExpire (core : Nat) (slot : Nat)
  /-- WFM_EXPIRE (R411). -/
  | wfmExpire (core : Nat) (slot : Nat)
  /-- HOST_ENQUEUE (R317). -/
  | hostEnqueue (lea : Nat) (queue : Nat) (pkt : List Word)
  /-- TQPUSH_ARRIVE (R352). -/
  | tqpushArrive (id : Nat)
  /-- TQPUSH_ACK (R352). -/
  | tqpushAck (id : Nat)
  /-- DISPATCH_PASS (R318). -/
  | dispatchPass (lea : Nat)
  /-- TASK_RETIRE (R320). -/
  | taskRetire (lea : Nat) (gid : Nat)
  /-- WATCHDOG_TIDE (R328). -/
  | watchdogTide (lea : Nat) (gid : Nat)
  /-- WATCHDOG_EXPIRE (R328). -/
  | watchdogExpire (lea : Nat) (gid : Nat)
  /-- GTOFF_APPLY (R227). -/
  | gtoffApply (lea : Nat)
  /-- ISLAND_CLOCK_CHANGE (R329). -/
  | islandClockChange (island : Nat) (clock : IslandClock)
  /-- DEBT_ACCRUE (R330). -/
  | debtAccrue (lea : Nat) (core : Nat)
  /-- SLICE_START (R330). -/
  | sliceStart (core : Nat)
  /-- HANDOVER_STOP (R378). -/
  | handoverStop (core : Nat) (slot : Nat)
  /-- SETTLE_END (R378). -/
  | settleEnd (core : Nat) (slot : Nat)
  /-- SLOT_SAVE_DONE (R378). -/
  | slotSaveDone (core : Nat) (slot : Nat)
  /-- SLOT_RESTORE_DONE (R378). -/
  | slotRestoreDone (core : Nat) (slot : Nat)
  /-- POOL_PHASE_DONE (R378). -/
  | poolPhaseDone (core : Nat)
  /-- LATE_RESULT_TO_SAVE_AREA (R380). -/
  | lateResultToSaveArea (id : Nat)
  /-- CIRCUIT_REQUEST_ARRIVE (R325). -/
  | circuitRequestArrive (core : Nat)
  /-- CIRCUIT_DECIDE (R325). -/
  | circuitDecide (id : Nat)
  /-- CIRCUIT_SWITCH (R325). -/
  | circuitSwitch (id : Nat)
  /-- DORENT_OP_COMPLETE (R283). -/
  | dorentOpComplete (core : Nat) (op : Nat)
  /-- DSIG_ARRIVE (R290). -/
  | dsigArrive (core : Nat) (op : Nat)
  /-- REDUCTION_SLOT_COMBINE (R296). -/
  | reductionSlotCombine (core : Nat) (tree : Nat)
  /-- DORENT_TIMEOUT (R289). -/
  | dorentTimeout (core : Nat)
  /-- DJOIN_TIMEOUT (R286). -/
  | djoinTimeout (core : Nat)
  /-- DBAR_COMPLETE (R289). -/
  | dbarComplete (lea : Nat) (gid : Nat)
  /-- CLOSING_BARRIER_DONE (R294). -/
  | closingBarrierDone (lea : Nat) (gid : Nat)
  /-- CLOSING_BARRIER_TIMEOUT (R294). -/
  | closingBarrierTimeout (core : Nat)
  /-- COLLD_COPY_DONE (R278). -/
  | colldCopyDone (core : Nat)
  /-- DORENT_PARK (R301). -/
  | dorentPark (core : Nat)
  /-- AGREE_VOTE_ARRIVE (R299). -/
  | agreeVoteArrive (core : Nat)
  /-- AGREE_DEADLINE (R299). -/
  | agreeDeadline (core : Nat)
  /-- AGREE_DECISION_ARRIVE (R299). -/
  | agreeDecisionArrive (core : Nat)
  /-- AGREE_INSTALL (R299). -/
  | agreeInstall (core : Nat)
  /-- AGREE_NO_DECISION (R299). -/
  | agreeNoDecision (core : Nat)
  /-- CATCH_UP_RECORD (R297). -/
  | catchUpRecord (core : Nat) (peer : Nat)
  /-- LINK_REPLAY (R223). -/
  | linkReplay (link : Nat)
  /-- UNCORRECTABLE_ERROR (R421). -/
  | uncorrectableError (site : ErrorSite)
  /-- PATROL_SCRUB (R424). -/
  | patrolScrub (addr : Nat)
  /-- DIE_RESET (R425). -/
  | dieReset (die : Nat)
  /-- DIE_RESET_LOGIC (R425). -/
  | dieResetLogic (die : Nat)
  /-- DIE_SCRUB (R425). -/
  | dieScrub (die : Nat)
  /-- DIE_REJOIN (R425). -/
  | dieRejoin (die : Nat)
  /-- UNIT_FENCE (R428). -/
  | unitFence (u : PhysUnit)
  /-- FATAL_ERROR (R429). -/
  | fatalError (reason : FatalReason)
  /-- MODULE_RESET (R429). -/
  | moduleReset
  /-- SECURE_BOOT (R431). -/
  | secureBoot (img : BootImage)
  /-- LEA_CREATE (R440). -/
  | leaCreate (req : LeaRequest)
  /-- LEA_DESTROY (R370). -/
  | leaDestroy (lea : Nat)
  /-- SLICE_SCHEDULE_SET (R377). -/
  | sliceScheduleSet (core : Nat) (sched : List (Nat × Nat))
  /-- DISPATCH_TEMPLATE_INSTALL (R319). -/
  | dispatchTemplateInstall (lea : Nat) (slot : Nat) (tmpl : Template)
  /-- STAGE2_CHANGE (R389). -/
  | stage2Change (lea : Nat) (frame : Nat) (entry : Word)
  /-- KEY_ASSIGN (R391). -/
  | keyAssign (lea : Nat) (key : Nat)
  /-- FRAME_REBIND (R391). -/
  | frameRebind (frame : Nat) (key : Option Nat)
  /-- WDLIM_SET (R328). -/
  | wdlimSet (lea : Nat) (limit : Nat)
  /-- GROUP_CREATE (R276). -/
  | groupCreate (lea : Nat) (gid : Nat) (members : List Nat) (candidates : List Nat) (nsr : Bool)
  /-- SPDM_REQUEST (R395). -/
  | spdmRequest (req : SpdmRequest)
  /-- IDE_KM (R394). -/
  | ideKm (stream : Nat) (req : IdeRequest)
  /-- DEBUG_UNLOCK (R396). -/
  | debugUnlock (lea : Nat) (digest : Nat)
  /-- DEBUG_ACCESS (R396). -/
  | debugAccess (acc : DebugOp)
  /-- DEBUG_STOP (R397). -/
  | debugStop
  /-- DEBUG_RESUME (R397). -/
  | debugResume
  /-- DEBUG_BRKCAP (R397). -/
  | debugBrkcap (on : Bool)
  /-- DEBUG_ADDRESS_MATCH_SET (R397). -/
  | debugAddressMatchSet (k : Nat) (addr : Word) (valid : Bool)
  /-- ADDRESS_MATCH_HALT (R397). -/
  | addressMatchHalt
  /-- DEBUG_SESSION_END (R396). -/
  | debugSessionEnd
  /-- DECODE_TRAP (R48). -/
  | decodeTrap (cause : BitVec 8) (bits : BitVec 64) (ilen : BitVec 2)
  /-- INSTRUCTION_FETCH (R437). -/
  | instructionFetch
  /-- DORENT_DECODE_FAULT (R282). -/
  | dorentDecodeFault (err : BitVec 8)
  /-- HOST_MEMORY_ACCESS (R393). -/
  | hostMemoryAccess (lea : Nat) (gpa : Nat) (op : HostOp)
  /-- QUEUE_DISABLE (R334). -/
  | queueDisable (lea : Nat) (queue : Nat) (off : Bool)
  /-- LEA_MIGRATION (R227). -/
  | leaMigration (lea : Nat) (paused : Nat) (gtoff : Word)
  /-- KEY_IDENTIFIER_REMOVE (R391). -/
  | keyIdentifierRemove (lea : Nat) (key : Nat)
  deriving DecidableEq, Repr

end Sys2Proof
end

