-- ==== Sys2Proof/WellFormed.lean ====
section
/-! DEFINITION. Well-formedness: the values an instruction's fields may hold. A core instruction whose field holds a
reserved value traps with cause 0x02 when it is decoded (R49); a Dorent instruction fails with 0x02 (R282). -/

namespace Sys2Proof

/-- A rounding code of R133 that selects a mode. -/
def roundCodeOk (r : BitVec 3) : Bool := r == 0 || r.getLsbD 2

/-- A scope code of R53 that is not reserved. -/
def scopeOk (s : BitVec 3) : Bool := decide (s.toNat < 6)

/-- A scope that a prefix or FENCE may name: not bank (R213, R244). -/
def scopeFenceOk (s : BitVec 3) : Bool := decide (s.toNat < 5)

/-- A prefix's scope, where there is one. -/
def rxOk : Option (BitVec 3) → Bool
  | none => true
  | some s => scopeFenceOk s

/-- A rate of R286. -/
def rateOk (r : BitVec 16) : Bool := decide (r.toNat ≤ 4080)

/-- The reserved field values of every instruction (R49 and the rule named in each line's comment). VCVT may have a mask at every
conversion, those with an 8-bit side as well: R154 lists its m as governing, and R149's trap is read as that of other instructions
(log 101). -/
def Instr.wellFormed : Instr → Bool
  -- R58
  | .cmpi c _ _ _ => decide (c.toNat < 6)
  -- R123
  | .sgrd f _ _ => f != 3
  -- R127
  | .callr _ f => decide (8 ≤ f.toNat ∧ f.toNat ≤ 24)
  | .call _ f => decide (8 ≤ f.toNat ∧ f.toNat ≤ 24)
  -- R133
  | .fadd _ r _ _ _ => roundCodeOk r
  | .fsub _ r _ _ _ => roundCodeOk r
  | .fmul _ r _ _ _ => roundCodeOk r
  | .fma _ r _ _ _ => roundCodeOk r
  | .fms _ r _ _ _ => roundCodeOk r
  | .fnma _ r _ _ _ => roundCodeOk r
  | .frsqe _ r _ _ => roundCodeOk r
  | .frcpe _ r _ _ => roundCodeOk r
  -- R141
  | .fcvt _ r t m _ _ => roundCodeOk r && m != 7 && !(t == 1 && m == 6)
  -- R142
  | .fcvti _ r n _ _ => roundCodeOk r && decide (n.toNat < 4)
  | .icvtf _ r n _ _ => roundCodeOk r && decide (n.toNat < 4)
  -- R66, R244
  | .ldd16 rx _ _ _ _ => rxOk rx
  | .std16 rx _ _ _ _ => rxOk rx
  | .ldb rx _ _ _ _ _ => rxOk rx
  | .ldh rx _ _ _ _ _ => rxOk rx
  | .ldw rx _ _ _ _ _ => rxOk rx
  | .ldd rx _ _ _ _ _ => rxOk rx
  | .stb rx _ _ _ _ => rxOk rx
  | .sth rx _ _ _ _ => rxOk rx
  | .stw rx _ _ _ _ => rxOk rx
  | .std rx _ _ _ _ => rxOk rx
  | .ldbu rx _ _ _ _ => rxOk rx
  | .ldhu rx _ _ _ _ => rxOk rx
  | .ldwu rx _ _ _ _ => rxOk rx
  | .ldbIdx rx _ _ _ _ _ => rxOk rx
  | .ldbuIdx rx _ _ _ _ _ => rxOk rx
  | .ldhIdx rx _ _ _ _ _ => rxOk rx
  | .ldhuIdx rx _ _ _ _ _ => rxOk rx
  | .ldwIdx rx _ _ _ _ _ => rxOk rx
  | .ldwuIdx rx _ _ _ _ _ => rxOk rx
  | .lddIdx rx _ _ _ _ _ => rxOk rx
  | .stbIdx rx _ _ _ _ => rxOk rx
  | .sthIdx rx _ _ _ _ => rxOk rx
  | .stwIdx rx _ _ _ _ => rxOk rx
  | .stdIdx rx _ _ _ _ => rxOk rx
  | .amoadd rx _ _ _ _ _ => rxOk rx
  | .amoand rx _ _ _ _ _ => rxOk rx
  | .amoor rx _ _ _ _ _ => rxOk rx
  | .amoxor rx _ _ _ _ _ => rxOk rx
  | .amomin rx _ _ _ _ _ => rxOk rx
  | .amomax rx _ _ _ _ _ => rxOk rx
  | .amoswp rx _ _ _ _ _ => rxOk rx
  | .amocas rx _ _ _ _ _ => rxOk rx
  | .amofaddS rx _ _ _ _ _ => rxOk rx
  | .amofaddD rx _ _ _ _ _ => rxOk rx
  | .vld rx _ _ _ _ _ => rxOk rx
  | .vlds rx _ _ _ _ _ _ => rxOk rx
  | .vgath rx _ _ _ _ _ _ => rxOk rx
  | .vst rx _ _ _ _ => rxOk rx
  | .vsts rx _ _ _ _ _ => rxOk rx
  | .vscat rx _ _ _ _ _ => rxOk rx
  -- R59, R232
  | .lduAcq _ z _ _ _ => z != 3
  -- R245, R246
  | .get _ e k _ _ _ => e == 1 || k == 0
  | .put _ e k _ _ _ => e == 1 || k == 0
  | .ramo _ o _ _ _ => decide (o.toNat ≤ 9) && o != 7
  -- R243
  | .fence k s => k != 0 && scopeFenceOk s
  | .fenceb s => scopeOk s
  -- R162, R166, R149, R169, R172, R154
  | .vcvt c _ _ _ _ => decide (c.toNat < 0x1B)
  | .vdeq s _ _ h _ _ => !(h == 1 && s == 1)
  | .vmov _ m z _ _ => !(z == 3 && m != 0)
  | .vbcast _ _ m z _ => !(z == 3 && m != 0)
  | .vextr _ _ e _ => decide (e.toNat < 0x60)
  | .vins _ _ e _ => decide (e.toNat < 0x60)
  | .vsel _ _ m _ _ _ => m != 0
  | .vredsum _ _ _ _ t => decide (t.toNat < 3)
  | .vredmax _ _ _ _ t => decide (t.toNat < 3)
  | .vredmin _ _ _ _ t => decide (t.toNat < 3)
  -- R192
  | .mdrain _ r f _ _ _ => roundCodeOk r && decide (f.toNat < 5)
  -- R262: with CNT = 0, k is RES0
  | .tcopy k c _ _ => c == 1 || k == 0
  | .tgath k c _ _ => c == 1 || k == 0
  | .tscat k c _ _ => c == 1 || k == 0
  | .tfill k c _ _ => c == 1 || k == 0
  -- R349
  | .gred o _ _ => decide (o.toNat < 12)
  -- R332
  | .sendam b _ _ => decide (b.toNat < 29)
  | .sendamR _ b _ _ => decide (b.toNat < 29)
  -- the table gives these indices rows of their own
  | .crd i _ => i != 0 && i != 0x030
  | .cwr i _ => i != 0 && i != 0x004 && i != 0x005 && i != 0x006 && i != 0x031 && i != 0x060
  -- R286, R287, R288, R293, R298
  | .djoinSend _ _ r => rateOk r
  | .djoinRecv _ _ r => rateOk r
  | .djoinTree _ _ qc _ r => rateOk r && decide (qc.toNat + 3 ≤ 15)
  | .dred _ _ _ _ _ op _ => decide (op.toNat < 3)
  | .dverRd qa => decide (qa.toNat ≤ 13)
  | .dverAgree qa t => decide (qa.toNat ≤ 12) && t != 0
  | _ => true

end Sys2Proof
end

