-- ==== Sys2Proof/Decode.lean ====
section
/-! DEFINITION. The decoder, total on any bytes and rejecting by the cause of R48, and the encoder, from the encoding
tables of R50-R60, R110-R142, R154, R186, R232-R262, R277, R332, R407 and R282. -/

namespace Sys2Proof

/-- What a decoder reads from one unit: an instruction, a rejection with its cause, or an RX prefix with its scope. -/
inductive UnitDec where
  | ok (i : Instr)
  | bad (cause : BitVec 8)
  | rx (scope : BitVec 3)
  deriving DecidableEq, Repr

/-- The instruction, where its RES0 fields are zero and its operand values are not reserved (R48, R49). -/
def chk (z : Bool) (i : Instr) : UnitDec := if z && i.wellFormed then .ok i else .bad 0x02

/-- The same for a Dorent word (R282). -/
def chkD (z : Bool) (i : Instr) : UnitDec := chk z i

/-- Major 0x00: integer register-register (R56, R57). -/
def maj00 (w : BitVec 32) : UnitDec :=
  match (w.extractLsb' 22 5).toNat with
  | 0x0 => chk ((w.extractLsb' 27 5 : BitVec 5) == 0) (.add (w.extractLsb' 17 5) (w.extractLsb' 12 5) (w.extractLsb' 7 5))
  | 0x1 => chk ((w.extractLsb' 27 5 : BitVec 5) == 0) (.sub (w.extractLsb' 17 5) (w.extractLsb' 12 5) (w.extractLsb' 7 5))
  | 0x2 => chk ((w.extractLsb' 27 5 : BitVec 5) == 0) (.mul (w.extractLsb' 17 5) (w.extractLsb' 12 5) (w.extractLsb' 7 5))
  | 0x3 => chk ((w.extractLsb' 27 5 : BitVec 5) == 0) (.mulh (w.extractLsb' 17 5) (w.extractLsb' 12 5) (w.extractLsb' 7 5))
  | 0x4 => chk ((w.extractLsb' 27 5 : BitVec 5) == 0) (.mulhu (w.extractLsb' 17 5) (w.extractLsb' 12 5) (w.extractLsb' 7 5))
  | 0x5 => chk ((w.extractLsb' 31 1 : BitVec 1) == 0) (.div (w.extractLsb' 27 4) (w.extractLsb' 17 5) (w.extractLsb' 12 5) (w.extractLsb' 7 5))
  | 0x6 => chk ((w.extractLsb' 31 1 : BitVec 1) == 0) (.divu (w.extractLsb' 27 4) (w.extractLsb' 17 5) (w.extractLsb' 12 5) (w.extractLsb' 7 5))
  | 0x7 => chk ((w.extractLsb' 31 1 : BitVec 1) == 0) (.rem (w.extractLsb' 27 4) (w.extractLsb' 17 5) (w.extractLsb' 12 5) (w.extractLsb' 7 5))
  | 0x8 => chk ((w.extractLsb' 31 1 : BitVec 1) == 0) (.remu (w.extractLsb' 27 4) (w.extractLsb' 17 5) (w.extractLsb' 12 5) (w.extractLsb' 7 5))
  | 0x9 => chk ((w.extractLsb' 27 5 : BitVec 5) == 0) (.and (w.extractLsb' 17 5) (w.extractLsb' 12 5) (w.extractLsb' 7 5))
  | 0xA => chk ((w.extractLsb' 27 5 : BitVec 5) == 0) (.or (w.extractLsb' 17 5) (w.extractLsb' 12 5) (w.extractLsb' 7 5))
  | 0xB => chk ((w.extractLsb' 27 5 : BitVec 5) == 0) (.xor (w.extractLsb' 17 5) (w.extractLsb' 12 5) (w.extractLsb' 7 5))
  | 0xC => chk ((w.extractLsb' 27 5 : BitVec 5) == 0) (.andn (w.extractLsb' 17 5) (w.extractLsb' 12 5) (w.extractLsb' 7 5))
  | 0xD => chk ((w.extractLsb' 27 5 : BitVec 5) == 0) (.orn (w.extractLsb' 17 5) (w.extractLsb' 12 5) (w.extractLsb' 7 5))
  | 0xE => chk ((w.extractLsb' 27 5 : BitVec 5) == 0) (.shl (w.extractLsb' 17 5) (w.extractLsb' 12 5) (w.extractLsb' 7 5))
  | 0xF => chk ((w.extractLsb' 27 5 : BitVec 5) == 0) (.shr (w.extractLsb' 17 5) (w.extractLsb' 12 5) (w.extractLsb' 7 5))
  | 0x10 => chk ((w.extractLsb' 27 5 : BitVec 5) == 0) (.sra (w.extractLsb' 17 5) (w.extractLsb' 12 5) (w.extractLsb' 7 5))
  | 0x11 => chk ((w.extractLsb' 27 5 : BitVec 5) == 0) (.ror (w.extractLsb' 17 5) (w.extractLsb' 12 5) (w.extractLsb' 7 5))
  | 0x12 => chk ((w.extractLsb' 27 5 : BitVec 5) == 0) (.min (w.extractLsb' 17 5) (w.extractLsb' 12 5) (w.extractLsb' 7 5))
  | 0x13 => chk ((w.extractLsb' 27 5 : BitVec 5) == 0) (.max (w.extractLsb' 17 5) (w.extractLsb' 12 5) (w.extractLsb' 7 5))
  | 0x14 => chk ((w.extractLsb' 27 5 : BitVec 5) == 0) (.minu (w.extractLsb' 17 5) (w.extractLsb' 12 5) (w.extractLsb' 7 5))
  | 0x15 => chk ((w.extractLsb' 27 5 : BitVec 5) == 0) (.maxu (w.extractLsb' 17 5) (w.extractLsb' 12 5) (w.extractLsb' 7 5))
  | 0x16 => chk ((w.extractLsb' 27 5 : BitVec 5) == 0) (.cmpeq (w.extractLsb' 17 5) (w.extractLsb' 12 5) (w.extractLsb' 7 5))
  | 0x17 => chk ((w.extractLsb' 27 5 : BitVec 5) == 0) (.cmplt (w.extractLsb' 17 5) (w.extractLsb' 12 5) (w.extractLsb' 7 5))
  | 0x18 => chk ((w.extractLsb' 27 5 : BitVec 5) == 0) (.cmpltu (w.extractLsb' 17 5) (w.extractLsb' 12 5) (w.extractLsb' 7 5))
  | 0x19 => chk ((w.extractLsb' 31 1 : BitVec 1) == 0) (.sel (w.extractLsb' 27 4) (w.extractLsb' 17 5) (w.extractLsb' 12 5) (w.extractLsb' 7 5))
  | 0x1A => chk ((w.extractLsb' 27 5 : BitVec 5) == 0) (.extr (w.extractLsb' 17 5) (w.extractLsb' 12 5) (w.extractLsb' 7 5))
  | 0x1B => chk ((w.extractLsb' 27 5 : BitVec 5) == 0) (.insb (w.extractLsb' 17 5) (w.extractLsb' 12 5) (w.extractLsb' 7 5))
  | 0x1C =>
    match (w.extractLsb' 17 5).toNat with
    | 0 => chk ((w.extractLsb' 27 5 : BitVec 5) == 0) (.clz (w.extractLsb' 12 5) (w.extractLsb' 7 5))
    | 1 => chk ((w.extractLsb' 27 5 : BitVec 5) == 0) (.ctz (w.extractLsb' 12 5) (w.extractLsb' 7 5))
    | 2 => chk ((w.extractLsb' 27 5 : BitVec 5) == 0) (.popc (w.extractLsb' 12 5) (w.extractLsb' 7 5))
    | 3 => chk ((w.extractLsb' 27 5 : BitVec 5) == 0) (.brev (w.extractLsb' 12 5) (w.extractLsb' 7 5))
    | 4 => chk ((w.extractLsb' 27 5 : BitVec 5) == 0) (.bswap (w.extractLsb' 12 5) (w.extractLsb' 7 5))
    | _ => .bad 0x01
  | _ => .bad 0x01

/-- Major 0x01: integer immediate (R56, R57). -/
def maj01 (w : BitVec 32) : UnitDec :=
  match (w.extractLsb' 17 3).toNat with
  | 0x0 => chk true (.addi (w.extractLsb' 20 12) (w.extractLsb' 12 5) (w.extractLsb' 7 5))
  | 0x1 => chk true (.movi (w.extractLsb' 20 12 ++ w.extractLsb' 12 5) (w.extractLsb' 7 5))
  | 0x2 => chk ((w.extractLsb' 26 6 : BitVec 6) == 0) (.shli (w.extractLsb' 20 6) (w.extractLsb' 12 5) (w.extractLsb' 7 5))
  | 0x3 => chk ((w.extractLsb' 26 6 : BitVec 6) == 0) (.shri (w.extractLsb' 20 6) (w.extractLsb' 12 5) (w.extractLsb' 7 5))
  | 0x4 => chk ((w.extractLsb' 26 6 : BitVec 6) == 0) (.srai (w.extractLsb' 20 6) (w.extractLsb' 12 5) (w.extractLsb' 7 5))
  | 0x5 => if w.extractLsb' 30 2 == 3 then .bad 0x01 else chk true (.cmpi (w.extractLsb' 29 3) (w.extractLsb' 20 9) (w.extractLsb' 12 5) (w.extractLsb' 7 5))
  | _ => .bad 0x01

/-- Major 0x02: address and immediate (R56, R57). -/
def maj02 (w : BitVec 32) : UnitDec :=
  match (w.extractLsb' 17 3).toNat with
  | 0x0 => chk ((w.extractLsb' 31 1 : BitVec 1) == 0) (.lih (w.extractLsb' 20 11 ++ w.extractLsb' 12 5) (w.extractLsb' 7 5))
  | 0x1 => chk true (.lea (w.extractLsb' 29 3) (w.extractLsb' 20 9) (w.extractLsb' 12 5) (w.extractLsb' 7 5))
  | 0x2 => chk true (.mapr (w.extractLsb' 29 3) (w.extractLsb' 20 9) (w.extractLsb' 12 5) (w.extractLsb' 7 5))
  | 0x3 => chk true (.addpc (w.extractLsb' 20 12 ++ w.extractLsb' 12 5) (w.extractLsb' 7 5))
  | 0x4 => chk ((w.extractLsb' 20 12 : BitVec 12) == 0) (.sgrd (w.extractLsb' 15 2) (w.extractLsb' 12 3) (w.extractLsb' 7 5))
  | _ => .bad 0x01

/-- Major 0x03: scalar FP (R56, R57). -/
def maj03 (w : BitVec 32) : UnitDec :=
  match (w.extractLsb' 22 5).toNat with
  | 0x0 => chk ((w.extractLsb' 27 1 : BitVec 1) == 0) (.fadd (w.extractLsb' 31 1) (w.extractLsb' 28 3) (w.extractLsb' 17 5) (w.extractLsb' 12 5) (w.extractLsb' 7 5))
  | 0x1 => chk ((w.extractLsb' 27 1 : BitVec 1) == 0) (.fsub (w.extractLsb' 31 1) (w.extractLsb' 28 3) (w.extractLsb' 17 5) (w.extractLsb' 12 5) (w.extractLsb' 7 5))
  | 0x2 => chk ((w.extractLsb' 27 1 : BitVec 1) == 0) (.fmul (w.extractLsb' 31 1) (w.extractLsb' 28 3) (w.extractLsb' 17 5) (w.extractLsb' 12 5) (w.extractLsb' 7 5))
  | 0x3 => chk ((w.extractLsb' 27 1 : BitVec 1) == 0) (.fma (w.extractLsb' 31 1) (w.extractLsb' 28 3) (w.extractLsb' 17 5) (w.extractLsb' 12 5) (w.extractLsb' 7 5))
  | 0x4 => chk ((w.extractLsb' 27 1 : BitVec 1) == 0) (.fms (w.extractLsb' 31 1) (w.extractLsb' 28 3) (w.extractLsb' 17 5) (w.extractLsb' 12 5) (w.extractLsb' 7 5))
  | 0x5 => chk ((w.extractLsb' 27 1 : BitVec 1) == 0) (.fnma (w.extractLsb' 31 1) (w.extractLsb' 28 3) (w.extractLsb' 17 5) (w.extractLsb' 12 5) (w.extractLsb' 7 5))
  | 0x6 => chk true (.fdiv (w.extractLsb' 31 1) (w.extractLsb' 27 4) (w.extractLsb' 17 5) (w.extractLsb' 12 5) (w.extractLsb' 7 5))
  | 0x7 => chk ((w.extractLsb' 17 5 : BitVec 5) == 0) (.fsqrt (w.extractLsb' 31 1) (w.extractLsb' 27 4) (w.extractLsb' 12 5) (w.extractLsb' 7 5))
  | 0x8 => chk ((w.extractLsb' 27 1 ++ w.extractLsb' 17 5 : BitVec 6) == 0) (.frsqe (w.extractLsb' 31 1) (w.extractLsb' 28 3) (w.extractLsb' 12 5) (w.extractLsb' 7 5))
  | 0x9 => chk ((w.extractLsb' 27 1 ++ w.extractLsb' 17 5 : BitVec 6) == 0) (.frcpe (w.extractLsb' 31 1) (w.extractLsb' 28 3) (w.extractLsb' 12 5) (w.extractLsb' 7 5))
  | 0xA => chk ((w.extractLsb' 27 4 : BitVec 4) == 0) (.fmin (w.extractLsb' 31 1) (w.extractLsb' 17 5) (w.extractLsb' 12 5) (w.extractLsb' 7 5))
  | 0xB => chk ((w.extractLsb' 27 4 : BitVec 4) == 0) (.fmax (w.extractLsb' 31 1) (w.extractLsb' 17 5) (w.extractLsb' 12 5) (w.extractLsb' 7 5))
  | 0xC => chk ((w.extractLsb' 27 4 : BitVec 4) == 0) (.fcmpeq (w.extractLsb' 31 1) (w.extractLsb' 17 5) (w.extractLsb' 12 5) (w.extractLsb' 7 5))
  | 0xD => chk ((w.extractLsb' 27 4 : BitVec 4) == 0) (.fcmplt (w.extractLsb' 31 1) (w.extractLsb' 17 5) (w.extractLsb' 12 5) (w.extractLsb' 7 5))
  | 0xE => chk ((w.extractLsb' 27 4 : BitVec 4) == 0) (.fcmple (w.extractLsb' 31 1) (w.extractLsb' 17 5) (w.extractLsb' 12 5) (w.extractLsb' 7 5))
  | 0xF => chk ((w.extractLsb' 27 4 ++ w.extractLsb' 17 5 : BitVec 9) == 0) (.fclass (w.extractLsb' 31 1) (w.extractLsb' 12 5) (w.extractLsb' 7 5))
  | 0x10 => chk ((w.extractLsb' 27 1 ++ w.extractLsb' 20 1 : BitVec 2) == 0) (.fcvt (w.extractLsb' 31 1) (w.extractLsb' 28 3) (w.extractLsb' 21 1) (w.extractLsb' 17 3) (w.extractLsb' 12 5) (w.extractLsb' 7 5))
  | 0x11 => chk ((w.extractLsb' 27 1 ++ w.extractLsb' 20 2 : BitVec 3) == 0) (.fcvti (w.extractLsb' 31 1) (w.extractLsb' 28 3) (w.extractLsb' 17 3) (w.extractLsb' 12 5) (w.extractLsb' 7 5))
  | 0x12 => chk ((w.extractLsb' 27 1 ++ w.extractLsb' 20 2 : BitVec 3) == 0) (.icvtf (w.extractLsb' 31 1) (w.extractLsb' 28 3) (w.extractLsb' 17 3) (w.extractLsb' 12 5) (w.extractLsb' 7 5))
  | 0x13 => chk ((w.extractLsb' 27 4 ++ w.extractLsb' 17 5 : BitVec 9) == 0) (.fabs (w.extractLsb' 31 1) (w.extractLsb' 12 5) (w.extractLsb' 7 5))
  | 0x14 => chk ((w.extractLsb' 27 4 ++ w.extractLsb' 17 5 : BitVec 9) == 0) (.fneg (w.extractLsb' 31 1) (w.extractLsb' 12 5) (w.extractLsb' 7 5))
  | 0x15 => chk ((w.extractLsb' 27 4 : BitVec 4) == 0) (.fsgnj (w.extractLsb' 31 1) (w.extractLsb' 17 5) (w.extractLsb' 12 5) (w.extractLsb' 7 5))
  | _ => .bad 0x01

/-- Major 0x04: loads (R56, R57). -/
def maj04 (w : BitVec 32) : UnitDec :=
  match (w.extractLsb' 20 2).toNat with
  | 0x0 => chk true (.ldb none (w.extractLsb' 26 6) (w.extractLsb' 22 4) (w.extractLsb' 17 3) (w.extractLsb' 12 5) (w.extractLsb' 7 5))
  | 0x1 => chk true (.ldh none (w.extractLsb' 26 6) (w.extractLsb' 22 4) (w.extractLsb' 17 3) (w.extractLsb' 12 5) (w.extractLsb' 7 5))
  | 0x2 => chk true (.ldw none (w.extractLsb' 26 6) (w.extractLsb' 22 4) (w.extractLsb' 17 3) (w.extractLsb' 12 5) (w.extractLsb' 7 5))
  | _ => chk true (.ldd none (w.extractLsb' 26 6) (w.extractLsb' 22 4) (w.extractLsb' 17 3) (w.extractLsb' 12 5) (w.extractLsb' 7 5))

/-- Major 0x05: stores (R56, R57). -/
def maj05 (w : BitVec 32) : UnitDec :=
  match (w.extractLsb' 20 2).toNat with
  | 0x0 => chk ((w.extractLsb' 22 4 : BitVec 4) == 0) (.stb none (w.extractLsb' 26 6) (w.extractLsb' 17 3) (w.extractLsb' 12 5) (w.extractLsb' 7 5))
  | 0x1 => chk ((w.extractLsb' 22 4 : BitVec 4) == 0) (.sth none (w.extractLsb' 26 6) (w.extractLsb' 17 3) (w.extractLsb' 12 5) (w.extractLsb' 7 5))
  | 0x2 => chk ((w.extractLsb' 22 4 : BitVec 4) == 0) (.stw none (w.extractLsb' 26 6) (w.extractLsb' 17 3) (w.extractLsb' 12 5) (w.extractLsb' 7 5))
  | _ => chk ((w.extractLsb' 22 4 : BitVec 4) == 0) (.std none (w.extractLsb' 26 6) (w.extractLsb' 17 3) (w.extractLsb' 12 5) (w.extractLsb' 7 5))

/-- Major 0x06: full/empty, literal and indexed forms (R56, R57). -/
def maj06 (w : BitVec 32) : UnitDec :=
  if w.extractLsb' 31 1 == 0 then
    match (w.extractLsb' 27 4).toNat with
    | 0x0 => if w.extractLsb' 26 1 == 0 then chk true (.ldAcq (w.extractLsb' 22 4) (w.extractLsb' 20 2) (w.extractLsb' 17 3) (w.extractLsb' 12 5) (w.extractLsb' 7 5))
        else chk true (.lduAcq (w.extractLsb' 22 4) (w.extractLsb' 20 2) (w.extractLsb' 17 3) (w.extractLsb' 12 5) (w.extractLsb' 7 5))
    | 0x1 => chk ((w.extractLsb' 22 5 : BitVec 5) == 0) (.stRel (w.extractLsb' 20 2) (w.extractLsb' 17 3) (w.extractLsb' 12 5) (w.extractLsb' 7 5))
    | 0x2 =>
      match (w.extractLsb' 20 2).toNat with
      | 0 => chk ((w.extractLsb' 26 1 : BitVec 1) == 0) (.ldbu none (w.extractLsb' 22 4) (w.extractLsb' 17 3) (w.extractLsb' 12 5) (w.extractLsb' 7 5))
      | 1 => chk ((w.extractLsb' 26 1 : BitVec 1) == 0) (.ldhu none (w.extractLsb' 22 4) (w.extractLsb' 17 3) (w.extractLsb' 12 5) (w.extractLsb' 7 5))
      | 2 => chk ((w.extractLsb' 26 1 : BitVec 1) == 0) (.ldwu none (w.extractLsb' 22 4) (w.extractLsb' 17 3) (w.extractLsb' 12 5) (w.extractLsb' 7 5))
      | _ => .bad 0x02
    | 0x3 => chk ((w.extractLsb' 26 1 ++ w.extractLsb' 20 2 : BitVec 3) == 3) (.lde (w.extractLsb' 22 4) (w.extractLsb' 17 3) (w.extractLsb' 12 5) (w.extractLsb' 7 5))
    | 0x4 => chk ((w.extractLsb' 26 1 ++ w.extractLsb' 20 2 : BitVec 3) == 3) (.ldf (w.extractLsb' 22 4) (w.extractLsb' 17 3) (w.extractLsb' 12 5) (w.extractLsb' 7 5))
    | 0x5 => chk ((w.extractLsb' 20 7 : BitVec 7) == 3) (.stf (w.extractLsb' 17 3) (w.extractLsb' 12 5) (w.extractLsb' 7 5))
    | 0x6 => chk ((w.extractLsb' 20 7 : BitVec 7) == 3) (.stff (w.extractLsb' 17 3) (w.extractLsb' 12 5) (w.extractLsb' 7 5))
    | 0x7 => chk ((w.extractLsb' 26 1 ++ w.extractLsb' 20 2 : BitVec 3) == 3) (.feq (w.extractLsb' 22 4) (w.extractLsb' 17 3) (w.extractLsb' 12 5) (w.extractLsb' 7 5))
    | 0x8 => chk ((w.extractLsb' 20 7 ++ w.extractLsb' 7 5 : BitVec 12) == 96) (.feclr (w.extractLsb' 17 3) (w.extractLsb' 12 5))
    | 0x9 => chk true (.ldl (w.extractLsb' 26 1 ++ w.extractLsb' 12 10) (w.extractLsb' 22 4) (w.extractLsb' 7 5))
    | _ => .bad 0x01
  else
    match (w.extractLsb' 20 3).toNat with
    | 0 => chk true (.ldbIdx none (w.extractLsb' 27 4) (w.extractLsb' 23 4) (w.extractLsb' 17 3) (w.extractLsb' 12 5) (w.extractLsb' 7 5))
    | 1 => chk true (.ldbuIdx none (w.extractLsb' 27 4) (w.extractLsb' 23 4) (w.extractLsb' 17 3) (w.extractLsb' 12 5) (w.extractLsb' 7 5))
    | 2 => chk true (.ldhIdx none (w.extractLsb' 27 4) (w.extractLsb' 23 4) (w.extractLsb' 17 3) (w.extractLsb' 12 5) (w.extractLsb' 7 5))
    | 3 => chk true (.ldhuIdx none (w.extractLsb' 27 4) (w.extractLsb' 23 4) (w.extractLsb' 17 3) (w.extractLsb' 12 5) (w.extractLsb' 7 5))
    | 4 => chk true (.ldwIdx none (w.extractLsb' 27 4) (w.extractLsb' 23 4) (w.extractLsb' 17 3) (w.extractLsb' 12 5) (w.extractLsb' 7 5))
    | 5 => chk true (.ldwuIdx none (w.extractLsb' 27 4) (w.extractLsb' 23 4) (w.extractLsb' 17 3) (w.extractLsb' 12 5) (w.extractLsb' 7 5))
    | 6 => chk true (.lddIdx none (w.extractLsb' 27 4) (w.extractLsb' 23 4) (w.extractLsb' 17 3) (w.extractLsb' 12 5) (w.extractLsb' 7 5))
    | _ =>
      match (w.extractLsb' 23 2).toNat with
      | 0 => chk ((w.extractLsb' 25 2 : BitVec 2) == 0) (.stbIdx none (w.extractLsb' 27 4) (w.extractLsb' 17 3) (w.extractLsb' 12 5) (w.extractLsb' 7 5))
      | 1 => chk ((w.extractLsb' 25 2 : BitVec 2) == 0) (.sthIdx none (w.extractLsb' 27 4) (w.extractLsb' 17 3) (w.extractLsb' 12 5) (w.extractLsb' 7 5))
      | 2 => chk ((w.extractLsb' 25 2 : BitVec 2) == 0) (.stwIdx none (w.extractLsb' 27 4) (w.extractLsb' 17 3) (w.extractLsb' 12 5) (w.extractLsb' 7 5))
      | _ => chk ((w.extractLsb' 25 2 : BitVec 2) == 0) (.stdIdx none (w.extractLsb' 27 4) (w.extractLsb' 17 3) (w.extractLsb' 12 5) (w.extractLsb' 7 5))

/-- Major 0x07: atomics (R56, R57). -/
def maj07 (w : BitVec 32) : UnitDec :=
  match (w.extractLsb' 28 4).toNat with
  | 0x0 => chk true (.amoadd none (w.extractLsb' 24 4) (w.extractLsb' 20 4) (w.extractLsb' 17 3) (w.extractLsb' 12 5) (w.extractLsb' 7 5))
  | 0x1 => chk true (.amoand none (w.extractLsb' 24 4) (w.extractLsb' 20 4) (w.extractLsb' 17 3) (w.extractLsb' 12 5) (w.extractLsb' 7 5))
  | 0x2 => chk true (.amoor none (w.extractLsb' 24 4) (w.extractLsb' 20 4) (w.extractLsb' 17 3) (w.extractLsb' 12 5) (w.extractLsb' 7 5))
  | 0x3 => chk true (.amoxor none (w.extractLsb' 24 4) (w.extractLsb' 20 4) (w.extractLsb' 17 3) (w.extractLsb' 12 5) (w.extractLsb' 7 5))
  | 0x4 => chk true (.amomin none (w.extractLsb' 24 4) (w.extractLsb' 20 4) (w.extractLsb' 17 3) (w.extractLsb' 12 5) (w.extractLsb' 7 5))
  | 0x5 => chk true (.amomax none (w.extractLsb' 24 4) (w.extractLsb' 20 4) (w.extractLsb' 17 3) (w.extractLsb' 12 5) (w.extractLsb' 7 5))
  | 0x6 => chk true (.amoswp none (w.extractLsb' 24 4) (w.extractLsb' 20 4) (w.extractLsb' 17 3) (w.extractLsb' 12 5) (w.extractLsb' 7 5))
  | 0x7 => chk true (.amocas none (w.extractLsb' 24 4) (w.extractLsb' 20 4) (w.extractLsb' 17 3) (w.extractLsb' 12 5) (w.extractLsb' 7 5))
  | 0x8 => chk true (.amofaddS none (w.extractLsb' 24 4) (w.extractLsb' 20 4) (w.extractLsb' 17 3) (w.extractLsb' 12 5) (w.extractLsb' 7 5))
  | 0x9 => chk true (.amofaddD none (w.extractLsb' 24 4) (w.extractLsb' 20 4) (w.extractLsb' 17 3) (w.extractLsb' 12 5) (w.extractLsb' 7 5))
  | _ => .bad 0x01

/-- Major 0x08: remote (R56, R57). -/
def maj08 (w : BitVec 32) : UnitDec :=
  match (w.extractLsb' 25 3).toNat with
  | 0x0 => chk true (.get (w.extractLsb' 28 4) (w.extractLsb' 24 1) (w.extractLsb' 20 4) (w.extractLsb' 17 3) (w.extractLsb' 12 5) (w.extractLsb' 7 5))
  | 0x1 => chk true (.put (w.extractLsb' 28 4) (w.extractLsb' 24 1) (w.extractLsb' 20 4) (w.extractLsb' 17 3) (w.extractLsb' 12 5) (w.extractLsb' 7 5))
  | 0x2 => chk ((w.extractLsb' 24 1 : BitVec 1) == 0) (.ramo (w.extractLsb' 28 4) (w.extractLsb' 20 4) (w.extractLsb' 17 3) (w.extractLsb' 12 5) (w.extractLsb' 7 5))
  | 0x3 => chk ((w.extractLsb' 18 2 : BitVec 2) == 0) (.rsem (w.extractLsb' 28 4) (w.extractLsb' 17 1 ++ w.extractLsb' 20 5) (w.extractLsb' 12 5) (w.extractLsb' 7 5))
  | _ => .bad 0x01

/-- Major 0x09: bank-agent commands (R56, R57). -/
def maj09 (w : BitVec 32) : UnitDec :=
  match (w.extractLsb' 25 3).toNat with
  | 0x0 => chk ((w.extractLsb' 28 4 ++ w.extractLsb' 24 1 : BitVec 5) == 0) (.nadd (w.extractLsb' 20 4) (w.extractLsb' 17 3) (w.extractLsb' 12 5) (w.extractLsb' 7 5))
  | 0x1 => chk ((w.extractLsb' 28 4 ++ w.extractLsb' 24 1 : BitVec 5) == 0) (.nmax (w.extractLsb' 20 4) (w.extractLsb' 17 3) (w.extractLsb' 12 5) (w.extractLsb' 7 5))
  | 0x2 => chk ((w.extractLsb' 28 4 ++ w.extractLsb' 24 1 : BitVec 5) == 0) (.nred (w.extractLsb' 20 4) (w.extractLsb' 17 3) (w.extractLsb' 12 5) (w.extractLsb' 7 5))
  | 0x3 => chk ((w.extractLsb' 28 4 ++ w.extractLsb' 24 1 : BitVec 5) == 0) (.naxpy (w.extractLsb' 20 4) (w.extractLsb' 17 3) (w.extractLsb' 12 5) (w.extractLsb' 7 5))
  | 0x4 => chk ((w.extractLsb' 28 4 : BitVec 4) == 0) (.nfill (w.extractLsb' 20 5) (w.extractLsb' 17 3) (w.extractLsb' 12 5) (w.extractLsb' 7 5))
  | 0x5 => chk true (.namo (w.extractLsb' 28 4) (w.extractLsb' 20 5) (w.extractLsb' 17 3) (w.extractLsb' 12 5) (w.extractLsb' 7 5))
  | _ => .bad 0x01

/-- Major 0x0A: fences (R56, R57). -/
def maj0A (w : BitVec 32) : UnitDec :=
  match (w.extractLsb' 22 5).toNat with
  | 0x0 => chk ((w.extractLsb' 27 5 ++ w.extractLsb' 19 3 ++ w.extractLsb' 15 2 ++ w.extractLsb' 7 5 : BitVec 15) == 0) (.fence (w.extractLsb' 17 2) (w.extractLsb' 12 3))
  | 0x1 => chk ((w.extractLsb' 27 5 ++ w.extractLsb' 15 7 ++ w.extractLsb' 7 5 : BitVec 17) == 0) (.fenceb (w.extractLsb' 12 3))
  | _ => .bad 0x01

/-- Major 0x0B: conditional branches (R56, R57). -/
def maj0B (w : BitVec 32) : UnitDec :=
  match (w.extractLsb' 17 3).toNat with
  | 0x0 => chk true (.beq (w.extractLsb' 20 12) (w.extractLsb' 12 5) (w.extractLsb' 7 5))
  | 0x1 => chk true (.bne (w.extractLsb' 20 12) (w.extractLsb' 12 5) (w.extractLsb' 7 5))
  | 0x2 => chk true (.blt (w.extractLsb' 20 12) (w.extractLsb' 12 5) (w.extractLsb' 7 5))
  | 0x3 => chk true (.bge (w.extractLsb' 20 12) (w.extractLsb' 12 5) (w.extractLsb' 7 5))
  | 0x4 => chk true (.bltu (w.extractLsb' 20 12) (w.extractLsb' 12 5) (w.extractLsb' 7 5))
  | 0x5 => chk true (.bgeu (w.extractLsb' 20 12) (w.extractLsb' 12 5) (w.extractLsb' 7 5))
  | 0x6 => chk ((w.extractLsb' 12 5 : BitVec 5) == 0) (.bz (w.extractLsb' 20 12) (w.extractLsb' 7 5))
  | _ => chk ((w.extractLsb' 12 5 : BitVec 5) == 0) (.bnz (w.extractLsb' 20 12) (w.extractLsb' 7 5))

/-- Major 0x0C: jumps, calls, returns, loops (R56, R57). -/
def maj0C (w : BitVec 32) : UnitDec :=
  match (w.extractLsb' 7 5).toNat with
  | 0x0 => chk true (.br (w.extractLsb' 12 20))
  | 0x1 => chk ((w.extractLsb' 22 10 : BitVec 10) == 0) (.callr (w.extractLsb' 17 5) (w.extractLsb' 12 5))
  | 0x2 => chk ((w.extractLsb' 12 20 : BitVec 20) == 0) (.ret)
  | 0x3 => chk ((w.extractLsb' 22 10 ++ w.extractLsb' 12 5 : BitVec 15) == 0) (.jmp (w.extractLsb' 17 5))
  | 0x4 => chk ((w.extractLsb' 12 5 : BitVec 5) == 0) (.loop (w.extractLsb' 22 10) (w.extractLsb' 17 5))
  | 0x5 => chk ((w.extractLsb' 12 20 : BitVec 20) == 0) (.nop)
  | f => if 8 ≤ f ∧ f ≤ 24 then chk true (.call (w.extractLsb' 12 20) (w.extractLsb' 7 5)) else .bad 0x01

/-- Major 0x0D: vector integer (R56, R57). -/
def maj0D (w : BitVec 32) : UnitDec :=
  match (w.extractLsb' 22 5).toNat with
  | 0x0 => chk true (.viadd (w.extractLsb' 31 1) (w.extractLsb' 27 4) (w.extractLsb' 19 3) (w.extractLsb' 15 4) (w.extractLsb' 11 4) (w.extractLsb' 7 4))
  | 0x1 => chk true (.visub (w.extractLsb' 31 1) (w.extractLsb' 27 4) (w.extractLsb' 19 3) (w.extractLsb' 15 4) (w.extractLsb' 11 4) (w.extractLsb' 7 4))
  | 0x2 => chk true (.vimul (w.extractLsb' 31 1) (w.extractLsb' 27 4) (w.extractLsb' 19 3) (w.extractLsb' 15 4) (w.extractLsb' 11 4) (w.extractLsb' 7 4))
  | 0x3 => chk true (.vimin (w.extractLsb' 31 1) (w.extractLsb' 27 4) (w.extractLsb' 19 3) (w.extractLsb' 15 4) (w.extractLsb' 11 4) (w.extractLsb' 7 4))
  | 0x4 => chk true (.vimax (w.extractLsb' 31 1) (w.extractLsb' 27 4) (w.extractLsb' 19 3) (w.extractLsb' 15 4) (w.extractLsb' 11 4) (w.extractLsb' 7 4))
  | 0x5 => chk true (.vand (w.extractLsb' 31 1) (w.extractLsb' 27 4) (w.extractLsb' 19 3) (w.extractLsb' 15 4) (w.extractLsb' 11 4) (w.extractLsb' 7 4))
  | 0x6 => chk true (.vor (w.extractLsb' 31 1) (w.extractLsb' 27 4) (w.extractLsb' 19 3) (w.extractLsb' 15 4) (w.extractLsb' 11 4) (w.extractLsb' 7 4))
  | 0x7 => chk true (.vxor (w.extractLsb' 31 1) (w.extractLsb' 27 4) (w.extractLsb' 19 3) (w.extractLsb' 15 4) (w.extractLsb' 11 4) (w.extractLsb' 7 4))
  | 0x8 => chk true (.vshl (w.extractLsb' 31 1) (w.extractLsb' 27 4) (w.extractLsb' 19 3) (w.extractLsb' 15 4) (w.extractLsb' 11 4) (w.extractLsb' 7 4))
  | 0x9 => chk true (.vshr (w.extractLsb' 31 1) (w.extractLsb' 27 4) (w.extractLsb' 19 3) (w.extractLsb' 15 4) (w.extractLsb' 11 4) (w.extractLsb' 7 4))
  | 0xA => chk true (.vsra (w.extractLsb' 31 1) (w.extractLsb' 27 4) (w.extractLsb' 19 3) (w.extractLsb' 15 4) (w.extractLsb' 11 4) (w.extractLsb' 7 4))
  | 0xB => chk true (.vcmpeq (w.extractLsb' 31 1 ++ w.extractLsb' 10 1) (w.extractLsb' 27 4) (w.extractLsb' 19 3) (w.extractLsb' 15 4) (w.extractLsb' 11 4) (w.extractLsb' 7 3))
  | 0xC => chk true (.vcmplt (w.extractLsb' 31 1 ++ w.extractLsb' 10 1) (w.extractLsb' 27 4) (w.extractLsb' 19 3) (w.extractLsb' 15 4) (w.extractLsb' 11 4) (w.extractLsb' 7 3))
  | 0xD => chk true (.vcmple (w.extractLsb' 31 1 ++ w.extractLsb' 10 1) (w.extractLsb' 27 4) (w.extractLsb' 19 3) (w.extractLsb' 15 4) (w.extractLsb' 11 4) (w.extractLsb' 7 3))
  | _ => .bad 0x01

/-- Major 0x0E: vector FP (R56, R57). -/
def maj0E (w : BitVec 32) : UnitDec :=
  match (w.extractLsb' 22 5).toNat with
  | 0x0 => chk true (.vadd (w.extractLsb' 31 1) (w.extractLsb' 27 4) (w.extractLsb' 19 3) (w.extractLsb' 15 4) (w.extractLsb' 11 4) (w.extractLsb' 7 4))
  | 0x1 => chk true (.vsub (w.extractLsb' 31 1) (w.extractLsb' 27 4) (w.extractLsb' 19 3) (w.extractLsb' 15 4) (w.extractLsb' 11 4) (w.extractLsb' 7 4))
  | 0x2 => chk true (.vmul (w.extractLsb' 31 1) (w.extractLsb' 27 4) (w.extractLsb' 19 3) (w.extractLsb' 15 4) (w.extractLsb' 11 4) (w.extractLsb' 7 4))
  | 0x3 => chk true (.vfma (w.extractLsb' 31 1) (w.extractLsb' 27 4) (w.extractLsb' 19 3) (w.extractLsb' 15 4) (w.extractLsb' 11 4) (w.extractLsb' 7 4))
  | 0x4 => chk true (.vfms (w.extractLsb' 31 1) (w.extractLsb' 27 4) (w.extractLsb' 19 3) (w.extractLsb' 15 4) (w.extractLsb' 11 4) (w.extractLsb' 7 4))
  | 0x5 => chk true (.vmin (w.extractLsb' 31 1) (w.extractLsb' 27 4) (w.extractLsb' 19 3) (w.extractLsb' 15 4) (w.extractLsb' 11 4) (w.extractLsb' 7 4))
  | 0x6 => chk true (.vmax (w.extractLsb' 31 1) (w.extractLsb' 27 4) (w.extractLsb' 19 3) (w.extractLsb' 15 4) (w.extractLsb' 11 4) (w.extractLsb' 7 4))
  | 0x7 => chk ((w.extractLsb' 15 4 : BitVec 4) == 0) (.vabs (w.extractLsb' 31 1) (w.extractLsb' 27 4) (w.extractLsb' 19 3) (w.extractLsb' 11 4) (w.extractLsb' 7 4))
  | 0x8 => chk ((w.extractLsb' 15 4 : BitVec 4) == 0) (.vneg (w.extractLsb' 31 1) (w.extractLsb' 27 4) (w.extractLsb' 19 3) (w.extractLsb' 11 4) (w.extractLsb' 7 4))
  | 0x9 => chk ((w.extractLsb' 15 4 : BitVec 4) == 0) (.vrsqe (w.extractLsb' 31 1) (w.extractLsb' 27 4) (w.extractLsb' 19 3) (w.extractLsb' 11 4) (w.extractLsb' 7 4))
  | 0xA => chk ((w.extractLsb' 15 4 : BitVec 4) == 0) (.vrcpe (w.extractLsb' 31 1) (w.extractLsb' 27 4) (w.extractLsb' 19 3) (w.extractLsb' 11 4) (w.extractLsb' 7 4))
  | 0xB => chk ((w.extractLsb' 15 4 : BitVec 4) == 0) (.vexp2e (w.extractLsb' 31 1) (w.extractLsb' 27 4) (w.extractLsb' 19 3) (w.extractLsb' 11 4) (w.extractLsb' 7 4))
  | 0xC => chk ((w.extractLsb' 15 4 : BitVec 4) == 0) (.vlog2e (w.extractLsb' 31 1) (w.extractLsb' 27 4) (w.extractLsb' 19 3) (w.extractLsb' 11 4) (w.extractLsb' 7 4))
  | _ => .bad 0x01

/-- Major 0x0F: vector conversion and quantisation (R56, R57). -/
def maj0F (w : BitVec 32) : UnitDec :=
  match (w.extractLsb' 22 5).toNat with
  | 0x0 => chk true (.vcvt (w.extractLsb' 31 1 ++ w.extractLsb' 15 4) (w.extractLsb' 27 4) (w.extractLsb' 19 3) (w.extractLsb' 11 4) (w.extractLsb' 7 4))
  | 0x1 => chk ((w.extractLsb' 18 1 : BitVec 1) == 0) (.vquant (w.extractLsb' 31 1) (w.extractLsb' 27 4) (w.extractLsb' 19 3) (w.extractLsb' 17 1) (w.extractLsb' 15 2) (w.extractLsb' 11 4) (w.extractLsb' 7 4))
  | 0x2 => chk ((w.extractLsb' 16 3 : BitVec 3) == 0) (.vdeq (w.extractLsb' 31 1) (w.extractLsb' 27 4) (w.extractLsb' 19 3) (w.extractLsb' 15 1) (w.extractLsb' 11 4) (w.extractLsb' 7 4))
  | _ => .bad 0x01

/-- Major 0x10: vector permute, mask and reduce (R56, R57). -/
def maj10 (w : BitVec 32) : UnitDec :=
  match (w.extractLsb' 22 5).toNat with
  | 0x0 => chk ((w.extractLsb' 31 1 ++ w.extractLsb' 18 4 ++ w.extractLsb' 14 1 ++ w.extractLsb' 10 1 : BitVec 7) == 0) (.mand (w.extractLsb' 27 4) (w.extractLsb' 15 3) (w.extractLsb' 11 3) (w.extractLsb' 7 3))
  | 0x1 => chk ((w.extractLsb' 31 1 ++ w.extractLsb' 18 4 ++ w.extractLsb' 14 1 ++ w.extractLsb' 10 1 : BitVec 7) == 0) (.mor (w.extractLsb' 27 4) (w.extractLsb' 15 3) (w.extractLsb' 11 3) (w.extractLsb' 7 3))
  | 0x2 => chk ((w.extractLsb' 31 1 ++ w.extractLsb' 14 8 ++ w.extractLsb' 10 1 : BitVec 10) == 0) (.mnot (w.extractLsb' 27 4) (w.extractLsb' 11 3) (w.extractLsb' 7 3))
  | 0x3 => chk ((w.extractLsb' 18 4 ++ w.extractLsb' 7 4 : BitVec 8) == 0) (.mpop (w.extractLsb' 31 1 ++ w.extractLsb' 11 4) (w.extractLsb' 27 4) (w.extractLsb' 15 3))
  | 0x4 => chk ((w.extractLsb' 31 1 ++ w.extractLsb' 17 2 : BitVec 3) == 0) (.vmov (w.extractLsb' 27 4) (w.extractLsb' 19 3) (w.extractLsb' 15 2) (w.extractLsb' 11 4) (w.extractLsb' 7 4))
  | 0x5 => chk ((w.extractLsb' 17 2 : BitVec 2) == 0) (.vbcast (w.extractLsb' 31 1 ++ w.extractLsb' 11 4) (w.extractLsb' 27 4) (w.extractLsb' 19 3) (w.extractLsb' 15 2) (w.extractLsb' 7 4))
  | 0x6 => chk true (.vextr (w.extractLsb' 31 1 ++ w.extractLsb' 11 4) (w.extractLsb' 27 4) (w.extractLsb' 19 3 ++ w.extractLsb' 7 4) (w.extractLsb' 15 4))
  | 0x7 => chk true (.vins (w.extractLsb' 31 1 ++ w.extractLsb' 11 4) (w.extractLsb' 27 4) (w.extractLsb' 19 3 ++ w.extractLsb' 7 4) (w.extractLsb' 15 4))
  | 0x8 => chk true (.vperm (w.extractLsb' 31 1) (w.extractLsb' 27 4) (w.extractLsb' 19 3) (w.extractLsb' 15 4) (w.extractLsb' 11 4) (w.extractLsb' 7 4))
  | 0x9 => chk ((w.extractLsb' 19 3 : BitVec 3) == 0) (.vslide (w.extractLsb' 31 1 ++ w.extractLsb' 11 4) (w.extractLsb' 27 4) (w.extractLsb' 15 4) (w.extractLsb' 7 4))
  | 0xA => chk true (.vsel (w.extractLsb' 31 1) (w.extractLsb' 27 4) (w.extractLsb' 19 3) (w.extractLsb' 15 4) (w.extractLsb' 11 4) (w.extractLsb' 7 4))
  | 0xB => chk true (.vredsum (w.extractLsb' 31 1 ++ w.extractLsb' 11 4) (w.extractLsb' 27 4) (w.extractLsb' 19 3) (w.extractLsb' 15 4) (w.extractLsb' 7 4))
  | 0xC => chk true (.vredmax (w.extractLsb' 31 1 ++ w.extractLsb' 11 4) (w.extractLsb' 27 4) (w.extractLsb' 19 3) (w.extractLsb' 15 4) (w.extractLsb' 7 4))
  | 0xD => chk true (.vredmin (w.extractLsb' 31 1 ++ w.extractLsb' 11 4) (w.extractLsb' 27 4) (w.extractLsb' 19 3) (w.extractLsb' 15 4) (w.extractLsb' 7 4))
  | _ => .bad 0x01

/-- Major 0x11: vector memory (R56, R57). -/
def maj11 (w : BitVec 32) : UnitDec :=
  match (w.extractLsb' 30 2).toNat with
  | 0 => chk ((w.extractLsb' 22 4 : BitVec 4) == 0) (.vld none (w.extractLsb' 26 4) (w.extractLsb' 19 3) (w.extractLsb' 16 3) (w.extractLsb' 11 5) (w.extractLsb' 7 4))
  | 1 => chk true (.vlds none (w.extractLsb' 26 4) (w.extractLsb' 22 4) (w.extractLsb' 19 3) (w.extractLsb' 16 3) (w.extractLsb' 11 5) (w.extractLsb' 7 4))
  | 2 => chk true (.vgath none (w.extractLsb' 26 4) (w.extractLsb' 22 4) (w.extractLsb' 19 3) (w.extractLsb' 16 3) (w.extractLsb' 11 5) (w.extractLsb' 7 4))
  | _ =>
    match (w.extractLsb' 26 2).toNat with
    | 0 => chk ((w.extractLsb' 28 2 ++ w.extractLsb' 22 4 : BitVec 6) == 0) (.vst none (w.extractLsb' 19 3) (w.extractLsb' 16 3) (w.extractLsb' 11 5) (w.extractLsb' 7 4))
    | 1 => chk ((w.extractLsb' 28 2 : BitVec 2) == 0) (.vsts none (w.extractLsb' 22 4) (w.extractLsb' 19 3) (w.extractLsb' 16 3) (w.extractLsb' 11 5) (w.extractLsb' 7 4))
    | 2 => chk ((w.extractLsb' 28 2 : BitVec 2) == 0) (.vscat none (w.extractLsb' 22 4) (w.extractLsb' 19 3) (w.extractLsb' 16 3) (w.extractLsb' 11 5) (w.extractLsb' 7 4))
    | _ => .bad 0x01

/-- Major 0x12: matrix (R56, R57). -/
def maj12 (w : BitVec 32) : UnitDec :=
  match (w.extractLsb' 24 4).toNat with
  | 0x0 => chk ((w.extractLsb' 18 6 ++ w.extractLsb' 9 4 : BitVec 10) == 0) (.mcfg (w.extractLsb' 28 4) (w.extractLsb' 13 5) (w.extractLsb' 7 2))
  | 0x1 => chk ((w.extractLsb' 21 3 ++ w.extractLsb' 9 4 : BitVec 7) == 0) (.mload (w.extractLsb' 28 4) (w.extractLsb' 18 3) (w.extractLsb' 13 5) (w.extractLsb' 7 2))
  | 0x2 => chk ((w.extractLsb' 7 17 : BitVec 17) == 0) (.mswap (w.extractLsb' 28 4))
  | 0x3 => chk ((w.extractLsb' 18 3 : BitVec 3) == 0) (.mstep (w.extractLsb' 28 4) (w.extractLsb' 21 3) (w.extractLsb' 13 5) (w.extractLsb' 9 4) (w.extractLsb' 7 2))
  | 0x4 => chk ((w.extractLsb' 9 15 : BitVec 15) == 0) (.mzero (w.extractLsb' 28 4) (w.extractLsb' 7 2))
  | 0x5 => chk true (.mdrain (w.extractLsb' 28 4) (w.extractLsb' 21 3) (w.extractLsb' 18 3) (w.extractLsb' 13 5) (w.extractLsb' 9 4) (w.extractLsb' 7 2))
  | 0x6 => chk ((w.extractLsb' 18 6 ++ w.extractLsb' 7 6 : BitVec 12) == 0) (.mflags (w.extractLsb' 28 4) (w.extractLsb' 13 5))
  | 0x7 => chk ((w.extractLsb' 21 3 ++ w.extractLsb' 9 4 : BitVec 7) == 0) (.msave (w.extractLsb' 28 4) (w.extractLsb' 18 3) (w.extractLsb' 13 5) (w.extractLsb' 7 2))
  | 0x8 => chk ((w.extractLsb' 21 3 ++ w.extractLsb' 9 4 : BitVec 7) == 0) (.mrest (w.extractLsb' 28 4) (w.extractLsb' 18 3) (w.extractLsb' 13 5) (w.extractLsb' 7 2))
  | _ => .bad 0x01

/-- Major 0x13: transfer engine (R56, R57). -/
def maj13 (w : BitVec 32) : UnitDec :=
  match (w.extractLsb' 22 5).toNat with
  | 0x0 => chk ((w.extractLsb' 28 3 : BitVec 3) == 0) (.tcopy (w.extractLsb' 31 1 ++ w.extractLsb' 7 5) (w.extractLsb' 27 1) (w.extractLsb' 17 5) (w.extractLsb' 12 5))
  | 0x1 => chk ((w.extractLsb' 28 3 : BitVec 3) == 0) (.tgath (w.extractLsb' 31 1 ++ w.extractLsb' 7 5) (w.extractLsb' 27 1) (w.extractLsb' 17 5) (w.extractLsb' 12 5))
  | 0x2 => chk ((w.extractLsb' 28 3 : BitVec 3) == 0) (.tscat (w.extractLsb' 31 1 ++ w.extractLsb' 7 5) (w.extractLsb' 27 1) (w.extractLsb' 17 5) (w.extractLsb' 12 5))
  | 0x3 => chk ((w.extractLsb' 28 3 : BitVec 3) == 0) (.tfill (w.extractLsb' 31 1 ++ w.extractLsb' 7 5) (w.extractLsb' 27 1) (w.extractLsb' 17 5) (w.extractLsb' 12 5))
  | 0x4 => chk ((w.extractLsb' 27 5 ++ w.extractLsb' 7 15 : BitVec 20) == 0) (.ego)
  | 0x5 => chk ((w.extractLsb' 27 5 ++ w.extractLsb' 12 10 : BitVec 15) == 0) (.estat (w.extractLsb' 7 5))
  | 0x6 => chk ((w.extractLsb' 27 5 ++ w.extractLsb' 7 15 : BitVec 20) == 0) (.ecan)
  | _ => .bad 0x01

/-- Major 0x14: semaphores (R56, R57). -/
def maj14 (w : BitVec 32) : UnitDec :=
  match (w.extractLsb' 22 5).toNat with
  | 0x0 => chk ((w.extractLsb' 27 4 ++ w.extractLsb' 7 5 : BitVec 9) == 0) (.semadd (w.extractLsb' 31 1 ++ w.extractLsb' 17 5) (w.extractLsb' 12 5))
  | 0x1 => chk ((w.extractLsb' 27 4 ++ w.extractLsb' 7 5 : BitVec 9) == 0) (.semset (w.extractLsb' 31 1 ++ w.extractLsb' 17 5) (w.extractLsb' 12 5))
  | 0x2 => chk ((w.extractLsb' 27 4 ++ w.extractLsb' 12 5 : BitVec 9) == 0) (.semrd (w.extractLsb' 31 1 ++ w.extractLsb' 17 5) (w.extractLsb' 7 5))
  | 0x3 => chk ((w.extractLsb' 27 4 ++ w.extractLsb' 7 5 : BitVec 9) == 0) (.semwait (w.extractLsb' 31 1 ++ w.extractLsb' 17 5) (w.extractLsb' 12 5))
  | _ => .bad 0x01

/-- Major 0x15: barriers and group reduction (R56, R57). -/
def maj15 (w : BitVec 32) : UnitDec :=
  match (w.extractLsb' 22 5).toNat with
  | 0x0 => chk ((w.extractLsb' 27 5 ++ w.extractLsb' 20 2 ++ w.extractLsb' 7 10 : BitVec 17) == 0) (.bar (w.extractLsb' 17 3))
  | 0x1 => chk ((w.extractLsb' 27 5 ++ w.extractLsb' 20 2 ++ w.extractLsb' 12 5 : BitVec 12) == 0) (.barar (w.extractLsb' 17 3) (w.extractLsb' 7 5))
  | 0x2 => chk ((w.extractLsb' 27 5 ++ w.extractLsb' 20 2 ++ w.extractLsb' 7 5 : BitVec 12) == 0) (.barwt (w.extractLsb' 17 3) (w.extractLsb' 12 5))
  | 0x3 => chk ((w.extractLsb' 31 1 ++ w.extractLsb' 17 5 : BitVec 6) == 0) (.gred (w.extractLsb' 27 4) (w.extractLsb' 12 5) (w.extractLsb' 7 5))
  | _ => .bad 0x01

/-- Major 0x16: messaging (R56, R57). -/
def maj16 (w : BitVec 32) : UnitDec :=
  match (w.extractLsb' 22 5).toNat with
  | 0x0 => chk ((w.extractLsb' 27 5 : BitVec 5) == 0) (.send (w.extractLsb' 17 5) (w.extractLsb' 12 5) (w.extractLsb' 7 5))
  | 0x1 => if w.extractLsb' 31 1 == 0 then chk ((w.extractLsb' 27 4 : BitVec 4) == 0) (.sendam (w.extractLsb' 17 5) (w.extractLsb' 12 5) (w.extractLsb' 7 5))
      else chk true (.sendamR (w.extractLsb' 27 4) (w.extractLsb' 17 5) (w.extractLsb' 12 5) (w.extractLsb' 7 5))
  | 0x2 => if w.extractLsb' 31 1 == 0 then chk ((w.extractLsb' 27 4 ++ w.extractLsb' 12 10 : BitVec 14) == 0) (.mbxst (w.extractLsb' 7 5))
      else chk ((w.extractLsb' 27 4 ++ w.extractLsb' 12 10 : BitVec 14) == 0) (.mbxstClr (w.extractLsb' 7 5))
  | 0x3 => if w.extractLsb' 31 1 == 0 then chk ((w.extractLsb' 27 4 ++ w.extractLsb' 12 5 : BitVec 9) == 0) (.waitfAll (w.extractLsb' 17 5) (w.extractLsb' 7 5))
      else chk ((w.extractLsb' 27 4 ++ w.extractLsb' 12 5 : BitVec 9) == 0) (.waitfAny (w.extractLsb' 17 5) (w.extractLsb' 7 5))
  | 0x4 => chk ((w.extractLsb' 27 5 ++ w.extractLsb' 12 10 : BitVec 15) == 0) (.backoff (w.extractLsb' 7 5))
  | _ => .bad 0x01

/-- Major 0x17: task and queue (R56, R57). -/
def maj17 (w : BitVec 32) : UnitDec :=
  match (w.extractLsb' 22 5).toNat with
  | 0x0 => chk ((w.extractLsb' 30 2 : BitVec 2) == 0) (.tqpush (w.extractLsb' 27 3) (w.extractLsb' 17 5) (w.extractLsb' 12 5) (w.extractLsb' 7 5))
  | 0x1 => if w.extractLsb' 31 1 == 0 then chk ((w.extractLsb' 27 4 ++ w.extractLsb' 17 5 : BitVec 9) == 0) (.tqdone (w.extractLsb' 12 5) (w.extractLsb' 7 5))
      else chk ((w.extractLsb' 27 4 ++ w.extractLsb' 17 5 : BitVec 9) == 0) (.tqdoneT (w.extractLsb' 12 5) (w.extractLsb' 7 5))
  | 0x2 => chk ((w.extractLsb' 27 5 ++ w.extractLsb' 7 15 : BitVec 20) == 0) (.succok)
  | 0x3 => chk ((w.extractLsb' 27 5 ++ w.extractLsb' 7 15 : BitVec 20) == 0) (.waitpred)
  | 0x4 => chk ((w.extractLsb' 27 5 ++ w.extractLsb' 7 15 : BitVec 20) == 0) (.yield)
  | 0x5 => chk ((w.extractLsb' 27 5 ++ w.extractLsb' 7 15 : BitVec 20) == 0) (.exit)
  | _ => .bad 0x01

/-- Major 0x18: collective launch (R56, R57). -/
noncomputable def maj18 (w : BitVec 32) : UnitDec :=
  match (w.extractLsb' 22 5).toNat with
  | 0x0 => chk ((w.extractLsb' 31 1 ++ w.extractLsb' 27 1 ++ w.extractLsb' 7 5 : BitVec 7) == 0) (.colld (w.extractLsb' 28 3) (w.extractLsb' 17 5) (w.extractLsb' 12 5))
  | 0x1 => chk ((w.extractLsb' 31 1 ++ w.extractLsb' 27 1 ++ w.extractLsb' 17 5 ++ w.extractLsb' 7 5 : BitVec 12) == 0) (.colrun (w.extractLsb' 28 3) (w.extractLsb' 12 5))
  | 0x2 => chk ((w.extractLsb' 27 5 ++ w.extractLsb' 12 10 : BitVec 15) == 0) (.colwt (w.extractLsb' 7 5))
  | 0x3 => if w.extractLsb' 31 1 == 0 then chk ((w.extractLsb' 27 4 ++ w.extractLsb' 12 10 : BitVec 14) == 0) (.colst (w.extractLsb' 7 5))
      else chk ((w.extractLsb' 27 4 ++ w.extractLsb' 12 10 : BitVec 14) == 0) (.colstAbort (w.extractLsb' 7 5))
  | _ => .bad 0x01

/-- Major 0x19: control registers (R56, R57). -/
noncomputable def maj19 (w : BitVec 32) : UnitDec :=
  match (w.extractLsb' 17 3).toNat with
  | 0 =>
    match (w.extractLsb' 20 12).toNat with
    | 0x000 => chk ((w.extractLsb' 12 5 : BitVec 5) == 0) (.crdStat (w.extractLsb' 7 5))
    | 0x030 => chk ((w.extractLsb' 12 5 : BitVec 5) == 0) (.crdTime (w.extractLsb' 7 5))
    | _ => chk ((w.extractLsb' 12 5 : BitVec 5) == 0) (.crd (w.extractLsb' 20 12) (w.extractLsb' 7 5))
  | 1 =>
    match (w.extractLsb' 20 12).toNat with
    | 0x000 => chk ((w.extractLsb' 7 5 : BitVec 5) == 0) (.cwrStat (w.extractLsb' 12 5))
    | 0x004 => chk ((w.extractLsb' 7 5 : BitVec 5) == 0) (.cwrTdp (w.extractLsb' 12 5))
    | 0x005 => chk ((w.extractLsb' 7 5 : BitVec 5) == 0) (.cwrWp (w.extractLsb' 12 5))
    | 0x006 => chk ((w.extractLsb' 7 5 : BitVec 5) == 0) (.cwrVp (w.extractLsb' 12 5))
    | 0x031 => chk ((w.extractLsb' 7 5 : BitVec 5) == 0) (.cwrGtoff (w.extractLsb' 12 5))
    | 0x060 => chk ((w.extractLsb' 7 5 : BitVec 5) == 0) (.cwrRot (w.extractLsb' 12 5))
    | _ => chk ((w.extractLsb' 7 5 : BitVec 5) == 0) (.cwr (w.extractLsb' 20 12) (w.extractLsb' 12 5))
  | _ => .bad 0x01

/-- Major 0x1A: traps and system (R56, R57). -/
noncomputable def maj1A (w : BitVec 32) : UnitDec :=
  match (w.extractLsb' 22 5).toNat with
  | 0x0 => chk ((w.extractLsb' 27 5 ++ w.extractLsb' 7 5 : BitVec 10) == 0) (.trap (w.extractLsb' 12 10))
  | 0x1 => chk ((w.extractLsb' 27 5 ++ w.extractLsb' 7 5 : BitVec 10) == 0) (.brk (w.extractLsb' 12 10))
  | 0x2 => chk ((w.extractLsb' 27 5 ++ w.extractLsb' 7 15 : BitVec 20) == 0) (.halt)
  | 0x3 => chk ((w.extractLsb' 27 5 ++ w.extractLsb' 17 5 ++ w.extractLsb' 7 5 : BitVec 15) == 0) (.wfm (w.extractLsb' 12 5))
  | _ => .bad 0x01

/-- Major 0x1B: privileged system (R56, R57). -/
noncomputable def maj1B (w : BitVec 32) : UnitDec :=
  match (w.extractLsb' 22 5).toNat with
  | 0x0 => chk ((w.extractLsb' 27 5 ++ w.extractLsb' 7 5 : BitVec 10) == 0) (.eret (w.extractLsb' 17 5) (w.extractLsb' 12 5))
  | 0x1 => chk ((w.extractLsb' 27 5 ++ w.extractLsb' 17 5 ++ w.extractLsb' 7 5 : BitVec 15) == 0) (.resume (w.extractLsb' 12 5))
  | 0x2 => chk ((w.extractLsb' 27 5 ++ w.extractLsb' 17 5 : BitVec 10) == 0) (.preempt (w.extractLsb' 12 5) (w.extractLsb' 7 5))
  | 0x3 => chk ((w.extractLsb' 27 5 ++ w.extractLsb' 7 5 : BitVec 10) == 0) (.ctxld (w.extractLsb' 17 5) (w.extractLsb' 12 5))
  | 0x4 => chk ((w.extractLsb' 27 5 ++ w.extractLsb' 7 5 : BitVec 10) == 0) (.tlbinv (w.extractLsb' 17 5) (w.extractLsb' 12 5))
  | 0x5 => chk ((w.extractLsb' 27 5 ++ w.extractLsb' 10 2 : BitVec 7) == 0) (.segld (w.extractLsb' 17 5) (w.extractLsb' 12 5) (w.extractLsb' 7 3))
  | 0x6 => chk ((w.extractLsb' 27 5 ++ w.extractLsb' 17 5 ++ w.extractLsb' 7 5 : BitVec 15) == 0) (.rotset (w.extractLsb' 12 5))
  | _ => .bad 0x01

/-- A 32-bit instruction (R48). -/
noncomputable def decode32 (priv : Bool) (w : BitVec 32) : UnitDec :=
  match (w.extractLsb' 2 5).toNat with
  | 0x00 => maj00 w
  | 0x01 => maj01 w
  | 0x02 => maj02 w
  | 0x03 => maj03 w
  | 0x04 => maj04 w
  | 0x05 => maj05 w
  | 0x06 => maj06 w
  | 0x07 => maj07 w
  | 0x08 => maj08 w
  | 0x09 => maj09 w
  | 0x0A => maj0A w
  | 0x0B => maj0B w
  | 0x0C => maj0C w
  | 0x0D => maj0D w
  | 0x0E => maj0E w
  | 0x0F => maj0F w
  | 0x10 => maj10 w
  | 0x11 => maj11 w
  | 0x12 => maj12 w
  | 0x13 => maj13 w
  | 0x14 => maj14 w
  | 0x15 => maj15 w
  | 0x16 => maj16 w
  | 0x17 => maj17 w
  | 0x18 => maj18 w
  | 0x19 => maj19 w
  | 0x1A => maj1A w
  | 0x1B => if priv then maj1B w else .bad 0x04
  | _ => .bad 0x01

/-- A 16-bit instruction or the RX prefix (R48, R50-R53). -/
def decode16 (h : BitVec 16) : UnitDec :=
  if h == 0 then .bad 0x00
  else
    match (h.extractLsb' 0 2).toNat, (h.extractLsb' 13 3).toNat with
    | 0, 1 => chk true (.ldd16 none (h.extractLsb' 12 1) (h.extractLsb' 8 4) (h.extractLsb' 5 3) (h.extractLsb' 2 3))
    | 0, 2 => chk true (.std16 none (h.extractLsb' 12 1) (h.extractLsb' 8 4) (h.extractLsb' 5 3) (h.extractLsb' 2 3))
    | 0, 3 => chk ((h.extractLsb' 2 1 : BitVec 1) == 0) (.addiMove16 (h.extractLsb' 8 5) (h.extractLsb' 3 5))
    | 1, 0 => chk true (.addi16 (h.extractLsb' 8 5) (h.extractLsb' 2 6))
    | 1, 1 => chk true (.movi16 (h.extractLsb' 8 5) (h.extractLsb' 2 6))
    | 1, 2 => chk true (.shli16 (h.extractLsb' 8 5) (h.extractLsb' 2 6))
    | 1, 3 => chk true (.shri16 (h.extractLsb' 8 5) (h.extractLsb' 2 6))
    | 1, 4 => chk ((h.extractLsb' 7 1 : BitVec 1) == 0) (.add16 (h.extractLsb' 8 5) (h.extractLsb' 2 5))
    | 1, 5 => chk ((h.extractLsb' 7 1 : BitVec 1) == 0) (.sub16 (h.extractLsb' 8 5) (h.extractLsb' 2 5))
    | 1, 6 => chk ((h.extractLsb' 7 1 : BitVec 1) == 0) (.and16 (h.extractLsb' 8 5) (h.extractLsb' 2 5))
    | 1, 7 => chk ((h.extractLsb' 7 1 : BitVec 1) == 0) (.or16 (h.extractLsb' 8 5) (h.extractLsb' 2 5))
    | 2, 1 => chk true (.bz16 (h.extractLsb' 8 5) (h.extractLsb' 2 6))
    | 2, 2 => chk true (.bnz16 (h.extractLsb' 8 5) (h.extractLsb' 2 6))
    | 2, 3 => chk true (.br16 (h.extractLsb' 2 11))
    | 2, 4 => chk ((h.extractLsb' 2 11 : BitVec 11) == 0) (.hret)
    | 2, 5 => chk ((h.extractLsb' 2 11 : BitVec 11) == 0) (.ret16)
    | 2, 6 => chk ((h.extractLsb' 2 11 : BitVec 11) == 0) (.nop16)
    | 2, 0 => if (h.extractLsb' 5 8 == 0) && decide ((h.extractLsb' 2 3).toNat ≤ 5 ∧ (h.extractLsb' 2 3).toNat ≠ 5) then .rx (h.extractLsb' 2 3) else .bad 0x02
    | _, _ => .bad 0x01

/-- The access with the relaxed scope of a prefix, where a prefix may stand before it (R66). -/
def withRx (s : BitVec 3) : Instr → Option Instr
  | .ldd16 _ g l b d => some (.ldd16 (some s) g l b d)
  | .std16 _ g k b d => some (.std16 (some s) g k b d)
  | .ldb _ p l g b d => some (.ldb (some s) p l g b d)
  | .ldh _ p l g b d => some (.ldh (some s) p l g b d)
  | .ldw _ p l g b d => some (.ldw (some s) p l g b d)
  | .ldd _ p l g b d => some (.ldd (some s) p l g b d)
  | .stb _ p g b d => some (.stb (some s) p g b d)
  | .sth _ p g b d => some (.sth (some s) p g b d)
  | .stw _ p g b d => some (.stw (some s) p g b d)
  | .std _ p g b d => some (.std (some s) p g b d)
  | .ldbu _ l g b d => some (.ldbu (some s) l g b d)
  | .ldhu _ l g b d => some (.ldhu (some s) l g b d)
  | .ldwu _ l g b d => some (.ldwu (some s) l g b d)
  | .ldbIdx _ i l g b d => some (.ldbIdx (some s) i l g b d)
  | .ldbuIdx _ i l g b d => some (.ldbuIdx (some s) i l g b d)
  | .ldhIdx _ i l g b d => some (.ldhIdx (some s) i l g b d)
  | .ldhuIdx _ i l g b d => some (.ldhuIdx (some s) i l g b d)
  | .ldwIdx _ i l g b d => some (.ldwIdx (some s) i l g b d)
  | .ldwuIdx _ i l g b d => some (.ldwuIdx (some s) i l g b d)
  | .lddIdx _ i l g b d => some (.lddIdx (some s) i l g b d)
  | .stbIdx _ i g b d => some (.stbIdx (some s) i g b d)
  | .sthIdx _ i g b d => some (.sthIdx (some s) i g b d)
  | .stwIdx _ i g b d => some (.stwIdx (some s) i g b d)
  | .stdIdx _ i g b d => some (.stdIdx (some s) i g b d)
  | .amoadd _ l b g a d => some (.amoadd (some s) l b g a d)
  | .amoand _ l b g a d => some (.amoand (some s) l b g a d)
  | .amoor _ l b g a d => some (.amoor (some s) l b g a d)
  | .amoxor _ l b g a d => some (.amoxor (some s) l b g a d)
  | .amomin _ l b g a d => some (.amomin (some s) l b g a d)
  | .amomax _ l b g a d => some (.amomax (some s) l b g a d)
  | .amoswp _ l b g a d => some (.amoswp (some s) l b g a d)
  | .amocas _ l b g a d => some (.amocas (some s) l b g a d)
  | .amofaddS _ l b g a d => some (.amofaddS (some s) l b g a d)
  | .amofaddD _ l b g a d => some (.amofaddD (some s) l b g a d)
  | .vld _ l m g a d => some (.vld (some s) l m g a d)
  | .vlds _ l i m g a d => some (.vlds (some s) l i m g a d)
  | .vgath _ l i m g a d => some (.vgath (some s) l i m g a d)
  | .vst _ m g a d => some (.vst (some s) m g a d)
  | .vsts _ i m g a d => some (.vsts (some s) i m g a d)
  | .vscat _ i m g a d => some (.vscat (some s) i m g a d)
  | _ => none

/-- The words of an instruction without its prefix: a halfword, a word, a Dorent word, or none (R50-R54, R282). -/
inductive Code where
  | none
  | half (c : BitVec 16)
  | word (c : BitVec 32)
  | dword (c : BitVec 64)
  deriving DecidableEq, Repr

/-- The code of an instruction, from the encoding tables (R50-R60, R110, R127, R154, R186, R232-R250, R332, R407, R282). -/
def codeOf : Instr → Code
  | .add b a d => .word (0#10 ++ b ++ a ++ d ++ 3#7)
  | .sub b a d => .word (1#10 ++ b ++ a ++ d ++ 3#7)
  | .mul b a d => .word (2#10 ++ b ++ a ++ d ++ 3#7)
  | .mulh b a d => .word (3#10 ++ b ++ a ++ d ++ 3#7)
  | .mulhu b a d => .word (4#10 ++ b ++ a ++ d ++ 3#7)
  | .div l b a d => .word (0#1 ++ l ++ 5#5 ++ b ++ a ++ d ++ 3#7)
  | .divu l b a d => .word (0#1 ++ l ++ 6#5 ++ b ++ a ++ d ++ 3#7)
  | .rem l b a d => .word (0#1 ++ l ++ 7#5 ++ b ++ a ++ d ++ 3#7)
  | .remu l b a d => .word (0#1 ++ l ++ 8#5 ++ b ++ a ++ d ++ 3#7)
  | .and b a d => .word (9#10 ++ b ++ a ++ d ++ 3#7)
  | .or b a d => .word (10#10 ++ b ++ a ++ d ++ 3#7)
  | .xor b a d => .word (11#10 ++ b ++ a ++ d ++ 3#7)
  | .andn b a d => .word (12#10 ++ b ++ a ++ d ++ 3#7)
  | .orn b a d => .word (13#10 ++ b ++ a ++ d ++ 3#7)
  | .shl b a d => .word (14#10 ++ b ++ a ++ d ++ 3#7)
  | .shr b a d => .word (15#10 ++ b ++ a ++ d ++ 3#7)
  | .sra b a d => .word (16#10 ++ b ++ a ++ d ++ 3#7)
  | .ror b a d => .word (17#10 ++ b ++ a ++ d ++ 3#7)
  | .min b a d => .word (18#10 ++ b ++ a ++ d ++ 3#7)
  | .max b a d => .word (19#10 ++ b ++ a ++ d ++ 3#7)
  | .minu b a d => .word (20#10 ++ b ++ a ++ d ++ 3#7)
  | .maxu b a d => .word (21#10 ++ b ++ a ++ d ++ 3#7)
  | .cmpeq b a d => .word (22#10 ++ b ++ a ++ d ++ 3#7)
  | .cmplt b a d => .word (23#10 ++ b ++ a ++ d ++ 3#7)
  | .cmpltu b a d => .word (24#10 ++ b ++ a ++ d ++ 3#7)
  | .sel c b a d => .word (0#1 ++ c ++ 25#5 ++ b ++ a ++ d ++ 3#7)
  | .extr b a d => .word (26#10 ++ b ++ a ++ d ++ 3#7)
  | .insb b a d => .word (27#10 ++ b ++ a ++ d ++ 3#7)
  | .clz a d => .word (896#15 ++ a ++ d ++ 3#7)
  | .ctz a d => .word (897#15 ++ a ++ d ++ 3#7)
  | .popc a d => .word (898#15 ++ a ++ d ++ 3#7)
  | .brev a d => .word (899#15 ++ a ++ d ++ 3#7)
  | .bswap a d => .word (900#15 ++ a ++ d ++ 3#7)
  | .addi i a d => .word (i ++ 0#3 ++ a ++ d ++ 7#7)
  | .movi i d => .word (i.extractLsb' 5 12 ++ 1#3 ++ i.extractLsb' 0 5 ++ d ++ 7#7)
  | .shli n a d => .word (0#6 ++ n ++ 2#3 ++ a ++ d ++ 7#7)
  | .shri n a d => .word (0#6 ++ n ++ 3#3 ++ a ++ d ++ 7#7)
  | .srai n a d => .word (0#6 ++ n ++ 4#3 ++ a ++ d ++ 7#7)
  | .cmpi c i a d => .word (c ++ i ++ 5#3 ++ a ++ d ++ 7#7)
  | .lih i d => .word (0#1 ++ i.extractLsb' 5 11 ++ 0#3 ++ i.extractLsb' 0 5 ++ d ++ 11#7)
  | .lea k n a d => .word (k ++ n ++ 1#3 ++ a ++ d ++ 11#7)
  | .mapr k n a d => .word (k ++ n ++ 2#3 ++ a ++ d ++ 11#7)
  | .addpc i d => .word (i.extractLsb' 5 12 ++ 3#3 ++ i.extractLsb' 0 5 ++ d ++ 11#7)
  | .sgrd f k d => .word (4#15 ++ f ++ k ++ d ++ 11#7)
  | .ldl o l d => .word (9#5 ++ o.extractLsb' 10 1 ++ l ++ o.extractLsb' 0 10 ++ d ++ 27#7)
  | .beq o b a => .word (o ++ 0#3 ++ b ++ a ++ 47#7)
  | .bne o b a => .word (o ++ 1#3 ++ b ++ a ++ 47#7)
  | .blt o b a => .word (o ++ 2#3 ++ b ++ a ++ 47#7)
  | .bge o b a => .word (o ++ 3#3 ++ b ++ a ++ 47#7)
  | .bltu o b a => .word (o ++ 4#3 ++ b ++ a ++ 47#7)
  | .bgeu o b a => .word (o ++ 5#3 ++ b ++ a ++ 47#7)
  | .bz o a => .word (o ++ 192#8 ++ a ++ 47#7)
  | .bnz o a => .word (o ++ 224#8 ++ a ++ 47#7)
  | .br o => .word (o ++ 51#12)
  | .callr a f => .word (0#10 ++ a ++ f ++ 179#12)
  | .ret => .word (307#32)
  | .jmp a => .word (0#10 ++ a ++ 435#17)
  | .loop o a => .word (o ++ a ++ 563#17)
  | .nop => .word (691#32)
  | .call o f => .word (o ++ f ++ 51#7)
  | .ldd16 _ g l b d => .half (1#3 ++ g ++ l ++ b ++ d ++ 0#2)
  | .std16 _ g k b d => .half (2#3 ++ g ++ k ++ b ++ d ++ 0#2)
  | .addiMove16 d a => .half (3#3 ++ d ++ a ++ 0#3)
  | .addi16 d i => .half (0#3 ++ d ++ i ++ 1#2)
  | .movi16 d i => .half (1#3 ++ d ++ i ++ 1#2)
  | .shli16 d n => .half (2#3 ++ d ++ n ++ 1#2)
  | .shri16 d n => .half (3#3 ++ d ++ n ++ 1#2)
  | .add16 d a => .half (4#3 ++ d ++ 0#1 ++ a ++ 1#2)
  | .sub16 d a => .half (5#3 ++ d ++ 0#1 ++ a ++ 1#2)
  | .and16 d a => .half (6#3 ++ d ++ 0#1 ++ a ++ 1#2)
  | .or16 d a => .half (7#3 ++ d ++ 0#1 ++ a ++ 1#2)
  | .bz16 a o => .half (1#3 ++ a ++ o ++ 2#2)
  | .bnz16 a o => .half (2#3 ++ a ++ o ++ 2#2)
  | .br16 o => .half (3#3 ++ o ++ 2#2)
  | .hret => .half (32770#16)
  | .ret16 => .half (40962#16)
  | .nop16 => .half (49154#16)
  | .fadd x r b a d => .word (x ++ r ++ 0#6 ++ b ++ a ++ d ++ 15#7)
  | .fsub x r b a d => .word (x ++ r ++ 1#6 ++ b ++ a ++ d ++ 15#7)
  | .fmul x r b a d => .word (x ++ r ++ 2#6 ++ b ++ a ++ d ++ 15#7)
  | .fma x r b a d => .word (x ++ r ++ 3#6 ++ b ++ a ++ d ++ 15#7)
  | .fms x r b a d => .word (x ++ r ++ 4#6 ++ b ++ a ++ d ++ 15#7)
  | .fnma x r b a d => .word (x ++ r ++ 5#6 ++ b ++ a ++ d ++ 15#7)
  | .fdiv x l b a d => .word (x ++ l ++ 6#5 ++ b ++ a ++ d ++ 15#7)
  | .fsqrt x l a d => .word (x ++ l ++ 224#10 ++ a ++ d ++ 15#7)
  | .frsqe x r a d => .word (x ++ r ++ 256#11 ++ a ++ d ++ 15#7)
  | .frcpe x r a d => .word (x ++ r ++ 288#11 ++ a ++ d ++ 15#7)
  | .fmin x b a d => .word (x ++ 10#9 ++ b ++ a ++ d ++ 15#7)
  | .fmax x b a d => .word (x ++ 11#9 ++ b ++ a ++ d ++ 15#7)
  | .fcmpeq x b a d => .word (x ++ 12#9 ++ b ++ a ++ d ++ 15#7)
  | .fcmplt x b a d => .word (x ++ 13#9 ++ b ++ a ++ d ++ 15#7)
  | .fcmple x b a d => .word (x ++ 14#9 ++ b ++ a ++ d ++ 15#7)
  | .fclass x a d => .word (x ++ 480#14 ++ a ++ d ++ 15#7)
  | .fcvt x r t m a d => .word (x ++ r ++ 16#6 ++ t ++ 0#1 ++ m ++ a ++ d ++ 15#7)
  | .fcvti x r n a d => .word (x ++ r ++ 68#8 ++ n ++ a ++ d ++ 15#7)
  | .icvtf x r n a d => .word (x ++ r ++ 72#8 ++ n ++ a ++ d ++ 15#7)
  | .fabs x a d => .word (x ++ 608#14 ++ a ++ d ++ 15#7)
  | .fneg x a d => .word (x ++ 640#14 ++ a ++ d ++ 15#7)
  | .fsgnj x b a d => .word (x ++ 21#9 ++ b ++ a ++ d ++ 15#7)
  | .ldb _ p l g b d => .word (p ++ l ++ 0#2 ++ g ++ b ++ d ++ 19#7)
  | .ldh _ p l g b d => .word (p ++ l ++ 1#2 ++ g ++ b ++ d ++ 19#7)
  | .ldw _ p l g b d => .word (p ++ l ++ 2#2 ++ g ++ b ++ d ++ 19#7)
  | .ldd _ p l g b d => .word (p ++ l ++ 3#2 ++ g ++ b ++ d ++ 19#7)
  | .stb _ p g b d => .word (p ++ 0#6 ++ g ++ b ++ d ++ 23#7)
  | .sth _ p g b d => .word (p ++ 1#6 ++ g ++ b ++ d ++ 23#7)
  | .stw _ p g b d => .word (p ++ 2#6 ++ g ++ b ++ d ++ 23#7)
  | .std _ p g b d => .word (p ++ 3#6 ++ g ++ b ++ d ++ 23#7)
  | .ldAcq l z g b d => .word (0#6 ++ l ++ z ++ g ++ b ++ d ++ 27#7)
  | .lduAcq l z g b d => .word (1#6 ++ l ++ z ++ g ++ b ++ d ++ 27#7)
  | .stRel z g b d => .word (32#10 ++ z ++ g ++ b ++ d ++ 27#7)
  | .ldbu _ l g b d => .word (4#6 ++ l ++ 0#2 ++ g ++ b ++ d ++ 27#7)
  | .ldhu _ l g b d => .word (4#6 ++ l ++ 1#2 ++ g ++ b ++ d ++ 27#7)
  | .ldwu _ l g b d => .word (4#6 ++ l ++ 2#2 ++ g ++ b ++ d ++ 27#7)
  | .lde l g b d => .word (6#6 ++ l ++ 3#2 ++ g ++ b ++ d ++ 27#7)
  | .ldf l g b d => .word (8#6 ++ l ++ 3#2 ++ g ++ b ++ d ++ 27#7)
  | .stf g b d => .word (643#12 ++ g ++ b ++ d ++ 27#7)
  | .stff g b d => .word (771#12 ++ g ++ b ++ d ++ 27#7)
  | .feq l g b d => .word (14#6 ++ l ++ 3#2 ++ g ++ b ++ d ++ 27#7)
  | .feclr g b => .word (1027#12 ++ g ++ b ++ 27#12)
  | .ldbIdx _ i l g b d => .word (1#1 ++ i ++ l ++ 0#3 ++ g ++ b ++ d ++ 27#7)
  | .ldbuIdx _ i l g b d => .word (1#1 ++ i ++ l ++ 1#3 ++ g ++ b ++ d ++ 27#7)
  | .ldhIdx _ i l g b d => .word (1#1 ++ i ++ l ++ 2#3 ++ g ++ b ++ d ++ 27#7)
  | .ldhuIdx _ i l g b d => .word (1#1 ++ i ++ l ++ 3#3 ++ g ++ b ++ d ++ 27#7)
  | .ldwIdx _ i l g b d => .word (1#1 ++ i ++ l ++ 4#3 ++ g ++ b ++ d ++ 27#7)
  | .ldwuIdx _ i l g b d => .word (1#1 ++ i ++ l ++ 5#3 ++ g ++ b ++ d ++ 27#7)
  | .lddIdx _ i l g b d => .word (1#1 ++ i ++ l ++ 6#3 ++ g ++ b ++ d ++ 27#7)
  | .stbIdx _ i g b d => .word (1#1 ++ i ++ 7#7 ++ g ++ b ++ d ++ 27#7)
  | .sthIdx _ i g b d => .word (1#1 ++ i ++ 15#7 ++ g ++ b ++ d ++ 27#7)
  | .stwIdx _ i g b d => .word (1#1 ++ i ++ 23#7 ++ g ++ b ++ d ++ 27#7)
  | .stdIdx _ i g b d => .word (1#1 ++ i ++ 31#7 ++ g ++ b ++ d ++ 27#7)
  | .amoadd _ l b g a d => .word (0#4 ++ l ++ b ++ g ++ a ++ d ++ 31#7)
  | .amoand _ l b g a d => .word (1#4 ++ l ++ b ++ g ++ a ++ d ++ 31#7)
  | .amoor _ l b g a d => .word (2#4 ++ l ++ b ++ g ++ a ++ d ++ 31#7)
  | .amoxor _ l b g a d => .word (3#4 ++ l ++ b ++ g ++ a ++ d ++ 31#7)
  | .amomin _ l b g a d => .word (4#4 ++ l ++ b ++ g ++ a ++ d ++ 31#7)
  | .amomax _ l b g a d => .word (5#4 ++ l ++ b ++ g ++ a ++ d ++ 31#7)
  | .amoswp _ l b g a d => .word (6#4 ++ l ++ b ++ g ++ a ++ d ++ 31#7)
  | .amocas _ l b g a d => .word (7#4 ++ l ++ b ++ g ++ a ++ d ++ 31#7)
  | .amofaddS _ l b g a d => .word (8#4 ++ l ++ b ++ g ++ a ++ d ++ 31#7)
  | .amofaddD _ l b g a d => .word (9#4 ++ l ++ b ++ g ++ a ++ d ++ 31#7)
  | .get l e k g a d => .word (l ++ 0#3 ++ e ++ k ++ g ++ a ++ d ++ 35#7)
  | .put l e k g a d => .word (l ++ 1#3 ++ e ++ k ++ g ++ a ++ d ++ 35#7)
  | .ramo l o g a d => .word (l ++ 4#4 ++ o ++ g ++ a ++ d ++ 35#7)
  | .rsem l k a d => .word (l ++ 3#3 ++ k.extractLsb' 0 5 ++ 0#2 ++ k.extractLsb' 5 1 ++ a ++ d ++ 35#7)
  | .nadd v g a d => .word (0#8 ++ v ++ g ++ a ++ d ++ 39#7)
  | .nmax v g a d => .word (2#8 ++ v ++ g ++ a ++ d ++ 39#7)
  | .nred v g a d => .word (4#8 ++ v ++ g ++ a ++ d ++ 39#7)
  | .naxpy v g a d => .word (6#8 ++ v ++ g ++ a ++ d ++ 39#7)
  | .nfill b g a d => .word (4#7 ++ b ++ g ++ a ++ d ++ 39#7)
  | .namo l b g a d => .word (l ++ 5#3 ++ b ++ g ++ a ++ d ++ 39#7)
  | .fence k s => .word (0#13 ++ k ++ 0#2 ++ s ++ 43#12)
  | .fenceb s => .word (128#17 ++ s ++ 43#12)
  | .vld _ l m g a d => .word (0#2 ++ l ++ 0#4 ++ m ++ g ++ a ++ d ++ 71#7)
  | .vlds _ l i m g a d => .word (1#2 ++ l ++ i ++ m ++ g ++ a ++ d ++ 71#7)
  | .vgath _ l i m g a d => .word (2#2 ++ l ++ i ++ m ++ g ++ a ++ d ++ 71#7)
  | .vst _ m g a d => .word (768#10 ++ m ++ g ++ a ++ d ++ 71#7)
  | .vsts _ i m g a d => .word (49#6 ++ i ++ m ++ g ++ a ++ d ++ 71#7)
  | .vscat _ i m g a d => .word (50#6 ++ i ++ m ++ g ++ a ++ d ++ 71#7)
  | .viadd t l m b a d => .word (t ++ l ++ 0#5 ++ m ++ b ++ a ++ d ++ 55#7)
  | .visub t l m b a d => .word (t ++ l ++ 1#5 ++ m ++ b ++ a ++ d ++ 55#7)
  | .vimul t l m b a d => .word (t ++ l ++ 2#5 ++ m ++ b ++ a ++ d ++ 55#7)
  | .vimin t l m b a d => .word (t ++ l ++ 3#5 ++ m ++ b ++ a ++ d ++ 55#7)
  | .vimax t l m b a d => .word (t ++ l ++ 4#5 ++ m ++ b ++ a ++ d ++ 55#7)
  | .vand t l m b a d => .word (t ++ l ++ 5#5 ++ m ++ b ++ a ++ d ++ 55#7)
  | .vor t l m b a d => .word (t ++ l ++ 6#5 ++ m ++ b ++ a ++ d ++ 55#7)
  | .vxor t l m b a d => .word (t ++ l ++ 7#5 ++ m ++ b ++ a ++ d ++ 55#7)
  | .vshl t l m b a d => .word (t ++ l ++ 8#5 ++ m ++ b ++ a ++ d ++ 55#7)
  | .vshr t l m b a d => .word (t ++ l ++ 9#5 ++ m ++ b ++ a ++ d ++ 55#7)
  | .vsra t l m b a d => .word (t ++ l ++ 10#5 ++ m ++ b ++ a ++ d ++ 55#7)
  | .vcmpeq t l m b a d => .word (t.extractLsb' 1 1 ++ l ++ 11#5 ++ m ++ b ++ a ++ t.extractLsb' 0 1 ++ d ++ 55#7)
  | .vcmplt t l m b a d => .word (t.extractLsb' 1 1 ++ l ++ 12#5 ++ m ++ b ++ a ++ t.extractLsb' 0 1 ++ d ++ 55#7)
  | .vcmple t l m b a d => .word (t.extractLsb' 1 1 ++ l ++ 13#5 ++ m ++ b ++ a ++ t.extractLsb' 0 1 ++ d ++ 55#7)
  | .vadd t l m b a d => .word (t ++ l ++ 0#5 ++ m ++ b ++ a ++ d ++ 59#7)
  | .vsub t l m b a d => .word (t ++ l ++ 1#5 ++ m ++ b ++ a ++ d ++ 59#7)
  | .vmul t l m b a d => .word (t ++ l ++ 2#5 ++ m ++ b ++ a ++ d ++ 59#7)
  | .vfma t l m b a d => .word (t ++ l ++ 3#5 ++ m ++ b ++ a ++ d ++ 59#7)
  | .vfms t l m b a d => .word (t ++ l ++ 4#5 ++ m ++ b ++ a ++ d ++ 59#7)
  | .vmin t l m b a d => .word (t ++ l ++ 5#5 ++ m ++ b ++ a ++ d ++ 59#7)
  | .vmax t l m b a d => .word (t ++ l ++ 6#5 ++ m ++ b ++ a ++ d ++ 59#7)
  | .vabs t l m a d => .word (t ++ l ++ 7#5 ++ m ++ 0#4 ++ a ++ d ++ 59#7)
  | .vneg t l m a d => .word (t ++ l ++ 8#5 ++ m ++ 0#4 ++ a ++ d ++ 59#7)
  | .vrsqe t l m a d => .word (t ++ l ++ 9#5 ++ m ++ 0#4 ++ a ++ d ++ 59#7)
  | .vrcpe t l m a d => .word (t ++ l ++ 10#5 ++ m ++ 0#4 ++ a ++ d ++ 59#7)
  | .vexp2e t l m a d => .word (t ++ l ++ 11#5 ++ m ++ 0#4 ++ a ++ d ++ 59#7)
  | .vlog2e t l m a d => .word (t ++ l ++ 12#5 ++ m ++ 0#4 ++ a ++ d ++ 59#7)
  | .vcvt c l m a d => .word (c.extractLsb' 4 1 ++ l ++ 0#5 ++ m ++ c.extractLsb' 0 4 ++ a ++ d ++ 63#7)
  | .vquant s l m r t a d => .word (s ++ l ++ 1#5 ++ m ++ 0#1 ++ r ++ t ++ a ++ d ++ 63#7)
  | .vdeq s l m h a d => .word (s ++ l ++ 2#5 ++ m ++ 0#3 ++ h ++ a ++ d ++ 63#7)
  | .mand l b a d => .word (0#1 ++ l ++ 0#9 ++ b ++ 0#1 ++ a ++ 0#1 ++ d ++ 67#7)
  | .mor l b a d => .word (0#1 ++ l ++ 16#9 ++ b ++ 0#1 ++ a ++ 0#1 ++ d ++ 67#7)
  | .mnot l a d => .word (0#1 ++ l ++ 512#13 ++ a ++ 0#1 ++ d ++ 67#7)
  | .mpop d l b => .word (d.extractLsb' 4 1 ++ l ++ 48#9 ++ b ++ d.extractLsb' 0 4 ++ 67#11)
  | .vmov l m z a d => .word (0#1 ++ l ++ 4#5 ++ m ++ 0#2 ++ z ++ a ++ d ++ 67#7)
  | .vbcast a l m z d => .word (a.extractLsb' 4 1 ++ l ++ 5#5 ++ m ++ 0#2 ++ z ++ a.extractLsb' 0 4 ++ d ++ 67#7)
  | .vextr w l e b => .word (w.extractLsb' 4 1 ++ l ++ 6#5 ++ e.extractLsb' 4 3 ++ b ++ w.extractLsb' 0 4 ++ e.extractLsb' 0 4 ++ 67#7)
  | .vins w l e b => .word (w.extractLsb' 4 1 ++ l ++ 7#5 ++ e.extractLsb' 4 3 ++ b ++ w.extractLsb' 0 4 ++ e.extractLsb' 0 4 ++ 67#7)
  | .vperm z l m b a d => .word (z ++ l ++ 8#5 ++ m ++ b ++ a ++ d ++ 67#7)
  | .vslide w l b d => .word (w.extractLsb' 4 1 ++ l ++ 72#8 ++ b ++ w.extractLsb' 0 4 ++ d ++ 67#7)
  | .vsel z l m b a d => .word (z ++ l ++ 10#5 ++ m ++ b ++ a ++ d ++ 67#7)
  | .vredsum w l m b t => .word (w.extractLsb' 4 1 ++ l ++ 11#5 ++ m ++ b ++ w.extractLsb' 0 4 ++ t ++ 67#7)
  | .vredmax w l m b t => .word (w.extractLsb' 4 1 ++ l ++ 12#5 ++ m ++ b ++ w.extractLsb' 0 4 ++ t ++ 67#7)
  | .vredmin w l m b t => .word (w.extractLsb' 4 1 ++ l ++ 13#5 ++ m ++ b ++ w.extractLsb' 0 4 ++ t ++ 67#7)
  | .mcfg l b t => .word (l ++ 0#10 ++ b ++ 0#4 ++ t ++ 75#7)
  | .mload l k b t => .word (l ++ 8#7 ++ k ++ b ++ 0#4 ++ t ++ 75#7)
  | .mswap l => .word (l ++ 33554507#28)
  | .mstep l m b v t => .word (l ++ 3#4 ++ m ++ 0#3 ++ b ++ v ++ t ++ 75#7)
  | .mzero l t => .word (l ++ 131072#19 ++ t ++ 75#7)
  | .mdrain l r f b v t => .word (l ++ 5#4 ++ r ++ f ++ b ++ v ++ t ++ 75#7)
  | .mflags l b => .word (l ++ 384#10 ++ b ++ 75#13)
  | .msave l k b t => .word (l ++ 56#7 ++ k ++ b ++ 0#4 ++ t ++ 75#7)
  | .mrest l k b t => .word (l ++ 64#7 ++ k ++ b ++ 0#4 ++ t ++ 75#7)
  | .tcopy k c b a => .word (k.extractLsb' 5 1 ++ 0#3 ++ c ++ 0#5 ++ b ++ a ++ k.extractLsb' 0 5 ++ 79#7)
  | .tgath k c b a => .word (k.extractLsb' 5 1 ++ 0#3 ++ c ++ 1#5 ++ b ++ a ++ k.extractLsb' 0 5 ++ 79#7)
  | .tscat k c b a => .word (k.extractLsb' 5 1 ++ 0#3 ++ c ++ 2#5 ++ b ++ a ++ k.extractLsb' 0 5 ++ 79#7)
  | .tfill k c b a => .word (k.extractLsb' 5 1 ++ 0#3 ++ c ++ 3#5 ++ b ++ a ++ k.extractLsb' 0 5 ++ 79#7)
  | .ego => .word (16777295#32)
  | .estat d => .word (5120#20 ++ d ++ 79#7)
  | .ecan => .word (25165903#32)
  | .semadd k a => .word (k.extractLsb' 5 1 ++ 0#9 ++ k.extractLsb' 0 5 ++ a ++ 83#12)
  | .semset k a => .word (k.extractLsb' 5 1 ++ 1#9 ++ k.extractLsb' 0 5 ++ a ++ 83#12)
  | .semrd k d => .word (k.extractLsb' 5 1 ++ 2#9 ++ k.extractLsb' 0 5 ++ 0#5 ++ d ++ 83#7)
  | .semwait k a => .word (k.extractLsb' 5 1 ++ 3#9 ++ k.extractLsb' 0 5 ++ a ++ 83#12)
  | .bar k => .word (0#12 ++ k ++ 87#17)
  | .barar k d => .word (4#12 ++ k ++ 0#5 ++ d ++ 87#7)
  | .barwt k a => .word (8#12 ++ k ++ a ++ 87#12)
  | .gred o a d => .word (0#1 ++ o ++ 96#10 ++ a ++ d ++ 87#7)
  | .send b a d => .word (0#10 ++ b ++ a ++ d ++ 91#7)
  | .sendam b a d => .word (1#10 ++ b ++ a ++ d ++ 91#7)
  | .sendamR l b a d => .word (1#1 ++ l ++ 1#5 ++ b ++ a ++ d ++ 91#7)
  | .mbxst d => .word (2048#20 ++ d ++ 91#7)
  | .mbxstClr d => .word (526336#20 ++ d ++ 91#7)
  | .waitfAll b d => .word (3#10 ++ b ++ 0#5 ++ d ++ 91#7)
  | .waitfAny b d => .word (515#10 ++ b ++ 0#5 ++ d ++ 91#7)
  | .backoff d => .word (4096#20 ++ d ++ 91#7)
  | .tqpush k b a d => .word (0#2 ++ k ++ 0#5 ++ b ++ a ++ d ++ 95#7)
  | .tqdone a d => .word (32#15 ++ a ++ d ++ 95#7)
  | .tqdoneT a d => .word (16416#15 ++ a ++ d ++ 95#7)
  | .succok => .word (8388703#32)
  | .waitpred => .word (12583007#32)
  | .yield => .word (16777311#32)
  | .exit => .word (20971615#32)
  | .colld k b a => .word (0#1 ++ k ++ 0#6 ++ b ++ a ++ 99#12)
  | .colrun k a => .word (0#1 ++ k ++ 32#11 ++ a ++ 99#12)
  | .colwt d => .word (2048#20 ++ d ++ 99#7)
  | .colst d => .word (3072#20 ++ d ++ 99#7)
  | .colstAbort d => .word (527360#20 ++ d ++ 99#7)
  | .crd i d => .word (i ++ 0#8 ++ d ++ 103#7)
  | .crdStat d => .word (0#20 ++ d ++ 103#7)
  | .crdTime d => .word (12288#20 ++ d ++ 103#7)
  | .cwr i a => .word (i ++ 1#3 ++ a ++ 103#12)
  | .cwrStat a => .word (1#15 ++ a ++ 103#12)
  | .cwrTdp a => .word (33#15 ++ a ++ 103#12)
  | .cwrWp a => .word (41#15 ++ a ++ 103#12)
  | .cwrVp a => .word (49#15 ++ a ++ 103#12)
  | .cwrGtoff a => .word (393#15 ++ a ++ 103#12)
  | .cwrRot a => .word (769#15 ++ a ++ 103#12)
  | .trap c => .word (0#10 ++ c ++ 107#12)
  | .brk c => .word (1#10 ++ c ++ 107#12)
  | .halt => .word (8388715#32)
  | .wfm a => .word (96#15 ++ a ++ 107#12)
  | .eret b a => .word (0#10 ++ b ++ a ++ 111#12)
  | .resume a => .word (32#15 ++ a ++ 111#12)
  | .preempt a d => .word (64#15 ++ a ++ d ++ 111#7)
  | .preemptDrop a d => .word (64#15 ++ a ++ d ++ 111#7)
  | .ctxld b a => .word (3#10 ++ b ++ a ++ 111#12)
  | .ctxldTdp b a => .word (3#10 ++ b ++ a ++ 111#12)
  | .tlbinv b a => .word (4#10 ++ b ++ a ++ 111#12)
  | .tlbinvAll b a => .word (4#10 ++ b ++ a ++ 111#12)
  | .segld b a k => .word (5#10 ++ b ++ a ++ 0#2 ++ k ++ 111#7)
  | .rotset a => .word (192#15 ++ a ++ 111#12)
  | .dsend buf ch qo ce cnt len => .dword (1#5 ++ buf ++ ch ++ qo ++ ce ++ cnt ++ 0#13 ++ len)
  | .drecv buf ch qo ce cnt len => .dword (2#5 ++ buf ++ ch ++ qo ++ ce ++ cnt ++ 0#13 ++ len)
  | .dcopy buf sbuf qo ce cnt qs len => .dword (3#5 ++ buf ++ sbuf ++ qo ++ ce ++ cnt ++ qs ++ 0#9 ++ len)
  | .dred buf tree qo ce cnt op len => .dword (4#5 ++ buf ++ 0#1 ++ tree ++ qo ++ ce ++ cnt ++ op ++ 0#10 ++ len)
  | .dwait n tgt tb tmo thr => .dword (5#5 ++ n ++ tgt ++ tb ++ tmo ++ thr)
  | .dsig n ch amt => .dword (6#5 ++ n ++ ch ++ 0#1 ++ 0#20 ++ amt)
  | .dsigLoc n amt => .dword (6#5 ++ n ++ 0#3 ++ 1#1 ++ 0#20 ++ amt)
  | .dloop qa tgt => .dword (7#5 ++ 0#2 ++ qa ++ tgt ++ 0#44)
  | .dloopJmp tgt => .dword (7#5 ++ 1#2 ++ 0#4 ++ tgt ++ 0#44)
  | .dloopBz qa tgt => .dword (7#5 ++ 2#2 ++ qa ++ tgt ++ 0#44)
  | .dloopBnz qa tgt => .dword (7#5 ++ 3#2 ++ qa ++ tgt ++ 0#44)
  | .dnextAdd qa imm => .dword (8#5 ++ 0#3 ++ qa ++ 0#4 ++ 0#16 ++ imm)
  | .dnextMod qa qb imm => .dword (8#5 ++ 1#3 ++ qa ++ qb ++ 0#16 ++ imm)
  | .dnextSet qa imm => .dword (8#5 ++ 2#3 ++ qa ++ 0#4 ++ 0#16 ++ imm)
  | .dnextMov qa qb imm => .dword (8#5 ++ 3#3 ++ qa ++ qb ++ 0#16 ++ imm)
  | .dnextMul qa qb imm => .dword (8#5 ++ 4#3 ++ qa ++ qb ++ 0#16 ++ imm)
  | .dnextRnk qa imm => .dword (8#5 ++ 5#3 ++ qa ++ 0#4 ++ 0#16 ++ imm)
  | .djoinSend ch qp rate => .dword (9#5 ++ 0#1 ++ ch ++ 0#1 ++ qp ++ 0#18 ++ rate ++ 0#16)
  | .djoinRecv ch qp rate => .dword (9#5 ++ 0#1 ++ ch ++ 1#1 ++ qp ++ 0#18 ++ rate ++ 0#16)
  | .djoinTree tree qp qc mask rate => .dword (9#5 ++ 1#1 ++ tree ++ 0#1 ++ qp ++ qc ++ mask ++ 0#11 ++ rate ++ 0#16)
  | .dverRd qa => .dword (10#5 ++ 0#2 ++ qa ++ 0#12 ++ 0#41)
  | .dverAgree qa t => .dword (10#5 ++ 1#2 ++ qa ++ t ++ 0#41)
  | .dbar tgt tb tmo => .dword (11#5 ++ 0#3 ++ tgt ++ tb ++ tmo ++ 0#32)
  | .dhalt code => .dword (12#5 ++ code ++ 0#52)
  | .resultFill _ => .none
  | .accessPerformedAtHome _ _ => .none
  | .storeAcknowledge _ => .none
  | .flitInject _ _ => .none
  | .exchangeInject _ => .none
  | .hbmServiceStart _ _ => .none
  | .hbmServiceDone _ _ => .none
  | .icacheFill _ => .none
  | .translationWalkDone _ _ => .none
  | .pageFaultWake _ _ => .none
  | .vectorServe _ => .none
  | .vectorFill _ => .none
  | .bayEntryPerform _ => .none
  | .bayEntryEffect _ => .none
  | .portTransferDone _ => .none
  | .portTransferFault _ => .none
  | .bankCommandExecute _ => .none
  | .engineCommandStart _ => .none
  | .engineWindowCommit _ => .none
  | .enginePark _ => .none
  | .engineRestart _ => .none
  | .engineInternalError _ => .none
  | .remoteAccessArrive _ => .none
  | .remoteComplete _ => .none
  | .rsemArrive _ => .none
  | .depositArrive _ => .none
  | .sendAck _ => .none
  | .amArrive _ => .none
  | .sendamAck _ => .none
  | .sendamReply _ => .none
  | .handlerStart _ => .none
  | .trapRecordDeliver _ _ => .none
  | .slot15Fault _ => .none
  | .barrierArrival _ _ _ _ => .none
  | .barrierComplete _ _ _ _ => .none
  | .gredContributionArrive _ _ _ _ => .none
  | .gredResultDeliver _ _ _ _ => .none
  | .threadSwitch _ _ => .none
  | .preemptSaveDone _ _ => .none
  | .ctxldLoadDone _ _ => .none
  | .exitComplete _ _ => .none
  | .tlbinvComplete _ _ => .none
  | .rotApply _ => .none
  | .yieldEnd _ _ => .none
  | .backoffExpire _ _ => .none
  | .wfmExpire _ _ => .none
  | .hostEnqueue _ _ _ => .none
  | .tqpushArrive _ => .none
  | .tqpushAck _ => .none
  | .dispatchPass _ => .none
  | .taskRetire _ _ => .none
  | .watchdogTide _ _ => .none
  | .watchdogExpire _ _ => .none
  | .gtoffApply _ => .none
  | .islandClockChange _ _ => .none
  | .debtAccrue _ _ => .none
  | .sliceStart _ => .none
  | .handoverStop _ _ => .none
  | .settleEnd _ _ => .none
  | .slotSaveDone _ _ => .none
  | .slotRestoreDone _ _ => .none
  | .poolPhaseDone _ => .none
  | .lateResultToSaveArea _ => .none
  | .circuitRequestArrive _ => .none
  | .circuitDecide _ => .none
  | .circuitSwitch _ => .none
  | .dorentOpComplete _ _ => .none
  | .dsigArrive _ _ => .none
  | .reductionSlotCombine _ _ => .none
  | .dorentTimeout _ => .none
  | .djoinTimeout _ => .none
  | .dbarComplete _ _ => .none
  | .closingBarrierDone _ _ => .none
  | .closingBarrierTimeout _ => .none
  | .colldCopyDone _ => .none
  | .dorentPark _ => .none
  | .agreeVoteArrive _ => .none
  | .agreeDeadline _ => .none
  | .agreeDecisionArrive _ => .none
  | .agreeInstall _ => .none
  | .agreeNoDecision _ => .none
  | .catchUpRecord _ _ => .none
  | .linkReplay _ => .none
  | .uncorrectableError _ => .none
  | .patrolScrub _ => .none
  | .dieReset _ => .none
  | .dieResetLogic _ => .none
  | .dieScrub _ => .none
  | .dieRejoin _ => .none
  | .unitFence _ => .none
  | .fatalError _ => .none
  | .moduleReset => .none
  | .secureBoot _ => .none
  | .leaCreate _ => .none
  | .leaDestroy _ => .none
  | .sliceScheduleSet _ _ => .none
  | .dispatchTemplateInstall _ _ _ => .none
  | .stage2Change _ _ _ => .none
  | .keyAssign _ _ => .none
  | .frameRebind _ _ => .none
  | .wdlimSet _ _ => .none
  | .groupCreate _ _ _ _ _ => .none
  | .spdmRequest _ => .none
  | .ideKm _ _ => .none
  | .debugUnlock _ _ => .none
  | .debugAccess _ => .none
  | .debugStop => .none
  | .debugResume => .none
  | .debugBrkcap _ => .none
  | .debugAddressMatchSet _ _ _ => .none
  | .addressMatchHalt => .none
  | .debugSessionEnd => .none
  | .decodeTrap _ _ _ => .none
  | .instructionFetch => .none
  | .dorentDecodeFault _ => .none
  | .hostMemoryAccess _ _ _ => .none
  | .queueDisable _ _ _ => .none
  | .leaMigration _ _ _ => .none
  | .keyIdentifierRemove _ _ => .none

/-- The scope of the prefix an access carries (R66). -/
def rxOf : Instr → Option (BitVec 3)
  | .ldd16 rx _ _ _ _ => rx
  | .std16 rx _ _ _ _ => rx
  | .ldb rx _ _ _ _ _ => rx
  | .ldh rx _ _ _ _ _ => rx
  | .ldw rx _ _ _ _ _ => rx
  | .ldd rx _ _ _ _ _ => rx
  | .stb rx _ _ _ _ => rx
  | .sth rx _ _ _ _ => rx
  | .stw rx _ _ _ _ => rx
  | .std rx _ _ _ _ => rx
  | .ldbu rx _ _ _ _ => rx
  | .ldhu rx _ _ _ _ => rx
  | .ldwu rx _ _ _ _ => rx
  | .ldbIdx rx _ _ _ _ _ => rx
  | .ldbuIdx rx _ _ _ _ _ => rx
  | .ldhIdx rx _ _ _ _ _ => rx
  | .ldhuIdx rx _ _ _ _ _ => rx
  | .ldwIdx rx _ _ _ _ _ => rx
  | .ldwuIdx rx _ _ _ _ _ => rx
  | .lddIdx rx _ _ _ _ _ => rx
  | .stbIdx rx _ _ _ _ => rx
  | .sthIdx rx _ _ _ _ => rx
  | .stwIdx rx _ _ _ _ => rx
  | .stdIdx rx _ _ _ _ => rx
  | .amoadd rx _ _ _ _ _ => rx
  | .amoand rx _ _ _ _ _ => rx
  | .amoor rx _ _ _ _ _ => rx
  | .amoxor rx _ _ _ _ _ => rx
  | .amomin rx _ _ _ _ _ => rx
  | .amomax rx _ _ _ _ _ => rx
  | .amoswp rx _ _ _ _ _ => rx
  | .amocas rx _ _ _ _ _ => rx
  | .amofaddS rx _ _ _ _ _ => rx
  | .amofaddD rx _ _ _ _ _ => rx
  | .vld rx _ _ _ _ _ => rx
  | .vlds rx _ _ _ _ _ _ => rx
  | .vgath rx _ _ _ _ _ _ => rx
  | .vst rx _ _ _ _ => rx
  | .vsts rx _ _ _ _ _ => rx
  | .vscat rx _ _ _ _ _ => rx
  | _ => none

/-- A Dorent word: its instruction, or the error of R282 (0x01 or 0x02). -/
noncomputable def decodeDorent (w : BitVec 64) : UnitDec :=
  match (w.extractLsb' 59 5).toNat with
  | 0x01 => chkD ((w.extractLsb' 32 13 : BitVec 13) == 0) (.dsend (w.extractLsb' 56 3) (w.extractLsb' 53 3) (w.extractLsb' 49 4) (w.extractLsb' 48 1) (w.extractLsb' 45 3) (w.extractLsb' 0 32))
  | 0x02 => chkD ((w.extractLsb' 32 13 : BitVec 13) == 0) (.drecv (w.extractLsb' 56 3) (w.extractLsb' 53 3) (w.extractLsb' 49 4) (w.extractLsb' 48 1) (w.extractLsb' 45 3) (w.extractLsb' 0 32))
  | 0x03 => chkD ((w.extractLsb' 32 9 : BitVec 9) == 0) (.dcopy (w.extractLsb' 56 3) (w.extractLsb' 53 3) (w.extractLsb' 49 4) (w.extractLsb' 48 1) (w.extractLsb' 45 3) (w.extractLsb' 41 4) (w.extractLsb' 0 32))
  | 0x04 => chkD ((w.extractLsb' 55 1 ++ w.extractLsb' 32 10 : BitVec 11) == 0) (.dred (w.extractLsb' 56 3) (w.extractLsb' 53 2) (w.extractLsb' 49 4) (w.extractLsb' 48 1) (w.extractLsb' 45 3) (w.extractLsb' 42 3) (w.extractLsb' 0 32))
  | 0x05 => chkD true (.dwait (w.extractLsb' 56 3) (w.extractLsb' 47 9) (w.extractLsb' 46 1) (w.extractLsb' 32 14) (w.extractLsb' 0 32))
  | 0x06 => if w.extractLsb' 52 1 == 0 then chkD ((w.extractLsb' 32 20 : BitVec 20) == 0) (.dsig (w.extractLsb' 56 3) (w.extractLsb' 53 3) (w.extractLsb' 0 32))
      else chkD ((w.extractLsb' 53 3 ++ w.extractLsb' 32 20 : BitVec 23) == 0) (.dsigLoc (w.extractLsb' 56 3) (w.extractLsb' 0 32))
  | 0x07 =>
    match (w.extractLsb' 57 2).toNat with
    | 0 => chkD ((w.extractLsb' 0 44 : BitVec 44) == 0) (.dloop (w.extractLsb' 53 4) (w.extractLsb' 44 9))
    | 1 => chkD ((w.extractLsb' 53 4 ++ w.extractLsb' 0 44 : BitVec 48) == 0) (.dloopJmp (w.extractLsb' 44 9))
    | 2 => chkD ((w.extractLsb' 0 44 : BitVec 44) == 0) (.dloopBz (w.extractLsb' 53 4) (w.extractLsb' 44 9))
    | _ => chkD ((w.extractLsb' 0 44 : BitVec 44) == 0) (.dloopBnz (w.extractLsb' 53 4) (w.extractLsb' 44 9))
  | 0x08 =>
    match (w.extractLsb' 56 3).toNat with
    | 0 => chkD ((w.extractLsb' 48 4 ++ w.extractLsb' 32 16 : BitVec 20) == 0) (.dnextAdd (w.extractLsb' 52 4) (w.extractLsb' 0 32))
    | 1 => chkD ((w.extractLsb' 32 16 : BitVec 16) == 0) (.dnextMod (w.extractLsb' 52 4) (w.extractLsb' 48 4) (w.extractLsb' 0 32))
    | 2 => chkD ((w.extractLsb' 48 4 ++ w.extractLsb' 32 16 : BitVec 20) == 0) (.dnextSet (w.extractLsb' 52 4) (w.extractLsb' 0 32))
    | 3 => chkD ((w.extractLsb' 32 16 : BitVec 16) == 0) (.dnextMov (w.extractLsb' 52 4) (w.extractLsb' 48 4) (w.extractLsb' 0 32))
    | 4 => chkD ((w.extractLsb' 32 16 : BitVec 16) == 0) (.dnextMul (w.extractLsb' 52 4) (w.extractLsb' 48 4) (w.extractLsb' 0 32))
    | 5 => chkD ((w.extractLsb' 48 4 ++ w.extractLsb' 32 16 : BitVec 20) == 0) (.dnextRnk (w.extractLsb' 52 4) (w.extractLsb' 0 32))
    | _ => .bad 0x02
  | 0x09 =>
    if w.extractLsb' 58 1 == 1 then chkD ((w.extractLsb' 55 1 ++ w.extractLsb' 32 11 ++ w.extractLsb' 0 16 : BitVec 28) == 0) (.djoinTree (w.extractLsb' 56 2) (w.extractLsb' 51 4) (w.extractLsb' 47 4) (w.extractLsb' 43 4) (w.extractLsb' 16 16))
    else if w.extractLsb' 54 1 == 0 then chkD ((w.extractLsb' 32 18 ++ w.extractLsb' 0 16 : BitVec 34) == 0) (.djoinSend (w.extractLsb' 55 3) (w.extractLsb' 50 4) (w.extractLsb' 16 16))
    else chkD ((w.extractLsb' 32 18 ++ w.extractLsb' 0 16 : BitVec 34) == 0) (.djoinRecv (w.extractLsb' 55 3) (w.extractLsb' 50 4) (w.extractLsb' 16 16))
  | 0x0A =>
    match (w.extractLsb' 57 2).toNat with
    | 0 => chkD ((w.extractLsb' 41 12 ++ w.extractLsb' 0 41 : BitVec 53) == 0) (.dverRd (w.extractLsb' 53 4))
    | 1 => chkD ((w.extractLsb' 0 41 : BitVec 41) == 0) (.dverAgree (w.extractLsb' 53 4) (w.extractLsb' 41 12))
    | _ => .bad 0x02
  | 0x0B => chkD ((w.extractLsb' 56 3 ++ w.extractLsb' 0 32 : BitVec 35) == 0) (.dbar (w.extractLsb' 47 9) (w.extractLsb' 46 1) (w.extractLsb' 32 14))
  | 0x0C => chkD ((w.extractLsb' 0 52 : BitVec 52) == 0) (.dhalt (w.extractLsb' 52 7))
  | _ => .bad 0x01

/-- What the decoder reads from the halfwords at PC (R47, R48, R66): an instruction of a number of halfwords; a rejection
with its cause, its TVAL bits and ILEN (R401); or nothing yet, for want of the next halfword. -/
inductive Decoded where
  | ok (i : Instr) (ilen : Nat)
  | bad (cause : BitVec 8) (bits : BitVec 64) (ilen : Nat)
  | more
  deriving DecidableEq, Repr

/-- The bits of a prefix and its follower (R66). -/
def pairBits (p : BitVec 16) (f : BitVec 32) : BitVec 64 := 0#16 ++ f ++ p

/-- What a prefix and its decoded follower give (R66): the relaxed access, cause 0x03 before another instruction or a second
prefix, or the follower's own cause. -/
def joinRx (s : BitVec 3) (bits : BitVec 64) (n : Nat) : UnitDec → Decoded
  | .ok i =>
    match withRx s i with
    | some j => .ok j n
    | none => .bad 0x03 bits n
  | .rx _ => .bad 0x03 bits n
  | .bad c => .bad c bits n

/-- The decoder on the halfwords at PC, as many as have been fetched (R47, R48, R66). -/
noncomputable def decode (priv : Bool) : List (BitVec 16) → Decoded
  | [] => .more
  | h0 :: r =>
    if h0.extractLsb' 0 2 == 3 then
      match r with
      | [] => .more
      | h1 :: _ =>
        match decode32 priv (h1 ++ h0) with
        | .ok i => .ok i 2
        | .bad c => .bad c (BitVec.setWidth 64 (h1 ++ h0)) 2
        | .rx _ => .bad 0x01 (BitVec.setWidth 64 (h1 ++ h0)) 2
    else
      match decode16 h0 with
      | .ok i => .ok i 1
      | .bad c => .bad c (BitVec.setWidth 64 h0) 1
      | .rx s =>
        match r with
        | [] => .more
        | h1 :: r2 =>
          if h1.extractLsb' 0 2 == 3 then
            match r2 with
            | [] => .more
            | h2 :: _ => joinRx s (pairBits h0 (h2 ++ h1)) 3 (decode32 priv (h2 ++ h1))
          else joinRx s (pairBits h0 (BitVec.setWidth 32 h1)) 2 (decode16 h1)

/-- The halfwords of a code, the first at the lowest address (R47). -/
def Code.halves : Code → List (BitVec 16)
  | .none => []
  | .half c => [c]
  | .word c => [c.extractLsb' 0 16, c.extractLsb' 16 16]
  | .dword c => [c.extractLsb' 0 16, c.extractLsb' 16 16, c.extractLsb' 32 16, c.extractLsb' 48 16]

/-- The halfword of a prefix (R244). -/
def rxHalf (s : BitVec 3) : BitVec 16 := 0#11 ++ s ++ 2#2

/-- The halfwords of an instruction, its prefix first (R47, R66); none for a step that no thread and no Dorent context
issues. -/
def encode (i : Instr) : List (BitVec 16) :=
  match rxOf i with
  | some s => rxHalf s :: (codeOf i).halves
  | none => (codeOf i).halves

/-- The instruction's bits as a trap value gives them (R48), without a prefix. -/
def insnBits (i : Instr) : BitVec 64 :=
  match codeOf i with
  | Code.none => 0
  | Code.half c => BitVec.setWidth 64 c
  | Code.word c => BitVec.setWidth 64 c
  | Code.dword c => c

/-- The length of an instruction in bytes, its prefix included (R47, R66). -/
def sizeOf (i : Instr) : Nat := 2 * (encode i).length

/-- The instructions that the decoder gives for their own code: those with a code, but for the table's second names of one
word (R414, R416, R417: an operand register decides between them). -/
def Instr.decodable : Instr → Bool
  | .preemptDrop _ _ => false
  | .ctxldTdp _ _ => false
  | .tlbinvAll _ _ => false
  | i => match codeOf i with
    | Code.none => false
    | Code.dword _ => false
    | _ => i.wellFormed

/-- The instructions a Dorent context decodes (R282). -/
def Instr.dorentCode (i : Instr) : Option (BitVec 64) :=
  match codeOf i with
  | .dword c => some c
  | _ => none

/-- The halfword number k of a number. -/
def halfOf (w k : Nat) : BitVec 16 := BitVec.ofNat 16 (w / 65536 ^ k)

/-- The instruction that the decoder reads from an instruction whose bits are w, numbered as the opcode table numbers them:
a Dorent word where the table gives 64 bits, else the halfwords at supervisor level (R47, R282). -/
noncomputable def decodeTableWord (nbits w : Nat) : Option Instr :=
  if nbits = 64 then
    match decodeDorent (BitVec.ofNat 64 w) with
    | .ok i => some i
    | _ => none
  else
    match decode true [halfOf w 0, halfOf w 1, halfOf w 2] with
    | .ok i _ => some i
    | _ => none

end Sys2Proof
end

