-- ==== Sys2Proof/Machine/State.lean ====
section
/-! DEFINITION. The state of one BX2048 module as plain data (R10-R46 and the chapters they name), the reasons a step can
stop, and the state right after reset. Lists keyed by a number hold an entry only where something differs from reset. -/

namespace Sys2Proof.Machine

/-! ## Memory (R25, R28, R38, R421) -/

/-- Bytes by address, strictly rising, no entry equal to what an unlisted address reads as (0x00, log 4). -/
abbrev Cells := List Host.Cell

/-- The full/empty state of a doubleword that is not full (R25). -/
inductive FE where
  | empty | pending
  deriving DecidableEq, Repr

/-- All memory of the module: bytes, the doublewords of local store and commons that are not full (R25), the addresses of
the poisoned doublewords (R421), and the words of local store last written by a store, a deposit or a unit, each with its
writer: a thread's number and one, or 0 for any other party (R206). Addresses are the flat numbers of log 3. Two records of the past
are the model's own: the values that bytes of each 32 KiB have been given, a bit for each (R7; log 7), and what each write of HBM
found in its doublewords, the newest first (R69; log 10). -/
structure Memory where
  cells : Cells
  fe : List (Nat × FE)
  poison : List Nat
  ext : List (Nat × Nat)
  past : List (Nat × BitVec 256)
  log : List (Nat × PWord)
  deriving DecidableEq, Repr

/-- Keys strictly rising. -/
def sortedKeys {α : Type} : List (Nat × α) → Bool
  | (a, _) :: (b, y) :: t => decide (a < b) && sortedKeys ((b, y) :: t)
  | _ => true

/-- Numbers strictly rising. -/
def sortedNats : List Nat → Bool
  | a :: b :: t => decide (a < b) && sortedNats (b :: t)
  | _ => true

/-- The canonical form of a list of bytes. -/
def Cells.wf (c : Cells) : Bool := sortedKeys c && c.all (fun p => p.2 != 0#8)

/-- The canonical form of memory. -/
def Memory.wf (m : Memory) : Bool := Cells.wf m.cells && sortedKeys m.fe && sortedNats m.poison && sortedKeys m.ext

/-! ## Threads (R13-R33) -/

/-- The states of a slot (R19). -/
inductive RunState where
  | absent | ready | forfeiting | parked | matrixStep | halted
  deriving DecidableEq, Repr

/-- What a Parked thread awaits: the content of WAIT (R29, R335; log 11). -/
inductive Wait where
  | none
  | word (addr : Nat)
  /-- WAITF: the masked registers with their addresses, .ANY, the destination, and whether the mask was poisoned (R346). -/
  | words (regs : List (Nat × Nat)) (any : Bool) (dst : Nat) (bad : Bool)
  | home (id : Nat)
  | sem (k : Nat) (thr : Nat)
  | barrier (k : Nat) (gen : Nat)
  /-- TQDONE: the token, the destination, and whether the token was poisoned (R353). -/
  | token (tok : Nat) (dst : Nat) (bad : Bool)
  | pred
  | backoff (due : Nat) (dst : Nat) (n : Nat)
  | time (due : Nat)
  /-- COLWT: its destination (R281). -/
  | coll (dst : Nat)
  | colld
  | pool
  | access (id : Nat)
  /-- A fetch held by a page fault on a frame, or by a translation fault (R437). -/
  | fetch (frame : Option Nat)
  | port
  | ctxld
  | idle15
  /-- EXIT, until nothing of the thread is outstanding (R356). -/
  | exit
  /-- HRET, until nothing of the handler is outstanding (R335, R342). -/
  | hret
  deriving DecidableEq, Repr

/-- Why a thread takes no turn although it is not Parked: it waits for an acknowledgement (R335), for a turn 0
(R355, R419), for a switch, a save to end (R31, R414), for the drop of translations (R417), or it owes
own turns to the normaliser (R94). -/
inductive Hold where
  | none
  | ack (id : Nat)
  | turn0 (cycle : Nat)
  | rot
  | switching (tdp : Nat)
  | preempting (slot : Nat)
  | tlb (die : Nat) (all : Bool) (va : Nat)
  | owed (turns : Nat)
  deriving DecidableEq, Repr

/-- A segment register (R36). -/
structure Seg where
  base : BitVec 48
  limit : BitVec 49
  attr : BitVec 16
  deriving DecidableEq, Repr

/-- A thread's live descriptor (R29). -/
structure Desc where
  pc : Word
  stat : Word
  wp : Word
  vp : Word
  fmtd : Word
  scla : Word
  sclb : Word
  srgen : Word
  tcause : Word
  tpc : Word
  tval : Word
  segs : List Seg
  deriving DecidableEq, Repr

/-- A trap record: w0-w3 of R401 and the place of the trap file it is for (0-14 a slot, 15 Headland, R339). -/
structure Record where
  w0 : Word
  w1 : Word
  w2 : Word
  w3 : Word
  place : Nat
  deriving DecidableEq, Repr

/-- One thread slot (R16-R19, R29-R33). -/
structure Slot where
  run : RunState
  /-- The lea of the resident thread. -/
  lea : Option Nat
  /-- The model's number of the resident thread (log 13). -/
  tid : Nat
  desc : Desc
  tdp : Word
  wait : Wait
  hold : Hold
  /-- The gang of the thread, or none (R416). -/
  gang : Option Nat
  /-- GANG, the core fields of CORE and SLOT as dispatch set them (R42-R44). -/
  gangReg : Word
  coreReg : Word
  slotReg : Word
  /-- Instructions issued (R62) and the cycle of the last issue (R314). -/
  issued : Nat
  lastIssue : Int
  /-- A trap the thread takes before its next issue: cause and TVAL (R33). -/
  owedTrap : Option (Nat × Word)
  /-- Records raised and not yet in their place, oldest first, each with its thread and the number before which the accesses
  and results that it waits for come (R339, R400). -/
  record : List (Nat × Nat × Record)
  /-- Halted by the debug function, and the run state it had (R396, R397). -/
  debugHalt : Option RunState
  /-- The first instruction after a load issues in the slot's own turn only (R31, R319). -/
  fresh : Bool
  /-- Named by a PREEMPT or CTXLD that has not completed: issuing slot, destination address, handle index or drop (R414). -/
  claimed : Option (Nat × Nat × Option Nat)
  /-- The slot's owner while a handover runs: stopped at a cycle, vacated, or neither (R378). -/
  stopped : Option Nat
  vacated : Bool
  /-- The slot of the counter at which the thread was loaded (R328). -/
  since : Nat
  /-- A wait of an instruction of the thread has ended since the last watchdog count (R328). -/
  woken : Bool
  /-- A descriptor whose gang and issuer's slot CTXLD has named and not yet loaded (R416). -/
  loading : Option (Nat × Nat × Option Nat)
  /-- The launch block that a COLRUN read at issue, while it waits as a fence does (R280). -/
  launch : Option (List Word)
  /-- The writes of HBM that the thread's fetches and LDL see: those up to this number (R69; log 10). -/
  view : Nat
  deriving DecidableEq, Repr

/-! ## Outstanding work of threads (R61, R62, R231) -/

/-- How far one event of an access has come: waiting in the injection queue, held back by a word's state in order of
arrival `n` (R236), sent, arrived at a remote die, held by a page fault on a guest frame, held by a translation fault of a
cause, in HBM service since a slot, or performed. -/
inductive Stage where
  | queued
  | waiting (n : Nat)
  | sent
  | arrived
  | pageFault (frame : Nat)
  | fault (cause : Nat)
  | service (slot : Nat)
  | performed
  deriving DecidableEq, Repr

/-- One single-copy atomic event of an access (R205). `addr` is the address in the space, `pa` the flat address once it is
known, `off` the segment offset, `data` the bytes a store writes or an atomic's operand, `res` what it read, `dst` its
byte offset in the destination block, `since` the slot in which it was sent or last moved on, `after` the number before which the
thread's later accesses to its page come after it, once a fault has held it (R212), `walked` the reads that its walk has
begun and `root` the table that the walk began with (R383, R390). -/
structure Part where
  addr : Nat
  pa : Option Nat
  size : Nat
  off : Nat
  data : Nat
  dataBad : Bool
  dst : Nat
  stage : Stage
  res : Nat
  bad : Bool
  since : Nat
  after : Nat
  walked : Nat
  root : Nat
  deriving DecidableEq, Repr

/-- The operation an access performs at its home (R233, R235, R241). -/
inductive MemOp where
  | load (signed : Bool)
  | store
  | amo (op : Nat) (c : Word)
  | lde | ldf | stf | stff | feq | feclr
  deriving DecidableEq, Repr

/-- An access of a thread (R209, R210, R219); `taint` says that a poisoned mask poisons every word of its result (R149, R422). -/
structure Access where
  op : MemOp
  seg : Nat
  space : Nat
  die : Nat
  off : Nat
  parts : List Part
  relaxed : Option Nat
  acq : Bool
  rel : Bool
  remote : Bool
  sem : Option Nat
  nsr : Bool
  taint : Bool
  deriving DecidableEq, Repr

/-- A bank-agent command as captured at issue (R251-R255): `parts` are the destination row and then the rows it reads,
`src` the words of vb and `srcBad` the numbers of the poisoned ones, `val` W(b), `op` the code of NAMO, `inQueue` whether it
is in its bank's queue, `units` the 64-byte accesses that it has still to make and `left` the elements not yet performed (R254,
R326), `early` whether SEMRD may see its addition already (R217, R312). -/
structure BankCmd where
  fn : Nat
  fmt : Nat
  size : Nat
  space : Nat
  die : Nat
  bank : Nat
  parts : List Part
  src : VReg
  srcBad : List Nat
  val : PWord
  alpha : BitVec 32
  sem : Option Nat
  nsr : Bool
  op : Nat
  inQueue : Bool
  units : Nat
  left : List Nat
  early : Bool
  deriving DecidableEq, Repr

/-- What a long-latency or otherwise outstanding instruction still owes (R61, R231). -/
inductive Work where
  /-- A result due at a cycle of the core, with its STAT flags where the instruction raises some (R112, R136). -/
  | compute (vals : List PWord) (flags : Option (BitVec 5)) (due : Nat)
  /-- A vector-queue entry: its results, flags and D; the cycle that served it (R144-R146). -/
  | vector (vals : List PWord) (flags : BitVec 5) (lat : Nat) (served : Option Nat)
  | access (a : Access)
  | bank (c : BankCmd)
  /-- A bay entry whose window is open (R180). -/
  | bay
  | port
  /-- SENDAM.R awaiting its reply (R338). -/
  | reply
  /-- RSEM awaiting its acknowledgement (R247). -/
  | rsem
  deriving DecidableEq, Repr

/-- One outstanding instruction: its thread, lookahead, place in the thread's order, destination words. -/
structure Out where
  id : Nat
  tid : Nat
  core : Nat
  slot : Nat
  lea : Nat
  pc : Word
  ilen : Nat
  windowed : Bool
  look : Nat
  born : Nat
  dst : List Nat
  /-- The values the destination words held at issue (R414). -/
  old : List PWord
  work : Work
  /-- The thread's count of issues when it first left its slot with this item outstanding (R222). -/
  left : Option Nat
  deriving DecidableEq, Repr

/-! ## The exchange plane and Headland requests (R322-R324, R336-R342, R352) -/

/-- What a message carries. -/
inductive Msg where
  | deposit (val : PWord) (slot reg : Nat) (nsr : Bool)
  | am (cls : Nat) (payload : List PWord) (nsr : Bool) (reply : Bool)
  | ack (status : Word) (forId : Nat)
  | amAck (status : Word) (forId : Nat)
  | reply (val : PWord) (forId : Nat)
  | rsem (k : Nat) (amount : Nat)
  | rsemAck (forId : Nat)
  | packet (queue : Nat) (words : List Word)
  | packetAck (status : Word) (forId : Nat)
  /-- A barrier's arrival on its way to the gang's first core, and a completion on its way from it (R347). -/
  | barIn (gid k rank : Nat)
  | barOut (gid k gen : Nat)
  /-- A thread's contribution to a GRED round on its way to its core's node, a node's value on its way to the parent, and a result
  on its way to a child (R349, R350). -/
  | gredIn (gid round rank : Nat)
  | gredUp (gid round grank : Nat)
  | gredDown (gid round grank : Nat)
  /-- A control message of a Dorent context: for the wait that it has begun (0), or for its DSIG of number n (n + 1) (R290, R297,
  R324); and a coordinator's decision about a group's version: the new member list and INSTALL (R298, R299). -/
  | control (what : Nat)
  | decision (gid : Nat) (ver : BitVec 32) (list : List Nat) (install : Nat)
  /-- A group's record on its way to a member of a lower version: its version and member list (R297). -/
  | record (gid : Nat) (ver : BitVec 32) (list : List Nat)
  deriving DecidableEq, Repr

/-- A message in flight: its number, sender and target (physical cores), the slot in which it was injected, and the count of issues of
its thread with the instruction that sent it, or 0 (R222). -/
structure Mail where
  id : Nat
  lea : Nat
  src : Nat
  srcSlot : Nat
  srcTid : Nat
  dst : Nat
  sent : Option Nat
  msg : Msg
  /-- The sender's destination word for the status. -/
  wd : Nat
  born : Nat
  deriving DecidableEq, Repr

/-! ## Bays (R174-R200) -/

/-- A weight plane with its recorded WF and SHP (R175); `bad` numbers its poisoned doublewords (R201, log 12). -/
structure Plane where
  data : Cells
  bad : List Nat
  wf : BitVec 4
  shp : BitVec 2
  deriving DecidableEq, Repr

/-- An accumulator tile: 4,096 FP32 elements as bytes, its poisoned doublewords, configuration, flags and history (R175,
R194, R201). -/
structure Tile where
  data : Cells
  bad : List Nat
  cfg : BitVec 10
  flags : BitVec 4
  hist : BitVec 4
  deriving DecidableEq, Repr

/-- Work of a bay entry with what it captured at issue (R187-R196). -/
inductive BayOp where
  | mcfg (t : Nat) (v : BitVec 10)
  | mzero (t : Nat)
  | mswap
  | mstep (t row : Nat) (a : VReg) (aBad : List Nat) (mask : MReg) (nsr fz : Bool)
  | mdrain (t start fmt : Nat) (rm : BitVec 2) (nsr fz : Bool)
  | mflags (mask : BitVec 32)
  | msave (t : Nat) (seg space die addr off : Nat)
  deriving DecidableEq, Repr

/-- A bay-queue entry; `done` is the cycle whose array cycle performed it (R177). -/
structure BayEntry where
  outId : Nat
  op : BayOp
  issuedAt : Nat
  done : Option Nat
  deriving DecidableEq, Repr

/-- The port's transfer: 0 load into the shadow plane, 1 save, 2 restore (R189, R196, R197). `sgOff` is its segment offset,
`left` the events still to be performed, each an offset in the image and a number of bytes within one doubleword (R205), and `flow` the
64-byte accesses of HBM that have begun, each with its slot (R326). -/
structure PortJob where
  outId : Nat
  kind : Nat
  tile : Nat
  space : Nat
  die : Nat
  addr : Nat
  sgOff : Nat
  size : Nat
  left : List (Nat × Nat)
  image : Cells
  bad : List Nat
  flow : List (Nat × Nat)
  /-- Parked by a page fault on a frame, or by a translation fault (none). -/
  parked : Option (Option Nat)
  /-- From a fault until the transfer proceeds: the offset of the faulting piece, and the number before which the thread's
  accesses were issued (R200, R212). -/
  stalled : Option (Nat × Nat)
  deriving DecidableEq, Repr

/-- A bay (R175). -/
structure Bay where
  active : Plane
  shadow : Plane
  tiles : List Tile
  queue : List BayEntry
  port : Option PortJob
  deriving DecidableEq, Repr

/-! ## Transfer engine (R257-R268) -/

/-- A tensor map (R257). -/
structure TMap where
  esz : Nat
  ndim : Nat
  sg : Nat
  off : Nat
  ext : List Nat
  stride : List Nat
  step : Nat
  skew : Nat
  isg : Nat
  ioff : Nat
  deriving DecidableEq, Repr

/-- A transfer command: 0 TCOPY, 1 TGATH, 2 TSCAT, 3 TFILL, with the segments it captured (R262). -/
structure TCmd where
  kind : Nat
  src : TMap
  dst : TMap
  fill : PWord
  sem : Option Nat
  srcSeg : Seg
  dstSeg : Seg
  idxSeg : Seg
  nsr : Bool
  tid : Nat
  pc : Word
  deriving DecidableEq, Repr

/-- The shadow command set (R263). -/
structure TShadow where
  owner : Nat
  /-- Armed: the thread that gave the EGO, and the number before which every access of it precedes the EGO (R217, R263). -/
  armed : Option (Nat × Nat)
  cmd : TCmd
  deriving DecidableEq, Repr

/-- The active command and its resume offset (R264); `edge` is the thread that gave the EGO, with the number before which its
accesses come first (R217); `left` is the ranks of the current window still to be written, once some of it may have been, and `flow` the
64-byte accesses of HBM that have begun for it, each with its slot (R326). -/
structure TActive where
  owner : Nat
  cmd : TCmd
  offset : Nat
  edge : Nat × Nat
  left : Option (List Nat)
  flow : List (Nat × Nat)
  /-- Parked by a page fault on a frame, or by a translation fault (none). -/
  parked : Option (Option Nat)
  oob : Bool
  deriving DecidableEq, Repr

/-- The transfer engine of a core (R263-R267). -/
structure Engine where
  shadow : Option TShadow
  active : Option TActive
  canc : Bool
  oob : Bool
  /-- The resume offset of a command that a handover cancelled (R380). -/
  kept : Nat
  deriving DecidableEq, Repr

/-! ## Semaphores, mailbox, trap file (R269, R339-R344) -/

/-- A semaphore (R269); `early` numbers the commands whose additions are in its count while their elements are still to be
performed: no SEMWAIT is satisfied by one of these (R217, R312; log 50). -/
structure Sem where
  count : BitVec 48
  wrap : Bool
  early : List Nat
  deriving DecidableEq, Repr

/-- An occupied mailbox entry (R338-R343); `reply` names the message whose sender awaits a reply. -/
structure MbxEntry where
  idx : Nat
  payload : List PWord
  sender : Word
  cls : Nat
  reply : Option (Nat × Nat)
  deriving DecidableEq, Repr

/-- The running handler: its class, mailbox entry or trap-file place, base WP and reply (R340, R342). -/
structure Handler where
  cls : Nat
  entry : Option Nat
  place : Option Nat
  wp0 : Word
  reply : Option (Nat × Nat)
  deriving DecidableEq, Repr

/-! ## Dorent contexts (R271-R302) -/

/-- Context states (R273, R275). -/
inductive DState where
  | empty | loaded | running | done | failed | aborted | left
  deriving DecidableEq, Repr

/-- A buffer captured by COLRUN (R279, R280). -/
structure DBuf where
  fmt : Nat
  space : Nat
  die : Nat
  base : Nat
  len : Nat
  sg : Nat
  off : Nat
  deriving DecidableEq, Repr

/-- A channel (R286): peer rank, direction (true: send), circuit, and the transfers issued on it; `up` is false after the
peer's teardown. -/
inductive DChan where
  | unbound
  | nil (send : Bool)
  | bound (peer : Nat) (send : Bool) (circuit : Nat) (count : Nat) (up : Bool)
  deriving DecidableEq, Repr

/-- A tree record (R287): the ranks of the parent and of the children by mask bit, whether it combines in a granted slot, the
rounds issued, the circuit; `up` is false after a teardown by another member. -/
structure DTree where
  parent : Option Nat
  kids : List (Option Nat)
  granted : Bool
  rounds : Nat
  circuit : Nat
  up : Bool
  deriving DecidableEq, Repr

/-- A membership record (R276). -/
structure DMember where
  gid : Nat
  ver : BitVec 32
  rank : Option Nat
  size : Nat
  nsr : Bool
  list : List Nat
  deriving DecidableEq, Repr

/-- A piece of a collective's data on its way (R223, R326): the 64-byte accesses of HBM that still want a service slot, at its source
and, once it has set out, at its destination; the slot in which those that have begun are over; and the slot in which it set out. -/
structure DFlow where
  wants : List Nat
  due : Nat
  sent : Option Nat
  deriving DecidableEq, Repr

/-- An asynchronous instruction outstanding in a context (R283): kind 0 DSEND, 1 DRECV, 2 DCOPY, 3 DRED, 4 DSIG; `chan` its
channel or tree, `seq` its place on it, `cnt` the counter of CE, `ctr` and `amt` the addition of DSIG, `done` the bytes moved
or accepted, `part` the partials that wait for the parent's node, `pc` its word, `flow` its piece
on its way. -/
structure DOp where
  num : Nat
  kind : Nat
  buf : Nat
  off : Nat
  len : Nat
  chan : Nat
  seq : Nat
  sbuf : Nat
  soff : Nat
  op : Nat
  cnt : Option Nat
  ctr : Nat
  amt : BitVec 32
  done : Nat
  part : Option (List PWord)
  pc : Nat
  flow : Option DFlow
  deriving DecidableEq, Repr

/-- What a DJOIN asks of Harbour (R286, R287): `tree` or channel, its index, the peer of a channel and its direction, or the
parent and the children of a tree record, as ranks. -/
structure DReq where
  tree : Bool
  idx : Nat
  send : Bool
  peer : Nat
  parent : Option Nat
  kids : List (Option Nat)
  rate : Nat
  deriving DecidableEq, Repr

/-- What the instruction at PC waits for (R286-R299), with the tide in which the wait began, its limit in tides and the target
of its timeout. -/
inductive DWaiting where
  | none
  | count (n thr : Nat) (start tmo : Nat) (jump : Option Nat)
  | barrier (k : Nat) (start tmo : Nat) (jump : Option Nat)
  | join (req : DReq) (start : Nat) (asked : Option Nat)
  | unjoin (tree : Bool) (idx circuit : Nat) (asked : Bool)
  | closing (start : Nat)
  | agree (qa t att : Nat) (vote : Bool) (tau : Nat) (sent : Bool) (install : Option Nat)
  deriving DecidableEq, Repr

/-- COLLD's copy in progress (R278): the issuing thread, its instruction, the segment, offset and words to read, the number
before which the thread's accesses come first, the page fault or translation fault that holds it, and its reads of HBM as those of a
DOp (R326). -/
structure DCopy where
  slot : Nat
  tid : Nat
  pc : Word
  seg : Seg
  off : Nat
  words : Nat
  id : Nat
  parked : Option (Option Nat)
  flow : Option DFlow
  deriving DecidableEq, Repr

/-- A Dorent context (R272, R273). -/
structure Dorent where
  store : List (Nat × Word)
  loaded : Nat
  pc : Nat
  q : List Word
  n : List (BitVec 32)
  bufs : List (Option DBuf)
  chans : List DChan
  trees : List (Option DTree)
  recs : List DMember
  state : DState
  err : BitVec 8
  psn : Bool
  park : Option (Option Nat)
  endpt : Bool
  gid : Nat
  tmo : Nat
  abort : Bool
  ops : List DOp
  nextOp : Nat
  wait : DWaiting
  barriers : Nat
  /-- Tides parked since the current wait began (R286, R299). -/
  parkedTides : Nat
  copy : Option DCopy
  /-- The slot that launched the run, the owner of a record's context (R401). -/
  owner : Nat
  /-- The thread that launched the run, with the number before which its accesses come before the collective's events (R220). -/
  edge : Nat × Nat
  /-- The named buffers whose contents are undefined, since a participant wrote one while the collective ran (R220). -/
  spoiled : List Nat
  /-- Bytes that the engine has delivered and that are not in memory yet, with their flat addresses (R220, R306; log 50). -/
  late : List (Nat × Byte × Bool)
  /-- The slots in which the last run began and in which it ended (R220; log 83). -/
  began : Nat
  ended : Nat
  deriving DecidableEq, Repr

/-! ## Translation (R383-R390) -/

/-- A translation-buffer entry (R389). -/
structure Gtb where
  lea : Nat
  die : Nat
  page : Nat
  big : Bool
  frame : Nat
  rights : BitVec 4
  key : Nat
  deriving DecidableEq, Repr

/-- An instruction-cache line: 64 bytes of a die's code space and its poisoned doublewords, with the host address from which they
were read and the number of the writes of HBM that they show (R69, R437; log 10). -/
structure ILine where
  lea : Nat
  line : Nat
  bytes : List Byte
  bad : List Nat
  host : Nat
  view : Nat
  deriving DecidableEq, Repr

/-- A fill of the instruction cache: its line, the slot and thread whose miss asked for it, the writes that the thread sees (R69), the
halfwords known of the instruction that missed (R401), the slot in which it became its lea's first and, once it is in HBM service, the
slot in which that began and the host address (R326, R437). -/
structure Fill where
  line : Nat
  slot : Nat
  tid : Nat
  lea : Nat
  known : Nat
  view : Nat
  since : Nat
  began : Option (Nat × Nat)
  deriving DecidableEq, Repr

/-! ## Cores (R11-R46) -/

/-- What a thread that is not resident keeps beside its descriptor and its registers: the content of WAIT (R29, R335; log 11),
its run state, its number, the turns that it still waits for or owes (R94, R355), a halt by debug (R396), its count of issues
(R62), the launch block of a COLRUN that waits (R280) and the writes of code that it sees (R69). -/
structure Kept where
  wait : Wait
  run : RunState
  tid : Nat
  hold : Hold
  debugHalt : Option RunState
  issued : Nat
  launch : Option (List Word)
  view : Nat
  deriving DecidableEq, Repr

/-- A context-area entry (R415): slot, gang identity, descriptor, and what the thread keeps. -/
structure CtxEntry where
  slot : Nat
  gang : Option Nat
  gangReg : Word
  coreReg : Word
  slotReg : Word
  desc : Desc
  tdp : Word
  kept : Kept
  deriving DecidableEq, Repr

/-- What a lea's save area for a core holds of one slot (R378, R382): the slot, its slice, and what threads keep whose descriptors
lie there (log 11). -/
structure SlotSave where
  slot : Slot
  cells : Cells
  fe : List (Nat × FE)
  poison : List Nat
  ext : List (Nat × Nat)
  waits : List (Nat × Kept)
  deriving DecidableEq, Repr

/-- What a lea's save area holds of a core's pool and units (R378, R382). -/
structure PoolSave where
  cells : Cells
  fe : List (Nat × FE)
  poison : List Nat
  ext : List (Nat × Nat)
  bay : Bay
  sems : List (Nat × Sem)
  mailbox : List MbxEntry
  refused : BitVec 16
  handler : Option Handler
  fault15 : Option Nat
  classes : List (Nat × Word)
  trapv : Word
  trapFile : List Record
  engine : Engine
  dorent : Dorent
  trees : List (Option Nat)
  waits : List (Nat × Kept)
  rot : Word
  deriving DecidableEq, Repr

/-- One lea's saved image of a core; `sems` holds what was added to its semaphores before it had a pool image (R270, R380). -/
structure SaveArea where
  slots : List (Nat × SlotSave)
  pool : Option PoolSave
  sems : List (Nat × Sem)
  deriving DecidableEq, Repr

/-- A handover in progress (R378): the boundary, the cycle t0, the outgoing and incoming leas, the outgoing ROT once t0 has
saved it, and the slots stopped, saved and scrubbed, and restored. -/
structure Handover where
  start : Nat
  t0 : Nat
  out : Option Nat
  into : Nat
  rot : Option Word
  stopped : List Nat
  saved : List Nat
  restored : List Nat
  deriving DecidableEq, Repr

/-- A core position (R11) and the units that serve it (R45). -/
structure Core where
  /-- The lea that holds the core's shared pool (R176, R379). -/
  lea : Option Nat
  /-- The cycles up to and including those of the last turn, the last lane cycle and the last array cycle used (R16, R143, R174). -/
  turned : Nat
  laned : Nat
  arrayed : Nat
  /-- The candidate of the present turn to be examined next (R314). -/
  probe : Nat
  rot : Word
  rotNext : Option Word
  slots : List Slot
  sems : List (Nat × Sem)
  /-- The changes of semaphores in the present cycle: settings first, then additions (R270). -/
  semSets : List (Nat × Nat)
  semAdds : List (Nat × Nat)
  bay : Bay
  engine : Engine
  mailbox : List MbxEntry
  refused : BitVec 16
  handler : Option Handler
  /-- The mailbox entry that an HRET freed last, with its cycle: an arrival of that cycle finds it occupied (R339). -/
  freed : Option (Nat × Nat)
  /-- A fault of slot 15 that Headland has not yet handled: its cause (R403). -/
  fault15 : Option Nat
  classes : List (Nat × Word)
  trapv : Word
  trapFile : List Record
  /-- Headland records that wait for the Headland place, with the lea they are for (R339, R381). -/
  headRecords : List (Nat × Record)
  dorent : Dorent
  /-- The gang that holds each router tree entry (R350). -/
  trees : List (Option Nat)
  gtb : List Gtb
  icache : List ILine
  /-- The fills asked for, in the order in which their misses arose; the first is in progress (R437). -/
  fills : List Fill
  /-- Context areas by lea and entry (R415), and the generation of each entry. -/
  ctx : List ((Nat × Nat) × CtxEntry)
  ctxGen : List ((Nat × Nat) × Nat)
  saves : List (Nat × SaveArea)
  /-- Descriptors written back whose WAIT holds more than the doubleword of memory (log 11). -/
  waits : List (Nat × Kept)
  handover : Option Handover
  /-- The slice schedule, in which 2048 stands for no lea; the index and end of the slice in progress, and debts by lea in 1/4,096
  tide (R377, R330). -/
  sched : List (Nat × Nat)
  /-- A schedule asked for, until the leas that it names have theirs on all their cores (R377). -/
  schedNext : Option (List (Nat × Nat))
  slice : Nat
  sliceEnd : Nat
  /-- The tides by which the slices of the present round run late (R330). -/
  lag : Nat
  debts : List (Nat × Nat)
  /-- The leas whose debts have been computed for the tide that ended last (R330). -/
  accrued : List Nat
  /-- Core cycles delivered in the tide that ended last, and in the present tide (R330). -/
  delivered : Nat
  counting : Nat
  deriving DecidableEq, Repr

/-! ## Leas, tasks and gangs (R316-R330, R347-R350, R370-R392) -/

/-- A token-table entry's state (R316). -/
inductive TokState where
  | pending | early | retired
  deriving DecidableEq, Repr

/-- A task queue: its undispatched packets with the slots of their enqueue, oldest first, retired count, disabled (R316-R320, R334). -/
structure TaskQueue where
  packets : List (Nat × List Word)
  retired : Nat
  off : Bool
  deriving DecidableEq, Repr

/-- A commons partition as a dump holds it: bytes, full/empty states and poisoned words (R430). -/
structure CommonsImage where
  cells : Cells
  fe : List (Nat × FE)
  bad : List Nat
  deriving DecidableEq, Repr

/-- What the dump of a fatal error holds of a lea (R430): the digest of its tenant's certificate, its save areas by logical core
index with the entries of the context areas in them and their generations (R382, R415), and its commons by die. -/
structure LeaDump where
  digest : Nat
  saves : List (Nat × SaveArea)
  ctx : List (Nat × Nat × CtxEntry)
  ctxGen : List (Nat × Nat × Nat)
  commons : List (Nat × CommonsImage)
  deriving DecidableEq, Repr

/-- A lea (R370-R391). -/
structure Lea where
  num : Nat
  leab : Nat
  /-- The lea's cores, by logical index: their physical numbers (R12, R372). -/
  cores : List Nat
  banks : List (Nat × List Nat)
  ways : List (Nat × List Nat)
  svc : List (Nat × List Nat)
  bulk : Nat
  keys : List Nat
  /-- The host frames of its save areas, by core (physical) (R382). -/
  areas : List (Nat × Nat)
  clock : Nat
  digest : Nat
  s2base : Nat
  s2len : Nat
  s2 : List (Nat × Word)
  /-- The guest frames whose stage-2 entry is poisoned (R387, R404, R421). -/
  s2bad : List Nat
  s1root : List (Nat × Word)
  gtoff : Word
  /-- A GTOFF written, with the slot of the write, until the next tide boundary (R227). -/
  gtoffNext : Option (Word × Nat)
  paused : Nat
  isPaused : Bool
  lastGuest : Nat
  wdlim : Nat
  xp : Nat
  perPair : Nat
  queues : List (Nat × TaskQueue)
  tokens : List (Nat × (Nat × TokState))
  templates : List (Nat × Template)
  msg : Option MsgTemplate
  /-- The fault log of the lea's virtual function: cause and TVAL (R393, R403). -/
  log : List (Nat × Nat)
  /-- The membership records that Headland keeps for cores whose pool the lea has not held yet, by core (physical) (R276). -/
  recs : List (Nat × DMember)
  /-- The dump regions unwrapped into the lea (R430). -/
  dump : Option LeaDump
  /-- The values that bytes of memory have been given which the lea held before, a bit for each (R7; log 7). -/
  wrote : BitVec 256
  deriving DecidableEq, Repr

/-- A member of a gang: its core (physical) and slot, and its place in the gang (R14, R43, R44). -/
structure Member where
  core : Nat
  slot : Nat
  grank : Nat
  srank : Nat
  /-- Exited, or removed (R347, R350, R357). -/
  gone : Bool
  /-- Rounds of GRED begun, and the result awaited: its round and destination (R349). -/
  gredRound : Nat
  gredDst : Option (Nat × Nat)
  deriving DecidableEq, Repr

/-- A barrier of a gang (R347): arrival bits set, by rank, with the thread and the number before which its earlier accesses
come until the arrival is counted; the ranks counted in the present generation; the generations by core (physical) and at the first core. -/
structure Barrier where
  arrived : List (Nat × Option (Nat × Nat))
  counted : List Nat
  gens : List (Nat × Nat)
  gen : Nat
  deriving DecidableEq, Repr

/-- A contribution to a GRED round: its operator and value, the NSR of its thread, its thread and the number before which its
earlier accesses come (R33, R349). -/
structure GredGift where
  op : Nat
  val : PWord
  nsr : Bool
  tid : Nat
  id : Nat
  deriving DecidableEq, Repr

/-- A GRED round (R349, R350): contributions by rank, node values by GRANK (none where every thread below had exited) and the
result. -/
structure GredRound where
  num : Nat
  given : List (Nat × GredGift)
  nodes : List (Nat × Option PWord)
  result : Option PWord
  /-- The GRANKs whose cores have the result, and the ranks to which it has been delivered (R350). -/
  reached : List Nat
  delivered : List Nat
  deriving DecidableEq, Repr

/-- A resident gang (R14, R319, R328, R347-R350, R357). -/
structure Gang where
  lea : Nat
  gid : Nat
  /-- NSR of the gang's rank-0 thread as it was dispatched (R350). -/
  nsr : Bool
  first : Nat
  ncore : Nat
  spc : Nat
  queue : Nat
  packet : List Word
  members : List Member
  /-- Reservations of shared pool: core, offset, KiB (R319). -/
  resv : List (Nat × Nat × Nat)
  tree : Option Nat
  barriers : List Barrier
  rounds : List GredRound
  idle : Nat
  /-- Whether the count reached its limit at the present tide boundary (R328). -/
  expired : Bool
  /-- The tide at whose beginning the count was last updated (R328). -/
  watched : Nat
  /-- Whether the tide saw work, or was excluded (R328). -/
  worked : Bool
  excluded : Bool
  /-- The slot in which all of the gang's work was first seen complete (R226, R357). -/
  ended : Option Nat
  deriving DecidableEq, Repr

/-! ## Harbour, Headland, dies, the host (R321-R331, R391-R397, R421-R431) -/

/-- How far a circuit's change has come (R325): asked by some of those that it needs, ready in a tide with its place in the
order of arrival, decided in a tide, up, the same for its teardown, and refused in a tide. -/
inductive CircPhase where
  | asking
  | ready (tide order : Nat)
  | decided (tide order : Nat)
  | up
  | closing (tide order : Nat)
  | closed (tide order : Nat)
  | refused (tide order : Nat)
  deriving DecidableEq, Repr

/-- A circuit or its pending change (R286, R287, R325): the sender's core and the receiver's with the channel at each end that
has asked, or the core of a tree record with its index, the cores of its parent and children and the slot grant; the circuits
that it replaces; the change that it belongs to, one for all the records of a tree. -/
structure Circuit where
  id : Nat
  change : Nat
  lea : Nat
  gid : Nat
  ver : BitVec 32
  tree : Bool
  src : Nat
  dst : Nat
  srcIdx : Option Nat
  dstIdx : Option Nat
  parent : Option Nat
  kids : List (Option Nat)
  req : DReq
  rate : Nat
  reached : Nat
  phase : CircPhase
  granted : Bool
  old : List Nat
  deriving DecidableEq, Repr

/-- A round of agreement as its coordinator holds it (R298, R299): the votes by core, the join requests with the slot in which
each reached it, and the decision: the new member list and INSTALL. -/
structure Agreement where
  lea : Nat
  gid : Nat
  ver : BitVec 32
  coord : Nat
  votes : List (Nat × Bool)
  joins : List (Nat × Nat)
  decision : Option (List Nat × Nat)
  deriving DecidableEq, Repr

/-- Bank queues: the outstanding numbers of the commands in each bank's queue, oldest first (R103, R215). -/
abbrev BankQueues := List (Nat × List Nat)

/-- The state of a Cove die in the reset of R425. -/
inductive DiePhase where
  | up | isolate (start : Nat) | reset | scrubbed (slot : Nat)
  deriving DecidableEq, Repr

/-- A Cove die (R421, R425, R426): phase, the discarded writes that the responders logged (the lea, and the HBM address of a
PUT), the leas that the reset touched, and whether a machine fault awaits a reset. -/
structure Die where
  phase : DiePhase
  discarded : List (Nat × Option Nat)
  touched : List Nat
  failed : Bool
  deriving DecidableEq, Repr

/-- What Headland writes to the log of physical function 0. -/
inductive Pf0Log where
  | pageFault (lea frame : Nat)
  | fault (lea cause tval : Nat)
  | refusedTemplate (lea cause : Nat)
  | refusedRequest (lea cause : Nat)
  | choice (lea : Nat)
  | corrected (addr : Nat)
  | machineCheck
  | fatal (r : FatalReason)
  | fenced (u : PhysUnit)
  deriving DecidableEq, Repr

/-- Whether the module runs (R429-R431). -/
inductive Power where
  | off | running | fatal (r : FatalReason)
  deriving DecidableEq, Repr

/-- What Headland keeps of a core, as a dump holds it: its slice schedule, a schedule asked for, the slice in progress with the
tides by which the round runs late, its debts by lea, a handover in progress, the records that wait for the Headland place, and the core
cycles delivered (R330, R339, R377, R378, R430). -/
structure SliceDump where
  sched : List (Nat × Nat)
  next : Option (List (Nat × Nat))
  slice : Nat
  sliceEnd : Nat
  lag : Nat
  debts : List (Nat × Nat)
  accrued : List Nat
  delivered : Nat
  counting : Nat
  handover : Option Handover
  headRecords : List (Nat × Record)
  deriving DecidableEq, Repr

/-- The debug function (R396, R397). -/
structure Debug where
  lea : Option Nat
  stop : Bool
  brkcap : Bool
  matchAddr : List Word
  matchOn : List Bool
  /-- What it reports: cause, 16 times the core plus the slot, PC, code (R397). -/
  log : List (Nat × Nat × Nat × Nat)
  data : Word
  deriving DecidableEq, Repr

/-- What Headland writes of its own state in a dump, in the region under key 0 (R430): its logs; its tables; what it keeps of every
lea, stage 2, queues, tokens, templates and fault log; the gangs; what it keeps of every core; the circuits; the units that are disabled;
the phases of the dies with their logs; the island clocks; the sessions and streams of the host link; and the debug function. -/
structure HeadDump where
  log : List Pf0Log
  frames : List (Nat × Nat)
  keys : List (Nat × Nat)
  measured : List (Nat × Nat)
  fenced : List Nat
  disabledCores : List Nat
  disabledChannels : List (Nat × Nat)
  disabledPorts : List Nat
  shares : List Nat
  leas : List (Nat × Lea)
  gangs : List Gang
  slices : List (Nat × SliceDump)
  circuits : List Circuit
  agreements : List Agreement
  dies : List Die
  islands : List IslandClock
  session : List (Nat × (Bool × Nat))
  streams : List (Nat × (Option Nat × Bool × List Nat))
  replays : List (Nat × Nat)
  debug : Debug
  deriving DecidableEq, Repr

/-- Headland's own state: run state, logs, frame-ownership table, key identifiers, measurements, dump (R391, R429-R431). -/
structure Headland where
  power : Power
  log : List Pf0Log
  frames : List (Nat × Nat)
  keys : List (Nat × Nat)
  measured : List (Nat × Nat)
  disabledCores : List Nat
  fenced : List Nat
  disabledChannels : List (Nat × Nat)
  disabledPorts : List Nat
  /-- A fatal error that takes the module at the next tide boundary (R429). -/
  failing : Option FatalReason
  /-- The dump of the last fatal error: the regions of the leas, and the region under key 0 (R430). -/
  dump : List LeaDump
  headDump : Option HeadDump
  /-- The islands' shares of the design limit, in watts (R398). -/
  shares : List Nat
  deriving DecidableEq, Repr

/-- The host side: SPDM sessions by function with the requester's root digest, IDE streams, the data of the last answer (R393-R396),
and the region of a dump under key 0 as physical function 0 has read it (R430). -/
structure HostSide where
  session : List (Nat × (Bool × Nat))
  streams : List (Nat × (Option Nat × Bool × List Nat))
  answer : List Nat
  region : Option HeadDump
  deriving DecidableEq, Repr

/-- What moves next (log 1): a core cycle of an island, a turn of a core in the present cycle, a step of a core's Dorent
context, a step of the table that no thread issues, or a tick of the slot counter. -/
inductive Act where
  | cycle (island : Nat)
  | turn (core : Nat)
  | dorent (core : Nat)
  | event (i : Instr)
  | tick
  deriving DecidableEq, Repr

/-- The whole module. -/
structure State where
  /-- The slot counter (R224). -/
  now : Nat
  mem : Memory
  cores : List (Nat × Core)
  outs : List Out
  mail : List Mail
  banks : BankQueues
  /-- The pseudo-channels whose service slot that begins now has been taken (R326). -/
  served : List Nat
  leas : List (Nat × Lea)
  gangs : List Gang
  circuits : List Circuit
  agreements : List Agreement
  dies : List Die
  islands : List IslandClock
  /-- The core cycles that each island has had (R143, R174). -/
  cycles : List Nat
  /-- Die boundaries (8 times one die plus the other) held by a replay, and the slot that ends it (R223). -/
  replays : List (Nat × Nat)
  head : Headland
  host : HostSide
  dbg : Debug
  /-- The model's own fields: the acting core and slot, what moves next, the
  next number, and the counter of free values (logs 1, 7, 13). -/
  cur : Nat × Nat
  agenda : List Act
  nextId : Nat
  free : Nat
  deriving DecidableEq, Repr

/-- Reasons for which the machine stops with a fault. -/
inductive Fault where
  /-- An address that no memory of the module has. Raised by UNCORRECTABLE_ERROR and PATROL_SCRUB, for an address at which the
  module has no data (R421, R424); safe: the model stops where the hardware has no such step. -/
  | noSuchAddress
  deriving DecidableEq, Repr

/-- Reasons for which a step has no meaning. -/
inductive Refusal where
  /-- The instruction has no meaning in this model yet. Raised by an arm of exec; safe: nothing is proved of it. -/
  | notModelled (mnemonic : String)
  deriving DecidableEq, Repr

/-! ## Reset -/

/-- A segment register at reset: every field 0 (R37, log 5). -/
def Seg.reset : Seg := ⟨0, 0, 0⟩

/-- A descriptor at reset (R32; the fields for which the spec states no value, log 5). -/
def Desc.reset : Desc := ⟨0, 0, 0, 0, 0, 0, 0, 0, 0, 0, 0, List.replicate 8 Seg.reset⟩

/-- An Absent slot (R19). -/
def Slot.reset : Slot :=
  { run := .absent, lea := none, tid := 0, desc := Desc.reset, tdp := 0, wait := .none, hold := .none, gang := none,
    gangReg := 0, coreReg := 0, slotReg := 0, issued := 0, lastIssue := -16, owedTrap := none, record := [],
    debugHalt := none, fresh := false, claimed := none, stopped := none, vacated := false,
    since := 0, woken := false, loading := none, launch := none, view := 0 }

/-- A weight plane at reset (R175). -/
def Plane.reset : Plane := ⟨[], [], 0, 0⟩

/-- A tile at reset (R175). -/
def Tile.reset : Tile := ⟨[], [], 0, 0, 0⟩

/-- A bay at reset (R175). -/
def Bay.reset : Bay := ⟨Plane.reset, Plane.reset, List.replicate 4 Tile.reset, [], none⟩

/-- A transfer engine at reset (R267). -/
def Engine.reset : Engine := ⟨none, none, false, false, 0⟩

/-- A Dorent context at reset (R272, R273); the number 65536 says that no COLRUN has named a group. -/
def Dorent.reset : Dorent :=
  { store := [], loaded := 0, pc := 0, q := List.replicate 16 0, n := List.replicate 8 0,
    bufs := List.replicate 8 none, chans := List.replicate 8 .unbound, trees := List.replicate 4 none, recs := [],
    state := .empty, err := 0, psn := false, park := none, endpt := false, gid := 65536, tmo := 0, abort := false,
    ops := [], nextOp := 0, wait := .none, barriers := 0, parkedTides := 0, copy := none, owner := 0, edge := (0, 0), spoiled := [],
    late := [], began := 0, ended := 0 }

/-- The identity rotation, the reset value of ROT (R17). -/
def rotIdentity : Word := 0xFEDCBA9876543210#64

/-- A core at reset. -/
def Core.reset : Core :=
  { lea := none, turned := 0, laned := 0, arrayed := 0, probe := 0, rot := rotIdentity, rotNext := none,
    slots := List.replicate 16 Slot.reset, sems := [], semSets := [], semAdds := [], bay := Bay.reset, engine := Engine.reset, mailbox := [],
    refused := 0, handler := none, freed := none, fault15 := none, classes := [], trapv := 0, trapFile := [], headRecords := [],
    dorent := Dorent.reset, trees := List.replicate 4 none, gtb := [], icache := [], fills := [], ctx := [],
    ctxGen := [], saves := [], waits := [], handover := none, sched := [], schedNext := none, slice := 0, sliceEnd := 0, lag := 0, debts := [], accrued := [],
    delivered := 0, counting := 0 }

/-- Memory at reset: every byte 0 and every doubleword full (R28, R391, R425; log 4). -/
def Memory.reset : Memory := ⟨[], [], [], [], [], []⟩

/-- The module right after reset: nothing is resident, no lea exists, every unit is at its reset value. -/
def State.reset : State :=
  { now := 0, mem := Memory.reset, cores := [], outs := [], mail := [], banks := [], served := [], leas := [], gangs := [],
    circuits := [], agreements := [], dies := List.replicate 8 ⟨.up, [], [], false⟩,
    islands := List.replicate 16 ⟨40, 0, .free, 0, 0⟩, cycles := List.replicate 16 0, replays := [],
    head := { power := .off, log := [], frames := [], keys := [], measured := [], disabledCores := [], fenced := [],
              disabledChannels := [], disabledPorts := [], failing := none, dump := [], headDump := none, shares := List.replicate 16 225 },
    host := ⟨[], [], [], none⟩,
    dbg := ⟨none, false, false, List.replicate 4 0, List.replicate 4 false, [], 0⟩,
    cur := (0, 0), agenda := [], nextId := 0, free := 0 }

end Sys2Proof.Machine
end

