-- ==== Sys2Proof/Machine/Float.lean ====
section
/-! DEFINITION. The number formats (R80-R87), the rounding and the flags of one result (R88-R95), and the exact operations
that every unit rounds (R96-R101, R134). A value is exact until it is rounded once. -/

namespace Sys2Proof.Machine

/-! ## Formats -/

/-- A floating-point format: exponent bits, mantissa bits, whether it always has the special reading, and whether FZ applies
to it (R81, R92, R93). -/
structure Fmt where
  eb : Nat
  mb : Nat
  always : Bool
  flush : Bool
  deriving DecidableEq, Repr

/-- The formats of R81. -/
def fp64 : Fmt := ⟨11, 52, true, true⟩
def fp32 : Fmt := ⟨8, 23, true, true⟩
def fp16 : Fmt := ⟨5, 10, true, true⟩
def bf16 : Fmt := ⟨8, 7, true, true⟩
def e5m2 : Fmt := ⟨5, 2, true, true⟩
def e4m3 : Fmt := ⟨4, 3, false, true⟩
def e3m2 : Fmt := ⟨3, 2, false, false⟩
def e2m3 : Fmt := ⟨2, 3, false, false⟩
def e2m1 : Fmt := ⟨2, 1, false, false⟩

/-- The bias of a format (R81: 2^(exponent bits − 1) − 1 for each). -/
def Fmt.bias (f : Fmt) : Int := 2 ^ (f.eb - 1) - 1

/-- The top exponent code. -/
def Fmt.top (f : Fmt) : Nat := 2 ^ f.eb - 1

/-- Whether the top exponent code means infinity and NaN (R81, R83). -/
def Fmt.special (f : Fmt) (nsr : Bool) : Bool := f.always || nsr

/-- The exponent of the least subnormal. -/
def Fmt.qmin (f : Fmt) : Int := 1 - f.bias - (f.mb : Int)

/-- The canonical NaN (R82). -/
def Fmt.cnan (f : Fmt) : Nat := f.top * 2 ^ f.mb + 2 ^ (f.mb - 1)

/-- The code of infinity, without sign. -/
def Fmt.infCode (f : Fmt) : Nat := f.top * 2 ^ f.mb

/-- The code of the largest finite value, without sign (R81). -/
def Fmt.maxCode (f : Fmt) (nsr : Bool) : Nat :=
  if f.special nsr then f.top * 2 ^ f.mb - 1 else (f.top + 1) * 2 ^ f.mb - 1

/-- The sign bit as a number. -/
def Fmt.signBit (f : Fmt) (neg : Bool) : Nat := if neg then 2 ^ (f.eb + f.mb) else 0

/-- A decoded value: NaN, an infinity, or (−1)^neg × m × 2^e. -/
inductive Val where
  | nan
  | inf (neg : Bool)
  | fin (neg : Bool) (m : Nat) (e : Int)
  deriving DecidableEq, Repr

/-- Whether a code is subnormal. -/
def Fmt.isSub (f : Fmt) (bits : Nat) : Bool := bits / 2 ^ f.mb % 2 ^ f.eb == 0 && bits % 2 ^ f.mb != 0

/-- The value of a code (R81, R83), a subnormal read as zero under FZ where FZ applies (R92, R93). -/
def Fmt.dec (f : Fmt) (nsr fz : Bool) (bits : Nat) : Val :=
  let s := bits / 2 ^ (f.eb + f.mb) % 2 == 1
  let e := bits / 2 ^ f.mb % 2 ^ f.eb
  let m := bits % 2 ^ f.mb
  if e = 0 then .fin s (if fz && f.flush then 0 else m) f.qmin
  else if e = f.top && f.special nsr then (if m = 0 then .inf s else .nan)
  else .fin s (2 ^ f.mb + m) (f.qmin + ((e - 1 : Nat) : Int))

/-! ## Rounding (R88-R91) -/

/-- A rounding mode; `rsr` holds the value u of R91. -/
inductive Rm where
  | rne | rtz | rup | rdn
  | rsr (u : Nat)
  deriving DecidableEq, Repr

/-- The sticky flags of a result, in the order of STAT[8:4]: IV 0, DZ 1, OF 2, UF 3, NX 4 (R32, R95). -/
abbrev Flags := BitVec 5

def Flags.none : Flags := 0
def Flags.iv : Flags := 1
def Flags.dz : Flags := 2
def Flags.of : Flags := 4
def Flags.uf : Flags := 8
def Flags.nx : Flags := 16

/-- A rounded result: its code and its flags. -/
structure Res where
  bits : Nat
  flags : Flags
  deriving DecidableEq, Repr

/-- Whether a magnitude a + r/2^k, with 0 ≤ r < 2^k, rounds up to a + 1 (R88, R91). -/
def roundsUp (rm : Rm) (neg : Bool) (a r k : Nat) : Bool :=
  if r = 0 then false
  else match rm with
    | .rne => decide (2 ^ k < 2 * r) || (2 * r == 2 ^ k && a % 2 == 1)
    | .rtz => false
    | .rup => !neg
    | .rdn => neg
    | .rsr u => decide (2 ^ 32 ≤ r * 2 ^ 32 / 2 ^ k + u)

/-- The magnitude m × 2^e as a multiple of 2^q, rounded; and whether that was exact. -/
def roundAt (rm : Rm) (neg : Bool) (m : Nat) (e q : Int) : Nat × Bool :=
  if q ≤ e then (m * 2 ^ (e - q).toNat, true)
  else
    let k := (q - e).toNat
    let a := m / 2 ^ k
    let r := m % 2 ^ k
    (if roundsUp rm neg a r k then a + 1 else a, r == 0)

/-- The result of an overflow (R89). -/
def overflowTo (f : Fmt) (nsr : Bool) (rm : Rm) (neg : Bool) : Res :=
  let inf := f.special nsr && (match rm with
    | .rne => true
    | .rtz => false
    | .rup => !neg
    | .rdn => neg
    | .rsr _ => false)
  ⟨f.signBit neg + (if inf then f.infCode else f.maxCode nsr), Flags.of ||| Flags.nx⟩

/-- A finite value rounded once to a format (R88, R89, R92). Tininess is judged on the value rounded to the format's
precision with its exponent unbounded (R88; log 14). -/
def roundFin (f : Fmt) (nsr fz : Bool) (rm : Rm) (neg : Bool) (m : Nat) (e : Int) : Res :=
  if m = 0 then ⟨f.signBit neg, Flags.none⟩
  else
    let big := e + (Nat.log2 m : Int)
    let emin := 1 - f.bias
    let q := max big emin - (f.mb : Int)
    let (a, exact) := roundAt rm neg m e q
    let code := (q - f.qmin).toNat * 2 ^ f.mb + a
    if f.maxCode nsr < code then overflowTo f nsr rm neg
    else
      let tiny := decide (big < emin) &&
        decide ((roundAt rm neg m e (big - (f.mb : Int))).1 < 2 ^ (f.mb + (emin - big).toNat))
      let flags := if exact then Flags.none else if tiny then Flags.nx ||| Flags.uf else Flags.nx
      if fz && f.flush && decide (code < 2 ^ f.mb) && decide (0 < code) then ⟨f.signBit neg, Flags.uf ||| Flags.nx⟩
      else ⟨f.signBit neg + code, flags⟩

/-- A value rounded once to a format (R88, R89, R92, R96). -/
def Fmt.enc (f : Fmt) (nsr fz : Bool) (rm : Rm) : Val → Res
  | .nan => if f.special nsr then ⟨f.cnan, Flags.none⟩ else ⟨0, Flags.iv⟩
  | .inf s => if f.special nsr then ⟨f.signBit s + f.infCode, Flags.none⟩
      else ⟨f.signBit s + f.maxCode nsr, Flags.of ||| Flags.nx⟩
  | .fin s m e => roundFin f nsr fz rm s m e

/-! ## Exact operations (R134, R135, R138, R139) -/

/-- The value with its sign inverted. -/
def Val.neg : Val → Val
  | .nan => .nan
  | .inf s => .inf (!s)
  | .fin s m e => .fin (!s) m e

/-- The sign of an exact zero sum of operands of opposite sign (R134). -/
def zeroSign : Rm → Bool
  | .rdn => true
  | _ => false

/-- The signed integer (−1)^s × m. -/
def signed (s : Bool) (m : Nat) : Int := if s then -(m : Int) else (m : Int)

/-- An exact sum; the flag says that it is invalid (R134, R135). -/
def Val.add (rm : Rm) : Val → Val → Val × Bool
  | .nan, _ => (.nan, false)
  | _, .nan => (.nan, false)
  | .inf s, .inf t => if s = t then (.inf s, false) else (.nan, true)
  | .inf s, .fin _ _ _ => (.inf s, false)
  | .fin _ _ _, .inf t => (.inf t, false)
  | .fin s m e, .fin t n f =>
    if m = 0 ∧ n = 0 then (.fin (if s = t then s else zeroSign rm) 0 0, false)
    else
      let q := min e f
      let v := signed s (m * 2 ^ (e - q).toNat) + signed t (n * 2 ^ (f - q).toNat)
      if v = 0 then (.fin (zeroSign rm) 0 0, false) else (.fin (decide (v < 0)) v.natAbs q, false)

/-- An exact product; the flag says that it is invalid (R134, R135). -/
def Val.mul : Val → Val → Val × Bool
  | .nan, _ => (.nan, false)
  | _, .nan => (.nan, false)
  | .inf s, .inf t => (.inf (s != t), false)
  | .inf s, .fin t n _ => if n = 0 then (.nan, true) else (.inf (s != t), false)
  | .fin s m _, .inf t => if m = 0 then (.nan, true) else (.inf (s != t), false)
  | .fin s m e, .fin t n f => (.fin (s != t) (m * n) (e + f), false)

/-- The IV flag where an operation is invalid. -/
def ivIf (b : Bool) : Flags := if b then Flags.iv else Flags.none

/-- A sum rounded once. -/
def fpAdd (f : Fmt) (fz : Bool) (rm : Rm) (x y : Val) : Res :=
  let (v, iv) := Val.add rm x y
  let r := f.enc true fz rm v
  ⟨r.bits, r.flags ||| ivIf iv⟩

/-- A product rounded once. -/
def fpMul (f : Fmt) (fz : Bool) (rm : Rm) (x y : Val) : Res :=
  let (v, iv) := Val.mul x y
  let r := f.enc true fz rm v
  ⟨r.bits, r.flags ||| ivIf iv⟩

/-- x × y + z rounded once; 0 × inf is invalid even where z is NaN (R135). -/
def fpFma (f : Fmt) (fz : Bool) (rm : Rm) (x y z : Val) : Res :=
  let (p, iv) := Val.mul x y
  let (v, iv2) := Val.add rm p z
  let r := f.enc true fz rm v
  ⟨r.bits, r.flags ||| ivIf (iv || iv2)⟩

/-- A quotient rounded once: the exact quotient's leading bits with a last bit that says whether any follow (R135). -/
def fpDiv (f : Fmt) (fz : Bool) (rm : Rm) : Val → Val → Res
  | .nan, _ => ⟨f.cnan, Flags.none⟩
  | _, .nan => ⟨f.cnan, Flags.none⟩
  | .inf _, .inf _ => ⟨f.cnan, Flags.iv⟩
  | .inf s, .fin t _ _ => ⟨f.signBit (s != t) + f.infCode, Flags.none⟩
  | .fin s _ _, .inf t => ⟨f.signBit (s != t), Flags.none⟩
  | .fin s m e, .fin t n g =>
    if n = 0 then (if m = 0 then ⟨f.cnan, Flags.iv⟩ else ⟨f.signBit (s != t) + f.infCode, Flags.dz⟩)
    else if m = 0 then ⟨f.signBit (s != t), Flags.none⟩
    else
      let k := f.mb + 4 + Nat.log2 n
      let a := m * 2 ^ k
      roundFin f true fz rm (s != t) (2 * (a / n) + (if a % n = 0 then 0 else 1)) (e - g - (k : Int) - 1)

/-- The integer square root of n by bits, from bit k down. -/
def isqrtFrom (n : Nat) : Nat → Nat → Nat
  | 0, r => if (r + 1) * (r + 1) ≤ n then r + 1 else r
  | k + 1, r =>
    let r' := if (r + 2 ^ (k + 1)) * (r + 2 ^ (k + 1)) ≤ n then r + 2 ^ (k + 1) else r
    isqrtFrom n k r'

/-- The integer square root of n, rounded down. -/
def isqrt (n : Nat) : Nat := isqrtFrom n (Nat.log2 n / 2) 0

/-- A square root rounded once (R134, R135). -/
def fpSqrt (f : Fmt) (fz : Bool) (rm : Rm) : Val → Res
  | .nan => ⟨f.cnan, Flags.none⟩
  | .inf s => if s then ⟨f.cnan, Flags.iv⟩ else ⟨f.infCode, Flags.none⟩
  | .fin s m e =>
    if m = 0 then ⟨f.signBit s, Flags.none⟩
    else if s then ⟨f.cnan, Flags.iv⟩
    else
      let k := 2 * (f.mb + 4)
      let odd := decide (e % 2 ≠ 0)
      let a := m * 2 ^ k * (if odd then 2 else 1)
      let e2 := e - (k : Int) - (if odd then 1 else 0)
      let r := isqrt a
      roundFin f true fz rm false (2 * r + (if r * r = a then 0 else 1)) (e2 / 2 - 1)

/-- Whether x < y for values that are not NaN, zeros equal. -/
def Val.lt : Val → Val → Bool
  | .nan, _ => false
  | _, .nan => false
  | .inf s, .inf t => s && !t
  | .inf s, .fin _ _ _ => s
  | .fin _ _ _, .inf t => !t
  | .fin s m e, .fin t n f =>
    let q := min e f
    decide (signed s (m * 2 ^ (e - q).toNat) < signed t (n * 2 ^ (f - q).toNat))

/-- Whether two values are equal, zeros equal, NaN equal to nothing (R139). -/
def Val.eq (x y : Val) : Bool := x != .nan && y != .nan && !x.lt y && !y.lt x

/-- The sign of a value. -/
def Val.isNeg : Val → Bool
  | .nan => false
  | .inf s => s
  | .fin s _ _ => s

/-- The smaller value, −0 below +0, NaN if either is NaN (R102, R138). -/
def Val.minOf (x y : Val) : Val :=
  if x = .nan ∨ y = .nan then .nan
  else if x.lt y then x else if y.lt x then y else if x.isNeg then x else y

/-- The larger value, −0 below +0, NaN if either is NaN (R102, R138). -/
def Val.maxOf (x y : Val) : Val :=
  if x = .nan ∨ y = .nan then .nan
  else if x.lt y then y else if y.lt x then x else if x.isNeg then y else x

/-! ## Integer conversions (R97) -/

/-- A value rounded to an integer in [lo, hi], saturated (R97). -/
def Val.toInt (rm : Rm) (lo hi : Int) : Val → Int × Flags
  | .nan => (0, Flags.iv)
  | .inf s => (if s then lo else hi, Flags.iv)
  | .fin s m e =>
    let (a, exact) := roundAt rm s m e 0
    let v := signed s a
    if v < lo then (lo, Flags.iv)
    else if hi < v then (hi, Flags.iv)
    else (v, if exact then Flags.none else Flags.nx)

/-- An integer as a value; zero is +0. -/
def Val.ofInt (i : Int) : Val := .fin (decide (i < 0)) i.natAbs 0

/-! ## Reciprocal estimates (R98, R99, R137) -/

/-- A finite nonzero value as a sign, an exponent and the top 9 fraction bits (R98). -/
def estimateParts (m : Nat) (e : Int) : Int × Nat :=
  let l := Nat.log2 m
  (e + (l : Int), m * 2 ^ 9 / 2 ^ l - 2 ^ 9)

/-- The reciprocal estimate of a value, to p fraction bits (R98, R99, R137, R159). Where its rounding carries beyond the largest
finite number of the format, it is an infinity and raises no flag (log 91). -/
def fpRcpe (f : Fmt) (p : Nat) : Val → Res
  | .nan => ⟨f.cnan, Flags.none⟩
  | .inf s => ⟨f.signBit s, Flags.none⟩
  | .fin s m e =>
    if m = 0 then ⟨f.signBit s + f.infCode, Flags.dz⟩
    else
      let (x, k) := estimateParts m e
      let t := 1025 + 2 * k
      if f.bias - 1 ≤ x then ⟨f.signBit s, Flags.uf ||| Flags.nx⟩
      else if x ≤ -f.bias - 2 then ⟨f.signBit s + f.infCode, Flags.of ||| Flags.nx⟩
      else ⟨(roundFin f true false .rne s ((2 ^ (p + 12) + t) / (2 * t)) (-x - 1 - (p : Int))).bits, Flags.none⟩

/-- The reciprocal square-root estimate of a value, to p fraction bits (R98, R99, R159). -/
def fpRsqe (f : Fmt) (p : Nat) : Val → Res
  | .nan => ⟨f.cnan, Flags.none⟩
  | .inf s => if s then ⟨f.cnan, Flags.iv⟩ else ⟨0, Flags.none⟩
  | .fin s m e =>
    if m = 0 then ⟨f.signBit s + f.infCode, Flags.dz⟩
    else if s then ⟨f.cnan, Flags.iv⟩
    else
      let (x, k) := estimateParts m e
      let t := 1025 + 2 * k
      let n := if x % 2 = 0 then 2 ^ (2 * p + 12) else 2 ^ (2 * p + 11)
      let r := isqrt (n / t)
      let sig := if (2 * r + 1) * (2 * r + 1) * t < 4 * n then r + 1 else r
      ⟨(roundFin f true false .rne false sig (-(x / 2) - 1 - (p : Int))).bits, Flags.none⟩

/-! ## Exponential and logarithm estimates (R160, R161) -/

/-- The largest s below 2^(p + 1), in the bits below b, with 2s − 1 at most 2^(p + 1) × 2^(q / 512), from a start (R160). -/
def exp2Sig (p q : Nat) : Nat → Nat → Nat
  | 0, s => s
  | b + 1, s =>
    let t := s + 2 ^ b
    exp2Sig p q b (if (2 * t - 1) ^ 512 ≤ 2 ^ (512 * (p + 1) + q) then t else s)

/-- A finite value × 256, rounded down. -/
def floor256 (s : Bool) (m : Nat) (e : Int) : Int :=
  let x := e + 8
  if 0 ≤ x then signed s (m * 2 ^ x.toNat) else (signed s m) / (2 ^ (-x).toNat : Nat)

/-- VEXP2E of a value, to p fraction bits (R160). -/
def fpExp2e (f : Fmt) (p : Nat) : Val → Res
  | .nan => ⟨f.cnan, Flags.none⟩
  | .inf s => if s then ⟨0, Flags.none⟩ else ⟨f.infCode, Flags.none⟩
  | .fin s m e =>
    let a := floor256 s m e
    let n := a / 256
    let k := (a % 256).toNat
    if 128 ≤ n then ⟨f.infCode, Flags.of ||| Flags.nx⟩
    else if n ≤ -127 then ⟨0, Flags.uf ||| Flags.nx⟩
    else roundFin f true false .rne false (exp2Sig p (2 * k + 1) (p + 1) (2 ^ p)) (n - (p : Int))

/-- n bits of log2 of a value x / 2^128 in [1, 2), each found by squaring. -/
def log2Bits : Nat → Nat → Nat → Nat
  | 0, _, acc => acc
  | n + 1, x, acc =>
    let y := x * x / 2 ^ 128
    if 2 ^ 129 ≤ y then log2Bits n (y / 2) (2 * acc + 1) else log2Bits n y (2 * acc)

/-- VLOG2E of a value, to p fraction bits (R161). log2((513 + 2k)/512) is taken to 60 bits, which decides the rounding for
every exponent and every k. -/
def fpLog2e (f : Fmt) (p : Nat) : Val → Res
  | .nan => ⟨f.cnan, Flags.none⟩
  | .inf s => if s then ⟨f.cnan, Flags.iv⟩ else ⟨f.infCode, Flags.none⟩
  | .fin s m e =>
    if m = 0 then ⟨f.signBit true + f.infCode, Flags.dz⟩
    else if s then ⟨f.cnan, Flags.iv⟩
    else
      let l := Nat.log2 m
      let k := m * 2 ^ 8 / 2 ^ l - 2 ^ 8
      let y : Int := (e + (l : Int)) * 2 ^ 60 + (log2Bits 60 ((513 + 2 * k) * 2 ^ 119) 0 : Nat)
      let q : Int := (Nat.log2 y.natAbs : Int) - (p : Int)
      let (a, _) := roundAt .rne (decide (y < 0)) y.natAbs 0 q
      roundFin f true false .rne (decide (y < 0)) (if 0 ≤ q then a else y.natAbs) (if 0 ≤ q then q - 60 else -60)

/-! ## Classes (R140) -/

/-- The one-hot class mask of an operand as read (R140). -/
def fpClass (f : Fmt) (fz : Bool) (bits : Nat) : Nat :=
  match f.dec true fz bits with
  | .nan => 256
  | .inf s => if s then 1 else 128
  | .fin s m _ =>
    if m = 0 then (if s then 8 else 16)
    else if f.isSub bits then (if s then 4 else 32)
    else (if s then 2 else 64)

/-! ## Block-scaled codes (R84-R87) -/

/-- The magnitude of a 3-bit code of the sign-magnitude types, in halves. -/
def blockMag (ty c : Nat) : Nat :=
  match ty with
  | 1 => [0, 1, 2, 3, 4, 6, 8, 12].getD c 0
  | 2 => [0, 2, 4, 8, 16, 32, 64, 128].getD c 0
  | _ => [0, 2, 4, 6, 8, 12, 16, 24].getD c 0

/-- The value of a 4-bit code of a type under a scale exponent E (R84-R86). -/
def blockDec (nsr : Bool) (ty e code : Nat) : Val :=
  if nsr && e == 63 then .nan
  else
    let x : Int := (e : Int) - 33
    if ty = 0 then
      let v : Int := if code < 8 then (code : Int) else (code : Int) - 16
      .fin (decide (v < 0)) (2 * v.natAbs) x
    else if code = 8 then .fin false 0 x
    else
      let s := decide (8 ≤ code)
      let c := code % 8
      if ty = 1 && nsr && decide (6 ≤ c) then (if c = 6 then .inf s else .nan)
      else .fin s (blockMag ty c) x

/-- The magnitudes, in halves, that a type's codes and its extended value have, for a sign (R87). -/
def blockLevels (nsr : Bool) (ty : Nat) (neg : Bool) : List Nat :=
  match ty with
  | 0 => if neg then [0, 2, 4, 6, 8, 10, 12, 14, 16, 18] else [0, 2, 4, 6, 8, 10, 12, 14, 16]
  | 1 => if nsr then [0, 1, 2, 3, 4, 6, 8] else [0, 1, 2, 3, 4, 6, 8, 12, 16]
  | 2 => [0, 2, 4, 8, 16, 32, 64, 128, 256]
  | _ => [0, 2, 4, 6, 8, 12, 16, 24, 32]

/-- The place of a magnitude m × 2^e (in halves) among the levels: the last level not above it, by number. -/
def blockFloor (levels : List Nat) (m : Nat) (e : Int) : Nat :=
  let le (l : Nat) : Bool := if 0 ≤ e then decide (l ≤ m * 2 ^ e.toNat) else decide (l * 2 ^ (-e).toNat ≤ m)
  (levels.filter le).length - 1

/-- The code of a magnitude's level number in a type (R85): int4 of a negative number is its two's complement. -/
def blockCode (ty : Nat) (neg : Bool) (lvl : Nat) : Nat :=
  if ty = 0 then (if neg then (16 - lvl) % 16 else lvl)
  else if lvl = 0 then 0 else (if neg then 8 + lvl else lvl)

/-- The scaled remainder of a magnitude above a level, as r/d of the gap to the next level. -/
def blockGap (lo hi m : Nat) (e : Int) : Nat × Nat :=
  if 0 ≤ e then (m * 2 ^ e.toNat - lo, hi - lo)
  else (m - lo * 2 ^ (-e).toNat, (hi - lo) * 2 ^ (-e).toNat)

/-- Whether a magnitude r/d of the way from level number a to the next rounds up. Ties under nearest-even go to the code
whose bit 0 is 0, and to the extended value where that is the upper one (R87). -/
def blockUp (rm : Rm) (neg : Bool) (a last r d : Nat) : Bool :=
  if r = 0 then false
  else match rm with
    | .rne => decide (d < 2 * r) || (2 * r == d && (a % 2 == 1 || a + 1 == last))
    | .rtz => false
    | .rup => !neg
    | .rdn => neg
    | .rsr u => decide (2 ^ 32 ≤ r * 2 ^ 32 / d + u)

/-- The result of a value beyond the largest magnitude: the largest of its sign, which for a negative int4 is -8, of an infinity
too (R87, R89, R165; log 92). -/
def blockOver (nsr : Bool) (ty : Nat) (rm : Rm) (neg : Bool) (last : Nat) : Nat × Flags :=
  let inf := ty = 1 && nsr && (match rm with
    | .rne => true
    | .rtz => false
    | .rup => !neg
    | .rdn => neg
    | .rsr _ => false)
  (blockCode ty neg (if inf then last else last - 1), Flags.of ||| Flags.nx)

/-- A value encoded into a block of a type and a scale exponent (R87). -/
def blockEnc (nsr : Bool) (rm : Rm) (ty e : Nat) : Val → Nat × Flags
  | .nan => if ty = 1 && nsr then (7, Flags.none) else (0, Flags.iv)
  | .inf s =>
    let last := (blockLevels nsr ty s).length - 1
    if ty = 1 && nsr then (blockCode ty s last, Flags.none) else blockOver nsr ty rm s last
  | .fin s m x =>
    let levels := blockLevels nsr ty s
    let last := levels.length - 1
    -- the quotient in halves: m × 2^(x − (E − 32) + 1)
    let qe : Int := x - (e : Int) + 33
    let a := blockFloor levels m qe
    if last ≤ a then blockOver nsr ty rm s last
    else
      let (r, d) := blockGap (levels.getD a 0) (levels.getD (a + 1) 0) m qe
      let b := if blockUp rm s a last r d then a + 1 else a
      if b = last then blockOver nsr ty rm s last
      else (blockCode ty s b, if r = 0 then Flags.none else Flags.nx)

/-! ## The stochastic generator (R90) -/

/-- One step of the generator: the new state and u (R90). -/
def srStep (s : Word) : Word × Nat :=
  let t := if s.getLsbD 0 then (s >>> 1) ^^^ 0xD800000000000000#64 else s >>> 1
  (t, t.toNat / 2 ^ 32)

/-- The generator after n steps. -/
def srSteps : Nat → Word → Word
  | 0, s => s
  | n + 1, s => srSteps n (srStep s).1

/-- SRGEN as dispatch sets it for gang rank G (R90). -/
def srSeed (g : Nat) : Word := 0x9E3779B97F4A7C15#64 * BitVec.ofNat 64 (g + 1)

end Sys2Proof.Machine
end

