-- ==== Sys2Proof/Machine/Base.lean ====
section
/-! DEFINITION. The plainest operations over the state: lists keyed by a number, memory and its full/empty bits, cores and slots,
guest time, outstanding work, segments, and records for slot 15. -/

namespace Sys2Proof.Machine

/-! ## Lists keyed by a number -/

/-- The entry of a key, or a default. -/
def keyGet {α : Type} (d : α) : List (Nat × α) → Nat → α
  | [], _ => d
  | (k, v) :: t, a => if a = k then v else keyGet d t a

/-- The entry of a key, if there is one. -/
def keyFind {α : Type} : List (Nat × α) → Nat → Option α
  | [], _ => none
  | (k, v) :: t, a => if a = k then some v else keyFind t a

/-- The list with an entry set, kept in rising order of its keys. -/
def keySet {α : Type} : List (Nat × α) → Nat → α → List (Nat × α)
  | [], a, x => [(a, x)]
  | (k, v) :: t, a, x =>
    if a < k then (a, x) :: (k, v) :: t
    else if a = k then (a, x) :: t
    else (k, v) :: keySet t a x

/-- The list without a key. -/
def keyDel {α : Type} : List (Nat × α) → Nat → List (Nat × α)
  | [], _ => []
  | (k, v) :: t, a => if a = k then t else (k, v) :: keyDel t a

/-- A rising list of numbers with one more. -/
def natIns : List Nat → Nat → List Nat
  | [], a => [a]
  | k :: t, a => if a < k then a :: k :: t else if a = k then k :: t else k :: natIns t a

/-- A list of numbers without one. -/
def natDel : List Nat → Nat → List Nat
  | [], _ => []
  | k :: t, a => if a = k then t else k :: natDel t a

/-- The list with element k replaced by what a function makes of it. -/
def listMod {α : Type} (l : List α) (k : Nat) (f : α → α) : List α := l.modify k f

/-! ## Memory (R20, R25, R28, R80, R421) -/

/-- The byte at an address. -/
def Cells.get (c : Cells) (a : Nat) : Byte := keyGet 0#8 c a

/-- The bytes with one set; a zero byte is not listed (log 4). -/
def Cells.set (c : Cells) (a : Nat) (v : Byte) : Cells := if v = 0#8 then keyDel c a else keySet c a v

/-- The n bytes at an address as a little-endian number (R80). -/
def Cells.read (c : Cells) (a : Nat) : Nat → Nat
  | 0 => 0
  | n + 1 => (c.get a).toNat + 256 * Cells.read c (a + 1) n

/-- The bytes with n written at an address, little-endian (R80). -/
def Cells.write (c : Cells) (a : Nat) : Nat → Nat → Cells
  | 0, _ => c
  | n + 1, v => Cells.write (c.set a (BitVec.ofNat 8 v)) (a + 1) n (v / 256)

/-- The bytes with [a, a + n) all zero. -/
def Cells.clear (c : Cells) (a n : Nat) : Cells := c.filter (fun p => decide (p.1 < a ∨ a + n ≤ p.1))

/-- The bytes of [a, a + n), numbered from 0. -/
def Cells.slice (c : Cells) (a n : Nat) : Cells :=
  (c.filter (fun p => decide (a ≤ p.1 ∧ p.1 < a + n))).map (fun p => (p.1 - a, p.2))

/-- The bytes with those of another list, numbered from 0, laid at an address (into a cleared range). -/
def Cells.lay (c : Cells) (a : Nat) : Cells → Cells
  | [] => c
  | (k, v) :: t => Cells.lay (c.set (a + k) v) a t

/-- The doubleword that holds an address. -/
def dwordOf (a : Nat) : Nat := a / 8 * 8

/-- The full/empty state of a doubleword: none where it is full (R25). -/
def Memory.feOf (m : Memory) (a : Nat) : Option FE := keyFind m.fe a

/-- Whether a doubleword is full. -/
def Memory.isFull (m : Memory) (a : Nat) : Bool := (m.feOf a).isNone

/-- Whether a doubleword is pending. -/
def Memory.isPending (m : Memory) (a : Nat) : Bool := m.feOf a == some .pending

/-- Memory with a doubleword's state set. -/
def Memory.setFe (m : Memory) (a : Nat) : Option FE → Memory
  | none => { m with fe := keyDel m.fe a }
  | some x => { m with fe := keySet m.fe a x }

/-- Whether the doubleword of an address is poisoned (R421). -/
def Memory.isBad (m : Memory) (a : Nat) : Bool := m.poison.contains (dwordOf a)

/-- Memory with a doubleword's poison set or cleared. -/
def Memory.setBad (m : Memory) (a : Nat) (b : Bool) : Memory :=
  if b then { m with poison := natIns m.poison (dwordOf a) } else { m with poison := natDel m.poison (dwordOf a) }

/-- The n bytes at an address as a little-endian number. -/
def Memory.read (m : Memory) (a n : Nat) : Nat := m.cells.read a n

/-- The doubleword at an address, with its poison. -/
def Memory.word (m : Memory) (a : Nat) : PWord := ⟨BitVec.ofNat 64 (m.read a 8), m.isBad a⟩

/-- The base of local store in the flat numbering: HBM lies below it (log 3). -/
def lsOrigin : Nat := 2 ^ 44

/-- The 32 KiB of the flat numbering in which an address lies: a slice of local store, part of a bank or part of a frame. -/
def regionOf (a : Nat) : Nat := a / 32768

/-- The values of the n bytes of a number, a bit for each. -/
def byteSet (v : Nat) : Nat → BitVec 256
  | 0 => 0
  | n + 1 => (1#256 <<< (v % 256)) ||| byteSet (v / 256) n

/-- The values that bytes have been given, with n more at an address (R7; log 7). -/
def Memory.noted (m : Memory) (a n v : Nat) : List (Nat × BitVec 256) :=
  keySet m.past (regionOf a) (keyGet 0 m.past (regionOf a) ||| byteSet v n)

/-- The log of what writes of HBM found, with the doublewords that n bytes at an address touch (R69; log 10). -/
def Memory.logged (m : Memory) (a n : Nat) : List (Nat × PWord) :=
  if lsOrigin ≤ a then m.log
  else ((List.range ((a + n - 1) / 8 - a / 8 + 1)).map (fun i => (dwordOf a + 8 * i, m.word (dwordOf a + 8 * i)))) ++ m.log

/-- Memory with n bytes written, its poison and full/empty states as they were. -/
def Memory.write (m : Memory) (a n v : Nat) : Memory :=
  { m with cells := m.cells.write a n v, past := m.noted a n v, log := m.logged a n }

/-- The entries of the log of writes between two numbers of writes. -/
def Memory.logBetween (m : Memory) (lo hi : Nat) : List (Nat × PWord) :=
  (m.log.drop (m.log.length - hi)).take (hi - lo)

/-- Whether a write between two numbers of writes changed a word of [a, a + n) (R69; log 10). -/
def Memory.changed (m : Memory) (a n lo hi : Nat) : Bool := (m.logBetween lo hi).any (fun e => decide (a ≤ e.1 ∧ e.1 < a + n))

/-- The doubleword at an address as it was after the first `view` writes of HBM (R69; log 10). -/
def Memory.wordAt (m : Memory) (view a : Nat) : PWord :=
  (((m.logBetween view m.log.length).reverse.find? (fun e => e.1 == dwordOf a)).map (fun e => e.2)).getD (m.word (dwordOf a))

/-- The values of bytes of [a, a + n) that writes have given, and memory with them forgotten, as the range changes hands (R7, R28). -/
def Memory.pastOf (m : Memory) (a n : Nat) : BitVec 256 :=
  (m.past.filter (fun p => decide (regionOf a ≤ p.1 ∧ p.1 < regionOf (a + n)))).foldl (fun v p => v ||| p.2) 0

/-- Memory whose range [a, a + n) has no past: what it held was another's (R7, R28). -/
def Memory.forget (m : Memory) (a n : Nat) : Memory :=
  { m with past := m.past.filter (fun p => decide (p.1 < regionOf a ∨ regionOf (a + n) ≤ p.1)) }

/-- Memory with a doubleword written whole: clean data clears poison, poisoned data sets it (R422). -/
def Memory.putWord (m : Memory) (a : Nat) (v : PWord) : Memory := (m.write a 8 v.val.toNat).setBad a v.bad

/-- Whether the word of an address was last written by another party than a thread: a store of another thread, a deposit or a
unit (R206). -/
def Memory.isExt (m : Memory) (tid a : Nat) : Bool := (keyFind m.ext (dwordOf a)).any (fun w => w != tid + 1)

/-- Memory with the writer of a word noted, or none where it holds a result (R206). -/
def Memory.setExt (m : Memory) (a : Nat) : Option Nat → Memory
  | some w => { m with ext := keySet m.ext (dwordOf a) w }
  | none => { m with ext := keyDel m.ext (dwordOf a) }

/-- Memory with n bytes within one doubleword stored (R422: a narrower store of clean data leaves the word's poison). -/
def Memory.store (m : Memory) (a n v : Nat) (bad : Bool) : Memory :=
  if n = 8 then m.putWord a ⟨BitVec.ofNat 64 v, bad⟩
  else if bad then (m.write a n v).setBad a true else m.write a n v

/-- Memory with [a, a + n) zero, full and clean: a scrub (R28). No earlier view of it shows what it held (log 10). -/
def Memory.scrub (m : Memory) (a n : Nat) : Memory :=
  { m with
    cells := m.cells.clear a n
    fe := m.fe.filter (fun p => decide (p.1 < a ∨ a + n ≤ p.1))
    poison := m.poison.filter (fun p => decide (p < a ∨ a + n ≤ p))
    ext := m.ext.filter (fun p => decide (p.1 < a ∨ a + n ≤ p.1))
    log := m.log.map (fun e => if a ≤ e.1 ∧ e.1 < a + n then (e.1, ⟨0, false⟩) else e) }

/-! ## Flat addresses (log 3) -/

/-- The base of commons in the flat numbering. -/
def commonsOrigin : Nat := 2 ^ 45

/-- The flat address of a local-store address of a core (R29, log 3). -/
def lsAddr (core off : Nat) : Nat := lsOrigin + core * 2 ^ 20 + off

/-- Bytes of a commons bank (R249). -/
def bankBytes : Nat := 196608

/-- The flat address of a byte of a commons bank (R249, R439, log 3). -/
def commonsAddr (die bank off : Nat) : Nat := commonsOrigin + (512 * die + bank) * bankBytes + off

/-- Bytes of HBM on a die (R385). -/
def hbmBytes : Nat := 96 * 2 ^ 30

/-- Whether a flat address is local store, and its core. -/
def lsCoreOf (a : Nat) : Option Nat :=
  if lsOrigin ≤ a ∧ a < lsOrigin + 2048 * 2 ^ 20 then some ((a - lsOrigin) / 2 ^ 20) else none

/-- Memory after a party wrote a word: in local store, who did (R206). `tid` is the thread that wrote, if one did. -/
def Memory.noteWriter (m : Memory) (tid : Option Nat) (w : Nat) : Memory :=
  if (lsCoreOf w).isSome then m.setExt w (some (tid.elim 0 (fun t => t + 1))) else m

/-- Whether a flat address carries a full/empty bit (R25): local store or commons. -/
def hasFe (a : Nat) : Bool := decide (lsOrigin ≤ a)

/-- The die of a physical core (R11). -/
def dieOf (core : Nat) : Nat := core / 256

/-- The island of a core: rows 0 to 7 of its die, or 8 to 15 (R377). -/
def islandOf (core : Nat) : Nat := 2 * dieOf core + core % 256 / 4 / 32

/-! ## Cores, slots, the acting thread -/

/-- A core. -/
def State.core (s : State) (c : Nat) : Core := keyGet Core.reset s.cores c

/-- The state with a core replaced. -/
def State.setCore (s : State) (c : Nat) (x : Core) : State := { s with cores := keySet s.cores c x }

/-- The state with a core changed. -/
def State.modCore (s : State) (c : Nat) (f : Core → Core) : State := s.setCore c (f (s.core c))

/-- The core cycle that a core is in: its island's (R143, R329). -/
def State.cycle (s : State) (c : Nat) : Nat := s.cycles.getD (islandOf c) 0

/-- A slot of a core. -/
def Core.slot (c : Core) (k : Nat) : Slot := c.slots.getD k Slot.reset

/-- A core with a slot changed. -/
def Core.modSlot (c : Core) (k : Nat) (f : Slot → Slot) : Core := { c with slots := listMod c.slots k f }

/-- A slot. -/
def State.slot (s : State) (c k : Nat) : Slot := (s.core c).slot k

/-- The state with a slot changed. -/
def State.modSlot (s : State) (c k : Nat) (f : Slot → Slot) : State := s.modCore c (fun x => x.modSlot k f)

/-- The acting slot. -/
def State.me (s : State) : Slot := s.slot s.cur.1 s.cur.2

/-- The acting core. -/
def State.myCore (s : State) : Core := s.core s.cur.1

/-- The state with the acting slot changed. -/
def State.modMe (s : State) (f : Slot → Slot) : State := s.modSlot s.cur.1 s.cur.2 f

/-- The state with the acting core changed. -/
def State.modMyCore (s : State) (f : Core → Core) : State := s.modCore s.cur.1 f

/-- The acting thread's descriptor. -/
def State.desc (s : State) : Desc := s.me.desc

/-- The state with the acting thread's descriptor changed. -/
def State.modDesc (s : State) (f : Desc → Desc) : State := s.modMe (fun x => { x with desc := f x.desc })

/-- The address of the instruction being executed. -/
def State.pc (s : State) : Word := s.desc.pc

/-- Whether the acting slot is the message thread's (R18). -/
def State.in15 (s : State) : Bool := s.cur.2 == 15

/-- STAT.PRIV of the acting thread (R32). -/
def State.priv (s : State) : Bool := s.desc.stat.getLsbD 9

/-- STAT.NSR of the acting thread. -/
def State.nsr (s : State) : Bool := s.desc.stat.getLsbD 3

/-- STAT.FZ of the acting thread. -/
def State.fz (s : State) : Bool := s.desc.stat.getLsbD 2

/-- A lea. -/
def State.lea (s : State) (n : Nat) : Option Lea := keyFind s.leas n

/-- The acting thread's lea. -/
def State.myLea (s : State) : Option Lea := s.me.lea.bind s.lea

/-- The state with a lea changed, if it exists. -/
def State.modLea (s : State) (n : Nat) (f : Lea → Lea) : State :=
  match s.lea n with
  | some l => { s with leas := keySet s.leas n (f l) }
  | none => s

/-- The next free number. -/
def State.takeId (s : State) : Nat × State := (s.nextId, { s with nextId := s.nextId + 1 })

/-! ## Undefined values (R7, R9; log 7) -/

/-- The lea whose slice a slot of a core holds: in a handover the outgoing lea's until it is saved, the incoming one's once it is
restored, and between them none's (R378). -/
def Core.sliceOwner (c : Core) (k : Nat) : Option Nat := match c.handover with
  | some h => if h.restored.contains k then some h.into else if h.saved.contains k then none else h.out
  | none => c.lea

/-- Whether a lea holds 32 KiB of the flat numbering: a slot's slice, a part of a core's pool or of a bank of its commons, or a part of a
frame under one of its keys (R28, R374, R391). -/
def State.ownsRegion (s : State) (n : Nat) (l : Lea) (r : Nat) : Bool :=
  if r < regionOf lsOrigin then (keyFind s.head.frames (r / 64)).any l.keys.contains
  else if r < regionOf commonsOrigin then
    let q := r - regionOf lsOrigin
    let c := s.core (q / 32)
    (if q % 32 < 16 then c.sliceOwner (q % 32) else c.lea) == some n
  else
    let b := (r - regionOf commonsOrigin) / 6
    (keyGet [] l.banks (b / 512)).contains (b % 512)

/-- The values of bytes that a lea has written: those given to what it holds, and to what it held before (R7). -/
def State.wrote (s : State) (lea : Option Nat) : BitVec 256 :=
  match lea with
  | none => 0
  | some n => match s.lea n with
    | none => 0
    | some l => (s.mem.past.filter (fun p => s.ownsRegion n l p.1)).foldl (fun v p => v ||| p.2) l.wrote

/-- A doubleword with every byte that is not of a set replaced by zero. -/
def boundWord (set : BitVec 256) (w : Word) : Word :=
  BitVec.ofNat 64 ((List.range 8).foldr (fun i acc =>
    let b := (w.extractLsb' (8 * i) 8).toNat
    256 * acc + (if set.getLsbD b then b else 0)) 0)

/-- The n-th undefined doubleword as a lea reads it: each byte is zero or a value that the lea has written (R7, R9; log 7). -/
def State.undef (s : State) (lea : Option Nat) (n : Nat) : Word := boundWord (s.wrote lea) (Config.freeWord n)

/-- Values of bytes that a lea has written elsewhere than in memory noted: in its save areas (R7, R380). -/
def State.noteWrote (s : State) (lea : Nat) (v : BitVec 256) : State := s.modLea lea (fun l => { l with wrote := l.wrote ||| v })

/-- The range [a, a + n) given up by a lea: the values that the lea gave its bytes stay the lea's (R7, R28). -/
def State.giveUp (s : State) (lea : Option Nat) (a n : Nat) : State :=
  let s1 := match lea with
    | some k => s.noteWrote k (s.mem.pastOf a n)
    | none => s
  { s1 with mem := s1.mem.forget a n }

/-- A poisoned doubleword of the acting thread whose value the manual leaves undefined (R7, R422; log 7). -/
def State.takePoison (s : State) : PWord × State := (⟨s.undef s.me.lea s.free, true⟩, { s with free := s.free + 1 })

/-- A doubleword whose encoding the manual leaves open (R29; log 7). -/
def State.takeFree (s : State) : Word × State := (Config.freeWord s.free, { s with free := s.free + 1 })

/-- Some members of a list that is not empty, one at least: which, is not said (R205; log 7). -/
def State.pickSome {α : Type} (s : State) (l : List α) : List α :=
  let k := Config.freeNat s.free % l.length
  l.zipIdx.filterMap (fun p => if p.2 = k || !(Config.freeWord (s.free + p.2)).getLsbD 0 then some p.1 else none)

/-- The number of cores of a lea (R372, R373). -/
def Lea.leal (l : Lea) : Nat := l.cores.length

/-- LEAL of the acting thread's lea; 0 in a slot that holds none (R373). -/
def State.leal (s : State) : Nat := match s.myLea with
  | some l => l.leal
  | none => 0

/-- The physical core of a logical index of the acting thread's lea. -/
def State.physOf (s : State) (i : Nat) : Nat := match s.myLea with
  | some l => l.cores.getD i 0
  | none => 0

/-- The logical index of a physical core in a lea (R12). -/
def Lea.logical (l : Lea) (c : Nat) : Nat := l.cores.idxOf c

/-- The logical index of a physical core in a lea's number. -/
def State.logicalOf (s : State) (lea c : Nat) : Nat := match s.lea lea with
  | some l => l.logical c
  | none => 0

/-! ## Slots, tides and dies (R224, R325, R425) -/

/-- The slot within the tide (R325). -/
def State.tideSlot (s : State) : Nat := s.now % 4096

/-- The number of the present tide. -/
def State.tide (s : State) : Nat := s.now / 4096

/-- Whether a die works: not in any phase of a reset (R425). -/
def State.dieUp (s : State) (d : Nat) : Bool :=
  match s.dies[d]? with
  | some x => x.phase == .up
  | none => false

/-! ## Guest time (R224-R227) -/

/-- Guest time of a lea: the slot counter less the paused slots plus GTOFF (R227). The copies of the counter on the dies are
held equal, with no skew between them (R224; log 78). -/
def State.guestTime (s : State) (n : Option Nat) : Word :=
  match n.bind s.lea with
  | some l => BitVec.ofNat 64 (if l.isPaused then l.lastGuest else s.now - l.paused) + l.gtoff
  | none => BitVec.ofNat 64 s.now

/-! ## Slots that wait (R19) -/

/-- Segment register k of a descriptor. -/
def Desc.seg (d : Desc) (k : Nat) : Seg := d.segs.getD k Seg.reset

/-- SPACE of a segment (R37). -/
def Seg.space (g : Seg) : Nat := (g.attr.extractLsb' 0 3).toNat

/-- Whether the thread of a slot is Parked, or was where debug halted it (R19, R396). -/
def Slot.waiting (x : Slot) : Bool := x.run == .parked || x.debugHalt == some .parked

/-- The run state of a thread that is not Parked: Ready where it waits for nothing, and Forfeiting while it waits for an
acknowledgement, a turn 0, a switch, a save to end or dropped translations, or owes turns to the normaliser (R19, R31, R94, R335, R414). -/
def Hold.run : Hold → RunState
  | .none => .ready
  | _ => .forfeiting

/-- Whether an instruction that leaves its thread waiting so is complete as it issues (R31, R94, R328). -/
def Hold.complete : Hold → Bool
  | .none => true
  | .owed _ => true
  | .switching _ => true
  | _ => false

/-- Whether a wait is that of an instruction that has issued and completes as the wait ends (R328). -/
def Wait.completes : Wait → Bool
  | .words _ _ _ _ | .sem _ _ | .barrier _ _ | .token _ _ _ | .pred | .backoff _ _ _ | .time _ | .coll _ | .colld | .ctxld => true
  | _ => false

/-- A wait that ends: the thread is Ready, or will be where debug lets it go on (R19, R328, R396). -/
def Slot.wake (x : Slot) : Slot :=
  let y := { x with wait := .none, woken := x.woken || x.wait.completes }
  if x.run = .parked then { y with run := x.hold.run }
  else if x.debugHalt = some .parked then { y with debugHalt := some x.hold.run }
  else x

/-- A thread that waits, Forfeiting, for what `h` names (R19, R335). -/
def Slot.holdFor (x : Slot) (h : Hold) : Slot := { x with run := h.run, hold := h }

/-- A thread that was Forfeiting waits no more: it is Ready, or will be where debug lets it go on (R19, R94, R396). -/
def Slot.letGo (x : Slot) : Slot :=
  { x with
    hold := .none
    run := if x.run = .forfeiting then .ready else x.run
    debugHalt := if x.debugHalt = some .forfeiting then some .ready else x.debugHalt }

/-- What an instruction of the thread waited for, Forfeiting, has come (R19, R328, R335). -/
def Slot.release (x : Slot) : Slot := { x.letGo with woken := true }

/-! ## Outstanding work and its events (R205, R231) -/

/-- An item of outstanding work. -/
def State.out (s : State) (id : Nat) : Option Out := s.outs.find? (fun o => o.id == id)

/-- Outstanding work with one item changed. -/
def State.modOut (s : State) (id : Nat) (f : Out → Out) : State :=
  { s with outs := s.outs.map (fun o => if o.id = id then f o else o) }

/-- An access with one event changed. -/
def Access.modPart (x : Access) (i : Nat) (f : Part → Part) : Access := { x with parts := listMod x.parts i f }

/-- An outstanding access with one event changed. -/
def Out.modPart (o : Out) (i : Nat) (f : Part → Part) : Out :=
  match o.work with
  | .access x => { o with work := .access (x.modPart i f) }
  | _ => o

/-- The access of an item of outstanding work. -/
def Out.access (o : Out) : Option Access :=
  match o.work with
  | .access x => some x
  | _ => none

/-- The events of an item of outstanding work. -/
def Out.size (o : Out) : Nat := match o.access with
  | some x => x.parts.length
  | none => 0

/-- An event performed, with what it returned. -/
def Part.done (p : Part) (r : PWord) : Part := { p with stage := .performed, res := r.val.toNat, bad := r.bad }

/-! ## Segments (R36-R39) -/

/-- Segment register k of the acting thread. -/
def State.seg (s : State) (k : Nat) : Seg := s.desc.seg k

/-- DIE of a segment (R37). -/
def Seg.die (g : Seg) : Nat := (g.attr.extractLsb' 12 3).toNat

/-- The rights, by their bits of ATTR (R37). -/
inductive Right where
  | r | w | x | b | f
  deriving DecidableEq, Repr

/-- Whether a segment has a right. -/
def Seg.has (g : Seg) : Right → Bool
  | .r => g.attr.getLsbD 4
  | .w => g.attr.getLsbD 5
  | .x => g.attr.getLsbD 6
  | .b => g.attr.getLsbD 7
  | .f => g.attr.getLsbD 8

/-- An ATTR as it is written: reserved bits zero, and each right that the space does not permit forced to zero (R37). -/
def attrForced (a : BitVec 16) : BitVec 16 :=
  let sp := (a.extractLsb' 0 3).toNat
  let keep (b : Bool) (n : Nat) : BitVec 16 := if b then 1#16 <<< n else 0
  a &&& (0x0017#16 ||| keep (sp != 7) 5 ||| keep (sp == 7) 6 ||| keep (sp == 3 || sp == 4) 7
    ||| keep (sp == 1 || sp == 2 || sp == 3) 8 ||| (if sp = 5 then 0x7000#16 else 0))

/-- The commons banks of a lea on a die, in ascending number (R440). -/
def Lea.banksOn (l : Lea) (die : Nat) : List Nat := keyGet [] l.banks die

/-- The extent of a space for a lea's thread on a die (R38, R343, R375). -/
def extentOf (l : Option Lea) (die space : Nat) : Nat :=
  match space with
  | 1 => 0x8000
  | 2 => 0x40000
  | 3 => (match l with | some x => (x.banksOn die).length * bankBytes | none => 0)
  | 6 => 0x600
  | 0 => 0
  | _ => 2 ^ 48

/-- The first check of R39 that fails: its cause. `ok` lists the spaces the operation is allowed in. -/
def segFail (g : Seg) (ext : Nat) (off size : Nat) (rights : List Right) (ok : List Nat) : Option (BitVec 8) :=
  if g.space = 0 then some 0x20
  else if !ok.contains g.space then some 0x24
  else if rights.any (fun need => !g.has need) then some 0x22
  else if g.limit.toNat < off + size then some 0x21
  else if ext < g.base.toNat + off + size then some 0x21
  else none

/-- The extent of a space for the acting thread. -/
def State.extent (s : State) (space : Nat) : Nat := extentOf s.myLea (dieOf s.cur.1) space

/-- The flat address of a physical space's address for a slot of a core (R29, R249, R439; log 3). -/
def State.flat (s : State) (core slot : Nat) (lea : Option Nat) (space addr : Nat) : Option Nat :=
  match space with
  | 1 => some (lsAddr core (0x8000 * slot + addr))
  | 2 => some (lsAddr core (0x80000 + addr))
  | 3 =>
    match lea.bind s.lea with
    | some l => (l.banksOn (dieOf core))[addr / bankBytes]?.map (fun b => commonsAddr (dieOf core) b (addr % bankBytes))
    | none => none
  | _ => none

/-! ## The port transfer of a bay (R189, R196) -/

/-- The memory that a port transfer of a core still has to move: space, die, address and the pieces left (R189, R196). -/
def Bay.portRange (b : Bay) (id : Nat) : Option (Nat × Nat × Nat × List (Nat × Nat)) :=
  let waiting : Option (Nat × Nat × Nat × List (Nat × Nat)) := b.queue.findSome? (fun e => match e.op with
    | .msave _ _ space die addr _ => if e.outId = id then some (space, die, addr, [(0, 16448)]) else none
    | _ => none)
  match b.port with
  | some j => if j.outId = id then some (j.space, j.die, j.addr, j.left) else waiting
  | none => waiting

/-! ## Records for slot 15 (R339, R401) -/

/-- The unit of a record (R401). -/
inductive RecUnit where
  | thread | engine | port | dorent | gang | die
  deriving DecidableEq, Repr

/-- The UNIT code of a record. -/
def RecUnit.code : RecUnit → Nat
  | .thread => 0
  | .engine => 1
  | .port => 2
  | .dorent => 3
  | .gang => 4
  | .die => 5

/-- Word w0 of a record (R401); kind 0 Trap, 1 Park, 2 Notice. -/
def recW0 (time : Word) (slot : Nat) (u : RecUnit) (kind ilen : Nat) (cause : BitVec 8) : Word :=
  BitVec.ofNat 32 time.toNat ++ 0#12 ++ BitVec.ofNat 4 slot ++ BitVec.ofNat 4 u.code ++ BitVec.ofNat 2 kind ++
    BitVec.ofNat 2 ilen ++ cause

/-- A record for slot 15 of a core through the Headland place (R339, R387, R401). -/
def State.headRecord (s : State) (c : Nat) (lea : Option Nat) (slot : Nat) (u : RecUnit) (kind ilen : Nat) (cause : BitVec 8)
    (pc tval aux : Word) : State :=
  s.modCore c (fun x => { x with
    headRecords := x.headRecords ++ [(lea.getD 0, ⟨recW0 (s.guestTime lea) slot u kind ilen cause, pc, tval, aux, 15⟩)] })

/-- A lea's save area on a core, with its saved pool changed. -/
def Core.modPoolSave (c : Core) (lea : Nat) (f : PoolSave → PoolSave) : Core :=
  { c with saves := c.saves.map (fun e => if e.1 = lea then (e.1, { e.2 with pool := e.2.pool.map f }) else e) }

/-- A fault of slot 15 for Headland, with its lea's unit: the saved one where the lea does not hold the pool (R378, R403). -/
def Core.setFault15 (c : Core) (lea : Option Nat) (cause : Nat) : Core :=
  if c.lea = lea then { c with fault15 := some cause }
  else match lea with
    | some l => c.modPoolSave l (fun p => { p with fault15 := some cause })
    | none => c

/-- A Park record of a thread or of its port transfer; a fault of slot 15 goes to Headland instead (R387, R403; log 21). -/
def State.parkRecord (s : State) (c : Nat) (lea : Option Nat) (slot : Nat) (u : RecUnit) (ilen cause : Nat)
    (pc tval aux : Word) : State :=
  if slot = 15 then s.modCore c (fun x => x.setFault15 lea cause)
  else s.headRecord c lea slot u 1 ilen (BitVec.ofNat 8 cause) pc tval aux

end Sys2Proof.Machine
end

