-- ==== Sys2Proof/Machine/Translate.lean ====
section
/-! DEFINITION. Translation behind the group memory port (R383-R390): the two stages, the walk, the translation buffer of a
core, and what a fault or a page fault does to a thread's access (R387, R405). -/

namespace Sys2Proof.Machine

/-- How a walk ends (R386). -/
inductive Walk where
  | ok (e : Gtb)
  | fault (cause : Nat)
  | page (frame : Nat)
  deriving DecidableEq, Repr

/-- Where stage 2 leads (R386). -/
inductive Host2 where
  | ok (host : Nat) (entry : Word)
  | fault (cause : Nat)
  | page (frame : Nat)
  deriving DecidableEq, Repr

/-- The host frame a stage-2 entry names, by number (R385). -/
def s2Frame (e : Word) : Nat := (e.extractLsb' 21 27).toNat

/-- The key identifier of a stage-2 entry (R385). -/
def s2Key (e : Word) : Nat := (e.extractLsb' 50 12).toNat

/-- Bytes of a frame (R385). -/
def frameBytes : Nat := 2097152

/-- Stage 2 of a lea for a guest physical address (R385, R386), or a poisoned entry (R404). -/
def State.stage2 (s : State) (l : Lea) (d gpa : Nat) (final : Bool) : Host2 :=
  if frameBytes * l.s2len ≤ gpa then .fault 0x33
  else
    let f := gpa / frameBytes
    let e := keyGet 0#64 l.s2 f
    if l.s2bad.contains f then .fault 0x36
    else if !e.getLsbD 0 || (e &&& 0xC0030000001FFFC0#64) != 0 then .fault 0x33
    else if final && s2Frame e * frameBytes / hbmBytes != d then .fault 0x33
    else if !l.keys.contains (s2Key e) || keyFind s.head.frames (s2Frame e) != some (s2Key e) then .fault 0x34
    else if !e.getLsbD 5 then .page f
    else .ok (s2Frame e * frameBytes + gpa % frameBytes) e

/-- Whether a stage-1 entry at a level is malformed (R384, R386). -/
def s1Bad (lv : Nat) (e : Word) : Bool :=
  let leaf := e.getLsbD 1
  (e &&& 0xFFFF00000000FFC0#64) != 0
    || (!leaf && (e &&& 0x3C#64) != 0)
    || (lv == 1 && leaf) || (lv == 3 && !leaf)
    || (lv == 2 && leaf && (e &&& 0x1FFF0000#64) != 0)
    || e.extractLsb' 40 8 != 0

/-- The index of a level in a virtual address (R384). -/
def s1Index (lv va : Nat) : Nat :=
  match lv with
  | 1 => va / 2 ^ 38 % 1024
  | 2 => va / 2 ^ 29 % 512
  | _ => va / 2 ^ 16 % 8192

/-- The address field of a stage-1 entry as a guest physical address (R384). -/
def s1Addr (e : Word) : Nat := (e &&& 0x0000FFFFFFFF0000#64).toNat

/-- The guest physical address of a virtual one that a leaf at a level maps (R384, R386). -/
def s1Page (lv va : Nat) (e : Word) : Nat := s1Addr e + va % (if lv = 2 then 2 ^ 29 else 2 ^ 16)

/-- The last step of a walk: stage 2 of the page, and the rights (R386, R389). -/
def State.walkLeaf (s : State) (n : Nat) (l : Lea) (d va : Nat) (need : List Right) (lv : Nat) (e : Word) : Walk :=
  match s.stage2 l d (s1Page lv va e) true with
  | .fault c => .fault c
  | .page f => .page f
  | .ok h s2 =>
    let both (a b : Nat) : Bool := e.getLsbD a && s2.getLsbD b
    let have1 : Right → Bool
      | .r => both 2 1
      | .w => both 3 2
      | .x => both 4 3
      | .b => both 5 4
      | .f => false
    if need.any (fun x => x != .b && !have1 x) then .fault 0x31
    else if need.contains .b && !have1 .b then .fault 0x35
    else
      let big := lv == 2
      .ok { lea := n, die := d, page := if big then va / 2 ^ 21 else va / 2 ^ 16, big := big,
            frame := if big then h / 2 ^ 21 else h / 2 ^ 16,
            rights := BitVec.ofBool (have1 .b) ++ BitVec.ofBool (have1 .x) ++ BitVec.ofBool (have1 .w) ++ BitVec.ofBool (have1 .r),
            key := s2Key s2 }

/-- The levels of a walk from a table at a guest physical address (R386). A read of a die in reset is answered with poison
(R425). -/
def State.walkFrom (s : State) (n : Nat) (l : Lea) (d va : Nat) (need : List Right) (g : Nat) : List Nat → Walk
  | [] => .fault 0x32
  | lv :: t =>
    match s.stage2 l d (g + 8 * s1Index lv va) false with
    | .fault c => .fault c
    | .page f => .page f
    | .ok h _ =>
      let p := s.mem.word h
      if p.bad || !s.dieUp (h / hbmBytes) then .fault 0x36
      else if !p.val.getLsbD 0 then .fault 0x30
      else if s1Bad lv p.val then .fault 0x32
      else if p.val.getLsbD 1 then s.walkLeaf n l d va need lv p.val
      else s.walkFrom n l d va need (s1Addr p.val) t

/-- The table in which a walk that begins now for a lea's space on a die begins: S1ROOT (R383). -/
def State.rootOf (s : State) (lea die : Nat) : Nat := match s.lea lea with
  | none => 0
  | some l => s1Addr (keyGet 0#64 l.s1root die)

/-- Translate (R386): the walk of a virtual address of a lea's space for a die from the table at a guest physical address. -/
def State.translateFrom (s : State) (lea die va : Nat) (need : List Right) (root : Nat) : Walk :=
  match s.lea lea with
  | none => .fault 0x33
  | some l => s.walkFrom lea l die va need root [1, 2, 3]

/-- Translate (R386): a walk that begins now (R383). -/
def State.translate (s : State) (lea die va : Nat) (need : List Right) : Walk := s.translateFrom lea die va need (s.rootOf lea die)

/-- The reads that a walk makes, in order, up to the first that fails: `none` one of stage 2, which is not made again for the frame
of the read before it, and a host address one of stage 1 (R386, R390; log 105). `last` is the frame read last. -/
def State.readsFrom (s : State) (l : Lea) (d va : Nat) (last : Option Nat) (g : Nat) : List Nat → List (Option Nat)
  | [] => []
  | lv :: t =>
    let a := g + 8 * s1Index lv va
    let again (f : Option Nat) (a : Nat) : List (Option Nat) := if f = some (a / frameBytes) then [] else [none]
    match s.stage2 l d a false with
    | .ok h _ =>
      let p := s.mem.word h
      let here := some (a / frameBytes)
      if !s.dieUp (h / hbmBytes) then again last a
      else if p.bad || !p.val.getLsbD 0 || s1Bad lv p.val then again last a ++ [some h]
      else if p.val.getLsbD 1 then again last a ++ some h :: again here (s1Page lv va p.val)
      else again last a ++ some h :: s.readsFrom l d va here (s1Addr p.val) t
    | _ => again last a

/-- The reads of the walk of a virtual address of a lea's space for a die from the table at a guest physical address (R386, R390). -/
def State.walkReads (s : State) (lea die va root : Nat) : List (Option Nat) :=
  match s.lea lea with
  | none => []
  | some l => s.readsFrom l die va none root [1, 2, 3]

/-- The slots that a read of a walk takes: 64 of stage 2, and from its service slot 96 of stage 1 (R326, R390). -/
def readTime : Option Nat → Nat
  | none => 64
  | some _ => 96

/-- Whether an entry of the translation buffer maps an address with the rights needed (R389). -/
def Gtb.hits (e : Gtb) (lea die va : Nat) (need : List Right) : Bool :=
  e.lea == lea && e.die == die && e.page == (if e.big then va / 2 ^ 21 else va / 2 ^ 16) &&
    need.all (fun x => match x with
      | .r => e.rights.getLsbD 0
      | .w => e.rights.getLsbD 1
      | .x => e.rights.getLsbD 2
      | .b => e.rights.getLsbD 3
      | .f => false)

/-- The host physical address that an entry gives. -/
def Gtb.host (e : Gtb) (va : Nat) : Nat := if e.big then e.frame * 2 ^ 21 + va % 2 ^ 21 else e.frame * 2 ^ 16 + va % 2 ^ 16

/-- The translation buffer's answer for a core. -/
def Core.gtbFind (c : Core) (lea die va : Nat) (need : List Right) : Option Gtb :=
  c.gtb.find? (fun e => e.hits lea die va need)

/-- The core's 128 entries with one used or filled: the most recently used stands first (R389). -/
def Core.gtbUse (c : Core) (e : Gtb) : Core := { c with gtb := (e :: c.gtb.filter (fun x => x != e)).take 128 }

/-- The answer for an address behind the group port: the translation buffer's, or a fresh walk's (R386, R388, R389). -/
def State.lookUp (s : State) (core lea die va : Nat) (need : List Right) : Walk :=
  match (s.core core).gtbFind lea die va need with
  | some e => .ok e
  | none => s.translate lea die va need

/-- The translation buffer after an address was used (R389). -/
def State.usePage (s : State) (core lea die : Nat) (need : List Right) (va : Nat) : State :=
  match s.lookUp core lea die va need with
  | .ok e => s.modCore core (fun c => c.gtbUse e)
  | _ => s

/-- What Headland logs of a translation fault to physical function 0 (R387). -/
def State.logFault (s : State) (lea cause tval : Nat) : State :=
  if cause = 0x33 ∨ cause = 0x34 then { s with head := { s.head with log := s.head.log ++ [.fault lea cause tval] } } else s

/-- A page fault logged to physical function 0 (R405). -/
def State.logPage (s : State) (lea frame : Nat) : State :=
  { s with head := { s.head with log := s.head.log ++ [.pageFault lea frame] } }

/-- The stages in which an access is held at the port (R387, R405). -/
def Stage.held : Stage → Bool
  | .pageFault _ => true
  | .fault _ => true
  | _ => false

/-- Whether an item of outstanding work is held at the group port. -/
def Out.held (o : Out) : Bool :=
  match o.work with
  | .access x => x.parts.any (fun p => p.stage.held)
  | .bank c => c.parts.any (fun p => p.stage.held)
  | _ => false

/-- A thread of which an access is held at the port issues nothing more: it is Parked on the access (R64, R405). -/
def State.parkHeld (s : State) (o : Out) : State :=
  s.modSlot o.core o.slot (fun x =>
    if x.tid = o.tid ∧ (x.run = .ready ∨ x.run = .forfeiting) then { x with run := .parked, wait := .access o.id } else x)

/-- A thread Parked on a held access wakes once nothing of the access is held. -/
def State.wakeHeld (s : State) (id : Nat) : State :=
  match s.out id with
  | none => s
  | some o =>
    if o.held then s
    else s.modSlot o.core o.slot (fun x =>
      if x.tid = o.tid ∧ x.wait = .access id then x.wake else x)

/-- The TDP of the thread of an item of work, for AUX of its record (R401). -/
def State.outTdp (s : State) (o : Out) : Word :=
  let x := s.slot o.core o.slot
  if x.tid = o.tid then x.tdp else 0

/-- A thread's access is held by a translation fault: the thread parks and a Park record goes to slot 15 (R387). -/
def State.outFault (s : State) (o : Out) (cause off : Nat) : State :=
  ((s.parkHeld o).parkRecord o.core (some o.lea) o.slot .thread o.ilen cause o.pc (BitVec.ofNat 64 off) (s.outTdp o)).logFault o.lea
    cause off

/-! ## Where bytes lie (R208, R383) -/

/-- Where a byte of a unit's transfer lies: its flat or host address, or a held translation. -/
inductive Place where
  | at (a : Nat)
  | fault (cause : Nat)
  | page (frame : Nat)
  deriving DecidableEq, Repr

/-- The place of an address of a space for a unit of a core that acts for a slot of a lea (R386). -/
def State.placeOf (s : State) (core slot lea space die a : Nat) (need : List Right) : Place :=
  if space = 4 then
    match s.lookUp core lea die a need with
    | .ok e => .at (e.host a)
    | .fault c => .fault c
    | .page f => .page f
  else
    match s.flat core slot (some lea) space a with
    | some x => .at x
    | none => .fault 0x33

/-- A range of virtual bytes cut at pages of 64 KiB. -/
def pageChunks (a n : Nat) : Nat → List (Nat × Nat)
  | 0 => []
  | k + 1 => if n = 0 then [] else
      let m := min n (65536 - a % 65536)
      (a, m) :: pageChunks (a + m) (n - m) k

/-- The homes of n bytes of a space for a lea's thread of a core: ranges of one numbering each. Bytes behind translation are
numbered by their host addresses, or by their virtual ones while no translation gives them; so two names of one frame meet
(R208, R383). -/
def State.homes (s : State) (core lea space die a n : Nat) : List (Nat × Nat × Nat) :=
  if space = 4 ∨ space = 5 ∨ space = 7 then
    (pageChunks a n (n / 65536 + 2)).map (fun (v, m) => match s.lookUp core lea die v [] with
      | .ok e => (0, e.host v, m)
      | _ => (1 + die, v, m))
  else [(16 + space, a, n)]

/-- Whether two lists of ranges share a byte. -/
def homesMeet (l m : List (Nat × Nat × Nat)) : Bool :=
  l.any (fun x => m.any (fun y => x.1 == y.1 && decide (0 < x.2.2 ∧ 0 < y.2.2 ∧ x.2.1 < y.2.1 + y.2.2 ∧ y.2.1 < x.2.1 + x.2.2)))

/-- The doubleword that an event of an item touches, by its home (R208). -/
def State.homeWord (s : State) (o : Out) (space die : Nat) (p : Part) : List (Nat × Nat × Nat) :=
  match p.pa with
  | some a => if space = 4 ∨ space = 5 then [(0, dwordOf a, 8)] else [(16 + space, dwordOf p.addr, 8)]
  | none => s.homes o.core o.lea space die (dwordOf p.addr) 8

end Sys2Proof.Machine
end

