-- ==== Sys2Proof/Machine/Buffers.lean ====
section
/-! DEFINITION. The named buffers of collectives (R279, R280): the context of a core, its membership records (R276), where its
buffers lie, and what a participant's write to one leaves (R220). -/

namespace Sys2Proof.Machine

/-! ## Contexts and records (R271, R276) -/

/-- The context of a core (R271). -/
def State.dor (s : State) (c : Nat) : Dorent := (s.core c).dorent

/-- A core's context changed. -/
def State.modDor (s : State) (c : Nat) (f : Dorent → Dorent) : State := s.modCore c (fun x => { x with dorent := f x.dorent })

/-- The membership record of a group in a context (R276). -/
def Dorent.record (d : Dorent) (gid : Nat) : Option DMember := d.recs.find? (fun r => r.gid == gid)

/-- The membership record of a context's run (R276). -/
def Dorent.mine (d : Dorent) : Option DMember := d.record d.gid

/-- The running context of a core in a run of a lea's group. -/
def State.running (s : State) (core lea gid : Nat) : Option (Dorent × DMember) :=
  let d := s.dor core
  if (s.core core).lea = some lea ∧ d.state = .running ∧ d.gid = gid then d.mine.map (fun r => (d, r)) else none

/-- The context of a lea on a core: the live one where the lea holds the pool, and otherwise the saved one (R302, R382). -/
def State.dorOf (s : State) (core lea : Nat) : Dorent :=
  let c := s.core core
  if c.lea = some lea then c.dorent else ((keyFind c.saves lea).bind (fun a => a.pool)).elim Dorent.reset (fun p => p.dorent)

/-- The participants of a lea's group: the cores whose contexts run, with their records. -/
def State.groupCores (s : State) (lea gid : Nat) : List (Nat × Dorent × DMember) :=
  match s.lea lea with
  | some l => l.cores.filterMap (fun c => (s.running c lea gid).map (fun p => (c, p.1, p.2)))
  | none => []

/-! ## Where a buffer lies (R386) -/

/-- The place of byte `a` of a buffer's space for the context of a core (R386). -/
def State.bufPlace (s : State) (core : Nat) (b : DBuf) (a : Nat) (need : List Right) : Place :=
  s.placeOf core 0 ((s.core core).lea.getD 0) b.space b.die (b.base + a) need

/-- Undefined bytes left in n bytes of a buffer, where they can be written (R7, R220, R275, R281; log 7). -/
def State.bufFree (s : State) (core : Nat) (b : DBuf) (o n : Nat) : State :=
  (List.range n).foldl (fun s i => match s.bufPlace core b (o + i) [.w] with
    | .at x => { s with mem := s.mem.write x 1 (s.undef (s.core core).lea s.free).toNat, free := s.free + 1 }
    | _ => s) s

/-- A range of commons cut at its banks. -/
def bankChunks (a n : Nat) : Nat → List (Nat × Nat)
  | 0 => []
  | k + 1 => if n = 0 then [] else
      let m := min n (bankBytes - a % bankBytes)
      (a, m) :: bankChunks (a + m) (n - m) k

/-- The flat ranges of a named buffer, where translation gives them. -/
def State.bufFlats (s : State) (core lea : Nat) (b : DBuf) : List (Nat × Nat) :=
  match b.space with
  | 4 => (pageChunks b.base b.len (b.len / 65536 + 2)).filterMap (fun (v, m) => match s.lookUp core lea b.die v [] with
      | .ok e => some (e.host v, m)
      | _ => none)
  | 3 => (bankChunks b.base b.len (b.len / bankBytes + 2)).filterMap (fun (v, m) => (s.flat core 0 (some lea) 3 v).map (fun x => (x, m)))
  | _ => [(lsAddr core (0x80000 + b.base), b.len)]

/-! ## A participant's write to a named buffer (R220) -/

/-- The named buffers of a context that hold a byte of a flat range, by number. -/
def State.bufsAt (s : State) (core lea : Nat) (d : Dorent) (a n : Nat) : List Nat :=
  (List.range 8).filter (fun j => (d.bufs.getD j none).any (fun b =>
    (s.bufFlats core lea b).any (fun r => decide (a < r.1 + r.2 ∧ r.1 < a + n))))

/-- Named buffers of a core's context undefined from now until it completes (R7, R220). -/
def State.spoilAt (s : State) (core : Nat) (js : List Nat) : State :=
  js.foldl (fun s j => match (s.dor core).bufs.getD j none with
    | some b => (s.modDor core (fun d => { d with spoiled := natIns d.spoiled j })).bufFree core b 0 b.len
    | none => s) s

/-- A thread of a core of a lea wrote a flat range: where the core's context runs and the range meets a buffer that its
collective names, the buffer of that number is undefined at every participant (R220; log 83). -/
def State.spoil (s : State) (core lea a n : Nat) : State :=
  let d := s.dor core
  if (s.core core).lea ≠ some lea ∨ d.state ≠ .running then s
  else
    let ps := s.groupCores lea d.gid
    let js := (ps.flatMap (fun p => s.bufsAt p.1 lea p.2.1 a n)).dedup
    if js.isEmpty then s else ps.foldl (fun s p => s.spoilAt p.1 js) s

/-- Whether a buffer of a core's context is undefined (R220). -/
def Dorent.isSpoiled (d : Dorent) (b : DBuf) : Bool := d.spoiled.any (fun j => d.bufs.getD j none == some b)

end Sys2Proof.Machine
end

