-- ==== Sys2Proof/Machine/Ops.lean ====
section
/-! DEFINITION. The named operations over memory and registers: what an event does at its home, waits and wakes, a thread's
registers and their order, issue, parking, and taking a trap and returning from one. -/

namespace Sys2Proof.Machine

/-! ## Wakes (R25, R346) -/

/-- Whether the registers of a slot's thread lie in a shared pool that its lea does not hold: `lea` holds it (R381). -/
def Slot.away (x : Slot) (lea : Option Nat) : Bool := (x.desc.seg 0).space == 2 && x.lea != lea

/-- A slot that reads an empty word, woken where the word is full (R25). -/
def Slot.wakeWord (m : Memory) (x : Slot) : Slot :=
  match x.wait with
  | .word a => if m.isFull a then x.wake else x
  | _ => x

/-- The set of masked words that are full (R346). -/
def fullMask (m : Memory) (regs : List (Nat × Nat)) : Nat :=
  (regs.map (fun p => if m.isFull p.2 then 2 ^ p.1 else 0)).sum

/-- Whether a wait on masked words has ended (R346). -/
def masksMet (m : Memory) (regs : List (Nat × Nat)) (any : Bool) : Bool :=
  if any then regs.isEmpty || regs.any (fun p => m.isFull p.2) else regs.all (fun p => m.isFull p.2)

/-- What a WAITF that ends now writes: its destination and value (R346). -/
def Slot.waitfDone (m : Memory) (x : Slot) : Option (Nat × PWord) :=
  match x.wait with
  | .words regs any dst bad =>
    if x.waiting ∧ masksMet m regs any then some (dst, ⟨BitVec.ofNat 64 (fullMask m regs), bad⟩) else none
  | _ => none

/-- The core whose local store holds an address, with the threads woken that read the word (R25). -/
def State.wakeReaders (s : State) (a : Nat) : State :=
  match lsCoreOf a with
  | some c => s.modCore c (fun x => { x with slots := x.slots.map (Slot.wakeWord s.mem) })
  | none => s

/-- The first slot of the core of a word whose WAITF ends now: core, slot, destination and value. -/
def State.firstWaitf (s : State) (a : Nat) : Option (Nat × Nat × Nat × PWord) :=
  match lsCoreOf a with
  | some c => (List.range 16).findSome? (fun k =>
      if (s.slot c k).away (s.core c).lea then none else ((s.slot c k).waitfDone s.mem).map (fun p => (c, k, p.1, p.2)))
  | none => none

/-! ## What an event does at its home (R26, R230, R235, R241) -/

/-- The flat address of an offset of a slot's workspace segment (R21: slot slice, or shared pool). -/
def workFlat (core slot : Nat) (g : Seg) (off : Nat) : Nat :=
  if g.space = 2 then lsAddr core (0x80000 + (g.base.toNat + off))
  else lsAddr core (0x8000 * slot + (g.base.toNat + off))

/-- Whether a doubleword is a register word of a slot's resident thread (R22, R230). -/
def Slot.ownsWord (x : Slot) (core k a : Nat) : Bool :=
  x.run != .absent &&
    (let w := workFlat core k (x.desc.seg 0) x.desc.wp.toNat
     let v := workFlat core k (x.desc.seg 0) x.desc.vp.toNat
     decide ((w ≤ a ∧ a < w + 256) ∨ (v ≤ a ∧ a < v + 4224)))

/-- Whether a doubleword is a register word of a resident thread (R230). -/
def State.isRegWord (s : State) (a : Nat) : Bool :=
  match lsCoreOf a with
  | some c => (List.range 16).any (fun k => (s.slot c k).ownsWord c k a)
  | none => false

/-- The value that an atomic leaves where memory holds m: operand v, comparand c (R241). -/
def amoNew (op m v c : Nat) : Nat :=
  let fadd (f : Fmt) : Nat := (fpAdd f false .rne (f.dec true false m) (f.dec true false v)).bits
  match op with
  | 0 => (m + v) % 2 ^ 64
  | 1 => m &&& v
  | 2 => m ||| v
  | 3 => m ^^^ v
  | 4 => if (BitVec.ofNat 64 v).slt (BitVec.ofNat 64 m) then v else m
  | 5 => if (BitVec.ofNat 64 m).slt (BitVec.ofNat 64 v) then v else m
  | 6 => v
  | 7 => if m = c then v else m
  | 8 => fadd fp32
  | _ => fadd fp64

/-- What an event does at the home of its word: the memory after it and what it returns, or none where it must wait (R26,
R230, R235, R241, R422). `reg` says that the doubleword is a register word of a resident thread; `fresh` is the value where
poison leaves the result undefined. -/
def homeOp (m : Memory) (reg : Bool) (fresh : Word) (op : MemOp) (a : Nat) (p : Part) : Option (Memory × PWord) :=
  let w := dwordOf a
  let filled (x : Memory) : Memory := if reg then x.setFe w none else x
  let data : PWord := ⟨BitVec.ofNat 64 p.data, p.dataBad⟩
  let old : Nat := m.read a p.size
  match op with
  | .load _ => some (m, ⟨BitVec.ofNat 64 old, m.isBad a⟩)
  | .store => if m.isPending w then none else some (filled (m.store a p.size p.data p.dataBad), data)
  | .amo f c =>
    if m.isPending w then none
    else if m.isBad a then some (m, ⟨BitVec.ofNat 64 old, true⟩)
    else
      let new := if p.dataBad then fresh.toNat else amoNew f old (p.data % 256 ^ p.size) c.toNat
      some (filled (m.store a p.size new p.dataBad), ⟨BitVec.ofNat 64 old, false⟩)
  | .lde => if m.isFull w then some (m.setFe w (some .empty), m.word w) else none
  | .ldf => if m.isFull w then some (m, m.word w) else none
  | .stf => if m.feOf w = some .empty then some ((m.putWord w data).setFe w none, data) else none
  | .stff => if m.isPending w then none else some ((m.putWord w data).setFe w none, data)
  | .feq => some (m, ⟨if m.isFull w then 1 else 0, false⟩)
  | .feclr => if m.isPending w then none else some (m.setFe w (some .empty), data)

/-- A thread that is Parked on a full/empty operation at its home wakes when the operation completes (R236). -/
def State.wakeHome (s : State) (o : Out) : State :=
  s.modSlot o.core o.slot (fun x => if x.tid = o.tid ∧ x.wait = .home o.id then x.wake else x)

/-- Whether an operation writes its word. -/
def MemOp.writes : MemOp → Bool
  | .load _ => false
  | .lde => false
  | .ldf => false
  | .feq => false
  | _ => true

/-- Whether an operation changes neither its word nor the word's state. -/
def MemOp.readsOnly : MemOp → Bool
  | .load _ => true
  | .feq => true
  | _ => false

/-- Whether a doubleword is still owed a result by an instruction that the thread of an item issued before it (R25, R65). -/
def State.owedBefore (s : State) (o : Out) (w : Nat) : Bool :=
  s.mem.isPending w && s.outs.any (fun e => e.tid == o.tid && decide (e.id < o.id) && e.dst.contains w)

/-- An event of an access performed at its home, if its word lets it (R209, R235): no read of the thread finds a word still owed a result
by an earlier instruction of its own (R65). A named buffer of a collective that it writes is noted (R220). -/
def State.tryPart (s : State) (id i : Nat) : Option State :=
  match s.out id with
  | none => none
  | some o =>
    match o.access with
    | none => none
    | some x =>
      match x.parts[i]? with
      | none => none
      | some p =>
        match p.pa with
        | none => none
        | some a =>
          match if x.op.readsOnly && s.owedBefore o (dwordOf a) then none
            else homeOp s.mem (s.isRegWord (dwordOf a)) (s.undef (some o.lea) s.free) x.op a p with
          | none => none
          | some (m, r) =>
            let s1 : State := { (s.modOut id (fun o => o.modPart i (fun p => { p.done r with since := s.now }))).wakeHome o with
              mem := if x.op.writes then m.noteWriter (some o.tid) (dwordOf a) else m
              free := s.free + 1 }
            some (if x.op.writes then s1.spoil o.core o.lea a p.size else s1)

/-- The arrival number of a waiting event at a word. -/
def Part.waitsAt (p : Part) (w : Nat) : Option Nat :=
  match p.stage, p.pa with
  | .waiting n, some a => if dwordOf a = w then some n else none
  | _, _ => none

/-- The waiting events of a list at a word, numbered from i, with their arrival numbers. -/
def waitingParts (w id : Nat) : Nat → List Part → List (Nat × Nat × Nat)
  | _, [] => []
  | i, p :: t =>
    match p.waitsAt w with
    | some n => (n, id, i) :: waitingParts w id (i + 1) t
    | none => waitingParts w id (i + 1) t

/-- A waiter placed among others in order of arrival. -/
def insWaiter (x : Nat × Nat × Nat) : List (Nat × Nat × Nat) → List (Nat × Nat × Nat)
  | [] => [x]
  | y :: t => if x.1 < y.1 then x :: y :: t else y :: insWaiter x t

/-- The events that wait at a word, in order of arrival (R236). -/
def State.waiters (s : State) (w : Nat) : List (Nat × Nat × Nat) :=
  (s.outs.flatMap (fun o => match o.access with
    | some x => waitingParts w o.id 0 x.parts
    | none => [])).foldl (fun l x => insWaiter x l) []

/-- The first waiter of a list that can complete now does so. -/
def State.retryFirst (s : State) : List (Nat × Nat × Nat) → Option State
  | [] => none
  | (_, id, i) :: t =>
    match s.tryPart id i with
    | some s' => some s'
    | none => s.retryFirst t

/-- After changes of the states of words: their readers wake, WAITFs that end write their destinations, and the waiters of
each word are retried in order of arrival (R25, R236, R346). Every round ends a wait or settles a word. -/
def State.settle : Nat → List Nat → State → State
  | 0, _, s => s
  | _, [], s => s
  | n + 1, w :: ws, s =>
    let s1 := s.wakeReaders w
    match s1.firstWaitf w with
    | some (c, k, d, v) =>
      let s2 := { s1 with mem := ((s1.mem.putWord d v).setExt d none).setFe d none }
      State.settle n (d :: w :: ws) (s2.modSlot c k Slot.wake)
    | none =>
      match s1.retryFirst (s1.waiters w) with
      | some s2 => State.settle n (w :: ws) s2
      | none => State.settle n ws s1

/-- The state after a word's full/empty state changed. -/
def State.touched (s : State) (w : Nat) : State := State.settle (64 + (s.outs.map Out.size).sum) [w] s

/-- A doubleword written as a result is: the value, full, and its waiters woken (R106). -/
def State.fillWord (s : State) (a : Nat) (v : PWord) : State :=
  let m := (s.mem.putWord a v).setExt a none
  if s.mem.isFull a then { s with mem := m } else State.touched { s with mem := m.setFe a none } a

/-- A doubleword written as a deposit is: a result that another party wrote (R206, R337). -/
def State.fillExt (s : State) (a : Nat) (v : PWord) : State :=
  let u := s.fillWord a v
  { u with mem := u.mem.setExt a (some 0) }

/-- A doubleword set empty or pending. -/
def State.markWord (s : State) (a : Nat) (x : FE) : State := { s with mem := s.mem.setFe a (some x) }

/-- Doublewords filled in order. -/
def State.fillWords (s : State) : List (Nat × PWord) → State
  | [] => s
  | (a, v) :: t => (s.fillWord a v).fillWords t

/-- Doublewords marked pending (R26). -/
def State.markPending (s : State) : List Nat → State
  | [] => s
  | a :: t => (s.markWord a .pending).markPending t

/-! ## Registers (R20, R22, R105, R106) -/

/-- The flat address of an sg0 offset of the acting thread. -/
def State.work (s : State) (off : Nat) : Nat := workFlat s.cur.1 s.cur.2 (s.seg 0) off

/-- The address of scalar register k (R20). -/
def State.wAddr (s : State) (k : Nat) : Nat := s.work (s.desc.wp.toNat + 8 * k)

/-- The addresses of the doublewords of vector register k (R20). -/
def State.vAddrs (s : State) (k : Nat) : List Nat :=
  (List.range 32).map (fun i => s.work (s.desc.vp.toNat + 256 * k + 8 * i))

/-- The addresses of the doublewords of mask register k (R20). -/
def State.mAddrs (s : State) (k : Nat) : List Nat :=
  (List.range 2).map (fun i => s.work (s.desc.vp.toNat + 4096 + 16 * k + 8 * i))

/-- A scalar register's word, with its poison. -/
def State.w (s : State) (k : Nat) : PWord := s.mem.word (s.wAddr k)

/-- The n-byte number that doublewords at addresses make, the first least significant. -/
def State.wide (s : State) : List Nat → Nat
  | [] => 0
  | a :: t => s.mem.read a 8 + 2 ^ 64 * s.wide t

/-- Whether any doubleword at the addresses is poisoned. -/
def State.anyBad (s : State) (l : List Nat) : Bool := l.any s.mem.isBad

/-- Whether a range of sg0 offsets lies within a workspace segment and its space (R21). -/
def windowOk (g : Seg) (off size : Nat) : Bool :=
  (g.space == 1 || g.space == 2) && g.has .r && g.has .w && decide (off + size ≤ g.limit.toNat) &&
    decide (g.base.toNat + off + size ≤ extentOf none 0 g.space)

/-- The window check of R21 for a WP under a segment. -/
def wpOk (g : Seg) (wp : Nat) : Bool := wp % 8 == 0 && windowOk g wp 256

/-- The vector-block check of R21 for a VP under a segment. -/
def vpOk (g : Seg) (vp : Nat) : Bool := vp % 256 == 0 && windowOk g vp 4224

/-! ## Issue, park, forfeit (R16, R19, R62, R335, R438) -/

/-- The thread becomes Parked on what it awaits, with nothing else changed (R19). -/
def State.park (s : State) (w : Wait) : State := s.modMe (fun x => { x with run := .parked, wait := w })

/-- The thread is Forfeiting for this turn, with nothing else changed (R62). -/
def State.forfeit (s : State) : State := s.modMe (fun x => { x with run := .forfeiting })

/-- The gangs that have a thread in a slot, marked as excluded from this tide's watchdog count (R328). -/
def State.excludeOn (s : State) (core slot : Nat) : State :=
  { s with gangs := s.gangs.map (fun g => if g.members.any (fun m => m.core == core && m.slot == slot) then { g with excluded := true } else g) }

/-- The thread is Forfeiting because an injection queue is full (R322, R328). -/
def State.forfeitFull (s : State) : State := s.forfeit.excludeOn s.cur.1 s.cur.2

/-- One instruction of the thread issued (R62, R314). -/
def Slot.didIssue (x : Slot) (cycle : Nat) : Slot :=
  { x with run := .ready, wait := .none, issued := x.issued + 1, lastIssue := cycle, fresh := false, launch := none }

/-- The instruction issues, with its next PC. -/
def State.issueTo (s : State) (pc : Word) : State :=
  s.modMe (fun x => { (x.didIssue (s.cycle s.cur.1)) with desc := { x.desc with pc := pc } })

/-- The instruction issues and PC advances past its n bytes. -/
def State.issue (s : State) (n : Nat) : State := s.issueTo (s.pc + BitVec.ofNat 64 n)

/-- The thread's outstanding work. -/
def State.myOuts (s : State) : List Out := s.outs.filter (fun o => o.tid == s.me.tid)

/-- Whether every window of R62 has room: fewer instructions issued since each than its lookahead. -/
def State.windowsOpen (s : State) : Bool :=
  s.myOuts.all (fun o => !o.windowed || decide (s.me.issued - o.born < o.look))

/-- The first source word that is not full (R105). -/
def State.firstNotFull (s : State) : List Nat → Option (Nat × FE)
  | [] => none
  | a :: t => match s.mem.feOf a with
    | some x => some (a, x)
    | none => s.firstNotFull t

/-- Whether the registers of the acting thread lie in a shared pool that its lea does not hold (R381). -/
def State.regsAway (s : State) : Bool := s.me.away s.myCore.lea

/-- Whether an item of outstanding work holds back a plain read of its thread: a plain access, an acquire, or anything from before
the thread left its slot, not yet performed (R207, R209, R222). -/
def Out.heldRead (o : Out) : Bool :=
  match o.work with
  | .access x => ((x.relaxed.isNone && !x.remote) || x.acq || o.left.isSome) && x.parts.any (fun p => p.stage != .performed)
  | .port => o.left.isSome
  | .rsem => o.left.isSome
  | _ => false

/-- Whether an item of outstanding work has an event at a word of local store still to come (R208). -/
def State.eventAt (s : State) (o : Out) (a : Nat) : Bool :=
  match o.work with
  | .access x => x.parts.any (fun p => p.stage != .performed && p.pa.any (fun b => dwordOf b == dwordOf a))
  | .port => match (s.core o.core).bay.portRange o.id with
    | some (space, _, b, left) => (s.flat o.core o.slot (some o.lea) space b).any (fun x =>
        left.any (fun k => decide (dwordOf a < x + k.1 + k.2 ∧ x + k.1 < dwordOf a + 8)))
    | none => false
  | _ => false

/-- Whether the read of a source is a plain read that earlier events of the thread hold back: of a word last written by another
party (R206-R208, R222). -/
def State.readsWait (s : State) (srcs : List Nat) : Bool :=
  srcs.any (fun a => s.mem.isExt s.me.tid a && s.myOuts.any (fun o => o.heldRead || s.eventAt o a))

/-- Whether an earlier instruction with a lookahead has still to read or change a destination word through a segment: the word is
written after it, whatever its lookahead (R65). -/
def State.writesWait (s : State) (dsts : List Nat) : Bool :=
  dsts.any (fun a => s.myOuts.any (fun o => o.windowed && s.eventAt o a))

/-- The instruction's sources read under R105, and its pending destinations under R26 and R62: an empty source parks the thread, a
pending source or destination makes it forfeit, and otherwise the rest of the instruction runs. Registers in a shared pool are
reached only while the thread's lea holds it (R381), a word that another party wrote is read in the order of a plain access (R206),
and a word that an earlier access of the thread still names is written after it (R65). Where several sources are not full, the first
in the order of the operands a, b and d holds the thread (log 77). -/
def State.withOperands (s : State) (srcs dsts : List Nat) (k : State → State) : State :=
  if s.regsAway && !(srcs ++ dsts).isEmpty then s.park .pool
  else match s.firstNotFull srcs with
    | some (a, .empty) => s.park (.word a)
    | some (_, .pending) => s.forfeit
    | none => if dsts.any s.mem.isPending || s.readsWait srcs || s.writesWait dsts then s.forfeit else k s

/-! ## Traps (R400, R401, R403) -/

/-- A slot's thread takes a trap: it is Halted with PC unchanged, TCAUSE, TPC and TVAL are set, and a record awaits its
place, once what comes before number `upto` is complete; a fault of slot 15 makes no record (R400, R403). -/
def Slot.trap (x : Slot) (time : Word) (upto k : Nat) (cause : BitVec 8) (tval : Word) (ilen : Nat) : Slot :=
  let w0 := recW0 time k .thread 0 ilen cause
  { x with
    run := .halted
    wait := .none
    launch := none
    desc := { x.desc with tcause := w0 &&& 0xFFFF#64, tpc := x.desc.pc, tval := tval }
    record := if k = 15 then x.record else x.record ++ [(x.tid, upto, ⟨w0, x.desc.pc, tval, x.tdp, k⟩)] }

/-- Taking an exception: a thread in a slot traps (R400); a fault of slot 15 goes to Headland (R403). -/
def State.trapSlot (s : State) (c k : Nat) (cause : BitVec 8) (tval : Word) (ilen : Nat) : State :=
  let t := s.guestTime (s.slot c k).lea
  let s1 := s.modSlot c k (fun x => x.trap t s.nextId k cause tval ilen)
  if k = 15 then s1.modCore c (fun x => x.setFault15 (s.slot c k).lea cause.toNat) else s1

/-- Taking an exception: the acting thread's instruction of n bytes traps (R400). -/
def State.raise (s : State) (n : Nat) (cause : BitVec 8) (tval : Word) : State :=
  s.trapSlot s.cur.1 s.cur.2 cause tval (n / 2)

/-- Return from an exception: a Halted thread restarts at a PC with a PRIV, TCAUSE, TPC and TVAL as they were (R412). -/
def Slot.restart (x : Slot) (pc : Word) (priv : Bool) : Slot :=
  { x with
    run := x.hold.run
    wait := .none
    fresh := true
    desc := { x.desc with pc := pc, stat := (x.desc.stat &&& 0x1FF#64) ||| (if priv then 0x200#64 else 0) } }

/-! ## Outstanding work (R61, R231) -/

/-- A new item of outstanding work of the acting thread, in the state before its instruction issues: the instruction will
be the thread's next issue (R62). -/
def State.newOut (s : State) (n : Nat) (windowed : Bool) (look : Nat) (dst : List Nat) (w : Work) : Out :=
  { id := s.nextId, tid := s.me.tid, core := s.cur.1, slot := s.cur.2, lea := s.me.lea.getD 0, pc := s.pc, ilen := n / 2,
    windowed := windowed, look := look, born := s.me.issued + 1, dst := dst, old := dst.map s.mem.word, work := w, left := none }

/-- The state with an item of outstanding work added. -/
def State.addOut (s : State) (o : Out) : State := { s with outs := s.outs ++ [o], nextId := s.nextId + 1 }

/-- The gangs of a lea that have a thread in a slot, marked as having seen work in this tide (R328). -/
def State.workBy (s : State) (core slot lea : Nat) : State :=
  { s with gangs := s.gangs.map (fun g =>
      if g.lea = lea ∧ g.members.any (fun m => m.core == core && m.slot == slot) then { g with worked := true } else g) }

/-- The state without an item of outstanding work. -/
def State.removeOut (s : State) (id : Nat) : State := { s with outs := s.outs.filter (fun o => o.id != id) }

/-- An item of outstanding work is complete, which its gang's watchdog sees (R328). -/
def State.dropOut (s : State) (id : Nat) : State :=
  match s.out id with
  | some o => (s.removeOut id).workBy o.core o.slot o.lea
  | none => s

/-- Flags ORed into the STAT of a slot's thread (R32, R95). -/
def Desc.orFlags (d : Desc) (f : Flags) : Desc := { d with stat := d.stat ||| ((f.setWidth 64) <<< 4) }

end Sys2Proof.Machine
end

