-- ==== Sys2Proof/Machine/Flags.lean ====
section
/-! DEFINITION. The fields of STAT, the rounding mode of an instruction, and the sticky flags that instructions raise (R32,
R88, R95, R133). -/

namespace Sys2Proof.Machine

/-- The rounding mode of a code of STAT.RM (R32). -/
def Rm.ofRM (b : BitVec 2) : Rm :=
  match b.toNat with
  | 0 => .rne
  | 1 => .rtz
  | 2 => .rup
  | _ => .rdn

/-- STAT.RM of the acting thread. -/
def State.rm (s : State) : Rm := Rm.ofRM (s.desc.stat.extractLsb' 0 2)

/-- The mode that a rounding code selects (R133). -/
def State.roundMode (s : State) (r : BitVec 3) : Rm := if r = 0 then s.rm else Rm.ofRM (r.extractLsb' 0 2)

/-- The sticky flags of the acting thread's STAT, as R95 orders them. -/
def State.flags (s : State) : Flags := s.desc.stat.extractLsb' 4 5

/-- Flags raised in the acting thread's STAT (R95). -/
def State.raiseFlags (s : State) (f : Flags) : State := s.modDesc (fun d => d.orFlags f)

/-- Flags raised in the STAT of the thread a number names, if it is resident in a slot (R136, R146). -/
def State.raiseFlagsOf (s : State) (core slot tid : Nat) (f : Flags) : State :=
  s.modSlot core slot (fun x => if x.tid = tid then { x with desc := x.desc.orFlags f } else x)

/-- STAT after a write of its RW fields: PRIV as it was, reserved bits zero (R32, R408). -/
def statWritten (old new : Word) : Word := (old &&& 0x200#64) ||| (new &&& 0x1FF#64)

/-- A descriptor's STAT as a load takes it: every field, reserved bits zero (R6, R32). -/
def statLoaded (w : Word) : Word := w &&& 0x3FF#64

/-- A scalar FP operand of a width: FP32 in the low half, or FP64 (R132). -/
def widthFmt (x : BitVec 1) : Fmt := if x = 0 then fp32 else fp64

/-- The number a width reads from a word (R132). -/
def widthBits (x : BitVec 1) (w : Word) : Nat := if x = 0 then w.toNat % 2 ^ 32 else w.toNat

/-- The value of a word's operand in a width, read under STAT.FZ (R92, R132). -/
def State.fpIn (s : State) (x : BitVec 1) (w : Word) : Val := (widthFmt x).dec true s.fz (widthBits x w)

/-- Whether an operand or a result of a format is subnormal with FZ clear: what costs the normaliser (R94). -/
def State.slowNum (s : State) (f : Fmt) (bits : Nat) : Bool := !s.fz && f.isSub bits

/-- The two own turns that the normaliser takes from the thread, Forfeiting meanwhile (R19, R94). -/
def State.owe (s : State) (slow : Bool) : State := if slow then s.modMe (fun x => x.holdFor (.owed 2)) else s

end Sys2Proof.Machine
end

