-- ==== Sys2Proof/Machine/Operands.lean ====
section
/-! DEFINITION. The operand forms that instructions share: reading source registers, writing a destination register, and
queueing a result that fills its destination later (R105-R107, R112, R422). Each form takes the instruction's length in
bytes. -/

namespace Sys2Proof.Machine

/-- The destination register written with a value, poisoned where a source was, and the instruction issued (R106, R422). -/
def State.setW (s : State) (n d : Nat) (bad : Bool) (v : Word) : State :=
  if bad then
    let (p, s1) := s.takePoison
    (s1.fillWord (s.wAddr d) p).issue n
  else (s.fillWord (s.wAddr d) ⟨v, false⟩).issue n

/-- A result from no register. -/
def State.alu0 (s : State) (n d : Nat) (v : Word) : State :=
  s.withOperands [] [s.wAddr d] (fun s => s.setW n d false v)

/-- A result from one register. -/
def State.alu1 (s : State) (n a d : Nat) (f : Word → Word) : State :=
  s.withOperands [s.wAddr a] [s.wAddr d] (fun s => s.setW n d (s.w a).bad (f (s.w a).val))

/-- A result from two registers. -/
def State.alu2 (s : State) (n a b d : Nat) (f : Word → Word → Word) : State :=
  s.withOperands [s.wAddr a, s.wAddr b] [s.wAddr d] (fun s =>
    s.setW n d ((s.w a).bad || (s.w b).bad) (f (s.w a).val (s.w b).val))

/-- A result from three registers. -/
def State.alu3 (s : State) (n a b c d : Nat) (f : Word → Word → Word → Word) : State :=
  s.withOperands [s.wAddr a, s.wAddr b, s.wAddr c] [s.wAddr d] (fun s =>
    s.setW n d ((s.w a).bad || (s.w b).bad || (s.w c).bad) (f (s.w a).val (s.w b).val (s.w c).val))

/-- A long-latency result from two registers, due a number of core cycles after issue, with its flags (R61, R112, R136).
A poisoned source gives a poisoned result that raises no flag (R422). -/
def State.slow2 (s : State) (n a b d : Nat) (look : BitVec 4) (lat : Nat) (f : State → Word → Word → Word × Option Flags × Bool) :
    State :=
  s.withOperands [s.wAddr a, s.wAddr b] [s.wAddr d] (fun s =>
    let due := s.cycle s.cur.1 + lat
    if (s.w a).bad || (s.w b).bad then
      let (p, s1) := s.takePoison
      let o := s1.newOut n true look.toNat [s1.wAddr d] (.compute [p] ((f s (s.w a).val (s.w b).val).2.1.map (fun _ => Flags.none)) due)
      ((s1.addOut o).markWord (s1.wAddr d) .pending).issue n
    else
      let (v, fl, slow) := f s (s.w a).val (s.w b).val
      let o := s.newOut n true look.toNat [s.wAddr d] (.compute [⟨v, false⟩] fl due)
      (((s.addOut o).markWord (s.wAddr d) .pending).issue n).owe slow)

/-- A scalar FP result: its word, its flags, and whether the normaliser was needed. -/
structure FpOut where
  val : Word
  flags : Flags
  slow : Bool
  deriving DecidableEq, Repr

/-- A scalar FP result written at once, its flags raised and the normaliser's cost paid (R94, R95, R107). -/
def State.fpDone (s : State) (n d : Nat) (bad : Bool) (r : FpOut) : State :=
  if bad then s.setW n d true 0 else ((s.setW n d false r.val).raiseFlags r.flags).owe r.slow

/-- A scalar FP result from one register. -/
def State.fp1 (s : State) (n a d : Nat) (f : State → Word → FpOut) : State :=
  s.withOperands [s.wAddr a] [s.wAddr d] (fun s => s.fpDone n d (s.w a).bad (f s (s.w a).val))

/-- A scalar FP result from two registers. -/
def State.fp2 (s : State) (n a b d : Nat) (f : State → Word → Word → FpOut) : State :=
  s.withOperands [s.wAddr a, s.wAddr b] [s.wAddr d] (fun s =>
    s.fpDone n d ((s.w a).bad || (s.w b).bad) (f s (s.w a).val (s.w b).val))

/-- A scalar FP result from two registers and the destination. -/
def State.fp3 (s : State) (n a b d : Nat) (f : State → Word → Word → Word → FpOut) : State :=
  s.withOperands [s.wAddr a, s.wAddr b, s.wAddr d] [s.wAddr d] (fun s =>
    s.fpDone n d ((s.w a).bad || (s.w b).bad || (s.w d).bad) (f s (s.w a).val (s.w b).val (s.w d).val))

/-- The rest of an instruction after the check that a register is clean: poison that would be consumed traps, with the
register number (R404, R423). -/
def State.needClean (s : State) (n : Nat) (cause : BitVec 8) (k : Nat) (f : State → State) : State :=
  if (s.w k).bad then s.raise n cause (BitVec.ofNat 64 k) else f s

/-- The same for several registers, the first poisoned one named. -/
def State.needCleans (s : State) (n : Nat) (cause : BitVec 8) : List Nat → (State → State) → State
  | [], f => f s
  | k :: t, f => s.needClean n cause k (fun s => s.needCleans n cause t f)

/-- An integer as a doubleword, modulo 2^64. -/
def wordOfInt (i : Int) : Word := BitVec.ofInt 64 i

end Sys2Proof.Machine
end

