-- ==== Sys2Proof/Machine/Fetch.lean ====
section
/-! DEFINITION. The instruction cache: what fetch and LDL read, and a miss (R47, R69, R437). -/

namespace Sys2Proof.Machine

/-- A line of a core's instruction cache that a thread of a lea may read: it shows what the writes show that the thread sees (R69, R437;
log 10). -/
def State.codeLine (s : State) (core lea view n : Nat) : Option ILine :=
  (s.core core).icache.find? (fun x => x.line == n && x.lea == lea && !s.mem.changed x.host 64 (min view x.view) (max view x.view))

/-- A byte of code space with its poison, where its line is cached for the acting thread. -/
def State.codeByte (s : State) (va : Nat) : Option (Byte × Bool) :=
  (s.codeLine s.cur.1 (s.me.lea.getD 0) s.me.view (va / 64)).map (fun x => (x.bytes.getD (va % 64) 0, x.bad.contains (va % 64 / 8)))

/-- n bytes of code space as a little-endian number with their poison; or the first line that is missing. -/
def State.codeRead (s : State) (va : Nat) : Nat → Except Nat (Nat × Bool)
  | 0 => .ok (0, false)
  | n + 1 =>
    match s.codeByte va with
    | none => .error (va / 64)
    | some (b, p) =>
      match s.codeRead (va + 1) n with
      | .error l => .error l
      | .ok (v, q) => .ok (b.toNat + 256 * v, p || q)

/-- A miss on a line: the thread is Forfeiting until the line is filled; the fill is asked for once, in the order in which
misses arise (R437). `known` is the ILEN of a record that the fill may bring (R401). -/
def State.missLine (s : State) (l known : Nat) : State :=
  let s1 := s.forfeit
  if s.myCore.fills.any (fun f => f.line == l && some f.lea == s.me.lea) then s1
  else s1.modMyCore (fun c => { c with fills := c.fills ++ [⟨l, s.cur.2, s.me.tid, s.me.lea.getD 0, known, s.me.view, s.now, none⟩] })

/-- A halfword at an sg7 offset, as fetch finds it (R47): beyond the segment, not cached, or read. -/
inductive HalfIn where
  | beyond (cause : BitVec 8)
  | miss (line : Nat)
  | half (h : BitVec 16) (bad : Bool)
  deriving DecidableEq, Repr

/-- The halfword at an sg7 offset of the acting thread (R39, R47, R437). -/
def State.fetchHalf (s : State) (off : Nat) : HalfIn :=
  let g := s.seg 7
  match segFail g (s.extent g.space) off 2 [.x] [7] with
  | some c => .beyond c
  | none =>
    match s.codeRead (g.base.toNat + off) 2 with
    | .error l => .miss l
    | .ok (v, bad) => .half (BitVec.ofNat 16 v) bad

end Sys2Proof.Machine
end

