-- ==== Sys2Proof/Machine/Access.lean ====
section
/-! DEFINITION. Accesses to memory: the issue of an access (R228-R231), its events and their order (R207-R212), its result,
and the message window (R343). -/

namespace Sys2Proof.Machine

/-! ## What is outstanding (R231) -/

/-- Whether an operation returns nothing to the thread: it is outstanding until acknowledged (R231). -/
def MemOp.isStore : MemOp → Bool
  | .store | .stf | .stff | .feclr => true
  | _ => false

/-- Whether an operation reads memory for the thread (R207). -/
def MemOp.isRead (o : MemOp) : Bool := !o.isStore

/-- Whether every event of an access has been performed. -/
def Access.allDone (x : Access) : Bool := x.parts.all (fun p => p.stage == .performed)

/-- Whether an access still counts under R231. -/
def Access.counts (x : Access) : Bool := x.op.isStore || !x.allDone

/-- The kinds of R231. -/
inductive Kind where
  | plain | relaxed | remote | bank
  deriving DecidableEq, Repr

/-- The kind under which an item counts (R209, R210, R231); port transfers are relaxed. -/
def Out.kind (o : Out) : Option Kind :=
  match o.work with
  | .access x => if x.remote then some .remote else if x.counts then some (if x.relaxed.isNone then .plain else .relaxed) else none
  | .port => some .relaxed
  | .rsem => some .remote
  | .bank _ => some .bank
  | _ => none

/-- The limits of R231. -/
def Kind.limit : Kind → Nat
  | .plain => 1
  | .relaxed => 8
  | .remote => 16
  | .bank => 32

/-- How many of a kind the acting thread has outstanding. -/
def State.count (s : State) (k : Kind) : Nat := (s.myOuts.filter (fun o => o.kind == some k)).length

/-- The rest of an access where its thread may have one more of its kind; else the thread forfeits (R231, R438). -/
def State.withLimit (s : State) (k : Kind) (f : State → State) : State := if s.count k < k.limit then f s else s.forfeit

/-- The events of an item that wait in its core's request queues. -/
def Out.queuedFlits (o : Out) : Nat :=
  match o.work with
  | .access x => if x.space = 3 ∨ x.space = 4 ∨ x.space = 5 then (x.parts.filter (fun p => p.stage == .queued)).length else 0
  | .bank c => if c.inQueue then 0 else 1
  | _ => 0

/-- The flits of a lea that wait in a core's injection queue of a request plane (R321, R322, R369; log 15). -/
def State.requestFlits (s : State) (c : Nat) (lea : Option Nat) (plane : Bool) : Nat :=
  ((s.outs.filter (fun o => o.core == c && some o.lea == lea && Config.requestPlane o.id == plane)).map Out.queuedFlits).sum

/-- The flits of an item that wait before its event i. -/
def Out.queuedBefore (o : Out) (i : Nat) : Nat := o.access.elim 0 (fun x => ((x.parts.take i).filter (fun p => p.stage == .queued)).length)

/-- The flits of its lea that wait before event i of an item in its core's injection queue of a request plane (R322). -/
def State.flitsBefore (s : State) (o : Out) (i : Nat) : Nat :=
  ((s.outs.filter (fun e => e.core == o.core && e.lea == o.lea && Config.requestPlane e.id == Config.requestPlane o.id && decide (e.id < o.id))).map
    Out.queuedFlits).sum + o.queuedBefore i

/-- The rest of an instruction that adds n flits to the injection queue of its request plane, where they find room; of more than the
16 that the queue holds, the others wait behind it (R322; log 15). -/
def State.withFlits (s : State) (space n : Nat) (f : State → State) : State :=
  if (space = 3 ∨ space = 4 ∨ space = 5) ∧ 16 < s.requestFlits s.cur.1 s.me.lea (Config.requestPlane s.nextId) + min n 16 then s.forfeitFull
  else f s

/-- The rest of an instruction that uses the shared pool or a unit of the core, where the thread's lea holds the pool; else
the thread parks until the pool phase ends (R176, R268, R381). -/
def State.withPool (s : State) (f : State → State) : State := if s.myCore.lea = s.me.lea then f s else s.park .pool

/-- The rest of an access to a space: the shared pool and the message window are the pool holder's (R343, R381), and the
injection queue of the request plane that it travels must have room (R322; log 15). -/
def State.withSpace (s : State) (space : Nat) (f : State → State) : State :=
  if space = 2 ∨ space = 6 then s.withPool f
  else if (space = 3 ∨ space = 4 ∨ space = 5) ∧ 16 ≤ s.requestFlits s.cur.1 s.me.lea (Config.requestPlane s.nextId) then s.forfeitFull
  else f s

/-! ## Issue (R39, R228) -/

/-- Whether n bytes at an address of a space overlap destination register words of the acting thread (R228). -/
def State.overlaps (s : State) (space a n : Nat) (dsts : List Nat) : Bool :=
  if space = 1 ∨ space = 2 then
    match s.flat s.cur.1 s.cur.2 s.me.lea space a with
    | some x => dsts.any (fun d => decide (d < x + n ∧ x < d + 8))
    | none => false
  else false

/-- MemIssue (R228): the checks of an access of n bytes at an exact offset, then the rest with the address in the space. -/
def State.memIssue (s : State) (ilen k : Nat) (off : Int) (n align : Nat) (rights : List Right) (ok dsts : List Nat)
    (f : State → Nat → State) : State :=
  let g := s.seg k
  if off < 0 then s.raise ilen 0x21 (wordOfInt off)
  else
    match segFail g (s.extent g.space) off.toNat n rights ok with
    | some c => s.raise ilen c (wordOfInt off)
    | none =>
      let a := g.base.toNat + off.toNat
      if a % align ≠ 0 then s.raise ilen 0x25 (wordOfInt off)
      else if s.overlaps g.space a n dsts then s.raise ilen 0x26 (wordOfInt off)
      else f s a

/-- An event of an access that the acting thread issues through a segment. -/
def State.newPart (s : State) (g : Seg) (a off n : Nat) (data : PWord) (dst : Nat) : Part :=
  { addr := a, pa := s.flat s.cur.1 s.cur.2 s.me.lea g.space a, size := n, off := off, data := data.val.toNat,
    dataBad := data.bad, dst := dst, stage := .queued, res := 0, bad := false, since := 0, after := 0, walked := 0, root := 0 }

/-- An access of the acting thread through a segment. -/
def State.newAccess (s : State) (k off : Nat) (op : MemOp) (parts : List Part) (relaxed : Option Nat) : Access :=
  let g := s.seg k
  { op := op, seg := k, space := g.space, die := if g.space = 5 then g.die else dieOf s.cur.1, off := off, parts := parts,
    relaxed := relaxed, acq := false, rel := false, remote := false, sem := none, nsr := s.nsr, taint := false }

/-- The access issues: its item is outstanding, its destination words pending, and the instruction of n bytes done. -/
def State.startAccess (s : State) (ilen : Nat) (windowed : Bool) (look : Nat) (dst : List Nat) (x : Access) : State :=
  ((s.addOut (s.newOut ilen windowed look dst (.access x))).markPending dst).issue ilen

/-- The kind of an access with or without a prefix (R209, R210). -/
def kindOf (rx : Option (BitVec 3)) : Kind := if rx.isSome then .relaxed else .plain

/-- The scope of a prefix as a number. -/
def scopeOf (rx : Option (BitVec 3)) : Option Nat := rx.map BitVec.toNat

/-- The bytes of an instruction of n bytes with its prefix (R67). -/
def withPrefix (rx : Option (BitVec 3)) (n : Nat) : Nat := if rx.isSome then n + 2 else n

/-! ## Order of a thread's events (R207-R212) -/

/-- Whether two events of a thread's items touch a common doubleword (R208). -/
def State.sameWord (s : State) (e : Out) (y : Access) (q : Part) (o : Out) (x : Access) (p : Part) : Bool :=
  homesMeet (s.homeWord e y.space y.die q) (s.homeWord o x.space x.die p)

/-- Whether two addresses of spaces are on one 64 KiB page of one paged space (R212). -/
def samePage (space die a space' die' b : Nat) : Bool :=
  decide (4 ≤ space) && decide (4 ≤ space') && die == die' && a / 65536 == b / 65536

/-- Whether an event that a fault held at the port still holds a later access of its thread, of number `id`, to its page: one that
was issued before the fault (R212). -/
def Part.holdsPage (q : Part) (y : Access) (id space die a : Nat) : Bool :=
  q.stage != .performed && decide (id < q.after) && samePage y.space y.die q.addr space die a

/-- Whether an earlier access of the thread holds back an event of a later one: an acquire not yet performed, any access
before a release, one issued before the thread left its slot, an event to the same word, or an event held at the port to the
same page (R207, R208, R212, R222). -/
def State.holdsBack (s : State) (e : Out) (y : Access) (o : Out) (x : Access) (p : Part) : Bool :=
  (y.acq && !x.remote && !y.allDone) || (x.rel && !y.remote && !y.allDone) || (e.left.any (fun n => decide (n < o.born)) && !y.allDone)
    || y.parts.any (fun q => (q.stage != .performed && s.sameWord e y q o x p) || q.holdsPage y o.id x.space x.die p.addr)

/-- Whether an earlier port transfer of the thread, or of its lea on the core, still touches some bytes (R189, R208). -/
def State.portTouches (s : State) (e : Out) (l : List (Nat × Nat × Nat)) : Bool :=
  match (s.core e.core).bay.portRange e.id with
  | some (space, die, a, left) => left.any (fun k => homesMeet (s.homes e.core e.lea space die (a + k.1) k.2) l)
  | none => false

/-- Whether a port transfer that a fault stopped holds a later access of its thread, of number `id`, to the page of the faulting
byte (R212). -/
def State.portHoldsPage (s : State) (e : Out) (id space die a : Nat) : Bool :=
  (s.core e.core).bay.port.any (fun j => j.outId == e.id && j.stalled.any (fun k =>
    decide (id < k.2) && samePage j.space j.die (j.addr + k.1) space die a))

/-- Whether an event of an access may go now, after the thread's earlier accesses (R207, R208, R212, R222) and the earlier
events of its own access to the same word (R240). -/
def State.mayGo (s : State) (o : Out) (x : Access) (i : Nat) (p : Part) : Bool :=
  (s.outs.filter (fun e => e.tid == o.tid && decide (e.id < o.id))).all (fun e =>
      match e.work with
      | .access y => !s.holdsBack e y o x p
      | .port => !x.rel && !e.left.any (fun n => decide (n < o.born)) && !s.portTouches e (s.homeWord o x.space x.die p)
          && !s.portHoldsPage e o.id x.space x.die p.addr
      | .rsem => !e.left.any (fun n => decide (n < o.born))
      | _ => true)
    && (x.parts.take i).all (fun q => q.stage == .performed || !s.sameWord o x q o x p)

/-- Whether every earlier access of a thread before a number has been performed; remote ones where asked (R213, R217,
R218). -/
def State.earlierDone (s : State) (tid id : Nat) (remote : Bool) : Bool :=
  (s.outs.filter (fun e => e.tid == tid && decide (e.id < id))).all (fun e =>
    match e.work with
    | .access y => (y.remote && !remote) || (!y.remote && !y.counts)
    | .port => false
    | .rsem => !remote
    | _ => true)

/-- Whether every access of the acting thread has been performed and acknowledged. -/
def State.accessesDone (s : State) (remote : Bool) : Bool := s.earlierDone s.me.tid s.nextId remote

/-! ## Results -/

/-- A doubleword with the bytes that an event read put in (R205, R239). -/
def patchWord (w : PWord) (p : Part) : PWord :=
  if p.size = 8 then ⟨BitVec.ofNat 64 p.res, p.bad⟩
  else
    let k := 8 * (p.dst % 8)
    let m : Word := BitVec.ofNat 64 ((256 ^ p.size - 1) * 2 ^ k)
    ⟨(w.val &&& ~~~m) ||| BitVec.ofNat 64 (p.res % 256 ^ p.size * 2 ^ k), w.bad || p.bad⟩

/-- A doubleword with what the events at it read: where they read the whole of it, nothing of the old word stays, its poison neither
(R239, R422). -/
def patchAll (w : PWord) (ps : List Part) : PWord :=
  ps.foldl patchWord ⟨w.val, w.bad && decide ((ps.map (fun p => p.size)).sum < 8)⟩

/-- The words of a block with what the events read (R239). -/
def patchBlock (ps : List Part) : Nat → List PWord → List PWord
  | _, [] => []
  | i, w :: t => patchAll w (ps.filter (fun p => p.dst / 8 == i)) :: patchBlock ps (i + 1) t

/-- The result of a scalar access: extended to the word (R233, R235, R241). -/
def scalarResult (op : MemOp) (p : Part) : PWord :=
  match op with
  | .load true => ⟨(BitVec.ofNat (8 * p.size) p.res).signExtend 64, p.bad⟩
  | _ => ⟨BitVec.ofNat 64 p.res, p.bad⟩

/-- The words that an access gives its destinations. -/
def Access.results (x : Access) (old : List PWord) : List PWord :=
  match old, x.parts with
  | [], _ => []
  | [_], [p] => [scalarResult x.op p]
  | _, ps => (patchBlock ps 0 old).map (fun w => ⟨w.val, w.bad || x.taint⟩)

/-- Words of a lea whose poisoned members take undefined values, from the k-th on (R7, R422; log 7). -/
def State.freshBad (s : State) (lea : Option Nat) (k : Nat) : List PWord → List PWord
  | [] => []
  | w :: t => (if w.bad then ⟨s.undef lea k, true⟩ else w) :: s.freshBad lea (k + 1) t

/-- An item ends: its destinations are filled, its flags raised, and it is no longer outstanding (R26, R62, R146). -/
def State.fillOut (s : State) (o : Out) (vals : List PWord) (fl : Flags) : State :=
  let s1 := { s with free := s.free + vals.length }
  ((s1.fillWords (o.dst.zip (s.freshBad (some o.lea) s.free vals))).raiseFlagsOf o.core o.slot o.tid fl).dropOut o.id

/-- Whether a slot of a lea is in its save area: vacated by a handover and not restored (R378). -/
def Core.slotSaved (c : Core) (lea slot : Nat) : Bool := c.saves.any (fun p => p.1 == lea && p.2.slots.any (fun q => q.1 == slot))

/-- Whether words of a slot of a lea have been saved and not restored: those of a vacated slot, and those in a shared pool that
the lea does not hold. A result owed to them goes to the save area (R380). -/
def Core.late (c : Core) (core lea slot : Nat) (dst : List Nat) : Bool :=
  c.slotSaved lea slot || (c.lea != some lea && dst.any (fun a => decide (lsAddr core 0x80000 ≤ a)))

/-- Whether an item's result goes to the save area (R380). -/
def State.isLate (s : State) (o : Out) : Bool := (s.core o.core).late o.core o.lea o.slot o.dst

/-! ## The message window (R340, R343, R344) -/

/-- The sender word (R340): core, slot, class and the .R flag. -/
def senderWord (core slot cls : Nat) (r : Bool) : Word :=
  BitVec.ofNat 64 (core + slot * 2 ^ 16 + cls * 2 ^ 24 + (if r then 2 ^ 32 else 0))

/-- The MBXST value of a core (R344). -/
def Core.mbxst (c : Core) : Word :=
  let cls : Nat := match c.handler with
    | some h => h.cls
    | none => 0
  BitVec.ofNat 64 (c.refused.toNat * 2 ^ 32 + cls * 2 ^ 18 + (if c.handler.isSome then 2 ^ 17 else 0)
    + c.trapFile.length * 2 ^ 8 + c.mailbox.length)

/-- A class-table word as it is stored: V and a handler PC with bit 0 clear (R343). -/
def classWord (w : Word) : Word := w &&& 0x8000FFFFFFFFFFFE#64

/-- Class-table entry k as a load reads it; entry 0 is TRAPV (R343). -/
def Core.classEntry (c : Core) (k : Nat) : Word :=
  if k = 0 then c.trapv &&& 0x0000FFFFFFFFFFFF#64 else keyGet 0#64 c.classes k

/-- The doubleword at an offset of the message window; a free value stands in an entry that is not occupied (R343). -/
def Core.windowWord (c : Core) (fresh : Word) (o : Nat) : PWord :=
  let i := o / 8
  if i < 64 then
    match c.mailbox.find? (fun e => e.idx == i / 4) with
    | some e => e.payload.getD (i % 4) ⟨0, false⟩
    | none => ⟨fresh, false⟩
  else if i < 80 then
    match c.mailbox.find? (fun e => e.idx == i - 64) with
    | some e => ⟨e.sender, false⟩
    | none => ⟨fresh, false⟩
  else if i = 80 then ⟨c.mbxst, false⟩
  else if i < 128 then ⟨0, false⟩
  else ⟨c.classEntry (i - 128), false⟩

/-- The bytes of a doubleword that an event of n bytes at an offset reads. -/
def subWord (w : PWord) (o n : Nat) : PWord := ⟨BitVec.ofNat 64 (w.val.toNat / 256 ^ (o % 8) % 256 ^ n), w.bad⟩

/-- A doubleword with n bytes at an offset replaced. -/
def putBytes (w : Word) (o n data : Nat) : Word :=
  let k := 8 * (o % 8)
  let m : Word := BitVec.ofNat 64 ((256 ^ n - 1) * 2 ^ k)
  (w &&& ~~~m) ||| BitVec.ofNat 64 (data % 256 ^ n * 2 ^ k)

/-- A core with a class-table entry written (R343). -/
def Core.setClass (c : Core) (k : Nat) (w : Word) : Core :=
  if k = 0 then { c with trapv := w &&& 0x0000FFFFFFFFFFFE#64 } else { c with classes := keySet c.classes k (classWord w) }

/-- An event of an access to the message window performed (R343); poisoned store data leave an undefined word (log 16). -/
def State.performWindow (s : State) (o : Out) (x : Access) (i : Nat) (p : Part) : State :=
  let c := s.core o.core
  let fresh := s.undef (some o.lea) s.free
  let s1 := { s with free := s.free + 1 }
  if x.op.isStore then
    let k := p.addr / 8 - 128
    let w := if p.dataBad then fresh else putBytes (c.classEntry k) p.addr p.size p.data
    (s1.modCore o.core (fun c => c.setClass k w)).modOut o.id (fun o => o.modPart i (fun p => p.done ⟨0, false⟩))
  else s1.modOut o.id (fun o => o.modPart i (fun p => p.done (subWord (c.windowWord fresh p.addr) p.addr p.size)))

end Sys2Proof.Machine
end

