-- ==== Sys2Proof/Machine/Integer.lean ====
section
/-! DEFINITION. Integer instructions (R109-R118). -/

namespace Sys2Proof.Machine

/-- An outcome that goes on. -/
abbrev Out1 := Host.Outcome State Fault Refusal

/-- 1 or 0. -/
def boolWord (b : Bool) : Word := if b then 1 else 0

/-- Bits [127:64] of the signed product (R111). -/
def mulhWord (x y : Word) : Word := (BitVec.ofInt 128 (x.toInt * y.toInt)).extractLsb' 64 64

/-- Bits [127:64] of the unsigned product (R111). -/
def mulhuWord (x y : Word) : Word := BitVec.ofNat 64 (x.toNat * y.toNat / 2 ^ 64)

/-- The shift amount of a register: bits [5:0] (R111). -/
def amount (y : Word) : Nat := y.toNat % 64

/-- Rotate right (R111). -/
def rorWord (x y : Word) : Word := x.rotateRight (amount y)

/-- DIV (R112). -/
def divWord (x y : Word) : Word :=
  if y = 0 then wordOfInt (-1)
  else if x.toInt = -(2 ^ 63) ∧ y.toInt = -1 then x
  else wordOfInt (Int.tdiv x.toInt y.toInt)

/-- DIVU (R112). -/
def divuWord (x y : Word) : Word := if y = 0 then BitVec.allOnes 64 else BitVec.ofNat 64 (x.toNat / y.toNat)

/-- REM (R112). -/
def remWord (x y : Word) : Word :=
  if y = 0 then x
  else if x.toInt = -(2 ^ 63) ∧ y.toInt = -1 then 0
  else wordOfInt (x.toInt - y.toInt * Int.tdiv x.toInt y.toInt)

/-- REMU (R112). -/
def remuWord (x y : Word) : Word := if y = 0 then x else BitVec.ofNat 64 (x.toNat % y.toNat)

/-- The number of zero bits above the highest set bit (R113). -/
def clzWord (x : Word) : Word := if x = 0 then 64 else BitVec.ofNat 64 (63 - Nat.log2 x.toNat)

/-- The number of zero bits below the lowest set bit: x AND −x is that bit alone (R113). -/
def ctzWord (x : Word) : Word := if x = 0 then 64 else BitVec.ofNat 64 (Nat.log2 (x &&& (-x)).toNat)

/-- The number of set bits among the low n of a number. -/
def popNat : Nat → Nat → Nat
  | 0, _ => 0
  | n + 1, x => x % 2 + popNat n (x / 2)

/-- The number of set bits (R113). -/
def popWord (x : Word) : Word := BitVec.ofNat 64 (popNat 64 x.toNat)

/-- The low n bits of a number, reversed, above an accumulator. -/
def revNat : Nat → Nat → Nat → Nat
  | 0, _, acc => acc
  | n + 1, x, acc => revNat n (x / 2) (2 * acc + x % 2)

/-- Bit reversal (R113). -/
def brevWord (x : Word) : Word := BitVec.ofNat 64 (revNat 64 x.toNat 0)

/-- The low n bytes of a number, reversed, above an accumulator. -/
def swapNat : Nat → Nat → Nat → Nat
  | 0, _, acc => acc
  | n + 1, x, acc => swapNat n (x / 256) (256 * acc + x % 256)

/-- Byte reversal (R113). -/
def bswapWord (x : Word) : Word := BitVec.ofNat 64 (swapNat 8 x.toNat 0)

/-- The position that EXTR and INSB read (R115). -/
def fieldPos (y : Word) : Nat := y.toNat % 64

/-- The length that EXTR and INSB read, cut at bit 63 (R115). -/
def fieldLen (y : Word) : Nat := min (y.toNat / 256 % 128) (64 - fieldPos y)

/-- EXTR (R115). -/
def extrWord (x y : Word) : Word := BitVec.ofNat 64 (x.toNat / 2 ^ fieldPos y % 2 ^ fieldLen y)

/-- INSB into z (R115). -/
def insbWord (x y z : Word) : Word :=
  let mask := BitVec.ofNat 64 ((2 ^ fieldLen y - 1) * 2 ^ fieldPos y)
  (z &&& ~~~mask) ||| ((x <<< fieldPos y) &&& mask)

/-- A condition code of CMPI (R58, R116). -/
def condHolds (c : BitVec 3) (x y : Word) : Bool :=
  match c.toNat with
  | 0 => x == y
  | 1 => x != y
  | 2 => x.slt y
  | 3 => !x.slt y
  | 4 => x.ult y
  | _ => !x.ult y

/-- ADD (R111). -/
def execAdd (b a d : BitVec 5) (s : State) : Out1 := .next (s.alu2 4 a.toNat b.toNat d.toNat (fun x y => x + y))
/-- SUB (R111). -/
def execSub (b a d : BitVec 5) (s : State) : Out1 := .next (s.alu2 4 a.toNat b.toNat d.toNat (fun x y => x - y))
/-- MUL (R111). -/
def execMul (b a d : BitVec 5) (s : State) : Out1 := .next (s.alu2 4 a.toNat b.toNat d.toNat (fun x y => x * y))
/-- MULH (R111). -/
def execMulh (b a d : BitVec 5) (s : State) : Out1 := .next (s.alu2 4 a.toNat b.toNat d.toNat mulhWord)
/-- MULHU (R111). -/
def execMulhu (b a d : BitVec 5) (s : State) : Out1 := .next (s.alu2 4 a.toNat b.toNat d.toNat mulhuWord)
/-- DIV (R112). -/
def execDiv (l : BitVec 4) (b a d : BitVec 5) (s : State) : Out1 :=
  .next (s.slow2 4 a.toNat b.toNat d.toNat l 66 (fun _ x y => (divWord x y, none, false)))
/-- DIVU (R112). -/
def execDivu (l : BitVec 4) (b a d : BitVec 5) (s : State) : Out1 :=
  .next (s.slow2 4 a.toNat b.toNat d.toNat l 66 (fun _ x y => (divuWord x y, none, false)))
/-- REM (R112). -/
def execRem (l : BitVec 4) (b a d : BitVec 5) (s : State) : Out1 :=
  .next (s.slow2 4 a.toNat b.toNat d.toNat l 66 (fun _ x y => (remWord x y, none, false)))
/-- REMU (R112). -/
def execRemu (l : BitVec 4) (b a d : BitVec 5) (s : State) : Out1 :=
  .next (s.slow2 4 a.toNat b.toNat d.toNat l 66 (fun _ x y => (remuWord x y, none, false)))
/-- AND (R111). -/
def execAnd (b a d : BitVec 5) (s : State) : Out1 := .next (s.alu2 4 a.toNat b.toNat d.toNat (fun x y => x &&& y))
/-- OR (R111). -/
def execOr (b a d : BitVec 5) (s : State) : Out1 := .next (s.alu2 4 a.toNat b.toNat d.toNat (fun x y => x ||| y))
/-- XOR (R111). -/
def execXor (b a d : BitVec 5) (s : State) : Out1 := .next (s.alu2 4 a.toNat b.toNat d.toNat (fun x y => x ^^^ y))
/-- ANDN (R111). -/
def execAndn (b a d : BitVec 5) (s : State) : Out1 := .next (s.alu2 4 a.toNat b.toNat d.toNat (fun x y => x &&& ~~~y))
/-- ORN (R111). -/
def execOrn (b a d : BitVec 5) (s : State) : Out1 := .next (s.alu2 4 a.toNat b.toNat d.toNat (fun x y => x ||| ~~~y))
/-- SHL (R111). -/
def execShl (b a d : BitVec 5) (s : State) : Out1 := .next (s.alu2 4 a.toNat b.toNat d.toNat (fun x y => x <<< amount y))
/-- SHR (R111). -/
def execShr (b a d : BitVec 5) (s : State) : Out1 := .next (s.alu2 4 a.toNat b.toNat d.toNat (fun x y => x >>> amount y))
/-- SRA (R111). -/
def execSra (b a d : BitVec 5) (s : State) : Out1 :=
  .next (s.alu2 4 a.toNat b.toNat d.toNat (fun x y => x.sshiftRight (amount y)))
/-- ROR (R111). -/
def execRor (b a d : BitVec 5) (s : State) : Out1 := .next (s.alu2 4 a.toNat b.toNat d.toNat rorWord)
/-- MIN (R111). -/
def execMin (b a d : BitVec 5) (s : State) : Out1 :=
  .next (s.alu2 4 a.toNat b.toNat d.toNat (fun x y => if x.slt y then x else y))
/-- MAX (R111). -/
def execMax (b a d : BitVec 5) (s : State) : Out1 :=
  .next (s.alu2 4 a.toNat b.toNat d.toNat (fun x y => if x.slt y then y else x))
/-- MINU (R111). -/
def execMinu (b a d : BitVec 5) (s : State) : Out1 :=
  .next (s.alu2 4 a.toNat b.toNat d.toNat (fun x y => if x.ult y then x else y))
/-- MAXU (R111). -/
def execMaxu (b a d : BitVec 5) (s : State) : Out1 :=
  .next (s.alu2 4 a.toNat b.toNat d.toNat (fun x y => if x.ult y then y else x))
/-- CMPEQ (R111). -/
def execCmpeq (b a d : BitVec 5) (s : State) : Out1 :=
  .next (s.alu2 4 a.toNat b.toNat d.toNat (fun x y => boolWord (x == y)))
/-- CMPLT (R111). -/
def execCmplt (b a d : BitVec 5) (s : State) : Out1 :=
  .next (s.alu2 4 a.toNat b.toNat d.toNat (fun x y => boolWord (x.slt y)))
/-- CMPLTU (R111). -/
def execCmpltu (b a d : BitVec 5) (s : State) : Out1 :=
  .next (s.alu2 4 a.toNat b.toNat d.toNat (fun x y => boolWord (x.ult y)))
/-- SEL (R114). -/
def execSel (c : BitVec 4) (b a d : BitVec 5) (s : State) : Out1 :=
  .next (s.alu3 4 c.toNat a.toNat b.toNat d.toNat (fun z x y => if z != 0 then x else y))
/-- EXTR (R115). -/
def execExtr (b a d : BitVec 5) (s : State) : Out1 := .next (s.alu2 4 a.toNat b.toNat d.toNat extrWord)
/-- INSB (R115). -/
def execInsb (b a d : BitVec 5) (s : State) : Out1 := .next (s.alu3 4 a.toNat b.toNat d.toNat d.toNat insbWord)
/-- CLZ (R113). -/
def execClz (a d : BitVec 5) (s : State) : Out1 := .next (s.alu1 4 a.toNat d.toNat clzWord)
/-- CTZ (R113). -/
def execCtz (a d : BitVec 5) (s : State) : Out1 := .next (s.alu1 4 a.toNat d.toNat ctzWord)
/-- POPC (R113). -/
def execPopc (a d : BitVec 5) (s : State) : Out1 := .next (s.alu1 4 a.toNat d.toNat popWord)
/-- BREV (R113). -/
def execBrev (a d : BitVec 5) (s : State) : Out1 := .next (s.alu1 4 a.toNat d.toNat brevWord)
/-- BSWAP (R113). -/
def execBswap (a d : BitVec 5) (s : State) : Out1 := .next (s.alu1 4 a.toNat d.toNat bswapWord)
/-- ADDI (R116). -/
def execAddi (i : BitVec 12) (a d : BitVec 5) (s : State) : Out1 :=
  .next (s.alu1 4 a.toNat d.toNat (fun x => x + i.signExtend 64))
/-- MOVI (R116). -/
def execMovi (i : BitVec 17) (d : BitVec 5) (s : State) : Out1 := .next (s.alu0 4 d.toNat (i.signExtend 64))
/-- SHLI (R116). -/
def execShli (k : BitVec 6) (a d : BitVec 5) (s : State) : Out1 :=
  .next (s.alu1 4 a.toNat d.toNat (fun x => x <<< k.toNat))
/-- SHRI (R116). -/
def execShri (k : BitVec 6) (a d : BitVec 5) (s : State) : Out1 :=
  .next (s.alu1 4 a.toNat d.toNat (fun x => x >>> k.toNat))
/-- SRAI (R116). -/
def execSrai (k : BitVec 6) (a d : BitVec 5) (s : State) : Out1 :=
  .next (s.alu1 4 a.toNat d.toNat (fun x => x.sshiftRight k.toNat))
/-- CMPI (R116). -/
def execCmpi (c : BitVec 3) (i : BitVec 9) (a d : BitVec 5) (s : State) : Out1 :=
  .next (s.alu1 4 a.toNat d.toNat (fun x => boolWord (condHolds c x (i.signExtend 64))))
/-- LIH (R117). -/
def execLih (i : BitVec 16) (d : BitVec 5) (s : State) : Out1 :=
  .next (s.alu1 4 d.toNat d.toNat (fun x => (x <<< 16) ||| i.setWidth 64))
/-- ADDI wd, wa, 0, compact (R118). -/
def execAddiMove16 (d a : BitVec 5) (s : State) : Out1 := .next (s.alu1 2 a.toNat d.toNat (fun x => x))
/-- ADDI, compact (R118). -/
def execAddi16 (d : BitVec 5) (i : BitVec 6) (s : State) : Out1 :=
  .next (s.alu1 2 d.toNat d.toNat (fun x => x + i.signExtend 64))
/-- MOVI, compact (R118). -/
def execMovi16 (d : BitVec 5) (i : BitVec 6) (s : State) : Out1 := .next (s.alu0 2 d.toNat (i.signExtend 64))
/-- SHLI, compact (R118). -/
def execShli16 (d : BitVec 5) (k : BitVec 6) (s : State) : Out1 :=
  .next (s.alu1 2 d.toNat d.toNat (fun x => x <<< k.toNat))
/-- SHRI, compact (R118). -/
def execShri16 (d : BitVec 5) (k : BitVec 6) (s : State) : Out1 :=
  .next (s.alu1 2 d.toNat d.toNat (fun x => x >>> k.toNat))
/-- ADD, compact (R118). -/
def execAdd16 (d a : BitVec 5) (s : State) : Out1 := .next (s.alu2 2 d.toNat a.toNat d.toNat (fun x y => x + y))
/-- SUB, compact (R118). -/
def execSub16 (d a : BitVec 5) (s : State) : Out1 := .next (s.alu2 2 d.toNat a.toNat d.toNat (fun x y => x - y))
/-- AND, compact (R118). -/
def execAnd16 (d a : BitVec 5) (s : State) : Out1 := .next (s.alu2 2 d.toNat a.toNat d.toNat (fun x y => x &&& y))
/-- OR, compact (R118). -/
def execOr16 (d a : BitVec 5) (s : State) : Out1 := .next (s.alu2 2 d.toNat a.toNat d.toNat (fun x y => x ||| y))

end Sys2Proof.Machine
end

