-- ==== Sys2Proof/Machine/LoadStore.lean ====
section
/-! DEFINITION. Scalar loads and stores, full/empty operations and atomics (R232-R237, R241, R242). -/

namespace Sys2Proof.Machine

/-- What an access instruction asks for: its bytes with its prefix, segment, size, rights in the order checked, the spaces
that allow it, its operation, its prefix, and whether it acquires or releases. -/
structure MemForm where
  ilen : Nat
  seg : Nat
  size : Nat
  rights : List Right
  spaces : List Nat
  op : MemOp
  rx : Option (BitVec 3)
  acq : Bool
  rel : Bool

/-- The spaces of loads (R233). -/
def loadSpaces : List Nat := [1, 2, 3, 4, 6]

/-- The spaces of atomics and vector memory (R239, R242). -/
def dataSpaces : List Nat := [1, 2, 3, 4]

/-- The access that a form issues, with one event. -/
def MemForm.access (m : MemForm) (s : State) (off a : Nat) (data : PWord) : Access :=
  { s.newAccess m.seg off m.op [s.newPart (s.seg m.seg) a off m.size data 0] (scopeOf m.rx) with acq := m.acq, rel := m.rel }

/-- An access with a result in wd (R228, R233, R235, R241): `regs` the registers that form the address, `srcs` its other
sources, `off` its exact offset and `data` its operand. -/
def State.loadForm (s : State) (m : MemForm) (regs srcs : List Nat) (d look : Nat) (off : State → Int)
    (data : State → PWord) : State :=
  s.withOperands ((regs ++ srcs).map s.wAddr) [s.wAddr d] (fun s =>
    s.withLimit (kindOf m.rx) (fun s => s.withSpace (s.seg m.seg).space (fun s =>
      s.needCleans m.ilen 0x10 regs (fun s =>
        s.memIssue m.ilen m.seg (off s) m.size m.size m.rights m.spaces [s.wAddr d] (fun s a =>
          s.startAccess m.ilen true look [s.wAddr d] (m.access s (off s).toNat a (data s)))))))

/-- An access without a result (R228, R233, R235). A store to the message window reaches the class table at supervisor level
alone (R343). -/
def State.storeForm (s : State) (m : MemForm) (regs srcs : List Nat) (off : State → Int) (data : State → PWord) : State :=
  s.withOperands ((regs ++ srcs).map s.wAddr) [] (fun s =>
    s.withLimit (kindOf m.rx) (fun s => s.withSpace (s.seg m.seg).space (fun s =>
      s.needCleans m.ilen 0x10 regs (fun s =>
        s.memIssue m.ilen m.seg (off s) m.size m.size m.rights m.spaces [] (fun s a =>
          if (s.seg m.seg).space = 6 ∧ (!s.priv ∨ a < 0x400) then s.raise m.ilen 0x22 (wordOfInt (off s))
          else s.startAccess m.ilen false 0 [] (m.access s (off s).toNat a (data s)))))))

/-- The offset of the base-only form (R228). -/
def offBase (b : Nat) (s : State) : Int := ((s.w b).val.toNat : Int)

/-- The offset of the displacement form (R228). -/
def offDisp (b : Nat) (p : BitVec 6) (n : Nat) (s : State) : Int := ((s.w b).val.toNat : Int) + p.toInt * n

/-- The offset of the indexed form (R228). -/
def offIdx (b i n : Nat) (s : State) : Int := (((s.w b).val.toNat + (s.w i).val.toNat * n : Nat) : Int)

/-- A plain or relaxed load's form. -/
def loadOf (rx : Option (BitVec 3)) (g n : Nat) (sg : Bool) : MemForm :=
  { ilen := withPrefix rx 4, seg := g, size := n, rights := [.r], spaces := loadSpaces, op := .load sg, rx := rx, acq := false,
    rel := false }

/-- A plain or relaxed store's form. -/
def storeOf (rx : Option (BitVec 3)) (g n : Nat) : MemForm :=
  { ilen := withPrefix rx 4, seg := g, size := n, rights := [.w], spaces := loadSpaces, op := .store, rx := rx, acq := false,
    rel := false }

/-- A word without data. -/
def noData (_ : State) : PWord := ⟨0, false⟩

/-- A displacement load. -/
def State.loadDisp (s : State) (rx : Option (BitVec 3)) (p : BitVec 6) (l : BitVec 4) (g : BitVec 3) (b d : BitVec 5) (n : Nat) :
    State :=
  s.loadForm (loadOf rx g.toNat n true) [b.toNat] [] d.toNat l.toNat (offDisp b.toNat p n) noData

/-- A displacement store. -/
def State.storeDisp (s : State) (rx : Option (BitVec 3)) (p : BitVec 6) (g : BitVec 3) (b d : BitVec 5) (n : Nat) : State :=
  s.storeForm (storeOf rx g.toNat n) [b.toNat] [d.toNat] (offDisp b.toNat p n) (fun s => s.w d.toNat)

/-- A base-only zero-extending load. -/
def State.loadZero (s : State) (rx : Option (BitVec 3)) (l : BitVec 4) (g : BitVec 3) (b d : BitVec 5) (n : Nat) : State :=
  s.loadForm (loadOf rx g.toNat n false) [b.toNat] [] d.toNat l.toNat (offBase b.toNat) noData

/-- An indexed load. -/
def State.loadIdx (s : State) (rx : Option (BitVec 3)) (i l : BitVec 4) (g : BitVec 3) (b d : BitVec 5) (n : Nat) (sg : Bool) :
    State :=
  s.loadForm (loadOf rx g.toNat n sg) [b.toNat, i.toNat] [] d.toNat l.toNat (offIdx b.toNat i.toNat n) noData

/-- An indexed store. -/
def State.storeIdx (s : State) (rx : Option (BitVec 3)) (i : BitVec 4) (g : BitVec 3) (b d : BitVec 5) (n : Nat) : State :=
  s.storeForm (storeOf rx g.toNat n) [b.toNat, i.toNat] [d.toNat] (offIdx b.toNat i.toNat n) (fun s => s.w d.toNat)

/-- LDB (R233). -/
def execLdb (rx : Option (BitVec 3)) (p : BitVec 6) (l : BitVec 4) (g : BitVec 3) (b d : BitVec 5) (s : State) : Out1 :=
  .next (s.loadDisp rx p l g b d 1)
/-- LDH (R233). -/
def execLdh (rx : Option (BitVec 3)) (p : BitVec 6) (l : BitVec 4) (g : BitVec 3) (b d : BitVec 5) (s : State) : Out1 :=
  .next (s.loadDisp rx p l g b d 2)
/-- LDW (R233). -/
def execLdw (rx : Option (BitVec 3)) (p : BitVec 6) (l : BitVec 4) (g : BitVec 3) (b d : BitVec 5) (s : State) : Out1 :=
  .next (s.loadDisp rx p l g b d 4)
/-- LDD (R233). -/
def execLdd (rx : Option (BitVec 3)) (p : BitVec 6) (l : BitVec 4) (g : BitVec 3) (b d : BitVec 5) (s : State) : Out1 :=
  .next (s.loadDisp rx p l g b d 8)
/-- STB (R233). -/
def execStb (rx : Option (BitVec 3)) (p : BitVec 6) (g : BitVec 3) (b d : BitVec 5) (s : State) : Out1 :=
  .next (s.storeDisp rx p g b d 1)
/-- STH (R233). -/
def execSth (rx : Option (BitVec 3)) (p : BitVec 6) (g : BitVec 3) (b d : BitVec 5) (s : State) : Out1 :=
  .next (s.storeDisp rx p g b d 2)
/-- STW (R233). -/
def execStw (rx : Option (BitVec 3)) (p : BitVec 6) (g : BitVec 3) (b d : BitVec 5) (s : State) : Out1 :=
  .next (s.storeDisp rx p g b d 4)
/-- STD (R233). -/
def execStd (rx : Option (BitVec 3)) (p : BitVec 6) (g : BitVec 3) (b d : BitVec 5) (s : State) : Out1 :=
  .next (s.storeDisp rx p g b d 8)

/-- The segment of a compact form: sg1 or sg2 (R50). -/
def compactSeg (g : BitVec 1) : Nat := if g = 0 then 1 else 2

/-- LDD, compact (R50). -/
def execLdd16 (rx : Option (BitVec 3)) (g : BitVec 1) (l : BitVec 4) (b d : BitVec 3) (s : State) : Out1 :=
  .next (s.loadForm { loadOf rx (compactSeg g) 8 true with ilen := withPrefix rx 2 } [b.toNat] [] d.toNat l.toNat
    (offBase b.toNat) noData)
/-- STD, compact (R50): the displacement is 8k. -/
def execStd16 (rx : Option (BitVec 3)) (g : BitVec 1) (k : BitVec 4) (b d : BitVec 3) (s : State) : Out1 :=
  .next (s.storeForm { storeOf rx (compactSeg g) 8 with ilen := withPrefix rx 2 } [b.toNat] [d.toNat]
    (fun s => offBase b.toNat s + 8 * k.toNat) (fun s => s.w d.toNat))

/-- LDBU (R232). -/
def execLdbu (rx : Option (BitVec 3)) (l : BitVec 4) (g : BitVec 3) (b d : BitVec 5) (s : State) : Out1 :=
  .next (s.loadZero rx l g b d 1)
/-- LDHU (R232). -/
def execLdhu (rx : Option (BitVec 3)) (l : BitVec 4) (g : BitVec 3) (b d : BitVec 5) (s : State) : Out1 :=
  .next (s.loadZero rx l g b d 2)
/-- LDWU (R232). -/
def execLdwu (rx : Option (BitVec 3)) (l : BitVec 4) (g : BitVec 3) (b d : BitVec 5) (s : State) : Out1 :=
  .next (s.loadZero rx l g b d 4)

/-- The bytes of a size code (R232). -/
def sizeOfCode (z : BitVec 2) : Nat := 2 ^ z.toNat

/-- LDx.ACQ (R232, R207). -/
def execLdAcq (l : BitVec 4) (z : BitVec 2) (g : BitVec 3) (b d : BitVec 5) (s : State) : Out1 :=
  .next (s.loadForm { loadOf none g.toNat (sizeOfCode z) true with acq := true } [b.toNat] [] d.toNat l.toNat
    (offBase b.toNat) noData)
/-- LDxU.ACQ (R232, R207). -/
def execLduAcq (l : BitVec 4) (z : BitVec 2) (g : BitVec 3) (b d : BitVec 5) (s : State) : Out1 :=
  .next (s.loadForm { loadOf none g.toNat (sizeOfCode z) false with acq := true } [b.toNat] [] d.toNat l.toNat
    (offBase b.toNat) noData)
/-- STx.REL (R232, R207). -/
def execStRel (z : BitVec 2) (g : BitVec 3) (b d : BitVec 5) (s : State) : Out1 :=
  .next (s.storeForm { storeOf none g.toNat (sizeOfCode z) with rel := true } [b.toNat] [d.toNat] (offBase b.toNat)
    (fun s => s.w d.toNat))

/-- LDB, indexed (R60, R233). -/
def execLdbIdx (rx : Option (BitVec 3)) (i l : BitVec 4) (g : BitVec 3) (b d : BitVec 5) (s : State) : Out1 :=
  .next (s.loadIdx rx i l g b d 1 true)
/-- LDBU, indexed (R60, R233). -/
def execLdbuIdx (rx : Option (BitVec 3)) (i l : BitVec 4) (g : BitVec 3) (b d : BitVec 5) (s : State) : Out1 :=
  .next (s.loadIdx rx i l g b d 1 false)
/-- LDH, indexed (R60, R233). -/
def execLdhIdx (rx : Option (BitVec 3)) (i l : BitVec 4) (g : BitVec 3) (b d : BitVec 5) (s : State) : Out1 :=
  .next (s.loadIdx rx i l g b d 2 true)
/-- LDHU, indexed (R60, R233). -/
def execLdhuIdx (rx : Option (BitVec 3)) (i l : BitVec 4) (g : BitVec 3) (b d : BitVec 5) (s : State) : Out1 :=
  .next (s.loadIdx rx i l g b d 2 false)
/-- LDW, indexed (R60, R233). -/
def execLdwIdx (rx : Option (BitVec 3)) (i l : BitVec 4) (g : BitVec 3) (b d : BitVec 5) (s : State) : Out1 :=
  .next (s.loadIdx rx i l g b d 4 true)
/-- LDWU, indexed (R60, R233). -/
def execLdwuIdx (rx : Option (BitVec 3)) (i l : BitVec 4) (g : BitVec 3) (b d : BitVec 5) (s : State) : Out1 :=
  .next (s.loadIdx rx i l g b d 4 false)
/-- LDD, indexed (R60, R233). -/
def execLddIdx (rx : Option (BitVec 3)) (i l : BitVec 4) (g : BitVec 3) (b d : BitVec 5) (s : State) : Out1 :=
  .next (s.loadIdx rx i l g b d 8 true)
/-- STB, indexed (R60, R233). -/
def execStbIdx (rx : Option (BitVec 3)) (i : BitVec 4) (g : BitVec 3) (b d : BitVec 5) (s : State) : Out1 :=
  .next (s.storeIdx rx i g b d 1)
/-- STH, indexed (R60, R233). -/
def execSthIdx (rx : Option (BitVec 3)) (i : BitVec 4) (g : BitVec 3) (b d : BitVec 5) (s : State) : Out1 :=
  .next (s.storeIdx rx i g b d 2)
/-- STW, indexed (R60, R233). -/
def execStwIdx (rx : Option (BitVec 3)) (i : BitVec 4) (g : BitVec 3) (b d : BitVec 5) (s : State) : Out1 :=
  .next (s.storeIdx rx i g b d 4)
/-- STD, indexed (R60, R233). -/
def execStdIdx (rx : Option (BitVec 3)) (i : BitVec 4) (g : BitVec 3) (b d : BitVec 5) (s : State) : Out1 :=
  .next (s.storeIdx rx i g b d 8)

/-! ## Full/empty operations (R235-R237) -/

/-- The form of a full/empty operation (R235). -/
def feForm (g : BitVec 3) (rights : List Right) (op : MemOp) : MemForm :=
  { ilen := 4, seg := g.toNat, size := 8, rights := rights, spaces := [1, 2, 3], op := op, rx := none, acq := false, rel := false }

/-- LDE (R235). -/
def execLde (l : BitVec 4) (g : BitVec 3) (b d : BitVec 5) (s : State) : Out1 :=
  .next (s.loadForm (feForm g [.f, .r, .w] .lde) [b.toNat] [] d.toNat l.toNat (offBase b.toNat) noData)
/-- LDF (R235). -/
def execLdf (l : BitVec 4) (g : BitVec 3) (b d : BitVec 5) (s : State) : Out1 :=
  .next (s.loadForm (feForm g [.f, .r] .ldf) [b.toNat] [] d.toNat l.toNat (offBase b.toNat) noData)
/-- STF (R235). -/
def execStf (g : BitVec 3) (b d : BitVec 5) (s : State) : Out1 :=
  .next (s.storeForm (feForm g [.f, .w] .stf) [b.toNat] [d.toNat] (offBase b.toNat) (fun s => s.w d.toNat))
/-- STFF (R235). -/
def execStff (g : BitVec 3) (b d : BitVec 5) (s : State) : Out1 :=
  .next (s.storeForm (feForm g [.f, .w] .stff) [b.toNat] [d.toNat] (offBase b.toNat) (fun s => s.w d.toNat))
/-- FEQ (R235). -/
def execFeq (l : BitVec 4) (g : BitVec 3) (b d : BitVec 5) (s : State) : Out1 :=
  .next (s.loadForm (feForm g [.f, .r] .feq) [b.toNat] [] d.toNat l.toNat (offBase b.toNat) noData)
/-- FECLR (R235). -/
def execFeclr (g : BitVec 3) (b : BitVec 5) (s : State) : Out1 :=
  .next (s.storeForm (feForm g [.f, .w] .feclr) [b.toNat] [] (offBase b.toNat) noData)

/-! ## Atomics (R241, R242) -/

/-- An atomic: operand W(b), and for AMOCAS the comparand W(d) read at issue (R241). -/
def State.atomic (s : State) (rx : Option (BitVec 3)) (l b : BitVec 4) (g : BitVec 3) (a d : BitVec 5) (op n : Nat) : State :=
  let srcs := if op = 7 then [b.toNat, d.toNat] else [b.toNat]
  s.loadForm { loadOf rx g.toNat n false with rights := [.r, .w], spaces := dataSpaces, op := .amo op (s.w d.toNat).val }
    [a.toNat] srcs d.toNat l.toNat (offBase a.toNat)
    (fun s => ⟨(s.w b.toNat).val, (s.w b.toNat).bad || (op == 7 && (s.w d.toNat).bad)⟩)

/-- AMOADD (R241). -/
def execAmoadd (rx : Option (BitVec 3)) (l b : BitVec 4) (g : BitVec 3) (a d : BitVec 5) (s : State) : Out1 :=
  .next (s.atomic rx l b g a d 0 8)
/-- AMOAND (R241). -/
def execAmoand (rx : Option (BitVec 3)) (l b : BitVec 4) (g : BitVec 3) (a d : BitVec 5) (s : State) : Out1 :=
  .next (s.atomic rx l b g a d 1 8)
/-- AMOOR (R241). -/
def execAmoor (rx : Option (BitVec 3)) (l b : BitVec 4) (g : BitVec 3) (a d : BitVec 5) (s : State) : Out1 :=
  .next (s.atomic rx l b g a d 2 8)
/-- AMOXOR (R241). -/
def execAmoxor (rx : Option (BitVec 3)) (l b : BitVec 4) (g : BitVec 3) (a d : BitVec 5) (s : State) : Out1 :=
  .next (s.atomic rx l b g a d 3 8)
/-- AMOMIN (R241). -/
def execAmomin (rx : Option (BitVec 3)) (l b : BitVec 4) (g : BitVec 3) (a d : BitVec 5) (s : State) : Out1 :=
  .next (s.atomic rx l b g a d 4 8)
/-- AMOMAX (R241). -/
def execAmomax (rx : Option (BitVec 3)) (l b : BitVec 4) (g : BitVec 3) (a d : BitVec 5) (s : State) : Out1 :=
  .next (s.atomic rx l b g a d 5 8)
/-- AMOSWP (R241). -/
def execAmoswp (rx : Option (BitVec 3)) (l b : BitVec 4) (g : BitVec 3) (a d : BitVec 5) (s : State) : Out1 :=
  .next (s.atomic rx l b g a d 6 8)
/-- AMOCAS (R241). -/
def execAmocas (rx : Option (BitVec 3)) (l b : BitVec 4) (g : BitVec 3) (a d : BitVec 5) (s : State) : Out1 :=
  .next (s.atomic rx l b g a d 7 8)
/-- AMOFADD.S (R241). -/
def execAmofaddS (rx : Option (BitVec 3)) (l b : BitVec 4) (g : BitVec 3) (a d : BitVec 5) (s : State) : Out1 :=
  .next (s.atomic rx l b g a d 8 4)
/-- AMOFADD.D (R241). -/
def execAmofaddD (rx : Option (BitVec 3)) (l b : BitVec 4) (g : BitVec 3) (a d : BitVec 5) (s : State) : Out1 :=
  .next (s.atomic rx l b g a d 9 8)

end Sys2Proof.Machine
end

