-- ==== Sys2Proof/Machine/Semaphore.lean ====
section
/-! DEFINITION. Semaphores (R269, R270): the four instructions, additions by other units, and the wakes. -/

namespace Sys2Proof.Machine

/-- A semaphore that a scrub or a reset has set to zero (R269). -/
def Sem.reset : Sem := ⟨0, false, []⟩

/-- A semaphore of a core. -/
def Core.sem (c : Core) (k : Nat) : Sem := keyGet Sem.reset c.sems k

/-- A semaphore with an amount added (R269). -/
def Sem.add (x : Sem) (n : Nat) : Sem :=
  let t := x.count.toNat + n
  { x with count := BitVec.ofNat 48 t, wrap := x.wrap || decide (2 ^ 48 ≤ t) }

/-- The count that satisfies a SEMWAIT: without the additions of commands that have elements still to perform (R217, R254, R312;
log 50). -/
def Sem.settled (x : Sem) : Nat := (x.count.toNat + 2 ^ 48 - x.early.length % 2 ^ 48) % 2 ^ 48

/-- A semaphore with the addition of a command in its count while elements of the command are still to be performed, as SEMRD may see it
(R217, R312; log 50). -/
def Sem.addEarly (x : Sem) (id : Nat) : Sem := { x.add 1 with early := id :: x.early }

/-- A semaphore with the addition of a command that has performed its last element: in the count already (R254). -/
def Sem.endEarly (x : Sem) (id : Nat) : Sem := { x with early := x.early.filter (fun i => i != id) }

/-- A waiter of a lea woken where its threshold is met: it issues in its own turn first (R270). -/
def Slot.wakeSem (lea : Option Nat) (sems : List (Nat × Sem)) (x : Slot) : Slot :=
  match x.wait with
  | .sem k t => if x.lea = lea ∧ t ≤ (keyGet Sem.reset sems k).settled then { x.wake with fresh := true } else x
  | _ => x

/-- A core after a cycle in which semaphores changed: every waiter of the pool's lea whose threshold is now met is woken
(R270). -/
def Core.semCycle (c : Core) : Core :=
  if c.semSets.isEmpty && c.semAdds.isEmpty then c
  else { c with slots := c.slots.map (Slot.wakeSem c.lea c.sems), semSets := [], semAdds := [] }

/-- An amount added to a live semaphore in the present cycle (R269, R270). -/
def Core.addNow (c : Core) (k n : Nat) : Core :=
  { c with sems := keySet c.sems k ((c.sem k).add n), semAdds := c.semAdds ++ [(k, n)] }

/-- A live semaphore set: the setting comes before the additions of the same cycle (R269, R270). -/
def Core.setNow (c : Core) (k n : Nat) : Core :=
  { c with
    sems := keySet c.sems k ((c.semAdds.filter (fun p => p.1 == k)).foldl (fun x p => x.add p.2) ⟨BitVec.ofNat 48 n, false, []⟩)
    semSets := c.semSets ++ [(k, n)] }

/-- An amount added to one of a list of semaphores (R269). -/
def addSemOf (l : List (Nat × Sem)) (k n : Nat) : List (Nat × Sem) := keySet l k ((keyGet Sem.reset l k).add n)

/-- A save area with an amount added to a semaphore: in its pool image, or kept until the lea first holds the pool (R270, R380). -/
def SaveArea.addSem (v : SaveArea) (k n : Nat) : SaveArea :=
  match v.pool with
  | some p => { v with pool := some { p with sems := addSemOf p.sems k n } }
  | none => { v with sems := addSemOf v.sems k n }

/-- A lea's save area on a core. -/
def Core.save (c : Core) (lea : Nat) : SaveArea := keyGet ⟨[], none, []⟩ c.saves lea

/-- A lea's save area on a core changed. -/
def Core.modSave (c : Core) (lea : Nat) (f : SaveArea → SaveArea) : Core := { c with saves := keySet c.saves lea (f (c.save lea)) }

/-- An addition to a semaphore of a lea on a core: the live semaphore where the lea holds the pool, the saved image
otherwise (R270, R380). -/
def Core.addSem (c : Core) (lea k n : Nat) : Core :=
  if c.lea = some lea then c.addNow k n else c.modSave lea (fun v => v.addSem k n)

/-- An addition to a semaphore of a lea on a core (R217, R270). -/
def State.addSem (s : State) (core lea k n : Nat) : State := s.modCore core (fun c => c.addSem lea k n)

/-- The addition of a bank command seen early, in the live semaphore of its lea (R217, R312; log 50). -/
def State.addEarly (s : State) (core k id : Nat) : State :=
  s.modCore core (fun c => { c with sems := keySet c.sems k ((c.sem k).addEarly id) })

/-- A bank command whose addition was seen early has performed its last element: its waiters are tested after this cycle, or once the
lea is back (R254, R270, R380). -/
def Core.endEarly (c : Core) (lea k id : Nat) : Core :=
  if c.lea = some lea then { c with sems := keySet c.sems k ((c.sem k).endEarly id), semAdds := c.semAdds ++ [(k, 0)] }
  else c.modPoolSave lea (fun p => { p with sems := keySet p.sems k ((keyGet Sem.reset p.sems k).endEarly id) })

/-- A semaphore instruction with an amount, value or threshold (R269). -/
def State.semOp (s : State) (a : Nat) (release : Bool) (f : State → Nat → State) : State :=
  s.withOperands [s.wAddr a] [] (fun s => s.withPool (fun s =>
    if release && !s.accessesDone false then s.forfeit
    else s.needClean 4 0x13 a (fun s =>
      let n := (s.w a).val.toNat
      if 2 ^ 48 ≤ n then s.raise 4 0x06 (s.w a).val else f s n)))

/-- SEMADD (R217, R269): every earlier access of the thread comes before the addition. -/
def execSemadd (k : BitVec 6) (a : BitVec 5) (s : State) : Out1 :=
  .next (s.semOp a.toNat true (fun s n =>
    (s.modMyCore (fun c => c.addNow k.toNat n)).issue 4))

/-- SEMSET (R217, R269). -/
def execSemset (k : BitVec 6) (a : BitVec 5) (s : State) : Out1 :=
  .next (s.semOp a.toNat true (fun s n =>
    (s.modMyCore (fun c => c.setNow k.toNat n)).issue 4))

/-- SEMRD (R269). -/
def execSemrd (k : BitVec 6) (d : BitVec 5) (s : State) : Out1 :=
  .next (s.withPool (fun s => s.alu0 4 d.toNat
    (let x := s.myCore.sem k.toNat
     BitVec.ofBool x.wrap ++ 0#15 ++ x.count)))

/-- SEMWAIT (R269, R270): a threshold met at issue completes at once; otherwise the thread is Parked until one is. -/
def execSemwait (k : BitVec 6) (a : BitVec 5) (s : State) : Out1 :=
  .next (s.semOp a.toNat false (fun s n =>
    let s1 := s.issue 4
    if n ≤ (s.myCore.sem k.toNat).settled then s1 else s1.park (.sem k.toNat n)))

end Sys2Proof.Machine
end

