-- ==== Sys2Proof/Machine/Remote.lean ====
section
/-! DEFINITION. Fences (R213, R216, R243) and remote accesses (R245-R248). -/

namespace Sys2Proof.Machine

/-! ## Fences -/

/-- Whether a port transfer of a bay that is still running reads memory: of an MLOAD or an MREST (R203). -/
def Bay.portReads (b : Bay) (id : Nat) : Bool := b.port.any (fun j => j.outId == id && j.kind != 1)

/-- Whether every earlier read of the acting thread has returned its value, those of its port transfers among them; remote
ones where asked (R203, R213). -/
def State.readsDone (s : State) (remote : Bool) : Bool :=
  s.myOuts.all (fun o => match o.work with
    | .access x => x.op.isStore || (x.remote && !remote)
    | .port => !(s.core o.core).bay.portReads o.id
    | _ => true)

/-- FENCE (R213, R243): it waits for what its kind orders; a FENCE.FULL of core scope or wider discards the instruction
cache (R69). -/
def execFence (k : BitVec 2) (c : BitVec 3) (s : State) : Out1 :=
  let remote := decide (3 ≤ c.toNat)
  .next (
    if (k.getLsbD 1 && !s.accessesDone remote) || (k.getLsbD 0 && !s.readsDone remote) then s.forfeit
    else if k = 3 ∧ c ≠ 0 then ((s.modMyCore (fun x => { x with icache := [] })).modMe (fun x => { x with view := s.mem.log.length })).issue 4
    else s.issue 4)

/-- Whether a command of the acting thread holds a FENCEB: .BANK waits for its queue, a wider scope for its execution
(R216). -/
def Out.holdsFenceb (o : Out) (bank : Bool) : Bool :=
  match o.work with
  | .bank c => !bank || !c.inQueue
  | _ => false

/-- FENCEB (R216, R243). -/
def execFenceb (c : BitVec 3) (s : State) : Out1 :=
  .next (if s.myOuts.any (fun o => o.holdsFenceb (c == 5)) then s.forfeit else s.issue 4)

/-! ## Remote accesses -/

/-- Whether a Cove die is present, not disabled and not in reset; while it is isolated its responders answer (R246, R425,
R427). -/
def State.dieUsable (s : State) (d : Nat) : Bool :=
  (match s.dies[d]? with
    | some x => (match x.phase with
      | .up => true
      | .isolate _ => true
      | _ => false)
    | none => false)
    && (List.range 256).any (fun i => !s.head.disabledCores.contains (256 * d + i))

/-- A remote access (R246): the checks of R228 in the remote space, then the target die. -/
def State.remoteOp (s : State) (l : BitVec 4) (g : BitVec 3) (a : Nat) (srcs : List Nat) (dst : List Nat) (n : Nat)
    (rights : List Right) (op : MemOp) (sem : Option Nat) (data : State → PWord) : State :=
  s.withOperands (([a] ++ srcs).map s.wAddr) dst (fun s =>
    s.withLimit .remote (fun s => s.withSpace (s.seg g.toNat).space (fun s =>
      s.needClean 4 0x10 a (fun s =>
        s.memIssue 4 g.toNat (offBase a s) n n rights [5] dst (fun s addr =>
          let die := (s.seg g.toNat).die
          if !s.dieUsable die then s.raise 4 0x2A (BitVec.ofNat 64 die)
          else
            let off := (s.w a).val.toNat
            let x := s.newAccess g.toNat off op [s.newPart (s.seg g.toNat) addr off n (data s) 0] none
            s.startAccess 4 true l.toNat dst { x with remote := true, sem := sem })))))

/-- The semaphore that a completion adds to, where E is set (R245). -/
def eSem (e : BitVec 1) (k : BitVec 4) : Option Nat := if e = 1 then some k.toNat else none

/-- GET (R246). -/
def execGet (l : BitVec 4) (e : BitVec 1) (k : BitVec 4) (g : BitVec 3) (a d : BitVec 5) (s : State) : Out1 :=
  .next (s.remoteOp l g a.toNat [] [s.wAddr d.toNat] 8 [.r] (.load false) (eSem e k) noData)

/-- PUT (R246, R248). -/
def execPut (l : BitVec 4) (e : BitVec 1) (k : BitVec 4) (g : BitVec 3) (a d : BitVec 5) (s : State) : Out1 :=
  .next (s.remoteOp l g a.toNat [d.toNat] [] 8 [.w] .store (eSem e k) (fun s => s.w d.toNat))

/-- RAMO (R246). -/
def execRamo (l o : BitVec 4) (g : BitVec 3) (a d : BitVec 5) (s : State) : Out1 :=
  .next (s.remoteOp l g a.toNat [d.toNat] [s.wAddr d.toNat] (if o = 8 then 4 else 8) [.r, .w] (.amo o.toNat 0) none
    (fun s => s.w d.toNat))

/-! ## Messages on the exchange plane (R322, R324) -/

/-- The flits of a lea that wait to be injected on the exchange plane from a core (R322, R369). -/
def State.exchangeFlits (s : State) (c : Nat) (lea : Option Nat) : Nat :=
  (s.mail.filter (fun m => m.src == c && some m.lea == lea && m.sent.isNone)).length

/-- The rest of an instruction that injects on the exchange plane, where its queue has room (R322). -/
def State.withExchange (s : State) (f : State → State) : State :=
  if 16 ≤ s.exchangeFlits s.cur.1 s.me.lea then s.forfeitFull else f s

/-- A message of the acting thread to a core of its lea, waiting to be injected, with a number. -/
def State.newMail (s : State) (id dst wd : Nat) (m : Msg) : Mail :=
  { id := id, lea := s.me.lea.getD 0, src := s.cur.1, srcSlot := s.cur.2, srcTid := s.me.tid, dst := dst, sent := none,
    msg := m, wd := wd, born := s.me.issued + 1 }

/-- The state with a message added. -/
def State.post (s : State) (m : Mail) : State := { s with mail := s.mail ++ [m] }

/-- RSEM (R247): an addition to a semaphore of a core of the lea, sent on the exchange plane. -/
def execRsem (l : BitVec 4) (k : BitVec 6) (a d : BitVec 5) (s : State) : Out1 :=
  .next (s.withOperands [s.wAddr a.toNat, s.wAddr d.toNat] [] (fun s =>
    s.withLimit .remote (fun s => s.withExchange (fun s =>
      s.needCleans 4 0x14 [a.toNat, d.toNat] (fun s =>
        let c := (s.w a.toNat).val
        let n := (s.w d.toNat).val
        if s.leal ≤ c.toNat then s.raise 4 0x40 c
        else if 2 ^ 48 ≤ n.toNat then s.raise 4 0x06 n
        else
          let o := s.newOut 4 true l.toNat [] .rsem
          ((s.addOut o).post (s.newMail o.id (s.physOf c.toNat) 0 (.rsem k.toNat n.toNat))).issue 4)))))

end Sys2Proof.Machine
end

