-- ==== Sys2Proof/Machine/Bank.lean ====
section
/-! DEFINITION. Bank-agent commands: their issue (R249-R253, R255, R256) and what they compute (R103, R254). -/

namespace Sys2Proof.Machine

/-- The number of the bank of an address (R249): 512 a die for commons, then 128 a die for the pseudo-channels. -/
def State.bankOf (s : State) (core : Nat) (lea : Option Nat) (space addr : Nat) : Nat :=
  if space = 3 then
    match lea.bind s.lea with
    | some l => 512 * dieOf core + (l.banksOn (dieOf core)).getD (addr / bankBytes) 0
    | none => 0
  else 4096 + 128 * dieOf core + addr / 512 % 128

/-- The bank of an address for the acting thread. -/
def State.myBank (s : State) (space addr : Nat) : Nat := s.bankOf s.cur.1 s.me.lea space addr

/-- The bytes of a row size code (R251). -/
def rowBytes (w : Word) : Nat := 64 * 2 ^ (w.extractLsb' 4 2).toNat

/-- Whether a control word is malformed for a command (R251): 0 NADD, 1 NMAX, 2 NRED, 3 NAXPY, 4 NFILL. -/
def ctlBad (fn : Nat) (w : Word) : Bool :=
  let fmt := (w.extractLsb' 0 4).toNat
  (w &&& 0x00000000FF01F8C0#64) != 0
    || (fn != 3 && w.extractLsb' 32 32 != 0)
    || (!w.getLsbD 17 && w.extractLsb' 18 6 != 0)
    || (fn != 2 && w.extractLsb' 8 3 != 0)
    || decide (6 ≤ fmt)
    || (w.extractLsb' 4 2 == 3 && (fn == 0 || fn == 1 || fn == 3))
    || (fn == 3 && decide (4 ≤ fmt))

/-- The bytes of an element of a format (R251). -/
def bankElem (fmt : Nat) : Nat :=
  match fmt with
  | 0 => 4
  | 1 => 2
  | 2 => 2
  | 3 => 8
  | 4 => 4
  | _ => 8

/-- The floating format of a code below 4 (R251). -/
def bankFmt (fmt : Nat) : Fmt :=
  match fmt with
  | 0 => fp32
  | 1 => bf16
  | 2 => fp16
  | _ => fp64

/-- The offset of bank-local row r of a table (R252). -/
def rowOffset (space tb rs r : Nat) : Nat :=
  if space = 3 then tb + r * rs else tb + r % (512 / rs) * rs + r / (512 / rs) * 65536

/-- Bytes [o, o + n) of a vector register as a number. -/
def vBytes (v : VReg) (o n : Nat) : Nat := v.toNat / 256 ^ o % 256 ^ n

/-- A vector register's value (R20). -/
def State.v (s : State) (k : Nat) : VReg := BitVec.ofNat 2048 (s.wide (s.vAddrs k))

/-- The numbers of the poisoned doublewords of a list of addresses. -/
def State.badList (s : State) (l : List Nat) : List Nat :=
  (List.range l.length).filter (fun i => s.mem.isBad (l.getD i 0))

/-- The rows that an NRED reads, checked in order (R252, R253): the rest runs with their events, or the first failing check
traps. A row of a segment whose BASE is no multiple of RS can lie across two banks; the bank of its first byte is the one checked, which
is the model's choice (log 102). -/
def State.nredRows (s : State) (g : Nat) (v : VReg) (rs bank : Nat) : List Nat → List Part → (State → List Part → State) → State
  | [], ps, f => f s ps
  | k :: t, ps, f =>
    let sg := s.seg g
    let o := rowOffset sg.space (vBytes v 0 8) rs (vBytes v (8 + 4 * k) 4)
    let tv := BitVec.ofNat 64 o
    match segFail sg (s.extent sg.space) o rs [.r] [3, 4] with
    | some c => s.raise 4 c tv
    | none =>
      let a := sg.base.toNat + o
      if s.myBank sg.space a ≠ bank then s.raise 4 0x29 tv
      else s.nredRows g v rs bank t (ps ++ [s.newPart sg a o rs ⟨0, false⟩ 0]) f

/-- A command as captured at issue (R253): it makes one access for each 64 bytes that it reads or writes (R326). -/
def State.newCmd (s : State) (fn g addr off rs : Nat) (w : Word) (rows : List Part) (src : VReg) (srcBad : List Nat)
    (val : PWord) : BankCmd :=
  let sg := s.seg g
  { fn := fn, fmt := (w.extractLsb' 0 4).toNat, size := rs, space := sg.space, die := dieOf s.cur.1,
    bank := s.myBank sg.space addr, parts := s.newPart sg addr off rs ⟨0, false⟩ 0 :: rows, src := src, srcBad := srcBad,
    val := val, alpha := w.extractLsb' 32 32,
    sem := if fn ≠ 5 ∧ w.getLsbD 17 then some (w.extractLsb' 18 6).toNat else none,
    nsr := s.nsr, op := (w.extractLsb' 0 4).toNat, inQueue := false
    units := max 1 ((rows.length + (if fn = 4 then 1 else 2)) * rs / 64)
    left := if fn = 5 then [] else List.range (rs / bankElem (w.extractLsb' 0 4).toNat)
    early := false }

/-- A command sent towards its bank, where the thread has fewer than 32 unexecuted (R231, R253). -/
def State.sendCmd (s : State) (windowed : Bool) (look : Nat) (dst : List Nat) (c : BankCmd) : State :=
  s.withLimit .bank (fun s => ((s.addOut (s.newOut 4 windowed look dst (.bank c))).markPending dst).issue 4)

/-- A command with a vector operand: NADD, NMAX, NRED or NAXPY (R253). -/
def State.bankVec (s : State) (fn : Nat) (v : BitVec 4) (g : BitVec 3) (a d : BitVec 5) : State :=
  let va := s.vAddrs v.toNat
  s.withOperands ([s.wAddr a.toNat] ++ va ++ [s.wAddr d.toNat]) [] (fun s => s.withSpace (s.seg g.toNat).space (fun s =>
    s.needClean 4 0x10 a.toNat (fun s => s.needClean 4 0x13 d.toNat (fun s =>
      let w := (s.w d.toNat).val
      let off := (s.w a.toNat).val.toNat
      let rs := rowBytes w
      s.memIssue 4 g.toNat off rs rs [.b] [3, 4] [] (fun s addr =>
        if ctlBad fn w then s.raise 4 0x06 w
        else if fn ≠ 2 then s.sendCmd false 0 [] (s.newCmd fn g.toNat addr off rs w [] (s.v v.toNat) (s.badList va) ⟨0, false⟩)
        else
          let idx := s.v v.toNat
          let nm := (w.extractLsb' 8 3).toNat
          let used := (8 + 4 * (nm + 1) + 7) / 8
          match (s.badList va).find? (fun i => decide (i < used)) with
          | some i => s.raise 4 0x15 (BitVec.ofNat 64 (s.desc.vp.toNat + 256 * v.toNat + 8 * i))
          | none =>
            let tb := vBytes idx 0 8
            if tb % (if (s.seg g.toNat).space = 3 then rs else 512) ≠ 0 then s.raise 4 0x25 (BitVec.ofNat 64 tb)
            else s.nredRows g.toNat idx rs (s.myBank (s.seg g.toNat).space addr) (List.range (nm + 1)) [] (fun s rows =>
              s.sendCmd false 0 [] (s.newCmd fn g.toNat addr off rs w rows idx [] ⟨0, false⟩)))))))

/-- NADD (R250, R253). -/
def execNadd (v : BitVec 4) (g : BitVec 3) (a d : BitVec 5) (s : State) : Out1 := .next (s.bankVec 0 v g a d)
/-- NMAX (R250, R253). -/
def execNmax (v : BitVec 4) (g : BitVec 3) (a d : BitVec 5) (s : State) : Out1 := .next (s.bankVec 1 v g a d)
/-- NRED (R250, R252, R253). -/
def execNred (v : BitVec 4) (g : BitVec 3) (a d : BitVec 5) (s : State) : Out1 := .next (s.bankVec 2 v g a d)
/-- NAXPY (R250, R253). -/
def execNaxpy (v : BitVec 4) (g : BitVec 3) (a d : BitVec 5) (s : State) : Out1 := .next (s.bankVec 3 v g a d)

/-- NFILL (R250, R253). -/
def execNfill (b : BitVec 5) (g : BitVec 3) (a d : BitVec 5) (s : State) : Out1 :=
  .next (s.withOperands ([a, b, d].map (fun k => s.wAddr k.toNat)) [] (fun s => s.withSpace (s.seg g.toNat).space (fun s =>
    s.needClean 4 0x10 a.toNat (fun s => s.needClean 4 0x13 d.toNat (fun s =>
      let w := (s.w d.toNat).val
      let off := (s.w a.toNat).val.toNat
      let rs := rowBytes w
      s.memIssue 4 g.toNat off rs rs [.b] [3, 4] [] (fun s addr =>
        if ctlBad 4 w then s.raise 4 0x06 w
        else s.sendCmd false 0 [] (s.newCmd 4 g.toNat addr off rs w [] 0 [] (s.w b.toNat))))))))

/-- Whether a control word of NAMO is malformed (R255). -/
def namoBad (w : Word) : Bool :=
  let op := (w.extractLsb' 0 4).toNat
  w.extractLsb' 4 60 != 0 || op == 7 || decide (10 ≤ op)

/-- NAMO (R255): its result fills wd after the command has executed. -/
def execNamo (l : BitVec 4) (b : BitVec 5) (g : BitVec 3) (a d : BitVec 5) (s : State) : Out1 :=
  .next (s.withOperands ([a, b, d].map (fun k => s.wAddr k.toNat)) [s.wAddr d.toNat] (fun s =>
    s.withSpace (s.seg g.toNat).space (fun s =>
      s.needClean 4 0x10 a.toNat (fun s => s.needClean 4 0x13 d.toNat (fun s =>
        let w := (s.w d.toNat).val
        let off := (s.w a.toNat).val.toNat
        let n := if w.extractLsb' 0 4 = 8 then 4 else 8
        s.memIssue 4 g.toNat off n n [.b] [3, 4] [s.wAddr d.toNat] (fun s addr =>
          if namoBad w then s.raise 4 0x06 w
          else s.sendCmd true l.toNat [s.wAddr d.toNat] (s.newCmd 5 g.toNat addr off n w [] 0 [] (s.w b.toNat))))))))

/-! ## Execution at the bank (R103, R254) -/

/-- A value widened exactly to FP32 at a bank agent's leaf (R103): FP16 and BF16 values are FP32 values. -/
def bankWiden (fmt bits : Nat) : Nat :=
  if fmt = 0 ∨ fmt = 3 then bits
  else (fp32.enc true false .rne ((bankFmt fmt).dec true false bits)).bits

/-- The element that NRED leaves: the rows' elements added in order and rounded once to the format (R103, R254). -/
def nredElem (fmt : Nat) (dest : Nat) (rows : List Nat) : Nat :=
  if 4 ≤ fmt then (dest + rows.sum) % 256 ^ bankElem fmt
  else
    let f := if fmt = 3 then fp64 else fp32
    let acc := rows.foldl (fun acc r =>
      (fpAdd f false .rne (f.dec true false acc) (f.dec true false (bankWiden fmt r))).bits) (bankWiden fmt dest)
    if fmt = 1 ∨ fmt = 2 then ((bankFmt fmt).enc true false .rne (fp32.dec true false acc)).bits else acc

/-- The element that a command leaves, from the destination's element, its operand element and the rows' (R254). -/
def bankElemNew (c : BankCmd) (dest src : Nat) (rows : List Nat) : Nat :=
  let n := bankElem c.fmt
  let f := bankFmt c.fmt
  let dec (b : Nat) : Val := f.dec true false b
  match c.fn with
  | 0 => if 4 ≤ c.fmt then (dest + src) % 256 ^ n else (fpAdd f false .rne (dec dest) (dec src)).bits
  | 1 =>
    if 4 ≤ c.fmt then (if (BitVec.ofNat (8 * n) dest).slt (BitVec.ofNat (8 * n) src) then src else dest)
    else (f.enc true false .rne ((dec dest).maxOf (dec src))).bits
  | 2 => nredElem c.fmt dest rows
  | 3 =>
    let alpha := fp32.dec true false c.alpha.toNat
    (fpFma f false .rne alpha (dec src) (dec dest)).bits
  | _ => c.val.val.toNat % 256 ^ n

/-- One element of a command: read, compute and write in one event (R206, R254); an element that reads poison leaves its
word unchanged (R422). `pa` and `rows` are the host or flat addresses of the destination and the rows, `lea` the command's. -/
def State.bankElemStep (s : State) (lea : Nat) (c : BankCmd) (pa : Nat) (rows : List Nat) (i : Nat) : State :=
  let n := bankElem c.fmt
  let a := pa + n * i
  let srcBad := c.srcBad.contains (n * i / 8)
  let rowBad := rows.any (fun r => s.mem.isBad (r + n * i))
  let valBad := c.fn = 4 && c.val.bad
  if c.fn ≠ 4 ∧ s.mem.isBad a then s
  else
    let bad := (c.fn ≠ 4 && c.fn ≠ 2 && srcBad) || rowBad || valBad
    let v := if bad then (s.undef (some lea) s.free).toNat
      else bankElemNew c (s.mem.read a n) (vBytes c.src (n * i) n) (rows.map (fun r => s.mem.read (r + n * i) n))
    { s with mem := s.mem.store a n v bad, free := s.free + 1 }

/-- A command of a lea executed over some elements of its row, at the addresses of its destination and rows (R254). -/
def State.bankRun (s : State) (lea : Nat) (c : BankCmd) (pa : Nat) (rows els : List Nat) : State :=
  els.foldl (fun s i => s.bankElemStep lea c pa rows i) s

/-- Those numbers of a list for which the next free bits say so; the others come later (R205; log 7). -/
def State.pick (s : State) (l : List Nat) : List Nat :=
  l.zipIdx.filterMap (fun p => if (Config.freeWord (s.free + p.2)).getLsbD 0 then none else some p.1)

/-- NAMO executed: the operation of R241 on its word, and the old value (R255). -/
def State.namoRun (s : State) (lea : Nat) (c : BankCmd) (pa : Nat) : State × PWord :=
  let p : Part := { addr := 0, pa := some pa, size := c.size, off := 0, data := c.val.val.toNat, dataBad := c.val.bad, dst := 0,
                    stage := .sent, res := 0, bad := false, since := 0, after := 0, walked := 0, root := 0 }
  match homeOp s.mem false (s.undef (some lea) s.free) (.amo c.op 0) pa p with
  | some (m, r) => ({ s with mem := m, free := s.free + 1 }, r)
  | none => (s, ⟨0, false⟩)

end Sys2Proof.Machine
end

