-- ==== Sys2Proof/Machine/VectorMem.lean ====
section
/-! DEFINITION. Vector loads and stores (R238-R240). -/

namespace Sys2Proof.Machine

/-- Bit i of a register's words, read little-endian. -/
def maskBit (m : Nat) (i : Nat) : Bool := m.testBit i

/-- A governing mask as read at issue: its bits, and whether one of its words is poisoned; a poisoned word's bits are undefined
(R7, R149, R422; log 12). -/
def State.maskVal (s : State) (m : Nat) : Nat × Bool :=
  if m = 0 then (2 ^ 256 - 1, false)
  else
    let l := s.mAddrs m
    let w (i : Nat) : Nat :=
      if s.mem.isBad (l.getD i 0) then (s.undef s.me.lea (s.free + i)).toNat else s.mem.read (l.getD i 0) 8
    (w 0 + 2 ^ 64 * w 1, s.anyBad l)

/-- How a vector memory instruction forms the offset of element e (R238). -/
inductive VForm where
  | unit
  | strided (i : Nat)
  | indexed (v : Nat)
  deriving DecidableEq, Repr

/-- The registers besides the base whose words form the addresses. -/
def State.vformAddrs (s : State) : VForm → List Nat
  | .unit => []
  | .strided i => [s.wAddr i]
  | .indexed v => s.vAddrs v

/-- The number of a poisoned register that would form an address (R404). -/
def State.vformBad (s : State) (f : VForm) : Option Nat :=
  match f with
  | .unit => none
  | .strided i => if (s.w i).bad then some i else none
  | .indexed v => if s.anyBad (s.vAddrs v) then some v else none

/-- The exact offset of element e (R238). -/
def State.vOffset (s : State) (b : Nat) (f : VForm) (e : Nat) : Int :=
  let base : Int := (s.w b).val.toNat
  match f with
  | .unit => base + 4 * e
  | .strided i => base + (s.w i).val.toInt * e
  | .indexed v => base + vBytes (s.v v) (4 * e) 4

/-- The first element whose checks of R39 and R228 fail: its cause and offset (R239). -/
def vCheck (g : Seg) (ext : Nat) (right : Right) (off : Nat → Int) : List Nat → Option (BitVec 8 × Int)
  | [] => none
  | e :: t =>
    let o := off e
    if o < 0 then some (0x21, o)
    else
      match segFail g ext o.toNat 4 [right] dataSpaces with
      | some c => some (c, o)
      | none => if (g.base.toNat + o.toNat) % 4 ≠ 0 then some (0x25, o) else vCheck g ext right off t

/-- The events of a vector access over its active elements in ascending order: one for each doubleword of VLD and VST where
both of its elements are active, else one for each element (R239). -/
def State.vParts (s : State) (g : Seg) (pair : Bool) (off : Nat → Nat) (act : Nat → Bool) (val : VReg) (bad : Nat → Bool) :
    List Part :=
  (List.range 64).flatMap (fun e =>
    let a := g.base.toNat + off e
    let one (n : Nat) : List Part := [s.newPart g a (off e) n ⟨BitVec.ofNat 64 (vBytes val (4 * e) n), bad (e / 2)⟩ (4 * e)]
    if !act e then []
    else if pair && e % 2 == 1 && act (e - 1) && (a - 4) % 8 == 0 then []
    else if pair && e % 2 == 0 && act (e + 1) && a % 8 == 0 then one 8
    else one 4)

/-- The flits of a vector access: one for each doubleword of VLD and VST that holds an active element, or for each active element
(R239, R322). -/
def State.vFlits (s : State) (m : Nat) (f : VForm) : Nat :=
  let mv := (s.maskVal m).1
  if f = .unit then ((List.range 32).filter (fun i => maskBit mv (2 * i) || maskBit mv (2 * i + 1))).length
  else ((List.range 64).filter (maskBit mv)).length

/-- A vector load or store (R238-R240). -/
def State.vmem (s : State) (rx : Option (BitVec 3)) (store : Bool) (look : Nat) (m : BitVec 3) (g : BitVec 3) (a : BitVec 5)
    (d : BitVec 4) (f : VForm) : State :=
  let n := withPrefix rx 4
  let vd := s.vAddrs d.toNat
  let mk := if m = 0 then [] else s.mAddrs m.toNat
  let dst := if store then [] else vd
  s.withOperands ([s.wAddr a.toNat] ++ s.vformAddrs f ++ mk ++ (if store ∨ m ≠ 0 then vd else [])) dst (fun s =>
    s.withLimit (kindOf rx) (fun s => s.withSpace (s.seg g.toNat).space (fun s => s.withFlits (s.seg g.toNat).space (s.vFlits m.toNat f) (fun s =>
      s.needClean n 0x10 a.toNat (fun s =>
        match s.vformBad f with
        | some k => s.raise n 0x10 (BitVec.ofNat 64 k)
        | none =>
          let sg := s.seg g.toNat
          let (mv, mbad) := s.maskVal m.toNat
          let act (e : Nat) : Bool := maskBit mv e
          let els := (List.range 64).filter act
          let off := s.vOffset a.toNat f
          let base := (s.w a.toNat).val
          match vCheck sg (s.extent sg.space) (if store then .w else .r) off els with
          | some (c, o) => s.raise n c (wordOfInt o)
          | none =>
            if f = .unit ∧ base.toNat % 8 ≠ 0 then s.raise n 0x25 base
            else
              match els.find? (fun e => s.overlaps sg.space (sg.base.toNat + (off e).toNat) 4 dst) with
              | some e => s.raise n 0x26 (wordOfInt (off e))
              | none =>
                let bad (i : Nat) : Bool := mbad || s.mem.isBad (vd.getD i 0)
                let parts := s.vParts sg (f == .unit) (fun e => (off e).toNat) act (s.v d.toNat) bad
                let s1 := { s with free := s.free + 2 }
                let x := s1.newAccess g.toNat base.toNat (if store then .store else .load false) parts (scopeOf rx)
                let o := s1.newOut n (!store) look dst (.access { x with taint := mbad })
                ((s1.addOut o).markPending dst).issue n)))))

/-- VLD (R238). -/
def execVld (rx : Option (BitVec 3)) (l : BitVec 4) (m g : BitVec 3) (a : BitVec 5) (d : BitVec 4) (s : State) : Out1 :=
  .next (s.vmem rx false l.toNat m g a d .unit)
/-- VLDS (R238). -/
def execVlds (rx : Option (BitVec 3)) (l i : BitVec 4) (m g : BitVec 3) (a : BitVec 5) (d : BitVec 4) (s : State) : Out1 :=
  .next (s.vmem rx false l.toNat m g a d (.strided i.toNat))
/-- VGATH (R238). -/
def execVgath (rx : Option (BitVec 3)) (l i : BitVec 4) (m g : BitVec 3) (a : BitVec 5) (d : BitVec 4) (s : State) : Out1 :=
  .next (s.vmem rx false l.toNat m g a d (.indexed i.toNat))
/-- VST (R238). -/
def execVst (rx : Option (BitVec 3)) (m g : BitVec 3) (a : BitVec 5) (d : BitVec 4) (s : State) : Out1 :=
  .next (s.vmem rx true 0 m g a d .unit)
/-- VSTS (R238). -/
def execVsts (rx : Option (BitVec 3)) (i : BitVec 4) (m g : BitVec 3) (a : BitVec 5) (d : BitVec 4) (s : State) : Out1 :=
  .next (s.vmem rx true 0 m g a d (.strided i.toNat))
/-- VSCAT (R238). -/
def execVscat (rx : Option (BitVec 3)) (i : BitVec 4) (m g : BitVec 3) (a : BitVec 5) (d : BitVec 4) (s : State) : Out1 :=
  .next (s.vmem rx true 0 m g a d (.indexed i.toNat))

end Sys2Proof.Machine
end

