-- ==== Sys2Proof/Machine/AccessEvents.lean ====
section
/-! DEFINITION. What becomes of accesses after issue: injection (R322, R324), translation (R386, R387), service (R326),
performance at the home (R209), remote arrival and completion (R219, R246, R247), bank commands (R215, R254), fills of
destinations (R26) and of the instruction cache (R437). An event whose condition does not hold changes nothing (log 2). -/

namespace Sys2Proof.Machine

/-! ## Routes between dies -/

/-- The column and row of a Cove die in the module's 4 × 2 arrangement (R371). -/
def dieXY (d : Nat) : Nat × Nat := (d % 4, d / 4)

/-- The dies passed from one die along a row, n steps towards a column (log 17). -/
def dieRun (row : Nat) : Nat → Nat → Nat → List Nat
  | 0, x, _ => [4 * row + x]
  | n + 1, x, t => (4 * row + x) :: dieRun row n (if x < t then x + 1 else x - 1) t

/-- The dies that a route passes, columns first (R324; log 17). -/
def dieRoute (a b : Nat) : List Nat :=
  let (x, y) := dieXY a
  let (u, v) := dieXY b
  dieRun y ((u - x) + (x - u)) x u ++ (if y = v then [] else [4 * v + u])

/-- The boundaries crossed on a route, as a pair of dies each. -/
def boundaries : List Nat → List Nat
  | a :: b :: t => (8 * min a b + max a b) :: boundaries (b :: t)
  | _ => []

/-- Whether a replay holds some boundary between two dies now (R223). -/
def State.routeHeld (s : State) (a b : Nat) : Bool :=
  (boundaries (dieRoute a b)).any (fun l => s.replays.any (fun r => r.1 == l && decide (s.now < r.2)))

/-- Whether a replay that ends in a slot holds a crossing that began in slot `sent`: the link was held in some slot of it (R223). -/
def replayMeets (sent stop : Nat) : Bool := decide (sent < stop ∧ stop < sent + 12 + 4096)

/-- The slot in which something crosses a boundary that would cross it in slot `sent`: each replay that holds it delays it by one
tide (R223). -/
def State.replayed (s : State) (sent l : Nat) : Nat :=
  s.replays.foldl (fun t r => if r.1 = l ∧ replayMeets t r.2 then t + 4096 else t) sent

/-- Whether something sent in a slot from one die has come to another by now: 12 slots for the nearest crossing at least, and a tide
more for every replay in its way (R223, R226, R321; log 75). -/
def State.crossed (s : State) (sent a b : Nat) : Bool :=
  decide ((boundaries (dieRoute a b)).foldl s.replayed sent + (if a = b then 0 else 12) ≤ s.now)

/-- The lea whose flits have a core's slots of the request planes: that of its slice, and in a handover the outgoing one's until the
first slot is the incoming one's (R374, R378; log 103). -/
def Core.flitLea (c : Core) : Option Nat := match c.handover with
  | some h => if h.restored.isEmpty then h.out.orElse (fun _ => some h.into) else some h.into
  | none => c.lea

/-- Whether a core may inject a lea's flit on the request planes in this slot (R322, R374). -/
def State.mayInject (s : State) (core lea : Nat) : Bool :=
  s.now % 4 == core % 4 && decide (16 ≤ s.tideSlot) && s.dieUp (dieOf core) && (s.core core).flitLea == some lea

/-- Whether a flit of a core left on a request plane in this slot (R321, R322). -/
def State.planeTaken (s : State) (core : Nat) (plane : Bool) : Bool :=
  s.outs.any (fun o => o.core == core && Config.requestPlane o.id == plane && (match o.work with
    | .access x => x.parts.any (fun p => p.stage == .sent && p.since == s.now)
    | .bank c => c.inQueue && c.parts.any (fun p => p.since == s.now)
    | _ => false))

/-! ## HBM service (R326, R427) -/

/-- The pseudo-channel of a host physical address: 128 a die (R249). -/
def channelOf (pa : Nat) : Nat := 128 * (pa / hbmBytes) + pa / 512 % 128

/-- The pseudo-channel of a stack of 64 that serves an index of a die: its own, or where that is disabled the next of the stack
that is not (R427; log 82). -/
def servedBy (off : List (Nat × Nat)) (die n : Nat) : Nat :=
  let stack := 64 * (n / 64)
  (((List.range 64).map (fun i => stack + (n + i) % 64)).find? (fun k => !off.contains (die, k))).getD n

/-- Whether an index of pseudo-channels has its channel in this tide: the indices that share a channel take turns by tides, half of
its service slots each where there are two (R427; log 82). -/
def State.channelTurn (s : State) (ch : Nat) : Bool :=
  let off := s.head.disabledChannels
  if off.isEmpty then true
  else
    let d := ch / 128
    let n := ch % 128
    let l := ((List.range 64).map (fun i => 64 * (n / 64) + i)).filter (fun k => servedBy off d k == servedBy off d n)
    l.idxOf n == s.tide % l.length

/-- Whether a service slot of a lea at a channel begins in this slot (R326, R427). -/
def State.serviceSlot (s : State) (lea ch : Nat) : Bool :=
  match s.lea lea with
  | some l => (keyGet [] l.svc ch).any (fun j => 64 * j / 25 == s.tideSlot) && s.channelTurn ch
  | none => false

/-- Whether the service slot that begins now at a channel is taken (R326). -/
def State.serviceTaken (s : State) (ch : Nat) : Bool := s.served.contains ch

/-- Whether a lea has a service slot of a channel that begins now and is not taken (R326). -/
def State.serviceFree (s : State) (lea ch : Nat) : Bool := s.serviceSlot lea ch && !s.serviceTaken ch

/-- The state with the service slot that begins now at a channel taken (R326). -/
def State.takeService (s : State) (ch : Nat) : State := { s with served := ch :: s.served }

/-! ## Translation of an access (R386-R389) -/

/-- The rights that an operation needs of translation (R386). -/
def MemOp.needs : MemOp → List Right
  | .load _ => [.r]
  | .store => [.w]
  | .amo _ _ => [.r, .w]
  | .lde => [.r, .w]
  | .ldf | .feq => [.r]
  | .stf | .stff | .feclr => [.w]

/-- The rights that row i of a bank command needs: a destination that is read and written, a filled one, or a row (R386). -/
def BankCmd.needs (c : BankCmd) (i : Nat) : List Right :=
  if i = 0 then (if c.fn = 4 then [.w, .b] else [.r, .w, .b]) else [.r, .b]

/-- The events of an item, with their space, die and needs. -/
def Out.parts (o : Out) : List Part :=
  match o.work with
  | .access x => x.parts
  | .bank c => c.parts
  | _ => []

/-- Whether an item's events are behind translation (R383). -/
def Out.paged (o : Out) : Bool :=
  match o.work with
  | .access x => x.space == 4 || x.space == 5
  | .bank c => c.space == 4
  | _ => false

/-- The die whose space an item's events are in. -/
def Out.die (o : Out) : Nat :=
  match o.work with
  | .access x => x.die
  | .bank c => c.die
  | _ => 0

/-- The rights that event i of an item needs. -/
def Out.needs (o : Out) (i : Nat) : List Right :=
  match o.work with
  | .access x => x.op.needs
  | .bank c => c.needs i
  | _ => []

/-- An item with one of its events changed. -/
def Out.setPart (o : Out) (i : Nat) (f : Part → Part) : Out :=
  match o.work with
  | .access x => { o with work := .access (x.modPart i f) }
  | .bank c => { o with work := .bank { c with parts := listMod c.parts i f } }
  | _ => o

/-- An item with a function over its events. -/
def Out.mapParts (o : Out) (f : Part → Part) : Out :=
  match o.work with
  | .access x => { o with work := .access { x with parts := x.parts.map f } }
  | .bank c => { o with work := .bank { c with parts := c.parts.map f } }
  | _ => o

/-- Whether event i of an item may leave its core now (R207-R214). -/
def State.partMayGo (s : State) (o : Out) (i : Nat) (p : Part) : Bool :=
  match o.work with
  | .access x => s.mayGo o x i p
  | _ => true

/-- The events of an item that a page fault of one of them holds: those on its page that have not left (R405, R434). `after` is the
number before which the accesses were issued that they hold behind them (R212). -/
def Out.holdPage (o : Out) (page frame after : Nat) : Out :=
  o.mapParts (fun p =>
    if p.stage = .queued ∧ p.pa = none ∧ p.addr / 65536 = page then { p with stage := .pageFault frame, after := after, walked := 0 } else p)

/-- A thread's access is held by a page fault, which is logged once for the access and the frame (R405, R434). -/
def State.outPage (s : State) (o : Out) (page frame : Nat) : State :=
  let s1 := (s.modOut o.id (fun o => o.holdPage page frame s.nextId)).parkHeld o
  if o.parts.any (fun p => p.stage == .pageFault frame) then s1 else s1.logPage o.lea frame

/-- Whether an earlier event of an item has its page walked for: one walk serves all of them (R434). -/
def Out.walksBefore (o : Out) (i : Nat) (p : Part) : Bool :=
  (o.parts.take i).any (fun q => q.stage == .queued && q.pa.isNone && q.addr / 65536 == p.addr / 65536)

/-- Whether an event is at its pseudo-channel and waits for its lea's next service slot (R326). -/
def Access.atChannel (x : Access) (p : Part) : Bool := (x.space == 4 && p.stage == .sent) || (x.space == 5 && p.stage == .arrived)

/-- Whether event i of an item is walked for: it misses in the translation buffer, and no walk for an earlier one serves it too (R386,
R434). -/
def State.walks (s : State) (o : Out) (i : Nat) (p : Part) : Bool :=
  o.paged && p.stage == .queued && p.pa.isNone && s.partMayGo o i p
    && ((s.core o.core).gtbFind o.lea o.die p.addr (o.needs i)).isNone && !o.walksBefore i p

/-- The table in which an event's walk began, or begins now (R383). -/
def State.walkRoot (s : State) (o : Out) (p : Part) : Nat := if p.walked = 0 then s.rootOf o.lea o.die else p.root

/-- The reads of an event's walk (R386, R390). -/
def State.partReads (s : State) (o : Out) (p : Part) : List (Option Nat) := s.walkReads o.lea o.die p.addr (s.walkRoot o p)

/-- The slot in which the read before of an event's walk is over: the next one comes to its place in it (R390). -/
def State.walkAt (s : State) (o : Out) (p : Part) : Nat :=
  if p.walked = 0 then s.now else p.since + readTime ((s.partReads o p).getD (p.walked - 1) none)

/-- The next read of an event's walk begins, the first at the table that S1ROOT names (R383, R390). -/
def State.beginRead (s : State) (id i root : Nat) : State :=
  s.modOut id (fun o => o.setPart i (fun p => { p with walked := p.walked + 1, root := root, since := s.now }))

/-! ## The order of arrival at a pseudo-channel (R326, R328) -/

/-- The accesses of a lea that wait for a service slot of a pseudo-channel, each as the slot in which it came there and two numbers that
part those of one slot: accesses of threads and reads of their walks by issue, and then fills by core (R326, R390, R437; log 48). -/
def State.channelQueue (s : State) (lea ch : Nat) : List (Nat × Nat × Nat) :=
  let ofOut (o : Out) : List (Nat × Nat × Nat) := (List.range o.parts.length).filterMap (fun i => match o.parts[i]? with
    | none => none
    | some p =>
      if o.access.any (fun x => x.atChannel p) then (if p.pa.any (fun a => channelOf a == ch) then some (p.since, o.id, i) else none)
      else if s.walks o i p && decide (s.walkAt o p ≤ s.now) then (match (s.partReads o p)[p.walked]? with
        | some (some h) => if channelOf h = ch then some (s.walkAt o p, o.id, i) else none
        | _ => none)
      else none)
  let ofCore (e : Nat × Core) : List (Nat × Nat × Nat) := match e.2.fills.find? (fun f => f.lea == lea) with
    | none => []
    | some f =>
      if f.began.isSome || !s.dieUp (dieOf e.1) then []
      else match s.lookUp e.1 lea (dieOf e.1) (64 * f.line) [.x] with
        | .ok g => if channelOf (g.host (64 * f.line)) = ch then [(f.since, s.nextId + e.1, 0)] else []
        | _ => []
  (s.outs.filter (fun o => o.lea == lea)).flatMap ofOut ++ s.cores.flatMap ofCore

/-- Whether one of two that wait at a pseudo-channel came before the other. -/
def cameBefore (x y : Nat × Nat × Nat) : Bool :=
  decide (x.1 < y.1 ∨ (x.1 = y.1 ∧ (x.2.1 < y.2.1 ∨ (x.2.1 = y.2.1 ∧ x.2.2 < y.2.2))))

/-- Whether an access of a lea may begin in the service slot of now: the slot is the lea's and not taken, and no access of the lea came
there before it (R326). -/
def State.mayServe (s : State) (lea ch : Nat) (me : Nat × Nat × Nat) : Bool :=
  s.serviceFree lea ch && !(s.channelQueue lea ch).any (fun x => cameBefore x me)

/-- Whether a bank agent or a unit of a core may use the service slot of now: after the accesses that wait (R326; log 48). -/
def State.spareService (s : State) (lea ch : Nat) : Bool := s.serviceFree lea ch && (s.channelQueue lea ch).isEmpty

/-! ## The accesses of HBM that units make (R326) -/

/-- The accesses of 64 bytes of HBM that n bytes at a flat address take; none for bytes of local store or commons (R326). -/
def hbmUnits (a n : Nat) : List Nat :=
  if lsOrigin ≤ a ∨ n = 0 then [] else (List.range ((a + n - 1) / 64 - a / 64 + 1)).map (fun i => 64 * (a / 64 + i))

/-- An access of a unit begins, if it has not begun and a service slot of its lea is free for it (R326). -/
def State.beginUnit (s : State) (lea : Nat) (flow : List (Nat × Nat)) (a : Nat) : State × List (Nat × Nat) :=
  if flow.any (fun f => f.1 == a) || !s.spareService lea (channelOf a) then (s, flow)
  else (s.takeService (channelOf a), (a, s.now) :: flow)

/-- Those accesses of a unit begun that have service slots now, beside the ones that have begun (R326). -/
def State.beginUnits (s : State) (lea : Nat) (flow : List (Nat × Nat)) (l : List Nat) : State × List (Nat × Nat) :=
  l.foldl (fun p a => p.1.beginUnit lea p.2 a) (s, flow)

/-- Whether the accesses that n bytes at a flat address take began 96 slots ago or more: they are served (R326). -/
def unitsServed (now : Nat) (flow : List (Nat × Nat)) (a n : Nat) : Bool :=
  (hbmUnits a n).all (fun u => flow.any (fun f => f.1 == u && decide (f.2 + 96 ≤ now)))

/-- TRANSLATION_WALK_DONE (R326, R386-R390, R405): a walk for an event that misses in the translation buffer makes its next read once
the one before is over, of stage 1 in a service slot of its lea, or ends with the last (log 105). -/
def State.walkDone (s : State) (id i : Nat) : State :=
  match s.out id with
  | none => s
  | some o =>
    match o.parts[i]? with
    | none => s
    | some p =>
      let root := s.walkRoot o p
      if !s.walks o i p || decide (s.now < s.walkAt o p) then s
      else match (s.partReads o p)[p.walked]? with
      | some none => s.beginRead id i root
      | some (some h) =>
        if s.mayServe o.lea (channelOf h) (s.walkAt o p, id, i) then (s.takeService (channelOf h)).beginRead id i root else s
      | none =>
        match s.translateFrom o.lea o.die p.addr (o.needs i) root with
        | .ok e =>
          (s.modCore o.core (fun c => c.gtbUse e)).modOut id (fun o => o.setPart i (fun p => { p with pa := some (e.host p.addr) }))
        | .fault c => (s.modOut id (fun o => o.setPart i (fun p => { p with stage := .fault c, after := s.nextId, walked := 0 }))).outFault o c p.off
        | .page f => s.outPage o (p.addr / 65536) f

/-- The address of an event: known, or given by a hit in the translation buffer (R389). -/
def State.placePart (s : State) (o : Out) (i : Nat) (p : Part) : Option (Nat × State) :=
  match p.pa with
  | some a => some (a, s)
  | none =>
    if !o.paged then none
    else
      match (s.core o.core).gtbFind o.lea o.die p.addr (o.needs i) with
      | some e =>
        let a := e.host p.addr
        some (a, (s.modCore o.core (fun c => c.gtbUse e)).modOut o.id (fun o => o.setPart i (fun p => { p with pa := some a })))
      | none => none

/-! ## Injection (R214, R215, R256, R322) -/

/-- The entries of a bank's queue that a lea may hold (R256, R327). -/
def State.bankShare (s : State) (bank lea : Nat) : Nat :=
  if bank < 4096 then 16
  else
    match s.lea lea with
    | some l =>
      let b := (keyGet [] l.svc (bank - 4096)).length
      if b = 0 then 0 else max 1 (64 * b / 1500)
    | none => 0

/-- The number of the queue of a bank that serves a lea: one for a commons bank, which is one lea's; one for each lea at a
pseudo-channel, since its entries are divided (R256, R327, R374). -/
def queueOf (bank lea : Nat) : Nat := if bank < 4096 then bank else bank + 8192 * (lea + 1)

/-- The commands of a lea in a bank's queue. -/
def State.bankHeld (s : State) (bank lea : Nat) : Nat := (keyGet [] s.banks (queueOf bank lea)).length

/-- Whether an earlier port transfer of the thread still touches a word of a bank (R203, R214). -/
def State.portAtBank (s : State) (e : Out) (bank : Nat) : Bool :=
  match (s.core e.core).bay.portRange e.id with
  | some (space, _, a, left) => (space == 3 || space == 4) &&
      left.any (fun k => (pageChunks (a + k.1) k.2 (k.2 / 65536 + 2)).any (fun c =>
        (List.range (c.2 / 512 + 2)).any (fun i => s.bankOf e.core (some e.lea) space (min (c.1 + 512 * i) (c.1 + c.2 - 1)) == bank)))
  | none => false

/-- Whether an event of an access goes to a bank. -/
def State.partAtBank (s : State) (o : Out) (x : Access) (p : Part) (bank : Nat) : Bool :=
  (x.space == 3 || x.space == 4) && s.bankOf o.core (some o.lea) x.space p.addr == bank

/-- Whether an item is done as far as a thread that has left its slot and is back is concerned: its accesses are performed (R222). -/
def Out.leftDone (o : Out) : Bool :=
  match o.work with
  | .access x => x.allDone
  | .port => false
  | .rsem => false
  | _ => true

/-- Whether what a thread left outstanding in its slot is performed, for what comes from an instruction of number `id` and of issue
`born` (R222). -/
def State.leftDone (s : State) (tid id born : Nat) : Bool :=
  s.outs.all (fun e => e.tid != tid || decide (id ≤ e.id) || !e.left.any (fun n => decide (n < born)) || e.leftDone)

/-- Whether a command may enter its bank's queue (R207, R214, R215, R222, R256). -/
def State.cmdMayEnter (s : State) (o : Out) (c : BankCmd) : Bool :=
  decide (s.bankHeld c.bank o.lea < s.bankShare c.bank o.lea) && s.leftDone o.tid o.id o.born &&
  (s.outs.filter (fun e => e.tid == o.tid && decide (e.id < o.id))).all (fun e =>
    match e.work with
    | .access y => !(y.acq && !y.allDone) && y.parts.all (fun q => q.stage == .performed || !s.partAtBank e y q c.bank)
    | .bank b => b.inQueue || b.bank != c.bank
    | .port => !s.portAtBank e c.bank
    | _ => true)

/-- The rows of a command placed one after another, where each is known or hits. -/
def State.placeRows (s : State) (o : Out) : Nat → List Part → Option State
  | _, [] => some s
  | i, p :: t =>
    match s.placePart o i p with
    | some (_, s1) => s1.placeRows o (i + 1) t
    | none => none

/-- FLIT_INJECT (R214, R256, R322): an event's flit, or a command, leaves its core's injection queue, which holds 16, in a slot
granted to it. -/
def State.flitInject (s : State) (id i : Nat) : State :=
  match s.out id with
  | none => s
  | some o =>
    if !s.mayInject o.core o.lea || s.planeTaken o.core (Config.requestPlane id) || decide (16 ≤ s.flitsBefore o i) then s
    else
      match o.work with
      | .access x =>
        match x.parts[i]? with
        | none => s
        | some p =>
          if p.stage != .queued || !(x.space == 3 || x.space == 4 || x.space == 5) || !s.mayGo o x i p then s
          else
            match s.placePart o i p with
            | none => s
            | some (_, s1) => s1.modOut id (fun o => o.setPart i (fun p => { p with stage := .sent, since := s.now }))
      | .bank c =>
        if c.inQueue || !s.cmdMayEnter o c then s
        else
          match s.placeRows o 0 c.parts with
          | none => s
          | some s1 =>
            let s2 := s1.modOut id (fun o => match o.work with
              | .bank b => { o with work := .bank { b with inQueue := true, parts := b.parts.map (fun p => { p with since := s.now }) } }
              | _ => o)
            let q := queueOf c.bank o.lea
            { s2 with banks := keySet s2.banks q (keyGet [] s2.banks q ++ [id]) }
      | _ => s

/-- FLIT_INJECT (R322). -/
def execFlitInject (id part : Nat) (s : State) : Out1 := .next (s.flitInject id part)

/-- TRANSLATION_WALK_DONE (R386). -/
def execTranslationWalkDone (id part : Nat) (s : State) : Out1 := .next (s.walkDone id part)

/-! ## What units write (R205, R206, R220, R306) -/

/-- n bytes within a doubleword that a unit writes: a register word of a resident thread becomes full, last written by another
party (R206, R230). -/
def State.unitStore (s : State) (a n v : Nat) (bad : Bool) : State :=
  let w := dwordOf a
  let s1 := { s with mem := (s.mem.store a n v bad).noteWriter none w }
  if s.isRegWord w && !s.mem.isFull w then State.touched { s1 with mem := s1.mem.setFe w none } w else s1

/-- A list of bytes as a little-endian number. -/
def bytesVal : List (Byte × Bool) → Nat
  | [] => 0
  | (b, _) :: t => b.toNat + 256 * bytesVal t

/-- Bytes written at flat addresses in turn: whole doublewords where they are covered, single bytes elsewhere (R205, R422). -/
def State.unitWrites (s : State) : Nat → List (Nat × Byte × Bool) → State
  | 0, _ => s
  | _, [] => s
  | k + 1, (x, v) :: t =>
    let l := ((x, v) :: t).take 8
    if x % 8 = 0 ∧ l.map (fun e => e.1) = (List.range 8).map (fun i => x + i) then
      (s.unitStore x 8 (bytesVal (l.map (fun e => e.2))) (l.any (fun e => e.2.2))).unitWrites k (t.drop 7)
    else (s.unitStore x 1 v.1.toNat v.2).unitWrites k t

/-- The flat addresses of bytes written into a buffer from an offset, where each has its place. -/
def State.bufBytes (s : State) (core : Nat) (b : DBuf) (o : Nat) (l : List (Byte × Bool)) : List (Nat × Byte × Bool) :=
  l.zipIdx.filterMap (fun e => match s.bufPlace core b (o + e.2) [.w] with
    | .at x => some (x, e.1)
    | _ => none)

/-- Bytes written into a buffer from an offset (R205, R422). -/
def State.bufWrite (s : State) (core : Nat) (b : DBuf) (o : Nat) (l : List (Byte × Bool)) : State :=
  s.unitWrites l.length (s.bufBytes core b o l)

/-- The bytes that the engine of a core's context has delivered, in memory (R220, R306; log 50). -/
def State.flushLate (s : State) (core : Nat) : State :=
  let l := (s.dor core).late
  if l.isEmpty then s else (s.modDor core (fun d => { d with late := [] })).unitWrites l.length l

/-- Whatever the engines of a lea's contexts have delivered, in memory: before a translation that it used is dropped (R389, R417;
log 50). -/
def State.flushLea (s : State) (lea : Nat) : State := match s.lea lea with
  | some l => (l.cores.filter (fun c => (s.core c).lea == some lea)).foldl State.flushLate s
  | none => s

/-- Before an access of a lea's thread on a core to what a collective may name: whatever the engines have delivered in the runs of groups
of which the core is a member is in memory (R220; log 50). -/
def State.flushFor (s : State) (core lea : Nat) : State :=
  (s.cores.filter (fun e => !e.2.dorent.late.isEmpty && e.2.lea == some lea && e.2.dorent.mine.any (fun r => r.list.contains core))).foldl
    (fun s e => s.flushLate e.1) s

/-! ## At the home (R209, R236, R326) -/

/-- Whether an operation is one of R235 that can wait for its word: it holds its thread Parked meanwhile (R236). -/
def MemOp.isFe : MemOp → Bool
  | .lde | .ldf | .stf | .stff | .feclr => true
  | _ => false

/-- Whether an item is a full/empty operation that waits at its home (R236). -/
def Out.waitsHome (o : Out) : Bool := o.access.any (fun x => x.op.isFe && x.parts.any (fun p => match p.stage with
  | .waiting _ => true
  | _ => false))

/-- An event of an access performed at its home now, or left waiting there for its word (R26, R209, R220, R236). -/
def State.performPart (s : State) (o : Out) (x : Access) (i : Nat) (a : Nat) : State :=
  let s := s.flushFor o.core o.lea
  match s.tryPart o.id i with
  | some s1 => s1.touched (dwordOf a)
  | none =>
    let s1 := { s with nextId := s.nextId + 1 }
    let s2 := s1.modOut o.id (fun o => o.modPart i (fun p => { p with stage := .waiting s.nextId }))
    if x.op.isFe then s2.modSlot o.core o.slot (fun y =>
      if y.tid = o.tid ∧ (y.run = .ready ∨ y.run = .forfeiting) then { y with run := .parked, wait := .home o.id } else y)
    else s2

/-- Whether the local store that an access names holds another lea's image now, or none (R380, R381). -/
def State.localAway (s : State) (o : Out) (space : Nat) : Bool :=
  (space == 1 && s.isLate o) || ((space == 2 || space == 6) && (s.core o.core).lea != some o.lea)

/-- ACCESS_PERFORMED_AT_HOME (R209): an event reaches its home in local store, commons or the message window. -/
def State.accessAtHome (s : State) (id i : Nat) : State :=
  match s.out id with
  | none => s
  | some o =>
    match o.access with
    | none => s
    | some x =>
      match x.parts[i]? with
      | none => s
      | some p =>
        if !s.dieUp (dieOf o.core) || s.localAway o x.space then s
        else if x.space = 6 then
          (if p.stage = .queued ∧ s.mayGo o x i p then s.performWindow o x i p else s)
        else
          match p.pa with
          | none => s
          | some a =>
            if (x.space = 3 ∧ p.stage = .sent ∧ p.since < s.now) ∨ ((x.space = 1 ∨ x.space = 2) ∧ p.stage = .queued ∧ s.mayGo o x i p) then
              s.performPart o x i a
            else s

/-- ACCESS_PERFORMED_AT_HOME (R209). -/
def execAccessPerformedAtHome (id part : Nat) (s : State) : Out1 := .next (s.accessAtHome id part)

/-- HBM_SERVICE_START (R326): an access at a pseudo-channel begins in its lea's service slot, in order of arrival. -/
def State.hbmStart (s : State) (id i : Nat) : State :=
  match s.out id with
  | none => s
  | some o =>
    match o.access with
    | none => s
    | some x =>
      match x.parts[i]? with
      | none => s
      | some p =>
        match p.pa with
        | none => s
        | some a =>
          if x.atChannel p ∧ s.dieUp (a / hbmBytes) ∧ s.mayServe o.lea (channelOf a) (p.since, id, i) then
            (s.takeService (channelOf a)).modOut id (fun o => o.modPart i (fun p => { p with stage := .service s.now }))
          else s

/-- HBM_SERVICE_START (R326). -/
def execHbmServiceStart (id part : Nat) (s : State) : Out1 := .next (s.hbmStart id part)

/-- HBM_SERVICE_DONE (R326): 96 slots after it began, the access has been performed. -/
def State.hbmDone (s : State) (id i : Nat) : State :=
  match s.out id with
  | none => s
  | some o =>
    match o.access with
    | none => s
    | some x =>
      match x.parts[i]? with
      | none => s
      | some p =>
        match p.stage, p.pa with
        | .service t, some a => if t + 96 ≤ s.now then s.performPart o x i a else s
        | _, _ => s

/-- HBM_SERVICE_DONE (R326). -/
def execHbmServiceDone (id part : Nat) (s : State) : Out1 := .next (s.hbmDone id part)

/-- STORE_ACKNOWLEDGE (R209): a performed store is complete for its thread. -/
def execStoreAcknowledge (id : Nat) (s : State) : Out1 :=
  .next (match s.out id with
    | some o => (match o.access with
      | some x => if x.op.isStore && !x.remote && x.allDone then s.dropOut id else s
      | none => s)
    | none => s)

/-- RESULT_FILL (R26, R62): a result arrives and fills its words. -/
def State.resultFill (s : State) (id : Nat) : State :=
  match s.out id with
  | none => s
  | some o =>
    if s.isLate o then s
    else
      match o.work with
      | .compute vals fl due => if due ≤ s.cycle o.core then s.fillOut o vals (fl.getD Flags.none) else s
      | .access x => if !x.op.isStore && !x.remote && x.allDone then s.fillOut o (x.results o.old) Flags.none else s
      | _ => s

/-- RESULT_FILL (R26). -/
def execResultFill (id : Nat) (s : State) : Out1 := .next (s.resultFill id)

/-! ## Remote accesses (R219, R246, R247, R425) -/

/-- A die with a lea's discarded write logged (R425). -/
def State.logDiscard (s : State) (d lea : Nat) (a : Option Nat) : State :=
  { s with dies := listMod s.dies d (fun x => { x with discarded := x.discarded ++ [(lea, a)] }) }

/-- A remote access at a die in reset meets its poison responder (R425). -/
def State.responder (s : State) (o : Out) (x : Access) (a : Nat) : State :=
  let s1 := { s with free := s.free + 1 }
  let s2 := s1.modOut o.id (fun o => o.modPart 0 (fun p => { p.done ⟨s.undef (some o.lea) s.free, true⟩ with since := s.now }))
  match x.op with
  | .store => s2.logDiscard x.die o.lea (some a)
  | _ => s2

/-- REMOTE_ACCESS_ARRIVE (R246). -/
def execRemoteAccessArrive (id : Nat) (s : State) : Out1 :=
  .next (match s.out id with
    | none => s
    | some o =>
      match o.access with
      | none => s
      | some x =>
        match x.parts[0]? with
        | none => s
        | some p =>
          match p.pa with
          | none => s
          | some a =>
            if !x.remote || p.stage != .sent || !s.crossed p.since (dieOf o.core) x.die then s
            else if !s.dieUp x.die then s.responder o x a
            else s.modOut id (fun o => o.modPart 0 (fun p => { p with stage := .arrived, since := s.now })))

/-- The state without a message. -/
def State.dropMail (s : State) (id : Nat) : State := { s with mail := s.mail.filter (fun m => m.id != id) }

/-- A message by its number. -/
def State.mailOf (s : State) (id : Nat) : Option Mail := s.mail.find? (fun m => m.id == id)

/-- Whether a message is one of a stream whose members arrive in the order sent: a deposit or an active message (R218). -/
def Msg.streamed : Msg → Bool
  | .deposit _ _ _ _ => true
  | .am _ _ _ _ => true
  | _ => false

/-- Whether a message is a packet for Headland, which dispatches it on any die (R318, R352). -/
def Msg.toHead : Msg → Bool
  | .packet _ _ => true
  | _ => false

/-- Whether a message has crossed to its target: injected, with no replay in its way, and after those of its stream that its
sender sent before; a packet takes the 12 slots of a crossing to Headland (R218, R223, R226, R324; log 75). -/
def State.arrives (s : State) (m : Mail) : Bool :=
  (match m.sent with
    | some t => s.crossed t (dieOf m.src) (dieOf m.dst) && (!m.msg.toHead || decide (t + 12 ≤ s.now))
    | none => false)
    && !(m.msg.streamed && s.mail.any (fun e =>
      decide (e.id < m.id) && e.msg.streamed && e.src == m.src && e.srcTid == m.srcTid && e.dst == m.dst))

/-- A message answered: the answer travels back with the same number (R324). -/
def State.answer (s : State) (m : Mail) (a : Msg) : State :=
  (s.dropMail m.id).post { m with src := m.dst, dst := m.src, sent := none, msg := a }

/-- REMOTE_COMPLETE (R219, R246-R248): a remote access or an RSEM is complete at its thread. -/
def execRemoteComplete (id : Nat) (s : State) : Out1 :=
  .next (match s.out id with
    | none => s
    | some o =>
      match o.work with
      | .access x =>
        if !x.remote || !x.allDone || s.isLate o || !x.parts.all (fun p => s.crossed p.since x.die (dieOf o.core)) then s
        else
          let s1 := s.fillOut o (x.results o.old) Flags.none
          match x.sem with
          | some k => s1.addSem o.core o.lea k 8
          | none => s1
      | .rsem =>
        match s.mailOf id with
        | some m => if s.arrives m && m.msg == .rsemAck id then (s.dropMail id).dropOut id else s
        | none => s
      | _ => s)

/-- RSEM_ARRIVE (R247, R425). -/
def execRsemArrive (id : Nat) (s : State) : Out1 :=
  .next (match s.mailOf id with
    | some m =>
      match m.msg with
      | .rsem k n =>
        if !s.arrives m then s
        else if !s.dieUp (dieOf m.dst) then (s.logDiscard (dieOf m.dst) m.lea none).answer m (.rsemAck id)
        else (s.addSem m.dst m.lea k n).answer m (.rsemAck id)
      | _ => s
    | none => s)

/-- A gang of a lea. -/
def State.gang (s : State) (lea gid : Nat) : Option Gang := s.gangs.find? (fun g => g.lea == lea && g.gid == gid)

/-- Whether a gang lies on several dies: its scope is package (R347). -/
def Gang.multi (g : Gang) : Bool :=
  match g.members with
  | [] => false
  | m :: t => t.any (fun x => dieOf x.core != dieOf m.core)

/-- Whether a message may be injected: after the release that its kind makes, and after the messages its sender sent before
to the same core (R218, R324, R336, R338); an arrival or a contribution after the thread's earlier accesses (R347, R349); and every
message after what its thread left outstanding in its slot before (R222). -/
def State.mailMayGo (s : State) (m : Mail) : Bool :=
  let released (remote : Bool) : Bool := s.earlierDone m.srcTid m.id remote
  let cross := dieOf m.src != dieOf m.dst
  let first := !(s.mail.any (fun e => decide (e.id < m.id) && e.src == m.src && e.srcTid == m.srcTid && e.dst == m.dst && e.sent.isNone))
  s.leftDone m.srcTid m.id m.born && (match m.msg with
  | .deposit _ _ _ _ => released cross && first
  | .am _ _ _ _ => released cross && first
  | .packet _ _ => released true && first
  | .barIn gid _ _ => released ((s.gang m.lea gid).any Gang.multi)
  | .gredIn gid _ _ => released ((s.gang m.lea gid).any Gang.multi)
  | _ => true)

/-- The slot of the exchange period in which opportunity i of an ordered pair of a lea's cores lies: one that is not reserved,
at a place that Harbour chose (R322, R324; log 75). -/
def Lea.opportunity (l : Lea) (src dst i : Nat) : Nat :=
  let k := Config.exchangeSlot l.leab l.leal src dst i % (4080 * max 1 l.xp)
  k / 4080 * 4096 + (16 + k % 4080)

/-- Whether a lea's exchange schedule grants a pair of its cores the present slot (R322, R324). -/
def State.exchangeOpen (s : State) (lea src dst : Nat) : Bool :=
  match s.lea lea with
  | some l => (List.range (max 1 l.perPair)).any (fun i => l.opportunity src dst i == s.now % (4096 * max 1 l.xp))
  | none => decide (16 ≤ s.tideSlot)

/-- Whether a message stands among the 16 of its lea that its core's injection queue of the exchange plane holds (R322). -/
def State.inExchangeQueue (s : State) (m : Mail) : Bool :=
  decide (((s.mail.takeWhile (fun e => e.id != m.id)).filter (fun e => e.src == m.src && e.lea == m.lea && e.sent.isNone)).length < 16)

/-- EXCHANGE_INJECT (R322, R324): a message leaves its core at an exchange opportunity of its lea, one flit of the lea in a slot. -/
def execExchangeInject (id : Nat) (s : State) : Out1 :=
  .next (match s.mailOf id with
    | some m =>
      if m.sent.isSome || !s.exchangeOpen m.lea m.src m.dst || s.mail.any (fun e => e.src == m.src && e.lea == m.lea && e.sent == some s.now)
          || !s.inExchangeQueue m || !s.mailMayGo m then s
      else { s with mail := s.mail.map (fun e => if e.id = id then { e with sent := some s.now } else e) }
    | none => s)

/-! ## Bank agents (R215, R254-R256) -/

/-- A command's next access: some of its elements are performed, all that are left in its last (R205, R215, R254, R326). -/
def State.bankServe (s : State) (o : Out) (c : BankCmd) : State :=
  let s := s.flushFor o.core o.lea
  let pas := c.parts.filterMap (fun p => p.pa)
  let els := if c.units ≤ 1 then c.left else s.pick c.left
  let s1 := { s with free := s.free + c.left.length }
  let c1 := { c with units := c.units - 1, left := c.left.filter (fun i => !els.contains i) }
  (if c.fn = 5 then s1
    else els.foldl (fun s i => s.spoil o.core o.lea (pas.headD 0 + bankElem c.fmt * i) (bankElem c.fmt))
      (s1.bankRun o.lea c (pas.headD 0) pas.tail els)).modOut o.id (fun o => { o with work := .bank c1 })

/-- The semaphore in which the addition of a command is seen before its elements are all performed: a free bit says so (R217, R312;
log 50). -/
def State.earlyDue (s : State) (o : Out) (c : BankCmd) : Option Nat :=
  match c.sem with
  | some k => if !c.early && (s.core o.core).lea == some o.lea && (Config.freeWord s.free).getLsbD 0 then some k else none
  | none => none

/-- The addition of a command seen early (R217, R312; log 50). -/
def State.seeEarly (s : State) (o : Out) (c : BankCmd) (k : Nat) : State :=
  ({ s with free := s.free + 1 }.addEarly o.core k o.id).modOut o.id (fun o => { o with work := .bank { c with early := true } })

/-- The addition of a command that has performed its last element: made now, or in the count already (R254). -/
def State.bankAdd (s : State) (o : Out) (c : BankCmd) : State :=
  match c.sem with
  | some k => if c.early then s.modCore o.core (fun x => x.endEarly o.lea k o.id) else s.addSem o.core o.lea k 1
  | none => s

/-- BANK_COMMAND_EXECUTE (R215, R254, R326): the agent performs the command at the head of a queue, in its lea's service slots
where it is a pseudo-channel's; the addition to a semaphore comes after its last element, though SEMRD may see it before (R217, R312). R326
orders accesses among themselves; that an access that waits goes before a command in a service slot is the model's choice (log 48). -/
def State.bankExecute (s : State) (queue : Nat) : State :=
  match keyGet [] s.banks queue with
  | [] => s
  | id :: rest =>
    match s.out id with
    | none => { s with banks := keySet s.banks queue rest }
    | some o =>
      match o.work with
      | .bank c =>
        let ch := c.bank - 4096
        if !s.dieUp (dieOf o.core) || (decide (4096 ≤ c.bank) && !s.spareService o.lea ch) then s
        else match s.earlyDue o c with
        | some k => s.seeEarly o c k
        | none =>
          let s0 : State := if c.sem.isSome then { s with free := s.free + 1 } else s
          let s1 := (if 4096 ≤ c.bank then s0.takeService ch else s0).bankServe o c
          if 1 < c.units then s1
          else
            let s2 := { s1 with banks := keySet s1.banks queue rest }
            if c.fn = 5 then
              let pa := (c.parts.filterMap (fun p => p.pa)).headD 0
              let (s3, r) := s2.namoRun o.lea c pa
              (s3.spoil o.core o.lea pa c.size).modOut id (fun o => { o with work := .compute [r] none (s.cycle o.core) })
            else (s2.dropOut id).bankAdd o c
      | _ => { s with banks := keySet s.banks queue rest }

/-- BANK_COMMAND_EXECUTE (R254). -/
def execBankCommandExecute (queue : Nat) (s : State) : Out1 := .next (s.bankExecute queue)

/-! ## The instruction cache (R437) -/

/-- A line at a host address as a thread sees it: as memory was after the first `view` writes of HBM (R69; log 10). -/
def State.readLine (s : State) (lea line a view : Nat) : ILine :=
  let words : List PWord := (List.range 8).map (fun i => s.mem.wordAt view (a + 8 * i))
  { lea := lea, line := line, host := a, view := view
    bytes := (List.range 64).map (fun i => (words.getD (i / 8) ⟨0, false⟩).val.extractLsb' (8 * (i % 8)) 8)
    bad := (List.range 8).filter (fun i => (words.getD i ⟨0, false⟩).bad) }

/-- The thread whose fetch is held parks (R405, R437). -/
def State.fetchHeld (s : State) (core slot : Nat) (frame : Option Nat) : State :=
  s.modSlot core slot (fun x =>
    if x.run = .ready ∨ x.run = .forfeiting then { x with run := .parked, wait := .fetch frame } else x)

/-- The fills of a core with the first of a lea as having become so in a slot (R326, R437). -/
def nextFill (lea now : Nat) : List Fill → List Fill
  | [] => []
  | f :: t => if f.lea = lea then { f with since := now } :: t else f :: nextFill lea now t

/-- A fill is over: the next one of its lea has its turn (R437). -/
def Core.dropFill (c : Core) (f : Fill) (now : Nat) : Core := { c with fills := nextFill f.lea now (c.fills.erase f) }

/-- A line cached, in the place of one that showed the same writes (R437). -/
def Core.fillLine (c : Core) (l : ILine) : Core :=
  { c with icache := l :: c.icache.filter (fun x => !(x.line == l.line && x.lea == l.lea && x.view == l.view)) }

/-- The first fill of its lea on a core begins in a service slot of the lea, or ends 96 slots later with its line cached; or the fetch of
the thread that asked for it is held (R326, R437). -/
def State.fillStep (s : State) (core : Nat) (f : Fill) : State :=
  let s1 := s.modCore core (fun c => c.dropFill f s.now)
  match f.began with
  | some (t, a) =>
    if t + 96 ≤ s.now then s1.modCore core (fun c => c.fillLine (s.readLine f.lea f.line a f.view)) else s
  | none =>
    let x := s.slot core f.slot
    let off := max (64 * f.line) (x.desc.seg 7).base.toNat - (x.desc.seg 7).base.toNat
    match s.lookUp core f.lea (dieOf core) (64 * f.line) [.x] with
    | .ok e =>
      let a := e.host (64 * f.line)
      if s.mayServe f.lea (channelOf a) (f.since, s.nextId + core, 0) then
        (s.takeService (channelOf a)).modCore core (fun c => { c.gtbUse e with
          fills := c.fills.map (fun g => if g = f then { f with began := some (s.now, a) } else g) })
      else s
    | w =>
      if x.tid ≠ f.tid then s1
      else match w with
        | .page fr => (s1.fetchHeld core f.slot (some fr)).logPage f.lea fr
        | .fault k =>
          ((s1.fetchHeld core f.slot none).parkRecord core (some f.lea) f.slot .thread f.known k x.desc.pc
            (BitVec.ofNat 64 off) x.tdp).logFault f.lea k off
        | .ok _ => s1

/-- ICACHE_FILL (R369, R437): the fills of a core go one at a time in the order in which they were asked for, those of a lea apart from
those of another while the core changes hands (log 10). -/
def State.icacheFill (s : State) (core : Nat) : State :=
  if !s.dieUp (dieOf core) then s
  else (((s.core core).fills.map (fun f => f.lea)).dedup).foldl (fun s l =>
    match (s.core core).fills.find? (fun f => f.lea == l) with
    | some f => s.fillStep core f
    | none => s) s

/-- Whether a fill of a lea on a die whose line meets a condition has used its translation and has still to be performed (R386, R389,
R417, R437). -/
def State.fillsBegun (s : State) (lea : Nat) (p : Nat → Nat → Bool) : Bool :=
  s.cores.any (fun e => e.2.fills.any (fun f => f.lea == lea && f.began.isSome && p (dieOf e.1) (64 * f.line)))

/-- ICACHE_FILL (R437). -/
def execIcacheFill (core : Nat) (s : State) : Out1 := .next (s.icacheFill core)

end Sys2Proof.Machine
end

