-- ==== Sys2Proof/Machine/Address.lean ====
section
/-! DEFINITION. Address instructions and literals (R119-R124). -/

namespace Sys2Proof.Machine

/-- LEA (R120): a segment offset formed and checked without an access. -/
def execLea (k : BitVec 3) (i : BitVec 9) (a d : BitVec 5) (s : State) : Out1 :=
  .next (s.withOperands [s.wAddr a.toNat] [s.wAddr d.toNat] (fun s =>
    s.needClean 4 0x10 a.toNat (fun s =>
      let o : Int := ((s.w a.toNat).val.toNat : Int) + i.toInt
      let g := s.seg k.toNat
      if g.space = 0 then s.raise 4 0x20 (wordOfInt o)
      else if o < 0 ∨ (g.limit.toNat : Int) < o then s.raise 4 0x21 (wordOfInt o)
      else s.setW 4 d.toNat false (wordOfInt o))))

/-- MAPR (R121): a map reference formed and checked. -/
def execMapr (k : BitVec 3) (i : BitVec 9) (a d : BitVec 5) (s : State) : Out1 :=
  .next (s.withOperands [s.wAddr a.toNat] [s.wAddr d.toNat] (fun s =>
    s.needClean 4 0x10 a.toNat (fun s =>
      let o : Int := ((s.w a.toNat).val.toNat : Int) + 64 * i.toInt
      let g := s.seg k.toNat
      if g.space = 0 then s.raise 4 0x20 (wordOfInt o)
      else if g.space ≠ 1 ∧ g.space ≠ 2 then s.raise 4 0x24 (wordOfInt o)
      else if !g.has .r then s.raise 4 0x22 (wordOfInt o)
      else if o < 0 ∨ (g.limit.toNat : Int) < o + 64 then s.raise 4 0x21 (wordOfInt o)
      else if o % 64 ≠ 0 then s.raise 4 0x25 (wordOfInt o)
      else s.setW 4 d.toNat false (wordOfInt o ||| k.setWidth 64))))

/-- ADDPC (R122). -/
def execAddpc (i : BitVec 17) (d : BitVec 5) (s : State) : Out1 :=
  .next (s.alu0 4 d.toNat (s.pc + 2 * i.signExtend 64))

/-- The value of a field of a segment register (R123): 0 BASE, 1 LIMIT, else ATTR. -/
def segField (g : Seg) (f : BitVec 2) : Word :=
  match f.toNat with
  | 0 => g.base.setWidth 64
  | 1 => g.limit.setWidth 64
  | _ => g.attr.setWidth 64

/-- SGRD (R123). -/
def execSgrd (f : BitVec 2) (k : BitVec 3) (d : BitVec 5) (s : State) : Out1 :=
  .next (s.alu0 4 d.toNat (segField (s.seg k.toNat) f))

/-- LDL (R69, R124): a literal read through the instruction cache. -/
def execLdl (o : BitVec 11) (l : BitVec 4) (d : BitVec 5) (s : State) : Out1 :=
  .next (s.withOperands [] [s.wAddr d.toNat] (fun s =>
    let off := (s.pc &&& ~~~7#64) + 8 * o.signExtend 64
    let g := s.seg 7
    match segFail g (s.extent g.space) off.toNat 8 [.x] [7] with
    | some c => s.raise 4 c off
    | none =>
      match s.codeRead (g.base.toNat + off.toNat) 8 with
      | .error line => s.missLine line 2
      | .ok (v, bad) =>
        let p : PWord := ⟨BitVec.ofNat 64 v, bad⟩
        let w := s.newOut 4 true l.toNat [s.wAddr d.toNat] (.compute [p] none (s.cycle s.cur.1))
        ((s.addOut w).markWord (s.wAddr d.toNat) .pending).issue 4))

end Sys2Proof.Machine
end

