-- ==== Sys2Proof/Machine/ScalarFp.lean ====
section
/-! DEFINITION. Scalar floating point (R132-R142). -/

namespace Sys2Proof.Machine

/-- A word that holds a result of a width (R132): .S in the low half, the rest zero. -/
def fpWord (bits : Nat) : Word := BitVec.ofNat 64 bits

/-- The result of an operation in a width, with what the normaliser saw among its operands (R94). -/
def State.fpOut (s : State) (x : BitVec 1) (ops : List Word) (r : Res) : FpOut :=
  ⟨fpWord r.bits, r.flags, ops.any (fun w => s.slowNum (widthFmt x) (widthBits x w)) || s.slowNum (widthFmt x) r.bits⟩

/-- A result that is no number of the width: only its operands can cost the normaliser (R94). -/
def State.fpPred (s : State) (x : BitVec 1) (ops : List Word) (v : Word) (fl : Flags) : FpOut :=
  ⟨v, fl, ops.any (fun w => s.slowNum (widthFmt x) (widthBits x w))⟩

/-- FADD (R135). -/
def execFadd (x : BitVec 1) (r : BitVec 3) (b a d : BitVec 5) (s : State) : Out1 :=
  .next (s.fp2 4 a.toNat b.toNat d.toNat (fun s u v =>
    s.fpOut x [u, v] (fpAdd (widthFmt x) s.fz (s.roundMode r) (s.fpIn x u) (s.fpIn x v))))
/-- FSUB (R135). -/
def execFsub (x : BitVec 1) (r : BitVec 3) (b a d : BitVec 5) (s : State) : Out1 :=
  .next (s.fp2 4 a.toNat b.toNat d.toNat (fun s u v =>
    s.fpOut x [u, v] (fpAdd (widthFmt x) s.fz (s.roundMode r) (s.fpIn x u) (s.fpIn x v).neg)))
/-- FMUL (R135). -/
def execFmul (x : BitVec 1) (r : BitVec 3) (b a d : BitVec 5) (s : State) : Out1 :=
  .next (s.fp2 4 a.toNat b.toNat d.toNat (fun s u v =>
    s.fpOut x [u, v] (fpMul (widthFmt x) s.fz (s.roundMode r) (s.fpIn x u) (s.fpIn x v))))
/-- FMA: a × b + d (R135). -/
def execFma (x : BitVec 1) (r : BitVec 3) (b a d : BitVec 5) (s : State) : Out1 :=
  .next (s.fp3 4 a.toNat b.toNat d.toNat (fun s u v w =>
    s.fpOut x [u, v, w] (fpFma (widthFmt x) s.fz (s.roundMode r) (s.fpIn x u) (s.fpIn x v) (s.fpIn x w))))
/-- FMS: a × b − d (R135). -/
def execFms (x : BitVec 1) (r : BitVec 3) (b a d : BitVec 5) (s : State) : Out1 :=
  .next (s.fp3 4 a.toNat b.toNat d.toNat (fun s u v w =>
    s.fpOut x [u, v, w] (fpFma (widthFmt x) s.fz (s.roundMode r) (s.fpIn x u) (s.fpIn x v) (s.fpIn x w).neg)))
/-- FNMA: d − a × b (R135). -/
def execFnma (x : BitVec 1) (r : BitVec 3) (b a d : BitVec 5) (s : State) : Out1 :=
  .next (s.fp3 4 a.toNat b.toNat d.toNat (fun s u v w =>
    s.fpOut x [u, v, w] (fpFma (widthFmt x) s.fz (s.roundMode r) (s.fpIn x u).neg (s.fpIn x v) (s.fpIn x w))))

/-- The latency of FDIV and FSQRT in core cycles (R136). -/
def slowFpCycles (x : BitVec 1) : Nat := if x = 0 then 24 else 56

/-- FDIV (R135, R136), rounded under STAT.RM at issue. -/
def execFdiv (x : BitVec 1) (l : BitVec 4) (b a d : BitVec 5) (s : State) : Out1 :=
  .next (s.slow2 4 a.toNat b.toNat d.toNat l (slowFpCycles x) (fun s u v =>
    let r := s.fpOut x [u, v] (fpDiv (widthFmt x) s.fz s.rm (s.fpIn x u) (s.fpIn x v))
    (r.val, some r.flags, r.slow)))
/-- FSQRT (R135, R136), rounded under STAT.RM at issue. -/
def execFsqrt (x : BitVec 1) (l : BitVec 4) (a d : BitVec 5) (s : State) : Out1 :=
  .next (s.slow2 4 a.toNat a.toNat d.toNat l (slowFpCycles x) (fun s u _ =>
    let r := s.fpOut x [u] (fpSqrt (widthFmt x) s.fz s.rm (s.fpIn x u))
    (r.val, some r.flags, r.slow)))

/-- FRSQE (R98, R99, R137); the rounding code does not change the result. -/
def execFrsqe (x : BitVec 1) (_r : BitVec 3) (a d : BitVec 5) (s : State) : Out1 :=
  .next (s.fp1 4 a.toNat d.toNat (fun s u => s.fpOut x [u] (fpRsqe (widthFmt x) 12 (s.fpIn x u))))
/-- FRCPE (R98, R99, R137); the rounding code does not change the result. -/
def execFrcpe (x : BitVec 1) (_r : BitVec 3) (a d : BitVec 5) (s : State) : Out1 :=
  .next (s.fp1 4 a.toNat d.toNat (fun s u => s.fpOut x [u] (fpRcpe (widthFmt x) 12 (s.fpIn x u))))

/-- A value of a width as a code, with no rounding. -/
def pickBits (x : BitVec 1) (v : Val) : Nat := ((widthFmt x).enc true false .rne v).bits

/-- FMIN (R138). -/
def execFmin (x : BitVec 1) (b a d : BitVec 5) (s : State) : Out1 :=
  .next (s.fp2 4 a.toNat b.toNat d.toNat (fun s u v =>
    s.fpOut x [u, v] ⟨pickBits x (Val.minOf (s.fpIn x u) (s.fpIn x v)), Flags.none⟩))
/-- FMAX (R138). -/
def execFmax (x : BitVec 1) (b a d : BitVec 5) (s : State) : Out1 :=
  .next (s.fp2 4 a.toNat b.toNat d.toNat (fun s u v =>
    s.fpOut x [u, v] ⟨pickBits x (Val.maxOf (s.fpIn x u) (s.fpIn x v)), Flags.none⟩))
/-- FCMPEQ (R139). -/
def execFcmpeq (x : BitVec 1) (b a d : BitVec 5) (s : State) : Out1 :=
  .next (s.fp2 4 a.toNat b.toNat d.toNat (fun s u v =>
    s.fpPred x [u, v] (boolWord ((s.fpIn x u).eq (s.fpIn x v))) Flags.none))
/-- FCMPLT (R139). -/
def execFcmplt (x : BitVec 1) (b a d : BitVec 5) (s : State) : Out1 :=
  .next (s.fp2 4 a.toNat b.toNat d.toNat (fun s u v =>
    s.fpPred x [u, v] (boolWord ((s.fpIn x u).lt (s.fpIn x v))) Flags.none))
/-- FCMPLE (R139). -/
def execFcmple (x : BitVec 1) (b a d : BitVec 5) (s : State) : Out1 :=
  .next (s.fp2 4 a.toNat b.toNat d.toNat (fun s u v =>
    s.fpPred x [u, v] (boolWord ((s.fpIn x u).lt (s.fpIn x v) || (s.fpIn x u).eq (s.fpIn x v))) Flags.none))
/-- FCLASS (R140). -/
def execFclass (x : BitVec 1) (a d : BitVec 5) (s : State) : Out1 :=
  .next (s.fp1 4 a.toNat d.toNat (fun s u =>
    s.fpPred x [u] (BitVec.ofNat 64 (fpClass (widthFmt x) s.fz (widthBits x u))) Flags.none))

/-- A value with a sign (R140); NaN stays NaN. -/
def Val.withSign (neg : Bool) : Val → Val
  | .nan => .nan
  | .inf _ => .inf neg
  | .fin _ m e => .fin neg m e

/-- FABS (R140). -/
def execFabs (x : BitVec 1) (a d : BitVec 5) (s : State) : Out1 :=
  .next (s.fp1 4 a.toNat d.toNat (fun s u => s.fpOut x [u] ⟨pickBits x ((s.fpIn x u).withSign false), Flags.none⟩))
/-- FNEG (R140). -/
def execFneg (x : BitVec 1) (a d : BitVec 5) (s : State) : Out1 :=
  .next (s.fp1 4 a.toNat d.toNat (fun s u => s.fpOut x [u] ⟨pickBits x (s.fpIn x u).neg, Flags.none⟩))

/-- The sign bit of a word's number in a width. -/
def signOf (x : BitVec 1) (w : Word) : Bool := if x = 0 then w.getLsbD 31 else w.getLsbD 63

/-- FSGNJ (R140): the magnitude of a with the sign of b, the sign of a NaN used as it stands. -/
def execFsgnj (x : BitVec 1) (b a d : BitVec 5) (s : State) : Out1 :=
  .next (s.fp2 4 a.toNat b.toNat d.toNat (fun s u v =>
    s.fpOut x [u, v] ⟨pickBits x ((s.fpIn x u).withSign (signOf x v)), Flags.none⟩))

/-- The format code of FCVT in a width: the format and its bits (R141). -/
def cvtFmt (x : BitVec 1) (m : BitVec 3) : Fmt :=
  match m.toNat with
  | 0 => fp16
  | 1 => bf16
  | 2 => e5m2
  | 3 => e4m3
  | 4 => e3m2
  | 5 => e2m3
  | _ => if x = 0 then fp64 else fp32

/-- The bits of a format. -/
def Fmt.bits (f : Fmt) : Nat := 1 + f.eb + f.mb

/-- FCVT (R141): from the width to a format, or from a format to the width. -/
def execFcvt (x : BitVec 1) (r : BitVec 3) (t : BitVec 1) (m : BitVec 3) (a d : BitVec 5) (s : State) : Out1 :=
  .next (s.fp1 4 a.toNat d.toNat (fun s u =>
    let other := cvtFmt x m
    let src := if t = 0 then widthFmt x else other
    let dst := if t = 0 then other else widthFmt x
    let bits := u.toNat % 2 ^ src.bits
    let res := dst.enc s.nsr s.fz (s.roundMode r) (src.dec s.nsr s.fz bits)
    ⟨fpWord res.bits, res.flags, s.slowNum src bits || s.slowNum dst res.bits⟩))

/-- The range of an integer code (R142). -/
def intRange (n : BitVec 3) : Int × Int :=
  match n.toNat with
  | 0 => (-(2 ^ 63), 2 ^ 63 - 1)
  | 1 => (0, 2 ^ 64 - 1)
  | 2 => (-(2 ^ 31), 2 ^ 31 - 1)
  | _ => (0, 2 ^ 32 - 1)

/-- The integer that a code reads from a word (R142). -/
def intOf (n : BitVec 3) (w : Word) : Int :=
  match n.toNat with
  | 0 => w.toInt
  | 1 => w.toNat
  | 2 => (w.setWidth 32).toInt
  | _ => (w.setWidth 32).toNat

/-- FCVTI (R97, R142). -/
def execFcvti (x : BitVec 1) (r n : BitVec 3) (a d : BitVec 5) (s : State) : Out1 :=
  .next (s.fp1 4 a.toNat d.toNat (fun s u =>
    let (v, fl) := (s.fpIn x u).toInt (s.roundMode r) (intRange n).1 (intRange n).2
    s.fpPred x [u] (wordOfInt v) fl))

/-- ICVTF (R97, R142). -/
def execIcvtf (x : BitVec 1) (r n : BitVec 3) (a d : BitVec 5) (s : State) : Out1 :=
  .next (s.fp1 4 a.toNat d.toNat (fun s u =>
    s.fpOut x [] ((widthFmt x).enc true s.fz (s.roundMode r) (Val.ofInt (intOf n u)))))

end Sys2Proof.Machine
end

