-- ==== Sys2Proof/Machine/Vector.lean ====
section
/-! DEFINITION. Vector instructions (R143-R173): what they capture at issue, the elements they compute, the queue of a slot,
the lane cycles, and the fills. -/

namespace Sys2Proof.Machine

/-! ## Operands and elements (R80, R148-R150) -/

/-- The words of a register as read at issue: their number, and the numbers of the poisoned ones. -/
structure VSrc where
  v : Nat
  bad : List Nat
  deriving DecidableEq, Repr

/-- A register's words at addresses. -/
def State.vsrc (s : State) (l : List Nat) : VSrc := ⟨s.wide l, s.badList l⟩

/-- An element: its bits, the flags it raises, and whether it is poisoned. -/
structure El where
  val : Nat
  flags : Flags
  bad : Bool
  deriving DecidableEq, Repr

/-- Element i of w bits of a register (R80, R148). -/
def VSrc.el (x : VSrc) (w i : Nat) : El :=
  ⟨x.v / 2 ^ (w * i) % 2 ^ w, Flags.none, x.bad.contains (w * i / 64) || x.bad.contains ((w * i + w - 1) / 64)⟩

/-- Elements of w bits side by side, the first least significant. -/
def packEls (w : Nat) : List El → Nat
  | [] => 0
  | e :: t => e.val % 2 ^ w + 2 ^ w * packEls w t

/-- Whether doubleword j holds bits of a poisoned element, among elements of w bits from number i on. -/
def badAt (w j : Nat) : Nat → List El → Bool
  | _, [] => false
  | i, e :: t => (e.bad && decide (w * i < 64 * (j + 1)) && decide (64 * j < w * i + w)) || badAt w j (i + 1) t

/-- k doublewords that elements of w bits make, zero beyond them. -/
def wordsOf (k w : Nat) (es : List El) : List PWord :=
  let v := packEls w es
  (List.range k).map (fun j => ⟨BitVec.ofNat 64 (v / 2 ^ (64 * j)), badAt w j 0 es⟩)

/-- The flags that unpoisoned elements raise (R95, R422). -/
def flagsOf (es : List El) : Flags := es.foldl (fun f e => if e.bad then f else f ||| e.flags) Flags.none

/-- The rounding and reading modes captured at issue (R150). -/
structure VMode where
  rm : Rm
  fz : Bool
  nsr : Bool
  deriving DecidableEq, Repr

/-- The modes of the acting thread. -/
def State.vmode (s : State) : VMode := ⟨s.rm, s.fz, s.nsr⟩

/-! ## Issue (R144, R150) -/

/-- Whether an item is an unserved vector-queue entry of a slot. -/
def Out.inVQueue (o : Out) (core slot : Nat) : Bool :=
  o.core == core && o.slot == slot && (match o.work with
    | .vector _ _ _ none => true
    | _ => false)

/-- A vector instruction issues into its slot's queue of four with what it computes (R144, R150). -/
def State.vissue (s : State) (srcs dst : List Nat) (look : BitVec 4) (lat : Nat) (f : State → State × List PWord × Flags) : State :=
  s.withOperands srcs dst (fun s =>
    if 4 ≤ (s.outs.filter (fun o => o.inVQueue s.cur.1 s.cur.2)).length then s.forfeit
    else
      let (s1, vals, fl) := f s
      ((s1.addOut (s1.newOut 4 true look.toNat dst (.vector vals fl lat none))).markPending dst).issue 4)

/-- The addresses of a governing mask's words (R149). -/
def State.maskAddrs (s : State) (m : BitVec 3) : List Nat := if m = 0 then [] else s.mAddrs m.toNat

/-- n elements of w bits under a mask: computed where active, the old ones elsewhere (R150). -/
def maskedEls (n w m : Nat) (mbad : Bool) (old : VSrc) (f : Nat → El) : List El :=
  (List.range n).map (fun i =>
    let e := if m.testBit i then f i else old.el w i
    { e with bad := e.bad || mbad })

/-- An instruction that writes n elements of w bits of vd from vector registers, element by element, and keeps the inactive
ones (R150). `readD` says that it reads vd as an operand. -/
def State.velem (s : State) (l : BitVec 4) (m : BitVec 3) (d : BitVec 4) (srcs : List Nat) (readD : Bool) (lat n w : Nat)
    (f : VMode → List VSrc → VSrc → Nat → El) : State :=
  let vd := s.vAddrs d.toNat
  s.vissue (srcs.flatMap s.vAddrs ++ s.maskAddrs m ++ (if readD || m != 0 then vd else [])) vd l lat (fun s =>
    let (mv, mbad) := s.maskVal m.toNat
    let old := s.vsrc vd
    let xs := srcs.map (fun k => s.vsrc (s.vAddrs k))
    let es := maskedEls n w mv mbad old (f s.vmode xs old)
    ({ s with free := s.free + 2 }, wordsOf 32 w es, flagsOf es))

/-- The register at a place of a list of sources. -/
def nthSrc (xs : List VSrc) (k : Nat) : VSrc := xs.getD k ⟨0, []⟩

/-- A binary operation on elements of w bits. -/
def binEl (w : Nat) (g : VMode → Nat → Nat → Nat × Flags) (md : VMode) (xs : List VSrc) (_ : VSrc) (i : Nat) : El :=
  let a := (nthSrc xs 0).el w i
  let b := (nthSrc xs 1).el w i
  let (v, fl) := g md a.val b.val
  ⟨v, fl, a.bad || b.bad⟩

/-- A unary operation on elements of w bits. -/
def unEl (w : Nat) (g : VMode → Nat → Nat × Flags) (md : VMode) (xs : List VSrc) (_ : VSrc) (i : Nat) : El :=
  let a := (nthSrc xs 0).el w i
  let (v, fl) := g md a.val
  ⟨v, fl, a.bad⟩

/-! ## Integer instructions (R156) -/

/-- The width of .INT32 and .INT64 (R154). -/
def intWidth (t : BitVec 1) : Nat := if t = 0 then 32 else 64

/-- A binary integer instruction of a width (R156). -/
def State.vint (s : State) (t : BitVec 1) (l : BitVec 4) (m : BitVec 3) (b a d : BitVec 4) (lat : Nat)
    (g : (w : Nat) → BitVec w → BitVec w → BitVec w) : State :=
  let w := intWidth t
  s.velem l m d [a.toNat, b.toNat] false lat (2048 / w) w
    (binEl w (fun _ x y => ((g w (BitVec.ofNat w x) (BitVec.ofNat w y)).toNat, Flags.none)))

/-- VIADD (R156). -/
def execViadd (t : BitVec 1) (l : BitVec 4) (m : BitVec 3) (b a d : BitVec 4) (s : State) : Out1 :=
  .next (s.vint t l m b a d 4 (fun _ x y => x + y))
/-- VISUB (R156). -/
def execVisub (t : BitVec 1) (l : BitVec 4) (m : BitVec 3) (b a d : BitVec 4) (s : State) : Out1 :=
  .next (s.vint t l m b a d 4 (fun _ x y => x - y))
/-- VIMUL (R156). -/
def execVimul (t : BitVec 1) (l : BitVec 4) (m : BitVec 3) (b a d : BitVec 4) (s : State) : Out1 :=
  .next (s.vint t l m b a d 6 (fun _ x y => x * y))
/-- VIMIN (R156). -/
def execVimin (t : BitVec 1) (l : BitVec 4) (m : BitVec 3) (b a d : BitVec 4) (s : State) : Out1 :=
  .next (s.vint t l m b a d 4 (fun _ x y => if y.slt x then y else x))
/-- VIMAX (R156). -/
def execVimax (t : BitVec 1) (l : BitVec 4) (m : BitVec 3) (b a d : BitVec 4) (s : State) : Out1 :=
  .next (s.vint t l m b a d 4 (fun _ x y => if x.slt y then y else x))
/-- VAND (R156). -/
def execVand (t : BitVec 1) (l : BitVec 4) (m : BitVec 3) (b a d : BitVec 4) (s : State) : Out1 :=
  .next (s.vint t l m b a d 4 (fun _ x y => x &&& y))
/-- VOR (R156). -/
def execVor (t : BitVec 1) (l : BitVec 4) (m : BitVec 3) (b a d : BitVec 4) (s : State) : Out1 :=
  .next (s.vint t l m b a d 4 (fun _ x y => x ||| y))
/-- VXOR (R156). -/
def execVxor (t : BitVec 1) (l : BitVec 4) (m : BitVec 3) (b a d : BitVec 4) (s : State) : Out1 :=
  .next (s.vint t l m b a d 4 (fun _ x y => x ^^^ y))
/-- VSHL (R156). -/
def execVshl (t : BitVec 1) (l : BitVec 4) (m : BitVec 3) (b a d : BitVec 4) (s : State) : Out1 :=
  .next (s.vint t l m b a d 4 (fun w x y => x <<< (y.toNat % w)))
/-- VSHR (R156). -/
def execVshr (t : BitVec 1) (l : BitVec 4) (m : BitVec 3) (b a d : BitVec 4) (s : State) : Out1 :=
  .next (s.vint t l m b a d 4 (fun w x y => x >>> (y.toNat % w)))
/-- VSRA (R156). -/
def execVsra (t : BitVec 1) (l : BitVec 4) (m : BitVec 3) (b a d : BitVec 4) (s : State) : Out1 :=
  .next (s.vint t l m b a d 4 (fun w x y => x.sshiftRight (y.toNat % w)))

/-! ## Comparisons (R157) -/

/-- The width of an element of a comparison type: .INT32, .INT64, .FP32, .BF16 (R154). -/
def cmpWidth (t : BitVec 2) : Nat :=
  match t.toNat with
  | 0 => 32
  | 1 => 64
  | 2 => 32
  | _ => 16

/-- The format of .FP32 and .BF16 (R154). -/
def laneFmt (t : BitVec 1) : Fmt := if t = 0 then fp32 else bf16

/-- The width of .FP32 and .BF16 (R154). -/
def laneWidth (t : BitVec 1) : Nat := if t = 0 then 32 else 16

/-- A comparison: less, or equal, of two elements of a type (R139, R157). -/
def cmpEl (t : BitVec 2) (md : VMode) (x y : Nat) : Bool × Bool :=
  let w := cmpWidth t
  if t.toNat < 2 then ((BitVec.ofNat w x).slt (BitVec.ofNat w y), x == y)
  else
    let f := laneFmt (t.extractLsb' 0 1)
    let u := f.dec true md.fz x
    let v := f.dec true md.fz y
    (u.lt v, u.eq v)

/-- A comparison instruction: it writes a whole mask register and does not read it (R157). -/
def State.vcmp (s : State) (t : BitVec 2) (l : BitVec 4) (m : BitVec 3) (b a : BitVec 4) (d : BitVec 3)
    (g : Bool × Bool → Bool) : State :=
  let w := cmpWidth t
  s.vissue (s.vAddrs a.toNat ++ s.vAddrs b.toNat ++ s.maskAddrs m) (s.mAddrs d.toNat) l 6 (fun s =>
    let (mv, mbad) := s.maskVal m.toNat
    let x := s.vsrc (s.vAddrs a.toNat)
    let y := s.vsrc (s.vAddrs b.toNat)
    let es := (List.range (2048 / w)).map (fun i =>
      let u := x.el w i
      let v := y.el w i
      (⟨if mv.testBit i && g (cmpEl t s.vmode u.val v.val) then 1 else 0, Flags.none,
        mbad || (mv.testBit i && (u.bad || v.bad))⟩ : El))
    ({ s with free := s.free + 2 }, wordsOf 2 1 es, Flags.none))

/-- VCMPEQ (R157). -/
def execVcmpeq (t : BitVec 2) (l : BitVec 4) (m : BitVec 3) (b a : BitVec 4) (d : BitVec 3) (s : State) : Out1 :=
  .next (s.vcmp t l m b a d (fun r => r.2))
/-- VCMPLT (R157). -/
def execVcmplt (t : BitVec 2) (l : BitVec 4) (m : BitVec 3) (b a : BitVec 4) (d : BitVec 3) (s : State) : Out1 :=
  .next (s.vcmp t l m b a d (fun r => r.1))
/-- VCMPLE (R157). -/
def execVcmple (t : BitVec 2) (l : BitVec 4) (m : BitVec 3) (b a : BitVec 4) (d : BitVec 3) (s : State) : Out1 :=
  .next (s.vcmp t l m b a d (fun r => r.1 || r.2))

/-! ## Floating-point instructions (R153, R158-R161) -/

/-- A rounded result as an element's bits and flags. -/
def Res.pair (r : Res) : Nat × Flags := (r.bits, r.flags)

/-- A binary floating-point instruction (R158). -/
def State.vfp2 (s : State) (t : BitVec 1) (l : BitVec 4) (m : BitVec 3) (b a d : BitVec 4)
    (g : Fmt → VMode → Val → Val → Nat × Flags) : State :=
  let f := laneFmt t
  let w := laneWidth t
  s.velem l m d [a.toNat, b.toNat] false 6 (2048 / w) w
    (binEl w (fun md x y => g f md (f.dec true md.fz x) (f.dec true md.fz y)))

/-- A unary floating-point instruction (R158). -/
def State.vfp1 (s : State) (t : BitVec 1) (l : BitVec 4) (m : BitVec 3) (a d : BitVec 4) (lat : Nat)
    (g : Fmt → Val → Nat × Flags) : State :=
  let f := laneFmt t
  let w := laneWidth t
  s.velem l m d [a.toNat] false lat (2048 / w) w (unEl w (fun md x => g f (f.dec true md.fz x)))

/-- A fused instruction that reads vd (R158). -/
def State.vfp3 (s : State) (t : BitVec 1) (l : BitVec 4) (m : BitVec 3) (b a d : BitVec 4) (negD : Bool) : State :=
  let f := laneFmt t
  let w := laneWidth t
  s.velem l m d [a.toNat, b.toNat] true 6 (2048 / w) w (fun md xs old i =>
    let x := (nthSrc xs 0).el w i
    let y := (nthSrc xs 1).el w i
    let z := old.el w i
    let zv := f.dec true md.fz z.val
    let r := fpFma f md.fz md.rm (f.dec true md.fz x.val) (f.dec true md.fz y.val) (if negD then zv.neg else zv)
    ⟨r.bits, r.flags, x.bad || y.bad || z.bad⟩)

/-- VADD (R158). -/
def execVadd (t : BitVec 1) (l : BitVec 4) (m : BitVec 3) (b a d : BitVec 4) (s : State) : Out1 :=
  .next (s.vfp2 t l m b a d (fun f md x y => (fpAdd f md.fz md.rm x y).pair))
/-- VSUB (R158). -/
def execVsub (t : BitVec 1) (l : BitVec 4) (m : BitVec 3) (b a d : BitVec 4) (s : State) : Out1 :=
  .next (s.vfp2 t l m b a d (fun f md x y => (fpAdd f md.fz md.rm x y.neg).pair))
/-- VMUL (R158). -/
def execVmul (t : BitVec 1) (l : BitVec 4) (m : BitVec 3) (b a d : BitVec 4) (s : State) : Out1 :=
  .next (s.vfp2 t l m b a d (fun f md x y => (fpMul f md.fz md.rm x y).pair))
/-- VFMA (R158). -/
def execVfma (t : BitVec 1) (l : BitVec 4) (m : BitVec 3) (b a d : BitVec 4) (s : State) : Out1 :=
  .next (s.vfp3 t l m b a d false)
/-- VFMS (R158). -/
def execVfms (t : BitVec 1) (l : BitVec 4) (m : BitVec 3) (b a d : BitVec 4) (s : State) : Out1 :=
  .next (s.vfp3 t l m b a d true)
/-- VMIN (R158). -/
def execVmin (t : BitVec 1) (l : BitVec 4) (m : BitVec 3) (b a d : BitVec 4) (s : State) : Out1 :=
  .next (s.vfp2 t l m b a d (fun f _ x y => ((f.enc true false .rne (Val.minOf x y)).bits, Flags.none)))
/-- VMAX (R158). -/
def execVmax (t : BitVec 1) (l : BitVec 4) (m : BitVec 3) (b a d : BitVec 4) (s : State) : Out1 :=
  .next (s.vfp2 t l m b a d (fun f _ x y => ((f.enc true false .rne (Val.maxOf x y)).bits, Flags.none)))
/-- VABS (R158). -/
def execVabs (t : BitVec 1) (l : BitVec 4) (m : BitVec 3) (a d : BitVec 4) (s : State) : Out1 :=
  .next (s.vfp1 t l m a d 6 (fun f x => ((f.enc true false .rne (x.withSign false)).bits, Flags.none)))
/-- VNEG (R158). -/
def execVneg (t : BitVec 1) (l : BitVec 4) (m : BitVec 3) (a d : BitVec 4) (s : State) : Out1 :=
  .next (s.vfp1 t l m a d 6 (fun f x => ((f.enc true false .rne x.neg).bits, Flags.none)))

/-- The fraction bits of an estimate of a type (R159-R161). -/
def estBits (t : BitVec 1) : Nat := if t = 0 then 12 else 7

/-- VRSQE (R159). -/
def execVrsqe (t : BitVec 1) (l : BitVec 4) (m : BitVec 3) (a d : BitVec 4) (s : State) : Out1 :=
  .next (s.vfp1 t l m a d 8 (fun f x => (fpRsqe f (estBits t) x).pair))
/-- VRCPE (R159). -/
def execVrcpe (t : BitVec 1) (l : BitVec 4) (m : BitVec 3) (a d : BitVec 4) (s : State) : Out1 :=
  .next (s.vfp1 t l m a d 8 (fun f x => (fpRcpe f (estBits t) x).pair))
/-- VEXP2E (R160). -/
def execVexp2e (t : BitVec 1) (l : BitVec 4) (m : BitVec 3) (a d : BitVec 4) (s : State) : Out1 :=
  .next (s.vfp1 t l m a d 8 (fun f x => (fpExp2e f (estBits t) x).pair))
/-- VLOG2E (R161). -/
def execVlog2e (t : BitVec 1) (l : BitVec 4) (m : BitVec 3) (a d : BitVec 4) (s : State) : Out1 :=
  .next (s.vfp1 t l m a d 8 (fun f x => (fpLog2e f (estBits t) x).pair))

/-! ## Conversion and quantisation (R162-R166) -/

/-- What a VCVT converts: FP32 with a floating format, or with an integer of a width (R162). -/
inductive CvtKind where
  | fp (f : Fmt)
  | int (w : Nat)
  deriving DecidableEq, Repr

/-- The bits of the other side's element. -/
def CvtKind.bits : CvtKind → Nat
  | .fp f => f.bits
  | .int w => w

/-- The other side of codes 0 to 7 (R162). -/
def cvtKind (k : Nat) : CvtKind :=
  match k with
  | 0 => .fp fp16
  | 1 => .fp bf16
  | 2 => .fp e5m2
  | 3 => .fp e4m3
  | 4 => .fp e3m2
  | 5 => .fp e2m3
  | 6 => .int 32
  | _ => .int 8

/-- A code's other side, whether it narrows, and whether it is stochastic (R162). -/
def cvtCode (c : BitVec 5) : CvtKind × Bool × Bool :=
  let k := c.toNat
  if k < 8 then (cvtKind k, true, false)
  else if k < 16 then (cvtKind (k - 8), false, false)
  else if k < 24 then (cvtKind (k - 16), true, true)
  else if k = 0x18 then (.int 16, true, false)
  else if k = 0x19 then (.int 16, false, false)
  else (.int 16, true, true)

/-- The values that the next n steps of a generator return (R90). -/
def srList : Nat → Word → List Nat
  | 0, _ => []
  | n + 1, g => (srStep g).2 :: srList n (srStep g).1

/-- An FP32 element narrowed (R96, R97). -/
def narrowEl (k : CvtKind) (md : VMode) (rm : Rm) (x : Nat) : Nat × Flags :=
  let v := fp32.dec true md.fz x
  match k with
  | .fp f => (f.enc md.nsr md.fz rm v).pair
  | .int w =>
    let (i, fl) := v.toInt rm (-(2 ^ (w - 1))) (2 ^ (w - 1) - 1)
    ((BitVec.ofInt w i).toNat, fl)

/-- An element widened to FP32 (R97, R163). -/
def widenEl (k : CvtKind) (md : VMode) (x : Nat) : Nat × Flags :=
  match k with
  | .fp f => (fp32.enc true md.fz md.rm (f.dec md.nsr md.fz x)).pair
  | .int w => (fp32.enc true md.fz md.rm (Val.ofInt (BitVec.ofNat w x).toInt)).pair

/-- VCVT (R162, R163): a stochastic form takes 64 steps at issue. -/
def execVcvt (c : BitVec 5) (l : BitVec 4) (m : BitVec 3) (a d : BitVec 4) (s : State) : Out1 :=
  let (k, narrow, sr) := cvtCode c
  let us := if sr then srList 64 s.desc.srgen else []
  let wide := if narrow then k.bits else 32
  let step (s : State) : State := if sr then s.modDesc (fun e => { e with srgen := srSteps 64 e.srgen }) else s
  let vd := s.vAddrs d.toNat
  let va := s.vAddrs a.toNat
  .next (s.vissue (va ++ s.maskAddrs m ++ (if m = 0 then [] else vd)) vd l 6 (fun s =>
    let (mv, mbad) := s.maskVal m.toNat
    let x := s.vsrc va
    let es := maskedEls 64 wide mv mbad (s.vsrc vd) (fun i =>
      let e := x.el (if narrow then 32 else k.bits) i
      let (v, fl) := if narrow then narrowEl k s.vmode (if sr then .rsr (us.getD i 0) else s.rm) e.val else widenEl k s.vmode e.val
      ⟨v, fl, e.bad⟩)
    (step { s with free := s.free + 2 }, wordsOf 32 wide es, flagsOf es)))

/-- Whether |m × 2^e| is at most t × 2^q. -/
def magLe (m : Nat) (e : Int) (t : Nat) (q : Int) : Bool :=
  let k := min e q
  decide (m * 2 ^ (e - k).toNat ≤ t * 2 ^ (q - k).toNat)

/-- TypeMax of a block type (R165). -/
def typeMax (nsr : Bool) (ty : Nat) : Nat :=
  match ty with
  | 0 => 7
  | 1 => if nsr then 3 else 6
  | 2 => 64
  | _ => 12

/-- Whether every active finite element of a block is within the type's range at scale exponent e (R165). -/
def blockFits (nsr : Bool) (ty : Nat) (vs : List Val) (e : Nat) : Bool :=
  vs.all (fun v => match v with
    | .fin _ m x => magLe m x (typeMax nsr ty) ((e : Int) - 32)
    | _ => true)

/-- The scale exponent of a block whose active elements have the given values (R165). -/
def blockExp (nsr : Bool) (ty : Nat) (vs : List Val) : Nat :=
  if nsr && vs.contains .nan then 63
  else
    let top := if nsr then 62 else 63
    ((List.range (top + 1)).find? (blockFits nsr ty vs)).getD top

/-- The codes of a block and its scale byte (R165): `els` are its elements with their activity and rounding mode. -/
def quantBlock (f : Fmt) (md : VMode) (ty : Nat) (els : List (El × Bool × Rm)) : List El × El :=
  let dec (e : El) : Val := f.dec true md.fz e.val
  let bad := els.any (fun x => x.2.1 && x.1.bad)
  let e := blockExp md.nsr ty ((els.filter (fun x => x.2.1)).map (fun x => dec x.1))
  (els.map (fun x =>
    let (v, fl) := if !x.2.1 || (md.nsr && e == 63) then (0, Flags.none) else blockEnc md.nsr x.2.2 ty e (dec x.1)
    ⟨v, fl, bad⟩), ⟨ty * 64 + e, Flags.none, bad⟩)

/-- The blocks of a register, 32 elements each. -/
def quantBlocks (f : Fmt) (md : VMode) (ty : Nat) (els : List (El × Bool × Rm)) : Nat → List (List El × El)
  | 0 => []
  | n + 1 => quantBlocks f md ty els n ++ [quantBlock f md ty ((els.drop (32 * n)).take 32)]

/-- Zero elements. -/
def zeroEls (n : Nat) : List El := List.replicate n ⟨0, Flags.none, false⟩

/-- VQUANT (R164, R165): s selects the source type, r .RSR, t TYPE; vd is written whole and not read. -/
def execVquant (sx : BitVec 1) (l : BitVec 4) (m : BitVec 3) (r : BitVec 1) (t : BitVec 2) (a d : BitVec 4) (s : State) : Out1 :=
  let f := laneFmt sx
  let w := laneWidth sx
  let n := 2048 / w
  let us := if r = 1 then srList n s.desc.srgen else []
  let step (s : State) : State := if r = 1 then s.modDesc (fun e => { e with srgen := srSteps n e.srgen }) else s
  let va := s.vAddrs a.toNat
  .next (s.vissue (va ++ s.maskAddrs m) (s.vAddrs d.toNat) l 10 (fun s =>
    let (mv, mbad) := s.maskVal m.toNat
    let x := s.vsrc va
    let els := (List.range n).map (fun i =>
      let e := x.el w i
      ({ e with bad := e.bad || mbad }, mv.testBit i, if r = 1 then .rsr (us.getD i 0) else s.rm))
    let bs := quantBlocks f s.vmode t.toNat els (n / 32)
    let codes := bs.flatMap (fun b => b.1)
    let low := wordsOf 16 4 (codes.map (fun e => { e with bad := e.bad || mbad }))
    let high := wordsOf 16 8 (bs.map (fun b => { b.2 with bad := b.2.bad || mbad }))
    (step { s with free := s.free + 2 }, low ++ high, flagsOf codes)))

/-- VDEQ (R166): s selects the result type, h the upper blocks. -/
def execVdeq (sx : BitVec 1) (l : BitVec 4) (m : BitVec 3) (h : BitVec 1) (a d : BitVec 4) (s : State) : Out1 :=
  let f := laneFmt sx
  let w := laneWidth sx
  .next (s.velem l m d [a.toNat] false 6 (2048 / w) w (fun md xs _ i =>
    let x := nthSrc xs 0
    let j := if h = 1 then i + 64 else i
    let c := x.el 4 j
    let e := x.el 8 (128 + j / 32)
    ⟨(f.enc true false .rne (blockDec md.nsr (e.val / 64) (e.val % 64) c.val)).bits, Flags.none, c.bad || e.bad⟩))

/-! ## Masks, moves, permutes (R167-R172) -/

/-- An instruction on whole mask registers (R167). -/
def State.vmaskOp (s : State) (l : BitVec 4) (srcs : List Nat) (d : BitVec 3) (g : Nat → Nat → Nat) : State :=
  s.vissue (srcs.flatMap s.mAddrs) (s.mAddrs d.toNat) l 4 (fun s =>
    let xs := srcs.map (fun k => s.vsrc (s.mAddrs k))
    let a := nthSrc xs 0
    let b := nthSrc xs 1
    let v := g a.v b.v
    (s, (List.range 2).map (fun j => ⟨BitVec.ofNat 64 (v / 2 ^ (64 * j)), a.bad.contains j || b.bad.contains j⟩), Flags.none))

/-- MAND (R167). -/
def execMand (l : BitVec 4) (b a d : BitVec 3) (s : State) : Out1 :=
  .next (s.vmaskOp l [a.toNat, b.toNat] d (fun x y => x &&& y))
/-- MOR (R167). -/
def execMor (l : BitVec 4) (b a d : BitVec 3) (s : State) : Out1 :=
  .next (s.vmaskOp l [a.toNat, b.toNat] d (fun x y => x ||| y))
/-- MNOT (R167). -/
def execMnot (l : BitVec 4) (a d : BitVec 3) (s : State) : Out1 :=
  .next (s.vmaskOp l [a.toNat] d (fun x _ => 2 ^ 128 - 1 - x % 2 ^ 128))

/-- MPOP (R167). -/
def execMpop (d : BitVec 5) (l : BitVec 4) (b : BitVec 3) (s : State) : Out1 :=
  let mb := s.mAddrs b.toNat
  .next (s.vissue mb [s.wAddr d.toNat] l 4 (fun s =>
    let x := s.vsrc mb
    (s, [⟨BitVec.ofNat 64 (popNat 128 x.v), x.bad != []⟩], Flags.none)))

/-- The bits of an element of a size code SC: .E32, .E64, .E16, .E8 (R154). -/
def scBits (z : BitVec 2) : Nat :=
  match z.toNat with
  | 0 => 32
  | 1 => 64
  | 2 => 16
  | _ => 8

/-- VMOV (R168). -/
def execVmov (l : BitVec 4) (m : BitVec 3) (z : BitVec 2) (a d : BitVec 4) (s : State) : Out1 :=
  let w := scBits z
  .next (s.velem l m d [a.toNat] false 4 (2048 / w) w (unEl w (fun _ x => (x, Flags.none))))

/-- VBCAST (R168). -/
def execVbcast (a : BitVec 5) (l : BitVec 4) (m : BitVec 3) (z : BitVec 2) (d : BitVec 4) (s : State) : Out1 :=
  let w := scBits z
  let vd := s.vAddrs d.toNat
  .next (s.vissue ([s.wAddr a.toNat] ++ s.maskAddrs m ++ (if m = 0 then [] else vd)) vd l 4 (fun s =>
    let (mv, mbad) := s.maskVal m.toNat
    let x := s.w a.toNat
    let es := maskedEls (2048 / w) w mv mbad (s.vsrc vd) (fun _ => ⟨x.val.toNat % 2 ^ w, Flags.none, x.bad⟩)
    ({ s with free := s.free + 2 }, wordsOf 32 w es, Flags.none)))

/-- The size and index of an element selector (R169). -/
def elemSel (e : BitVec 7) : Nat × Nat := if e.toNat < 64 then (32, e.toNat) else (64, e.toNat % 32)

/-- VEXTR (R169): it reads the doubleword that holds the element. -/
def execVextr (w : BitVec 5) (l : BitVec 4) (e : BitVec 7) (b : BitVec 4) (s : State) : Out1 :=
  let (n, i) := elemSel e
  let a := (s.vAddrs b.toNat).getD (n * i / 64) 0
  .next (s.vissue [a] [s.wAddr w.toNat] l 4 (fun s =>
    let x := (s.vsrc [a]).el n (n * i % 64 / n)
    (s, [⟨BitVec.ofNat 64 x.val, x.bad⟩], Flags.none)))

/-- VINS (R169): only the doubleword that holds the element is read and written. -/
def execVins (w : BitVec 5) (l : BitVec 4) (e : BitVec 7) (b : BitVec 4) (s : State) : Out1 :=
  let (n, i) := elemSel e
  let a := (s.vAddrs b.toNat).getD (n * i / 64) 0
  .next (s.vissue [s.wAddr w.toNat, a] [a] l 4 (fun s =>
    let x := s.w w.toNat
    let y := s.mem.word a
    let r : PWord := if n = 64 then x
      else ⟨putBytes y.val (4 * i) 4 x.val.toNat, x.bad || y.bad⟩
    (s, [r], Flags.none)))

/-- The bits of .E32 and .E16 (R154). -/
def zBits (z : BitVec 1) : Nat := if z = 0 then 32 else 16

/-- VPERM (R170). -/
def execVperm (z : BitVec 1) (l : BitVec 4) (m : BitVec 3) (b a d : BitVec 4) (s : State) : Out1 :=
  let w := zBits z
  .next (s.velem l m d [a.toNat, b.toNat] false 4 (2048 / w) w (fun _ xs _ i =>
    let u := (nthSrc xs 1).el w i
    if u.val < 2048 / w then
      let x := (nthSrc xs 0).el w u.val
      { x with bad := x.bad || u.bad }
    else ⟨0, Flags.none, u.bad⟩))

/-- VSLIDE (R171). -/
def execVslide (w : BitVec 5) (l : BitVec 4) (b d : BitVec 4) (s : State) : Out1 :=
  let vb := s.vAddrs b.toNat
  .next (s.vissue ([s.wAddr w.toNat] ++ vb) (s.vAddrs d.toNat) l 4 (fun s =>
    let x := s.w w.toNat
    let src := s.vsrc vb
    let es := (List.range 256).map (fun j =>
      let k : Int := j + x.val.toInt
      let e : El := if 0 ≤ k ∧ k < 256 then src.el 8 k.toNat else ⟨0, Flags.none, false⟩
      { e with bad := e.bad || x.bad })
    (s, wordsOf 32 8 es, Flags.none)))

/-- VSEL (R172): the mask selects, and vd is not read. -/
def execVsel (z : BitVec 1) (l : BitVec 4) (m : BitVec 3) (b a d : BitVec 4) (s : State) : Out1 :=
  let w := zBits z
  let va := s.vAddrs a.toNat
  let vb := s.vAddrs b.toNat
  .next (s.vissue (va ++ vb ++ s.mAddrs m.toNat) (s.vAddrs d.toNat) l 4 (fun s =>
    let (mv, mbad) := s.maskVal m.toNat
    let x := s.vsrc va
    let es := maskedEls (2048 / w) w mv mbad (s.vsrc vb) (fun i => x.el w i)
    ({ s with free := s.free + 2 }, wordsOf 32 w es, Flags.none)))

/-! ## Reductions (R102, R173) -/

/-- One level of the tree: neighbours combined, the even one on the left (R102). -/
def pairUp (g : El → El → El) : List El → List El
  | a :: b :: t => g a b :: pairUp g t
  | l => l

/-- The root of a tree of k levels (R102). -/
def treeRoot (g : El → El → El) : Nat → List El → El
  | 0, l => l.headD ⟨0, Flags.none, false⟩
  | k + 1, l => treeRoot g k (pairUp g l)

/-- The format of a reduction type: .FP32, .BF16, .FP16 (R154). -/
def redFmt (t : BitVec 4) : Fmt :=
  match t.toNat with
  | 0 => fp32
  | 1 => bf16
  | _ => fp16

/-- A reduction: `out` the value with which an inactive element enters, `g` a node (R102, R173). -/
def State.vred (s : State) (w : BitVec 5) (l : BitVec 4) (m : BitVec 3) (b t : BitVec 4) (idle : Nat)
    (g : VMode → Val → Val → Nat × Flags) : State :=
  let f := redFmt t
  let n := 2048 / f.bits
  let vb := s.vAddrs b.toNat
  s.vissue (vb ++ s.maskAddrs m) [s.wAddr w.toNat] l 12 (fun s =>
    let (mv, mbad) := s.maskVal m.toNat
    let md := s.vmode
    let x := s.vsrc vb
    let leaves := (List.range n).map (fun i =>
      let e := x.el f.bits i
      if mv.testBit i then
        ⟨(fp32.enc true false .rne (f.dec true md.fz e.val)).bits, Flags.none, e.bad || mbad⟩
      else ⟨idle, Flags.none, mbad⟩)
    let node (p q : El) : El :=
      let (v, fl) := g md (fp32.dec true md.fz p.val) (fp32.dec true md.fz q.val)
      ⟨v, fl ||| p.flags ||| q.flags, p.bad || q.bad⟩
    let r := treeRoot node (if n = 64 then 6 else 7) leaves
    ({ s with free := s.free + 2 }, [⟨BitVec.ofNat 64 r.val, r.bad⟩], if r.bad then Flags.none else r.flags))

/-- VREDSUM (R173). -/
def execVredsum (w : BitVec 5) (l : BitVec 4) (m : BitVec 3) (b t : BitVec 4) (s : State) : Out1 :=
  .next (s.vred w l m b t 0x80000000 (fun md x y => (fpAdd fp32 md.fz md.rm x y).pair))
/-- VREDMAX (R173). -/
def execVredmax (w : BitVec 5) (l : BitVec 4) (m : BitVec 3) (b t : BitVec 4) (s : State) : Out1 :=
  .next (s.vred w l m b t 0xFF800000 (fun _ x y => ((fp32.enc true false .rne (x.maxOf y)).bits, Flags.none)))
/-- VREDMIN (R173). -/
def execVredmin (w : BitVec 5) (l : BitVec 4) (m : BitVec 3) (b t : BitVec 4) (s : State) : Out1 :=
  .next (s.vred w l m b t 0x7F800000 (fun _ x y => ((fp32.enc true false .rne (x.minOf y)).bits, Flags.none)))

/-! ## Lane cycles and fills (R143, R145, R146) -/

/-- The lea to which a slot's lane cycles and turns belong (R145, R378, R379). -/
def Core.slotLea (c : Core) (k : Nat) : Option Nat :=
  let x := c.slot k
  if x.vacated then none
  else if x.run != .absent then x.lea
  else match c.handover with
    | some h => if h.restored.contains k then some h.into else c.lea
    | none => c.lea

/-- The oldest unserved entry of a slot that may be served in this cycle: an entry issued in the cycle waits (R145). -/
def State.vHead (s : State) (core slot : Nat) : Option Nat :=
  match s.outs.find? (fun o => o.inVQueue core slot) with
  | none => none
  | some o =>
    let x := s.slot core slot
    if x.tid = o.tid ∧ x.issued = o.born ∧ x.lastIssue = s.cycle core then none else some o.id

/-- The slot that the present lane cycle serves: its owner, or the first after it of the same lea with an entry (R145). A cycle whose
owner has only an entry of this same core cycle counts as spare, which is the model's choice (log 100). -/
def State.laneSlot (s : State) (core : Nat) : Option Nat :=
  let c := s.core core
  let o := s.cycle core / 4 % 16
  (List.range 16).findSome? (fun k =>
    let t := (o + k) % 16
    if (s.vHead core t).isSome ∧ (k = 0 ∨ ((c.slotLea o).isSome ∧ c.slotLea t = c.slotLea o)) then some t else none)

/-- Whether a core's turn of the present cycle is over, so that its lanes and its array act (R145, R177). -/
def State.turnOver (s : State) (core : Nat) : Bool := decide (s.cycle core < (s.core core).turned)

/-- VECTOR_SERVE (R143-R145): in a lane cycle of a core the lanes serve one entry, after the turn of the cycle, so that the place
it frees is free from the next cycle on. -/
def State.vectorServe (s : State) (core : Nat) : State :=
  let t := s.cycle core
  if t % 4 ≠ core % 4 ∨ t < (s.core core).laned ∨ !s.turnOver core then s
  else
    match s.laneSlot core with
    | none => s
    | some k =>
      match s.vHead core k with
      | none => s
      | some id => (s.modCore core (fun c => { c with laned := t + 1 })).modOut id (fun o => match o.work with
          | .vector v f d _ => { o with work := .vector v f d (some t) }
          | _ => o)

/-- VECTOR_SERVE (R145). -/
def execVectorServe (core : Nat) (s : State) : Out1 := .next (s.vectorServe core)

/-- VECTOR_FILL (R146, R150): at the end of cycle t + D the words are written and the flags raised. -/
def execVectorFill (id : Nat) (s : State) : Out1 :=
  .next (match s.out id with
    | some o => (match o.work with
      | .vector vals fl d (some t) => if t + d < s.cycle o.core then s.fillOut o vals fl else s
      | _ => s)
    | none => s)

end Sys2Proof.Machine
end

