-- ==== Sys2Proof/Machine/Matrix.lean ====
section
/-! DEFINITION. Matrix bays: the bay queue and its conditions (R177-R179), configurations and layouts (R182-R185), the
matrix instructions (R187-R197), what their entries do, and the port's transfers (R189, R196, R197, R200). -/

namespace Sys2Proof.Machine

/-! ## Configurations (R182-R185) -/

/-- AF of a configuration (R182). -/
def cfgAF (c : BitVec 10) : Nat := (c.extractLsb' 0 4).toNat

/-- WF of a configuration (R182). -/
def cfgWF (c : BitVec 10) : Nat := (c.extractLsb' 4 4).toNat

/-- SHP of a configuration (R182). -/
def cfgSHP (c : BitVec 10) : Nat := (c.extractLsb' 8 2).toNat

/-- The columns N of a shape (R182). -/
def shpN (shp : Nat) : Nat := 128 / 2 ^ shp

/-- The rows M of a configuration (R182). -/
def cfgRows (c : BitVec 10) : Nat := 32 * 2 ^ cfgSHP c

/-- The class of a pair of formats (R183). -/
def matClass (af wf : Nat) : Nat := if af = 6 ∧ wf = 6 then 4 else if af = 5 ∧ wf = 5 then 16 else 8

/-- The base K of a class (R183). -/
def baseK (cls : Nat) : Nat :=
  match cls with
  | 4 => 128
  | 16 => 32
  | _ => 64

/-- The run length of a class (R183). -/
def runLen (cls : Nat) : Nat := if cls = 16 then 8 else 32

/-- K of a configuration (R183). -/
def cfgK (c : BitVec 10) : Nat := baseK (matClass (cfgAF c) (cfgWF c)) * (128 / shpN (cfgSHP c))

/-- Whether a configuration value is refused (R184). -/
def cfgBad (w : Word) : Bool :=
  let c := w.extractLsb' 0 10
  let af := cfgAF c
  let wf := cfgWF c
  w.extractLsb' 10 54 != 0 || decide (7 ≤ af) || decide (7 ≤ wf) || cfgSHP c == 3 || ((af == 5) != (wf == 5))
    || (matClass af wf == 4 && cfgSHP c == 2)

/-- The width in bits of a format code (R185). -/
def matBits (f : Nat) : Nat :=
  match f with
  | 6 => 4
  | 2 => 6
  | 3 => 6
  | 5 => 16
  | _ => 8

/-- The bytes P of a column in the plane of a configuration (R185). -/
def cfgP (c : BitVec 10) : Nat := cfgK c * matBits (cfgWF c) / 8

/-- The size of the plane of a configuration (R185). -/
def planeSize (c : BitVec 10) : Nat :=
  let n := shpN (cfgSHP c)
  n * cfgP c + (if cfgWF c = 6 then n * (cfgK c / 32) else 0)

/-! ## The bay and the issue view (R177-R180) -/

/-- A tile of a bay. -/
def Bay.tile (b : Bay) (t : Nat) : Tile := b.tiles.getD t Tile.reset

/-- A bay with a tile changed. -/
def Bay.modTile (b : Bay) (t : Nat) (f : Tile → Tile) : Bay := { b with tiles := listMod b.tiles t f }

/-- The issue view of a tile's configuration: what the queued entries will leave (R179). -/
def Bay.viewCfg (b : Bay) (t : Nat) : BitVec 10 :=
  b.queue.foldl (fun c e => match e.op with
    | .mcfg u v => if u = t then v else c
    | _ => c) (b.tile t).cfg

/-- The issue view of the active plane's records (R179). -/
def Bay.viewPlane (b : Bay) : BitVec 4 × BitVec 2 :=
  let swaps := (b.queue.filter (fun e => e.op == .mswap)).length
  let p := if swaps % 2 = 0 then b.active else b.shadow
  (p.wf, p.shp)

/-- Whether the queue has a free entry: an entry leaves it when performed (R177). -/
def Bay.hasRoom (b : Bay) : Bool := decide ((b.queue.filter (fun e => e.done.isNone)).length < 4)

/-- Whether the queue is empty (R177). -/
def Bay.isEmpty (b : Bay) : Bool := (b.queue.filter (fun e => e.done.isNone)).isEmpty

/-- Whether an entry is an MSAVE. -/
def BayOp.isSave : BayOp → Bool
  | .msave _ _ _ _ _ _ => true
  | _ => false

/-- Whether the port is idle: no transfer runs, and no MSAVE waits to start one (R178; log 18). -/
def Bay.portIdle (b : Bay) : Bool := b.port.isNone && !b.queue.any (fun e => e.op.isSave)

/-- Whether a transfer of a kind is in progress. -/
def Bay.busyWith (b : Bay) (kind : Nat) : Bool :=
  match b.port with
  | some j => j.kind == kind
  | none => false

/-- The rest of a matrix instruction where its conditions of R178 hold; else its thread forfeits. -/
def State.withBay (s : State) (cond : Bay → Bool) (f : State → State) : State :=
  s.withPool (fun s => if cond s.myCore.bay && !s.myCore.bay.busyWith 2 then f s else s.forfeit)

/-- The acting core's bay changed. -/
def State.modBay (s : State) (core : Nat) (f : Bay → Bay) : State := s.modCore core (fun c => { c with bay := f c.bay })

/-- An entry placed at the tail of the bay queue, with its item of outstanding work (R177, R180). -/
def State.bayEnqueue (s : State) (windowed : Bool) (look : BitVec 4) (dst : List Nat) (w : Work) (op : BayOp) : State :=
  let o := s.newOut 4 windowed look.toNat dst w
  let s1 := (s.addOut o).markPending dst
  (s1.modBay s.cur.1 (fun b => { b with queue := b.queue ++ [⟨o.id, op, s.cycle s.cur.1, none⟩] })).issue 4

/-! ## Instructions -/

/-- MCFG (R187). -/
def execMcfg (l : BitVec 4) (b : BitVec 5) (t : BitVec 2) (s : State) : Out1 :=
  .next (s.withOperands [s.wAddr b.toNat] [] (fun s => s.withBay Bay.hasRoom (fun s =>
    s.needClean 4 0x13 b.toNat (fun s =>
      let w := (s.w b.toNat).val
      if cfgBad w then s.raise 4 0x06 w
      else s.bayEnqueue true l [] .bay (.mcfg t.toNat (w.extractLsb' 0 10))))))

/-- MZERO (R188). -/
def execMzero (l : BitVec 4) (t : BitVec 2) (s : State) : Out1 :=
  .next (s.withBay Bay.hasRoom (fun s => s.bayEnqueue true l [] .bay (.mzero t.toNat)))

/-- MSWAP (R190). -/
def execMswap (l : BitVec 4) (s : State) : Out1 :=
  .next (s.withBay (fun b => b.hasRoom && !b.busyWith 0) (fun s => s.bayEnqueue true l [] .bay .mswap))

/-- MSTEP (R191): the thread is In matrix step until the step takes effect (R180). -/
def execMstep (l : BitVec 4) (m : BitVec 3) (b : BitVec 5) (v : BitVec 4) (t : BitVec 2) (s : State) : Out1 :=
  let va := s.vAddrs v.toNat
  .next (s.withOperands (va ++ s.maskAddrs m ++ [s.wAddr b.toNat]) [] (fun s => s.withBay Bay.hasRoom (fun s =>
    s.needClean 4 0x10 b.toNat (fun s =>
      let w := (s.w b.toNat).val
      let c := s.myCore.bay.viewCfg t.toNat
      if cfgRows c ≤ w.toNat then s.raise 4 0x06 w
      else if s.myCore.bay.viewPlane ≠ (c.extractLsb' 4 4, c.extractLsb' 8 2) then s.raise 4 0x07 (c.setWidth 64)
      else
        let (mv, mbad) := s.maskVal m.toNat
        let bad := if mbad then List.range 32 else s.badList va
        let op : BayOp := .mstep t.toNat w.toNat (s.v v.toNat) bad (BitVec.ofNat 128 mv) s.nsr s.fz
        ({ s with free := s.free + 2 }.bayEnqueue false l [] .bay op).modMe (fun x => { x with run := .matrixStep })))))

/-- The elements that a drain format delivers (R192). -/
def drainCount (f : Nat) : Nat := if f = 0 then 64 else 128

/-- MDRAIN (R192). -/
def execMdrain (l : BitVec 4) (r f : BitVec 3) (b : BitVec 5) (v : BitVec 4) (t : BitVec 2) (s : State) : Out1 :=
  let vd := s.vAddrs v.toNat
  .next (s.withOperands [s.wAddr b.toNat] vd (fun s => s.withBay Bay.hasRoom (fun s =>
    s.needClean 4 0x10 b.toNat (fun s =>
      let w := (s.w b.toNat).val
      let d := drainCount f.toNat
      if w.toNat % d ≠ 0 ∨ 4096 < w.toNat + d then s.raise 4 0x06 w
      else
        let rm := if r = 0 then s.desc.stat.extractLsb' 0 2 else r.extractLsb' 0 2
        s.bayEnqueue true l vd .bay (.mdrain t.toNat w.toNat f.toNat rm s.nsr s.fz)))))

/-- MFLAGS (R194); a poisoned clear mask has undefined bits (R422). -/
def execMflags (l : BitVec 4) (b : BitVec 5) (s : State) : Out1 :=
  .next (s.withOperands [s.wAddr b.toNat] [s.wAddr b.toNat] (fun s => s.withBay Bay.hasRoom (fun s =>
    let x := s.w b.toNat
    let m := if x.bad then s.undef s.me.lea s.free else x.val
    { s with free := s.free + 1 }.bayEnqueue true l [s.wAddr b.toNat] .bay (.mflags (m.extractLsb' 0 32)))))

/-- The checks of a port instruction: the segment check, then a multiple of 64 (R189, R196). -/
def State.portCheck (s : State) (k : BitVec 3) (b n : Nat) (right : Right) (f : State → Nat → State) : State :=
  s.needClean 4 0x10 b (fun s =>
    let g := s.seg k.toNat
    let off := (s.w b).val
    match segFail g (s.extent g.space) off.toNat n [right] dataSpaces with
    | some c => s.raise 4 c off
    | none => if off.toNat % 64 ≠ 0 then s.raise 4 0x25 off else f s (g.base.toNat + off.toNat))

/-- The events of a transfer of n bytes at an address: one for each doubleword of memory, as offsets in the image and bytes
(R205). Where the segment's BASE makes the address no multiple of 8, the first and the last are parts of one (log 79). -/
def portPieces (addr n : Nat) : List (Nat × Nat) :=
  let r := addr % 8
  if r = 0 then (List.range (n / 8)).map (fun i => (8 * i, 8))
  else (0, 8 - r) :: ((List.range (n / 8 - 1)).map (fun i => (8 - r + 8 * i, 8)) ++ [(n - r, r)])

/-- A transfer of the acting thread through the port (R189, R197). -/
def State.newJob (s : State) (id kind t addr n : Nat) (k : BitVec 3) (b : Nat) : PortJob :=
  { outId := id, kind := kind, tile := t, space := (s.seg k.toNat).space, die := dieOf s.cur.1, addr := addr,
    sgOff := (s.w b).val.toNat, size := n, left := portPieces addr n, image := [], bad := [], flow := [], parked := none, stalled := none }

/-- The rest of a port instruction where its bay conditions and the relaxed limit hold (R178, R231). -/
def State.withPort (s : State) (cond : Bay → Bool) (f : State → State) : State :=
  s.withBay (fun b => cond b && b.portIdle) (fun s => s.withLimit .relaxed f)

/-- MLOAD (R189): the shadow plane records WF and SHP at issue. -/
def execMload (l : BitVec 4) (k : BitVec 3) (b : BitVec 5) (t : BitVec 2) (s : State) : Out1 :=
  .next (s.withOperands [s.wAddr b.toNat] [] (fun s =>
    s.withPort (fun y => !y.queue.any (fun e => e.op == .mswap)) (fun s =>
      let c := s.myCore.bay.viewCfg t.toNat
      s.portCheck k b.toNat (planeSize c) .r (fun s a =>
        let o := s.newOut 4 true l.toNat [] .port
        let j := s.newJob o.id 0 t.toNat a (planeSize c) k b.toNat
        ((s.addOut o).modBay s.cur.1 (fun y =>
          { y with port := some j, shadow := { y.shadow with wf := c.extractLsb' 4 4, shp := c.extractLsb' 8 2 } })).issue 4))))

/-- MSAVE (R196). -/
def execMsave (l : BitVec 4) (k : BitVec 3) (b : BitVec 5) (t : BitVec 2) (s : State) : Out1 :=
  .next (s.withOperands [s.wAddr b.toNat] [] (fun s =>
    s.withPort Bay.hasRoom (fun s => s.portCheck k b.toNat 16448 .w (fun s a =>
      s.bayEnqueue true l [] .port
        (.msave t.toNat k.toNat (s.seg k.toNat).space (dieOf s.cur.1) a (s.w b.toNat).val.toNat)))))

/-- MREST (R197). -/
def execMrest (l : BitVec 4) (k : BitVec 3) (b : BitVec 5) (t : BitVec 2) (s : State) : Out1 :=
  .next (s.withOperands [s.wAddr b.toNat] [] (fun s =>
    s.withPort Bay.isEmpty (fun s => s.portCheck k b.toNat 16448 .r (fun s a =>
      let o := s.newOut 4 true l.toNat [] .port
      let j := s.newJob o.id 2 t.toNat a 16448 k b.toNat
      ((s.addOut o).modBay s.cur.1 (fun y => { y with port := some j })).issue 4))))

/-! ## A matrix step (R100, R101, R191) -/

/-- n bytes of a list of cells as a number, from the last down. -/
def Cells.num (c : Cells) : Nat := c.foldr (fun p acc => acc + p.2.toNat * 256 ^ p.1) 0

/-- A number as a list of n cells. -/
def cellsOf (v : Nat) (n : Nat) : Cells :=
  ((List.range n).map (fun i => (i, BitVec.ofNat 8 (v / 256 ^ i)))).filter (fun p => p.2 != 0#8)

/-- The value of an element: a code of a format, with the scale byte of its block (R81-R86, R185). -/
def matDec (f : Nat) (nsr fz : Bool) (scale code : Nat) : Val :=
  match f with
  | 0 => e4m3.dec nsr fz code
  | 1 => e5m2.dec nsr fz code
  | 2 => e3m2.dec nsr fz code
  | 3 => e2m3.dec nsr fz code
  | 4 => Val.ofInt (BitVec.ofNat 8 code).toInt
  | 5 => bf16.dec nsr fz code
  | _ => blockDec nsr (scale / 64) (scale % 64) code

/-- The sum of a run's products so far: its exact value, whether any operand was NaN, whether an operation was invalid, and
whether poison entered. -/
structure RunSum where
  val : Option Val
  nan : Bool
  bad : Bool
  deriving DecidableEq, Repr

/-- A product added to a run exactly (R100, R101). -/
def RunSum.add (r : RunSum) (a w : Val) (bad : Bool) : RunSum :=
  let p := (Val.mul a w).1
  ⟨some (match r.val with
      | none => p
      | some v => (Val.add .rne v p).1), r.nan || a == .nan || w == .nan, r.bad || bad⟩

/-- What one column reads: the activation and the plane as numbers, with their poisoned doublewords. -/
structure StepIn where
  cfg : BitVec 10
  act : VSrc
  plane : VSrc
  mask : MReg
  nsr : Bool
  fz : Bool

/-- Activation element k: its value and poison; an inactive one is +0 (R191). -/
def StepIn.actEl (x : StepIn) (k : Nat) : Val × Bool :=
  let f := cfgAF x.cfg
  let kk := cfgK x.cfg
  let bit := if 128 < kk then k * 128 / kk else k
  if !x.mask.getLsbD bit then (.fin false 0 0, false)
  else
    let e := x.act.el (matBits f) k
    let sc := if f = 6 then x.act.el 8 (128 + k / 32) else ⟨0, Flags.none, false⟩
    (matDec f x.nsr x.fz sc.val e.val, e.bad || sc.bad)

/-- Weight element k of column n (R185). -/
def StepIn.weightEl (x : StepIn) (n k : Nat) : Val × Bool :=
  let f := cfgWF x.cfg
  let p := cfgP x.cfg
  let e := x.plane.el (matBits f) (n * p * 8 / matBits f + k)
  let sc := if f = 6 then x.plane.el 8 (shpN (cfgSHP x.cfg) * p + n * (cfgK x.cfg / 32) + k / 32) else ⟨0, Flags.none, false⟩
  (matDec f x.nsr x.fz sc.val e.val, e.bad || sc.bad)

/-- The sum of run j of column n. -/
def StepIn.run (x : StepIn) (n j : Nat) : RunSum :=
  let len := runLen (matClass (cfgAF x.cfg) (cfgWF x.cfg))
  (List.range len).foldl (fun r i =>
    let (a, ab) := x.actEl (j * len + i)
    let (w, wb) := x.weightEl n (j * len + i)
    r.add a w (ab || wb)) ⟨none, false, false⟩

/-- An accumulator element with the flags of its tile and its poison (R101). -/
structure AccEl where
  val : Nat
  flags : BitVec 4
  bad : Bool

/-- One run accumulated with one rounding (R100, R101). -/
def AccEl.accum (a : AccEl) (r : RunSum) : AccEl :=
  let sv := r.val.getD (.fin false 0 0)
  let av := fp32.dec true false a.val
  let res := fpAdd fp32 false .rne av sv
  let invalid := (sv == .nan && !r.nan) || (fp32.dec true false res.bits == .nan && av != .nan && sv != .nan)
  let fl : BitVec 4 := (if invalid then 1 else 0) ||| (if res.flags.getLsbD 2 then 2 else 0) ||| (if res.flags.getLsbD 4 then 8 else 0)
  if a.bad || r.bad then ⟨0, a.flags, true⟩ else ⟨res.bits, a.flags ||| fl, false⟩

/-- Column n of a step from its accumulator element (R191). -/
def StepIn.column (x : StepIn) (n : Nat) (acc : Nat) (bad : Bool) : AccEl :=
  let runs := cfgK x.cfg / runLen (matClass (cfgAF x.cfg) (cfgWF x.cfg))
  (List.range runs).foldl (fun a j => a.accum (x.run n j)) ⟨acc, 0, bad⟩

/-- A poison list with doublewords [a, a + n) as a function says. -/
def setBads (l : List Nat) (a n : Nat) (f : Nat → Bool) : List Nat :=
  (List.range n).foldl (fun l i => if f i then natIns l (a + i) else natDel l (a + i)) l

/-- MStep on a bay (R191); element i takes the undefined word `fresh i` where poison reached it (R422; log 7). -/
def Bay.step (b : Bay) (fresh : Nat → Word) (t row : Nat) (a : VReg) (aBad : List Nat) (mask : MReg) (nsr fz : Bool) : Bay :=
  let tl := b.tile t
  let n := shpN (cfgSHP tl.cfg)
  let x : StepIn := { cfg := tl.cfg, act := ⟨a.toNat, aBad⟩, plane := ⟨b.active.data.num, b.active.bad⟩, mask := mask,
                      nsr := nsr, fz := fz }
  let els := (List.range n).map (fun i =>
    let k := row * n + i
    x.column i (tl.data.read (4 * k) 4) (tl.bad.contains (k / 2)))
  let v := els.zipIdx.foldr (fun e acc =>
    (if e.1.bad then ((fresh e.2).extractLsb' 0 32).toNat else e.1.val) + 2 ^ 32 * acc) 0
  b.modTile t (fun tl =>
    { tl with
      data := tl.data.write (4 * row * n) (4 * n) v
      bad := setBads tl.bad (row * n / 2) (n / 2) (fun i =>
        (els[2 * i]?.map (fun e => e.bad)).getD false || (els[2 * i + 1]?.map (fun e => e.bad)).getD false)
      flags := els.foldl (fun f e => f ||| e.flags) tl.flags })

/-! ## What entries do (R177, R187-R196) -/

/-- A tile given a configuration (R187). -/
def Tile.configure (t : Tile) (v : BitVec 10) : Tile :=
  if v = t.cfg then t else ⟨[], [], v, 0, t.hist ||| t.flags⟩

/-- The format of a drain (R192). -/
def drainFmt (f : Nat) : Fmt :=
  match f with
  | 1 => bf16
  | 2 => fp16
  | 3 => e4m3
  | _ => e5m2

/-- A drained element, and whether it was delivered as ±M in place of a larger magnitude (R89, R192). -/
def drainEl (f : Nat) (rm : Rm) (nsr fz : Bool) (bits : Nat) : Nat × Flags × Bool :=
  if f = 0 then (bits, Flags.none, false)
  else
    let fm := drainFmt f
    let r := fm.enc nsr fz rm (fp32.dec true fz bits)
    (r.bits, r.flags, r.flags.getLsbD 2 && r.bits % 2 ^ (fm.eb + fm.mb) == fm.maxCode nsr)

/-- The words that a drain delivers, their flags, and whether an element was saturated (R192, R201). -/
def Tile.drain (t : Tile) (start f : Nat) (rm : Rm) (nsr fz : Bool) : List PWord × Flags × Bool :=
  let xs := (List.range (drainCount f)).map (fun i =>
    let k := start + i
    (drainEl f rm nsr fz (t.data.read (4 * k) 4), t.bad.contains (k / 2)))
  let es := xs.map (fun x => (⟨x.1.1, x.1.2.1, x.2⟩ : El))
  (wordsOf 32 (if f = 0 then 32 else (drainFmt f).bits) es, flagsOf es, xs.any (fun x => !x.2 && x.1.2.2))

/-- The flags and history of a bay as MFLAGS reads them (R194). -/
def Bay.flagsWord (b : Bay) : Word :=
  BitVec.ofNat 64 ((List.range 4).foldl (fun v t =>
    v + (b.tile t).flags.toNat * 2 ^ (4 * t) + (b.tile t).hist.toNat * 2 ^ (16 + 4 * t)) 0)

/-- A bay with the flag and history bits of a mask cleared (R194). -/
def Bay.clearFlags (b : Bay) (m : BitVec 32) : Bay :=
  (List.range 4).foldl (fun b t => b.modTile t (fun x =>
    { x with flags := x.flags &&& ~~~(m.extractLsb' (4 * t) 4), hist := x.hist &&& ~~~(m.extractLsb' (16 + 4 * t) 4) })) b

/-- The image of a tile (R195), and the numbers of its poisoned doublewords. -/
def Tile.image (t : Tile) : Cells × List Nat :=
  (Cells.write (Cells.write [] 0 8 t.cfg.toNat) 8 8 t.flags.toNat ++ t.data.map (fun p => (p.1 + 64, p.2)), t.bad.map (fun i => i + 8))

/-- A thread In matrix step whose step took effect is Ready, or will be where debug lets it go on (R180, R396). -/
def Slot.stepDone (x : Slot) : Slot :=
  if x.run = .matrixStep then { x with run := .ready }
  else if x.debugHalt = some .matrixStep then { x with debugHalt := some .ready }
  else x

/-- An entry's effect on its core and its thread (R187-R196). -/
def State.bayEffect (s : State) (core : Nat) (e : BayEntry) : State :=
  let s := s.modBay core (fun b => { b with queue := b.queue.drop 1 })
  let b := (s.core core).bay
  match e.op with
  | .mcfg t v => (s.modBay core (fun b => b.modTile t (fun x => x.configure v))).dropOut e.outId
  | .mzero t => (s.modBay core (fun b => b.modTile t (fun x => { x with data := [], bad := [] }))).dropOut e.outId
  | .mswap => (s.modBay core (fun b => { b with active := b.shadow, shadow := b.active })).dropOut e.outId
  | .mstep t row a bad m nsr fz =>
    let s1 := { s with free := s.free + 128 }.modBay core (fun b => b.step (fun i => s.undef (s.core core).lea (s.free + i)) t row a bad m nsr fz)
    match s.out e.outId with
    | some o => (s1.modSlot core o.slot (fun x => if x.tid = o.tid then x.stepDone else x)).dropOut e.outId
    | none => s1
  | .mdrain t start f rm nsr fz =>
    let (vals, fl, sat) := (b.tile t).drain start f (Rm.ofRM rm) nsr fz
    let s1 := if sat then s.modBay core (fun b => b.modTile t (fun x => { x with flags := x.flags ||| 4 })) else s
    match s.out e.outId with
    | some o => s1.fillOut o vals fl
    | none => s1
  | .mflags m =>
    let s1 := s.modBay core (fun b => b.clearFlags m)
    match s.out e.outId with
    | some o => s1.fillOut o [⟨b.flagsWord, false⟩] Flags.none
    | none => s1
  | .msave t _ space die addr off =>
    let (img, bad) := (b.tile t).image
    let job : PortJob :=
      { outId := e.outId, kind := 1, tile := t, space := space, die := die, addr := addr, sgOff := off,
        size := 16448, left := portPieces addr 16448, image := img, bad := bad, flow := [], parked := none, stalled := none }
    s.modBay core (fun b => { b with port := some job })

/-- The queue with its first unperformed entry performed in a cycle, where it issued before (R177). -/
def performFirst (cycle : Nat) : List BayEntry → List BayEntry
  | [] => []
  | e :: t =>
    if e.done.isSome then e :: performFirst cycle t
    else if e.issuedAt < cycle then { e with done := some cycle } :: t
    else e :: t

/-- BAY_ENTRY_PERFORM (R174, R177): an array cycle of the core performs the entry at the head of its queue, after the turn of
the cycle, so that the place it frees is free from the next cycle on. -/
def execBayEntryPerform (core : Nat) (s : State) : Out1 :=
  .next (
    let t := s.cycle core
    if t % 4 ≠ core % 4 ∨ t < (s.core core).arrayed ∨ !s.turnOver core then s
    else s.modCore core (fun c => { c with bay := { c.bay with queue := performFirst t c.bay.queue }, arrayed := t + 1 }))

/-- BAY_ENTRY_EFFECT (R177): an entry performed in cycle t takes effect at the end of cycle t + 4. -/
def execBayEntryEffect (core : Nat) (s : State) : Out1 :=
  .next (
    let c := s.core core
    match c.bay.queue with
    | e :: _ => (match e.done with
      | some t => if t + 4 < s.cycle core then s.bayEffect core e else s
      | none => s)
    | [] => s)

/-! ## Port transfers (R189, R196, R197, R200) -/

/-- The translation buffer after a unit of a core used addresses of a space (R389). -/
def State.usePages (s : State) (core lea space die : Nat) (need : List Right) (l : List Nat) : State :=
  if space = 4 then l.foldl (fun s a => s.usePage core lea die need a) s else s

/-- The rights that a transfer needs: a save writes (R386). -/
def PortJob.needs (j : PortJob) : List Right := if j.kind = 1 then [.w] else [.r]

/-- The places of pieces of a transfer, up to the first that is held: offset, bytes, address. -/
def State.portPlaces (s : State) (core slot lea : Nat) (j : PortJob) : List (Nat × Nat) → List (Nat × Nat × Nat) × Option (Nat × Place)
  | [] => ([], none)
  | (off, n) :: t =>
    match s.placeOf core slot lea j.space j.die (j.addr + off) j.needs with
    | .at a =>
      let (l, h) := s.portPlaces core slot lea j t
      ((off, n, a) :: l, h)
    | p => ([], some (off, p))

/-- The doublewords of an image that a piece touches. -/
def imageWords (off n : Nat) : List Nat := if off / 8 = (off + n - 1) / 8 then [off / 8] else [off / 8, (off + n - 1) / 8]

/-- The image with pieces read into it; the poison of a word goes to every doubleword of the image that it fills in part
(R201). -/
def readImage (m : Memory) (img : Cells) (bad : List Nat) : List (Nat × Nat × Nat) → Cells × List Nat
  | [] => (img, bad)
  | (off, n, a) :: t =>
    readImage m (img.write off n (m.read a n)) (if m.isBad a then (imageWords off n).foldl natIns bad else bad) t

/-- Pieces of the image written at their places. -/
def State.writeImage (s : State) (j : PortJob) : List (Nat × Nat × Nat) → State
  | [] => s
  | (off, n, a) :: t =>
    (s.unitStore a n (j.image.read off n) ((imageWords off n).any j.bad.contains)).writeImage j t

/-- The named buffers of collectives that pieces of a save wrote are noted (R220). -/
def State.spoilPieces (s : State) (o : Out) (l : List (Nat × Nat × Nat)) : State :=
  l.foldl (fun s p => s.spoil o.core o.lea p.2.2 p.2.1) s

/-- Whether a piece of a transfer may be performed: after every earlier access of the thread to its bytes, every acquire, every
access from before the thread left its slot, and every access that a fault held on its page (R189, R207, R212, R222). -/
def State.portMayGo (s : State) (o : Out) (j : PortJob) (off n : Nat) : Bool :=
  let h := s.homes o.core o.lea j.space j.die (j.addr + off) n
  (s.outs.filter (fun e => e.tid == o.tid && decide (e.id < o.id))).all (fun e =>
    match e.work with
    | .access y => !(y.acq && !y.allDone) && !(e.left.any (fun k => decide (k < o.born)) && !y.allDone)
        && y.parts.all (fun q => (q.stage == .performed || !homesMeet (s.homeWord e y.space y.die q) h)
          && !q.holdsPage y o.id j.space j.die (j.addr + off))
    | .port => !e.left.any (fun k => decide (k < o.born)) && !s.portTouches e h
    | .rsem => !e.left.any (fun k => decide (k < o.born))
    | _ => true)

/-- The tile that a restored image gives (R197); a poisoned CFG or FLAGS word reads as the undefined word `fresh 0` or `fresh 1` (R422;
log 7). -/
def Tile.restored (t : Tile) (img : Cells) (bad : List Nat) (fresh : Nat → Word) : Tile :=
  let cfg := if bad.contains 0 then fresh 0 else BitVec.ofNat 64 (img.read 0 8)
  let fl := if bad.contains 1 then fresh 1 else BitVec.ofNat 64 (img.read 8 8)
  if cfgBad cfg || fl.extractLsb' 4 60 != 0 then ⟨[], [], 0, 1, t.hist ||| t.flags⟩
  else
    { data := Cells.slice img 64 16384, bad := (bad.filter (fun i => decide (8 ≤ i))).map (fun i => i - 8),
      cfg := cfg.extractLsb' 0 10, flags := fl.extractLsb' 0 4,
      hist := t.hist ||| (t.flags &&& ~~~(fl.extractLsb' 0 4)) }

/-- A transfer that has moved all its bytes takes effect in the bay, and its instruction is complete (R189, R196, R197). The
bytes of a plane beyond the size that an MLOAD read are 0 (log 80). -/
def State.portFinish (s : State) (core : Nat) (j : PortJob) (img : Cells) (bad : List Nat) : State :=
  ({ s with free := s.free + 2 }.modBay core (fun b =>
    let b1 := { b with port := none }
    match j.kind with
    | 0 => { b1 with shadow := { b1.shadow with data := img, bad := bad } }
    | 1 => b1
    | _ => b1.modTile j.tile (fun t => t.restored img bad (fun i => s.undef (s.core core).lea (s.free + i))))).dropOut j.outId

/-- What the port can move now: the job, its item, the pieces left before the first held byte, and that byte. It reaches no slice that has
been saved (R375, R378). -/
def State.portView (s : State) (core : Nat) : Option (PortJob × Out × List (Nat × Nat × Nat) × Option (Nat × Place)) :=
  match (s.core core).bay.port with
  | none => none
  | some j =>
    match s.out j.outId with
    | none => none
    | some o =>
      if j.parked.isSome || !s.dieUp (dieOf core) || (j.kind == 2 && !(s.core core).bay.queue.isEmpty)
          || (j.space == 1 && (s.core core).slotSaved o.lea o.slot) then none
      else
        let (l, h) := s.portPlaces core o.slot o.lea j j.left
        some (j, o, l, h)

/-- The pieces that may be performed now: in order with the thread's accesses, a store not to a pending word, no read of a word still owed
a result by an earlier instruction of the thread, and after a fault the piece of the faulting byte first (R26, R65, R189, R200). -/
def State.portReady (s : State) (o : Out) (j : PortJob) (l : List (Nat × Nat × Nat)) : List (Nat × Nat × Nat) :=
  l.filter (fun p => s.portMayGo o j p.1 p.2.1
    && !(if j.kind = 1 then s.mem.isPending (dwordOf p.2.2) else s.owedBefore o (dwordOf p.2.2)) && j.stalled.all (fun k => k.1 == p.1))

/-- Those of a list of pieces whose accesses of HBM are served (R326). -/
def State.portServed (s : State) (j : PortJob) (l : List (Nat × Nat × Nat)) : List (Nat × Nat × Nat) :=
  l.filter (fun p => unitsServed s.now j.flow p.2.2 p.2.1)

/-- A thread that waits for its transfer to proceed goes on at its slot's next own turn (R200). -/
def State.portGoes (s : State) (o : Out) : State :=
  s.modSlot o.core o.slot (fun x => if x.tid = o.tid ∧ x.wait = .port then { x.wake with fresh := true } else x)

/-- Events of a transfer performed, and the transfer's end with its last (R189, R196, R197, R205). -/
def State.portMove (s : State) (core : Nat) (j : PortJob) (o : Out) (l : List (Nat × Nat × Nat)) : State :=
  let s := s.flushFor core o.lea
  let s1 := (s.usePages core o.lea j.space j.die j.needs (l.map (fun p => j.addr + p.1))).portGoes o
  let s2 := if j.kind = 1 then (s1.writeImage j l).spoilPieces o l else s1
  let (img, bad) := if j.kind = 1 then (j.image, j.bad) else readImage s.mem j.image j.bad l
  let left := j.left.filter (fun p => !l.any (fun q => q.1 == p.1))
  if left.isEmpty then s2.portFinish core j img bad
  else s2.modBay core (fun b => { b with port := some { j with left := left, image := img, bad := bad, stalled := none } })

/-- A transfer's accesses of HBM begun for some pieces, in service slots of its lea (R326). -/
def State.portBegin (s : State) (core : Nat) (j : PortJob) (o : Out) (l : List (Nat × Nat × Nat)) : State :=
  let (s1, flow) := s.beginUnits o.lea j.flow (l.flatMap (fun p => hbmUnits p.2.2 p.2.1))
  s1.modBay core (fun b => { b with port := some { j with flow := flow } })

/-- PORT_TRANSFER_DONE (R189, R196, R197, R205, R326): some of the transfer's events are performed, and it ends with the last; where no
event is served yet, accesses of HBM begin. -/
def execPortTransferDone (core : Nat) (s : State) : Out1 :=
  .next (match s.portView core with
    | some (j, o, l, _) =>
      let r := s.portReady o j l
      let served := s.portServed j r
      if served.isEmpty then (if r.isEmpty then s else s.portBegin core j o r)
      else { s with free := s.free + served.length }.portMove core j o (s.pickSome served)
    | none => s)

/-- PORT_TRANSFER_FAULT (R200): the transfer stops at the faulting byte, and its thread parks. -/
def execPortTransferFault (core : Nat) (s : State) : Out1 :=
  .next (match s.portView core with
    | some (j, o, [], some (off, p)) =>
      let stop (fr : Option Nat) (s : State) : State :=
        (s.modBay core (fun b => { b with port := some { j with parked := some fr, stalled := some (off, s.nextId) } })).modSlot
          core o.slot (fun x => if x.tid = o.tid ∧ (x.run = .ready ∨ x.run = .forfeiting) then { x with run := .parked, wait := .port } else x)
      match p with
      | .page f => (stop (some f) s).logPage o.lea f
      | .fault c =>
        ((stop none s).parkRecord core (some o.lea) o.slot .port o.ilen c o.pc (BitVec.ofNat 64 (j.sgOff + off)) 0).logFault o.lea c
          (j.sgOff + off)
      | .at _ => s
    | _ => s)

/-! ## The end of a transfer whose slot is vacated, or whose thread is removed (R176, R199, R378, R380, R406) -/

/-- An event of a thread's access performed at its home at once, where no fault holds it and its order lets it (R199, R378). -/
def State.hastenPart (s : State) (id i : Nat) : State :=
  match s.out id with
  | none => s
  | some o =>
    match o.access, o.parts[i]? with
    | some x, some p =>
      let waits : Bool := match p.stage with
        | .waiting _ => true
        | _ => false
      if p.stage == .performed || p.stage.held || waits || !s.mayGo o x i p || !s.dieUp o.die || s.localAway o x.space then s
      else if x.space = 6 then s.performWindow o x i p
      else
        let host : Option Nat := match p.pa with
          | some a => some a
          | none => match s.lookUp o.core o.lea o.die p.addr (o.needs i) with
            | .ok e => if o.paged then some (e.host p.addr) else none
            | _ => none
        match host with
        | some a => (s.modOut id (fun o => o.setPart i (fun p => { p with pa := some a }))).performPart o x i a
        | none => s
    | _, _ => s

/-- The accesses that a thread issued before an item performed, and the words that they owe filled, where no fault holds them: what a port
transfer of the thread still waits for as its slot is vacated (R199, R378; log 83). -/
def State.hasten (s : State) (tid id : Nat) : State :=
  (s.outs.filter (fun e => e.tid == tid && decide (e.id < id) && e.access.isSome)).foldl (fun s e =>
    ((List.range e.parts.length).foldl (fun s i => s.hastenPart e.id i) s).resultFill e.id) s

/-- The pieces of a thread's transfer that may go performed, in some rounds: after a fault the piece of the faulting byte comes first
(R199, R200). -/
def State.portDrain (core tid : Nat) : Nat → State → State
  | 0, s => s
  | n + 1, s => match s.portView core with
    | some (j, o, l, _) =>
      let r := s.portReady o j l
      if o.tid = tid ∧ !r.isEmpty then State.portDrain core tid n (s.portMove core j o r) else s
    | none => s

/-- A thread's port transfer performed as its slot is vacated, with the earlier accesses that it waits for: only one that a fault holds, or
that waits for a word that another party fills, is left (R176, R199, R378; log 83). -/
def State.portFlush (s : State) (core tid : Nat) : State :=
  match (s.core core).bay.port with
  | some j =>
    if s.outs.any (fun o => o.id == j.outId && o.tid == tid) then State.portDrain core tid 3 (s.hasten tid j.outId) else s
  | none => s

/-- The values of the bytes of some cells, a bit for each. -/
def Cells.values (c : Cells) : BitVec 256 := c.foldl (fun v p => v ||| (1#256 <<< p.2.toNat)) 0

/-- Undefined bytes out of a set of values: the contents of a plane or a tile (R7; log 7). -/
def undefCells (set : BitVec 256) (k n : Nat) : Cells :=
  ((List.range n).map (fun i => (i, (boundWord set (Config.freeWord (k + i / 8))).extractLsb' (8 * (i % 8)) 8))).filter (fun p => p.2 != 0#8)

/-- The memory image of a save that is stopped, undefined: each piece that has a place and is not at a word owed a result (R7, R26,
R380; log 7). -/
def State.undefImage (s : State) (core : Nat) (j : PortJob) (o : Out) : State :=
  if j.space = 1 ∧ (s.core core).slotSaved o.lea o.slot then s
  else (portPieces j.addr j.size).foldl (fun s p =>
    match s.placeOf core o.slot o.lea j.space j.die (j.addr + p.1) j.needs with
    | .at a =>
      if s.mem.isPending (dwordOf a) then s
      else { s with mem := s.mem.write a p.2 (s.undef (some o.lea) s.free).toNat, free := s.free + 1 }
    | _ => s) s

/-- The port's transfer stopped: its plane, its tile or its image in memory is undefined (R7, R380, R406). -/
def State.portStop (s : State) (core : Nat) : State :=
  match (s.core core).bay.port with
  | none => s
  | some j =>
    let b := (s.core core).bay
    let old := if j.kind = 0 then b.shadow.data.values else (b.tile j.tile).data.values
    let bytes (n : Nat) : Cells := undefCells (s.wrote (s.core core).lea ||| old) s.free n
    let s1 := ({ s with free := s.free + 2048 }.modBay core (fun b =>
      let b1 := { b with port := none }
      match j.kind with
      | 0 => { b1 with shadow := { b1.shadow with data := bytes j.size } }
      | 1 => b1
      | _ => b1.modTile j.tile (fun t => { t with data := bytes 16384 })))
    let s2 := match s.out j.outId with
      | some o => if j.kind = 1 then s1.undefImage core j o else s1
      | none => s1
    s2.removeOut j.outId

end Sys2Proof.Machine
end

