-- ==== Sys2Proof/Machine/Engine.lean ====
section
/-! DEFINITION. The transfer engine: tensor maps (R257-R259), its commands and their checks (R261-R263), and what the active
command does (R264-R268). -/

namespace Sys2Proof.Machine

/-! ## Tensor maps (R257-R259) -/

/-- The fields of a doubleword of a map. -/
def fieldAt (w : Word) (lo n : Nat) : Nat := w.toNat / 2 ^ lo % 2 ^ n

/-- The map that eight doublewords hold, every extent as it is written (R257). -/
def mapOf (w : Nat → Word) : TMap :=
  { esz := 2 ^ fieldAt (w 0) 56 2, ndim := fieldAt (w 0) 52 3, sg := fieldAt (w 0) 48 3, off := fieldAt (w 0) 0 48,
    ext := [fieldAt (w 1) 48 16, fieldAt (w 2) 48 16, fieldAt (w 3) 48 16, fieldAt (w 4) 48 16, fieldAt (w 5) 0 16],
    stride := [fieldAt (w 1) 0 48, fieldAt (w 2) 0 48, fieldAt (w 3) 0 48, fieldAt (w 4) 0 48],
    step := fieldAt (w 5) 18 3, skew := fieldAt (w 5) 16 2, isg := fieldAt (w 6) 48 3, ioff := fieldAt (w 6) 0 48 }

/-- Whether a reserved field of a map is nonzero (R257). -/
def mapRes (w : Nat → Word) : Bool :=
  (w 0 &&& 0xFC88000000000000#64) != 0 || (w 5 &&& 0xFFFFFFFFFFE00000#64) != 0 || (w 6 &&& 0xFFF8000000000000#64) != 0
    || w 7 != 0

/-- EXTj as it is written. -/
def TMap.rawExt (m : TMap) (j : Nat) : Nat := m.ext.getD j 0

/-- STRIDEj as it is written, for j = 1 to 4. -/
def TMap.str (m : TMap) (j : Nat) : Nat := m.stride.getD (j - 1) 0

/-- EXTj, read as 1 above the map's dimensions (R257). -/
def TMap.extent (m : TMap) (j : Nat) : Nat := if j < m.ndim then m.rawExt j else 1

/-- The positions of a map's box. -/
def TMap.positions (m : TMap) : Nat := m.extent 0 * m.extent 1 * m.extent 2 * m.extent 3 * m.extent 4

/-- T: the bytes of a map's box (R257). -/
def TMap.bytes (m : TMap) : Nat := m.esz * m.positions

/-- The bytes of a skew line (R257). -/
def TMap.lineBytes (m : TMap) : Nat := 32 * 2 ^ m.skew

/-- Whether a map is malformed (R258); the last condition is a destination map's. It binds the strides that the map's
dimensions have (log 19). -/
def TMap.bad (m : TMap) (dest : Bool) : Bool :=
  m.ndim == 0 || decide (5 < m.ndim)
    || (List.range 5).any (fun j => (decide (j < m.ndim) && m.rawExt j == 0) || (decide (m.ndim ≤ j) && m.rawExt j != 0))
    || [1, 2, 3, 4].any (fun j => (decide (m.ndim ≤ j) && m.str j != 0) || m.str j % m.esz != 0)
    || ((m.skew == 0) != (m.step == 0))
    || (m.skew != 0 && (m.rawExt 0 * m.esz % m.lineBytes != 0 || m.off % m.lineBytes != 0))
    || decide (2 ^ 40 ≤ m.bytes)
    || (dest && ((decide (2 ≤ m.ndim) && decide (m.str 1 < m.rawExt 0 * m.esz))
        || [2, 3, 4].any (fun j => decide (j < m.ndim) && decide (m.str j < m.rawExt (j - 1) * m.str (j - 1)))))

/-- The bytes of a map's hull, with the indexed dimension at index 0 where it has one (R262). -/
def TMap.hull (m : TMap) (indexed : Bool) : Nat :=
  (m.extent 0 - 1) * m.esz + (if indexed then 0 else (m.extent 1 - 1) * m.str 1) + (m.extent 2 - 1) * m.str 2
    + (m.extent 3 - 1) * m.str 3 + (m.extent 4 - 1) * m.str 4 + m.esz

/-- The position of a rank in traversal order: p0 to p4 (R257). -/
def TMap.pos (m : TMap) (r : Nat) : Nat × Nat × Nat × Nat × Nat :=
  let r1 := r / m.extent 0
  let r2 := r1 / m.extent 1
  let r3 := r2 / m.extent 2
  (r % m.extent 0, r1 % m.extent 1, r2 % m.extent 2, r3 % m.extent 3, r3 / m.extent 3)

/-- The byte of a box row at which a position lies after its skew (R259). -/
def TMap.inRow (m : TMap) (p0 p1 : Nat) : Nat :=
  let b := p0 * m.esz
  if m.skew = 0 then b
  else
    let n := m.lineBytes
    b / n * n + (b % n / 8 + m.step * p1) % (n / 8) * 8 + b % 8

/-- The segment offset of the box row of a position, its second coordinate replaced by an index (R257, R259). -/
def TMap.rowOff (m : TMap) (i p2 p3 p4 : Nat) : Nat := m.off + i * m.str 1 + p2 * m.str 2 + p3 * m.str 3 + p4 * m.str 4

/-! ## The commands (R261-R263) -/

/-- The bits of an instruction of format RR (R51). -/
def rrBits (maj : BitVec 5) (x : BitVec 1) (m : BitVec 4) (fn b a d : BitVec 5) : Word :=
  ((x ++ m ++ fn ++ b ++ a ++ d ++ maj ++ 3#2) : BitVec 32).setWidth 64

/-- The bits of an instruction of MAJ 0x13 (R261). -/
def engineBits (fn : BitVec 5) (k : BitVec 6) (c : BitVec 1) (b a : BitVec 5) : Word :=
  rrBits 0x13 (k.extractLsb' 5 1) (0#3 ++ c) fn b a (k.extractLsb' 0 5)

/-- Whether an earlier store of the acting thread to bytes at a flat address is not yet performed: a read of them at issue
waits (R208; log 20). -/
def State.ownStorePending (s : State) (a n : Nat) : Bool :=
  s.myOuts.any (fun o => match o.work with
    | .access x => x.parts.any (fun p => p.stage != .performed && (match p.pa with
        | some q => decide (q < a + n ∧ a < q + p.size)
        | none => false))
    | .port => (match (s.core o.core).bay.portRange o.id with
        | some (space, _, b, left) => left.any (fun k => match s.flat s.cur.1 s.cur.2 s.me.lea space (b + k.1) with
          | some q => decide (q < a + n ∧ a < q + k.2)
          | none => false)
        | none => false)
    | _ => false)

/-- A block of n bytes in local store read in the issuing turn through a segment register, at an offset: its doublewords by
number (R121, R262, R280). The first that is poisoned traps (R404). -/
def State.withBlock (s : State) (k off n : Nat) (cause : BitVec 8) (f : State → (Nat → Word) → State) : State :=
  let g := s.seg k
  match segFail g (s.extent g.space) off n [.r] [1, 2] with
  | some c => s.raise 4 c (BitVec.ofNat 64 off)
  | none =>
    match s.flat s.cur.1 s.cur.2 s.me.lea g.space (g.base.toNat + off) with
    | none => s.raise 4 0x24 (BitVec.ofNat 64 off)
    | some a =>
      if s.ownStorePending a n then s.forfeit
      else
        match (List.range (n / 8)).find? (fun i => s.mem.isBad (a + 8 * i)) with
        | some i => s.raise 4 cause (BitVec.ofNat 64 (off + 8 * i))
        | none => f s (fun i => BitVec.ofNat 64 (s.mem.read (a + 8 * i) 8))

/-- A map operand checked and read (R121, R262). -/
def State.withMap (s : State) (bits : Word) (r : Nat) (f : State → (Nat → Word) → Nat → State) : State :=
  let v := (s.w r).val
  if v.extractLsb' 3 3 != 0 then s.raise 4 0x02 bits
  else
    let off := v.toNat / 64 * 64
    s.withBlock (v.toNat % 8) off 64 0x15 (fun s w => f s w off)

/-- The check of a hull (R39, R262): its segment, rights and alignment. -/
def State.hullFail (s : State) (m : TMap) (indexed : Bool) (need : Right) : Option (BitVec 8) :=
  let g := s.seg m.sg
  match segFail g (s.extent g.space) m.off (m.hull indexed) [need] dataSpaces with
  | some c => some c
  | none => if (g.base.toNat + m.off) % m.esz ≠ 0 then some 0x25 else none

/-- Whether two hulls overlap in one space (R262). -/
def State.hullsMeet (s : State) (m n : TMap) (mi ni : Bool) : Bool :=
  let g := s.seg m.sg
  let h := s.seg n.sg
  let a := g.base.toNat + m.off
  let b := h.base.toNat + n.off
  g.space == h.space && decide (a < b + n.hull ni ∧ b < a + m.hull mi)

/-- The check of an index list of EXT1 entries (R262): that of R39, which R262 names; a list at an address that is no multiple of 4 is
accepted, which is the model's choice (R205; log 19). -/
def State.indexFail (s : State) (m : TMap) : Option (BitVec 8) :=
  let g := s.seg m.isg
  segFail g (s.extent g.space) m.ioff (4 * m.extent 1) [.r] [1, 2]

/-- A command written into the shadow set (R263): its owner's own set is a sequence error. -/
def State.writeShadow (s : State) (bits : Word) (c : TCmd) : State :=
  if s.myCore.engine.shadow.isSome then s.raise 4 0x28 bits
  else (s.modMyCore (fun x => { x with engine := { x.engine with shadow := some ⟨s.cur.2, none, c⟩ } })).issue 4

/-- The command of the acting thread with maps and a fill value (R262). -/
def State.newCmd13 (s : State) (kind : Nat) (src dst : TMap) (fill : PWord) (k : BitVec 6) (c : BitVec 1) : TCmd :=
  { kind := kind, src := src, dst := dst, fill := fill, sem := if c = 1 then some k.toNat else none, srcSeg := s.seg src.sg,
    dstSeg := s.seg dst.sg, idxSeg := s.seg (if kind = 2 then dst.isg else src.isg), nsr := s.nsr, tid := s.me.tid, pc := s.pc }

/-- The conditions of an engine command before its own checks: the lea holds the pool, and no other slot owns the shadow set
(R263, R268). -/
def State.withShadow (s : State) (f : State → State) : State :=
  s.withPool (fun s =>
    match s.myCore.engine.shadow with
    | some h => if h.owner ≠ s.cur.2 then s.forfeit else f s
    | none => f s)

/-- TCOPY, TGATH and TSCAT (R262). A disagreement of two maps, and hulls that overlap, report the destination (log 19). -/
def State.moveCmd (s : State) (kind : Nat) (fn : BitVec 5) (k : BitVec 6) (c : BitVec 1) (b a : BitVec 5) : State :=
  let bits := engineBits fn k c b a
  s.withOperands [s.wAddr a.toNat, s.wAddr b.toNat] [] (fun s => s.withShadow (fun s =>
    s.needCleans 4 0x10 [a.toNat, b.toNat] (fun s =>
      s.withMap bits a.toNat (fun s w1 o1 => s.withMap bits b.toNat (fun s w2 o2 =>
        let m := mapOf w1
        let n := mapOf w2
        let mi := kind == 1
        let ni := kind == 2
        let im := if ni then n else m
        if mapRes w1 || m.bad false then s.raise 4 0x27 (BitVec.ofNat 64 o1)
        else if mapRes w2 || n.bad true then s.raise 4 0x27 (BitVec.ofNat 64 o2)
        else
          match s.hullFail m mi .r, s.hullFail n ni .w with
          | some x, _ => s.raise 4 x (BitVec.ofNat 64 m.off)
          | none, some x => s.raise 4 x (BitVec.ofNat 64 n.off)
          | none, none =>
            match if kind = 0 then none else s.indexFail im with
            | some x => s.raise 4 x (BitVec.ofNat 64 im.ioff)
            | none =>
              if s.hullsMeet m n mi ni then s.raise 4 0x26 (BitVec.ofNat 64 n.off)
              else if m.esz ≠ n.esz ∨ (List.range 5).any (fun j => m.extent j != n.extent j) then
                s.raise 4 0x27 (BitVec.ofNat 64 o2)
              else s.writeShadow bits (s.newCmd13 kind m n ⟨0, false⟩ k c))))))

/-- TCOPY (R262). -/
def execTcopy (k : BitVec 6) (c : BitVec 1) (b a : BitVec 5) (s : State) : Out1 := .next (s.moveCmd 0 0 k c b a)
/-- TGATH (R262, R265). -/
def execTgath (k : BitVec 6) (c : BitVec 1) (b a : BitVec 5) (s : State) : Out1 := .next (s.moveCmd 1 1 k c b a)
/-- TSCAT (R262, R265). -/
def execTscat (k : BitVec 6) (c : BitVec 1) (b a : BitVec 5) (s : State) : Out1 := .next (s.moveCmd 2 2 k c b a)

/-- TFILL (R262). -/
def execTfill (k : BitVec 6) (c : BitVec 1) (b a : BitVec 5) (s : State) : Out1 :=
  let bits := engineBits 3 k c b a
  .next (s.withOperands [s.wAddr a.toNat, s.wAddr b.toNat] [] (fun s => s.withShadow (fun s =>
    s.needClean 4 0x10 b.toNat (fun s =>
      s.withMap bits b.toNat (fun s w o =>
        let n := mapOf w
        if mapRes w || n.bad true then s.raise 4 0x27 (BitVec.ofNat 64 o)
        else
          match s.hullFail n false .w with
          | some x => s.raise 4 x (BitVec.ofNat 64 n.off)
          | none => s.writeShadow bits (s.newCmd13 3 n n (s.w a.toNat) k c))))))

/-- EGO (R217, R263): the owner's held set is armed; anything else is a sequence error. -/
def execEgo (s : State) : Out1 :=
  .next (s.withPool (fun s =>
    match s.myCore.engine.shadow with
    | some h =>
      if h.owner = s.cur.2 ∧ h.armed = none then
        (s.modMyCore (fun x => { x with engine := { x.engine with shadow := some { h with armed := some (s.me.tid, s.nextId) } } })).issue 4
      else s.raise 4 0x28 (engineBits 4 0 0 0 0)
    | none => s.raise 4 0x28 (engineBits 4 0 0 0 0)))

/-- The status of an engine (R267). -/
def Engine.status (e : Engine) : Word :=
  let bit (b : Bool) (k : Nat) : Nat := if b then 2 ^ k else 0
  let sh : Nat := match e.shadow with
    | some h => h.owner * 2 ^ 52 + 2 ^ 58 + bit h.armed.isSome 59
    | none => 0
  let act : Nat := match e.active with
    | some a => 2 ^ 56 + bit a.parked.isSome 57 + a.owner * 2 ^ 48 + a.offset
    | none => e.kept
  BitVec.ofNat 64 (bit e.canc 61 + bit e.oob 60 + sh + act)

/-- ESTAT (R267). -/
def execEstat (d : BitVec 5) (s : State) : Out1 :=
  .next (s.withOperands [] [s.wAddr d.toNat] (fun s => s.withPool (fun s => s.setW 4 d.toNat false s.myCore.engine.status)))

/-! ## The active command (R264, R265) -/

/-- One element of a command: its source and destination addresses in their spaces, none where it is zeroed or skipped under
R265, and the segment offsets of both. -/
structure Elem where
  src : Option Nat
  dst : Option Nat
  srcOff : Nat
  dstOff : Nat
  deriving DecidableEq, Repr

/-- Whether a box row lies inside a captured segment (R265). -/
def rowInside (g : Seg) (ext off n : Nat) : Bool := decide (off + n ≤ g.limit.toNat ∧ g.base.toNat + off + n ≤ ext)

/-- The address of a position of a map for an index of its second coordinate, with its offset; none where the row is outside
the segment. -/
def TMap.place (m : TMap) (g : Seg) (ext i p0 p1 p2 p3 p4 : Nat) : Option Nat × Nat :=
  let row := m.rowOff i p2 p3 p4
  let off := row + m.inRow p0 p1
  (if rowInside g ext row (m.extent 0 * m.esz) then some (g.base.toNat + off) else none, off)

/-- Entry p1 of the index list as memory holds it now (R265). No rule says what a poisoned entry names: its value is used, and the
row takes no poison from it (DESIGN CHOICE, log 96). -/
def State.indexAt (s : State) (core owner lea : Nat) (c : TCmd) (p1 : Nat) : Nat :=
  let m := if c.kind = 2 then c.dst else c.src
  match s.flat core owner (some lea) c.idxSeg.space (c.idxSeg.base.toNat + m.ioff + 4 * p1) with
  | some a => s.mem.read a 4
  | none => 0

/-- The element of a rank. -/
def State.elemAt (s : State) (core owner lea : Nat) (c : TCmd) (r : Nat) : Elem :=
  let l := s.lea lea
  let (p0, p1, p2, p3, p4) := c.dst.pos r
  let i := if c.kind = 1 ∨ c.kind = 2 then s.indexAt core owner lea c p1 else p1
  let (sa, so) := c.src.place c.srcSeg (extentOf l (dieOf core) c.srcSeg.space) (if c.kind = 1 then i else p1) p0 p1 p2 p3 p4
  let (da, d) := c.dst.place c.dstSeg (extentOf l (dieOf core) c.dstSeg.space) (if c.kind = 2 then i else p1) p0 p1 p2 p3 p4
  ⟨if c.kind = 3 then none else sa, da, so, d⟩

/-- The end of the current window (R264). -/
def TActive.windowEnd (a : TActive) : Nat := min ((a.offset / 65536 + 1) * 65536) a.cmd.dst.bytes

/-- The ranks of the current window, in traversal order. -/
def TActive.ranks (a : TActive) : List Nat :=
  (List.range ((a.windowEnd - a.offset) / a.cmd.dst.esz)).map (fun i => a.offset / a.cmd.dst.esz + i)

/-- The elements of the current window, in traversal order. -/
def State.window (s : State) (core lea : Nat) (a : TActive) : List Elem :=
  a.ranks.map (fun r => s.elemAt core a.owner lea a.cmd r)

/-- The places of an element: its source and its destination, with the segment offset of each. -/
def State.elemPlaces (s : State) (core lea : Nat) (a : TActive) (e : Elem) : List (Place × Nat) :=
  (match e.src with
    | some x => [(s.placeOf core a.owner lea a.cmd.srcSeg.space (dieOf core) x [.r], e.srcOff)]
    | none => [])
  ++ (match e.dst with
    | some x => [(s.placeOf core a.owner lea a.cmd.dstSeg.space (dieOf core) x [.w], e.dstOff)]
    | none => [])

/-- The first place of a list that is held, with its offset. -/
def firstHeld : List (Place × Nat) → Option (Place × Nat)
  | [] => none
  | (.at _, _) :: t => firstHeld t
  | (p, o) :: _ => some (p, o)

/-- The first element of a window that is held. -/
def State.windowHeld (s : State) (core lea : Nat) (a : TActive) : List Elem → Option (Place × Nat)
  | [] => none
  | e :: t =>
    match firstHeld (s.elemPlaces core lea a e) with
    | some x => some x
    | none => s.windowHeld core lea a t

/-- One element moved (R229, R264, R265): the word, and the poison of its doubleword; nothing where a place is held. -/
def State.moveElem (s : State) (core lea : Nat) (a : TActive) (e : Elem) : State :=
  let n := a.cmd.dst.esz
  match e.dst.map (fun x => s.placeOf core a.owner lea a.cmd.dstSeg.space (dieOf core) x [.w]) with
  | some (.at d) =>
    let put (v : Nat) (bad : Bool) : State := (s.unitStore d n v bad).spoil core lea d n
    if a.cmd.kind = 3 then put (a.cmd.fill.val.toNat % 256 ^ n) a.cmd.fill.bad
    else
      match e.src.map (fun x => s.placeOf core a.owner lea a.cmd.srcSeg.space (dieOf core) x [.r]) with
      | none => put 0 false
      | some (.at x) => put (s.mem.read x n) (s.mem.isBad x)
      | some _ => s
  | _ => s

/-- Whether a command reaches a slot slice that a handover has vacated: it waits there until it is cancelled (R268, R380). -/
def State.sliceAway (s : State) (core lea : Nat) (a : TActive) : Bool :=
  (s.core core).slotSaved lea a.owner &&
    (a.cmd.dstSeg.space == 1 || (a.cmd.kind != 3 && a.cmd.srcSeg.space == 1) || (a.cmd.kind != 0 && a.cmd.kind != 3 && a.cmd.idxSeg.space == 1))

/-- The home of the bytes that an element writes, where translation gives it. -/
def State.elemHome (s : State) (core lea : Nat) (a : TActive) (e : Elem) : Option Nat :=
  match e.dst.map (fun x => s.placeOf core a.owner lea a.cmd.dstSeg.space (dieOf core) x [.w]) with
  | some (.at d) => some d
  | _ => none

/-- Whether an element writes a pending word: the engine waits for it (R26, R230). -/
def State.elemWaits (s : State) (core lea : Nat) (a : TActive) (e : Elem) : Bool :=
  (s.elemHome core lea a e).any (fun d => s.mem.isPending (dwordOf d))

/-- Whether two elements write a common byte (R265). -/
def State.elemsMeet (s : State) (core lea : Nat) (a : TActive) (e f : Elem) : Bool :=
  match s.elemHome core lea a e, s.elemHome core lea a f with
  | some x, some y => decide (x < y + a.cmd.dst.esz ∧ y < x + a.cmd.dst.esz)
  | _, _ => false

/-- Whether an element is outside its captured segment (R265). -/
def Elem.outside (kind : Nat) (e : Elem) : Bool := e.dst.isNone || (kind != 3 && e.src.isNone)

/-- The ranks of the current window still to be written. -/
def TActive.rest (a : TActive) : List Nat := a.left.getD a.ranks

/-- Whether a rank of the current window may be written now: not to a pending word, and in a TSCAT after every lower rank that names
the same bytes (R26, R217, R265). -/
def State.rankReady (s : State) (core lea : Nat) (a : TActive) (r : Nat) : Bool :=
  let e := s.elemAt core a.owner lea a.cmd r
  !s.elemWaits core lea a e
    && (a.cmd.kind != 2 || a.rest.all (fun k => decide (r ≤ k) || !s.elemsMeet core lea a (s.elemAt core a.owner lea a.cmd k) e))

/-- The ranks of the current window that may be written now. -/
def State.ranksReady (s : State) (core lea : Nat) (a : TActive) : List Nat := a.rest.filter (s.rankReady core lea a)

/-- Elements of some ranks written. -/
def State.moveRanks (s : State) (core lea : Nat) (a : TActive) (l : List Nat) : State :=
  l.foldl (fun s r => s.moveElem core lea a (s.elemAt core a.owner lea a.cmd r)) s

/-- Some or none of the elements that may be written now, as a window is left (R264; log 40). -/
def State.moveSome (s : State) (core lea : Nat) (a : TActive) : State :=
  let l := s.ranksReady core lea a
  { s.flushFor core lea with free := s.free + l.length }.moveRanks core lea a (s.pick l)

/-- A core's engine changed. -/
def State.modEngine (s : State) (core : Nat) (f : Engine → Engine) : State :=
  s.modCore core (fun c => { c with engine := f c.engine })

/-- An engine's active command leaves the active set (R264, R267). -/
def Engine.leave (e : Engine) (canc oob : Bool) : Engine := { e with active := none, canc := canc, oob := oob, kept := 0 }

/-- The active command cancelled: no further window commits, and the uncommitted window is undefined (R264, R266). OOB is what the
committed windows set (DESIGN CHOICE, log 40). -/
def State.cancelActive (s : State) (core : Nat) : State :=
  match (s.core core).engine.active, (s.core core).lea with
  | some a, some l =>
    let s1 := if a.parked.isSome || s.sliceAway core l a || !s.earlierDone a.edge.1 a.edge.2 false then s
      else s.moveSome core l a
    s1.modEngine core (fun e => e.leave true a.oob)
  | some a, none => s.modEngine core (fun e => e.leave true a.oob)
  | none, _ => s

/-- ECAN (R266): a slot's own commands; from slot 15 every command. -/
def execEcan (s : State) : Out1 :=
  .next (s.withPool (fun s =>
    let mine (o : Nat) : Bool := s.in15 || o == s.cur.2
    let s1 := s.modEngine s.cur.1 (fun e =>
      { e with shadow := e.shadow.filter (fun h => !mine h.owner) })
    let s2 := match s1.myCore.engine.active with
      | some a => if mine a.owner then s1.cancelActive s.cur.1 else s1
      | none => s1
    s2.issue 4))

/-- An engine with no active command takes the Armed set as its active command (R263). -/
def Engine.start (e : Engine) : Engine :=
  match e.shadow, e.active with
  | some h, none =>
    (match h.armed with
      | some n => { e with shadow := none, active := some ⟨h.owner, h.cmd, 0, n, none, [], none, false⟩, kept := 0 }
      | none => e)
  | _, _ => e

/-- ENGINE_COMMAND_START (R263): an Armed set becomes the active command in the first cycle in which there is none. The events
of the command wait for the accesses that its EGO comes after (R217). -/
def execEngineCommandStart (core : Nat) (s : State) : Out1 := .next (s.modEngine core Engine.start)

/-- The translation buffer after a window's addresses were used (R389). -/
def State.useWindow (s : State) (core lea : Nat) (a : TActive) (w : List Elem) : State :=
  (s.usePages core lea a.cmd.srcSeg.space (dieOf core) [.r] (w.filterMap (fun e => e.src))).usePages core lea
    a.cmd.dstSeg.space (dieOf core) [.w] (w.filterMap (fun e => e.dst))

/-- The accesses of HBM that the element of a rank takes, for its source and its destination (R326). -/
def State.rankUnits (s : State) (core lea : Nat) (a : TActive) (r : Nat) : List Nat :=
  (s.elemPlaces core lea a (s.elemAt core a.owner lea a.cmd r)).flatMap (fun p => match p.1 with
    | .at x => hbmUnits x a.cmd.dst.esz
    | _ => [])

/-- Those of a list of ranks whose accesses of HBM are served (R326). -/
def State.ranksServed (s : State) (core lea : Nat) (a : TActive) (l : List Nat) : List Nat :=
  l.filter (fun r => (s.rankUnits core lea a r).all (fun u => unitsServed s.now a.flow u 64))

/-- A window's accesses of HBM begun for some ranks, in service slots of the lea (R326). -/
def State.windowBegin (s : State) (core lea : Nat) (a : TActive) (l : List Nat) : State :=
  let (s1, flow) := s.beginUnits lea a.flow (l.flatMap (s.rankUnits core lea a))
  s1.modEngine core (fun e => { e with active := some { a with flow := flow } })

/-- Some of the elements of a list that may be written now, one at least: each is one event (R205, R217, R264; log 40). -/
def State.writeSome (s : State) (core lea : Nat) (a : TActive) (l : List Nat) : State :=
  let p := s.pickSome l
  ({ s.flushFor core lea with free := s.free + l.length }.moveRanks core lea a p).modEngine core (fun e =>
    { e with active := some { a with left := some (a.rest.filter (fun r => !p.contains r)) } })

/-- A window commits (R264): its bytes are visible, the resume offset is its end, and its bytes are counted. -/
def State.commitWindow (s : State) (core lea : Nat) (a : TActive) (w : List Elem) : State :=
  let s1 := s.useWindow core lea a w
  let oob := a.oob || w.any (fun e => e.outside a.cmd.kind)
  let s2 := s1.modEngine core (fun e =>
    if a.windowEnd = a.cmd.dst.bytes then e.leave false oob
    else { e with active := some { a with offset := a.windowEnd, left := none, flow := [], oob := oob } })
  match a.cmd.sem with
  | some k => s2.addSem core lea k (a.windowEnd - a.offset)
  | none => s2

/-- The running command of a core's engine with its lea, where the die works, the accesses that its EGO comes after have been
performed (R217), and the slices it reaches are still its lea's (R268). -/
def State.engineRun (s : State) (core : Nat) : Option (TActive × Nat) :=
  match (s.core core).engine.active, (s.core core).lea with
  | some a, some l =>
    if a.parked.isSome || !s.dieUp (dieOf core) || s.sliceAway core l a || !s.earlierDone a.edge.1 a.edge.2 false then none
    else some (a, l)
  | _, _ => none

/-- ENGINE_WINDOW_COMMIT (R205, R217, R264, R326): elements of the current window are written once their accesses of HBM are served; once
none is left, the window commits. -/
def execEngineWindowCommit (core : Nat) (s : State) : Out1 :=
  .next (match s.engineRun core with
    | some (a, l) =>
      let w := s.window core l a
      if (s.windowHeld core l a w).isSome then s
      else if a.rest.isEmpty then s.commitWindow core l a w
      else
        let r := s.ranksReady core l a
        let served := s.ranksServed core l a r
        if !served.isEmpty then s.writeSome core l a served
        else if r.isEmpty then s
        else s.windowBegin core l a r
    | none => s)

/-- ENGINE_PARK (R264, R387, R405): the command meets a page fault or a translation fault and parks at its resume offset;
the current window's bytes are undefined. -/
def execEnginePark (core : Nat) (s : State) : Out1 :=
  .next (match s.engineRun core with
    | some (a, l) =>
      let w := s.window core l a
      match s.windowHeld core l a w with
      | none => s
      | some (p, off) =>
        let s1 := s.moveSome core l a
        let hold (x : Option Nat) (s : State) : State :=
          s.modEngine core (fun e => { e with active := some { a with left := none, flow := [], parked := some x } })
        match p with
        | .page f => (hold (some f) s1).logPage l f
        | .fault c =>
          ((hold none s1).headRecord core (some l) a.owner .engine 1 2 (BitVec.ofNat 8 c) a.cmd.pc (BitVec.ofNat 64 off)
            (BitVec.ofNat 64 a.offset)).logFault l c off
        | .at _ => s
    | none => s)

/-- Whether a lea's guest frame is marked resident (R385, R405). -/
def State.resident (s : State) (lea frame : Nat) : Bool :=
  match s.lea lea with
  | some l => (keyGet 0#64 l.s2 frame).getLsbD 5
  | none => false

/-- ENGINE_RESTART (R264): a command parked by a page fault restarts at its resume offset when the page is resident. -/
def execEngineRestart (core : Nat) (s : State) : Out1 :=
  .next (match (s.core core).engine.active, (s.core core).lea with
    | some a, some l =>
      match a.parked with
      | some (some f) => if s.resident l f then s.modEngine core (fun e => { e with active := some { a with parked := none } }) else s
      | _ => s
    | _, _ => s)

/-- ENGINE_INTERNAL_ERROR (R404): the command is Idle with CANC set, and a notice goes to slot 15. -/
def execEngineInternalError (core : Nat) (s : State) : Out1 :=
  .next (match (s.core core).engine.active with
    | some a =>
      (s.cancelActive core).headRecord core (s.core core).lea a.owner .engine 2 2 0x59 a.cmd.pc (BitVec.ofNat 64 a.offset)
        (BitVec.ofNat 64 a.offset)
    | none => s)

end Sys2Proof.Machine
end

