-- ==== Sys2Proof/Machine/Message.lean ====
section
/-! DEFINITION. Messages: deposits (R336, R337), active messages, the mailbox and the trap file (R338-R344), what slot 15
starts and ends (R340, R342, R403), back-off (R345) and waiting on words (R346). -/

namespace Sys2Proof.Machine

/-! ## Common rules (R333-R335) -/

/-- A refusal status with its reason (R334). -/
def refused (n : Nat) : Word := 0x8000000000000000#64 ||| BitVec.ofNat 64 n

/-- The rest of an instruction that may not be used in slot 15, where it traps before any other check (R333). -/
def State.no15 (s : State) (bits : Word) (f : State → State) : State := if s.in15 then s.raise 4 0x42 bits else f s

/-- The value of a register for a use that does not trap on poison: a poisoned value is undefined (R422; log 7). -/
def State.withLoose (s : State) (k : Nat) (f : State → Word → Bool → State) : State :=
  if (s.w k).bad then
    let (p, s1) := s.takePoison
    f s1 p.val true
  else f s (s.w k).val false

/-- A register at a fixed address written with a result, poisoned where the operand was. -/
def State.fillFixed (s : State) (a : Nat) (v : Word) (bad : Bool) : State := s.fillWord a ⟨v, bad⟩

/-- A message sent: it waits to be injected, with a number of its own; the thread waits for the answer where `wait` says so
(R335). -/
def State.sendMsg (s : State) (dst wd : Nat) (m : Msg) : State :=
  let id := s.nextId
  let s1 := ({ s with nextId := id + 1 }).post (s.newMail id dst wd m)
  (s1.issue 4).modMe (fun x => x.holdFor (.ack id))

/-- The sender of a message goes on with its status in wd (R334, R335). -/
def State.acked (s : State) (m : Mail) (v : Word) : State :=
  let s1 := ((s.dropMail m.id).fillFixed m.wd v false).workBy m.dst m.srcSlot m.lea
  s1.modSlot m.dst m.srcSlot (fun x => if x.tid = m.srcTid ∧ x.hold = .ack m.id then x.release else x)

/-- Whether a core is held by a lea: its pool is the lea's, no handover runs, and the die works (R334, R336, R381; log 22). -/
def State.holds (s : State) (core lea : Nat) : Bool :=
  (s.core core).lea == some lea && (s.core core).handover.isNone && s.dieUp (dieOf core)

/-- Whether the word that an answer fills has been saved and not restored: the answer goes to the save area (R380). -/
def State.lateMail (s : State) (m : Mail) : Bool := (s.core m.dst).late m.dst m.lea m.srcSlot [m.wd]

/-! ## Deposits (R336, R337) -/

/-- SEND (R336). -/
def execSend (b a d : BitVec 5) (s : State) : Out1 :=
  .next (s.withOperands [s.wAddr a.toNat, s.wAddr b.toNat] [s.wAddr d.toNat] (fun s => s.withExchange (fun s =>
    s.needCleans 4 0x14 [a.toNat, b.toNat] (fun s =>
      let v := (s.w a.toNat).val
      let slot := fieldAt v 16 4
      let core := fieldAt v 0 11
      if (v &&& ~~~0x1F0F07FF#64) != 0 || slot == 15 then s.raise 4 0x06 v
      else if s.leal ≤ core then s.raise 4 0x40 v
      else s.sendMsg (s.physOf core) (s.wAddr d.toNat) (.deposit (s.w b.toNat) slot (fieldAt v 24 5) s.nsr)))))

/-- A deposit performed at its target (R336): the state after it and its status. Where two senders' NSR differs before the
target's next issue, TVAL names the later of them (R33; log 81). -/
def State.deposit (s : State) (m : Mail) (v : PWord) (slot reg : Nat) (nsr : Bool) : State × Word :=
  let x := s.slot m.dst slot
  if !s.holds m.dst m.lea then (s, refused 7)
  else if x.run == .absent || x.lea != some m.lea then (s, refused 2)
  else if nsr != x.desc.stat.getLsbD 3 then
    (s.modSlot m.dst slot (fun x => { x with owedTrap := some (0x4A, senderWord (s.logicalOf m.lea m.src) m.srcSlot 0 false) }),
      refused 3)
  else
    let a := workFlat m.dst slot (x.desc.seg 0) (x.desc.wp.toNat + 8 * reg)
    if s.mem.feOf a = some .empty then (s.fillExt a v, 0) else (s, refused 1)

/-- DEPOSIT_ARRIVE (R336, R337). -/
def execDepositArrive (id : Nat) (s : State) : Out1 :=
  .next (match s.mailOf id with
    | some m =>
      match m.msg with
      | .deposit v slot reg nsr =>
        if !s.arrives m then s
        else
          let (s1, st) := s.deposit m v slot reg nsr
          s1.answer m (.ack st id)
      | _ => s
    | none => s)

/-- SEND_ACK (R334, R336). -/
def execSendAck (id : Nat) (s : State) : Out1 :=
  .next (match s.mailOf id with
    | some m =>
      match m.msg with
      | .ack st _ => if s.arrives m && !s.lateMail m then s.acked m st else s
      | _ => s
    | none => s)

/-! ## Active messages (R338, R339) -/

/-- The registers of a payload (R338). -/
def payloadRegs (b : Nat) : List Nat := [b, b + 1, b + 2, b + 3]

/-- The checks of a message address, then the rest with the target core and the class (R338). -/
def State.amAddress (s : State) (a b : Nat) (dst : Nat) (f : State → Nat → Nat → State) : State :=
  s.withOperands ((a :: payloadRegs b).map s.wAddr) [s.wAddr dst] (fun s => s.withExchange (fun s =>
    s.needCleans 4 0x14 (a :: payloadRegs b) (fun s =>
      let v := (s.w a).val
      let core := fieldAt v 0 11
      let cls := fieldAt v 16 6
      if (v &&& ~~~0x3F07FF#64) != 0 || cls == 0 then s.raise 4 0x06 v
      else if s.leal ≤ core then s.raise 4 0x40 v
      else f s (s.physOf core) cls)))

/-- SENDAM (R338). -/
def execSendam (b a d : BitVec 5) (s : State) : Out1 :=
  .next (s.amAddress a.toNat b.toNat d.toNat (fun s core cls =>
    s.sendMsg core (s.wAddr d.toNat) (.am cls ((payloadRegs b.toNat).map s.w) s.nsr false)))

/-- SENDAM.R (R338): wd is pending until a refusal or the handler's reply arrives. -/
def execSendamR (l : BitVec 4) (b a d : BitVec 5) (s : State) : Out1 :=
  .next (s.amAddress a.toNat b.toNat d.toNat (fun s core cls =>
    let o := s.newOut 4 true l.toNat [s.wAddr d.toNat] .reply
    (((s.addOut o).markWord (s.wAddr d.toNat) .pending).post
      (s.newMail o.id core (s.wAddr d.toNat) (.am cls ((payloadRegs b.toNat).map s.w) s.nsr true))).issue 4))

/-- A fault of slot 15 written to the log of the lea's virtual function and to that of physical function 0 (R403). -/
def State.log15 (s : State) (lea cause : Nat) : State :=
  let s1 := s.modLea lea (fun l => { l with log := l.log ++ [(0x5B, cause)] })
  { s1 with head := { s1.head with log := s1.head.log ++ [.fault lea 0x5B cause] } }

/-- The lowest mailbox entry that is not occupied in a core cycle; one that an HRET of the cycle frees still is (R339; log 23). -/
def Core.freeEntry (c : Core) (cycle : Nat) : Option Nat :=
  (List.range 16).find? (fun i => !c.mailbox.any (fun e => e.idx == i)
    && !c.freed.any (fun f => f.1 == i && decide (cycle ≤ f.2 + 1)))

/-- An active message judged at its core (R339): the state after it, and its answer where it is answered at once. -/
def State.amJudge (s : State) (m : Mail) (cls : Nat) (payload : List PWord) (nsr r : Bool) : State × Option Word :=
  let c := s.core m.dst
  let x := c.slot 15
  if !s.holds m.dst m.lea || x.run == .absent || x.lea != some m.lea then (s, some (refused 7))
  else if nsr != x.desc.stat.getLsbD 3 then (s.log15 m.lea 0x4A, some (refused 3))
  else if !(c.classEntry cls).getLsbD 63 then (s, some (refused 5))
  else
    match c.freeEntry (s.cycle m.dst) with
    | none => (s.modCore m.dst (fun c => { c with refused := c.refused + 1 }), some (refused 4))
    | some i =>
      let e : MbxEntry :=
        { idx := i, payload := payload, sender := senderWord (s.logicalOf m.lea m.src) m.srcSlot cls r, cls := cls,
          reply := if r then some (m.id, m.src) else none }
      (s.modCore m.dst (fun c => { c with mailbox := c.mailbox ++ [e] }), if r then none else some 0)

/-- AM_ARRIVE (R339). -/
def execAmArrive (id : Nat) (s : State) : Out1 :=
  .next (match s.mailOf id with
    | some m =>
      match m.msg with
      | .am cls payload nsr r =>
        if !s.arrives m then s
        else
          match s.amJudge m cls payload nsr r with
          | (s1, some st) => s1.answer m (.amAck st id)
          | (s1, none) => s1.dropMail id
      | _ => s
    | none => s)

/-- SENDAM_ACK (R338): the status goes to the waiting sender, or a refusal fills the destination of a SENDAM.R. -/
def execSendamAck (id : Nat) (s : State) : Out1 :=
  .next (match s.mailOf id with
    | some m =>
      match m.msg with
      | .amAck st _ =>
        if !s.arrives m || s.lateMail m then s
        else
          match s.out id with
          | some o => (s.dropMail id).fillOut o [⟨st, false⟩] Flags.none
          | none => s.acked m st
      | _ => s
    | none => s)

/-- SENDAM_REPLY (R342): the handler's reply fills the sender's destination. -/
def execSendamReply (id : Nat) (s : State) : Out1 :=
  .next (match s.mailOf id with
    | some m =>
      match m.msg with
      | .reply v _ =>
        if !s.arrives m || s.lateMail m then s
        else
          match s.out id with
          | some o => (s.dropMail id).fillOut o [v] Flags.none
          | none => s.dropMail id
      | _ => s
    | none => s)

/-! ## Slot 15 and the trap file (R339-R342, R400, R403) -/

/-- Whether a thread has no outstanding long-latency instruction, access or message of a number below n. A bank command without a
result is waited for only until the group port has its addresses, since until then a fault can hold it there (R342, R356, R400;
log 108). -/
def State.quietTo (s : State) (tid n : Nat) : Bool :=
  s.outs.all (fun o => o.tid != tid || decide (n ≤ o.id) || (match o.work with
    | .bank c => o.dst.isEmpty && c.parts.all (fun p => p.pa.isSome)
    | .bay => !o.windowed
    | _ => false))

/-- Whether a thread has no outstanding long-latency instruction, access or message (R342, R356). -/
def State.quiet (s : State) (tid : Nat) : Bool := s.quietTo tid s.nextId

/-- The record of the trap file that is handled first: lowest slot first, the Headland place last (R340). -/
def firstRecord : List Record → Option Record
  | [] => none
  | r :: t =>
    match firstRecord t with
    | some q => if q.place < r.place then some q else some r
    | none => some r

/-- The words of a record (R401). -/
def Record.words (r : Record) : List PWord := [⟨r.w0, false⟩, ⟨r.w1, false⟩, ⟨r.w2, false⟩, ⟨r.w3, false⟩]

/-- A handler started in slot 15 of a core: its PC, WP0, w0-w4 and SRGEN (R340). -/
def State.startHandler (s : State) (core : Nat) (pc : Word) (words : List PWord) (h : Handler) : State :=
  let x := s.slot core 15
  let a (k : Nat) : Nat := workFlat core 15 (x.desc.seg 0) (x.desc.wp.toNat + 8 * k)
  let s1 := s.modCore core (fun c => ({ c with handler := some h }).modSlot 15 (fun x =>
    { x with run := .ready, wait := .none, desc := { x.desc with pc := pc, srgen := srSeed 0 } }))
  s1.fillWords ((List.range 5).map a |>.zip words)

/-- HANDLER_START (R340): idle slot 15 starts the next handler. -/
def execHandlerStart (core : Nat) (s : State) : Out1 :=
  .next (
    let c := s.core core
    let x := c.slot 15
    if !((x.run == .ready || x.run == .parked) && c.handler.isNone && x.lea == c.lea && x.stopped.isNone && !x.vacated
        && c.fault15.isNone && c.handover.isNone) then s
    else
      let wp0 := x.desc.wp
      let me := s.logicalOf (x.lea.getD 0) core
      match firstRecord c.trapFile with
      | some r =>
        s.startHandler core (c.classEntry 0)
          (r.words ++ [⟨senderWord me (fieldAt r.w0 16 4) 0 false, false⟩]) ⟨0, none, some r.place, wp0, none⟩
      | none =>
        match c.mailbox with
        | e :: _ =>
          s.startHandler core (c.classEntry e.cls &&& 0x0000FFFFFFFFFFFF#64) (e.payload ++ [⟨e.sender, false⟩])
            ⟨e.cls, some e.idx, none, wp0, e.reply⟩
        | [] => s)

/-- The running handler of a core ended: its entry or place free, the entry from the next cycle on; WP as it was, slot 15 idle
(R339, R342, R403). -/
def State.endHandler (s : State) (core : Nat) : State :=
  s.modCore core (fun c =>
    match c.handler with
    | none => c.modSlot 15 (fun x => { x with run := .parked, wait := .idle15, hold := .none })
    | some h =>
      ({ c with
        handler := none
        freed := h.entry.map (fun i => (i, s.cycle core))
        mailbox := c.mailbox.filter (fun e => h.entry != some e.idx)
        trapFile := c.trapFile.filter (fun r => h.place != some r.place) }).modSlot 15 (fun x =>
          { x with run := .parked, wait := .idle15, hold := .none, desc := { x.desc with wp := h.wp0 } }))

/-- The reply of a handler sent to the core that awaits it (R342). -/
def State.sendReply (s : State) (core : Nat) (h : Handler) (v : PWord) : State :=
  match h.reply with
  | none => s
  | some (id, dst) =>
    match s.out id with
    | none => s
    | some o =>
      s.post { id := id, lea := o.lea, src := core, srcSlot := o.slot, srcTid := o.tid, dst := dst, sent := none,
               msg := .reply v id, wd := o.dst.headD 0, born := 0 }

/-- HRET (R21, R333, R335, R342, R381): ends the handler of the lea that holds the pool, once slot 15 has nothing outstanding; until then
the thread is Parked. A poisoned W(0) goes out as a poisoned reply without a trap, since R404 names no cause for HRET: the model's choice
(R423; log 41). -/
def execHret (s : State) : Out1 :=
  .next (if !s.in15 then s.raise 2 0x41 0 else s.withPool (fun s => match s.myCore.handler with
    | none => s.raise 2 0x41 0
    | some h =>
      s.withOperands (if h.reply.isSome then [s.wAddr 0] else []) [] (fun s =>
        if !s.quiet s.me.tid then s.park .hret
        else if !wpOk (s.seg 0) h.wp0.toNat then s.raise 2 0x23 h.wp0
        else
          let w := s.w 0
          let s1 := s.sendReply s.cur.1 h ⟨w.val &&& 0x7FFFFFFFFFFFFFFF#64, w.bad⟩
          (s1.issue 2).endHandler s.cur.1)))

/-- TRAP_RECORD_DELIVER (R339, R400): a record enters its place once the thread's earlier instructions have filled and its
accesses have been performed; the Headland place takes the records that wait in Headland, while a lea holds the pool (R381). -/
def execTrapRecordDeliver (core place : Nat) (s : State) : Out1 :=
  .next (
    let c := s.core core
    if c.trapFile.any (fun r => r.place == place) || c.handover.isSome then s
    else if place = 15 then
      match c.headRecords.find? (fun r => some r.1 == c.lea) with
      | some r => s.modCore core (fun c => { c with headRecords := c.headRecords.erase r, trapFile := c.trapFile ++ [r.2] })
      | none => s
    else
      let x := c.slot place
      match x.record with
      | (tid, n, r) :: t =>
        if s.quietTo tid n then
          s.modCore core (fun c => ({ c with trapFile := c.trapFile ++ [r] }).modSlot place (fun x => { x with record := t }))
        else s
      | [] => s)

/-- A held access dropped (R414): each destination word is full again with the value it held before the access issued. -/
def State.dropOne (s : State) (o : Out) : State := (s.removeOut o.id).fillWords (o.dst.zip o.old)

/-- Whether an item is an access not yet performed (R414). -/
def Out.unperformed (o : Out) : Bool := o.access.any (fun x => !x.allDone)

/-- A thread's held accesses dropped without being performed, with those that wait behind them where `all` asks for it; its parked
port transfer stopped, and its COLLD that is held (R278, R406, R414). -/
def State.dropHeld (s : State) (core tid : Nat) (all : Bool) : State :=
  let s1 := ((s.outs.filter (fun o => o.tid == tid && (o.held || (all && o.unperformed)))).foldl State.dropOne s).modDor core
    (fun d => { d with copy := d.copy.filter (fun y => y.tid != tid || y.parked.isNone) })
  match (s1.core core).bay.port with
  | some j =>
    if j.parked.isSome && (match s1.out j.outId with
        | some o => o.tid == tid
        | none => false)
    then s1.portStop core else s1
  | none => s1

/-- SLOT15_FAULT (R403): Headland ends the handler, refuses its sender, and returns slot 15 to idle, where the lea of slot 15 holds the
units (R378). A held access of the handler is dropped (log 21). -/
def execSlot15Fault (core : Nat) (s : State) : Out1 :=
  .next (
    let c := s.core core
    let x := c.slot 15
    match if x.lea = c.lea then c.fault15 else none with
    | none => s
    | some cause =>
      let s1 := s.dropHeld core x.tid false
      if !s1.quiet x.tid then s1
      else
        let s2 := match c.handler with
          | some h => s1.sendReply core h ⟨refused 6, false⟩
          | none => s1
        (((s2.endHandler core).modCore core (fun c => { c with fault15 := none })).modSlot core 15 (fun x =>
          { x with owedTrap := none })).log15 (x.lea.getD 0) cause)

/-! ## The mailbox status, back-off, and waiting on words (R344-R346) -/

/-- MBXST (R344). -/
def execMbxst (d : BitVec 5) (s : State) : Out1 :=
  .next (s.withOperands [] [s.wAddr d.toNat] (fun s => s.withPool (fun s => s.setW 4 d.toNat false s.myCore.mbxst)))

/-- MBXST.CLR (R344). -/
def execMbxstClr (d : BitVec 5) (s : State) : Out1 :=
  .next (s.withOperands [] [s.wAddr d.toNat] (fun s => s.withPool (fun s =>
    (s.setW 4 d.toNat false s.myCore.mbxst).modMyCore (fun c => { c with refused := 0 }))))

/-- The delay of BACKOFF in slots for an attempt count and a thread's identity (R345). -/
def backoffSlots (n h : Nat) : Nat :=
  let k := min n 8
  2048 * (2 ^ k + h % 2 ^ k)

/-- BACKOFF (R345): the thread is Parked until the delay has passed. -/
def execBackoff (d : BitVec 5) (s : State) : Out1 :=
  .next (s.withOperands [s.wAddr d.toNat] [s.wAddr d.toNat] (fun s =>
    s.needClean 4 0x13 d.toNat (fun s =>
      let n := (s.w d.toNat).val.toNat
      let h := 16 * fieldAt s.me.coreReg 0 11 + fieldAt s.me.slotReg 0 4
      let due := ((s.guestTime s.me.lea).toNat + backoffSlots n h) % 2 ^ 64
      (s.issue 4).park (.backoff due (s.wAddr d.toNat) n))))

/-- BACKOFF_EXPIRE (R345): the thread wakes, and wd counts one attempt more. -/
def execBackoffExpire (core slot : Nat) (s : State) : Out1 :=
  .next (
    let x := s.slot core slot
    match x.wait with
    | .backoff due dst n =>
      if x.waiting ∧ !x.away (s.core core).lea ∧ (s.guestTime x.lea - BitVec.ofNat 64 due).toNat < 2 ^ 63 then
        (s.fillFixed dst (BitVec.ofNat 64 (min (n + 1) (2 ^ 64 - 1))) false).modSlot core slot Slot.wake
      else s
    | _ => s)

/-- The registers of a mask with their addresses (R346). -/
def State.maskRegs (s : State) (m : Nat) : List (Nat × Nat) :=
  ((List.range 32).filter (fun j => m.testBit j)).map (fun j => (j, s.wAddr j))

/-- WAITF (R346): it completes at once, or parks the thread until the masked words are full. -/
def State.waitf (s : State) (bits : Word) (any : Bool) (b d : Nat) : State :=
  s.no15 bits (fun s => s.withOperands [s.wAddr b] [s.wAddr d] (fun s => s.withLoose b (fun s v bad =>
    if !bad && fieldAt v 32 32 != 0 then s.raise 4 0x06 v
    else
      let regs := s.maskRegs (fieldAt v 0 32)
      let dst := s.wAddr d
      let s1 := s.issue 4
      if masksMet s.mem regs any then s1.fillFixed dst (BitVec.ofNat 64 (fullMask s.mem regs)) bad
      else s1.park (.words regs any dst bad))))

/-- WAITF.ALL (R346). -/
def execWaitfAll (b d : BitVec 5) (s : State) : Out1 :=
  .next (s.waitf (rrBits 0x16 0 0 3 b 0 d) false b.toNat d.toNat)
/-- WAITF.ANY (R346). -/
def execWaitfAny (b d : BitVec 5) (s : State) : Out1 :=
  .next (s.waitf (rrBits 0x16 1 0 3 b 0 d) true b.toNat d.toNat)

end Sys2Proof.Machine
end

