-- ==== Sys2Proof/Machine/Gang.lean ====
section
/-! DEFINITION. Gangs: barriers (R347, R348) and group reduction (R349-R351). -/

namespace Sys2Proof.Machine

/-! ## Gangs and their members -/

/-- The state with a gang changed. -/
def State.modGang (s : State) (lea gid : Nat) (f : Gang → Gang) : State :=
  { s with gangs := s.gangs.map (fun g => if g.lea = lea ∧ g.gid = gid then f g else g) }

/-- The gang of the acting thread. -/
def State.myGang (s : State) : Option Gang :=
  match s.me.gang, s.me.lea with
  | some g, some l => s.gang l g
  | _, _ => none

/-- The rank in its gang of the thread of a slot: GRANK × SPC + SRANK (R44). -/
def Gang.rankOf (g : Gang) (core slot : Nat) : Nat := g.members.findIdx (fun m => m.core == core && m.slot == slot)

/-- A member by rank. -/
def Gang.member (g : Gang) (r : Nat) : Option Member := g.members[r]?

/-- Whether a rank has exited or been removed. -/
def Gang.isGone (g : Gang) (r : Nat) : Bool := match g.member r with
  | some m => m.gone
  | none => true

/-- The core of a GRANK. -/
def Gang.coreOf (g : Gang) (grank : Nat) : Nat := match g.member (grank * g.spc) with
  | some m => m.core
  | none => 0

/-- The cores of a gang, by GRANK. -/
def Gang.cores (g : Gang) : List Nat := (List.range g.ncore).map g.coreOf

/-- A message of a unit of a core to another of its lea, waiting to be injected (R324, R347, R350). -/
def State.unitPost (s : State) (lea src dst : Nat) (m : Msg) : State :=
  { s with nextId := s.nextId + 1 }.post
    { id := s.nextId, lea := lea, src := src, srcSlot := 0, srcTid := 0, dst := dst, sent := none, msg := m, wd := 0, born := 0 }

/-- A message of a lea's units that has come to a core, if there is one (R324). -/
def State.unitMail (s : State) (lea dst : Nat) (m : Msg) : Option Mail :=
  s.mail.find? (fun e => e.lea == lea && e.dst == dst && e.msg == m && s.arrives e)

/-- A gang with a member changed. -/
def Gang.modMember (g : Gang) (r : Nat) (f : Member → Member) : Gang := { g with members := listMod g.members r f }

/-- Whether a member's thread is resident in its slot. -/
def State.memberHere (s : State) (g : Gang) (m : Member) : Bool :=
  let x := s.slot m.core m.slot
  !m.gone && x.run != .absent && x.lea == some g.lea && x.gang == some g.gid

/-! ## Barriers (R347) -/

/-- A barrier of a gang. -/
def Gang.bar (g : Gang) (k : Nat) : Barrier := g.barriers.getD k ⟨[], [], [], 0⟩

/-- A gang with a barrier changed. -/
def Gang.modBar (g : Gang) (k : Nat) (f : Barrier → Barrier) : Gang := { g with barriers := listMod g.barriers k f }

/-- GEN at a core. -/
def Barrier.genAt (b : Barrier) (core : Nat) : Nat := keyGet 0 b.gens core

/-- A generation ended at the gang's first core where every thread has arrived or exited. -/
def Gang.checkBar (g : Gang) (b : Barrier) : Barrier :=
  if !b.counted.isEmpty && (List.range g.members.length).all (fun r => b.counted.contains r || g.isGone r)
  then { b with counted := [], gen := b.gen + 1 } else b

/-- Every barrier of a gang checked after a thread left. -/
def Gang.checkBars (g : Gang) : Gang := { g with barriers := g.barriers.map g.checkBar }

/-- Messages posted by a unit of a core to others. -/
def State.unitPosts (s : State) (lea src : Nat) : List (Nat × Msg) → State
  | [] => s
  | (dst, m) :: t => (s.unitPost lea src dst m).unitPosts lea src t

/-- A gang changed at its first core, and every completion that this brought sent to its cores (R347). -/
def State.atFirst (s : State) (g : Gang) (f : Gang → Gang) : State :=
  let h := f g
  let news := (List.range 8).flatMap (fun k =>
    if (g.bar k).gen < (h.bar k).gen then g.cores.map (fun c => (c, Msg.barOut g.gid k (h.bar k).gen)) else [])
  (s.modGang g.lea g.gid (fun _ => h)).unitPosts g.lea (g.coreOf 0) news

/-- Waiting for a generation above one: at once, or Parked (R335, R347). -/
def State.barWait (s : State) (g : Gang) (k gen : Nat) : State :=
  if gen < (g.bar k).genAt s.cur.1 then s else s.park (.barrier k gen)

/-- The acting thread's arrival at a barrier (R347): its bit set, and a message to the gang's first core that is injected once
its earlier accesses are performed. -/
def State.arrive (s : State) (g : Gang) (k : Nat) : State :=
  let r := g.rankOf s.cur.1 s.cur.2
  let id := s.nextId
  ({ s with nextId := id + 1 }.post (s.newMail id (g.coreOf 0) 0 (.barIn g.gid k r))).modGang g.lea g.gid (fun g =>
    g.modBar k (fun b => { b with arrived := (r, some (s.me.tid, id)) :: b.arrived }))

/-- The rest of BAR and BARAR, which inject an arrival, in a thread with a gang whose arrival bit is clear (R322, R347, R416). -/
def State.withBarrier (s : State) (k : Nat) (f : State → Gang → State) : State :=
  s.withExchange (fun s => match s.myGang with
    | none => s.raise 4 0x43 (BitVec.ofNat 64 k)
    | some g =>
      if (keyFind (g.bar k).arrived (g.rankOf s.cur.1 s.cur.2)).isSome then s.raise 4 0x43 (BitVec.ofNat 64 k) else f s g)

/-- BAR (R347). -/
def execBar (k : BitVec 3) (s : State) : Out1 :=
  .next (s.no15 (rrBits 0x15 0 0 0 (0#2 ++ k) 0 0) (fun s => s.withBarrier k.toNat (fun s g =>
    ((s.arrive g k.toNat).issue 4).barWait g k.toNat ((g.bar k.toNat).genAt s.cur.1))))

/-- BARAR (R347). -/
def execBarar (k : BitVec 3) (d : BitVec 5) (s : State) : Out1 :=
  .next (s.no15 (rrBits 0x15 0 0 1 (0#2 ++ k) 0 d) (fun s => s.withOperands [] [s.wAddr d.toNat] (fun s =>
    s.withBarrier k.toNat (fun s g =>
      (s.arrive g k.toNat).setW 4 d.toNat false (BitVec.ofNat 64 ((g.bar k.toNat).genAt s.cur.1))))))

/-- BARWT (R347). -/
def execBarwt (k : BitVec 3) (a : BitVec 5) (s : State) : Out1 :=
  .next (s.no15 (rrBits 0x15 0 0 2 (0#2 ++ k) a 0) (fun s => s.withOperands [s.wAddr a.toNat] [] (fun s =>
    match s.myGang with
    | none => s.raise 4 0x43 (k.setWidth 64)
    | some g => s.withLoose a.toNat (fun s v _ => (s.issue 4).barWait g k.toNat v.toNat))))

/-- BARRIER_ARRIVAL (R347): an arrival comes to the gang's first core and is counted. -/
def execBarrierArrival (lea gid k rank : Nat) (s : State) : Out1 :=
  .next (match s.gang lea gid with
    | none => s
    | some g =>
      match s.unitMail lea (g.coreOf 0) (.barIn gid k rank) with
      | some m =>
        (s.dropMail m.id).atFirst g (fun g => g.modBar k (fun b =>
          g.checkBar { b with
            arrived := b.arrived.map (fun e => if e.1 = rank then (rank, none) else e)
            counted := rank :: b.counted }))
      | none => s)

/-- A slot woken by a generation of its gang's barrier. -/
def Slot.wakeBar (lea gid k gen : Nat) (x : Slot) : Slot :=
  match x.wait with
  | .barrier j n => if j = k ∧ n < gen ∧ x.lea = some lea ∧ x.gang = some gid then x.wake else x
  | _ => x

/-- BARRIER_COMPLETE (R347): a completed generation reaches a core, in order. -/
def execBarrierComplete (lea gid k core : Nat) (s : State) : Out1 :=
  .next (match s.gang lea gid with
    | none => s
    | some g =>
      let n := (g.bar k).genAt core + 1
      match s.unitMail lea core (.barOut gid k n) with
      | some m =>
        ((s.dropMail m.id).modGang lea gid (fun g => g.modBar k (fun b =>
          { b with
            gens := keySet b.gens core n
            arrived := b.arrived.filter (fun e => match g.member e.1 with
              | some m => m.core != core
              | none => false) }))).modCore core (fun c => { c with slots := c.slots.map (Slot.wakeBar lea gid k n) })
      | none => s)

/-! ## Group reduction (R349, R350) -/

/-- One combining step of an operator (R102, R349). -/
def gredStep (op : Nat) (x y : Word) : Word :=
  let fp (f : Fmt) (g : Val → Val → Val) : Word :=
    let dec (w : Word) : Val := f.dec true false (w.toNat % 2 ^ (1 + f.eb + f.mb))
    BitVec.ofNat 64 (f.enc true false .rne (g (dec x) (dec y))).bits
  let add (f : Fmt) : Word :=
    let dec (w : Word) : Val := f.dec true false (w.toNat % 2 ^ (1 + f.eb + f.mb))
    BitVec.ofNat 64 (fpAdd f false .rne (dec x) (dec y)).bits
  match op with
  | 0 => x + y
  | 1 => if x.slt y then y else x
  | 2 => if y.slt x then y else x
  | 3 => x &&& y
  | 4 => x ||| y
  | 5 => x ^^^ y
  | 6 => add fp64
  | 7 => fp fp64 Val.maxOf
  | 8 => fp fp64 Val.minOf
  | 9 => add fp32
  | 10 => fp fp32 Val.maxOf
  | _ => fp fp32 Val.minOf

/-- The combination of values in order; poison of any makes the result poisoned (R422). -/
def gredFold (op : Nat) : List PWord → Option PWord
  | [] => none
  | v :: t => some (t.foldl (fun a b => ⟨gredStep op a.val b.val, a.bad || b.bad⟩) v)

/-- A round of a gang. -/
def Gang.round (g : Gang) (n : Nat) : Option GredRound := g.rounds.find? (fun r => r.num == n)

/-- A gang with a round changed, or begun. -/
def Gang.modRound (g : Gang) (n : Nat) (f : GredRound → GredRound) : Gang :=
  if g.rounds.any (fun r => r.num == n) then { g with rounds := g.rounds.map (fun r => if r.num = n then f r else r) }
  else { g with rounds := g.rounds ++ [f ⟨n, [], [], none, [], []⟩] }

/-- GRED (R236, R349): the destination is empty, which a waiting operation on it may find, and the contribution is injected once the
earlier accesses are performed. A poisoned contribution traps (0x14) before a missing tree does (0x47), which is the model's choice (R423,
R438; log 109). -/
def execGred (o : BitVec 4) (a d : BitVec 5) (s : State) : Out1 :=
  .next (s.no15 (rrBits 0x15 0 o 3 0 a d) (fun s => s.withOperands [s.wAddr a.toNat] [s.wAddr d.toNat] (fun s =>
    let rank (g : Gang) : Nat := g.rankOf s.cur.1 s.cur.2
    if s.myGang.any (fun g => (g.member (rank g)).any (fun m => m.gredDst.isSome)) then s.forfeit
    else s.withExchange (fun s => s.needClean 4 0x14 a.toNat (fun s =>
      match s.myGang with
      | none => s.raise 4 0x47 0
      | some g =>
        if g.tree.isNone then s.raise 4 0x47 0
        else
          let r := rank g
          let n := match g.member r with
            | some m => m.gredRound
            | none => 0
          let x := s.wAddr d.toNat
          let id := s.nextId
          (({ s with nextId := id + 1 }.post (s.newMail id s.cur.1 0 (.gredIn g.gid n r))).markWord x .empty |>.modGang g.lea g.gid (fun g =>
            (g.modMember r (fun m => { m with gredRound := n + 1, gredDst := some (n, x) })).modRound n (fun q =>
              { q with given := keySet q.given r ⟨o.toNat, s.w a.toNat, s.nsr, s.me.tid, id⟩ }))).issue 4 |>.touched x)))))

/-- Whether a rank's contribution to a round is at its core's node, or left out because the thread exited before it joined (R350). -/
def State.gredIn (s : State) (g : Gang) (q : GredRound) (r : Nat) : Bool :=
  match keyFind q.given r with
  | some _ => (s.unitMail g.lea (g.coreOf (r / g.spc)) (.gredIn g.gid q.num r)).isSome
  | none => g.isGone r

/-- Whether the value of a node's child has come to it. -/
def State.gredUp (s : State) (g : Gang) (q : GredRound) (grank child : Nat) : Bool :=
  (keyFind q.nodes child).isSome && (s.unitMail g.lea (g.coreOf grank) (.gredUp g.gid q.num child)).isSome

/-- The children of a node (R350). -/
def Gang.kids (g : Gang) (grank : Nat) : List Nat := ((List.range 4).map (fun i => 4 * grank + 1 + i)).filter (fun c => c < g.ncore)

/-- Whether a message carries to a node of a round what it combines. -/
def Msg.toNode (m : Msg) (gid round : Nat) (ranks kids : List Nat) : Bool :=
  match m with
  | .gredIn i n r => i == gid && n == round && ranks.contains r
  | .gredUp i n c => i == gid && n == round && kids.contains c
  | _ => false

/-- A round's result on its way from a node to its children (R350). -/
def State.gredSpread (s : State) (g : Gang) (round grank : Nat) : State :=
  s.unitPosts g.lea (g.coreOf grank) ((g.kids grank).map (fun c => (g.coreOf c, Msg.gredDown g.gid round c)))

/-- GRED_CONTRIBUTION_ARRIVE (R104, R350): a node of the tree combines its slots' contributions and its children's values, and sends
the value on; at the root it is the result, undefined where the operators differ (R349; log 7). -/
def execGredContributionArrive (lea gid round grank : Nat) (s : State) : Out1 :=
  .next (match s.gang lea gid with
    | none => s
    | some g =>
      match g.round round with
      | none => s
      | some q =>
        let ranks := (List.range g.spc).map (fun r => grank * g.spc + r)
        let kids := g.kids grank
        if g.ncore ≤ grank || (keyFind q.nodes grank).isSome || !ranks.all (s.gredIn g q) || !kids.all (s.gredUp g q grank) then s
        else
          let op := match q.given with
            | e :: _ => e.2.op
            | [] => 0
          let own := ranks.filterMap (fun r => (keyFind q.given r).map (fun x => x.val))
          let below := kids.filterMap (fun c => keyGet none q.nodes c)
          let v := gredFold op (own ++ below)
          let same := q.given.all (fun e => e.2.op == op)
          let fresh := s.undef (some lea) s.free
          let root : Option PWord := v.map (fun x =>
            let w := if same && !x.bad then (if 9 ≤ op then x.val &&& 0xFFFFFFFF#64 else x.val) else fresh
            ⟨w, x.bad⟩)
          let s1 := { s with free := s.free + 1, mail := s.mail.filter (fun m => !(m.lea == lea && m.msg.toNode gid round ranks kids)) }
          let s2 := s1.modGang lea gid (fun g => g.modRound round (fun q =>
            { q with
              nodes := keySet q.nodes grank v
              result := if grank = 0 then root else q.result
              reached := if grank = 0 then [0] else q.reached }))
          if grank = 0 then s2.gredSpread g round 0
          else s2.unitPost lea (g.coreOf grank) (g.coreOf ((grank - 1) / 4)) (.gredUp gid round grank))

/-- NSR that a round's result carries: that of the gang's rank-0 thread as it contributed, or as it was dispatched where it had
exited before the round (R33, R350; log 24). -/
def Gang.nsrOf (g : Gang) (q : GredRound) : Bool := (keyFind q.given 0).elim g.nsr (fun x => x.nsr)

/-- The sender word that names a gang's rank-0 thread (R33, R340). -/
def State.gangSender (s : State) (g : Gang) : Word :=
  match g.member 0 with
  | some m => senderWord (s.logicalOf g.lea m.core) m.slot 0 false
  | none => 0

/-- A result with an NSR deposited into a member's destination word, where it is still empty (R33, R350). -/
def State.gredDeposit (s : State) (g : Gang) (m : Member) (dst : Nat) (v : PWord) (nsr : Bool) : State :=
  if !s.memberHere g m then s
  else if (s.slot m.core m.slot).desc.stat.getLsbD 3 != nsr then
    s.modSlot m.core m.slot (fun x => { x with owedTrap := some (0x4A, s.gangSender g) })
  else if s.mem.feOf dst = some .empty then s.fillExt dst v
  else s

/-- A round dropped once every rank has had its result. -/
def Gang.trimRounds (g : Gang) : Gang :=
  { g with rounds := g.rounds.filter (fun q => decide (q.delivered.length < g.members.length)) }

/-- A result that has come down the tree to the node of a GRANK goes on to its children (R350). -/
def State.gredReach (s : State) (g : Gang) (round grank : Nat) : State :=
  match s.unitMail g.lea (g.coreOf grank) (.gredDown g.gid round grank) with
  | some m =>
    ((s.dropMail m.id).modGang g.lea g.gid (fun g =>
      g.modRound round (fun q => { q with reached := grank :: q.reached }))).gredSpread g round grank
  | none => s

/-- A result that has reached a member's core deposited, and the round ended for it (R350). -/
def State.gredGive (s : State) (g : Gang) (q : GredRound) (m : Member) (rank : Nat) (v : PWord) : State :=
  let s1 := match m.gredDst with
    | some (n, dst) => if n = q.num then s.gredDeposit g m dst v (g.nsrOf q) else s
    | none => s
  s1.modGang g.lea g.gid (fun g =>
    let g : Gang := { g with worked := true }
    ((g.modMember rank (fun m => if m.gredDst.any (fun d => d.1 == q.num) then { m with gredDst := none } else m)).modRound
      q.num (fun q => { q with delivered := rank :: q.delivered })).trimRounds)

/-- Whether a member's slot or its destination word is in a save area or on its way there (R380). -/
def State.gredLate (s : State) (g : Gang) (m : Member) : Bool :=
  (s.slot m.core m.slot).vacated || (s.core m.core).late m.core g.lea m.slot (m.gredDst.map (fun d => d.2)).toList

/-- GRED_RESULT_DELIVER (R350): a result comes to the node of a thread's core, and is deposited for the thread. -/
def execGredResultDeliver (lea gid round rank : Nat) (s : State) : Out1 :=
  .next (match s.gang lea gid with
    | none => s
    | some g =>
      let s1 := s.gredReach g round (rank / g.spc)
      match s1.gang lea gid with
      | none => s1
      | some g =>
        match g.round round, g.member rank with
        | some q, some m =>
          (match q.result with
            | some v =>
              if q.delivered.contains rank || !q.reached.contains (rank / g.spc) || s1.gredLate g m then s1
              else s1.gredGive g q m rank v
            | none => s1)
        | _, _ => s1)

/-- A member that has left its gang for good: it counts as arrived in every later generation, and is left out of the rounds
that it has not joined (R347, R350, R357). -/
def State.leaveGang (s : State) (lea : Option Nat) (gang : Option Nat) (core slot : Nat) : State :=
  match lea, gang with
  | some l, some gid =>
    match s.gang l gid with
    | some g => s.atFirst g (fun g => (g.modMember (g.rankOf core slot) (fun m => { m with gone := true })).checkBars)
    | none => s
  | _, _ => s

end Sys2Proof.Machine
end

