-- ==== Sys2Proof/Machine/Descriptor.lean ====
section
/-! DEFINITION. Thread descriptors: their layout (R29), writing one back and loading one (R30, R31, R90, R416), what a thread
finds when it is loaded again (R335), and leaving a slot (R356, R414). -/

namespace Sys2Proof.Machine

/-! ## Layout (R29) -/

/-- A segment register from its two doublewords, ATTR forced (R29, R37). -/
def segOf (a b : Word) : Seg := ⟨a.setWidth 48, b.setWidth 49, attrForced (a.extractLsb' 48 16)⟩

/-- The two doublewords of a segment register (R29). -/
def Seg.words (g : Seg) : List Word := [g.attr ++ g.base, g.limit.setWidth 64]

/-- SRGEN as a load takes it (R90). -/
def srgenLoaded (w : Word) : Word := if w = 0 then srSeed 0 else w

/-- The descriptor that doublewords 0 to 31 hold; reserved bits are ignored (R6, R21, R29). -/
def descOf (w : Nat → Word) : Desc :=
  { pc := w 0, stat := statLoaded (w 1), wp := w 2 &&& ~~~7#64, vp := w 3 &&& ~~~255#64, fmtd := w 4, scla := w 5, sclb := w 6,
    srgen := srgenLoaded (w 7), tcause := w 8, tpc := w 9, tval := w 10,
    segs := (List.range 8).map (fun k => segOf (w (16 + 2 * k)) (w (17 + 2 * k))) }

/-- The doublewords of a descriptor; WAIT's encoding is the hardware's own, so its value is free (R29; logs 7, 11). -/
def Desc.words (d : Desc) (wait : Word) : List Word :=
  [d.pc, d.stat, d.wp, d.vp, d.fmtd, d.scla, d.sclb, d.srgen, d.tcause, d.tpc, d.tval, 0, wait, 0, 0, 0]
    ++ d.segs.flatMap Seg.words

/-- Whether a descriptor's windows pass R21, with the offset of the window that fails. -/
def Desc.windowFail (d : Desc) : Option Word :=
  if !windowOk (d.seg 0) d.wp.toNat 256 then some d.wp
  else if !windowOk (d.seg 0) d.vp.toNat 4224 then some d.vp
  else none

/-- What is wrong with a TDP for a slot (R29). -/
def tdpFail (slot tdp : Nat) : Option (BitVec 8) :=
  if tdp % 256 ≠ 0 then some 0x25
  else if (0x8000 * slot ≤ tdp ∧ tdp + 256 ≤ 0x8000 * slot + 0x8000) ∨ (0x80000 ≤ tdp ∧ tdp + 256 ≤ 0xC0000) then none
  else some 0x21

/-! ## Memory images (R30) -/

/-- Doublewords written one after another from an address. -/
def Memory.putWords (m : Memory) (a : Nat) : List Word → Memory
  | [] => m
  | w :: t => (m.putWord a ⟨w, false⟩).putWords (a + 8) t

/-- Doubleword i of the descriptor at a TDP of a core. -/
def State.descWord (s : State) (core tdp i : Nat) : Word := BitVec.ofNat 64 (s.mem.read (lsAddr core tdp + 8 * i) 8)

/-- The offset of the first poisoned doubleword of the descriptor at a TDP. -/
def State.descPoison (s : State) (core tdp : Nat) : Option Nat :=
  ((List.range 32).find? (fun i => s.mem.isBad (lsAddr core tdp + 8 * i))).map (fun i => 8 * i)

/-- The doublewords of a descriptor that hold its windows: WP, VP and sg0 (R29). -/
def windowWords : List Nat := [2, 3, 16, 17]

/-- The values of the bytes of a list of doublewords. -/
def wordsSet (l : List Word) : BitVec 256 := l.foldl (fun v w => v ||| byteSet w.toNat 8) 0

/-- What the descriptor of a resident thread of a lea reads as: bytes that are zero or values that the lea has written, the thread's own
among them, but not windows that would raise a trap on their own account where the thread's do not (R7, R21, R30; log 7). -/
def State.undefinedDesc (s : State) (lea : Nat) (d : Desc) : List Word :=
  let set := s.wrote (some lea) ||| wordsSet (d.words 0)
  let free := (List.range 32).map (fun i => boundWord set (Config.freeWord (s.free + i)))
  let bad := (descOf (fun i => free.getD i 0)).windowFail.isSome
  (List.range 32).map (fun i => if bad && windowWords.contains i then (d.words 0).getD i 0 else free.getD i 0)

/-- The descriptor in memory is undefined while its thread is resident (R30; log 7). -/
def State.scramble (s : State) (core tdp lea : Nat) (d : Desc) : State :=
  { s with free := s.free + 32, mem := s.mem.putWords (lsAddr core tdp) (s.undefinedDesc lea d) }

/-! ## Leaving a slot (R30, R31) -/

/-- The run state that a thread keeps while it is not resident. -/
def Slot.keptRun (x : Slot) : RunState :=
  match x.run with
  | .parked => .parked
  | .halted => .halted
  | _ => .ready

/-- What a slot's thread keeps as it leaves. -/
def Slot.kept (x : Slot) : Kept :=
  { wait := x.wait, run := x.keptRun, tid := x.tid, debugHalt := x.debugHalt, issued := x.issued, launch := x.launch, view := x.view,
    hold := match x.hold with
      | .turn0 c => .turn0 c
      | .owed n => .owed n
      | _ => .none }

/-- A trap that the thread owes, taken before it leaves (R33, R420). No fetched instruction takes it: its ILEN is 0 and its TPC the PC,
which is the model's choice (log 99). -/
def State.takeOwed (s : State) (core slot : Nat) : State :=
  match (s.slot core slot).owedTrap with
  | some (c, v) => (s.trapSlot core slot (BitVec.ofNat 8 c) v 0).modSlot core slot (fun x => { x with owedTrap := none })
  | none => s

/-- The items outstanding of a slot's thread marked as it leaves: what the thread issues when it is back comes after them (R222). -/
def State.markLeft (s : State) (x : Slot) : State :=
  { s with outs := s.outs.map (fun o => if o.tid = x.tid ∧ o.left = none then { o with left := some x.issued } else o) }

/-- The descriptor of a slot's thread exact at its TDP, as it leaves (R30). -/
def State.putDesc (s : State) (core slot : Nat) : State :=
  let x := s.slot core slot
  let (f, s1) := (s.markLeft x).takeFree
  { s1 with mem := s1.mem.putWords (lsAddr core x.tdp.toNat) (x.desc.words f) }

/-- The descriptor of a slot's thread written back to its TDP, WAIT with it (R30, R31). -/
def State.writeBack (s : State) (core slot : Nat) : State :=
  let x := s.slot core slot
  (s.putDesc core slot).modCore core (fun c => { c with waits := keySet c.waits x.tdp.toNat x.kept })

/-- A slot that its thread has left: a record that waits in it stays, and so does what its registers last held (R361, R400). -/
def Slot.emptied (x : Slot) : Slot :=
  { Slot.reset with desc := x.desc, record := x.record, tid := x.tid, stopped := x.stopped, vacated := x.vacated, lastIssue := x.lastIssue }

/-! ## Loading (R31, R319, R335, R416) -/

/-- The state of a token as TQDONE reads it: 0 Pending, 1 Early, 2 Retired (R316, R353). -/
def Lea.readTok (l : Lea) (t : Nat) : Nat :=
  if t = 0 then 2
  else
    let (gen, st) := keyGet (0, TokState.retired) l.tokens (t % 4096)
    if gen ≠ t / 4096 then 2
    else match st with
      | .pending => 0
      | .early => 1
      | .retired => 2

/-- The valid predecessor tokens of a packet (R317). -/
def packetToks (p : List Word) : List Nat :=
  ((List.range 4).filter (fun j => (p.getD 1 0).getLsbD j)).map (fun j => fieldAt (p.getD 6 0) (16 * j) 16)

/-- OWN of a packet (R317). -/
def packetOwn (p : List Word) : Nat := fieldAt (p.getD 7 0) 0 16

/-- EARLY of a packet (R317). -/
def packetEarly (p : List Word) : Bool := (p.getD 1 0).getLsbD 61

/-- Whether every predecessor of a slot's task reads Retired (R354). -/
def State.predsDone (s : State) (x : Slot) : Bool :=
  match x.lea, x.gang with
  | some l, some g =>
    match s.lea l, s.gang l g with
    | some le, some ga => !packetEarly ga.packet || (packetToks ga.packet).all (fun t => le.readTok t == 2)
    | _, _ => true
  | _, _ => true

/-- Whether a Dorent context is not Running (R281). -/
def Dorent.idle (d : Dorent) : Bool := d.state != .running

/-- The code of a context's state (R273). -/
def DState.code : DState → Nat
  | .empty => 0
  | .loaded => 1
  | .running => 2
  | .done => 3
  | .failed => 4
  | .aborted => 5
  | .left => 6

/-- The status word (R273). -/
def Dorent.status (d : Dorent) : Word :=
  let ver : Nat := match d.record d.gid with
    | some r => r.ver.toNat
    | none => 0
  let bit (b : Bool) (k : Nat) : Nat := if b then 2 ^ k else 0
  BitVec.ofNat 64 (ver * 2 ^ 32 + d.pc % 512 * 2 ^ 23 + bit d.psn 18 + bit d.park.isSome 17 + bit d.endpt 16
    + d.err.toNat * 2 ^ 8 + d.state.code)

/-- A thread Parked in a slot tests its condition (R335): where it holds, the wait ends. The waits that other units end by
events of their own are not touched, and a semaphore that this cycle has changed is tested after the cycle (R270). -/
def State.retest (s : State) (core slot : Nat) : State :=
  let x := s.slot core slot
  let c := s.core core
  let go (s : State) : State := s.modSlot core slot Slot.wake
  if !x.waiting then s
  else
    match x.wait with
    | .word a => if s.mem.isFull a then go s else s
    | .words _ _ _ _ =>
      if x.away c.lea then s
      else match x.waitfDone s.mem with
        | some (d, v) => go (s.fillWord d v)
        | none => s
    | .sem k n => if c.lea = x.lea ∧ n ≤ (c.sem k).settled ∧ c.semSets = [] ∧ c.semAdds = [] then go s else s
    | .barrier k gen =>
      match x.lea, x.gang with
      | some l, some g =>
        match s.gang l g with
        | some ga => if gen < (ga.bar k).genAt core then go s else s
        | none => go s
      | _, _ => s
    | .token t d bad =>
      match x.lea.bind s.lea with
      | some l => if l.readTok t = 2 ∧ !x.away c.lea then go (s.fillWord d ⟨2, bad⟩) else s
      | none => s
    | .pred => if s.predsDone x then go s else s
    | .coll d =>
      if c.lea = x.lea ∧ c.dorent.idle ∧ !x.away c.lea then go (s.fillWord d ⟨c.dorent.status, false⟩) else s
    | .colld => if c.lea ≠ x.lea ∨ c.dorent.copy.any (fun y => y.tid == x.tid) then s else go s
    | .pool => if c.lea = x.lea then go s else s
    | .home id => if (s.out id).isNone then go s else s
    | .access id =>
      match s.out id with
      | some o => if o.held then s else go s
      | none => go s
    | .port => if s.outs.any (fun o => o.tid == x.tid && o.work == .port) then s else go s
    | .hret => if s.quiet x.tid then go s else s
    | .fetch _ => go s
    | _ => s

/-- Every slot of a core tests its thread's condition. -/
def State.retestCore (s : State) (core : Nat) : State := (List.range 16).foldl (fun s k => s.retest core k) s

/-- A thread of a lea loaded into a slot with a descriptor, in the state that WAIT records; its memory image becomes
undefined (R30, R31). Its first instruction issues in the slot's own turn. -/
def State.loadThread (s : State) (core slot lea : Nat) (tdp : Nat) (d : Desc) (w : Option Kept) : State :=
  let (id, s0) := s.takeId
  let k := w.getD ⟨.none, .ready, id, .none, none, 0, none, s.mem.log.length⟩
  let run := if k.run = .ready then k.hold.run else k.run
  let s1 := s0.scramble core tdp lea d
  (s1.modCore core (fun c =>
    ({ c with waits := keyDel c.waits tdp }).modSlot slot (fun x =>
      { x with
        run := run, lea := some lea, tid := k.tid, desc := d, tdp := BitVec.ofNat 64 tdp, wait := k.wait, hold := k.hold,
        debugHalt := k.debugHalt, owedTrap := none, fresh := true, since := s.now, issued := k.issued, launch := k.launch, view := k.view,
        lastIssue := (s.cycle core : Int) - 16 }))).retest core slot

/-- A thread loaded from the descriptor at a TDP in the core's local store; a poisoned one is loaded Halted with cause 0x16
(R31, R404, R416). -/
def State.loadFrom (s : State) (core slot lea tdp : Nat) : State :=
  let d := descOf (s.descWord core tdp)
  let w := keyFind (s.core core).waits tdp
  match s.descPoison core tdp with
  | none => s.loadThread core slot lea tdp d w
  | some off => (s.loadThread core slot lea tdp d none).trapSlot core slot 0x16 (BitVec.ofNat 64 off) 0

end Sys2Proof.Machine
end

