-- ==== Sys2Proof/Machine/Task.lean ====
section
/-! DEFINITION. Tasks: packets and tokens (R316, R317), dispatch (R318, R319), retirement (R320, R357), the task instructions
(R352-R356), and the watchdog (R328). -/

namespace Sys2Proof.Machine

/-! ## Packets (R317) -/

/-- SPC of a packet. -/
def packetSpc (p : List Word) : Nat := fieldAt (p.getD 1 0) 56 4

/-- NCORE of a packet. -/
def packetCores (p : List Word) : Nat := fieldAt (p.getD 1 0) 44 12

/-- LS of a packet, in KiB. -/
def packetLs (p : List Word) : Nat := fieldAt (p.getD 1 0) 35 9

/-- PRI of a packet. -/
def packetPri (p : List Word) : Nat := fieldAt (p.getD 1 0) 62 2

/-- Whether a packet is refused for a reason other than its own token's state (R317). -/
def packetBad (leal : Nat) (p : List Word) : Bool :=
  let own := packetOwn p
  p.length != 8
    || (p.getD 0 0 &&& 0xFFFF000000000001#64) != 0
    || (p.getD 1 0 &&& 0x10000007FFFFFFF0#64) != 0
    || (p.getD 7 0 &&& ~~~0xFFFF#64) != 0
    || packetSpc p == 0 || packetCores p == 0 || decide (2048 < packetCores p) || decide (256 < packetLs p)
    || decide (leal < packetCores p)
    || (packetToks p).any (fun t => t % 4096 == 0)
    || (own != 0 && own % 4096 == 0)

/-- Whether a packet's own token is refused (R316, R317). -/
def Lea.ownBad (l : Lea) (own : Nat) : Bool :=
  own != 0 && (let (gen, st) := keyGet (0, TokState.retired) l.tokens (own % 4096)
    st != .retired || gen == own / 4096)

/-- A task queue of a lea. -/
def Lea.queue (l : Lea) (q : Nat) : TaskQueue := keyGet ⟨[], 0, false⟩ l.queues q

/-- What Headland makes of a packet for a queue in a slot (R317, R318, R334, R352; log 25): a status, and the lea after it. The
host's own packets do not meet the queue's disable (R334). -/
def Lea.enqueue (l : Lea) (slot q : Nat) (p : List Word) (host : Bool) : Word × Lea :=
  let own := packetOwn p
  let x := l.queue q
  if packetBad l.leal p then (refused 0x10, l)
  else if l.ownBad own then (refused 0x11, l)
  else if x.off && !host then (refused 0x13, l)
  else if 256 ≤ x.packets.length then (refused 0x12, l)
  else
    (0, { l with
      queues := keySet l.queues q { x with packets := x.packets ++ [(slot, p)] }
      tokens := if own = 0 then l.tokens else keySet l.tokens (own % 4096) (own / 4096, .pending) })

/-- HOST_ENQUEUE (R317): a refused packet receives an error completion. -/
def execHostEnqueue (lea queue : Nat) (pkt : List Word) (s : State) : Out1 :=
  .next (match s.lea lea with
    | none => s
    | some l =>
      if 64 ≤ queue then s
      else
        let (st, l1) := l.enqueue s.now queue pkt true
        { s.modLea lea (fun _ => l1) with host := { s.host with answer := [if st = 0 then 0 else 1] } })

/-- TQPUSH (R352, R381): the packet is read in the issuing turn, and goes to Headland after every earlier access. -/
def execTqpush (k : BitVec 3) (b a d : BitVec 5) (s : State) : Out1 :=
  .next (s.withOperands [s.wAddr a.toNat, s.wAddr b.toNat] [s.wAddr d.toNat] (fun s => s.withExchange (fun s =>
    s.withSpace (if (s.seg k.toNat).space = 2 then 2 else 0) (fun s => s.needClean 4 0x10 a.toNat (fun s => s.withLoose b.toNat (fun s v bad =>
      let q := if bad then v.toNat % 64 else v.toNat
      let off := (s.w a.toNat).val
      let g := s.seg k.toNat
      match segFail g (s.extent g.space) off.toNat 64 [.r] [1, 2] with
      | some c => s.raise 4 c off
      | none =>
        if off.toNat % 64 ≠ 0 then s.raise 4 0x25 off
        else if 64 ≤ q then s.raise 4 0x06 v
        else s.withBlock k.toNat off.toNat 64 0x15 (fun s w =>
          s.sendMsg s.cur.1 (s.wAddr d.toNat) (.packet q ((List.range 8).map w)))))))))

/-- TQPUSH_ARRIVE (R317, R352). -/
def execTqpushArrive (id : Nat) (s : State) : Out1 :=
  .next (match s.mailOf id with
    | some m =>
      match m.msg, s.lea m.lea with
      | .packet q ws, some l =>
        if !s.arrives m then s
        else
          let (st, l1) := l.enqueue s.now q ws false
          (s.modLea m.lea (fun _ => l1)).answer m (.packetAck st id)
      | _, _ => s
    | none => s)

/-- TQPUSH_ACK (R334, R352). -/
def execTqpushAck (id : Nat) (s : State) : Out1 :=
  .next (match s.mailOf id with
    | some m =>
      match m.msg with
      | .packetAck st _ => if s.arrives m && !s.lateMail m then s.acked m st else s
      | _ => s
    | none => s)

/-! ## Tokens (R353, R354) -/

/-- The token's state now, for the acting thread's lea. -/
def State.tokState (s : State) (t : Nat) : Nat := match s.myLea with
  | some l => l.readTok t
  | none => 2

/-- The token operand (R353). -/
def State.withToken (s : State) (a d : Nat) (f : State → Nat → Bool → State) : State :=
  s.withOperands [s.wAddr a] [s.wAddr d] (fun s => s.withLoose a (fun s v bad =>
    if !bad && fieldAt v 16 48 != 0 then s.raise 4 0x06 v else f s (fieldAt v 0 16) bad))

/-- TQDONE (R353): parks until the token is Retired. -/
def execTqdone (a d : BitVec 5) (s : State) : Out1 :=
  .next (s.no15 (rrBits 0x17 0 0 1 0 a d) (fun s => s.withToken a.toNat d.toNat (fun s t bad =>
    let dst := s.wAddr d.toNat
    let s1 := s.issue 4
    if s.tokState t = 2 then s1.fillFixed dst 2 bad else s1.park (.token t dst bad))))

/-- TQDONE.T (R353). -/
def execTqdoneT (a d : BitVec 5) (s : State) : Out1 :=
  .next (s.withToken a.toNat d.toNat (fun s t bad => (s.fillFixed (s.wAddr d.toNat) (BitVec.ofNat 64 (s.tokState t)) bad).issue 4))

/-- SUCCOK (R354). -/
def execSuccok (s : State) : Out1 :=
  .next (s.no15 (rrBits 0x17 0 0 2 0 0 0) (fun s =>
    let s1 := match s.myGang with
      | some g =>
        let own := packetOwn g.packet
        s.modLea g.lea (fun l =>
          if own != 0 && keyFind l.tokens (own % 4096) == some (own / 4096, TokState.pending) then
            { l with tokens := keySet l.tokens (own % 4096) (own / 4096, .early) }
          else l)
      | none => s
    s1.issue 4))

/-- WAITPRED (R354): parks until every valid predecessor reads Retired; at once for a task dispatched with EARLY = 0. -/
def execWaitpred (s : State) : Out1 :=
  .next (s.no15 (rrBits 0x17 0 0 3 0 0 0) (fun s =>
    if s.predsDone s.me then s.issue 4 else (s.issue 4).park .pred))

/-! ## Yielding and exit (R355, R356) -/

/-- The first turn 0 of a core after a cycle (R16). -/
def nextTurn0 (cycle : Nat) : Nat := (cycle / 16 + 1) * 16

/-- YIELD (R19, R355): the thread is Forfeiting until the next turn 0. -/
def execYield (s : State) : Out1 :=
  .next (s.no15 (rrBits 0x17 0 0 4 0 0 0) (fun s =>
    (s.issue 4).modMe (fun x => x.holdFor (.turn0 (nextTurn0 (s.cycle s.cur.1))))))

/-- YIELD_END (R19, R355): the turn 0 has come, and the thread is Ready. -/
def execYieldEnd (core slot : Nat) (s : State) : Out1 :=
  .next (match (s.slot core slot).hold with
    | .turn0 c =>
      if c ≤ s.cycle core then
        s.modSlot core slot Slot.release
      else s
    | _ => s)

/-- A thread that has issued EXIT: it is Halted until nothing of it is outstanding (R19, R356). -/
def Slot.exiting (x : Slot) : Slot := { x with run := .halted, wait := .exit }

/-- EXIT (R19, R356): the thread is Halted, and stays in its slot until nothing of it is outstanding. -/
def execExit (s : State) : Out1 :=
  .next (s.no15 (rrBits 0x17 0 0 5 0 0 0) (fun s => (s.issue 4).modMe Slot.exiting))

/-- EXIT_COMPLETE (R19, R347, R350, R356): once nothing of a thread that EXIT halted is outstanding, it leaves its slot, which is
Absent. -/
def execExitComplete (core slot : Nat) (s : State) : Out1 :=
  .next (
    let x := s.slot core slot
    if x.wait ≠ .exit ∨ x.run ≠ .halted ∨ x.debugHalt ≠ none ∨ !s.quiet x.tid ∨ x.stopped ≠ none ∨ x.claimed ≠ none then s
    else (s.modSlot core slot Slot.emptied).leaveGang x.lea x.gang core slot)

/-! ## Dispatch (R318, R319) -/

/-- Whether a reference is met (R316). -/
def Lea.tokMet (l : Lea) (early : Bool) (t : Nat) : Bool := l.readTok t == 2 || (early && l.readTok t == 1)

/-- The eligible heads of a lea: queue, slot of enqueue and packet, by queue (R318). -/
def Lea.heads (l : Lea) : List (Nat × Nat × List Word) :=
  (List.range 64).filterMap (fun q =>
    match (l.queue q).packets with
    | (n, p) :: _ => if (packetToks p).all (l.tokMet (packetEarly p)) then some (q, n, p) else none
    | [] => none)

/-- The head that is placed next: highest priority, then earliest enqueue, then lowest queue (R318). -/
def bestHead : List (Nat × Nat × List Word) → Option (Nat × Nat × List Word)
  | [] => none
  | h :: t =>
    match bestHead t with
    | none => some h
    | some b =>
      if packetPri b.2.2 < packetPri h.2.2 ∨ (packetPri b.2.2 = packetPri h.2.2 ∧ h.2.1 ≤ b.2.1) then some h else some b

/-- Whether a compute slot of a core that a lea holds is free for a dispatch (R318, R357): Absent, in no PREEMPT, load or hand of
a gang of the lea. -/
def State.slotFree (s : State) (lea core slot : Nat) : Bool :=
  let x := s.slot core slot
  x.run == .absent && x.claimed.isNone && x.loading.isNone &&
    !s.gangs.any (fun g => g.lea == lea && g.members.any (fun m => m.core == core && m.slot == slot))

/-- The offsets in the shared pool, in bytes, of the descriptors of a lea's templates (R319). -/
def Lea.poolDescs (l : Lea) : List Nat :=
  ((l.templates.map (fun p => p.2.tdp)) ++ (match l.msg with
    | some m => [m.base.tdp]
    | none => [])).filterMap (fun t => if 0x80000 ≤ t then some (t - 0x80000) else none)

/-- Whether a run of KiB of a core's shared pool at an offset in KiB is free (R318). -/
def State.runFree (s : State) (l : Lea) (core o n : Nat) : Bool :=
  !s.gangs.any (fun g => g.lea == l.num && g.resv.any (fun (c, o', n') => c == core && decide (o < o' + n' ∧ o' < o + n)))
    && !l.poolDescs.any (fun d => decide (d < 1024 * (o + n) ∧ 1024 * o < d + 256))

/-- The lowest free run of a need, in KiB; 0 where there is no need (R318, R319). -/
def State.poolRun (s : State) (l : Lea) (core n : Nat) : Option Nat :=
  if n = 0 then some 0
  else ((List.range 65).map (fun i => 4 * i)).find? (fun o => decide (o + n ≤ 256) && s.runFree l core o n)

/-- What a gang would take of a core: its slots and its pool offset; none where it does not fit (R318, R427, R428). A slot
without a template takes no thread (log 26). -/
def State.fitsCore (s : State) (l : Lea) (core spc ls : Nat) : Option (List Nat × Nat) :=
  if !s.holds core l.num || s.head.fenced.contains core then none
  else
    let free := ((List.range 15).filter (fun k => s.slotFree l.num core k && (keyFind l.templates k).isSome)).take spc
    if free.length < spc then none else (s.poolRun l core ls).map (fun o => (free, o))

/-- The lowest first core at which a packet fits (R318). -/
def State.fitsAt (s : State) (l : Lea) (p : List Word) : Option Nat :=
  (List.range l.leal).find? (fun f =>
    decide (f + packetCores p ≤ l.leal) &&
      (List.range (packetCores p)).all (fun i => (s.fitsCore l (l.cores.getD (f + i) 0) (packetSpc p) (packetLs p)).isSome))

/-- A number of 16 bits that no resident gang of the lea has; which, is Headland's (R42; log 7). -/
def State.pickGid (s : State) (l : Lea) : Nat :=
  let g0 := Config.freeNat s.free
  (((List.range (s.gangs.length + 1)).map (fun i => (g0 + i) % 65536)).find? (fun g => (s.gang l.num g).isNone)).getD 0

/-- GANG of a gang (R42). -/
def gangWord (gid spc ncore first : Nat) : Word := BitVec.ofNat 64 (gid * 2 ^ 32 + spc * 2 ^ 24 + ncore * 2 ^ 12 + first)

/-- CORE of a thread (R43). -/
def coreWord (phys grank logical : Nat) : Word := BitVec.ofNat 64 (phys * 2 ^ 32 + grank * 2 ^ 16 + logical)

/-- SLOT of a thread (R44). -/
def slotWord (srank slot : Nat) : Word := BitVec.ofNat 64 (srank * 2 ^ 8 + slot)

/-- The descriptor of a dispatched thread (R90, R319). -/
def dispatchDesc (image p : List Word) (g : Nat) : Desc :=
  let d := descOf (fun i => image.getD i 0)
  { d with
    pc := p.getD 0 0, fmtd := p.getD 3 0, scla := p.getD 4 0, sclb := p.getD 5 0, srgen := srSeed g,
    stat := d.stat &&& ~~~0x1F0#64 }

/-- One thread of a gang placed: loaded, its identity set, ARG in w0 and its reservation in w1 (R42-R44, R319). -/
def State.placeThread (s : State) (l : Lea) (g : Gang) (core grank srank slot off : Nat) : State :=
  match keyFind l.templates slot with
  | none => s
  | some t =>
    let s1 := s.loadThread core slot l.num t.tdp (dispatchDesc t.image g.packet (grank * g.spc + srank)) none
    let s2 := s1.modSlot core slot (fun x =>
      { x with
        gang := some g.gid, gangReg := gangWord g.gid g.spc g.ncore g.first, coreReg := coreWord core grank (g.first + grank),
        slotReg := slotWord srank slot })
    let x := s2.slot core slot
    let a (k : Nat) : Nat := workFlat core slot (x.desc.seg 0) (x.desc.wp.toNat + 8 * k)
    (s2.fillWord (a 0) ⟨g.packet.getD 2 0, false⟩).fillWord (a 1) ⟨BitVec.ofNat 64 (1024 * off), false⟩

/-- The lowest tree entry that is free on every core of a gang (R350). -/
def State.freeTree (s : State) (cores : List Nat) : Option Nat :=
  (List.range 4).find? (fun t => cores.all (fun c => ((s.core c).trees.getD t none).isNone))

/-- Place(h, F) (R319, R350). -/
def State.place (s : State) (l : Lea) (q : Nat) (p : List Word) (f : Nat) : State :=
  let gid := s.pickGid l
  let cores := (List.range (packetCores p)).map (fun i => l.cores.getD (f + i) 0)
  let fits := cores.map (fun c => (s.fitsCore l c (packetSpc p) (packetLs p)).getD ([], 0))
  let tree := s.freeTree cores
  let rows : List (Nat × Nat × Nat × Nat × Nat) :=
    (cores.zipIdx.zip fits).flatMap (fun e => e.2.1.zipIdx.map (fun k => (e.1.1, e.1.2, k.2, k.1, e.2.2)))
  let nsr := match rows with
    | (_, _, _, k, _) :: _ => (match keyFind l.templates k with
        | some t => (t.image.getD 1 0).getLsbD 3
        | none => false)
    | [] => false
  let g : Gang :=
    { lea := l.num, gid := gid, nsr := nsr, first := f, ncore := packetCores p, spc := packetSpc p, queue := q, packet := p,
      members := rows.map (fun (c, gr, sr, k, _) => ⟨c, k, gr, sr, false, 0, none⟩),
      resv := if packetLs p = 0 then [] else (cores.zip fits).map (fun e => (e.1, e.2.2, packetLs p)),
      tree := tree, barriers := List.replicate 8 ⟨[], [], [], 0⟩, rounds := [], idle := 0, expired := false, watched := s.tide, worked := false, excluded := false,
      ended := none }
  let s1 := { s with gangs := s.gangs ++ [g], free := s.free + 1 }
  let s2 := match tree with
    | some t => cores.foldl (fun s c => s.modCore c (fun x => { x with trees := x.trees.set t (some gid) })) s1
    | none => s1
  rows.foldl (fun s (c, gr, sr, k, o) => s.placeThread l g c gr sr k o) s2

/-- One head dispatched, if the one that comes next fits (R318). -/
def State.dispatchOne (s : State) (lea : Nat) : Option State :=
  match s.lea lea with
  | none => none
  | some l =>
    match bestHead l.heads with
    | none => none
    | some (q, _, p) =>
      match s.fitsAt l p with
      | none => none
      | some f =>
        let x := l.queue q
        let l1 := { l with queues := keySet l.queues q { x with packets := x.packets.drop 1 } }
        some ((s.modLea lea (fun _ => l1)).place l1 q p f)

/-- DispatchPass (R318), as many heads as fit. -/
def State.dispatchPass : Nat → Nat → State → State
  | 0, _, s => s
  | n + 1, lea, s => match s.dispatchOne lea with
    | some s1 => State.dispatchPass n lea s1
    | none => s

/-- DISPATCH_PASS (R318): at a tide boundary. -/
def execDispatchPass (lea : Nat) (s : State) : Out1 :=
  .next (
    if s.tideSlot ≠ 0 then s
    else match s.lea lea with
      | some l => State.dispatchPass ((l.queues.map (fun q => q.2.packets.length)).sum) lea s
      | none => s)

/-! ## Retirement (R320, R357) -/

/-- Whether an item of outstanding work comes from a slot of a gang, and not from another thread that is now there. -/
def State.ofGang (s : State) (g : Gang) (o : Out) : Bool :=
  let x := s.slot o.core o.slot
  o.lea == g.lea && g.members.any (fun m => m.core == o.core && m.slot == o.slot) &&
    !(x.run != .absent && x.tid == o.tid && x.gang != some g.gid)

/-- Whether everything that a gang's threads issued has completed (R221, R357). -/
def State.gangDone (s : State) (g : Gang) : Bool :=
  g.members.all (fun m => m.gone) && g.rounds.isEmpty && s.outs.all (fun o => !s.ofGang g o) &&
  g.members.all (fun m =>
    let e := (s.core m.core).engine
    !((s.core m.core).lea == some g.lea &&
      (e.active.any (fun a => a.owner == m.slot) || e.shadow.any (fun h => h.owner == m.slot && h.armed.isSome))))

/-- Whether a wait is for a token to read Retired (R353, R354). -/
def Wait.onToken : Wait → Bool
  | .token _ _ _ => true
  | .pred => true
  | _ => false

/-- The threads of a core whose tokens have come to read Retired go on (R353, R354). -/
def State.retestTokens (s : State) (core : Nat) : State :=
  (List.range 16).foldl (fun s k => if (s.slot core k).wait.onToken then s.retest core k else s) s

/-- The threads of a lea whose tokens have come to read Retired go on (R353, R354). -/
def State.retestLea (s : State) (lea : Nat) : State :=
  match s.lea lea with
  | some l => l.cores.foldl State.retestTokens s
  | none => s

/-- A router tree entry of a lea on a core freed: the live one, or the saved one (R350, R380). -/
def Core.dropTree (c : Core) (lea t : Nat) : Core :=
  if c.lea = some lea then { c with trees := c.trees.set t none } else c.modPoolSave lea (fun p => { p with trees := p.trees.set t none })

/-- Whether a message is a gang's own (R347, R350). -/
def Msg.ofGang (m : Msg) (gid : Nat) : Bool :=
  match m with
  | .barIn g _ _ => g == gid
  | .barOut g _ _ => g == gid
  | .gredIn g _ _ => g == gid
  | .gredUp g _ _ => g == gid
  | .gredDown g _ _ => g == gid
  | _ => false

/-- TASK_RETIRE (R226, R320, R357): the retirement is seen on every die, so it comes 12 slots, a crossing, after the gang's work was
seen complete (log 75). -/
def execTaskRetire (lea gid : Nat) (s : State) : Out1 :=
  .next (match s.gang lea gid with
    | none => s
    | some g =>
      if !s.gangDone g then s
      else if g.ended.isNone then s.modGang lea gid (fun g => { g with ended := some s.now })
      else if g.ended.any (fun t => decide (s.now < t + 12)) then s
      else
        let own := packetOwn g.packet
        let s1 := { s with
          gangs := s.gangs.filter (fun x => !(x.lea == lea && x.gid == gid))
          mail := s.mail.filter (fun m => !(m.lea == lea && m.msg.ofGang gid)) }
        let s2 := match g.tree with
          | some t => g.cores.foldl (fun (s : State) c => s.modCore c (fun x => x.dropTree lea t)) s1
          | none => s1
        let s3 := s2.modLea lea (fun l =>
          { l with
            tokens := if own = 0 then l.tokens else keySet l.tokens (own % 4096) (own / 4096, .retired)
            queues := keySet l.queues g.queue { l.queue g.queue with retired := (l.queue g.queue).retired + 1 } })
        s3.retestLea lea)

/-! ## The watchdog (R328) -/

/-- Whether a slot's thread is parked on a page fault: of its fetch, its port transfer or its COLLD (R200, R278, R328, R437). -/
def State.pageParked (s : State) (core slot : Nat) : Bool :=
  match (s.slot core slot).wait with
  | .fetch f => f.isSome
  | .port => (s.core core).bay.port.any (fun j => j.parked.any Option.isSome)
  | .colld => (s.core core).dorent.copy.any (fun y => y.parked.any Option.isSome)
  | _ => false

/-- Whether a slot's thread is parked on a page fault, of an access among others (R328, R405). -/
def State.onPage (s : State) (core slot : Nat) : Bool :=
  s.pageParked core slot || s.outs.any (fun o => o.tid == (s.slot core slot).tid && o.parts.any (fun p => match p.stage with
    | .pageFault _ => true
    | _ => false))

/-- The gang of a slot's thread marked as excluded, if the thread is parked on a page fault (R328). -/
def State.excludePage (s : State) (core slot : Nat) : State := if s.onPage core slot then s.excludeOn core slot else s

/-- The gangs that have a member on one of some cores, marked as excluded from this tide's watchdog count (R328). -/
def State.excludeCores (s : State) (p : Nat → Bool) : State :=
  { s with gangs := s.gangs.map (fun g => if g.members.any (fun m => p m.core) then { g with excluded := true } else g) }

/-- Excluded(G) (R328): what the tide's flag has not already said; a wait for a service slot is noted while it lasts. -/
def State.excludedNow (s : State) (g : Gang) : Bool :=
  g.members.any (fun m =>
      (match s.islands[islandOf m.core]? with
        | some i => i.cause != .free
        | none => false)
      || (s.core m.core).handover.isSome
      || (s.memberHere g m && s.onPage m.core m.slot))
    || (match s.lea g.lea with
        | some l => l.isPaused
        | none => false)
    || !g.members.any (fun m => s.memberHere g m && decide ((s.slot m.core m.slot).since + 4096 ≤ s.now))

/-- Whether a wait of a gang's thread has ended since the last count (R328). -/
def State.gangWoken (s : State) (g : Gang) : Bool := g.members.any (fun m => s.memberHere g m && (s.slot m.core m.slot).woken)

/-- The waits of a gang's threads that ended have been counted (R328). -/
def State.clearWoken (s : State) (g : Gang) : State :=
  g.members.foldl (fun s m => s.modSlot m.core m.slot (fun x => { x with woken := false })) s

/-- WATCHDOG_TIDE (R328): at a tide boundary, once for the tide that ended. -/
def execWatchdogTide (lea gid : Nat) (s : State) : Out1 :=
  .next (match s.gang lea gid with
    | none => s
    | some g =>
      if s.tideSlot ≠ 0 ∨ s.tide ≤ g.watched then s
      else
        let worked := g.worked || s.gangWoken g
        let counts := !worked && !(g.excluded || s.excludedNow g)
        let idle := if worked then 0 else if counts then g.idle + 1 else g.idle
        let limit := match s.lea lea with
          | some l => l.wdlim
          | none => 0
        (s.clearWoken g).modGang lea gid (fun g =>
          { g with idle := idle, expired := counts && limit != 0 && idle == limit, worked := false, excluded := false,
                   watched := s.tide }))

/-- WATCHDOG_EXPIRE (R328): at the boundary at which the count comes to its limit, the notice goes through the Headland place of the
gang's first core. -/
def execWatchdogExpire (lea gid : Nat) (s : State) : Out1 :=
  .next (match s.gang lea gid, s.lea lea with
    | some g, some l =>
      if !g.expired ∨ s.tideSlot ≠ 0 then s
      else
        let c := l.cores.getD g.first 0
        let slot := match g.member 0 with
          | some m => m.slot
          | none => 0
        (s.headRecord c (some lea) slot .gang 2 0 0x54 0 (BitVec.ofNat 64 gid) (BitVec.ofNat 64 l.wdlim)).modGang lea gid
          (fun g => { g with idle := 0, expired := false })
    | _, _ => s)

end Sys2Proof.Machine
end

