-- ==== Sys2Proof/Machine/System.lean ====
section
/-! DEFINITION. Control registers (R41-R44, R225, R227, R408) and the system instructions (R31, R405-R420). -/

namespace Sys2Proof.Machine

/-! ## Control registers (R41) -/

/-- What a level may do with a control register (R41). -/
inductive CrUse where
  | unassigned | hidden | readOnly | readWrite
  deriving DecidableEq, Repr

/-- Access to a control register: none of the indices below 0x070 is assigned but those that R41 lists. -/
def crUse (priv : Bool) (i : Nat) : CrUse :=
  let supRw : CrUse := if priv then .readWrite else .readOnly
  let sup : CrUse := if priv then .readWrite else .hidden
  if 0x100 ≤ i then .unassigned
  else if 0x070 ≤ i then .readOnly
  else if i = 0 ∨ i = 5 ∨ i = 6 then .readWrite
  else if i ≤ 4 ∨ (0x051 ≤ i ∧ i ≤ 0x053) then supRw
  else if (0x010 ≤ i ∧ i ≤ 0x027) ∨ i = 0x031 ∨ i = 0x045 ∨ i = 0x050 ∨ i = 0x060 then sup
  else if i = 0x030 ∨ (0x040 ≤ i ∧ i ≤ 0x044) then .readOnly
  else .unassigned

/-- Whether a core is present: neither disabled nor fenced, on a die that works; an absent core stands in the list of disabled ones
(R372, R427; log 9). That a die leaves the count as its reset begins, in the phase Isolate, is the model's choice: R425 says only that
CAPUNITS is restored as it rejoins (log 71). -/
def State.coreThere (s : State) (c : Nat) : Bool :=
  !s.head.disabledCores.contains c && !s.head.fenced.contains c && s.dieUp (dieOf c)

/-- The present cores of the module. -/
def State.coresPresent (s : State) : Nat := ((List.range 2048).filter s.coreThere).length

/-- The groups that have a core left (R427). -/
def State.groupsPresent (s : State) : Nat :=
  ((List.range 512).filter (fun g => (List.range 4).any (fun c => s.coreThere (4 * g + c)))).length

/-- The pseudo-channels present: of the 128 on each die that works, those that are not disabled (R3, R427). -/
def State.channelsPresent (s : State) : Nat :=
  ((List.range 8).filter s.dieUp).length * 128 - (s.head.disabledChannels.filter (fun p => s.dieUp p.1)).length

/-- The exchange-rate capability of a lea: the guaranteed opportunities of a pair in an exchange period, and the logarithm of XP
(R41, R324, R393). -/
def Lea.exchangeCap (l : Lea) : Nat := l.perPair % 2 ^ 16 + Nat.log2 l.xp * 2 ^ 16

/-- A capability register (R41): the generation of the host link is that of PCIe 7.0. -/
def State.capability (s : State) (i : Nat) : Word :=
  match i with
  | 0x070 => 1
  | 0x071 => BitVec.ofNat 64 (s.coresPresent + s.groupsPresent * 2 ^ 16 + s.channelsPresent * 2 ^ 32)
  | 0x072 => match s.myLea with
    | some l => BitVec.ofNat 64 l.exchangeCap
    | none => 0
  | 0x073 => BitVec.ofNat 64 ((16 - s.head.disabledPorts.length) + 7 * 2 ^ 8)
  | 0x074 => match s.myLea with
    | some l => BitVec.ofNat 64 l.bulk
    | none => 0
  | _ => 0

/-- The value of a control register for the acting thread (R41-R44, R373, R383). ROT reads as what was written last, also before the
turn 0 from which that is in force, which is the model's choice (log 95). -/
def State.crValue (s : State) (i : Nat) : Word :=
  let d := s.desc
  if 0x070 ≤ i then s.capability i
  else if 0x010 ≤ i ∧ i ≤ 0x027 then segField (d.seg ((i - 0x010) / 3)) (BitVec.ofNat 2 ((i - 0x010) % 3))
  else match i with
    | 0x000 => d.stat
    | 0x001 => d.fmtd
    | 0x002 => d.scla
    | 0x003 => d.sclb
    | 0x004 => s.me.tdp
    | 0x005 => d.wp
    | 0x006 => d.vp
    | 0x030 => s.guestTime s.me.lea
    | 0x031 => match s.myLea with
      | some l => l.gtoff
      | none => 0
    | 0x040 => s.me.gangReg
    | 0x041 => if s.priv then s.me.coreReg else s.me.coreReg &&& 0x00000000FFFFFFFF#64
    | 0x042 => s.me.slotReg
    | 0x043 => match s.myLea with
      | some l => BitVec.ofNat 64 l.leab
      | none => 0
    | 0x044 => BitVec.ofNat 64 s.leal
    | 0x045 => match s.myLea with
      | some l => keyGet 0 l.s1root (dieOf s.cur.1)
      | none => 0
    | 0x050 => s.myCore.classEntry 0
    | 0x051 => d.tcause
    | 0x052 => d.tpc
    | 0x053 => d.tval
    | _ => s.myCore.rotNext.getD s.myCore.rot

/-- The rest of an access to a control register that the pool's lea holds: TRAPV and ROT (R343, R378; log 27). -/
def State.withCr (s : State) (i : Nat) (f : State → State) : State := if i = 0x050 ∨ i = 0x060 then s.withPool f else f s

/-- The bits of CRD (R407). -/
def crdBits (i : BitVec 12) (d : BitVec 5) : Word := ((i ++ 0#8 ++ d ++ 103#7) : BitVec 32).setWidth 64

/-- The bits of CWR (R407). -/
def cwrBits (i : BitVec 12) (a : BitVec 5) : Word := ((i ++ 1#3 ++ a ++ 103#12) : BitVec 32).setWidth 64

/-- Whether an FDIV, FSQRT, vector instruction or MDRAIN of the thread is outstanding (R136, R152, R193, R408). -/
def State.flagsOwed (s : State) : Bool :=
  s.myOuts.any (fun o => match o.work with
    | .compute _ fl _ => fl.isSome
    | .vector _ _ _ _ => true
    | .bay => (s.core o.core).bay.queue.any (fun e => e.outId == o.id && (match e.op with
      | .mdrain _ _ _ _ _ _ => true
      | _ => false))
    | _ => false)

/-- CRD of a register (R408). -/
def State.readCr (s : State) (i : BitVec 12) (d : Nat) (bits : Word) : State :=
  s.withOperands [] [s.wAddr d] (fun s => s.withCr i.toNat (fun s =>
    match crUse s.priv i.toNat with
    | .unassigned => s.raise 4 0x01 bits
    | .hidden => s.raise 4 0x04 bits
    | _ => s.setW 4 d false (s.crValue i.toNat)))

/-- CRD (R408). -/
def execCrd (i : BitVec 12) (d : BitVec 5) (s : State) : Out1 := .next (s.readCr i d.toNat (crdBits i d))

/-- CRD of STAT (R408): it waits for the flags that are owed. -/
def execCrdStat (d : BitVec 5) (s : State) : Out1 :=
  .next (s.withOperands [] [s.wAddr d.toNat] (fun s => if s.flagsOwed then s.forfeit else s.setW 4 d.toNat false s.desc.stat))

/-- CRD of TIME (R225): after every earlier acquire of the thread. -/
def execCrdTime (d : BitVec 5) (s : State) : Out1 :=
  .next (s.withOperands [] [s.wAddr d.toNat] (fun s =>
    if s.myOuts.any (fun o => match o.work with
        | .access x => x.acq && !x.allDone
        | _ => false)
    then s.forfeit else s.setW 4 d.toNat false (s.crValue 0x030)))

/-- A segment register with one field written (R36, R37). -/
def segWith (g : Seg) (f : Nat) (v : Word) : Seg :=
  match f with
  | 0 => { g with base := v.setWidth 48 }
  | 1 => { g with limit := v.setWidth 49 }
  | _ => { g with attr := attrForced (v.setWidth 16) }

/-- A segment register of the acting thread written, and the instruction issued (R21, R408, R418): sg0 under the window
check, sg7 as code only. -/
def State.writeSeg (s : State) (k : Nat) (g : Seg) (v : Word) : State :=
  let d := { s.desc with segs := s.desc.segs.set k g }
  match if k = 0 then d.windowFail else none with
  | some w => s.raise 4 0x23 w
  | none => if k = 7 ∧ g.space ≠ 7 then s.raise 4 0x06 v else (s.modDesc (fun _ => d)).issue 4

/-- A control register written, where its level may write it (R41, R408). -/
def State.writeCr (s : State) (i : Nat) (v : Word) : State :=
  if 0x010 ≤ i ∧ i ≤ 0x027 then
    let k := (i - 0x010) / 3
    s.writeSeg k (segWith (s.seg k) ((i - 0x010) % 3) v) v
  else
    let s1 := match i with
      | 0x001 => s.modDesc (fun d => { d with fmtd := v })
      | 0x002 => s.modDesc (fun d => { d with scla := v })
      | 0x003 => s.modDesc (fun d => { d with sclb := v })
      | 0x045 => s.modLea (s.me.lea.getD 0) (fun l => { l with s1root := keySet l.s1root (dieOf s.cur.1) (v &&& 0x0000FFFFFFFF0000#64) })
      | 0x050 => s.modMyCore (fun c => c.setClass 0 v)
      | 0x051 => s.modDesc (fun d => { d with tcause := v })
      | 0x052 => s.modDesc (fun d => { d with tpc := v })
      | 0x053 => s.modDesc (fun d => { d with tval := v })
      | _ => s
    s1.issue 4

/-- The rest of a CWR of a register after its access check (R41, R408): a write that the level may not make is ignored. -/
def State.crWrite (s : State) (i : BitVec 12) (a : BitVec 5) (f : State → Word → State) : State :=
  s.withOperands [s.wAddr a.toNat] [] (fun s => s.withCr i.toNat (fun s => s.needClean 4 0x13 a.toNat (fun s =>
    match crUse s.priv i.toNat with
    | .unassigned => s.raise 4 0x01 (cwrBits i a)
    | .hidden => s.raise 4 0x04 (cwrBits i a)
    | .readOnly => s.issue 4
    | .readWrite => f s (s.w a.toNat).val)))

/-- CWR (R408). -/
def execCwr (i : BitVec 12) (a : BitVec 5) (s : State) : Out1 := .next (s.crWrite i a (fun s v => s.writeCr i.toNat v))

/-- CWR of STAT (R32, R408): it waits for the flags that are owed; PRIV is unchanged. -/
def execCwrStat (a : BitVec 5) (s : State) : Out1 :=
  .next (s.withOperands [s.wAddr a.toNat] [] (fun s =>
    if s.flagsOwed then s.forfeit
    else s.needClean 4 0x13 a.toNat (fun s =>
      (s.modDesc (fun d => { d with stat := statWritten d.stat (s.w a.toNat).val })).issue 4)))

/-- CWR of WP (R20, R21). -/
def execCwrWp (a : BitVec 5) (s : State) : Out1 :=
  .next (s.crWrite 0x005 a (fun s v =>
    let w := v &&& ~~~7#64
    if windowOk (s.seg 0) w.toNat 256 then (s.modDesc (fun d => { d with wp := w })).issue 4 else s.raise 4 0x23 w))

/-- CWR of VP (R20, R21). -/
def execCwrVp (a : BitVec 5) (s : State) : Out1 :=
  .next (s.crWrite 0x006 a (fun s v =>
    let w := v &&& ~~~255#64
    if windowOk (s.seg 0) w.toNat 4224 then (s.modDesc (fun d => { d with vp := w })).issue 4 else s.raise 4 0x23 w))

/-- CWR of GTOFF (R227): it takes effect at the next tide boundary. -/
def execCwrGtoff (a : BitVec 5) (s : State) : Out1 :=
  .next (s.crWrite 0x031 a (fun s v => (s.modLea (s.me.lea.getD 0) (fun l => { l with gtoffNext := some (v, s.now) })).issue 4))

/-- GTOFF_APPLY (R227): at the first tide boundary after the write. -/
def execGtoffApply (lea : Nat) (s : State) : Out1 :=
  .next (if s.tideSlot ≠ 0 then s
    else s.modLea lea (fun l => match l.gtoffNext with
      | some (v, t) => if t < s.now then { l with gtoff := v, gtoffNext := none } else l
      | none => l))

/-! ## The rotation (R17, R419) -/

/-- Entry i of a rotation (R17). -/
def rotEntry (r : Word) (i : Nat) : Nat := fieldAt r (4 * i) 4

/-- Whether a value is a permutation of the sixteen slots (R17). -/
def rotOk (r : Word) : Bool := (List.range 16).all (fun k => (List.range 16).any (fun i => rotEntry r i == k))

/-- CWR of ROT (R17): it takes effect at the next turn 0. -/
def execCwrRot (a : BitVec 5) (s : State) : Out1 :=
  .next (s.crWrite 0x060 a (fun s v =>
    if rotOk v then (s.modMyCore (fun c => { c with rotNext := some v })).issue 4 else s.raise 4 0x51 v))

/-- Whether a written rotation may take effect: not from t0 of a handover until its pool phase ends (R378). -/
def Core.mayRotate (c : Core) : Bool := match c.handover with
  | some h => h.rot.isNone || c.lea == some h.into
  | none => true

/-- A new rotation in force from a turn 0 that is still to come in its cycle, and the threads that waited for it (R17, R419). -/
def Core.applyRot (c : Core) (cycle : Nat) : Core :=
  match if c.mayRotate then c.rotNext else none with
  | some v =>
    if cycle % 16 = 0 ∧ c.turned ≤ cycle then
      { c with
        rot := v
        rotNext := none
        slots := c.slots.map (fun x => if x.hold = .rot then x.release else x) }
    else c
  | none => c

/-- ROT_APPLY (R17). -/
def execRotApply (core : Nat) (s : State) : Out1 := .next (s.modCore core (fun c => c.applyRot (s.cycle core)))

/-- The rest of a privileged instruction at supervisor level; at user level it traps before anything else (R48). -/
def State.sup (s : State) (bits : Word) (f : State → State) : State := if s.priv then f s else s.raise 4 0x04 bits

/-- ROTSET (R419). -/
def execRotset (a : BitVec 5) (s : State) : Out1 :=
  .next (s.sup (rrBits 0x1B 0 0 6 0 a 0) (fun s => s.withOperands [s.wAddr a.toNat] [] (fun s => s.withPool (fun s =>
    s.needClean 4 0x13 a.toNat (fun s =>
      let v := (s.w a.toNat).val
      if rotOk v then ((s.modMyCore (fun c => { c with rotNext := some v })).issue 4).modMe (fun x => x.holdFor .rot)
      else s.raise 4 0x51 v)))))

/-! ## Traps on purpose (R409-R411) -/

/-- TRAP (R409). -/
def execTrap (c : BitVec 10) (s : State) : Out1 := .next (s.raise 4 0x08 (c.setWidth 64))

/-- A slot's thread halted for debug (R396, R397). -/
def Slot.debugStop (x : Slot) : Slot :=
  if x.debugHalt.isSome ∨ x.run = .absent then x else { x with debugHalt := some x.run, run := .halted }

/-- BRK (R397, R409): with break capture in force for the lea, the thread halts for debug with no record. -/
def execBrk (c : BitVec 10) (s : State) : Out1 :=
  .next (
    if s.dbg.brkcap && s.dbg.lea.isSome && s.dbg.lea == s.me.lea then
      { s.modMe Slot.debugStop with
        dbg := { s.dbg with log := s.dbg.log ++ [(0x09, 16 * s.cur.1 + s.cur.2, s.pc.toNat, c.toNat)] } }
    else s.raise 4 0x09 (c.setWidth 64))

/-- HALT (R410): it waits as EXIT does. -/
def execHalt (s : State) : Out1 := .next (if s.quiet s.me.tid then s.raise 4 0x0A 0 else s.forfeit)

/-- WFM (R411): parks until guest time reaches the deadline. In slot 15 it traps before its source is looked at, as R333 has it for the
instructions that it names, which is the model's choice (R438; log 109). -/
def execWfm (a : BitVec 5) (s : State) : Out1 :=
  .next (s.no15 (rrBits 0x1A 0 0 3 0 a 0) (fun s => s.withOperands [s.wAddr a.toNat] [] (fun s =>
    s.needClean 4 0x13 a.toNat (fun s =>
      let v := (s.w a.toNat).val
      if v.toNat ≤ (s.guestTime s.me.lea).toNat then s.issue 4 else (s.issue 4).park (.time v.toNat)))))

/-- WFM_EXPIRE (R411). -/
def execWfmExpire (core slot : Nat) (s : State) : Out1 :=
  .next (
    let x := s.slot core slot
    match x.wait with
    | .time due =>
      if x.waiting ∧ due ≤ (s.guestTime x.lea).toNat then s.modSlot core slot Slot.wake else s
    | _ => s)

/-! ## Restart and reissue (R405, R412, R413) -/

/-- Whether a slot holds a record that waits for an earlier one: that in its place, or one that has not yet entered it (R339,
R420). -/
def Slot.recordWaits (x : Slot) (full : Bool) : Bool :=
  match x.record with
  | [] => false
  | _ :: t => full || !t.isEmpty

/-- ERET (R412). -/
def execEret (b a : BitVec 5) (s : State) : Out1 :=
  .next (s.sup (rrBits 0x1B 0 0 0 b a 0) (fun s => s.withOperands [s.wAddr a.toNat, s.wAddr b.toNat] [] (fun s =>
    if !s.accessesDone false then s.forfeit
    else s.needCleans 4 0x13 [a.toNat, b.toNat] (fun s =>
      let v := (s.w a.toNat).val
      let k := fieldAt v 0 4
      let x := s.slot s.cur.1 k
      let pc := if v.getLsbD 9 then (s.w b.toNat).val else x.desc.tpc
      if (v &&& ~~~0x30F#64) != 0 || k == 15 then s.raise 4 0x06 v
      else if x.run ≠ .halted ∨ x.lea ≠ s.me.lea ∨ x.debugHalt.isSome
          ∨ x.wait = .exit ∨ x.recordWaits (s.myCore.trapFile.any (fun r => r.place == k)) then s.raise 4 0x50 v
      else if v.getLsbD 9 && pc.getLsbD 0 then s.raise 4 0x05 pc
      else (s.issue 4).modSlot s.cur.1 k (fun x => x.restart pc (v.getLsbD 8))))))

/-- An event held by a translation fault goes back to the port (R413). -/
def Part.reissue (p : Part) : Part := match p.stage with
  | .fault _ => { p with stage := .queued }
  | _ => p

/-- An event held by a page fault on a frame goes back to the port (R405). -/
def Part.woken (frame : Nat) (p : Part) : Part := match p.stage with
  | .pageFault f => if f = frame then { p with stage := .queued } else p
  | _ => p

/-- A parked port transfer goes on; its thread wakes as it proceeds (R200, R405, R413). -/
def State.wakePort (s : State) (core : Nat) : State :=
  s.modBay core (fun b => { b with port := b.port.map (fun j => { j with parked := none }) })

/-- A slot's fetch that was held goes on. -/
def Slot.wakeFetch (w : Wait) (x : Slot) : Slot := if x.wait = w then x.wake else x

/-- COLLD's copy, held by a page fault on a frame or by a translation fault, goes on: a thread's, or any (R278, R405, R413). -/
def State.wakeCopy (s : State) (core : Nat) (tid : Option Nat) (held : Option Nat) : State :=
  s.modCore core (fun c => { c with dorent := { c.dorent with copy := c.dorent.copy.map (fun y =>
    if y.parked = some held ∧ (tid = none ∨ tid = some y.tid) then { y with parked := none } else y) } })

/-- RESUME (R413): a unit held after a Park record is translated afresh. -/
def execResume (a : BitVec 5) (s : State) : Out1 :=
  .next (s.sup (rrBits 0x1B 0 0 1 0 a 0) (fun s => s.withOperands [s.wAddr a.toNat] [] (fun s =>
    s.needClean 4 0x13 a.toNat (fun s =>
      let v := (s.w a.toNat).val
      let unit := fieldAt v 4 3
      let k := fieldAt v 0 4
      let c := s.cur.1
      if (v &&& ~~~0x7F#64) != 0 || decide (4 ≤ unit) || (unit != 0 && k != 0) then s.raise 4 0x06 v
      else
        let s1 : State := match unit with
          | 0 =>
            let x : Slot := s.slot c k
            if x.run = .absent ∨ x.lea ≠ s.me.lea then s
            else
              let ids := (s.outs.filter (fun (o : Out) => o.tid == x.tid && o.held)).map (fun (o : Out) => o.id)
              let s1 : State := { s with outs := s.outs.map (fun o => if o.tid = x.tid then o.mapParts Part.reissue else o) }
              ((ids.foldl State.wakeHeld s1).modSlot c k (Slot.wakeFetch (.fetch none))).wakeCopy c (some x.tid) none
          | 1 => if s.myCore.lea = s.me.lea then s.modEngine c (fun e => { e with active := e.active.map (fun a =>
              if a.parked = some none then { a with parked := none } else a) }) else s
          | 2 => if s.myCore.lea = s.me.lea ∧ s.myCore.bay.port.any (fun j => j.parked == some none) then s.wakePort c else s
          | _ => if s.myCore.lea = s.me.lea then s.modCore c (fun x => { x with dorent := { x.dorent with
              park := if x.dorent.park = some none then none else x.dorent.park } }) else s
        s1.issue 4))))

/-- Whether an item waits on a frame. -/
def Out.onFrame (frame : Nat) (o : Out) : Bool := o.parts.any (fun p => p.stage == .pageFault frame)

/-- What a core's units and fetches do when a frame of a lea is resident (R405). -/
def State.wakeCore (s : State) (lea frame core : Nat) : State :=
  let c := s.core core
  let s0 := (List.range 15).foldl (fun s k => s.excludePage core k) s
  let s1 := s0.modCore core (fun c => { c with slots := c.slots.map (fun x =>
    if x.lea = some lea then x.wakeFetch (.fetch (some frame)) else x) })
  let s2 := if c.lea = some lea ∧ c.bay.port.any (fun j => j.parked == some (some frame)) then s1.wakePort core else s1
  let s3 := if c.lea = some lea then s2.wakeCopy core none (some frame) else s2
  if c.lea = some lea ∧ c.dorent.park = some (some frame) then
    s3.modCore core (fun x => { x with dorent := { x.dorent with park := none } }) else s3

/-- PAGE_FAULT_WAKE (R405): the host has marked the frame resident, and what waits for it is translated afresh. -/
def execPageFaultWake (lea frame : Nat) (s : State) : Out1 :=
  .next (
    if !s.resident lea frame then s
    else
      let hit := s.outs.filter (fun o => o.lea == lea && o.onFrame frame && !s.isLate o)
      let s1 := { s with outs := s.outs.map (fun o => if o.lea = lea ∧ !s.isLate o then o.mapParts (Part.woken frame) else o) }
      let s2 := hit.foldl (fun s o => (s.wakeHeld o.id).excludeOn o.core o.slot) s1
      match s.lea lea with
      | some l => l.cores.foldl (fun s c => s.wakeCore lea frame c) s2
      | none => s2)

/-! ## Switching, pre-emption, context loads (R31, R414-R416) -/

/-- Whether nothing of an item keeps its thread in its slot: it is held at the port, or waits behind an access that is; a
command without a result is not waited for (R31, R212, R222). -/
def State.mayLeave (s : State) (o : Out) : Bool :=
  match o.work with
  | .bank c => o.dst.isEmpty || c.parts.any (fun p => p.stage.held)
  | .bay => false
  | .access x => !x.allDone && (List.range x.parts.length).all (fun i => match x.parts[i]? with
      | some p => p.stage == .performed || p.stage.held || (p.stage == .queued && !s.mayGo o x i p)
      | none => true) &&
      s.outs.any (fun e => e.tid == o.tid && e.held)
  | .port => (s.core o.core).bay.port.any (fun j => j.outId == o.id && j.parked.isSome)
  | _ => false

/-- Whether a thread may leave its slot (R31, R335). -/
def State.leaveReady (s : State) (x : Slot) : Bool :=
  (s.outs.filter (fun o => o.tid == x.tid)).all s.mayLeave &&
    (match x.hold with
      | .none => true
      | .turn0 _ => true
      | .owed _ => true
      | .switching _ => true
      | _ => false)

/-- Whether a descriptor lies in the shared pool (R29). -/
def inPool (tdp : Nat) : Bool := decide (0x80000 ≤ tdp)

/-- The rest of a switch between descriptors, one of which may lie in the shared pool: only while the thread's lea holds it
(R375, R381). -/
def State.withDescs (s : State) (old new : Nat) (f : State → State) : State := if inPool old || inPool new then s.withPool f else f s

/-- CWR of TDP (R29, R31): the incoming descriptor's window is checked before anything changes. -/
def execCwrTdp (a : BitVec 5) (s : State) : Out1 :=
  .next (s.crWrite 0x004 a (fun s v =>
    match tdpFail s.cur.2 v.toNat with
    | some c => s.raise 4 c v
    | none => s.withDescs s.me.tdp.toNat v.toNat (fun s =>
      let d := descOf (s.descWord s.cur.1 v.toNat)
      match if v = s.me.tdp ∨ (s.descPoison s.cur.1 v.toNat).isSome then none else d.windowFail with
      | some w => s.raise 4 0x23 w
      | none => (s.issue 4).modMe (fun x => x.holdFor (.switching v.toNat)))))

/-- THREAD_SWITCH (R31): the outgoing descriptor is written back, and the incoming one loaded. -/
def execThreadSwitch (core slot : Nat) (s : State) : Out1 :=
  .next (
    let x := s.slot core slot
    match x.hold with
    | .switching tdp =>
      if !s.leaveReady x || x.claimed.isSome || x.stopped.isSome
          || ((inPool x.tdp.toNat || inPool tdp) && (s.core core).lea != x.lea) then s
      else ((s.takeOwed core slot).writeBack core slot).loadFrom core slot (x.lea.getD 0) tdp
    | _ => s)

/-- The handle of a context-area entry (R415). -/
def ctxHandle (gen idx : Nat) : Word := BitVec.ofNat 64 (gen % 16 * 2 ^ 12 + idx)

/-- The lowest entry of a lea's context area on a core that is empty and not claimed (R414, R415; log 28). -/
def Core.freeCtx (c : Core) (lea : Nat) : Option Nat :=
  (List.range 2048).find? (fun i =>
    !c.ctx.any (fun e => e.1 == (lea, i)) &&
      !c.slots.any (fun x => x.lea == some lea && x.claimed.any (fun q => q.2.2 == some i)))

/-- PREEMPT (R414): the checks, the claim, and the wait for the target to leave. -/
def State.preempt (s : State) (bits : Word) (a d : Nat) : State :=
  s.sup bits (fun s => s.withOperands [s.wAddr a] [s.wAddr d] (fun s => s.needClean 4 0x13 a (fun s =>
    let v := (s.w a).val
    let k := fieldAt v 0 4
    let drop := v.getLsbD 8
    let x := s.slot s.cur.1 k
    if (v &&& ~~~0x10F#64) != 0 then s.raise 4 0x06 v
    else if k = 15 ∨ k = s.cur.2 ∨ x.run = .absent ∨ x.lea ≠ s.me.lea ∨ x.claimed.isSome ∨ x.loading.isSome then s.raise 4 0x50 v
    else
      let claim (i : Option Nat) : State :=
        ((s.issue 4).modSlot s.cur.1 k (fun x => { x with claimed := some (s.cur.2, s.wAddr d, i) })).modMe (fun x =>
          x.holdFor (.preempting k))
      if drop then claim none
      else
        match s.myCore.freeCtx (s.me.lea.getD 0) with
        | none => s.raise 4 0x52 0
        | some i => claim (some i))))

/-- PREEMPT (R414). -/
def execPreempt (a d : BitVec 5) (s : State) : Out1 := .next (s.preempt (rrBits 0x1B 0 0 2 0 a d) a.toNat d.toNat)

/-- PREEMPT with DROP set in W(a): the same word (R414). -/
def execPreemptDrop (a d : BitVec 5) (s : State) : Out1 := .next (s.preempt (rrBits 0x1B 0 0 2 0 a d) a.toNat d.toNat)

/-- The context-area entry of a slot's thread (R415). -/
def Slot.entry (x : Slot) (k : Nat) : CtxEntry :=
  { slot := k, gang := x.gang, gangReg := x.gangReg, coreReg := x.coreReg, slotReg := x.slotReg, desc := x.desc, tdp := x.tdp,
    kept := x.kept }

/-- A pre-empted thread out of its slot: its descriptor written, its entry filled or the thread removed, and the issuer
given its result (R414, R420). -/
def State.preemptDone (s : State) (core k issuer dst : Nat) (idx : Option Nat) : State :=
  let s1 := (s.excludePage core k).takeOwed core k
  let x := s1.slot core k
  let lea := x.lea.getD 0
  let (s2, res) : State × Word := match idx with
    | some i =>
      ((s1.writeBack core k).modCore core (fun c => { c with ctx := c.ctx ++ [((lea, i), x.entry k)] }),
        ctxHandle (((s1.core core).ctxGen.find? (fun e => e.1 == (lea, i))).elim 0 (fun e => e.2)) i)
    | none =>
      let y := s1.writeBack core k
      ((((y.modCore core (fun c => { c with waits := keyDel c.waits x.tdp.toNat })).dropHeld core x.tid true).leaveGang x.lea x.gang
        core k), 0)
  let s3 := s2.modSlot core k Slot.emptied
  (s3.fillFixed dst res false).modSlot core issuer (fun y => if y.hold = .preempting k then y.release else y)

/-- PREEMPT_SAVE_DONE (R31, R414): once the target issues nothing more and has nothing outstanding but parks. -/
def execPreemptSaveDone (core slot : Nat) (s : State) : Out1 :=
  .next (
    let x := s.slot core slot
    match x.claimed with
    | some (issuer, dst, idx) =>
      if x.stopped.isNone || !s.leaveReady x || (match x.hold with
          | .switching _ => true
          | _ => false) || (s.core core).handover.isSome then s
      else (s.preemptDone core slot issuer dst idx).modSlot core slot (fun x => { x with stopped := none })
    | none => s)

/-- CTXLD (R375, R381, R416): the checks, and the load it begins. In a handover the thread parks before the check of the slot where that
has not been restored, and before its descriptor is read where that lies in the shared pool (log 89). -/
def State.ctxLoad (s : State) (bits : Word) (b a : Nat) : State :=
  s.sup bits (fun s => s.withOperands [s.wAddr a, s.wAddr b] [] (fun s => s.needCleans 4 0x13 [a, b] (fun s =>
    let v := (s.w a).val
    let h := (s.w b).val
    let k := fieldAt v 0 4
    let x := s.slot s.cur.1 k
    let lea := s.me.lea.getD 0
    let closed : Bool := x.run != .absent || x.claimed.isSome || x.loading.isSome
    let away : Bool := s.myCore.sliceOwner k != s.me.lea
    let ready (tdp : Nat) (f : State → State) : State :=
      if away then s.park .pool else if closed then s.raise 4 0x50 v else if inPool tdp then s.withPool f else f s
    let start (s : State) (tdp : Nat) (i : Option Nat) : State :=
      ((s.issue 4).modSlot s.cur.1 k (fun x => { x with loading := some (s.cur.2, tdp, i) })).park .ctxld
    if (v &&& ~~~0x10F#64) != 0 then s.raise 4 0x06 v
    else if v.getLsbD 8 then
      match tdpFail k h.toNat with
      | some c => s.raise 4 c h
      | none =>
        ready h.toNat (fun s =>
          match if (s.descPoison s.cur.1 h.toNat).isSome then none else (descOf (s.descWord s.cur.1 h.toNat)).windowFail with
          | some w => s.raise 4 0x23 w
          | none => start s h.toNat none)
    else
      let i := fieldAt h 0 11
      match s.myCore.ctx.find? (fun e => e.1 == (lea, i)) with
      | none => s.raise 4 0x53 (h &&& 0xFFFF#64)
      | some (_, e) =>
        let gen := (s.myCore.ctxGen.find? (fun e => e.1 == (lea, i))).elim 0 (fun e => e.2)
        if h.getLsbD 11 || fieldAt h 12 4 != gen then s.raise 4 0x53 (h &&& 0xFFFF#64)
        else if e.slot ≠ k then s.raise 4 0x50 v
        else ready e.tdp.toNat (fun s => start s e.tdp.toNat (some i)))))

/-- CTXLD (R416). -/
def execCtxld (b a : BitVec 5) (s : State) : Out1 := .next (s.ctxLoad (rrBits 0x1B 0 0 3 b a 0) b.toNat a.toNat)

/-- CTXLD with SRC set in W(a): the same word (R416). -/
def execCtxldTdp (b a : BitVec 5) (s : State) : Out1 := .next (s.ctxLoad (rrBits 0x1B 0 0 3 b a 0) b.toNat a.toNat)

/-- A context-area entry freed: its generation rises by one (R415). -/
def Core.freeEntryOf (c : Core) (lea i : Nat) : Core :=
  let gen := (c.ctxGen.find? (fun e => e.1 == (lea, i))).elim 0 (fun e => e.2)
  { c with
    ctx := c.ctx.filter (fun e => e.1 != (lea, i))
    ctxGen := ((lea, i), (gen + 1) % 16) :: c.ctxGen.filter (fun e => e.1 != (lea, i)) }

/-- CTXLD_LOAD_DONE (R335, R416): the thread is loaded, with the gang identity of its entry or with none, and tests what it waits for;
the issuer wakes. -/
def execCtxldLoadDone (core slot : Nat) (s : State) : Out1 :=
  .next (
    let x := s.slot core slot
    let c := s.core core
    match x.loading with
    | none => s
    | some (issuer, tdp, src) =>
      if c.handover.any (fun h => !h.restored.contains slot || !h.restored.contains issuer || (inPool tdp && c.lea != some h.into)) then s
      else
        let lea := ((s.slot core issuer).lea).getD 0
        let s0 := s.modSlot core slot (fun x => { x with loading := none })
        let s1 : State := match src with
          | some i =>
            match (s.core core).ctx.find? (fun e => e.1 == (lea, i)) with
            | some (_, e) =>
              ((s0.modCore core (fun c => c.freeEntryOf lea i)).modSlot core slot (fun x =>
                { x with gang := e.gang, gangReg := e.gangReg, coreReg := e.coreReg, slotReg := e.slotReg })).loadThread core slot lea
                tdp e.desc (some e.kept)
            | none => s0
          | none =>
            (s0.modSlot core slot (fun x =>
              { x with gang := none, gangReg := 0, coreReg := coreWord core 0 (s.logicalOf lea core), slotReg := slotWord 0 slot })).loadFrom
              core slot lea tdp
        s1.modSlot core issuer (fun (y : Slot) => if y.wait = .ctxld then y.wake else y))

/-! ## Translations dropped (R417), segments (R418) -/

/-- Whether an entry covers an address of a lea's die space, or any where all are dropped (R417). -/
def Gtb.covers (e : Gtb) (lea die : Nat) (all : Bool) (va : Nat) : Bool :=
  e.lea == lea && e.die == die && (all || e.page == (if e.big then va / 2 ^ 21 else va / 2 ^ 16))

/-- Every core's translations of a lea that cover an address dropped. -/
def State.dropGtb (s : State) (lea die : Nat) (all : Bool) (va : Nat) : State :=
  { s with cores := s.cores.map (fun p => (p.1, { p.2 with gtb := p.2.gtb.filter (fun e => !e.covers lea die all va) })) }

/-- TLBINV (R417). -/
def State.tlbInv (s : State) (bits : Word) (b a : Nat) : State :=
  s.sup bits (fun s => s.withOperands [s.wAddr a, s.wAddr b] [] (fun s =>
    if !s.accessesDone true then s.forfeit
    else s.needCleans 4 0x13 [a, b] (fun s =>
      let v := (s.w b).val
      let va := (s.w a).val.toNat
      let die := fieldAt v 0 3
      if (v &&& ~~~0x107#64) != 0 then s.raise 4 0x06 v
      else (((s.flushLea (s.me.lea.getD 0)).dropGtb (s.me.lea.getD 0) die (v.getLsbD 8) va).issue 4).modMe (fun x => x.holdFor (.tlb die (v.getLsbD 8) va)))))

/-- TLBINV (R417). -/
def execTlbinv (b a : BitVec 5) (s : State) : Out1 := .next (s.tlbInv (rrBits 0x1B 0 0 4 b a 0) b.toNat a.toNat)

/-- TLBINV with ALL set in W(b): the same word (R417). -/
def execTlbinvAll (b a : BitVec 5) (s : State) : Out1 := .next (s.tlbInv (rrBits 0x1B 0 0 4 b a 0) b.toNat a.toNat)

/-- Whether an item of a lea has used a translation that a TLBINV dropped and is not yet performed (R417). -/
def Out.usesDropped (o : Out) (lea die : Nat) (all : Bool) (va : Nat) : Bool :=
  o.lea == lea && o.paged && o.die == die &&
    o.parts.any (fun p => p.pa.isSome && p.stage != .performed && (all || p.addr / 2 ^ 21 == va / 2 ^ 21))

/-- TLBINV_COMPLETE (R417): once every access, and every fill of an instruction cache, that used a dropped translation is performed. -/
def execTlbinvComplete (core slot : Nat) (s : State) : Out1 :=
  .next (
    let x := s.slot core slot
    match x.hold with
    | .tlb die all va =>
      if s.outs.any (fun o => o.usesDropped (x.lea.getD 0) die all va)
          || s.fillsBegun (x.lea.getD 0) (fun d a => d == die && (all || a / 2 ^ 21 == va / 2 ^ 21)) then s
      else s.modSlot core slot Slot.release
    | _ => s)

/-- SEGLD (R418). -/
def execSegld (b a : BitVec 5) (k : BitVec 3) (s : State) : Out1 :=
  .next (s.sup (rrBits 0x1B 0 0 5 b a (0#2 ++ k)) (fun s => s.withOperands [s.wAddr a.toNat, s.wAddr b.toNat] [] (fun s =>
    s.needCleans 4 0x13 [a.toNat, b.toNat] (fun s =>
      s.writeSeg k.toNat (segOf (s.w a.toNat).val (s.w b.toNat).val) (s.w a.toNat).val))))

end Sys2Proof.Machine
end

