-- ==== Sys2Proof/Machine/Dorent.lean ====
section
/-! DEFINITION. Dorent contexts (R271-R302): launching from a core (R277-R281), and what one step of a context's program does
(R282-R294). A Dorent instruction acts for the context of the acting core; one that cannot issue yet changes nothing and is
tried again in the context's next step (R283). -/

namespace Sys2Proof.Machine

/-! ## Contexts -/

/-- The gangs of a core's lea that have a core there saw work in this tide (R328). -/
def State.workedOn (s : State) (c : Nat) : State :=
  { s with gangs := s.gangs.map (fun g =>
      if (s.core c).lea = some g.lea ∧ g.members.any (fun m => m.core == c) then { g with worked := true } else g) }

/-- A context's membership record replaced (R276, R297). -/
def Dorent.setRecord (d : Dorent) (r : DMember) : Dorent :=
  { d with recs := d.recs.map (fun x => if x.gid = r.gid then r else x) }

/-- A register of a context. -/
def Dorent.qv (d : Dorent) (k : Nat) : Word := d.q.getD k 0

/-- A register of a context written. -/
def Dorent.setQ (d : Dorent) (k : Nat) (v : Word) : Dorent := { d with q := d.q.set k v }

/-- An addition to a counter, modulo 2^32 (R283, R290). -/
def Dorent.addN (d : Dorent) (k : Nat) (v : BitVec 32) : Dorent := { d with n := d.n.set k (d.n.getD k 0 + v) }

/-- The value that means no peer (R276). -/
def nilRank : Word := 0xFFFFFFFFFFFFFFFF#64

/-- The tides of a wait that count: those in which the context was parked do not (R286, R299). -/
def State.dElapsed (s : State) (d : Dorent) (start : Nat) : Nat := s.tide - start - d.parkedTides

/-! ## Buffers (R279, R285) -/

/-- The element size of a format of R279. -/
def dElem (fmt : Nat) : Nat :=
  match fmt with
  | 0 => 4
  | 1 => 2
  | 2 => 2
  | 3 => 8
  | 4 => 4
  | 5 => 8
  | _ => 1

/-- The bytes of a buffer from an offset, a held one reading as 0 and clean; they are read only where none is held. Those of a
buffer that a participant wrote are undefined (R7, R220; logs 7, 83). -/
def State.bufRead (s : State) (core : Nat) (b : DBuf) (o n : Nat) : List (Byte × Bool) :=
  let free := (s.dor core).isSpoiled b
  (List.range n).map (fun i => match s.bufPlace core b (o + i) [.r] with
    | .at x => (if free then (s.undef (s.core core).lea (s.free + i)).setWidth 8 else s.mem.cells.get x, s.mem.isBad x)
    | _ => (0#8, false))

/-! ## Leaving Running (R275, R281, R302) -/

/-- Whether a circuit is bound or asked for at a core's context. -/
def Circuit.at (c : Circuit) (core : Nat) : Bool :=
  (c.src == core && c.srcIdx.isSome) || (!c.tree && c.dst == core && c.dstIdx.isSome)

/-- A circuit that exists is asked to be torn down now; a change that has not switched loses this end's part, and one that is
no longer whole ends at its next boundary (R275, R302, R325; log 76). -/
def State.tearDown (s : State) (core : Nat) (c : Circuit) : State :=
  match c.phase with
  | .up => { s with
      circuits := s.circuits.map (fun x => if x.id = c.id then { x with phase := .closing s.tide s.nextId } else x)
      nextId := s.nextId + 1 }
  | .closing _ _ => s
  | .closed _ _ => s
  | .refused _ _ => s
  | _ =>
    let rest := if c.tree then none
      else if c.src = core then (if c.dstIdx.isSome ∧ c.dst ≠ core then some { c with srcIdx := none } else none)
      else (if c.srcIdx.isSome then some { c with dstIdx := none } else none)
    { s with circuits := s.circuits.filterMap (fun x => if x.id = c.id then rest else some x) }

/-- The threads of a core that wait in COLWT go on with the status word (R281). -/
def State.wakeColl (s : State) (core : Nat) : State :=
  let w := (s.dor core).status
  (List.range 16).foldl (fun s k => match (s.slot core k).wait with
    | .coll d =>
      let x := s.slot core k
      if x.waiting ∧ x.lea = (s.core core).lea ∧ !x.away (s.core core).lea then
        (s.fillWord d ⟨w, false⟩).modSlot core k Slot.wake
      else s
    | _ => s) s

/-- A context's circuits torn down, and the reduction slots of its nodes free at once (R275, R295, R297, R302). -/
def State.leaveCircuits (s : State) (core : Nat) : State :=
  let mine := s.circuits.filter (fun c => c.at core && some c.lea == (s.core core).lea)
  let s1 := mine.foldl (fun s c => s.tearDown core c) s
  { s1 with circuits := s1.circuits.map (fun c =>
      if c.tree && c.src == core && some c.lea == (s.core core).lea then { c with granted := false } else c) }

/-- Whether a message is of a context's present wait (`now`), or of its waits and signals. -/
def Msg.said (now : Bool) : Msg → Bool
  | .control n => !now || n == 0
  | _ => false

/-- Whether a message brings a context a decision, or a record where its run is over. -/
def Msg.decides (now : Bool) : Msg → Bool
  | .decision _ _ _ _ => true
  | .record _ _ _ => !now
  | _ => false

/-- The messages of a context's wait are over, and a decision sent to it: all of them where it stops (R297, R299). -/
def State.hush (s : State) (core : Nat) (now : Bool) : State :=
  { s with mail := s.mail.filter (fun m => !((m.src == core && m.msg.said now) || (m.dst == core && m.msg.decides now))) }

/-- The rounds of agreement that a core coordinates for its lea are forgotten, with the votes that it holds (R299; log 106). -/
def State.dropRounds (s : State) (core : Nat) : State :=
  { s with agreements := s.agreements.filter (fun a => !(a.coord == core && some a.lea == (s.core core).lea)) }

/-- The buffers of a context that a test names lost: their contents are undefined (R220, R275, R281; log 7). -/
def State.loseBufs (s : State) (core : Nat) (lost : DBuf → Bool) : State :=
  (s.dor core).bufs.foldl (fun s b => match b with
    | some b => if lost b then s.bufFree core b 0 b.len else s
    | none => s) s

/-- A write at an address, once that is known, of a core's thread noted (R220). -/
def State.spoilTo (s : State) (core lea : Nat) (a : Option Nat) (n : Nat) : State := match a with
  | some x => s.spoil core lea x n
  | none => s

/-- The writes of a core's threads that are on their way, as a run of its context that does not complete is over: they were made while it
ran, and leave the buffers that they meet undefined at every participant (R220; log 83). -/
def State.spoilPending (s : State) (core : Nat) : State :=
  (s.outs.filter (fun o => o.core == core && some o.lea == (s.core core).lea)).foldl (fun s o => match o.work with
    | .access x => if x.op.writes then (x.parts.filter (fun p => p.stage != .performed)).foldl (fun s p => s.spoilTo core o.lea p.pa p.size) s else s
    | .bank c => s.spoilTo core o.lea ((c.parts.head?).bind (fun p => p.pa)) c.size
    | _ => s) s

/-- A context leaves Running: Harbour tears down its circuits, its channels and trees are unbound, the rounds that it coordinated
are over, and those that wait for it wake. Unless it is Done, its buffers are undefined; a Done context's are where a participant
wrote them, and what its engine delivered last may still be on its way to memory (R220, R275, R281, R302, R306; logs 29, 50). -/
def State.dStop (s : State) (core : Nat) (st : DState) (err : BitVec 8) (pc : Nat) : State :=
  let s0 := if st = .done then s else (s.flushLate core).spoilPending core
  let s1 := (((s0.workedOn core).leaveCircuits core).hush core false).dropRounds core
  let s2 := s1.loseBufs core (fun b => st != .done || (s1.dor core).isSpoiled b)
  let s3 := s2.modDor core (fun d =>
    { d with
      state := st, err := err, pc := pc, park := none, ops := [], wait := .none, abort := false, spoiled := [], ended := s.now,
      chans := List.replicate 8 .unbound, trees := List.replicate 4 none })
  s3.wakeColl core

/-- A fault of a context's program: Failed, with PC at the faulting word (R282). -/
def State.dFail (s : State) (core : Nat) (err : BitVec 8) (pc : Nat) : State := s.dStop core .failed err pc

/-! ## Launching (R277-R281) -/

/-- COLLD (R278): the checks; then the thread is Parked until the copy is done. While another slot's copy runs it forfeits, and a
context that is Left refuses it, as R275 does not list it (log 84). -/
def execColld (k : BitVec 3) (b a : BitVec 5) (s : State) : Out1 :=
  .next (s.withOperands [s.wAddr a.toNat, s.wAddr b.toNat] [] (fun s => s.withPool (fun s =>
    if s.myCore.dorent.copy.isSome then s.forfeit
    else s.needClean 4 0x10 a.toNat (fun s => s.withLoose b.toNat (fun s v _ =>
      let n := v.toNat
      let off := (s.w a.toNat).val
      let g := s.seg k.toNat
      if n = 0 ∨ 512 < n then s.raise 4 0x06 v
      else
        match segFail g (s.extent g.space) off.toNat (8 * n) [if g.space = 7 then .x else .r] [1, 2, 3, 4, 7] with
        | some c => s.raise 4 c off
        | none =>
          if off.toNat % 8 ≠ 0 then s.raise 4 0x25 off
          else if s.myCore.dorent.state = .running ∨ s.myCore.dorent.state = .left then s.raise 4 0x44 (BitVec.ofNat 64 s.myCore.dorent.state.code)
          else
            let y : DCopy := { slot := s.cur.2, tid := s.me.tid, pc := s.pc, seg := g, off := off.toNat, words := n,
                               id := s.nextId, parked := none, flow := none }
            ((s.modDor s.cur.1 (fun d => { d with copy := some y })).issue 4).park .colld)))))

/-- A buffer of a launch block: word 0, word 1 (R279). -/
def launchBuf (w : Nat → Word) (j : Nat) : Word × Word := (w (10 + 2 * j), w (11 + 2 * j))

/-- Whether a buffer of a block is named. -/
def launchValid (w : Nat → Word) (j : Nat) : Bool := (w (10 + 2 * j)).getLsbD 63

/-- Whether two buffers of a block overlap in one space, under the issuing thread's segments (R280). -/
def State.buffersMeet (s : State) (w : Nat → Word) (i j : Nat) : Bool :=
  let r (k : Nat) : Nat × Nat × Nat :=
    let g := s.seg (fieldAt (launchBuf w k).1 48 3)
    (g.space, g.base.toNat + fieldAt (launchBuf w k).1 0 48, fieldAt (launchBuf w k).2 0 40)
  let (si, ai, li) := r i
  let (sj, aj, lj) := r j
  launchValid w i && launchValid w j && si == sj && decide (0 < li ∧ 0 < lj ∧ ai < aj + lj ∧ aj < ai + li)

/-- Whether a launch block is malformed (R279, R280). -/
def State.launchBad (s : State) (w : Nat → Word) : Bool :=
  (w 0 &&& 0x00000000FFFF0000#64) != 0 || (w 1 &&& ~~~0x13FFF#64) != 0
    || (List.range 8).any (fun j =>
      let (a, b) := launchBuf w j
      (a &&& 0x7F08000000000000#64) != 0 || (b &&& 0xFFFFFF0000000000#64) != 0
        || decide (9 ≤ fieldAt a 52 4) || (launchValid w j && fieldAt b 0 40 == 0))
    || (List.range 6).any (fun i => w (26 + i) != 0)
    || (List.range 8).any (fun i => (List.range 8).any (fun j => decide (i < j) && s.buffersMeet w i j))

/-- The check of a valid buffer: cause and TVAL (R280). -/
def State.bufFail (s : State) (w : Nat → Word) (j : Nat) : Option (BitVec 8 × Word) :=
  if !launchValid w j then none
  else
    let (a, b) := launchBuf w j
    let off := fieldAt a 0 48
    let g := s.seg (fieldAt a 48 3)
    let chk (r : Right) : Option (BitVec 8) := segFail g (s.extent g.space) off (fieldAt b 0 40) [r] [2, 3, 4]
    match chk .r, chk .w with
    | some c, _ => some (c, BitVec.ofNat 64 off)
    | none, some c => some (c, BitVec.ofNat 64 off)
    | none, none => if off % dElem (fieldAt a 52 4) ≠ 0 then some (0x25, BitVec.ofNat 64 off) else none

/-- A buffer as COLRUN captures it (R280). -/
def State.captureBuf (s : State) (w : Nat → Word) (j : Nat) : Option DBuf :=
  if !launchValid w j then none
  else
    let (a, b) := launchBuf w j
    let k := fieldAt a 48 3
    let g := s.seg k
    some { fmt := fieldAt a 52 4, space := g.space, die := dieOf s.cur.1, base := g.base.toNat + fieldAt a 0 48,
           len := fieldAt b 0 40, sg := k, off := fieldAt a 0 48 }

/-- The context that COLRUN sets up (R280). -/
def State.launch (s : State) (d : Dorent) (w : Nat → Word) (r : DMember) : Dorent :=
  let ver := fieldAt (w 0) 32 32
  let ok := ver == 0 || ver == r.ver.toNat
  { d with
    q := (List.range 16).map (fun i => if i < 8 then w (2 + i) else 0)
    n := List.replicate 8 0
    bufs := (List.range 8).map (s.captureBuf w)
    chans := List.replicate 8 .unbound
    trees := List.replicate 4 none
    state := if ok then .running else .failed
    err := if ok then 0 else 0x0F
    pc := 0, psn := false, park := none, endpt := false, gid := r.gid, tmo := fieldAt (w 1) 0 14, abort := false
    ops := [], wait := .none, barriers := 0, parkedTides := 0, owner := s.cur.2, edge := (s.me.tid, s.nextId), spoiled := [],
    began := s.now }

/-- The buffers that a participant of a run has written already, by number: undefined at one that joins it now as well (R220). -/
def State.spoiledIn (s : State) (core gid : Nat) : List Nat :=
  ((s.groupCores ((s.core core).lea.getD 0) gid).flatMap (fun p => p.2.1.spoiled)).dedup

/-- COLRUN with its block read (R280): the rest of its checks, the wait of FENCE.REL.DIE with the block kept, and the launch. A
copy of COLLD that runs is waited for, and what the wait may change is checked again (log 84). A run that fails at once leaves its
buffers undefined (R281). -/
def State.colrun (s : State) (w : Nat → Word) : State :=
  let d := s.myCore.dorent
  let join := (w 1).getLsbD 16
  let gid := fieldAt (w 0) 0 16
  if d.state = .empty ∨ d.state = .running ∨ (d.state = .left ∧ !join) then s.raise 4 0x44 (BitVec.ofNat 64 d.state.code)
  else
    match d.record gid with
    | none => s.raise 4 0x46 (BitVec.ofNat 64 gid)
    | some r =>
      if join != r.rank.isNone then s.raise 4 0x46 (BitVec.ofNat 64 gid)
      else if s.nsr != r.nsr then s.raise 4 0x4A (BitVec.ofNat 64 gid)
      else
        match (List.range 8).findSome? (s.bufFail w) with
        | some (c, v) => s.raise 4 c v
        | none =>
          if !s.accessesDone false || d.copy.isSome then
            s.forfeit.modMe (fun x => { x with launch := some ((List.range 32).map w) })
          else
            let s1 := (((s.flushLate s.cur.1).modDor s.cur.1 (fun d => s.launch d w r)).workedOn s.cur.1).spoilAt s.cur.1
              (s.spoiledIn s.cur.1 gid)
            (if (s1.dor s.cur.1).state = .failed then s1.loseBufs s.cur.1 (fun _ => true) else s1).issue 4

/-- COLRUN (R280): its checks in their order, the wait of FENCE.REL.DIE, and the launch; a later turn of the wait goes on with the
block that the first one read. -/
def execColrun (k : BitVec 3) (a : BitVec 5) (s : State) : Out1 :=
  .next (match s.me.launch with
    | some l => s.withPool (fun s => s.colrun (fun i => l.getD i 0))
    | none => s.withOperands [s.wAddr a.toNat] [] (fun s => s.withPool (fun s => s.needClean 4 0x10 a.toNat (fun s =>
        let off := (s.w a.toNat).val
        let st := s.myCore.dorent.state
        match segFail (s.seg k.toNat) (s.extent (s.seg k.toNat).space) off.toNat 256 [.r] [1, 2] with
        | some c => s.raise 4 c off
        | none =>
          if off.toNat % 256 ≠ 0 then s.raise 4 0x25 off
          else if st = .empty ∨ st = .running then s.raise 4 0x44 (BitVec.ofNat 64 st.code)
          else s.withBlock k.toNat off.toNat 256 0x15 (fun s w =>
            if st = .left ∧ !(w 1).getLsbD 16 then s.raise 4 0x44 (BitVec.ofNat 64 st.code)
            else if s.launchBad w then s.raise 4 0x45 off
            else s.colrun w)))))

/-- COLWT (R281): Parked until the context is not Running. -/
def execColwt (d : BitVec 5) (s : State) : Out1 :=
  .next (s.withOperands [] [s.wAddr d.toNat] (fun s => s.withPool (fun s =>
    if s.myCore.dorent.state = .running then (s.issue 4).park (.coll (s.wAddr d.toNat))
    else s.setW 4 d.toNat false s.myCore.dorent.status)))

/-- COLST (R281). -/
def execColst (d : BitVec 5) (s : State) : Out1 :=
  .next (s.withOperands [] [s.wAddr d.toNat] (fun s => s.withPool (fun s => s.setW 4 d.toNat false s.myCore.dorent.status)))

/-- COLST.ABORT (R281): a Running context stops at its next step. -/
def execColstAbort (d : BitVec 5) (s : State) : Out1 :=
  .next (s.withOperands [] [s.wAddr d.toNat] (fun s => s.withPool (fun s =>
    (s.setW 4 d.toNat false s.myCore.dorent.status).modDor s.cur.1 (fun x =>
      if x.state = .running then { x with abort := true } else x))))

/-! ## One Dorent instruction (R282, R283) -/

/-- The effect of a Dorent instruction on the acting core's context: none unless the context is Running and not parked. -/
def State.withCtx (s : State) (f : Nat → Dorent → DMember → State) : State :=
  let d := s.dor s.cur.1
  if d.state = .running ∧ d.park = none then
    match d.mine with
    | some r => f s.cur.1 d r
    | none => s
  else s

/-- The instruction completes in this step: PC, of 9 bits, goes on (R272, R283; log 30). -/
def State.dNext (s : State) (core : Nat) (f : Dorent → Dorent) : State :=
  ((s.modDor core (fun d => let x := f d; { x with pc := (d.pc + 1) % 512, wait := .none })).workedOn core).hush core true

/-- The instruction completes with PC at a target (R291). -/
def State.dJump (s : State) (core tgt : Nat) (f : Dorent → Dorent) : State :=
  ((s.modDor core (fun d => let x := f d; { x with pc := tgt, wait := .none })).workedOn core).hush core true

/-- The instruction waits from now on (R283, R289). -/
def State.dWait (s : State) (core : Nat) (w : DWaiting) : State :=
  (s.modDor core (fun d => { d with wait := w, parkedTides := 0 })).workedOn core

/-- A control message of a context to a core of its lea, waiting to be injected on the exchange plane (R297, R324; log 85). -/
def State.dPost (s : State) (core dst : Nat) (m : Msg) : State :=
  { s with nextId := s.nextId + 1 }.post
    { id := s.nextId, lea := (s.core core).lea.getD 0, src := core, srcSlot := 0, srcTid := 0, dst := dst, sent := none, msg := m,
      wd := 0, born := 0 }

/-- The instruction asks another unit and waits for it from now on; it does not begin while its core's exchange queue is full
(R297, R322, R324). -/
def State.dAsk (s : State) (core dst : Nat) (w : DWaiting) (f : Dorent → Dorent) : State :=
  if 16 ≤ s.exchangeFlits core (s.core core).lea then s
  else ((s.dPost core dst (.control 0)).modDor core (fun d => { f d with wait := w, parkedTides := 0 })).workedOn core

/-- The core at which the messages of a version's barriers meet: that of rank 0 (log 85). -/
def DMember.meet (r : DMember) : Nat := r.list.headD 0

/-- The bytes that an instruction of a core's context reads and writes, by their homes: two names of one frame meet (R283, R285,
R288, R383). -/
def State.ranges (s : State) (core : Nat) (d : Dorent) (kind buf off len chan sbuf soff : Nat) :
    List (Nat × Nat × Nat) × List (Nat × Nat × Nat) :=
  let rg (k o : Nat) : List (Nat × Nat × Nat) := match d.bufs.getD k none with
    | some b => s.homes core ((s.core core).lea.getD 0) b.space b.die (b.base + o) len
    | none => []
  match kind with
  | 0 => (rg buf off, [])
  | 1 => ([], rg buf off)
  | 2 => (rg sbuf soff, rg buf off)
  | 3 => (rg buf off, (match d.trees.getD chan none with
      | some t => if t.parent.isNone then rg buf off else []
      | none => []))
  | _ => ([], [])

/-- Whether an asynchronous instruction must wait before it issues: for a place among the eight, or for an earlier one that
writes what it reads or writes, or reads what it writes (R283). -/
def State.mustWait (s : State) (core : Nat) (d : Dorent) (kind buf off len chan sbuf soff : Nat) : Bool :=
  let (r, w) := s.ranges core d kind buf off len chan sbuf soff
  decide (8 ≤ d.ops.length) || d.ops.any (fun o =>
    let (r', w') := s.ranges core d o.kind o.buf o.off o.len o.chan o.sbuf o.soff
    homesMeet w' (r ++ w) || homesMeet r' w)

/-- Whether a chunk is outside its buffer, or not a multiple of its element size (R285). -/
def Dorent.chunkBad (d : Dorent) (buf off len : Nat) : Bool :=
  match d.bufs.getD buf none with
  | none => true
  | some b => decide (b.len < off + len) || off % dElem b.fmt != 0 || len % dElem b.fmt != 0

/-- The counter that CE names (R283). -/
def ceCount (ce : BitVec 1) (cnt : BitVec 3) : Option Nat := if ce = 1 then some cnt.toNat else none

/-- CE's addition as an instruction completes (R283). -/
def Dorent.addCe (d : Dorent) (c : Option Nat) : Dorent := match c with
  | some k => d.addN k 1
  | none => d

/-- The context with an asynchronous instruction outstanding. -/
def Dorent.addOp (d : Dorent) (o : DOp) : Dorent := { d with ops := d.ops ++ [{ o with num := d.nextOp }], nextOp := d.nextOp + 1 }

/-- An asynchronous instruction of a kind, as it issues. -/
def Dorent.newOp (d : Dorent) (kind buf off len chan seq : Nat) (cnt : Option Nat) : DOp :=
  { num := 0, kind := kind, buf := buf, off := off, len := len, chan := chan, seq := seq, sbuf := 0, soff := 0, op := 0,
    cnt := cnt, ctr := 0, amt := 0, done := 0, part := none, pc := d.pc, flow := none }

/-- DSEND and DRECV (R285, R286). -/
def State.dMove (s : State) (send : Bool) (buf ch qo : Nat) (cnt : Option Nat) (len : Nat) : State :=
  s.withCtx (fun c d _ =>
    let kind := if send then 0 else 1
    let off := (d.qv qo).toNat
    if s.mustWait c d kind buf off len ch 0 0 then s
    else if d.chunkBad buf off len then s.dFail c 0x03 d.pc
    else
      match d.chans.getD ch .unbound with
      | .unbound => s.dFail c 0x04 d.pc
      | .nil dir => if dir != send then s.dFail c 0x04 d.pc else s.dNext c (fun d => d.addCe cnt)
      | .bound peer dir circ k up =>
        if dir != send then s.dFail c 0x04 d.pc
        else if !up then s.dFail c 0x0E d.pc
        else s.dNext c (fun d =>
          { (d.addOp (d.newOp kind buf off len ch k cnt)) with chans := d.chans.set ch (.bound peer dir circ (k + 1) up) }))

/-- DSEND (R285). -/
def execDsend (buf ch : BitVec 3) (qo : BitVec 4) (ce : BitVec 1) (cnt : BitVec 3) (len : BitVec 32) (s : State) : Out1 :=
  .next (s.dMove true buf.toNat ch.toNat qo.toNat (ceCount ce cnt) len.toNat)

/-- DRECV (R285). -/
def execDrecv (buf ch : BitVec 3) (qo : BitVec 4) (ce : BitVec 1) (cnt : BitVec 3) (len : BitVec 32) (s : State) : Out1 :=
  .next (s.dMove false buf.toNat ch.toNat qo.toNat (ceCount ce cnt) len.toNat)

/-- DCOPY (R285). -/
def execDcopy (buf sbuf : BitVec 3) (qo : BitVec 4) (ce : BitVec 1) (cnt : BitVec 3) (qs : BitVec 4) (len : BitVec 32)
    (s : State) : Out1 :=
  .next (s.withCtx (fun c d _ =>
    let off := (d.qv qo.toNat).toNat
    let soff := (d.qv qs.toNat).toNat
    let n := len.toNat
    if s.mustWait c d 2 buf.toNat off n 0 sbuf.toNat soff then s
    else if d.chunkBad buf.toNat off n || d.chunkBad sbuf.toNat soff n then s.dFail c 0x03 d.pc
    else if buf = sbuf ∧ off < soff + n ∧ soff < off + n then s.dFail c 0x0D d.pc
    else s.dNext c (fun d => d.addOp { (d.newOp 2 buf.toNat off n 0 0 (ceCount ce cnt)) with sbuf := sbuf.toNat, soff := soff })))

/-- DRED (R288). -/
def execDred (buf : BitVec 3) (tree : BitVec 2) (qo : BitVec 4) (ce : BitVec 1) (cnt : BitVec 3) (op : BitVec 3)
    (len : BitVec 32) (s : State) : Out1 :=
  .next (s.withCtx (fun c d _ =>
    let off := (d.qv qo.toNat).toNat
    let n := len.toNat
    let t := tree.toNat
    if s.mustWait c d 3 buf.toNat off n t 0 0 then s
    else if d.chunkBad buf.toNat off n then s.dFail c 0x03 d.pc
    else
      match d.trees.getD t none with
      | none => s.dFail c 0x04 d.pc
      | some r =>
        if !r.up then s.dFail c 0x0E d.pc
        else if (d.bufs.getD buf.toNat none).any (fun b => b.fmt == 6) then s.dFail c 0x0D d.pc
        else s.dNext c (fun d =>
          { (d.addOp { (d.newOp 3 buf.toNat off n t r.rounds (ceCount ce cnt)) with op := op.toNat }) with
            trees := d.trees.set t (some { r with rounds := r.rounds + 1 }) })))

/-- The limit of a wait: the instruction's, or the launch block's (R289). -/
def Dorent.limit (d : Dorent) (tmo : BitVec 14) : Nat := if tmo = 0 then d.tmo else tmo.toNat

/-- The target of a timeout (R289). -/
def jumpOf (tb : BitVec 1) (tgt : BitVec 9) : Option Nat := if tb = 1 then some tgt.toNat else none

/-- DWAIT (R289). -/
def execDwait (n : BitVec 3) (tgt : BitVec 9) (tb : BitVec 1) (tmo : BitVec 14) (thr : BitVec 32) (s : State) : Out1 :=
  .next (s.withCtx (fun c d _ =>
    if thr ≤ d.n.getD n.toNat 0 then s.dNext c (fun d => d)
    else if d.wait = .none then s.dWait c (.count n.toNat thr.toNat s.tide (d.limit tmo) (jumpOf tb tgt))
    else s))

/-- DSIG to a peer (R290). -/
def execDsig (n ch : BitVec 3) (amt : BitVec 32) (s : State) : Out1 :=
  .next (s.withCtx (fun c d r =>
    if 8 ≤ d.ops.length then s
    else
      match d.chans.getD ch.toNat .unbound with
      | .unbound => s.dFail c 0x04 d.pc
      | .nil dir => if dir then s.dNext c (fun d => d) else s.dFail c 0x04 d.pc
      | .bound p dir _ k up =>
        if !dir then s.dFail c 0x04 d.pc
        else if !up then s.dFail c 0x0E d.pc
        else if 16 ≤ s.exchangeFlits c (s.core c).lea then s
        else (s.dPost c (r.list.getD p 0) (.control (d.nextOp + 1))).dNext c (fun d => d.addOp { (d.newOp 4 0 0 0 ch.toNat k none) with ctr := n.toNat, amt := amt })))

/-- DSIG.LOC (R290). -/
def execDsigLoc (n : BitVec 3) (amt : BitVec 32) (s : State) : Out1 :=
  .next (s.withCtx (fun c d _ => if 8 ≤ d.ops.length then s else s.dNext c (fun d => d.addN n.toNat amt)))

/-- DLOOP (R291). -/
def execDloop (qa : BitVec 4) (tgt : BitVec 9) (s : State) : Out1 :=
  .next (s.withCtx (fun c d _ =>
    let v := d.qv qa.toNat - 1
    if v ≠ 0 then s.dJump c tgt.toNat (fun d => d.setQ qa.toNat v) else s.dNext c (fun d => d.setQ qa.toNat v)))

/-- DLOOP.JMP (R291). -/
def execDloopJmp (tgt : BitVec 9) (s : State) : Out1 := .next (s.withCtx (fun c _ _ => s.dJump c tgt.toNat (fun d => d)))

/-- DLOOP.BZ (R291). -/
def execDloopBz (qa : BitVec 4) (tgt : BitVec 9) (s : State) : Out1 :=
  .next (s.withCtx (fun c d _ => if d.qv qa.toNat = 0 then s.dJump c tgt.toNat (fun d => d) else s.dNext c (fun d => d)))

/-- DLOOP.BNZ (R291). -/
def execDloopBnz (qa : BitVec 4) (tgt : BitVec 9) (s : State) : Out1 :=
  .next (s.withCtx (fun c d _ => if d.qv qa.toNat ≠ 0 then s.dJump c tgt.toNat (fun d => d) else s.dNext c (fun d => d)))

/-- A register computed (R292). -/
def State.dSet (s : State) (qa : BitVec 4) (v : Dorent → Word) : State :=
  s.withCtx (fun c d _ => s.dNext c (fun x => x.setQ qa.toNat (v d)))

/-- DNEXT.ADD (R292). -/
def execDnextAdd (qa : BitVec 4) (imm : BitVec 32) (s : State) : Out1 :=
  .next (s.dSet qa (fun d => d.qv qa.toNat + imm.signExtend 64))

/-- DNEXT.MOD (R292): an exact sum, then its remainder. -/
def execDnextMod (qa qb : BitVec 4) (imm : BitVec 32) (s : State) : Out1 :=
  .next (s.dSet qa (fun d =>
    let t := (d.qv qa.toNat).toNat + imm.toNat
    let m := (d.qv qb.toNat).toNat
    BitVec.ofNat 64 (if m = 0 then t else t % m)))

/-- DNEXT.SET (R292). -/
def execDnextSet (qa : BitVec 4) (imm : BitVec 32) (s : State) : Out1 := .next (s.dSet qa (fun _ => imm.signExtend 64))

/-- DNEXT.MOV (R292). -/
def execDnextMov (qa qb : BitVec 4) (imm : BitVec 32) (s : State) : Out1 :=
  .next (s.dSet qa (fun d => d.qv qb.toNat + imm.signExtend 64))

/-- DNEXT.MUL (R292). -/
def execDnextMul (qa qb : BitVec 4) (imm : BitVec 32) (s : State) : Out1 :=
  .next (s.dSet qa (fun d => d.qv qb.toNat * imm.setWidth 64))

/-- DNEXT.RNK (R292): a candidate fails. -/
def execDnextRnk (qa : BitVec 4) (imm : BitVec 32) (s : State) : Out1 :=
  .next (s.withCtx (fun c d r => match r.rank with
    | none => s.dFail c 0x06 d.pc
    | some k => s.dNext c (fun x => x.setQ qa.toNat (BitVec.ofNat 64 ((k + imm.toNat) % r.size)))))

/-! ## Binding (R286, R287) -/

/-- Whether an outstanding instruction uses a channel or a tree. -/
def Dorent.busyOn (d : Dorent) (tree : Bool) (idx : Nat) : Bool :=
  d.ops.any (fun o => o.chan == idx && (if tree then o.kind == 3 else (o.kind == 0 || o.kind == 1 || o.kind == 4)))

/-- The circuit that a channel or tree record is bound to, and whether it is up. -/
def Dorent.circuitOf (d : Dorent) (tree : Bool) (idx : Nat) : Option (Nat × Bool) :=
  if tree then (d.trees.getD idx none).map (fun t => (t.circuit, t.up))
  else match d.chans.getD idx .unbound with
    | .bound _ _ c _ up => some (c, up)
    | _ => none

/-- A channel or tree record unbound. -/
def Dorent.unbind (d : Dorent) (tree : Bool) (idx : Nat) : Dorent :=
  if tree then { d with trees := d.trees.set idx none } else { d with chans := d.chans.set idx .unbound }

/-- RATE = 0 (R286): the outstanding transfers complete, and the circuit is torn down. -/
def State.dUnjoin (s : State) (c : Nat) (d : Dorent) (tree : Bool) (idx : Nat) : State :=
  if d.busyOn tree idx then s
  else
    match d.circuitOf tree idx with
    | some (id, up) => if tree || up then s.dAsk c c (.unjoin tree idx id false) (fun d => d) else s.dNext c (fun d => d.unbind tree idx)
    | none => s.dNext c (fun d => d.unbind tree idx)

/-- DJOIN of a channel (R286). -/
def State.dJoin (s : State) (send : Bool) (ch : Nat) (qp : Nat) (rate : Nat) : State :=
  s.withCtx (fun c d r =>
    let p := d.qv qp
    if d.wait ≠ .none then s
    else if r.rank.isNone then s.dFail c 0x06 d.pc
    else if p = nilRank then
      if d.busyOn false ch then s
      else
        let s1 : State := match d.circuitOf false ch with
          | some (id, true) => (s.circuits.filter (fun (x : Circuit) => x.id == id)).foldl (fun (s : State) (x : Circuit) => s.tearDown c x) s
          | _ => s
        s1.dNext c (fun d => { d with chans := d.chans.set ch (.nil send) })
    else if r.size ≤ p.toNat then s.dFail c 0x06 d.pc
    else if rate = 0 then s.dUnjoin c d false ch
    else if d.busyOn false ch then s
    else s.dAsk c c (.join { tree := false, idx := ch, send := send, peer := p.toNat, parent := none, kids := [], rate := rate }
      s.tide none) (fun d => d))

/-- DJOIN.SEND (R286). -/
def execDjoinSend (ch : BitVec 3) (qp : BitVec 4) (rate : BitVec 16) (s : State) : Out1 :=
  .next (s.dJoin true ch.toNat qp.toNat rate.toNat)

/-- DJOIN.RECV (R286). -/
def execDjoinRecv (ch : BitVec 3) (qp : BitVec 4) (rate : BitVec 16) (s : State) : Out1 :=
  .next (s.dJoin false ch.toNat qp.toNat rate.toNat)

/-- DJOIN.TREE (R287). -/
def execDjoinTree (tree : BitVec 2) (qp qc mask : BitVec 4) (rate : BitVec 16) (s : State) : Out1 :=
  .next (s.withCtx (fun c d r =>
    let opt (w : Word) : Option Nat := if w = nilRank then none else some w.toNat
    let parent := opt (d.qv qp.toNat)
    let kids := (List.range 4).map (fun i => if mask.getLsbD i then opt (d.qv (qc.toNat + i)) else none)
    if d.wait ≠ .none then s
    else if r.rank.isNone || (parent :: kids).any (fun k => k.any (fun n => decide (r.size ≤ n))) then s.dFail c 0x06 d.pc
    else if rate = 0 then s.dUnjoin c d true tree.toNat
    else if d.busyOn true tree.toNat then s
    else s.dAsk c c (.join { tree := true, idx := tree.toNat, send := false, peer := 0, parent := parent, kids := kids,
                             rate := rate.toNat } s.tide none) (fun d => d)))

/-! ## Versions, barriers, the end (R289, R293, R294, R298) -/

/-- RANK as a program reads it: a candidate's is 0xFFFF_FFFF (R276). -/
def DMember.rankWord (r : DMember) : Word := match r.rank with
  | some k => BitVec.ofNat 64 k
  | none => 0xFFFFFFFF#64

/-- VER, RANK and SIZE written from a register on (R293, R299). -/
def Dorent.putVersion (d : Dorent) (qa : Nat) (r : DMember) : Dorent :=
  ((d.setQ qa (r.ver.setWidth 64)).setQ (qa + 1) r.rankWord).setQ (qa + 2) (BitVec.ofNat 64 r.size)

/-- DVER.RD (R293). -/
def execDverRd (qa : BitVec 4) (s : State) : Out1 :=
  .next (s.withCtx (fun c _ r => s.dNext c (fun d => d.putVersion qa.toNat r)))

/-- DVER.AGREE (R298): the vote is taken, and the round runs. -/
def execDverAgree (qa : BitVec 4) (t : BitVec 12) (s : State) : Out1 :=
  .next (s.withCtx (fun c d r =>
    let v := d.qv qa.toNat
    let att := fieldAt v 8 8
    if d.wait ≠ .none then s
    else if r.size ≤ att then s.dFail c 0x06 d.pc
    else s.dAsk c (r.list.getD att 0) (.agree qa.toNat t.toNat att (v.getLsbD 0) (s.tide + 1) false none) (fun d => d)))

/-- DBAR (R289). -/
def execDbar (tgt : BitVec 9) (tb : BitVec 1) (tmo : BitVec 14) (s : State) : Out1 :=
  .next (s.withCtx (fun c d r =>
    if d.wait ≠ .none then s
    else s.dAsk c r.meet (.barrier (d.barriers + 1) s.tide (d.limit tmo) (jumpOf tb tgt)) (fun d =>
      { d with barriers := d.barriers + 1 })))

/-- DHALT (R294). -/
def execDhalt (code : BitVec 7) (s : State) : Out1 :=
  .next (s.withCtx (fun c d r =>
    if !d.ops.isEmpty || d.wait != .none then s
    else if code ≠ 0 then s.dFail c (0x80#8 + code.setWidth 8) d.pc
    else s.dAsk c r.meet (.closing s.tide) (fun d => d)))

/-- DORENT_DECODE_FAULT (R282): a fetch at or beyond LOADED, an unassigned OPC, or a reserved value. -/
def execDorentDecodeFault (err : BitVec 8) (s : State) : Out1 := .next (s.withCtx (fun c d _ => s.dFail c err d.pc))

end Sys2Proof.Machine
end

