-- ==== Sys2Proof/Machine/Collective.lean ====
section
/-! DEFINITION. What Harbour, the engines and the routers do for collectives (R276-R301, R325): circuits, data movement,
reduction, timeouts, barriers, agreement, and COLLD's copy. An event whose condition does not hold changes nothing (log 2). -/

namespace Sys2Proof.Machine

/-! ## Groups (R276) -/

/-- The core of a rank in a membership record. -/
def DMember.core (r : DMember) (k : Nat) : Option Nat := r.list[k]?

/-- The rank of a core in a membership record. -/
def DMember.rankOf (r : DMember) (core : Nat) : Option Nat := if r.list.contains core then some (r.list.idxOf core) else none

/-- The records that Headland keeps for a core of a lea until the lea first holds the core's pool (R276). -/
def Lea.recsFor (l : Lea) (core : Nat) : List DMember := l.recs.filterMap (fun p => if p.1 = core then some p.2 else none)

/-- The records of a lea on a core: those of the context, live or in the save area, or those that Headland keeps until the lea first
holds the core's pool (R276, R302, R382). -/
def State.recsOf (s : State) (lea core : Nat) : List DMember :=
  let c := s.core core
  if c.lea = some lea then c.dorent.recs
  else
    match (keyFind c.saves lea).bind (fun a => a.pool) with
    | some p => p.dorent.recs
    | none => (s.lea lea).elim [] (fun l => l.recsFor core)

/-- A record installed for a lea on a core. -/
def State.addRec (s : State) (lea core : Nat) (r : DMember) : State :=
  let c := s.core core
  if c.lea = some lea then s.modDor core (fun d => { d with recs := d.recs ++ [r] })
  else
    match (keyFind c.saves lea).bind (fun a => a.pool) with
    | some _ => s.modCore core (fun c => c.modPoolSave lea (fun p =>
        { p with dorent := { p.dorent with recs := p.dorent.recs ++ [r] } }))
    | none => s.modLea lea (fun l => { l with recs := l.recs ++ [(core, r)] })

/-- GROUP_CREATE (R276): Headland installs the membership records; members and candidates are logical core indices. A group
number that the lea already uses, or a core outside the lea, is refused; a core named twice has a record for each place (log 31). -/
def execGroupCreate (lea gid : Nat) (members candidates : List Nat) (nsr : Bool) (s : State) : Out1 :=
  .next (match s.lea lea with
    | none => s
    | some l =>
      let all := members ++ candidates
      let phys := members.map (fun i => l.cores.getD i 0)
      if members.isEmpty || all.any (fun i => decide (l.leal ≤ i)) || decide (65536 ≤ gid)
          || l.cores.any (fun c => (s.recsOf lea c).any (fun r => r.gid == gid)) then s
      else all.zipIdx.foldl (fun s p =>
        s.addRec lea (l.cores.getD p.1 0)
          { gid := gid, ver := 1, rank := if p.2 < members.length then some p.2 else none, size := members.length, nsr := nsr,
            list := phys }) s)

/-- The running context of a core with its lea. -/
def State.runningAt (s : State) (core : Nat) : Option (Nat × Dorent × DMember) :=
  match (s.core core).lea with
  | some l => (s.running core l (s.dor core).gid).map (fun p => (l, p.1, p.2))
  | none => none

/-! ## Circuits (R286, R287, R325) -/

/-- The newest tree record of a core among those of a kind that have reached Harbour (R287). -/
def State.treeNode (s : State) (kind : Circuit → Bool) (core : Nat) : Option Circuit :=
  (s.circuits.filter (fun c => c.tree && kind c && c.src == core)).getLast?

/-- The records of a tree index, from members of one version, whose change is not yet whole (R287, R297, R325; log 76). -/
def Circuit.asks (lea gid idx : Nat) (ver : BitVec 32) (c : Circuit) : Bool :=
  c.lea == lea && c.gid == gid && c.ver == ver && c.srcIdx == some idx && c.phase == .asking

/-- The parts of one change. -/
def Circuit.with (c x : Circuit) : Bool := x.change == c.change && x.lea == c.lea

/-- The cores that a tree record names. -/
def Circuit.links (c : Circuit) : List Nat := (c.parent :: c.kids).filterMap (fun x => x)

/-- Whether two records of one index contradict each other: one names the other as parent or child and the other does not
answer it (R287). -/
def recordsDiffer (x y : Circuit) : Bool :=
  (x.parent == some y.src && !y.kids.contains (some x.src)) || (y.kids.contains (some x.src) && x.parent != some y.src)
    || (y.parent == some x.src && !x.kids.contains (some y.src)) || (x.kids.contains (some y.src) && y.parent != some x.src)

/-- The cores joined to a set by the records of a kind, after n rounds: a member's record joins those that it names, and those whose
records name the member (R287). -/
def State.joined (s : State) (kind : Circuit → Bool) (all : List Nat) : Nat → List Nat → List Nat
  | 0, l => l
  | n + 1, l =>
    s.joined kind all n (all.filter (fun c => l.contains c
      || l.any (fun x => (s.treeNode kind x).any (fun r => r.links.contains c || (s.treeNode kind c).any (fun q => q.links.contains x)))))

/-- The cores of a circuit's whole neighbourhood: those that the records name, directly or through other records (R287, R325;
log 76). -/
def State.neighbours (s : State) (c : Circuit) : List Nat :=
  let kind := Circuit.asks c.lea c.gid (c.srcIdx.getD 0) c.ver
  let all := ((s.circuits.filter (fun x => x.tree && kind x)).flatMap (fun x => x.src :: x.links)).dedup
  s.joined kind all all.length [c.src]

/-- A change becomes ready where every part of it has reached Harbour: both ends of a channel, or a tree record's whole
neighbourhood (R325). -/
def State.readyOne (s : State) (id : Nat) : State :=
  match s.circuits.find? (fun c => c.id == id) with
  | none => s
  | some c =>
    let parts : List (Option Circuit) :=
      if c.tree then (s.neighbours c).map (s.treeNode (Circuit.asks c.lea c.gid (c.srcIdx.getD 0) c.ver))
      else [if c.srcIdx.isSome && c.dstIdx.isSome then some c else none]
    if c.phase = .asking ∧ parts.all (fun x => x.isSome) then
      { s with
        circuits := s.circuits.map (fun x =>
          if parts.contains (some x) then { x with phase := .ready s.tide s.nextId, change := s.nextId } else x)
        nextId := s.nextId + 1 }
    else s

/-- Every change that is ready now. -/
def State.readyAll (s : State) : State := (s.circuits.map (fun c => c.id)).foldl State.readyOne s

/-- The circuit that a DJOIN's binding replaces (R286). -/
def oldCircuit (d : Dorent) (r : DReq) : List Nat := match d.circuitOf r.tree r.idx with
  | some (id, _) => [id]
  | none => []

/-- A channel's request reaches Harbour: it pairs with the other end's, or waits for it (R286). Where the two ends state
different rates, which is installed is not stated (log 7). -/
def State.askChannel (s : State) (lea core : Nat) (d : Dorent) (m : DMember) (r : DReq) (start : Nat) : State :=
  let peer := (m.core r.peer).getD core
  let (src, dst) : Nat × Nat := if r.send then (core, peer) else (peer, core)
  let fits (c : Circuit) : Bool :=
    !c.tree && c.lea == lea && c.gid == d.gid && c.ver == m.ver && c.src == src && c.dst == dst && c.phase == .asking
      && (if r.send then c.srcIdx.isNone else c.dstIdx.isNone)
  match s.circuits.find? fits with
  | some c =>
    let rate := if (Config.freeWord s.free).getLsbD 0 then c.rate else r.rate
    let c1 := if r.send then { c with srcIdx := some r.idx } else { c with dstIdx := some r.idx }
    { s with
      circuits := s.circuits.map (fun (x : Circuit) => if x.id = c.id then { c1 with rate := rate, old := c.old ++ oldCircuit d r, reached := s.tide } else x)
      free := s.free + 1 }.modDor core (fun d => { d with wait := .join r start (some c.id) })
  | none =>
    let c : Circuit :=
      { id := s.nextId, change := s.nextId, lea := lea, gid := d.gid, ver := m.ver, tree := false, src := src, dst := dst,
        srcIdx := if r.send then some r.idx else none, dstIdx := if r.send then none else some r.idx, parent := none, kids := [],
        req := r, rate := r.rate, reached := s.tide, phase := .asking, granted := false, old := oldCircuit d r }
    { s with circuits := s.circuits ++ [c], nextId := s.nextId + 1 }.modDor core (fun d =>
      { d with wait := .join r start (some c.id) })

/-- A tree record reaches Harbour; where it disagrees with another, or with itself since it names its own member on one side only, every
member whose record is joined to either fails (R287). -/
def State.askTree (s : State) (lea core : Nat) (d : Dorent) (m : DMember) (r : DReq) (start : Nat) : State :=
  let rk (k : Option Nat) : Option Nat := k.bind m.core
  let c : Circuit :=
    { id := s.nextId, change := s.nextId, lea := lea, gid := d.gid, ver := m.ver, tree := true, src := core, dst := core, srcIdx := some r.idx, dstIdx := none,
      parent := rk r.parent, kids := r.kids.map rk, req := r, rate := r.rate, reached := s.tide, phase := .asking,
      granted := false, old := oldCircuit d r }
  let s1 : State := { s with circuits := s.circuits ++ [c], nextId := s.nextId + 1 }.modDor core (fun d =>
    { d with wait := .join r start (some c.id) })
  let kind := Circuit.asks lea d.gid r.idx m.ver
  let foes := m.list.filter (fun x => (s1.treeNode kind x).any (recordsDiffer c))
  if foes.isEmpty then s1
  else (s1.joined kind m.list m.list.length (core :: foes)).foldl (fun s x =>
    if (s1.treeNode kind x).isNone then s
    else match s.running x lea d.gid with
      | some (e, _) => s.dFail x 0x0A e.pc
      | none => s) s1

/-- A control message of a context that has come to a core (R297, R324). -/
def State.heard (s : State) (lea core dst what : Nat) : Option Mail :=
  s.mail.find? (fun m => m.lea == lea && m.src == core && m.dst == dst && m.msg == .control what && s.arrives m)

/-- CIRCUIT_REQUEST_ARRIVE (R286, R287, R325): what a core's context asks of Harbour reaches it. -/
def execCircuitRequestArrive (core : Nat) (s : State) : Out1 :=
  .next (match s.runningAt core with
    | none => s
    | some (lea, d, m) =>
      if (s.heard lea core core 0).isNone then s
      else match d.wait with
      | .join r start none => (if r.tree then s.askTree lea core d m r start else s.askChannel lea core d m r start).readyAll
      | .unjoin tree idx id false =>
        match s.circuits.find? (fun c => c.id == id) with
        | some c => (s.tearDown core c).modDor core (fun d => { d with wait := .unjoin tree idx id true })
        | none => s.dNext core (fun d => d.unbind tree idx)
      | _ => s)

/-- The bulk slots that a circuit takes of the links of its route: a tree record's circuit leads to its parent's node (R325). -/
def Circuit.slots (c : Circuit) : Nat := if c.tree && c.parent.isNone then 0 else c.rate

/-- Whether a circuit crosses a link between routers: its ends lie in different groups (R321, R325). -/
def Circuit.crosses (c : Circuit) : Bool :=
  if c.tree then c.parent.any (fun p => p / 4 != c.src / 4) else c.src / 4 != c.dst / 4

/-- Whether a circuit's slots are on the links: installed, or being torn down. -/
def CircPhase.installed : CircPhase → Bool
  | .asking => false
  | .ready _ _ => false
  | .refused _ _ => false
  | _ => true

/-- Whether a circuit exists between routers. -/
def CircPhase.stands : CircPhase → Bool
  | .up => true
  | .closing _ _ => true
  | .closed _ _ => true
  | _ => false

/-- The bulk slots of a lea's circuits. -/
def State.bulkUsed (s : State) (lea : Nat) : Nat :=
  ((s.circuits.filter (fun c => c.lea == lea && c.phase.installed)).map Circuit.slots).sum

/-- Whether Harbour refuses a change of a lea: some link of a route would pass the lea's budget. Which links a route shares
with the lea's other circuits is Harbour's choice, and whether the port of a group is a link is open (R321, R325; logs 7,
58). -/
def State.refuses (s : State) (lea : Nat) (parts : List Circuit) : Bool :=
  match s.lea lea with
  | some l => decide (l.bulk < s.bulkUsed lea + (parts.map Circuit.slots).sum)
      && (parts.any (fun c => c.crosses && decide (l.bulk < c.slots)) || (Config.freeWord s.free).getLsbD 0)
  | none => true

/-- The order in which reduction slots are granted: tide, GID, core, tree index (R295). -/
def Circuit.slotKey (c : Circuit) : List Nat := [c.reached, c.gid, c.src, c.srcIdx.getD 0]

/-- Whether one list of numbers comes before another of the same length. -/
def keyLess : List Nat → List Nat → Bool
  | a :: t, b :: u => decide (a < b) || (a == b && keyLess t u)
  | _, _ => false

/-- Whether a tree record is granted a reduction slot of its lea at its router (R295). -/
def State.grants (s : State) (c : Circuit) : Bool :=
  let router (x : Circuit) : Bool := x.tree && x.lea == c.lea && x.src / 4 == c.src / 4 && x.id != c.id
  let slots := ((List.range 4).filter (fun i => (s.core (c.src / 4 * 4 + i)).lea == some c.lea)).length
  let used := (s.circuits.filter (fun x => router x && x.granted)).length
  let before := (s.circuits.filter (fun x => router x && keyLess x.slotKey c.slotKey && (match x.phase with
    | .ready k _ => decide (k < s.tide)
    | _ => false))).length
  decide (used + before < slots)

/-- A change waiting to be taken: its tide and its place in the order of arrival. -/
def Circuit.waits (c : Circuit) : Option (Nat × Nat) := match c.phase with
  | .ready k o => some (k, o)
  | .closing k o => some (k, o)
  | _ => none

/-- The contexts that wait for a circuit fail (R286, R302, R325). -/
def State.failEnds (s : State) (err : BitVec 8) (c : Circuit) : State :=
  [c.src, c.dst].foldl (fun s x => match s.running x c.lea c.gid with
    | some (d, _) => (match d.wait with
      | .join _ _ (some id) => if id = c.id then s.dFail x err d.pc else s
      | _ => s)
    | none => s) s

/-- The contexts whose unbinding waits for a circuit's teardown fail: it is refused (R325). -/
def State.failUnjoins (s : State) (c : Circuit) : State :=
  [c.src, c.dst].foldl (fun s x => match s.running x c.lea c.gid with
    | some (d, _) => (match d.wait with
      | .unjoin _ _ id true => if id = c.id then s.dFail x 0x0B d.pc else s
      | _ => s)
    | none => s) s

/-- Whether nothing of a change is gone around a circuit: both ends of a channel, or the records that a tree record names. -/
def State.whole (s : State) (c : Circuit) : Bool :=
  if c.tree then c.links.all (fun x => s.circuits.any (fun y => y.tree && c.with y && y.src == x))
  else c.srcIdx.isSome && c.dstIdx.isSome

/-- A change ends before it is installed, and those that wait for it fail: with 0x0E where a part is gone because its context
stopped, with 0x0B where its entries do not all arrive (R302, R325; log 76). -/
def State.breakChange (s : State) (err : BitVec 8) (parts : List Circuit) : State :=
  parts.foldl (State.failEnds · err) { s with circuits := s.circuits.filter (fun x => !parts.contains x) }

/-- The changes of a lea that Harbour has taken in the present tide. -/
def State.changesTaken (s : State) (lea : Nat) : Nat :=
  (s.circuits.filterMap (fun x => match x.phase with
    | .decided t o => if x.lea = lea ∧ t = s.tide then some o else none
    | .closed t o => if x.lea = lea ∧ t = s.tide then some o else none
    | .refused t o => if x.lea = lea ∧ t = s.tide then some o else none
    | _ => none)).dedup.length

/-- Parts of a change in a new phase. -/
def State.setPhase (s : State) (parts : List Circuit) (p : CircPhase) (granted : Circuit → Bool) : State :=
  { s with circuits := s.circuits.map (fun x => if parts.contains x then { x with phase := p, granted := granted x } else x) }

/-- CIRCUIT_DECIDE (R325): at a tide boundary Harbour takes a lea's changes in order of arrival, at most four a tide. -/
def execCircuitDecide (id : Nat) (s : State) : Out1 :=
  .next (match s.circuits.find? (fun c => c.id == id) with
    | none => s
    | some c =>
      let parts := if c.tree then s.circuits.filter (fun x => x.tree && c.with x) else [c]
      match c.waits with
      | none => s
      | some (k, o) =>
        if s.tideSlot ≠ 0 ∨ s.tide ≤ k ∨ 4 ≤ s.changesTaken c.lea
            ∨ s.circuits.any (fun x => x.lea == c.lea && x.waits.any (fun w => decide (w.1 < s.tide ∧ w.2 < o))) then s
        else
          match c.phase with
          | .closing _ _ => s.setPhase [c] (.closed s.tide o) (fun x => x.granted)
          | _ =>
            let s1 : State := { s with free := s.free + 1 }
            if !parts.all s.whole then s.breakChange 0x0E parts
            else if s.refuses c.lea parts then
              parts.foldl (State.failEnds · 0x0B) (s1.setPhase parts (.refused s.tide o) (fun _ => false))
            else s1.setPhase parts (.decided s.tide o) (fun x => x.tree && s.grants x))

/-- An end of a circuit that is gone: the end that asked for it is unbound and goes on; another end's record stays, without
a circuit, and what it has outstanding fails (R286, R302). -/
def State.endDown (s : State) (c : Circuit) (core : Nat) (idx : Option Nat) : State :=
  match s.running core c.lea c.gid, idx with
  | some (d, _), some i =>
    if d.wait = .unjoin c.tree i c.id true then s.dNext core (fun d => d.unbind c.tree i)
    else
      let mine := (d.circuitOf c.tree i).any (fun x => x.1 == c.id)
      if !mine then s
      else
        let hit := d.ops.find? (fun o => o.chan == i && (if c.tree then o.kind == 3 else (o.kind == 0 || o.kind == 1 || o.kind == 4)))
        match hit with
        | some o => s.dFail core 0x0E o.pc
        | none => s.modDor core (fun d =>
            if c.tree then { d with trees := d.trees.set i ((d.trees.getD i none).map (fun t => { t with up := false })) }
            else { d with chans := d.chans.set i (match d.chans.getD i .unbound with
              | .bound p dir x k _ => .bound p dir x k false
              | y => y) })
  | _, _ => s

/-- A circuit gone from the routers: its ends, or the members that its tree record links (R286, R287, R302). -/
def State.dropCircuit (s : State) (c : Circuit) : State :=
  let s1 : State := { s with circuits := s.circuits.filter (fun x => x.id != c.id) }
  if c.tree then
    c.links.foldl (fun s x => match s.treeNode c.with x with
      | some y => s.endDown y x y.srcIdx
      | none => s) (s1.endDown c c.src c.srcIdx)
  else (s1.endDown c c.src c.srcIdx).endDown c c.dst c.dstIdx

/-- The dies that a circuit touches: those on the routes between its ends, or between its core and those that its tree record
names (R324, R425). -/
def Circuit.dies (c : Circuit) : List Nat :=
  if c.tree then dieOf c.src :: c.links.flatMap (fun x => dieRoute (dieOf c.src) (dieOf x))
  else dieRoute (dieOf c.src) (dieOf c.dst)

/-- Whether a replay held some boundary between dies of a circuit in a slot (R223). -/
def State.heldIn (s : State) (c : Circuit) (slot : Nat) : Bool :=
  let pairs := if c.tree then c.links.map (fun x => (dieOf c.src, dieOf x)) else [(dieOf c.src, dieOf c.dst)]
  pairs.any (fun p => (boundaries (dieRoute p.1 p.2)).any (fun l =>
    s.replays.any (fun r => r.1 == l && decide (slot < r.2 ∧ r.2 ≤ slot + 4096))))

/-- Whether entries of a change decided in a tide did not all arrive: a die of its route does not work, or a replay held the route
through the configuration slots of one of its two tides (R223, R325; log 86). -/
def State.entriesLost (s : State) (c : Circuit) (t : Nat) : Bool :=
  c.dies.any (fun d => !s.dieUp d) || s.heldIn c (4096 * t + 15) || s.heldIn c (4096 * (t + 1) + 15)

/-- An end of a circuit that is now up: the DJOIN completes (R286, R287). -/
def State.endUp (s : State) (c : Circuit) (core : Nat) (idx : Option Nat) : State :=
  match s.running core c.lea c.gid, idx with
  | some (d, m), some i =>
    match d.wait with
    | .join r _ (some id) =>
      if id ≠ c.id then s
      else s.dNext core (fun d =>
        if c.tree then
          { d with
            trees := d.trees.set i (some { parent := r.parent, kids := r.kids, granted := c.granted, rounds := 0, circuit := c.id,
                                           up := true })
            endpt := d.endpt || !c.granted }
        else
          let peer := (m.rankOf (if core = c.src then c.dst else c.src)).getD r.peer
          { d with chans := d.chans.set i (.bound peer r.send c.id 0 true) })
    | _ => s
  | _, _ => s

/-- CIRCUIT_SWITCH (R325): two boundaries after the decision, every router switches; a pending table whose entries did not all
arrive is not switched, and a circuit whose teardown fails so stays, to be taken down by a later change (log 86). -/
def execCircuitSwitch (id : Nat) (s : State) : Out1 :=
  .next (match s.circuits.find? (fun c => c.id == id) with
    | none => s
    | some c =>
      if s.tideSlot ≠ 0 then s
      else
        match c.phase with
        | .decided t _ =>
          if s.tide < t + 2 then s
          else if !(s.circuits.filter (fun x => x.tree == c.tree && c.with x)).all s.whole then
            s.breakChange 0x0E (s.circuits.filter (fun x => x.tree == c.tree && c.with x))
          else if (s.circuits.filter (fun x => x.tree == c.tree && c.with x)).any (s.entriesLost · t) then
            s.breakChange 0x0B (s.circuits.filter (fun x => x.tree == c.tree && c.with x))
          else
            let s1 : State := { s with circuits := s.circuits.map (fun (x : Circuit) => if x.id = id then { x with phase := .up, old := [] } else x) }
            let s2 := s1.endUp c c.src c.srcIdx
            let s3 := if c.tree then s2 else s2.endUp c c.dst c.dstIdx
            (s3.circuits.filter (fun x => c.old.contains x.id)).foldl State.dropCircuit s3
        | .closed t o =>
          if s.tide < t + 2 then s
          else if s.entriesLost c t then (s.setPhase [c] (.closing s.tide o) (fun x => x.granted)).failUnjoins c
          else s.dropCircuit c
        | .refused t _ => if s.tide ≤ t then s else { s with circuits := s.circuits.filter (fun x => x.id != id) }
        | _ => s)

/-- DJOIN_TIMEOUT (R286, R287): the peer has not asked within TMO. -/
def execDjoinTimeout (core : Nat) (s : State) : Out1 :=
  .next (match s.runningAt core with
    | none => s
    | some (_, d, _) =>
      match d.wait with
      | .join _ start asked =>
        let alone := match asked with
          | none => true
          | some id => s.circuits.any (fun c => c.id == id && c.phase == .asking)
        if d.tmo = 0 ∨ s.dElapsed d start < d.tmo ∨ !alone then s else s.dFail core 0x08 d.pc
      | _ => s)

/-! ## Data movement (R285, R290, R300, R301) -/

/-- An asynchronous instruction completes (R283). -/
def State.dDone (s : State) (core num : Nat) : State :=
  (s.modDor core (fun d =>
    match d.ops.find? (fun o => o.num == num) with
    | some o => { (d.addCe o.cnt) with ops := d.ops.filter (fun x => x.num != num) }
    | none => d)).workedOn core

/-- An outstanding instruction changed. -/
def State.modOp (s : State) (core num : Nat) (f : DOp → DOp) : State :=
  s.modDor core (fun d => { d with ops := d.ops.map (fun o => if o.num = num then f o else o) })

/-- The bytes of the current piece: pieces of 4 KiB (R301). -/
def DOp.piece (o : DOp) : Nat := min 4096 (o.len - o.done)

/-- The first byte of a piece that is held, for reading or writing. -/
def State.pieceHeld (s : State) (core : Nat) (b : DBuf) (o n : Nat) (need : List Right) : Option (Nat × Place) :=
  (List.range n).findSome? (fun i => match s.bufPlace core b (o + i) need with
    | .at _ => none
    | p => some (o + i, p))

/-- Whether a piece's destination holds a pending word, which the engine waits for (R26, R230). -/
def State.piecePending (s : State) (core : Nat) (b : DBuf) (o n : Nat) : Bool :=
  (List.range n).any (fun i => match s.bufPlace core b (o + i) [.w] with
    | .at x => s.mem.isPending (dwordOf x)
    | _ => false)

/-- The translation buffer after a piece (R389). -/
def State.usePiece (s : State) (core : Nat) (b : DBuf) (o n : Nat) (need : List Right) : State :=
  s.usePages core ((s.core core).lea.getD 0) b.space b.die need ((List.range n).map (fun i => b.base + o + i))

/-- Whether a member of the run of a core's context has still to launch its own: it does not run the group and its last run was over
before this one began, so nothing it does before its COLRUN can have been waited for (R220; log 83). -/
def State.awaitsLaunch (s : State) (core : Nat) : Bool :=
  match s.runningAt core with
  | some (lea, d, m) => m.list.any (fun c =>
      s.dieUp (dieOf c) && (s.running c lea d.gid).isNone && decide ((s.dorOf c lea).ended ≤ d.began))
  | none => false

/-- Whether the accesses of every participant of a core's run before its COLRUN have been performed, of one too whose core has gone to
another lea: the events of the collective come after them (R220; log 83). -/
def State.edgesDone (s : State) (core : Nat) : Bool :=
  !s.awaitsLaunch core && (match s.runningAt core with
    | some (lea, _, m) => m.list.all (fun c => s.earlierDone (s.dorOf c lea).edge.1 (s.dorOf c lea).edge.2 true)
    | none => true)

/-- What the engines of a core's group have delivered, in memory before the group's next events (R283, R300, R306; log 50). -/
def State.flushGroup (s : State) (core : Nat) : State :=
  (s.groupCores ((s.core core).lea.getD 0) (s.dor core).gid).foldl (fun s p => s.flushLate p.1) s

/-- Bytes delivered into a buffer: in memory now, or, of an instruction's last piece in commons or HBM, perhaps later, but before the
access of a participant to such a buffer (R220, R306; log 50). -/
def State.deliver (s : State) (core : Nat) (b : DBuf) (o : Nat) (l : List (Byte × Bool)) (last : Bool) : State :=
  let s1 := { s with free := s.free + 1 }
  if last && (b.space == 3 || b.space == 4) && (Config.freeWord s.free).getLsbD 0 then
    s1.modDor core (fun d => { d with late := d.late ++ s.bufBytes core b o l })
  else s1.bufWrite core b o l

/-- The accesses of HBM that n bytes of a buffer of a core's context take (R326). -/
def State.pieceUnits (s : State) (core : Nat) (b : DBuf) (o n : Nat) : List Nat :=
  ((s.bufFlats core ((s.core core).lea.getD 0) { b with base := b.base + o, len := n }).flatMap (fun r => hbmUnits r.1 r.2)).dedup

/-- Whether the accesses of HBM of a piece that have to be made before it goes on are over (R326). -/
def DFlow.served (f : DFlow) (now : Nat) : Bool := f.wants.isEmpty && decide (f.due ≤ now)

/-- The accesses of HBM of a piece begun that have service slots now; they are over 96 slots later (R326). -/
def State.flowOn (s : State) (lea : Nat) (f : DFlow) : State × DFlow :=
  let p := f.wants.foldl (fun (p : State × List Nat) a =>
    if p.1.spareService lea (channelOf a) then (p.1.takeService (channelOf a), p.2) else (p.1, p.2 ++ [a])) (s, [])
  (p.1, { f with wants := p.2, due := if p.2.length < f.wants.length then s.now + 96 else f.due })

/-- A piece on its way from one core to another: its source is read, it crosses, a tide later for each replay in its way, and its
destination is written; the last component says whether it is there (R223, R301, R326). -/
def State.flowPiece (s : State) (lea : Nat) (f : Option DFlow) (reads writes : List Nat) (a b : Nat) : State × DFlow × Bool :=
  let (s1, g) : State × DFlow := match f with
    | some ⟨w, t, some k⟩ => (s, ⟨w, t, some k⟩)
    | _ =>
      let (s1, g) := s.flowOn lea (f.getD ⟨reads, s.now, none⟩)
      (s1, if g.served s.now then ⟨writes, g.due, some g.due⟩ else g)
  if g.sent.any (fun t => s.crossed t (dieOf a) (dieOf b)) then
    let (s2, h) := s1.flowOn lea g
    (s2, h, h.served s.now)
  else (s1, g, false)

/-- Whether a piece between two buffers may be on its way: nothing holds it (R26, R220, R301). -/
def State.pieceReady (s : State) (src : Nat) (x : DBuf) (xo : Nat) (into : Nat) (y : DBuf) (yo n : Nat) : Bool :=
  s.edgesDone src && (s.dor src).park.isNone && (s.dor into).park.isNone && (s.pieceHeld src x xo n [.r]).isNone
    && (s.pieceHeld into y yo n [.w]).isNone && !s.piecePending into y yo n

/-- A piece moved between buffers; poison is noted by both contexts (R273, R301). -/
def State.movePiece (s : State) (src : Nat) (x : DBuf) (xo : Nat) (into : Nat) (y : DBuf) (yo n : Nat) (last : Bool) : State :=
  let s0 := s.flushGroup src
  let l := s0.bufRead src x xo n
  let bad := l.any (fun p => p.2)
  let s1 := ((({ s0 with free := s0.free + n }.deliver into y yo l last).usePiece src x xo n [.r])).usePiece into y yo n [.w]
  let note (d : Dorent) : Dorent := { d with psn := d.psn || bad }
  (s1.modDor src note).modDor into note

/-- The two ends of a transfer on a channel: sender core and instruction, receiver core and instruction, once both have
issued (R286). -/
def State.pairOf (s : State) (core : Nat) (d : Dorent) (o : DOp) : Option (Nat × DOp × Nat × DOp) :=
  match d.chans.getD o.chan .unbound with
  | .bound _ _ id _ true =>
    match s.circuits.find? (fun c => c.id == id && !c.tree && c.phase == .up) with
    | none => none
    | some c =>
      let other := if o.kind = 0 then c.dst else c.src
      let idx := (if o.kind = 0 then c.dstIdx else c.srcIdx).getD 0
      match (s.dor other).ops.find? (fun e => e.kind == 1 - o.kind && e.chan == idx && e.seq == o.seq) with
      | some e => if o.kind = 0 then some (core, o, other, e) else some (other, e, core, o)
      | none => none
  | _ => none

/-- An instruction's piece has moved: it completes with its last (R283). -/
def State.opMoved (s : State) (core : Nat) (o : DOp) (n : Nat) : State :=
  if o.done + n = o.len then s.dDone core o.num else s.modOp core o.num (fun o => { o with done := o.done + n, flow := none })

/-- The next piece of a transfer between members goes on its way, and moves once it is there (R223, R285, R286, R326). -/
def State.stepTransfer (s : State) (a : Nat) (x : DOp) (b : Nat) (y : DOp) : State :=
  if x.len ≠ y.len then (s.dFail a 0x09 x.pc).dFail b 0x09 y.pc
  else
    match (s.dor a).bufs.getD x.buf none, (s.dor b).bufs.getD y.buf none with
    | some p, some q =>
      if !s.pieceReady a p (x.off + x.done) b q (y.off + y.done) y.piece then s
      else
        let (s1, f, go) := s.flowPiece ((s.core b).lea.getD 0) y.flow (s.pieceUnits a p (x.off + x.done) y.piece)
          (s.pieceUnits b q (y.off + y.done) y.piece) a b
        if go then
          ((s1.movePiece a p (x.off + x.done) b q (y.off + y.done) y.piece (y.done + y.piece == y.len)).opMoved a x y.piece).opMoved b y
            y.piece
        else s1.modOp b y.num (fun o => { o with flow := some f })
    | _, _ => s

/-- The next piece of a DCOPY (R285, R326). -/
def State.stepCopy (s : State) (c : Nat) (o : DOp) : State :=
  match (s.dor c).bufs.getD o.sbuf none, (s.dor c).bufs.getD o.buf none with
  | some p, some q =>
    if !s.pieceReady c p (o.soff + o.done) c q (o.off + o.done) o.piece then s
    else
      let (s1, f, go) := s.flowPiece ((s.core c).lea.getD 0) o.flow (s.pieceUnits c p (o.soff + o.done) o.piece)
        (s.pieceUnits c q (o.off + o.done) o.piece) c c
      if go then (s1.movePiece c p (o.soff + o.done) c q (o.off + o.done) o.piece (o.done + o.piece == o.len)).opMoved c o o.piece
      else s1.modOp c o.num (fun o => { o with flow := some f })
  | _, _ => s

/-! ## Reduction (R104, R288, R296) -/

/-- The format of a buffer's elements, for the floating codes (R279). -/
def dFmt (fmt : Nat) : Fmt :=
  match fmt with
  | 0 => fp32
  | 1 => bf16
  | 2 => fp16
  | 3 => fp64
  | 7 => e4m3
  | _ => e5m2

/-- Whether a format's elements are integers. -/
def dInt (fmt : Nat) : Bool := fmt == 4 || fmt == 5

/-- The carry format of floating elements (R288). -/
def dCarry (fmt : Nat) : Fmt := if fmt = 3 then fp64 else fp32

/-- An element widened exactly to the carry format (R104, R288). -/
def dWiden (fmt : Nat) (nsr : Bool) (bits : Nat) : Nat :=
  if dInt fmt then bits else ((dCarry fmt).enc true false .rne ((dFmt fmt).dec nsr false bits)).bits

/-- One combination of partials (R102, R104, R288). -/
def dCombine (fmt op x y : Nat) : Nat :=
  if dInt fmt then
    let w := 8 * dElem fmt
    let lt := (BitVec.ofNat w x).slt (BitVec.ofNat w y)
    match op with
    | 0 => (x + y) % 2 ^ w
    | 1 => if lt then y else x
    | _ => if lt then x else y
  else
    let f := dCarry fmt
    let u := f.dec true false x
    let v := f.dec true false y
    match op with
    | 0 => (fpAdd f false .rne u v).bits
    | 1 => (f.enc true false .rne (u.maxOf v)).bits
    | _ => (f.enc true false .rne (u.minOf v)).bits

/-- The root's final rounding to the buffer's format (R288). -/
def dRound (fmt : Nat) (nsr : Bool) (bits : Nat) : Nat :=
  if dInt fmt then bits else ((dFmt fmt).enc nsr false .rne ((dCarry fmt).dec true false bits)).bits

/-- The DRED of a round on a tree at a core. -/
def Dorent.redOp (d : Dorent) (tree seq : Nat) : Option DOp := d.ops.find? (fun o => o.kind == 3 && o.chan == tree && o.seq == seq)

/-- The elements of a piece: what 4 KiB of the carry format holds (R296, R301). -/
def DOp.elems (o : DOp) (fmt : Nat) : Nat :=
  let carry := if dInt fmt then dElem fmt else if fmt = 3 then 8 else 4
  min (4096 / carry) ((o.len - o.done) / dElem fmt)

/-- What a child's node offers for a round: its core and instruction with a piece; that the round is over for it; or nothing
yet. -/
inductive KidOffer where
  | piece (core : Nat) (o : DOp) (p : List PWord)
  | over
  | wait
  deriving DecidableEq, Repr

/-- A child's offer for a round (R288). -/
def State.kidOffer (s : State) (lea gid tree seq core : Nat) : KidOffer :=
  match s.running core lea gid with
  | none => .wait
  | some (d, _) =>
    match d.trees.getD tree none with
    | none => .wait
    | some t =>
      match d.redOp tree seq with
      | some o => (match o.part with
        | some p => .piece core o p
        | none => .wait)
      | none => if seq < t.rounds then .over else .wait

/-- Every member joined to a tree record fails; PC is at its DRED of the round, where it has one outstanding (R282, R288). -/
def State.failRound (s : State) (lea gid tree seq core : Nat) (m : DMember) (err : BitVec 8) : State :=
  (s.joined (fun c => c.lea == lea && c.gid == gid && c.srcIdx == some tree && c.phase.stands) m.list m.list.length [core]).foldl (fun s x =>
    match s.running x lea gid with
    | some (d, _) => s.dFail x err ((d.redOp tree seq).elim d.pc (fun o => o.pc))
    | none => s) s

/-- An element of a node: its own contribution, then the children's partials in ascending mask bit; undefined where one is
poisoned or the members' formats differ (R104, R288, R422). -/
def nodeElem (fmt op : Nat) (own : PWord) (kids : List (Option PWord)) (fresh : Word) : PWord :=
  let bad := own.bad || kids.any (fun k => k.any (fun w => w.bad))
  if bad then ⟨fresh, true⟩
  else if kids.any (fun k => k.isNone) then ⟨fresh, false⟩
  else ⟨BitVec.ofNat 64 (kids.foldl (fun v k => dCombine fmt op v ((k.map (fun w => w.val.toNat)).getD 0)) own.val.toNat), false⟩

/-- The offers of a node's children, by mask bit. -/
def State.kidOffers (s : State) (lea gid : Nat) (m : DMember) (t : DTree) (tree seq : Nat) : List KidOffer :=
  t.kids.filterMap (fun k => (k.bind m.core).map (fun c => s.kidOffer lea gid tree seq c))

/-- A child's piece accepted by its parent's node (R288). -/
def State.acceptKid (s : State) (k : KidOffer) : State :=
  match k with
  | .piece c o p =>
    let b := match (s.dor c).bufs.getD o.buf none with
      | some b => dElem b.fmt
      | none => 1
    if o.len ≤ o.done + p.length * b ∨ p.isEmpty then s.dDone c o.num
    else s.modOp c o.num (fun o => { o with done := o.done + p.length * b, part := none, flow := none })
  | _ => s

/-- Whether a child's piece has come to its parent's node (R223, R226). -/
def State.kidHere (s : State) (core : Nat) (k : KidOffer) : Bool :=
  match k with
  | .piece c e _ => e.flow.any (fun f => f.sent.any (fun t => s.crossed t (dieOf c) (dieOf core)))
  | .over => true
  | .wait => false

/-- The values of the next n elements of a node: those of its own chunk with the children's partials (R288). -/
def State.nodeVals (s : State) (core : Nat) (m : DMember) (b : DBuf) (op pos n : Nat) (offers : List KidOffer) : List PWord :=
  let size := dElem b.fmt
  let bytes := s.bufRead core b pos (n * size)
  let same := offers.all (fun k => match k with
    | .piece c e _ => ((s.dor c).bufs.getD e.buf none).any (fun x => x.fmt == b.fmt)
    | _ => false)
  (List.range n).map (fun i =>
    let l := (bytes.drop (i * size)).take size
    let own : PWord := ⟨BitVec.ofNat 64 (dWiden b.fmt m.nsr (bytesVal l)), l.any (fun p => p.2)⟩
    nodeElem b.fmt op own (offers.map (fun k => match k with
      | .piece _ _ p => if same then p[i]? else none
      | _ => none)) (s.undef (s.core core).lea (s.free + n * size + i)))

/-- A node's piece combined: a root writes the values, another node sends them to its parent's (R288, R296). -/
def State.nodeMove (s : State) (core : Nat) (m : DMember) (t : DTree) (o : DOp) (b : DBuf) (offers : List KidOffer) (n : Nat) : State :=
  let s := s.flushGroup core
  let size := dElem b.fmt
  let pos := o.off + o.done
  let vals := s.nodeVals core m b o.op pos n offers
  let bad := vals.any (fun v => v.bad)
  let s1 := (offers.foldl State.acceptKid { s with free := s.free + n * size + n }).modDor core (fun d => { d with psn := d.psn || bad })
  let s2 := s1.usePiece core b pos (n * size) [.r]
  if t.parent.isSome then s2.modOp core o.num (fun o => { o with part := some vals, flow := some ⟨[], s.now, some s.now⟩ })
  else
    let out := vals.flatMap (fun v =>
      (List.range size).map (fun i => (BitVec.ofNat 8 (dRound b.fmt m.nsr v.val.toNat / 256 ^ i), v.bad)))
    let s3 := (s2.deliver core b pos out (decide (o.len ≤ o.done + n * size))).usePiece core b pos (n * size) [.w]
    if o.len ≤ o.done + n * size then s3.dDone core o.num
    else s3.modOp core o.num (fun o => { o with done := o.done + n * size, flow := none })

/-- The next piece of a node: once the children's pieces have come, its own chunk is read, and of a root the places of the result are
written (R288, R296, R326). -/
def State.nodePiece (s : State) (lea core : Nat) (m : DMember) (d : Dorent) (t : DTree) (o : DOp) (b : DBuf) : State :=
  let tree := o.chan
  let offers := s.kidOffers lea d.gid m t tree o.seq
  let ops := offers.filterMap (fun k => match k with
    | .piece _ e _ => some e
    | _ => none)
  if o.part.isSome || !s.edgesDone core || !offers.all (s.kidHere core) then s
  else if ops.any (fun e => e.len != o.len) then s.failRound lea d.gid tree o.seq core m 0x09
  else if ops.any (fun e => e.op != o.op) then s.failRound lea d.gid tree o.seq core m 0x0D
  else
    let n := o.elems b.fmt
    let size := dElem b.fmt
    let pos := o.off + o.done
    if (s.pieceHeld core b pos (n * size) [.r]).isSome
        || (t.parent.isNone && ((s.pieceHeld core b pos (n * size) [.w]).isSome || s.piecePending core b pos (n * size))) then s
    else
      let units := s.pieceUnits core b pos (n * size)
      let (s1, f, go) := s.flowPiece lea o.flow units (if t.parent.isNone then units else []) core core
      if go then s1.nodeMove core m t o b offers n else s1.modOp core o.num (fun o => { o with flow := some f })

/-- The node of an outstanding DRED takes its next piece (R288). -/
def State.stepNode (s : State) (core : Nat) (o : DOp) : State :=
  match s.runningAt core with
  | some (lea, d, m) =>
    match d.trees.getD o.chan none, d.bufs.getD o.buf none with
    | some t, some b => if t.up then s.nodePiece lea core m d t o b else s
    | _, _ => s
  | none => s

/-- What a core's engine has delivered and what is not in memory yet comes there, now or later (R306; log 50). -/
def State.drainLate (s : State) (core : Nat) : State :=
  if (s.dor core).late.isEmpty then s
  else if (Config.freeWord s.free).getLsbD 0 then { s.flushLate core with free := s.free + 1 } else { s with free := s.free + 1 }

/-- Whether an earlier transfer on an instruction's channel is outstanding: a circuit keeps its order (R223, R286). -/
def Dorent.behind (d : Dorent) (o : DOp) : Bool := d.ops.any (fun e => e.kind == o.kind && e.chan == o.chan && decide (e.num < o.num))

/-- DORENT_OP_COMPLETE (R283, R285, R288, R306): an outstanding instruction's piece goes on, and it completes with its last; a circuit's
flits use slots 16 and later (R325). Where none of that number is outstanding, what the engine delivered last may come to memory. -/
def execDorentOpComplete (core op : Nat) (s : State) : Out1 :=
  .next (if !(s.dor core).ops.any (fun o => o.num == op) then (if s.dieUp (dieOf core) then s.drainLate core else s)
    else match s.runningAt core with
    | none => s
    | some (_, d, _) =>
      if d.park.isSome || !s.dieUp (dieOf core) then s
      else
        match d.ops.find? (fun o => o.num == op) with
        | none => s
        | some o =>
          match o.kind with
          | 2 => s.stepCopy core o
          | 3 => if (d.trees.getD o.chan none).any (fun t => t.granted) || decide (s.tideSlot < 16) then s else s.stepNode core o
          | 4 => s
          | _ =>
            if s.tideSlot < 16 || d.behind o then s
            else match s.pairOf core d o with
              | some (a, x, b, y) => s.stepTransfer a x b y
              | none => s)

/-- The oldest outstanding DRED on a tree. -/
def Dorent.firstRed (d : Dorent) (tree : Nat) : Option DOp := d.ops.find? (fun o => o.kind == 3 && o.chan == tree)

/-- REDUCTION_SLOT_COMBINE (R295, R296): a granted slot combines a node's next piece. -/
def execReductionSlotCombine (core tree : Nat) (s : State) : Out1 :=
  .next (match s.runningAt core with
    | none => s
    | some (_, d, _) =>
      if d.park.isSome || s.tideSlot < 16 || !s.dieUp (dieOf core) then s
      else
        match d.trees.getD tree none, d.firstRed tree with
        | some t, some o => if t.granted then s.stepNode core o else s
        | _, _ => s)

/-- DSIG_ARRIVE (R290, R297): after every earlier DSEND on the channel, the peer's counter is updated. A peer of a higher version ignores
it, and CATCH_UP_RECORD answers it with the record; one of a lower version takes the record first. -/
def execDsigArrive (core op : Nat) (s : State) : Out1 :=
  .next (match s.runningAt core with
    | none => s
    | some (lea, d, r) =>
      match d.ops.find? (fun o => o.num == op && o.kind == 4) with
      | none => s
      | some o =>
        if d.ops.any (fun e => e.kind == 0 && e.chan == o.chan && decide (e.num < o.num)) then s
        else
          match d.chans.getD o.chan .unbound with
          | .bound _ _ id _ true =>
            match s.circuits.find? (fun c => c.id == id) with
            | some c =>
              match s.running c.dst lea d.gid, s.heard lea core c.dst (op + 1) with
              | some (_, q), some m =>
                if r.ver.toNat < q.ver.toNat then s.dropMail m.id
                else if q.ver.toNat < r.ver.toNat then s
                else ((s.dropMail m.id).modDor c.dst (fun e => e.addN o.ctr o.amt)).dDone core op
              | _, _ => s
            | none => s
          | _ => s)

/-- The first byte that holds an outstanding instruction of a context: its segment offset and its place (R301). -/
def State.dHeld (s : State) (core : Nat) (d : Dorent) (o : DOp) : Option (Nat × Place) :=
  let look (k off : Nat) (n : Nat) (need : List Right) : Option (Nat × Place) := match d.bufs.getD k none with
    | some b => (s.pieceHeld core b off n need).map (fun p => (b.off + p.1, p.2))
    | none => none
  let started : Bool := match o.kind with
    | 0 => (s.pairOf core d o).isSome
    | 1 => (s.pairOf core d o).isSome
    | _ => true
  if !started then none
  else
    match o.kind with
    | 0 => look o.buf (o.off + o.done) o.piece [.r]
    | 1 => look o.buf (o.off + o.done) o.piece [.w]
    | 2 => (look o.sbuf (o.soff + o.done) o.piece [.r]).or (look o.buf (o.off + o.done) o.piece [.w])
    | 3 =>
      let root := match d.trees.getD o.chan none with
        | some t => t.parent.isNone
        | none => false
      if o.part.isSome then none
      else (look o.buf (o.off + o.done) o.piece [.r]).or (if root then look o.buf (o.off + o.done) o.piece [.w] else none)
    | _ => none

/-- DORENT_PARK (R301, R387): a piece is held at the group port, and the context parks. -/
def execDorentPark (core : Nat) (s : State) : Out1 :=
  .next (match s.runningAt core with
    | none => s
    | some (lea, d, _) =>
      if d.park.isSome then s
      else
        match d.ops.findSome? (s.dHeld core d) with
        | some (_, .page f) => (s.modDor core (fun d => { d with park := some (some f) })).logPage lea f
        | some (off, .fault c) =>
          let s1 := s.modDor core (fun d => { d with park := some none })
          (s1.headRecord core (some lea) d.owner .dorent 1 0 (BitVec.ofNat 8 c) 0 (BitVec.ofNat 64 off) (s1.dor core).status).logFault
            lea c off
        | _ => s)

/-! ## Timeouts and barriers (R289, R294) -/

/-- DORENT_TIMEOUT (R289): a DWAIT or DBAR has waited for its limit. -/
def execDorentTimeout (core : Nat) (s : State) : Out1 :=
  .next (match s.runningAt core with
    | none => s
    | some (_, d, _) =>
      let out (start tmo : Nat) (jump : Option Nat) : State :=
        if tmo = 0 ∨ s.dElapsed d start < tmo then s
        else match jump with
          | some t => s.dJump core t (fun d => d)
          | none => s.dFail core 0x07 d.pc
      match d.wait with
      | .count n thr start tmo jump => if thr ≤ (d.n.getD n 0).toNat then s else out start tmo jump
      | .barrier _ start tmo jump => out start tmo jump
      | _ => s)

/-- Whether every member of a version is in a wait that a test accepts, in that version. -/
def State.allIn (s : State) (lea gid : Nat) (r : DMember) (f : DWaiting → Bool) : Bool :=
  r.list.all (fun c => match s.running c lea gid with
    | some (d, q) => q.ver == r.ver && f d.wait
    | none => false)

/-- Whether an outstanding instruction can go on without an instruction that a member has still to issue: its events come before a
barrier that the member has reached (R300; log 85). -/
def State.opGoes (s : State) (lea core : Nat) (d : Dorent) (m : DMember) (o : DOp) : Bool :=
  match o.kind with
  | 2 => true
  | 3 =>
    let kind (c : Circuit) : Bool := c.lea == lea && c.gid == d.gid && c.srcIdx == some o.chan && c.phase.stands
    (s.joined kind m.list m.list.length [core]).all (fun x => match s.running x lea d.gid with
      | some (e, _) => (e.trees.getD o.chan none).any (fun t => decide (o.seq < t.rounds))
      | none => false)
  | 4 => !d.ops.any (fun e => e.kind == 0 && e.chan == o.chan && decide (e.num < o.num) && (s.pairOf core d e).isNone)
  | _ => (s.pairOf core d o).isSome

/-- Whether what a member sent in a slot can have come to every member of a version (R226). -/
def State.crossedAll (s : State) (r : DMember) (core sent : Nat) : Bool := r.list.all (fun c => s.crossed sent (dieOf core) (dieOf c))

/-- Whether a member's events before its barrier are done, and its message has come to where the barrier meets and on to every member
(R226, R300, R324; log 85). -/
def State.atBarrier (s : State) (lea gid : Nat) (r : DMember) (core : Nat) : Bool :=
  match s.running core lea gid with
  | some (d, m) => (s.heard lea core r.meet 0).any (fun e => e.sent.any (s.crossedAll r core)) && !d.ops.any (s.opGoes lea core d m)
  | none => false

/-- DBAR_COMPLETE (R289, R300): every member of a version has reached the same barrier. -/
def execDbarComplete (lea gid : Nat) (s : State) : Out1 :=
  .next ((s.groupCores lea gid).foldl (fun t p =>
    match p.2.1.wait with
    | .barrier k _ _ _ =>
      if p.2.2.list.all (s.atBarrier lea gid p.2.2) && s.allIn lea gid p.2.2 (fun w => match w with
          | .barrier j _ _ _ => j == k
          | _ => false)
      then t.dNext p.1 (fun d => d) else t
    | _ => t) s)

/-- CLOSING_BARRIER_DONE (R294): every member of a version has reached DHALT 0, and every context is Done. -/
def execClosingBarrierDone (lea gid : Nat) (s : State) : Out1 :=
  .next ((s.groupCores lea gid).foldl (fun t p =>
    match p.2.1.wait with
    | .closing _ =>
      if p.2.2.list.all (s.atBarrier lea gid p.2.2) && s.allIn lea gid p.2.2 (fun w => match w with
          | .closing _ => true
          | _ => false)
      then t.dStop p.1 .done 0 p.2.1.pc else t
    | _ => t) s)

/-- CLOSING_BARRIER_TIMEOUT (R294). -/
def execClosingBarrierTimeout (core : Nat) (s : State) : Out1 :=
  .next (match s.runningAt core with
    | none => s
    | some (_, d, _) =>
      match d.wait with
      | .closing start => if d.tmo = 0 ∨ s.dElapsed d start < d.tmo then s else s.dFail core 0x07 d.pc
      | _ => s)

/-! ## Agreement (R297-R299) -/

/-- The core of a round's coordinator (R298). -/
def DMember.coord (r : DMember) (att : Nat) : Nat := (r.core att).getD 0

/-- A version installed in a context: the record, its channels and trees unbound; a DCOPY goes on, and what used a channel is over
(R297). -/
def State.install (s : State) (core : Nat) (r : DMember) (f : Dorent → Dorent) : State :=
  ((s.leaveCircuits core).hush core false).dNext core (fun d => f { (d.setRecord r) with
    chans := List.replicate 8 .unbound, trees := List.replicate 4 none, ops := d.ops.filter (fun o => o.kind == 2), barriers := 0 })

/-- VER, RANK, SIZE and the outcome of a round (R299). -/
def Dorent.putOutcome (d : Dorent) (qa : Nat) (r : DMember) (out : Nat) : Dorent :=
  (d.putVersion qa r).setQ (qa + 3) (BitVec.ofNat 64 out)

/-- A core's record of another version: its rank in the list, or none. -/
def DMember.become (r : DMember) (core : Nat) (ver : BitVec 32) (l : List Nat) : DMember :=
  { r with ver := ver, size := l.length, list := l, rank := if l.contains core then some (l.idxOf core) else none }

/-- AGREE_VOTE_ARRIVE (R297, R298): a core's vote or join request reaches the coordinator; one of a lower version is answered
with the coordinator's record. One that comes while the coordinator is not in its own AGREE is held and counts in its later round of that
version, which is the model's choice (R299; log 106). -/
def execAgreeVoteArrive (core : Nat) (s : State) : Out1 :=
  .next (match s.runningAt core with
    | none => s
    | some (lea, d, r) =>
      match d.wait with
      | .agree qa t att vote tau false i =>
        let co := r.coord att
        if (s.heard lea core co 0).isNone then s
        else
        let s1 := s.modDor core (fun d => { d with wait := .agree qa t att vote tau true i })
        match ((s.dor co).record d.gid) with
        | none => s1
        | some q =>
          if q.ver ≠ r.ver ∨ (s.core co).lea ≠ some lea then s1
          else
            let is (a : Agreement) : Bool := a.lea == lea && a.gid == d.gid && a.ver == r.ver && a.coord == co
            let a := (s.agreements.find? is).getD ⟨lea, d.gid, r.ver, co, [], [], none⟩
            if a.decision.isSome then s1
            else
              let a1 := match r.rank with
                | some _ => { a with votes := a.votes.filter (fun v => v.1 != core) ++ [(core, vote)] }
                | none => { a with joins := a.joins.filter (fun v => v.2 != core) ++ [(s.now, core)] }
              { s1 with agreements := s.agreements.filter (fun x => !is x) ++ [a1] }
      | _ => s)

/-- Join requests in the order of R297: by slot, then by logical core index. -/
def insJoin (l : Lea) (x : Nat × Nat) : List (Nat × Nat) → List (Nat × Nat)
  | [] => [x]
  | y :: t => if keyLess [x.1, l.logical x.2] [y.1, l.logical y.2] then x :: y :: t else y :: insJoin l x t

/-- AGREE_DEADLINE (R299): the coordinator decides once every member has voted, or at tide τ + T. -/
def execAgreeDeadline (core : Nat) (s : State) : Out1 :=
  .next (match s.runningAt core with
    | none => s
    | some (lea, d, r) =>
      match d.wait, s.lea lea with
      | .agree _ t att _ tau true _, some l =>
        let is (a : Agreement) : Bool := a.lea == lea && a.gid == d.gid && a.ver == r.ver && a.coord == core
        match s.agreements.find? is with
        | none => s
        | some a =>
          let full := r.list.all (fun c => a.votes.any (fun v => v.1 == c))
          if r.coord att ≠ core ∨ a.decision.isSome ∨ !(full || decide (tau + t + d.parkedTides ≤ s.tide)) then s
          else
            let stay := r.list.filter (fun c => a.votes.any (fun v => v.1 == c && v.2))
            let come := (a.joins.foldl (fun acc x => insJoin l x acc) []).map (fun x => x.2)
            let a1 := { a with decision := some (stay ++ come, s.tide + t) }
            let s1 := { s with agreements := s.agreements.map (fun x => if is x then a1 else x) }
            ((a.votes.map (fun v => v.1)) ++ (a.joins.map (fun v => v.2))).foldl (fun s c =>
              s.dPost core c (.decision d.gid r.ver (stay ++ come) (s.tide + t))) s1
      | _, _ => s)

/-- The decision about a group's version that has come to a core from a coordinator: the member list and INSTALL (R298, R299, R324). One
that comes after its member's AGREE has ended stays for a later AGREE of that member at the same version and coordinator, which is the
model's choice (log 106). -/
def State.told (s : State) (lea gid : Nat) (ver : BitVec 32) (src core : Nat) : Option (List Nat × Nat) :=
  s.mail.findSome? (fun m => match m.msg with
    | .decision g v l i => if m.lea == lea && m.src == src && m.dst == core && g == gid && v == ver && s.arrives m then some (l, i) else none
    | _ => none)

/-- AGREE_DECISION_ARRIVE (R299): a context that is in the decision waits for INSTALL; one that voted to leave, or is not in
it, becomes Left, a candidate from then on (R275; log 32). -/
def execAgreeDecisionArrive (core : Nat) (s : State) : Out1 :=
  .next (match s.runningAt core with
    | none => s
    | some (lea, d, r) =>
      match d.wait with
      | .agree qa t att vote tau sent none =>
        match s.told lea d.gid r.ver (r.coord att) core with
        | none => s
        | some (l, i) =>
          if l.contains core then s.modDor core (fun d => { d with wait := .agree qa t att vote tau sent (some i) })
          else (s.modDor core (fun d => (d.putOutcome qa r 3).setRecord { r with rank := none })).dStop core .left 0 d.pc
      | _ => s)

/-- AGREE_INSTALL (R297, R299): at tide INSTALL the new version is in force. -/
def execAgreeInstall (core : Nat) (s : State) : Out1 :=
  .next (match s.runningAt core with
    | none => s
    | some (lea, d, r) =>
      match d.wait with
      | .agree qa _ att _ _ _ (some i) =>
        if s.tide < i then s
        else
          match s.told lea d.gid r.ver (r.coord att) core with
          | none => s
          | some (l, _) =>
            let r1 := r.become core (r.ver + 1) l
            s.install core r1 (fun d => d.putOutcome qa r1 0)
      | _ => s)

/-- AGREE_NO_DECISION (R299): tide τ + 3T has come with no decision. -/
def execAgreeNoDecision (core : Nat) (s : State) : Out1 :=
  .next (match s.runningAt core with
    | none => s
    | some (_, d, r) =>
      match d.wait with
      | .agree qa t _ _ tau _ none =>
        if s.tide < tau + 3 * t + d.parkedTides then s else s.dNext core (fun d => d.putOutcome qa r 1)
      | _ => s)

/-- Whether a context has a control message for a core: a request that names it, a barrier of its group, a signal, or a vote
to it as coordinator (R297). -/
def Dorent.speaksTo (d : Dorent) (r : DMember) (core : Nat) : Bool :=
  (match d.wait with
    | .join q _ _ => if q.tree then (q.parent :: q.kids).any (fun k => (k.bind r.core) == some core) else r.core q.peer == some core
    | .barrier _ _ _ _ => r.list.contains core
    | .closing _ => r.list.contains core
    | .agree _ _ att _ _ _ _ => r.coord att == core || r.list.contains core
    | _ => false)
  || d.ops.any (fun o => o.kind == 4 && (match d.chans.getD o.chan .unbound with
      | .bound p _ _ _ _ => r.core p == some core
      | _ => false))

/-- A record of a group on its way between two cores, or come (R297, R324). -/
def State.recordMail (s : State) (lea gid peer core : Nat) : Option (Mail × BitVec 32 × List Nat) :=
  s.mail.findSome? (fun m => match m.msg with
    | .record g v l => if m.lea == lea && m.src == peer && m.dst == core && g == gid then some (m, v, l) else none
    | _ => none)

/-- A record of a higher version installed in a context: its wait or round stops (R297, R299). -/
def State.catchUp (s : State) (core : Nat) (d : Dorent) (r1 : DMember) : State :=
  match d.wait with
  | .none => (s.install core r1 (fun x => { x with pc := d.pc })).modDor core (fun x => { x with pc := d.pc })
  | .agree qa _ _ _ _ _ _ => s.install core r1 (fun x => x.putOutcome qa r1 2)
  | _ => s.install core r1 (fun x => x)

/-- Whether a core of a lea holds a higher version of a group's record than a context, and one of the two has a message for the other
(R297). -/
def State.knowsMore (s : State) (lea core peer : Nat) (d : Dorent) (r : DMember) : Option DMember :=
  let e := s.dor peer
  match if (s.core peer).lea = some lea then e.record d.gid else none with
  | none => none
  | some q =>
    if r.ver.toNat < q.ver.toNat && (d.speaksTo r peer || (e.state == .running && e.gid == d.gid && e.speaksTo q core)) then some q
    else none

/-- CATCH_UP_RECORD (R297, R299, R324): a message of a higher version for a context, or the answer to its own of a lower version,
carries the other's record over the exchange plane; as it comes, the context's wait or round stops and it takes the record. -/
def execCatchUpRecord (core peer : Nat) (s : State) : Out1 :=
  .next (match s.runningAt core with
    | none => s
    | some (lea, d, r) =>
      match s.recordMail lea d.gid peer core with
      | some (m, v, l) =>
        if !s.arrives m then s
        else if v.toNat ≤ r.ver.toNat then s.dropMail m.id
        else (s.dropMail m.id).catchUp core d (r.become core v l)
      | none =>
        match s.knowsMore lea core peer d r with
        | some q => if 16 ≤ s.exchangeFlits peer (s.core peer).lea then s else s.dPost peer core (.record d.gid q.ver q.list)
        | none => s)

/-! ## COLLD's copy (R278) -/

/-- The place of a doubleword of a copy's source for its core: code and near HBM are behind translation (R278, R386). -/
def State.copyPlace (s : State) (core lea : Nat) (y : DCopy) (i : Nat) : Place :=
  let a := y.seg.base.toNat + y.off + 8 * i
  if y.seg.space = 7 ∨ y.seg.space = 4 then
    match s.lookUp core lea (dieOf core) a [if y.seg.space = 7 then .x else .r] with
    | .ok e => .at (e.host a)
    | .fault c => .fault c
    | .page f => .page f
  else s.placeOf core y.slot lea y.seg.space (dieOf core) a [.r]

/-- Whether an earlier store of the thread to the copied bytes is not yet performed, by whatever address (R278). -/
def State.copyWaits (s : State) (core lea : Nat) (y : DCopy) : Bool :=
  let h := s.homes core lea y.seg.space (dieOf core) (y.seg.base.toNat + y.off) (8 * y.words)
  s.outs.any (fun o => o.tid == y.tid && decide (o.id < y.id) && (match o.work with
    | .access x => x.parts.any (fun p => p.stage != .performed && homesMeet (s.homeWord o x.space x.die p) h)
    | .port => s.portTouches o h
    | _ => false))

/-- COLLD_COPY_DONE (R278, R326, R375): once its accesses of HBM are served the words are in the store, the context is Loaded and the
thread goes on, in whichever slot it is; a poisoned word leaves an undefined one (log 33). A read held at the port parks the thread's
access (R387, R405), and a slice in the save area is waited for. -/
def execColldCopyDone (core : Nat) (s : State) : Out1 :=
  .next (
    let d := s.dor core
    match d.copy, (s.core core).lea with
    | some y, some lea =>
      if y.parked.isSome || s.copyWaits core lea y || !s.dieUp (dieOf core) || (y.seg.space == 1 && (s.core core).slotSaved lea y.slot) then s
      else
        let places := (List.range y.words).map (fun i => (i, s.copyPlace core lea y i))
        match places.find? (fun p => match p.2 with
          | .at _ => false
          | _ => true) with
        | some (_, .page f) => (s.modDor core (fun d => { d with copy := some { y with parked := some (some f) } })).logPage lea f
        | some (i, .fault c) =>
          let off := y.off + 8 * i
          let tdp := if (s.slot core y.slot).tid = y.tid then (s.slot core y.slot).tdp else 0
          ((s.modDor core (fun d => { d with copy := some { y with parked := some none } })).parkRecord core (some lea) y.slot .thread 2 c
            y.pc (BitVec.ofNat 64 off) tdp).logFault lea c off
        | _ =>
          let units := (places.flatMap (fun p => match p.2 with
            | .at a => hbmUnits a 8
            | _ => [])).dedup
          let (s1, f) := s.flowOn lea (y.flow.getD ⟨units, s.now, none⟩)
          if !f.served s.now then s1.modDor core (fun d => { d with copy := some { y with flow := some f } })
          else
            let s2 := s1.flushFor core lea
            let words : List Word := places.map (fun p => match p.2 with
              | .at a => if s2.mem.isBad a then s2.undef (some lea) (s2.free + p.1) else BitVec.ofNat 64 (s2.mem.read a 8)
              | _ => 0)
            let s3 : State := { s2 with free := s2.free + y.words }.modDor core (fun d =>
              { d with store := (words.zipIdx.map (fun (p : Word × Nat) => (p.2, p.1))).filter (fun (p : Nat × Word) => p.2 != 0), loaded := y.words,
                       state := if d.state = DState.running then DState.running else DState.loaded, copy := none })
            s3.modCore core (fun c => { c with slots := c.slots.map (fun x => if x.tid = y.tid ∧ x.wait = .colld then x.wake else x) })
    | _, _ => s)

end Sys2Proof.Machine
end

