-- ==== Sys2Proof/Machine/Control.lean ====
section
/-! DEFINITION. Control flow (R125-R131). -/

namespace Sys2Proof.Machine

/-- PC plus a signed number of halfwords (R55). -/
def State.target (s : State) {n : Nat} (o : BitVec n) : Word := s.pc + 2 * o.signExtend 64

/-- A conditional branch on one register (R126). -/
def State.branch1 (s : State) (n a : Nat) (tgt : Word) (taken : Word → Bool) : State :=
  s.withOperands [s.wAddr a] [] (fun s =>
    s.needClean n 0x11 a (fun s => if taken (s.w a).val then s.issueTo tgt else s.issue n))

/-- A conditional branch on two registers (R126). -/
def State.branch2 (s : State) (n a b : Nat) (tgt : Word) (taken : Word → Word → Bool) : State :=
  s.withOperands [s.wAddr a, s.wAddr b] [] (fun s =>
    s.needCleans n 0x11 [a, b] (fun s => if taken (s.w a).val (s.w b).val then s.issueTo tgt else s.issue n))

/-- BEQ (R126). -/
def execBeq (o : BitVec 12) (b a : BitVec 5) (s : State) : Out1 :=
  .next (s.branch2 4 a.toNat b.toNat (s.target o) (fun x y => x == y))
/-- BNE (R126). -/
def execBne (o : BitVec 12) (b a : BitVec 5) (s : State) : Out1 :=
  .next (s.branch2 4 a.toNat b.toNat (s.target o) (fun x y => x != y))
/-- BLT (R126). -/
def execBlt (o : BitVec 12) (b a : BitVec 5) (s : State) : Out1 :=
  .next (s.branch2 4 a.toNat b.toNat (s.target o) (fun x y => x.slt y))
/-- BGE (R126). -/
def execBge (o : BitVec 12) (b a : BitVec 5) (s : State) : Out1 :=
  .next (s.branch2 4 a.toNat b.toNat (s.target o) (fun x y => !x.slt y))
/-- BLTU (R126). -/
def execBltu (o : BitVec 12) (b a : BitVec 5) (s : State) : Out1 :=
  .next (s.branch2 4 a.toNat b.toNat (s.target o) (fun x y => x.ult y))
/-- BGEU (R126). -/
def execBgeu (o : BitVec 12) (b a : BitVec 5) (s : State) : Out1 :=
  .next (s.branch2 4 a.toNat b.toNat (s.target o) (fun x y => !x.ult y))
/-- BZ (R126). -/
def execBz (o : BitVec 12) (a : BitVec 5) (s : State) : Out1 :=
  .next (s.branch1 4 a.toNat (s.target o) (fun x => x == 0))
/-- BNZ (R126). -/
def execBnz (o : BitVec 12) (a : BitVec 5) (s : State) : Out1 :=
  .next (s.branch1 4 a.toNat (s.target o) (fun x => x != 0))
/-- BZ, compact (R126). -/
def execBz16 (a : BitVec 5) (o : BitVec 6) (s : State) : Out1 :=
  .next (s.branch1 2 a.toNat (s.target o) (fun x => x == 0))
/-- BNZ, compact (R126). -/
def execBnz16 (a : BitVec 5) (o : BitVec 6) (s : State) : Out1 :=
  .next (s.branch1 2 a.toNat (s.target o) (fun x => x != 0))
/-- BR (R128). -/
def execBr (o : BitVec 20) (s : State) : Out1 := .next (s.issueTo (s.target o))
/-- BR, compact (R126). -/
def execBr16 (o : BitVec 11) (s : State) : Out1 := .next (s.issueTo (s.target o))

/-- JMP (R128): a target with bit 0 set traps. -/
def execJmp (a : BitVec 5) (s : State) : Out1 :=
  .next (s.withOperands [s.wAddr a.toNat] [] (fun s =>
    s.needClean 4 0x12 a.toNat (fun s =>
      let t := (s.w a.toNat).val
      if t.getLsbD 0 then s.raise 4 0x05 t else s.issueTo t)))

/-- Opening a window: the return PC and the old WP in the caller's words, then the new WP and PC (R24, R129). -/
def State.openWindow (s : State) (f : Nat) (tgt : Word) : State :=
  let old := s.desc.wp.toNat
  if !wpOk (s.seg 0) (old + 8 * f) then s.raise 4 0x23 (BitVec.ofNat 64 (old + 8 * f))
  else
    let s1 := s.fillWord (s.work (old + 8 * (f - 1))) ⟨s.pc + 4, false⟩
    let s2 := s1.fillWord (s.work (old + 8 * (f - 2))) ⟨s.desc.wp, false⟩
    (s2.modDesc (fun d => { d with wp := BitVec.ofNat 64 (old + 8 * f) })).issueTo tgt

/-- CALL (R129). -/
def execCall (o : BitVec 20) (f : BitVec 5) (s : State) : Out1 :=
  .next (s.withOperands [] [s.wAddr (f.toNat - 1), s.wAddr (f.toNat - 2)] (fun s =>
    s.openWindow f.toNat (s.target o)))

/-- CALLR (R129): the target is read in the caller's window. -/
def execCallr (a f : BitVec 5) (s : State) : Out1 :=
  .next (s.withOperands [s.wAddr a.toNat] [s.wAddr (f.toNat - 1), s.wAddr (f.toNat - 2)] (fun s =>
    s.needClean 4 0x12 a.toNat (fun s =>
      let t := (s.w a.toNat).val
      if t.getLsbD 0 then s.raise 4 0x05 t else s.openWindow f.toNat t)))

/-- Closing a window (R129): the return PC and the old WP are the words at WP − 8 and WP − 16. -/
def State.closeWindow (s : State) (n : Nat) : State :=
  let wp := s.desc.wp.toNat
  if wp < 16 then s.raise n 0x23 s.desc.wp
  else
    s.withOperands [s.work (wp - 8), s.work (wp - 16)] [] (fun s =>
      let ret := s.mem.word (s.work (wp - 8))
      let prev := s.mem.word (s.work (wp - 16))
      if ret.bad then s.raise n 0x12 (BitVec.ofNat 64 (wp - 8))
      else if prev.bad then s.raise n 0x12 (BitVec.ofNat 64 (wp - 16))
      else if ret.val.getLsbD 0 then s.raise n 0x05 ret.val
      else if !wpOk (s.seg 0) prev.val.toNat then s.raise n 0x23 prev.val
      else (s.modDesc (fun d => { d with wp := prev.val })).issueTo ret.val)

/-- RET (R129). -/
def execRet (s : State) : Out1 := .next (s.closeWindow 4)
/-- RET, compact (R129). -/
def execRet16 (s : State) : Out1 := .next (s.closeWindow 2)

/-- LOOP (R130). -/
def execLoop (o : BitVec 10) (a : BitVec 5) (s : State) : Out1 :=
  .next (s.withOperands [s.wAddr a.toNat] [s.wAddr a.toNat] (fun s =>
    s.needClean 4 0x11 a.toNat (fun s =>
      let v := (s.w a.toNat).val - 1
      let s1 := s.fillWord (s.wAddr a.toNat) ⟨v, false⟩
      if v != 0 then s1.issueTo (s.target o) else s1.issue 4)))

/-- NOP (R131). -/
def execNop (s : State) : Out1 := .next (s.issue 4)
/-- NOP, compact (R131). -/
def execNop16 (s : State) : Out1 := .next (s.issue 2)

end Sys2Proof.Machine
end

