-- ==== Sys2Proof/Machine/Handover.lean ====
section
/-! DEFINITION. Island clocks and debts (R329, R330), time slices and handover (R377-R382), and what arrives for a slot that
has been vacated (R380). -/

namespace Sys2Proof.Machine

/-! ## Island clocks and debts (R329, R330) -/

/-- Whether an island's clock is one of R329: 1.2 to 2.4 GHz in steps of 50 MHz, gated only at 1.2 GHz. -/
def clockOk (k : IslandClock) : Bool :=
  decide (24 ≤ k.steps ∧ k.steps ≤ 48 ∧ k.gate ≤ 15) && (k.gate == 0 || k.steps == 24)

/-- Whether an island's throttling is repaid: heat, or its own power (R329, R330). -/
def throttleRepaid : Throttle → Bool
  | .thermal => true
  | .islandPower => true
  | _ => false

/-- Whether what Headland computes for the tide that ended is done for an island: the watchdogs of its gangs and the debts of its
leas (R328, R330). -/
def State.tideDone (s : State) (island : Nat) : Bool :=
  s.gangs.all (fun g => decide (s.tide ≤ g.watched) || g.members.all (fun m => islandOf m.core != island))
  && s.leas.all (fun p => p.2.cores.all (fun c => islandOf c != island || (s.core c).accrued.contains p.1
      || !(s.islands[island]?).any (fun k => throttleRepaid k.cause)))

/-- An island lowered by a number of steps with all others (R329); one that was throttled for a cause of its own keeps it. Below 24
steps it does not go, and its gate stays: R329 does not say how many gated rotations a lowering by steps comes to (log 98). -/
def lowerClock (k : IslandClock) (n : Nat) : IslandClock :=
  { k with steps := max 24 (k.steps - n), cause := if k.cause = .free then .modulePower else k.cause }

/-- ISLAND_CLOCK_CHANGE (R329, R398): at a tide boundary, after what the ended tide gave. Its own power throttles an island only
above its share; module power lowers every island by the same number of steps. -/
def execIslandClockChange (island : Nat) (clock : IslandClock) (s : State) : Out1 :=
  .next (match s.islands[island]? with
    | none => s
    | some k =>
      if s.tideSlot ≠ 0 ∨ !clockOk clock ∨ !(List.range 16).all s.tideDone
          ∨ (clock.cause = .islandPower ∧ clock.draw ≤ s.head.shares.getD island 0) then s
      else if clock.cause = .modulePower then
        let n := k.steps - clock.steps
        let own : IslandClock :=
          { lowerClock k n with gate := if (lowerClock k n).steps = 24 then clock.gate else 0, draw := clock.draw, heat := clock.heat }
        { s with islands := (s.islands.map (fun x => lowerClock x n)).set island own }
      else { s with islands := s.islands.set island clock })

/-- The deficit of a tide in 1/4,096 of a tide, for a clock in steps of 50 MHz and the core cycles delivered: E is 102.4
cycles a step (R330; log 34). -/
def deficit (steps delivered : Nat) : Nat :=
  let e := 1024 * steps
  if e ≤ 10 * delivered then 0 else (e - 10 * delivered) * 4096 / e

/-- DEBT_ACCRUE (R330): at a tide boundary, once for the tide that ended; the debt is capped at 64 tides. -/
def execDebtAccrue (lea core : Nat) (s : State) : Out1 :=
  .next (match s.lea lea, s.islands[islandOf core]? with
    | some l, some k =>
      if s.tideSlot ≠ 0 ∨ !throttleRepaid k.cause ∨ !l.cores.contains core ∨ (s.core core).accrued.contains lea then s
      else s.modCore core (fun c =>
        { c with
          accrued := lea :: c.accrued
          debts := keySet c.debts lea (min (64 * 4096) (keyGet 0 c.debts lea + deficit l.clock c.delivered)) })
    | _, _ => s)

/-! ## Pausing (R227, R377) -/

/-- The lea whose slice a core is in. -/
def Core.sliceLea (c : Core) : Option Nat := match c.handover with
  | some h => some h.into
  | none => c.lea

/-- The gangs of a lea marked as excluded from this tide's watchdog count (R328). -/
def State.excludeLea (s : State) (lea : Nat) : State :=
  { s with gangs := s.gangs.map (fun g => if g.lea = lea then { g with excluded := true } else g) }

/-- A lea paused while it holds none of its cores, and resumed when it holds one: guest time stands still meanwhile (R227, R328,
R377). -/
def State.repause (s : State) (lea : Nat) : State :=
  match s.lea lea with
  | none => s
  | some l =>
    let held := l.cores.any (fun c => (s.core c).sliceLea == some lea)
    if held ∧ l.isPaused then (s.excludeLea lea).modLea lea (fun l => { l with isPaused := false, paused := s.now - l.lastGuest })
    else if !held ∧ !l.isPaused then (s.excludeLea lea).modLea lea (fun l => { l with isPaused := true, lastGuest := s.now - l.paused })
    else s

/-! ## Slices (R330, R377, R378) -/

/-- The first turn 0 at or after a cycle (R378). -/
def turn0From (cycle : Nat) : Nat := (cycle + 15) / 16 * 16

/-- The tides by which a slice of S tides is lengthened under a debt in 1/4,096 (R330). -/
def lengthening (debt s : Nat) : Nat := min debt (s * 1024) / 4096

/-- The entries of a core's schedule that are due, by index: the next one, and those after it in the round whose own times have come,
as slices before them ran late (R330; log 104). -/
def Core.slicesDue (c : Core) : List Nat :=
  let k := (c.slice + 1) % c.sched.length
  (List.range c.sched.length).filter (fun i =>
    i == k || (decide (0 < k ∧ k < i) && decide ((((c.sched.take i).drop k).map (fun e => e.2)).sum ≤ c.lag)))

/-- The entry that starts first of those that are due: by descending debt, then ascending lea number (R330). -/
def Core.firstDue (c : Core) : List Nat → Option Nat
  | [] => none
  | i :: t =>
    match c.firstDue t with
    | none => some i
    | some j =>
      let (a, b) := ((c.sched.getD i (0, 0)).1, (c.sched.getD j (0, 0)).1)
      let (x, y) := (keyGet 0 c.debts a, keyGet 0 c.debts b)
      if x < y ∨ (x = y ∧ b < a) then some j else some i

/-- A core with the slice that starts next as the next entry of its schedule; a new round runs late by nothing (R330). -/
def Core.bringNext (c : Core) : Core :=
  let k := (c.slice + 1) % c.sched.length
  let i := (c.firstDue c.slicesDue).getD k
  { c with
    sched := c.sched.take k ++ (c.sched[i]?).toList ++ (c.sched.eraseIdx i).drop k
    lag := if k = 0 then 0 else c.lag }

/-- The number in a schedule of a slice that no lea has: that of a lea that is gone (R377; log 88). -/
def idleSlice : Nat := 2048

/-- SLICE_START (R330, R377, R378): at a tide boundary the next slice of a core's schedule starts, of several that are due the one
whose lea has the largest debt; where it is another lea's, or none's, the core is handed over. -/
def execSliceStart (core : Nat) (s : State) : Out1 :=
  .next (
    let c := (s.core core).bringNext
    match c.sched[(c.slice + 1) % c.sched.length]? with
    | none => s
    | some (lea, len) =>
      if s.tideSlot ≠ 0 ∨ s.now < c.sliceEnd ∨ c.handover.isSome ∨ !s.dieUp (dieOf core) then s
      else
        let add := lengthening (keyGet 0 c.debts lea) len
        let h : Handover := { start := s.now, t0 := turn0From (s.cycle core), out := c.lea.filter (fun a => a != idleSlice), into := lea, rot := none, stopped := [],
                              saved := [], restored := [] }
        let s1 := s.setCore core
          { c with
            slice := (c.slice + 1) % c.sched.length
            sliceEnd := s.now + 4096 * (len + add)
            lag := c.lag + add
            debts := keySet c.debts lea (keyGet 0 c.debts lea - 4096 * add)
            handover := if c.lea = some lea then none else some h }
        let s2 := s1.repause lea
        match c.lea with
        | some a => s2.repause a
        | none => s2)

/-- At t0 the outgoing ROT is saved, and the rotation is the identity (R378). -/
def Core.saveRot (c : Core) (cycle : Nat) : Core :=
  match c.handover with
  | some h =>
    if h.rot.isNone ∧ h.t0 ≤ cycle then
      { c with rot := rotIdentity, rotNext := none, handover := some { h with rot := some (c.rotNext.getD c.rot) } }
    else c
  | none => c

/-- Whether a slot of a core that changes hands has come to its stop, cycle t0 + s, its own turn under the identity (R378). -/
def Core.stopDue (c : Core) (cycle slot : Nat) : Bool := match c.handover with
  | some h => decide (h.t0 + slot ≤ cycle) && !h.stopped.contains slot
  | none => false

/-- HANDOVER_STOP (R378): slot s stops at cycle t0 + s. -/
def execHandoverStop (core slot : Nat) (s : State) : Out1 :=
  .next (
    let c := (s.core core).saveRot (s.cycle core)
    match c.handover with
    | some h =>
      if 16 ≤ slot ∨ !c.stopDue (s.cycle core) slot then s
      else s.setCore core (({ c with handover := some { h with stopped := slot :: h.stopped } }).modSlot slot (fun x =>
        { x with stopped := some (h.t0 + slot) }))
    | none => s)

/-- Whether an item must have ended before its slot is vacated: an entry of a vector or bay queue (R152, R199, R378). -/
def State.settles (s : State) (o : Out) : Bool :=
  match o.work with
  | .vector _ _ _ _ => true
  | .bay => true
  | .port => (s.core o.core).bay.queue.any (fun e => e.outId == o.id)
  | _ => false

/-- Whether a port transfer of a thread is outstanding that no page fault holds: it is not parked, and no access that it may wait for is
(R176, R199, R200). -/
def State.portRuns (s : State) (core tid : Nat) : Bool :=
  (s.core core).bay.port.any (fun j => j.parked.isNone && s.outs.any (fun o => o.id == j.outId && o.tid == tid))
    && !s.outs.any (fun o => o.tid == tid && o.held)

/-- SETTLE_END (R176, R199, R378): 320 core cycles after the stop, the slot is vacated; its port transfer has moved what nothing holds,
and one that still runs without a page fault is waited for (log 83). -/
def execSettleEnd (core slot : Nat) (s : State) : Out1 :=
  .next (
    let c := s.core core
    let x := c.slot slot
    match c.handover, x.stopped with
    | some h, some t =>
      if !h.stopped.contains slot || h.saved.contains slot || x.vacated || decide (s.cycle core < t + 320)
          || s.outs.any (fun o => o.core == core && o.tid == x.tid && s.settles o) then s
      else
        let s1 := s.portFlush core x.tid
        if s1.portRuns core x.tid then s else s1.modSlot core slot (fun x => { x with vacated := true })
    | _, _ => s)

/-! ## Saving and restoring ranges (R28, R378, R382) -/

/-- A range of local store as a save area holds it, numbered from 0. -/
structure RangeSave where
  cells : Cells
  fe : List (Nat × FE)
  poison : List Nat
  ext : List (Nat × Nat)
  deriving DecidableEq, Repr

/-- A range taken from memory. -/
def Memory.cut (m : Memory) (a n : Nat) : RangeSave :=
  { cells := m.cells.slice a n
    fe := (m.fe.filter (fun p => decide (a ≤ p.1 ∧ p.1 < a + n))).map (fun p => (p.1 - a, p.2))
    poison := (m.poison.filter (fun p => decide (a ≤ p ∧ p < a + n))).map (fun p => p - a)
    ext := (m.ext.filter (fun p => decide (a ≤ p.1 ∧ p.1 < a + n))).map (fun p => (p.1 - a, p.2)) }

/-- A saved range laid at an address, over a scrubbed range. -/
def Memory.paste (m : Memory) (a : Nat) (r : RangeSave) : Memory :=
  { m with
    cells := Cells.lay m.cells a r.cells
    fe := r.fe.foldl (fun l p => keySet l (a + p.1) p.2) m.fe
    poison := r.poison.foldl (fun l p => natIns l (a + p)) m.poison
    ext := r.ext.foldl (fun l p => keySet l (a + p.1) p.2) m.ext }

/-- The slice of a slot: its first flat address and its bytes. -/
def sliceAt (core slot : Nat) : Nat := lsAddr core (0x8000 * slot)

/-- The shared pool of a core. -/
def poolAt (core : Nat) : Nat := lsAddr core 0x80000

/-- An event that waits at a word of local store waits again to be performed once its lea is back (R380). -/
def Part.requeue (p : Part) : Part :=
  match p.stage with
  | .waiting _ => { p with stage := .queued }
  | _ => p

/-- The waiting events of a lea on a core, in one of its local spaces, put back (R380). -/
def State.requeue (s : State) (core lea : Nat) (f : Out → Bool) : State :=
  { s with outs := s.outs.map (fun o =>
      if o.core = core ∧ o.lea = lea ∧ f o then o.mapParts Part.requeue else o) }

/-- The space of an item's access. -/
def Out.space (o : Out) : Nat := match o.access with
  | some x => x.space
  | none => 0

/-! ## Words of a lea that are in its save area (R380, R382) -/

/-- A doubleword of a range as an image holds it. -/
def RangeSave.word (r : RangeSave) (o : Nat) : PWord := ⟨BitVec.ofNat 64 (r.cells.read o 8), r.poison.contains o⟩

/-- A doubleword of an image written whole (R422). -/
def RangeSave.put (r : RangeSave) (o : Nat) (v : PWord) : RangeSave :=
  { r with cells := Cells.write r.cells o 8 v.val.toNat, poison := if v.bad then natIns r.poison o else natDel r.poison o }

/-- A doubleword of an image written as a result is: full (R106, R380). -/
def RangeSave.fill (r : RangeSave) (o : Nat) (v : PWord) : RangeSave :=
  { r.put o v with fe := keyDel r.fe o, ext := keyDel r.ext o }

/-- The slice of a saved slot. -/
def SlotSave.range (p : SlotSave) : RangeSave := ⟨p.cells, p.fe, p.poison, p.ext⟩

/-- A saved slot with its slice changed. -/
def SlotSave.setRange (p : SlotSave) (r : RangeSave) : SlotSave :=
  { p with cells := r.cells, fe := r.fe, poison := r.poison, ext := r.ext }

/-- The saved shared pool. -/
def PoolSave.range (p : PoolSave) : RangeSave := ⟨p.cells, p.fe, p.poison, p.ext⟩

/-- A saved pool with the shared pool changed. -/
def PoolSave.setRange (p : PoolSave) (r : RangeSave) : PoolSave :=
  { p with cells := r.cells, fe := r.fe, poison := r.poison, ext := r.ext }

/-- Where a doubleword of a lea's local store is: in memory, or in its save area for a core, in the slice of a slot, or in the pool
(16), at an offset. -/
inductive Spot where
  | mem (a : Nat)
  | saved (core k off : Nat)
  deriving DecidableEq, Repr

/-- Where a word of a lea's slot is now: the slice of a saved slot and a pool that the lea does not hold are in its save area. -/
def State.spotOf (s : State) (core lea slot a : Nat) : Spot :=
  let c := s.core core
  let sa := sliceAt core slot
  let pa := poolAt core
  if sa ≤ a ∧ a < sa + 0x8000 ∧ c.slotSaved lea slot then .saved core slot (a - sa)
  else if pa ≤ a ∧ a < pa + 0x40000 ∧ c.lea ≠ some lea then .saved core 16 (a - pa)
  else .mem a

/-- The image of a slot's slice, or of the pool (16), in a lea's save area. -/
def SaveArea.range (v : SaveArea) (k : Nat) : RangeSave :=
  if k = 16 then v.pool.elim ⟨[], [], [], []⟩ PoolSave.range else (keyFind v.slots k).elim ⟨[], [], [], []⟩ SlotSave.range

/-- A save area with the image of a slot's slice, or of the pool (16), changed. -/
def SaveArea.modRange (v : SaveArea) (k : Nat) (f : RangeSave → RangeSave) : SaveArea :=
  if k = 16 then { v with pool := v.pool.map (fun p => p.setRange (f p.range)) }
  else { v with slots := v.slots.map (fun p => if p.1 = k then (k, p.2.setRange (f p.2.range)) else p) }

/-- A lea's doubleword where it is. -/
def State.spotWord (s : State) (lea : Nat) : Spot → PWord
  | .mem a => s.mem.word a
  | .saved core k off => (((s.core core).save lea).range k).word off

/-- A lea's doubleword in its save area changed, or one in memory. -/
def State.modSpot (s : State) (lea : Nat) (f : Memory → Nat → Memory) (g : RangeSave → Nat → RangeSave) : Spot → State
  | .mem a => { s with mem := f s.mem a }
  | .saved core k off => s.modCore core (fun c => c.modSave lea (fun v => v.modRange k (fun r => g r off)))

/-- A doubleword written whole where it is, and noted as the lea's (R7, R422). -/
def State.putSpot (s : State) (lea : Nat) (v : PWord) (x : Spot) : State :=
  (s.noteWrote lea (byteSet v.val.toNat 8)).modSpot lea (fun m a => m.putWord a v) (fun r o => r.put o v) x

/-- A word written into the save area of a lea where its slot's slice or its pool is there, and in place otherwise. -/
def State.lateFill (s : State) (core lea slot a : Nat) (v : PWord) : State :=
  match s.spotOf core lea slot a with
  | .mem a => s.fillWord a v
  | .saved c k o => (s.noteWrote lea (byteSet v.val.toNat 8)).modCore c (fun c => c.modSave lea (fun y => y.modRange k (fun r => r.fill o v)))

/-- Several words written late. -/
def State.lateFills (s : State) (core lea slot : Nat) : List (Nat × PWord) → State
  | [] => s
  | (a, v) :: t => (s.lateFill core lea slot a v).lateFills core lea slot t

/-- A saved slot changed. -/
def State.modSaved (s : State) (core lea slot : Nat) (f : Slot → Slot) : State :=
  s.modCore core (fun c => c.modSave lea (fun y =>
    { y with slots := y.slots.map (fun p => if p.1 = slot then (p.1, { p.2 with slot := f p.2.slot }) else p) }))

/-- A slot changed where it is: in its save area, or in the core (R380). -/
def State.modSlotOf (s : State) (core lea slot : Nat) (f : Slot → Slot) : State :=
  if (s.core core).slotSaved lea slot then s.modSaved core lea slot f else s.modSlot core slot f

/-- The places of the doublewords of the descriptor at a TDP of a lea's slot. -/
def State.descSpots (s : State) (core lea slot tdp : Nat) : List Spot :=
  (List.range 32).map (fun i => s.spotOf core lea slot (lsAddr core tdp + 8 * i))

/-- The descriptor that a list of doublewords holds. -/
def descOfWords (l : List PWord) : Desc := descOf (fun i => (l.getD i ⟨0, false⟩).val)

/-- The doublewords of the descriptor of a lea's slot that is not resident (R30). -/
def State.awayDesc (s : State) (core lea slot tdp : Nat) : List PWord := (s.descSpots core lea slot tdp).map (s.spotWord lea)

/-- Doublewords written in turn at their places. -/
def State.putSpots (s : State) (lea : Nat) : List (Spot × PWord) → State
  | [] => s
  | (x, v) :: t => (s.putSpot lea v x).putSpots lea t

/-- The descriptor of a lea's slot changed where it is: live, or in the save area (R30, R380). -/
def State.modDescOf (s : State) (core lea slot : Nat) (f : Desc → Desc) : State :=
  match if (s.core core).slotSaved lea slot then keyFind ((s.core core).save lea).slots slot else none with
  | some v =>
    let tdp := v.slot.tdp.toNat
    let d := f (descOfWords (s.awayDesc core lea slot tdp))
    { s with free := s.free + 1 }.putSpots lea ((s.descSpots core lea slot tdp).zip ((d.words (Config.freeWord s.free)).map (fun w => ⟨w, false⟩)))
  | none => s.modSlot core slot (fun x => { x with desc := f x.desc })

/-- The descriptor of a slot's thread, if it holds one, exact at its TDP (R30). -/
def State.exactDesc (s : State) (core slot : Nat) : State :=
  if (s.slot core slot).run = .absent then s else s.putDesc core slot

/-- Whether a descriptor lies in the slice of a slot (R29). -/
def inSlice (slot tdp : Nat) : Bool := decide (0x8000 * slot ≤ tdp ∧ tdp < 0x8000 * slot + 0x8000)

/-- A range that leaves the lea that held it: what its bytes have been given stays the lea's, and it is scrubbed (R7, R28, R378). -/
def State.scrubFor (s : State) (lea : Option Nat) (a n : Nat) : State :=
  let s1 := s.giveUp lea a n
  { s1 with mem := s1.mem.scrub a n }

/-- SLOT_SAVE_DONE (R28, R30, R378): a vacated slot's descriptor is exact at its TDP, it and the slice are in the save area, and the
slice is scrubbed. -/
def execSlotSaveDone (core slot : Nat) (s : State) : Out1 :=
  .next (
    let c := s.core core
    let x := c.slot slot
    match c.handover with
    | some h =>
      if !x.vacated || h.saved.contains slot then s
      else
        let s := s.exactDesc core slot
        let r := s.mem.cut (sliceAt core slot) 0x8000
        let keep : SlotSave :=
          { slot := { x with stopped := none, vacated := false }, cells := r.cells, fe := r.fe, poison := r.poison, ext := r.ext
            waits := c.waits.filter (fun p => inSlice slot p.1) }
        let s1 := match h.out with
          | some a => (s.requeue core a (fun o => o.slot == slot && o.space == 1)).modCore core (fun c =>
              c.modSave a (fun v => { v with slots := keySet v.slots slot keep }))
          | none => s
        (s1.scrubFor h.out (sliceAt core slot) 0x8000).modCore core (fun c =>
          ({ c with
             handover := some { h with saved := slot :: h.saved }
             waits := c.waits.filter (fun p => !inSlice slot p.1) }).modSlot slot (fun _ =>
            { Slot.reset with vacated := true, lastIssue := x.lastIssue }))
    | none => s)

/-- A page fault that ended while the lea was away: what it held is translated afresh (R380, R405). -/
def State.reissueOn (s : State) (core slot lea : Nat) : State :=
  (s.outs.filter (fun o => o.core == core && o.slot == slot && o.lea == lea)).foldl (fun s o =>
    o.parts.foldl (fun s p => match p.stage with
      | .pageFault f =>
        if s.resident lea f then
          (s.modOut o.id (fun o => o.mapParts (Part.woken f))).wakeHeld o.id
        else s
      | _ => s) s) s

/-- The handover ends once every slot and the pool are the incoming lea's (R378). -/
def Core.endHandover (c : Core) : Core :=
  match c.handover with
  | some h => if c.lea = some h.into ∧ h.restored.length = 16 then { c with handover := none } else c
  | none => c

/-- The threads of a core that wait for the end of its handover test again (R381). -/
def State.retestPool (s : State) (core : Nat) : State :=
  (List.range 16).foldl (fun s k => if (s.slot core k).wait = .pool then s.retest core k else s) s

/-- The gangs with a core that was changing hands have this tide excluded (R328). -/
def State.finishHandover (s : State) (core : Nat) : State :=
  let s1 := s.modCore core Core.endHandover
  if (s1.core core).handover.isNone then (s1.retestPool core).excludeCores (fun c => c == core) else s1

/-- A saved thread in its slot again, its slice in place: with the descriptor as it is at its TDP, which is undefined from then on, or
Halted where that is poisoned (R30, R378, R404). -/
def State.returnThread (s : State) (core lea slot : Nat) (x : Slot) : State :=
  if x.run = .absent then s.modSlot core slot (fun _ => x)
  else
    let ws := s.awayDesc core lea slot x.tdp.toNat
    let spots := s.descSpots core lea slot x.tdp.toNat
    let d := descOfWords ws
    let s1 := ({ s with free := s.free + 32 }.putSpots lea (spots.zip ((s.undefinedDesc lea d).map (fun w => ⟨w, false⟩)))).modSlot core slot
      (fun _ => { x with desc := d })
    match ws.findIdx? (fun w => w.bad) with
    | none => s1
    | some i => s1.trapSlot core slot 0x16 (BitVec.ofNat 64 (8 * i)) 0

/-- SLOT_RESTORE_DONE (R378): the incoming descriptor and slice are in place; the thread issues from its next own turn. A message
thread that the pool phase has already loaded from its template stays (R341). -/
def execSlotRestoreDone (core slot : Nat) (s : State) : Out1 :=
  .next (
    let c := s.core core
    match c.handover with
    | some h =>
      if !h.saved.contains slot || h.restored.contains slot || !s.dieUp (dieOf core) then s
      else
        let mark (f : Slot → Slot) : State → State := fun s => s.modCore core (fun c =>
          ({ c with handover := some { h with restored := slot :: h.restored } }).modSlot slot f)
        let s1 := match keyFind (c.save h.into).slots slot with
          | some v =>
            let s1 : State := { s with mem := s.mem.paste (sliceAt core slot) v.range }.modCore core (fun c =>
              { c.modSave h.into (fun v => { v with slots := keyDel v.slots slot }) with
                waits := v.waits.foldl (fun (l : List (Nat × Kept)) (p : Nat × Kept) => keySet l p.1 p.2) c.waits })
            mark id (s1.returnThread core h.into slot
              { v.slot with fresh := true, since := s.now, lastIssue := (s.cycle core : Int) - 16 })
          | none =>
            if slot = 15 ∧ c.lea = some h.into then mark (fun x => { x with vacated := false, stopped := none }) s
            else mark (fun _ => Slot.reset) s
        ((s1.reissueOn core slot h.into).retest core slot).finishHandover core
    | none => s)

/-! ## The pool phase (R341, R378, R380-R382) -/

/-- The engine's commands cancelled at the pool phase, as ECAN from slot 15 does, and the resume offset of the active one kept
(R266, R268, R380). -/
def State.poolCancel (s : State) (core : Nat) : State :=
  let s1 := s.modEngine core (fun e => { e with shadow := none })
  match (s.core core).engine.active with
  | some a => (s1.cancelActive core).modEngine core (fun e => { e with kept := a.offset })
  | none => s1

/-- A context as the save area holds it: the program returns as Loaded (R302). -/
def Dorent.saved (d : Dorent) : Dorent :=
  { Dorent.reset with
    store := d.store, loaded := d.loaded, recs := d.recs, copy := d.copy, edge := d.edge, began := d.began, ended := d.ended
    state := if d.loaded = 0 then .empty else .loaded }

/-- The pool and its units as a save area holds them (R378, R382). -/
def Core.poolSave (c : Core) (r : RangeSave) (rot : Word) : PoolSave :=
  { cells := r.cells, fe := r.fe, poison := r.poison, ext := r.ext, bay := c.bay, sems := c.sems, mailbox := c.mailbox, refused := c.refused,
    handler := c.handler, fault15 := c.fault15, classes := c.classes, trapv := c.trapv, trapFile := c.trapFile,
    engine := c.engine, dorent := c.dorent.saved, trees := c.trees, waits := c.waits.filter (fun p => inPool p.1), rot := rot }

/-- The core's pool units at their reset values: a scrub (R28, R378). -/
def Core.scrubUnits (c : Core) : Core :=
  { c with
    bay := Bay.reset, sems := [], semSets := [], semAdds := [], mailbox := [], refused := 0, handler := none, freed := none,
    fault15 := none, classes := [], trapv := 0, trapFile := [], engine := Engine.reset, dorent := Dorent.reset,
    trees := List.replicate 4 none, waits := c.waits.filter (fun p => !inPool p.1), gtb := [], icache := [], rot := rotIdentity, rotNext := none }

/-- The core's pool units as a save area holds them. -/
def Core.takeUnits (c : Core) (p : PoolSave) : Core :=
  { c with
    bay := p.bay, sems := p.sems, mailbox := p.mailbox, refused := p.refused, handler := p.handler, fault15 := p.fault15,
    classes := p.classes, trapv := p.trapv, trapFile := p.trapFile, engine := p.engine, dorent := p.dorent, trees := p.trees,
    waits := c.waits ++ p.waits, rotNext := some p.rot }

/-- Slot 15 loaded from the lea's message-thread template: the image written at its TDP, the class table, and slot 15 Parked
with no handler (R341). -/
def State.loadMessage (s : State) (core : Nat) (l : Lea) : State :=
  match l.msg with
  | none => s
  | some m =>
    let d := descOf (fun i => m.base.image.getD i 0)
    let s1 := s.modCore core (fun c =>
      { c with trapv := m.trapv &&& 0x0000FFFFFFFFFFFE#64, classes := m.classes.map (fun p => (p.1, classWord p.2)) })
    (s1.loadThread core 15 l.num m.base.tdp d none).modSlot core 15 (fun x =>
      { x with run := .parked, wait := .idle15, fresh := false, gangReg := 0, coreReg := coreWord core 0 (l.logical core),
               slotReg := slotWord 0 15 })

/-- A lea's context where the lea has not held the core's pool before: empty, with the records that Headland kept (R272, R276). -/
def State.firstContext (s : State) (core lea : Nat) : State :=
  let s1 := s.modDor core (fun d => { d with recs := (s.lea lea).elim [] (fun l => l.recsFor core) })
  s1.modLea lea (fun l => { l with recs := l.recs.filter (fun p => p.1 != core) })

/-- The saved threads of a lea that wait in COLWT go on with the status word (R281, R380). -/
def State.wakeSavedColl (s : State) (core lea : Nat) (v : Word) : State :=
  ((s.core core).save lea).slots.foldl (fun s p => match p.2.slot.wait with
    | .coll d => if p.2.slot.waiting then (s.lateFill core lea p.1 d ⟨v, false⟩).modSaved core lea p.1 Slot.wake else s
    | _ => s) s

/-- The image in a saved slice of a save that is stopped, undefined: each piece that is not at a word owed a result (R7, R26, R380;
log 7). -/
def State.undefSaved (s : State) (core : Nat) (j : PortJob) (o : Out) : State :=
  (portPieces j.addr j.size).foldl (fun s p => match s.spotOf core o.lea o.slot (sliceAt core o.slot + j.addr + p.1) with
    | .saved c k x =>
      if keyFind (((s.core c).save o.lea).range k).fe (dwordOf x) = some .pending then s
      else { s with free := s.free + 1 }.modCore c (fun y => y.modSave o.lea (fun v => v.modRange k (fun r =>
        { r with cells := r.cells.write x p.2 (s.undef (some o.lea) s.free).toNat })))
    | .mem _ => s) s

/-- The port's transfer at the pool phase: what nothing holds is performed, and the rest is stopped, its plane, tile or image undefined
(R176, R380). -/
def State.portLeave (s : State) (core : Nat) : State :=
  match (s.core core).bay.port with
  | none => s
  | some j => match s.out j.outId with
    | none => s.portStop core
    | some o =>
      let s1 := s.portFlush core o.tid
      match (s1.core core).bay.port with
      | none => s1
      | some j => (if j.kind = 1 ∧ j.space = 1 then s1.undefSaved core j o else s1).portStop core

/-- The outgoing lea's units stopped and saved (R302, R378, R380). The rotation that is saved is the one that the lea wrote last. -/
def State.savePool (s : State) (core : Nat) (h : Handover) : State :=
  match h.out with
  | none => s
  | some a =>
    let s1 := ((((s.modCore core Core.semCycle).poolCancel core).portLeave core)).flushLate core
    let s2 := if (s1.dor core).state = .running then s1.dStop core .aborted 0x0C (s1.dor core).pc else s1
    let s3 := (s2.wakeSavedColl core a (s2.dor core).status).requeue core a (fun o => o.space == 2 || o.space == 6)
    s3.modCore core (fun c =>
      c.modSave a (fun v => { v with
        pool := some (c.poolSave (s3.mem.cut (poolAt core) 0x40000) (c.rotNext.getD (h.rot.getD rotIdentity))) }))

/-- A lea's first hold of a core's pool: what was added to its semaphores, its context with the records that Headland kept, and its
message thread from the template (R270, R276, R341). -/
def State.firstHold (s : State) (core : Nat) (l : Lea) : State :=
  let sems := ((s.core core).save l.num).sems
  ((s.modCore core (fun c => { c.modSave l.num (fun v => { v with sems := [] }) with sems := sems })).firstContext core l.num).loadMessage
    core l

/-- A saved pool put back with its units (R378, R382). -/
def State.restorePool (s : State) (core lea : Nat) (p : PoolSave) : State :=
  { s with mem := s.mem.paste (poolAt core) p.range }.modCore core (fun c =>
    (c.takeUnits p).modSave lea (fun v => { v with pool := none }))

/-- POOL_PHASE_DONE (R176, R378): once every slot has been vacated and scrubbed, slot 15 last, the shared pool and its units change
hands. -/
def execPoolPhaseDone (core : Nat) (s : State) : Out1 :=
  .next (
    let c := s.core core
    match c.handover with
    | some h =>
      if !(List.range 16).all h.saved.contains || c.lea == some h.into || !s.dieUp (dieOf core) then s
      else
        let s1 := s.savePool core h
        let s2 := s1.scrubFor h.out (poolAt core) 0x40000
        let s3 := s2.modCore core (fun c =>
          { c.scrubUnits with lea := some h.into, fills := c.fills.filter (fun f => f.lea == h.into) })
        let s4 := match (c.save h.into).pool with
          | some p => s3.restorePool core h.into p
          | none =>
            match s3.lea h.into with
            | some l => s3.firstHold core l
            | none => s3
        (s4.retestCore core).finishHandover core
    | none => s)

/-! ## Late results (R380) -/

/-- An item ends late: its words and flags go to the save area (R380). -/
def State.lateEnd (s : State) (o : Out) (vals : List PWord) (fl : Flags) : State :=
  let s1 : State := { s with free := s.free + vals.length }
  let s2 := s1.lateFills o.core o.lea o.slot (o.dst.zip (s.freshBad (some o.lea) s.free vals))
  (if fl = 0 then s2 else s2.modDescOf o.core o.lea o.slot (fun d => d.orFlags fl)).dropOut o.id

/-- LATE_RESULT_TO_SAVE_AREA (R380): the result or status numbered `id`, for words that have been saved. -/
def execLateResultToSaveArea (id : Nat) (s : State) : Out1 :=
  .next (
    let answer (m : Mail) (v : PWord) : State :=
      let s1 := s.dropMail id
      match s.out id with
      | some o => s1.lateEnd o [v] Flags.none
      | none => (s1.lateFill m.dst m.lea m.srcSlot m.wd v).modSlotOf m.dst m.lea m.srcSlot (fun x =>
          if x.tid = m.srcTid ∧ x.hold = .ack id then x.release else x)
    match s.mailOf id with
    | some m =>
      if !s.arrives m || !s.lateMail m then s
      else
        match m.msg with
        | .ack v _ => answer m ⟨v, false⟩
        | .amAck v _ => answer m ⟨v, false⟩
        | .packetAck v _ => answer m ⟨v, false⟩
        | .reply v _ => answer m v
        | _ => s
    | none =>
      match s.out id with
      | none => s
      | some o =>
        if !s.isLate o then s
        else
          match o.work with
          | .compute vals fl due => if due ≤ s.cycle o.core then s.lateEnd o vals (fl.getD Flags.none) else s
          | .access x =>
            if !x.allDone || (x.remote && !x.parts.all (fun p => s.crossed p.since x.die (dieOf o.core))) then s
            else
              let s1 := s.lateEnd o (x.results o.old) Flags.none
              match x.sem with
              | some k => s1.addSem o.core o.lea k 8
              | none => s1
          | _ => s)

end Sys2Proof.Machine
end

