-- ==== Sys2Proof/Machine/Leas.lean ====
section
/-! DEFINITION. What the host driver asks of Headland: leas (R370-R376, R440), slices (R377), templates (R319, R341), stage 2
and keys (R385, R389, R391), queues, limits and migration (R227, R328, R334), and host access to lea memory (R393). A request
that Headland refuses changes nothing but its report. -/

namespace Sys2Proof.Machine

/-! ## The core curve (R371, R372) -/

/-- One step of HilbertXY for a square of side s (R371). -/
def hilbertStep (s : Nat) (x y t : Nat) : Nat × Nat × Nat :=
  let rx := t / 2 % 2
  let ry := (t ^^^ rx) % 2
  let (x1, y1) := if ry = 0 ∧ rx = 1 then (s - 1 - x, s - 1 - y) else (x, y)
  let (x2, y2) := if ry = 0 then (y1, x1) else (x1, y1)
  (x2 + s * rx, y2 + s * ry, t / 4)

/-- HilbertXY (R371). -/
def hilbertXY (d : Nat) : Nat × Nat :=
  let (x, y, _) := [1, 2, 4, 8, 16].foldl (fun (x, y, t) s => hilbertStep s x y t) (0, 0, d)
  (x, y)

/-- The physical core at a column and a row of the mesh (R11, R371). -/
def coreAtXY (col row : Nat) : Nat :=
  let x := col % 16
  let y := row % 16
  256 * (col / 16 + 4 * (row / 16)) + 4 * (x / 2 + 8 * (y / 2)) + (x % 2 + 2 * (y % 2))

/-- The physical core at a position of the curve (R371). -/
def curveCore (p : Nat) : Nat :=
  let (x, y) := hilbertXY (p % 1024)
  coreAtXY (32 * (p / 1024) + x) y

/-- The present cores in the order of their core indices (R372). -/
def State.coreList (s : State) : List Nat :=
  ((List.range 2048).map curveCore).filter (fun c => !s.head.disabledCores.contains c)

/-! ## Items of a creation request (R440) -/

/-- The items that other leas hold, by a lea's list of a key. -/
def State.taken (s : State) (f : Lea → List (Nat × List Nat)) (k : Nat) : List Nat := s.leas.flatMap (fun p => keyGet [] (f p.2) k)

/-- Whether a list names every item once. -/
def noRepeats : List Nat → Bool
  | [] => true
  | a :: t => !t.contains a && noRepeats t

/-- Items named exactly, or the lowest free ones of a count, out of [lo, hi) (R440). -/
def chooseItems (lo hi : Nat) (used : List Nat) : ItemReq → Option (List Nat)
  | .exact l => if noRepeats l && l.all (fun i => decide (lo ≤ i ∧ i < hi) && !used.contains i) then some (l.foldl natIns []) else none
  | .count n =>
    let free := (List.range hi).filter (fun i => decide (lo ≤ i) && !used.contains i)
    if n ≤ free.length then some (free.take n) else none

/-- The service slots of a count from a phase (R440). -/
def spread (b p : Nat) : List Nat := (List.range b).map (fun k => 100 + (p + 1500 * k / b) % 1500)

/-- Service slots named exactly, or spread evenly at the smallest phase that is free (R440). -/
def chooseSlots (used : List Nat) : ItemReq → Option (List Nat)
  | .exact l => chooseItems 100 1600 used (.exact l)
  | .count b =>
    if 1500 < b then none
    else ((List.range 1500).find? (fun p => (spread b p).all (fun j => !used.contains j))).map (fun p => spread b p)

/-- A request's items for each key, in turn. -/
def chooseAll (f : Nat → ItemReq → Option (List Nat)) : List (Nat × ItemReq) → Option (List (Nat × List Nat))
  | [] => some []
  | (k, r) :: t => match f k r, chooseAll f t with
    | some l, some u => some (keySet u k l)
    | _, _ => none

/-- The queue entries of a number of service slots (R327). -/
def queueShare (b : Nat) : Nat := if b = 0 then 0 else max 1 (64 * b / 1500)

/-- Whether a division of a channel's queue entries totals at most 64 (R327). -/
def State.queuesFit (s : State) (svc : List (Nat × List Nat)) : Bool :=
  svc.all (fun p => decide (queueShare p.2.length + (s.leas.map (fun l => queueShare (keyGet [] l.2.svc p.1).length)).sum ≤ 64))

/-! ## Templates (R319, R341) -/

/-- The cause of the first check that a template fails for a slot: its TDP (R29), its windows (R21), its code segment (R37). -/
def templateFail (slot : Nat) (t : Template) : Option (BitVec 8) :=
  let d := descOf (fun i => t.image.getD i 0)
  match tdpFail slot t.tdp with
  | some c => some c
  | none =>
    if d.windowFail.isSome then some 0x23
    else if t.image.length ≠ 32 ∨ (d.seg 7).space ≠ 7 then some 0x06
    else none

/-- Whether a template passes R21, R29 and R37 for a slot. -/
def templateOk (slot : Nat) (t : Template) : Bool := (templateFail slot t).isNone

/-- What is wrong with a message-thread template: as for any other of slot 15, and PRIV must be set and its class-table entries
be of the table (R341). -/
def msgTemplateFail (m : MsgTemplate) : Option (BitVec 8) :=
  match templateFail 15 m.base with
  | some c => some c
  | none =>
    if (m.base.image.getD 1 0).getLsbD 9 && m.classes.all (fun p => decide (1 ≤ p.1 ∧ p.1 < 64)) then none else some 0x06

/-- Whether a message-thread template passes (R341). -/
def msgTemplateOk (m : MsgTemplate) : Bool := (msgTemplateFail m).isNone

/-- A report of Headland to physical function 0. -/
def State.report (s : State) (r : Pf0Log) : State := { s with head := { s.head with log := s.head.log ++ [r] } }

/-- An answer to the host. -/
def State.reply (s : State) (l : List Nat) : State := { s with host := { s.host with answer := l } }

/-- A template refused, with the cause of the check that failed (R29, R319, R341). -/
def State.refuseTemplate (s : State) (lea : Nat) (cause : BitVec 8) : State :=
  (s.report (.refusedTemplate lea cause.toNat)).reply [1, cause.toNat]

/-- A request of the host driver refused. -/
def State.refuseRequest (s : State) (n : Nat) : State := (s.report (.refusedRequest n 0)).reply [1]

/-! ## Host frames and save areas (R382, R385, R391) -/

/-- Whether a host frame exists: 96 GiB a die, or 48 GiB on a die with a disabled pseudo-channel (R385, R427). -/
def State.frameThere (s : State) (frame : Nat) : Bool :=
  let d := frame * frameBytes / hbmBytes
  decide (d < 8) && (decide (frame * frameBytes % hbmBytes < 48 * 2 ^ 30) || !s.head.disabledChannels.any (fun p => p.1 == d))

/-- Whether a stage-2 entry of a lea names a frame (R391). -/
def Lea.namesFrame (l : Lea) (frame : Nat) : Bool := l.s2.any (fun e => e.2.getLsbD 0 && s2Frame e.2 == frame)

/-- Whether a frame is a save area of a lea (R382). -/
def Lea.savesIn (l : Lea) (frame : Nat) : Bool := l.areas.any (fun p => p.2 == frame)

/-- Whether Headland may take a frame for a save area: nothing holds it and nothing names it (R382, R391). -/
def State.frameFree (s : State) (used : List Nat) (frame : Nat) : Bool :=
  s.frameThere frame && (keyFind s.head.frames frame).isNone && !used.contains frame
    && !s.leas.any (fun l => l.2.namesFrame frame || l.2.savesIn frame)

/-- The highest free frame below one, within a number of trials. -/
def State.freeFrame (s : State) (used : List Nat) : Nat → Nat → Option Nat
  | 0, _ => none
  | _, 0 => none
  | n + 1, f + 1 => if s.frameFree used f then some f else s.freeFrame used n f

/-- A save area for each of a list of cores, in the HBM of the core's die: the highest free frames (R382; log 87). -/
def State.chooseAreas (s : State) : List Nat → List (Nat × Nat) → Option (List (Nat × Nat))
  | [], got => some got
  | c :: t, got =>
    let used := got.map (fun p => p.2)
    let named := (s.leas.map (fun l => l.2.s2.length + l.2.areas.length)).sum
    match s.freeFrame used (1 + used.length + named + s.head.frames.length + 24576) ((dieOf c + 1) * (hbmBytes / frameBytes)) with
    | some f => if f * frameBytes / hbmBytes = dieOf c then s.chooseAreas t (keySet got c f) else none
    | none => none

/-! ## Creating and destroying leas (R370, R440) -/

/-- A core's local store scrubbed, with its past (R7, R28). -/
def State.scrubCore (s : State) (core : Nat) : State := s.scrubFor none (lsAddr core 0) 0x100000

/-- The banks of a lea's commons scrubbed, with their past (R7, R28). -/
def State.scrubBanks (s : State) (banks : List (Nat × List Nat)) : State :=
  banks.foldl (fun s p => p.2.foldl (fun (s : State) b => s.scrubFor none (commonsAddr p.1 b 0) bankBytes) s) s

/-- What a lea holds of a core's local store scrubbed, with its past: slices, and the pool (R7, R28, R378). -/
def State.scrubOwned (s : State) (lea core : Nat) : State :=
  let c := s.core core
  let s1 := (List.range 16).foldl (fun s k => if c.sliceOwner k = some lea then s.scrubFor none (sliceAt core k) 0x8000 else s) s
  if c.lea = some lea then s1.scrubFor none (poolAt core) 0x40000 else s1

/-- The values of the bytes of a save area, a bit for each (R7). -/
def SaveArea.values (v : SaveArea) : BitVec 256 :=
  v.slots.foldl (fun x p => x ||| p.2.cells.values) (v.pool.elim 0 (fun p => p.cells.values))

/-- A free core given to a lea at its creation: its local store and units scrubbed, slot 15 loaded; on a die whose logic is being reset
the die's scrub loads it (R28, R341, R370, R425). -/
def State.giveCore (s : State) (core : Nat) (l : Lea) : State :=
  let c := s.core core
  if c.lea.isSome || c.handover.isSome || !c.sched.isEmpty || c.schedNext.isSome then s
  else
    let s1 := (s.scrubCore core).modCore core (fun c =>
      { c.scrubUnits with lea := some l.num, slots := List.replicate 16 Slot.reset, fills := [], waits := [] })
    if (s.dies[dieOf core]?).any (fun d => d.phase == .reset) then s1 else s1.loadMessage core l

/-- The saved image of a core that a dump holds, put into the save area of a lea re-created for the same tenant, with the entries of its
context area (R382, R415, R430). -/
def State.unwrap (s : State) (l : Lea) (d : LeaDump) : State :=
  d.saves.foldl (fun s p => match l.cores[p.1]? with
    | some c => s.modCore c (fun x =>
      { x with
        saves := if x.lea = some l.num then x.saves else keySet x.saves l.num p.2
        ctx := x.ctx ++ (d.ctx.filter (fun e => e.1 == p.1)).map (fun e => ((l.num, e.2.1), e.2.2))
        ctxGen := x.ctxGen ++ (d.ctxGen.filter (fun e => e.1 == p.1)).map (fun e => ((l.num, e.2.1), e.2.2)) })
    | none => s) s

/-- The lea that a request makes of its items. -/
def newLea (req : LeaRequest) (cores : List Nat) (banks ways svc : List (Nat × List Nat)) (areas : List (Nat × Nat))
    (dump : Option LeaDump) : Lea :=
  let near := cores.all (fun c => dieOf c == dieOf (cores.headD 0))
  { num := req.lea, leab := req.leab, cores := cores, banks := banks, ways := ways, svc := svc, bulk := req.bulk,
    keys := req.keys, areas := areas, clock := req.clock.getD 40, digest := req.digest, s2base := req.s2base, s2len := req.s2len, s2 := [], s2bad := [],
    s1root := [], gtoff := 0, gtoffNext := none, paused := 0, isPaused := false, lastGuest := 0, wdlim := 0,
    xp := if near then 1 else if cores.length = 2048 then 256 else 2 ^ (Config.exchangePlog req.leab req.leal % 9)
    perPair := 1 + Config.exchangeRate req.leab req.leal % 65535
    queues := [], tokens := [], templates := [], msg := req.msg, log := [], recs := [], dump := dump,
    wrote := dump.elim 0 (fun d => d.saves.foldl (fun x p => x ||| p.2.values) 0) }

/-- Whether what a request names, other than divided items, can be met; the nominal clock is 2.0 GHz where none is named (R330,
R341, R370, R385, R391, R440). -/
def State.requestOk (s : State) (req : LeaRequest) : Bool :=
  s.head.power == .running && decide (req.lea < 2048) && (s.lea req.lea).isNone
    && decide (1 ≤ req.leal ∧ req.leab + req.leal ≤ s.coreList.length)
    && decide (req.bulk + (s.leas.map (fun l => l.2.bulk)).sum ≤ 4080)
    && !req.keys.isEmpty && noRepeats req.keys
    && req.keys.all (fun k => decide (1 ≤ k ∧ k < 4096) && (keyFind s.head.keys k).isNone)
    && decide (24 ≤ req.clock.getD 40 ∧ req.clock.getD 40 ≤ 48) && decide (1 ≤ req.s2len ∧ req.s2len ≤ 524288)
    && req.banks.all (fun p => decide (p.1 < 8)) && req.ways.all (fun p => decide (p.1 < 8))
    && req.svc.all (fun p => decide (p.1 < 1024))

/-- LEA_CREATE (R370, R382, R440): the items are assigned and reported, a frame under the lea's first key is its save area for
each core, and the lea's free cores are given to it. -/
def execLeaCreate (req : LeaRequest) (s : State) : Out1 :=
  .next (
    let refuse : State := s.refuseRequest req.lea
    let cores := (s.coreList.drop req.leab).take req.leal
    match req.msg.elim (some 0x06) msgTemplateFail with
    | some c => s.refuseTemplate req.lea c
    | none =>
      if !s.requestOk req then refuse
      else match chooseAll (fun d r => chooseItems 0 512 (s.taken Lea.banks d) r) req.banks,
          chooseAll (fun d r => chooseItems 0 16 (s.taken Lea.ways d) r) req.ways,
          chooseAll (fun c r => chooseSlots (s.taken Lea.svc c) r) req.svc, s.chooseAreas cores [] with
      | some banks, some ways, some svc, some areas =>
        if !s.queuesFit svc then refuse
        else
          let dump := s.head.dump.find? (fun d => d.digest == req.digest)
          let l := newLea req cores banks ways svc areas dump
          let s1 : State := { s with
            leas := keySet s.leas req.lea l
            mem := areas.foldl (fun m p => m.scrub (p.2 * frameBytes) frameBytes) s.mem
            head := { s.head with keys := req.keys.foldl (fun m k => keySet m k req.lea) s.head.keys
                                  frames := areas.foldl (fun m p => keySet m p.2 (req.keys.headD 0)) s.head.frames
                                  log := s.head.log ++ [.choice req.lea]
                                  dump := s.head.dump.filter (fun d => d.digest != req.digest) } }
          let s2 := cores.foldl (fun s c => s.giveCore c l) (s1.scrubBanks banks)
          let s3 := match dump with
            | some d => s2.unwrap l d
            | none => s2
          (s3.repause req.lea).reply (0 :: (banks ++ ways ++ svc).flatMap (fun p => p.1 :: p.2))
      | _, _, _, _ => refuse)

/-- A thread that debug halted goes on as it was (R396, R397). -/
def Slot.debugWake (x : Slot) : Slot := match x.debugHalt with
  | some r => { x with run := r, debugHalt := none }
  | none => x

/-- A thread that debug halted and that is not resident will go on as it was (R396, R397). -/
def Kept.debugWake (k : Kept) : Kept := match k.debugHalt with
  | some r => { k with run := r, debugHalt := none }
  | none => k

/-- Every thread of a core that debug halted goes on: in its slots, its save areas and its context areas (R396, R397). -/
def Core.debugWake (c : Core) : Core :=
  let waits (l : List (Nat × Kept)) : List (Nat × Kept) := l.map (fun p => (p.1, p.2.debugWake))
  { c with
    slots := c.slots.map Slot.debugWake
    saves := c.saves.map (fun p => (p.1, { p.2 with
      slots := p.2.slots.map (fun q => (q.1, { q.2 with slot := q.2.slot.debugWake, waits := waits q.2.waits }))
      pool := p.2.pool.map (fun q => { q with waits := waits q.waits }) }))
    ctx := c.ctx.map (fun e => (e.1, { e.2 with kept := e.2.kept.debugWake }))
    waits := waits c.waits }

/-- Every thread that debug halted resumes (R396, R397). -/
def State.debugWake (s : State) : State := { s with cores := s.cores.map (fun p => (p.1, p.2.debugWake)) }

/-- The debug function locks the lea it holds: its controls are zero, and every thread that debug halted resumes (R396,
R397). -/
def State.debugLock (s : State) : State :=
  let u := s.debugWake
  { u with dbg := { u.dbg with lea := none, stop := false, brkcap := false, matchAddr := List.replicate 4 0,
                               matchOn := List.replicate 4 false } }

/-- A schedule in which the slices of a lea that is gone are no lea's, so that those of the others keep their boundaries; one without
any other lea's is no schedule (R370, R377; log 88). -/
def schedWithout (lea : Nat) (sched : List (Nat × Nat)) : List (Nat × Nat) :=
  let l := sched.map (fun e => if e.1 = lea then (idleSlice, e.2) else e)
  if l.all (fun e => e.1 == idleSlice) then [] else l

/-- A handover on a core whose incoming or outgoing lea is gone. Without its incoming lea it goes on to the slice in progress, which is
no lea's, or without a schedule back to the outgoing lea, and ends where there is neither; what had been restored is vacated (R370,
R378; log 88). -/
def Core.turnHandover (c : Core) (lea : Nat) : Core :=
  match c.handover with
  | none => c
  | some h =>
    let out := if h.out = some lea then none else h.out
    if h.into ≠ lea ∧ !(h.into == idleSlice && c.sched.isEmpty) then { c with handover := some { h with out := out } }
    else
      match ((c.sched[c.slice]?).map (fun e => e.1)).orElse (fun _ => out) with
      | none => { c with handover := none, slots := List.replicate 16 Slot.reset }
      | some into =>
        let back := c.lea == some into
        { c with
          rotNext := if back then h.rot else c.rotNext
          handover := some { h with out := if c.lea.isNone then none else out, into := into, restored := [] }
          slots := (List.range 16).map (fun k =>
            if h.restored.contains k then { Slot.reset with vacated := true } else c.slot k) }

/-- A core without anything of a lea: the units that it holds are scrubbed, and its images and entries go (R28, R382). -/
def State.clearCore (s : State) (lea core : Nat) : State :=
  let c := s.core core
  let sched := schedWithout lea c.sched
  let c1 : Core := { c with
    saves := keyDel c.saves lea, ctx := c.ctx.filter (fun e => e.1.1 != lea), ctxGen := c.ctxGen.filter (fun e => e.1.1 != lea)
    gtb := c.gtb.filter (fun e => e.lea != lea), icache := c.icache.filter (fun e => e.lea != lea)
    fills := c.fills.filter (fun f => f.lea != lea), headRecords := c.headRecords.filter (fun r => r.1 != lea)
    debts := keyDel c.debts lea, accrued := c.accrued.filter (fun n => n != lea), sched := sched
    slice := if sched.isEmpty then 0 else c.slice, lag := if sched.isEmpty then 0 else c.lag
    schedNext := c.schedNext.filter (fun l => !l.any (fun e => e.1 == lea))
    lea := if sched.isEmpty ∧ c.lea = some idleSlice then none else c.lea
    waits := c.waits.filter (fun p => inPool p.1 || c.sliceOwner (p.1 / 0x8000) != some lea)
    slots := c.slots.map (fun x => if x.lea = some lea then { Slot.reset with vacated := x.vacated, stopped := x.stopped } else x) }
  let s1 := (s.scrubOwned lea core).setCore core (if c.lea = some lea then { c1.scrubUnits with lea := none } else c1)
  let s2 := s1.modCore core (fun c => c.turnHandover lea)
  match (s2.core core).handover with
  | some h => s2.repause h.into
  | none => s2

/-- LEA_DESTROY (R370, R391): the lea's work, threads, items, bindings and keys are gone; what it held is scrubbed (log 35). -/
def execLeaDestroy (lea : Nat) (s : State) : Out1 :=
  .next (match s.lea lea with
    | none => s.reply [1]
    | some l =>
      let ids := (s.outs.filter (fun o => o.lea == lea)).map (fun o => o.id)
      let s1 : State := { s with
        outs := s.outs.filter (fun o => o.lea != lea)
        mail := s.mail.filter (fun m => m.lea != lea)
        banks := s.banks.map (fun p => (p.1, p.2.filter (fun i => !ids.contains i)))
        gangs := s.gangs.filter (fun g => g.lea != lea)
        circuits := s.circuits.filter (fun c => c.lea != lea)
        agreements := s.agreements.filter (fun a => a.lea != lea)
        leas := keyDel s.leas lea
        mem := { s.mem with past := s.mem.past.filter (fun p => !s.ownsRegion lea l p.1) }
        head := { s.head with keys := s.head.keys.filter (fun p => p.2 != lea)
                              frames := s.head.frames.filter (fun p => !l.keys.contains p.2) } }
      let s2 := l.cores.foldl (fun s c => s.clearCore lea c) (s1.scrubBanks l.banks)
      (if s.dbg.lea = some lea then s2.debugLock else s2).reply [0])

/-! ## Slices, templates, limits (R319, R328, R334, R377) -/

/-- The slices of a lea in a schedule: their starts in tides from the beginning, and their lengths (R377). -/
def slicesOf (lea : Nat) : Nat → List (Nat × Nat) → List (Nat × Nat)
  | _, [] => []
  | t, (l, n) :: r => if l = lea then (t, n) :: slicesOf lea (t + n) r else slicesOf lea (t + n) r

/-- The schedule that a core has, or is to have. -/
def Core.schedWanted (c : Core) : List (Nat × Nat) := c.schedNext.getD c.sched

/-- Whether a core's schedule is well formed: its leas may hold the core, and a lea that shares a core lies within one island
(R377). -/
def State.schedOk (s : State) (core : Nat) (sched : List (Nat × Nat)) : Bool :=
  let shared := decide (1 < (sched.map (fun e => e.1)).dedup.length)
  !sched.isEmpty && decide (sched.length ≤ 16) && sched.all (fun e =>
    decide (16 ≤ e.2 ∧ e.2 ≤ 65536) && (match s.lea e.1 with
      | none => false
      | some l =>
        l.cores.contains core
          && (!(shared || l.cores.any (fun c => (s.core c).schedWanted.any (fun q => q.1 != e.1 && q.1 != idleSlice)))
              || l.cores.all (fun c => islandOf c == islandOf (l.cores.headD 0)))))

/-- The leas that some cores join, within a number of rounds: those that share a core with one of a list. -/
def State.leasJoined (s : State) : Nat → List Nat → List Nat
  | 0, l => l
  | n + 1, l =>
    let cores := l.flatMap (fun i => (s.lea i).elim [] (fun x => x.cores))
    let more := (s.leas.filter (fun p => !l.contains p.1 && p.2.cores.any cores.contains)).map (fun p => p.1)
    if more.isEmpty then l else s.leasJoined n (l ++ more)

/-- The cores whose schedules depend on each other, from one of them (R377). -/
def State.schedCores (s : State) (core : Nat) : List Nat :=
  let first := (s.leas.filter (fun p => p.2.cores.contains core)).map (fun p => p.1)
  ((s.leasJoined s.leas.length first).flatMap (fun i => (s.lea i).elim [] (fun x => x.cores))).foldl natIns []

/-- Whether two schedules have the entries of a lea at the same boundaries: the same slices, in the same cycle (R377). -/
def sameSlices (lea : Nat) (a b : List (Nat × Nat)) : Bool :=
  slicesOf lea 0 a == slicesOf lea 0 b
    && ((slicesOf lea 0 a).isEmpty || (a.map (fun e => e.2)).sum == (b.map (fun e => e.2)).sum)

/-- Whether a schedule asked for one core agrees with those asked for the other cores of the leas of this one and not yet in force
(R377; log 89). -/
def State.schedJoins (s : State) (core : Nat) (sched : List (Nat × Nat)) : Bool :=
  s.leas.all (fun p => !p.2.cores.contains core || p.2.cores.all (fun c =>
    c == core || (s.core c).schedNext.all (fun l => sameSlices p.1 sched l)))

/-- Whether every core of a lea carries the lea's entries at the same boundaries, in the schedules wanted; and no core is its own
without a schedule while another has one (R377). -/
def State.schedAgrees (s : State) (n : Nat) (l : Lea) : Bool :=
  let wanted (c : Nat) : List (Nat × Nat) := (s.core c).schedWanted
  l.cores.all (fun c => sameSlices n (wanted c) (wanted (l.cores.headD 0)))
    && (l.cores.all (fun c => (wanted c).isEmpty)
        || l.cores.all (fun c => !(wanted c).isEmpty || (s.core c).lea != some n))

/-- The schedules wanted put in force together, once they agree for every lea of their cores; their first slices are due at the
next tide boundary (R377; log 89). -/
def State.commitSched (s : State) (core : Nat) : State :=
  let cores := s.schedCores core
  if s.leas.all (fun p => !p.2.cores.any cores.contains || s.schedAgrees p.1 p.2) then
    cores.foldl (fun s c => s.modCore c (fun c => match c.schedWanted with
      | [] => c
      | l => { c with sched := l, schedNext := none, slice := l.length - 1, sliceEnd := s.now, lag := 0 })) s
  else s

/-- SLICE_SCHEDULE_SET (R377): a schedule is named for one core; it is in force, and the answer 0, with those of the cores that it
depends on, once every lea of theirs has its entries at the same boundaries. Until then it is held, with the answer 2; one that
disagrees with a schedule held for another core of its leas is refused, and so is one asked for while a core that it depends on changes
hands, which is the model's choice (log 89). -/
def execSliceScheduleSet (core : Nat) (sched : List (Nat × Nat)) (s : State) : Out1 :=
  .next (
    if s.schedOk core sched && s.schedJoins core sched && (s.schedCores core).all (fun c => (s.core c).handover.isNone) then
      let s1 := (s.modCore core (fun c => { c with schedNext := some sched })).commitSched core
      s1.reply [if (s1.core core).schedNext.isSome then 2 else 0]
    else s.refuseRequest core)

/-- DISPATCH_TEMPLATE_INSTALL (R319): Headland refuses a template that fails its checks. -/
def execDispatchTemplateInstall (lea slot : Nat) (tmpl : Template) (s : State) : Out1 :=
  .next (
    if (s.lea lea).isSome && decide (slot < 15) then
      match templateFail slot tmpl with
      | none => (s.modLea lea (fun l => { l with templates := keySet l.templates slot tmpl })).reply [0]
      | some c => s.refuseTemplate lea c
    else s.refuseRequest lea)

/-- WDLIM_SET (R328, R393): 0 to 2^20 tides, by the virtual function of a lea that exists. -/
def execWdlimSet (lea limit : Nat) (s : State) : Out1 :=
  .next (if (s.lea lea).isSome ∧ limit ≤ 2 ^ 20 then (s.modLea lea (fun l => { l with wdlim := limit })).reply [0] else s.reply [1])

/-- QUEUE_DISABLE (R334). -/
def execQueueDisable (lea queue : Nat) (off : Bool) (s : State) : Out1 :=
  .next (if queue < 64 then s.modLea lea (fun l => { l with queues := keySet l.queues queue { l.queue queue with off := off } }) else s)

/-- LEA_MIGRATION (R227): the paused count and GTOFF of a paused lea are set so that guest time goes on from its value at the
pause; other values change nothing. A GTOFF that awaits the next tide boundary still awaits it. -/
def execLeaMigration (lea paused : Nat) (gtoff : Word) (s : State) : Out1 :=
  .next (match s.lea lea with
    | some l =>
      if l.isPaused ∧ paused ≤ s.now ∧ BitVec.ofNat 64 (s.now - paused) + gtoff = s.guestTime (some lea) then
        (s.modLea lea (fun l => { l with paused := paused, gtoff := gtoff, lastGuest := s.now - paused })).reply [0]
      else s.reply [1]
    | none => s.reply [1])

/-! ## Stage 2, keys, frames (R385, R389, R391) -/

/-- Whether an access of a lea has a translation and is not yet performed (R389). -/
def Out.translated (o : Out) (lea : Nat) : Bool :=
  o.lea == lea && o.paged && o.parts.any (fun p => p.pa.isSome && p.stage != .performed)

/-- STAGE2_CHANGE (R389): the entry changes, and every translation of the lea is dropped; it completes once no access, and no fill of
an instruction cache, can use a dropped one. No entry names a save area, which no instruction of any lea can address (R382). -/
def execStage2Change (lea frame : Nat) (entry : Word) (s : State) : Out1 :=
  .next (match s.lea lea with
    | none => s
    | some l =>
      if l.s2len ≤ frame ∨ s.outs.any (fun o => o.translated lea) ∨ s.fillsBegun lea (fun _ _ => true)
          ∨ (entry.getLsbD 0 ∧ s.leas.any (fun p => p.2.savesIn (s2Frame entry))) then s
      else
        let s1 := (s.flushLea lea).modLea lea (fun l => { l with s2 := if entry = 0 then keyDel l.s2 frame else keySet l.s2 frame entry, s2bad := natDel l.s2bad frame })
        { s1 with cores := s1.cores.map (fun p => (p.1, { p.2 with gtb := p.2.gtb.filter (fun e => e.lea != lea) })) })

/-- KEY_ASSIGN (R391). -/
def execKeyAssign (lea key : Nat) (s : State) : Out1 :=
  .next (
    if (s.lea lea).isSome && decide (1 ≤ key ∧ key < 4096) && (keyFind s.head.keys key).isNone then
      (({ s with head := { s.head with keys := keySet s.head.keys key lea } }).modLea lea (fun l =>
        { l with keys := l.keys ++ [key] })).reply [0]
    else s.reply [1])

/-- KEY_IDENTIFIER_REMOVE (R391): only an identifier to which no frame is bound; the lea's save areas lie under its first
(R382). -/
def execKeyIdentifierRemove (lea key : Nat) (s : State) : Out1 :=
  .next (match s.lea lea with
    | none => s.reply [1]
    | some l =>
      if l.keys.contains key && l.keys.head? != some key && !s.head.frames.any (fun p => p.2 == key) then
        (({ s with head := { s.head with keys := keyDel s.head.keys key } }).modLea lea (fun l =>
          { l with keys := natDel l.keys key })).reply [0]
      else s.reply [1])

/-- FRAME_REBIND (R391): only a frame that no stage-2 entry names; it is written with zeros under a new key. -/
def execFrameRebind (frame : Nat) (key : Option Nat) (s : State) : Out1 :=
  .next (
    if !s.frameThere frame || s.leas.any (fun l => l.2.namesFrame frame || l.2.savesIn frame)
        || key.any (fun k => k != 0 && (keyFind s.head.keys k).isNone) then s.reply [1]
    else
      let frames := match key with
        | some k => keySet s.head.frames frame k
        | none => keyDel s.head.frames frame
      let s1 := s.giveUp ((keyFind s.head.frames frame).bind (keyFind s.head.keys)) (frame * frameBytes) frameBytes
      ({ s1 with head := { s1.head with frames := frames }
                 mem := if key.isSome then s1.mem.scrub (frame * frameBytes) frameBytes else s1.mem }).reply [0])

/-! ## Host access to lea memory (R393) -/

/-- The host addresses of n bytes from a guest physical address, where every frame is resident and grants a right (R386,
R393). -/
def State.hostRange (s : State) (l : Lea) (gpa n right : Nat) : Option (List Nat) :=
  let each := (List.range n).map (fun i => match s.stage2 l 0 (gpa + i) false with
    | .ok h e => if e.getLsbD right then some h else none
    | _ => none)
  if each.all (fun x => x.isSome) then some (each.filterMap (fun x => x)) else none

/-- Bytes written at host addresses: whole doublewords where they are covered (R422). -/
def Memory.hostWrite (m : Memory) : Nat → List Nat → List Byte → Memory
  | 0, _, _ => m
  | k + 1, a :: as, b :: bs =>
    if a % 8 = 0 ∧ 7 ≤ bs.length ∧ 7 ≤ as.length ∧ as.getD 6 0 = a + 7 then
      let v := ((b :: bs).take 8).foldr (fun x acc => x.toNat + 256 * acc) 0
      (m.putWord a ⟨BitVec.ofNat 64 v, false⟩).hostWrite k (as.drop 7) (bs.drop 7)
    else (m.store a 1 b.toNat false).hostWrite k as bs
  | _, _, _ => m

/-- The die of an HBM address. -/
def hbmDie (a : Nat) : Nat := a / hbmBytes

/-- What the host reads at host addresses: 2 before poisoned data, which leave as a poisoned TLP (R422); a die in reset answers
with poison of no stated value (R425; log 7). -/
def State.hostRead (s : State) (lea : Nat) (as : List Nat) : State :=
  let down (a : Nat) : Bool := !s.dieUp (hbmDie a)
  let byte (i a : Nat) : Nat := if down a then (s.undef (some lea) (s.free + i)).toNat % 256 else (s.mem.cells.get a).toNat
  { s with free := s.free + as.length }.reply
    ((if as.any (fun a => s.mem.isBad a || down a) then 2 else 0) :: (List.range as.length).map (fun i => byte i (as.getD i 0)))

/-- What the host writes at host addresses; a write to a die in reset is discarded and logged (R425). -/
def State.hostWrite (s : State) (lea : Nat) (as : List Nat) (bs : List Byte) : State :=
  let here := (as.zip bs).filter (fun p => s.dieUp (hbmDie p.1))
  let s1 : State := { s with mem := s.mem.hostWrite bs.length (here.map (fun p => p.1)) (here.map (fun p => p.2)) }
  ((as.filter (fun a => !s.dieUp (hbmDie a))).map (fun a => a / 64 * 64)).dedup.foldl (fun s a => s.logDiscard (hbmDie a) lea (some a)) s1

/-- The flat addresses of n bytes of a lea's commons partition on a die (R249, R439). -/
def Lea.commonsRange (l : Lea) (die off n : Nat) : Option (List Nat) :=
  let each := (List.range n).map (fun i => (l.banksOn die)[(off + i) / bankBytes]?.map (fun b => commonsAddr die b ((off + i) % bankBytes)))
  if each.all (fun x => x.isSome) then some (each.filterMap (fun x => x)) else none

/-- HOST_MEMORY_ACCESS (R304, R393, R398, R430): a lea's memory through its stage 2, with its rights (log 36), its commons, and
what its virtual function and physical function 0 can read: the region under key 0 of a dump; and power and temperature of an island
and of the module, the sum of the islands' draws and the highest of their temperatures (log 97). -/
def execHostMemoryAccess (lea gpa : Nat) (op : HostOp) (s : State) : Out1 :=
  .next (match op, s.lea lea with
    | .readings fn island, _ => match if fn = 0 then s.islands[island]? else none with
      | some k => s.reply [0, k.draw, k.heat, (s.islands.map (fun k => k.draw)).sum, (s.islands.map (fun k => k.heat)).foldl max 0]
      | none => s.reply [1]
    | .dump, _ => match s.head.headDump with
      | some d => if s.head.power = .running then { s with host := { s.host with answer := [0], region := some d } } else s.reply [1]
      | none => s.reply [1]
    | .read n, some l => match s.hostRange l gpa n 1 with
      | some as => s.hostRead lea as
      | none => s.reply [1]
    | .write bs, some l => match s.hostRange l gpa bs.length 2 with
      | some as => (s.hostWrite lea as bs).reply [0]
      | none => s.reply [1]
    | .commonsWrite die bs, some l => match l.commonsRange die gpa bs.length with
      | some as =>
        if s.dieUp die then ({ s with mem := s.mem.hostWrite bs.length as bs }).reply [0] else (s.logDiscard die lea none).reply [0]
      | none => s.reply [1]
    | .retired q, some l => if q < 64 then s.reply [0, (l.queue q).retired] else s.reply [1]
    | .rate, some l => s.reply [0, l.exchangeCap]
    | .faults, some l => s.reply (0 :: l.log.flatMap (fun p => [p.1, p.2]))
    | _, none => s.reply [1])

end Sys2Proof.Machine
end

