-- ==== Sys2Proof/Machine/Recovery.lean ====
section
/-! DEFINITION. Link replays, soft errors, die reset, fences, fatal errors and start (R223, R421-R431), the SPDM, IDE and debug
services (R394-R397), and the failures of fetch and decode (R47, R48, R401, R437). -/

namespace Sys2Proof.Machine

/-! ## Links and soft errors (R223, R421, R424) -/

/-- LINK_REPLAY (R223): a replay beyond the skid holds the link of a boundary for one tide, of 4,096 slots. A replay that has ended
is kept until the pending entries that it may have held are no longer awaited (R325; log 86). -/
def execLinkReplay (link : Nat) (s : State) : Out1 :=
  .next { s with replays := s.replays.filter (fun r => decide (s.now < r.2 + 3 * 4096)) ++ [(link, s.now + 4096)] }

/-- Whether some memory of the module has an address: HBM, the slices and pools of local store, or the commons (R10, R29, R249,
R385; log 3). -/
def memoryHas (a : Nat) : Bool :=
  decide (a < 8 * hbmBytes) || (match lsCoreOf a with
    | some _ => decide ((a - lsOrigin) % 2 ^ 20 < 0xC0000)
    | none => false)
  || decide (commonsOrigin ≤ a ∧ a < commonsOrigin + 8 * 512 * bankBytes)

/-- UNCORRECTABLE_ERROR (R404, R421, R426, R429): a corrected error is counted only; data are poisoned at their home: in memory, in
a bay (R175), in an occupied mailbox entry, and so is a stage-2 entry (log 52); a thread's slot state traps with cause 0x55; a die's
control state awaits a die reset, and Headland's is fatal. -/
def execUncorrectableError (site : ErrorSite) (s : State) : Out1 :=
  match site with
  | .corrected a => .next (s.report (.corrected a))
  | .data a =>
    if memoryHas a then .next { s with mem := s.mem.setBad a true } else .fault .noSuchAddress
  | .stage2 lea frame =>
    .next (s.modLea lea (fun l => if frame < l.s2len then { l with s2bad := natIns l.s2bad frame } else l))
  | .slotState core slot =>
    .next (if (s.slot core slot).run = .absent then s else s.trapSlot core slot 0x55 0 0)
  | .plane core shadow d =>
    .next (if 1088 ≤ d then s else s.modCore core (fun c =>
      if shadow then { c with bay := { c.bay with shadow := { c.bay.shadow with bad := natIns c.bay.shadow.bad d } } }
      else { c with bay := { c.bay with active := { c.bay.active with bad := natIns c.bay.active.bad d } } }))
  | .tile core t d =>
    .next (if 2048 ≤ d then s else s.modCore core (fun c =>
      { c with bay := { c.bay with tiles := listMod c.bay.tiles t (fun x => { x with bad := natIns x.bad d }) } }))
  | .mailbox core entry word =>
    .next (s.modCore core (fun c => { c with mailbox := c.mailbox.map (fun e =>
      if e.idx = entry then { e with payload := listMod e.payload word (fun v => { v with bad := true }) } else e) }))
  | .dieControl die => .next ({ s with dies := listMod s.dies die (fun d => { d with failed := true }) }.report .machineCheck)
  | .headland => .next { s with head := { s.head with failing := s.head.failing.orElse (fun _ => some .headlandState) } }

/-- PATROL_SCRUB (R424): a unit is read and corrected; no value and no timing changes (R421). -/
def execPatrolScrub (addr : Nat) (s : State) : Out1 := if memoryHas addr then .next s else .fault .noSuchAddress

/-! ## Die reset (R425, R426) -/

/-- DIE_RESET (R425): from a tide boundary the die is isolated. -/
def execDieReset (die : Nat) (s : State) : Out1 :=
  .next (
    if s.tideSlot ≠ 0 ∨ !s.dieUp die then s
    else { s with dies := listMod s.dies die (fun d => { d with phase := .isolate s.now, touched := [], failed := false }) })

/-- The physical cores of a die. -/
def dieCores (die : Nat) : List Nat := (List.range 256).map (fun i => 256 * die + i)

/-- The leas that a reset of a die touches: those with cores, circuits or frames on it (R426). -/
def State.touchedBy (s : State) (die : Nat) : List Nat :=
  (s.leas.filter (fun p =>
    p.2.cores.any (fun c => dieOf c == die)
      || s.circuits.any (fun c => c.lea == p.1 && c.dies.contains die)
      || s.head.frames.any (fun f => p.2.keys.contains f.2 && f.1 * frameBytes / hbmBytes == die))).map (fun p => p.1)

/-- The threads of a core lost with its die: they count as removed from their gangs, and its context stops (R302, R357, R426). -/
def State.loseCore (s : State) (core : Nat) : State :=
  let s1 := (List.range 16).foldl (fun s k =>
    let x := s.slot core k
    if x.run = .absent then s else s.leaveGang x.lea x.gang core k) (s.flushLate core)
  if (s1.dor core).state = .running then s1.dStop core .empty 0 0 else s1

/-- What leas have written in the local store of a core that changes hands stays theirs, as nothing of it is left to save (R7, R425). -/
def State.giveUpCore (s : State) (core : Nat) : State :=
  let c := s.core core
  if c.handover.isNone then s
  else ((List.range 16).foldl (fun s k => s.giveUp (c.sliceOwner k) (sliceAt core k) 0x8000) s).giveUp c.lea (poolAt core) 0x40000

/-- A save area of which the die reset has taken what belongs with a pool that was lost: the pool's image and the message thread
(R341, R382). -/
def SaveArea.lostPool (v : SaveArea) : SaveArea := { slots := keyDel v.slots 15, pool := none, sems := [] }

/-- The logic of a core after the reset of its die: its units and slots at their reset values; its save and context areas lie
in HBM and stay, and what Headland keeps for it. In a handover nothing is left to save, and the message thread of the lea whose
pool is lost is loaded from its template again. The records that wait in Headland for the core's slot 15 go with what they are about, which
is the model's choice (R341, R382, R415, R426; log 37). -/
def Core.afterReset (c : Core) : Core :=
  let r : Core := { Core.reset with
    lea := c.lea, turned := c.turned, laned := c.laned, arrayed := c.arrayed, trees := c.trees, saves := c.saves, ctx := c.ctx,
    ctxGen := c.ctxGen, sched := c.sched, schedNext := c.schedNext, slice := c.slice, sliceEnd := c.sliceEnd, lag := c.lag, debts := c.debts,
    accrued := c.accrued, delivered := c.delivered, counting := c.counting }
  match c.handover with
  | none => r
  | some h =>
    let lost := match c.lea with
      | some a => if (keyFind c.saves a).isSome then keySet c.saves a (c.save a).lostPool else c.saves
      | none => c.saves
    { r with
      saves := lost
      handover := some { h with out := none, stopped := List.range 16, saved := List.range 16, restored := [] }
      slots := List.replicate 16 { Slot.reset with vacated := true } }

/-- A remote request that has come to a die and is not yet answered, with its access and its address (R246, R425). -/
def Out.atDie (o : Out) (die : Nat) : Option (Access × Nat) :=
  match o.access with
  | some x =>
    match x.parts[0]? with
    | some p =>
      let there : Bool := match p.stage with
        | .arrived => true
        | .waiting _ => true
        | .service _ => true
        | _ => false
      if x.remote && x.die == die && there then p.pa.map (fun a => (x, a)) else none
    | none => none
  | none => none

/-- DIE_RESET_LOGIC (R325, R425, R426): at B + 3 everything that runs on the die is lost, the requests that other dies
have sent there meet its responders, and every circuit that crosses its links is torn down. -/
def execDieResetLogic (die : Nat) (s : State) : Out1 :=
  .next (match (s.dies[die]?).map (fun (d : Die) => d.phase) with
    | some (.isolate b) =>
      if s.now < b + 3 * 4096 then s
      else
        let hit := s.touchedBy die
        let s1 := (dieCores die).foldl (fun s c => (s.loseCore c).giveUpCore c) s
        let ids := (s1.outs.filter (fun o => dieOf o.core == die)).map (fun o => o.id)
        let s2 : State := { s1 with
          outs := s1.outs.filter (fun o => dieOf o.core != die)
          mail := s1.mail.filter (fun m => dieOf m.src != die)
          banks := s1.banks.map (fun p => (p.1, p.2.filter (fun i => !ids.contains i)))
          agreements := s1.agreements.filter (fun a => dieOf a.coord != die)
          cores := s1.cores.map (fun p => if dieOf p.1 = die then (p.1, p.2.afterReset) else p)
          dies := listMod s1.dies die (fun d => { d with phase := .reset, touched := hit }) }
        let s3 := s2.outs.foldl (fun s o => match o.atDie die with
          | some (x, a) => s.responder o x a
          | none => s) s2
        (s3.circuits.filter (fun c => c.phase.stands && c.dies.contains die)).foldl State.dropCircuit s3
    | _ => s)

/-- DIE_SCRUB (R28, R341, R425): every SRAM of the die is zero and full, and slot 15 of each held core is loaded from its
lea's template. -/
def execDieScrub (die : Nat) (s : State) : Out1 :=
  .next (match (s.dies[die]?).map (fun (d : Die) => d.phase) with
    | some .reset =>
      let s1 : State := { s with
        mem := (s.mem.scrub (lsAddr (256 * die) 0) (256 * 2 ^ 20)).scrub (commonsAddr die 0 0) (512 * bankBytes)
        dies := listMod s.dies die (fun d => { d with phase := .scrubbed s.now }) }
      (dieCores die).foldl (fun s core =>
        let c := s.core core
        match if c.handover.any (fun h => c.lea != some h.into) then none else c.lea.bind s.lea with
        | some l => s.loadMessage core l
        | none => s) s1
    | _ => s)

/-- Memory with the doublewords of n bytes from an address poisoned. -/
def Memory.poisonRange (m : Memory) (a n : Nat) : Memory :=
  (List.range (n / 8)).foldl (fun m i => m.setBad (a + 8 * i) true) m

/-- What the responders discarded, poisoned: the 64-byte unit of each write, or every frame of the die bound to a lea whose
write was discarded where the log has overflowed, which its size decides (R425; log 7). -/
def State.poisonDiscarded (s : State) (die : Nat) (l : List (Nat × Option Nat)) : State :=
  let full := l.any (fun x => x.2.isSome) && Config.freeNat s.free % 2 == 1
  let s1 : State := { s with free := s.free + 1 }
  if full then
    let mine (f : Nat × Nat) : Bool := f.1 * frameBytes / hbmBytes == die && l.any (fun x => x.2.isSome && (match s.lea x.1 with
      | some y => y.keys.contains f.2
      | none => false))
    { s1 with mem := (s.head.frames.filter mine).foldl (fun m f => m.poisonRange (f.1 * frameBytes) frameBytes) s.mem }
  else
    { s1 with mem := l.foldl (fun m x => match x.2 with
      | some a => m.poisonRange (a / 64 * 64) 64
      | none => m) s.mem }

/-- A notice to slot 15 of a core (R401). -/
def State.notice (s : State) (core lea : Nat) (cause : BitVec 8) (tval : Nat) : State :=
  s.headRecord core (some lea) 15 .die 2 0 cause 0 (BitVec.ofNat 64 tval) 0

/-- DIE_REJOIN (R425, R426): at the next boundary the units that discarded writes named are poisoned, the die works, and the
notices go out to each touched lea's first core on every other die; the time of the notices is the model's choice (log 37). -/
def execDieRejoin (die : Nat) (s : State) : Out1 :=
  .next (match s.dies[die]? with
    | some d =>
      match d.phase with
      | .scrubbed t =>
        if s.tideSlot ≠ 0 ∨ s.now ≤ t then s
        else
          let s1 := s.poisonDiscarded die d.discarded
          let s2 : State := { s1 with dies := listMod s1.dies die (fun d => { d with phase := .up, discarded := [], touched := [] }) }
          d.touched.foldl (fun s n => match s.lea n with
            | some l => (List.range 8).foldl (fun s e => if e = die then s else match l.cores.find? (fun c => dieOf c == e) with
                | some c => s.notice c n 0x57 die
                | none => s) s
            | none => s) s2
      | _ => s
    | none => s)

/-! ## Fences, fatal errors, start (R427-R431) -/

/-- The physical number of a unit (R404, cause 0x58). -/
def unitNumber : PhysUnit → Nat
  | .core n => n
  | .channel die n => 128 * die + n
  | .port n => n

/-- Whether a lea holds a unit: a core of its, or service slots of a pseudo-channel (R428, R440). -/
def Lea.holds (l : Lea) : PhysUnit → Bool
  | .core n => l.cores.contains n
  | .channel die n => !(keyGet [] l.svc (128 * die + n)).isEmpty
  | .port _ => false

/-- UNIT_FENCE (R428): the unit is fenced, and every lea that holds it has a notice at its first core that is not fenced, or at
its first where all are (log 38). -/
def execUnitFence (unit : PhysUnit) (s : State) : Out1 :=
  .next (
    let s1 := s.report (.fenced unit)
    let h := s1.head
    let s2 : State := { s1 with head := match unit with
      | .core n => { h with fenced := natIns h.fenced n }
      | .channel d n => { h with disabledChannels := if h.disabledChannels.contains (d, n) then h.disabledChannels else h.disabledChannels ++ [(d, n)] }
      | .port n => { h with disabledPorts := natIns h.disabledPorts n } }
    s2.leas.foldl (fun s p =>
      if p.2.holds unit then
        match (p.2.cores.find? (fun c => !h.fenced.contains c && unit != .core c)).orElse (fun _ => p.2.cores.head?) with
        | some c => s.notice c p.1 0x58 (unitNumber unit)
        | none => s
      else s) s2)

/-- What the dump holds of a core for the lea that holds its pool: its save area as a handover would leave it (R378, R430). -/
def State.dumpCore (s : State) (lea core : Nat) : SaveArea :=
  let c := s.core core
  let old := c.save lea
  let slots := (List.range 16).foldl (fun l k =>
    if c.sliceOwner k = some lea then
      let r := s.mem.cut (sliceAt core k) 0x8000
      keySet l k { slot := c.slot k, cells := r.cells, fe := r.fe, poison := r.poison, ext := r.ext
                   waits := c.waits.filter (fun p => inSlice k p.1) }
    else l) old.slots
  if c.lea = some lea then
    { slots := slots, pool := some (c.poolSave (s.mem.cut (poolAt core) 0x40000) (c.rotNext.getD c.rot)), sems := [] }
  else { old with slots := slots }

/-- The descriptor of every resident thread exact at its TDP, and what engines have delivered in memory, as a handover leaves them (R30,
R306, R378, R430; logs 50, 107). -/
def State.exactAll (s : State) : State :=
  s.cores.foldl (fun s p => (List.range 16).foldl (fun s k => s.exactDesc p.1 k) (s.flushLate p.1)) s

/-- The banks of a partition as one image, each bank after those before it (R249, R430). -/
def Memory.commonsImage (m : Memory) (die : Nat) (banks : List Nat) : CommonsImage :=
  let all := (List.range banks.length).map (fun i => (i * bankBytes, m.cut (commonsAddr die (banks.getD i 0) 0) bankBytes))
  { cells := all.flatMap (fun r => r.2.cells.map (fun p => (r.1 + p.1, p.2)))
    fe := all.flatMap (fun r => r.2.fe.map (fun p => (r.1 + p.1, p.2)))
    bad := all.flatMap (fun r => r.2.poison.map (fun p => r.1 + p)) }

/-- What a core keeps for each entry of a lea's context area, with the lea's logical number of the core (R415, R430). -/
def Lea.ctxDump {α : Type} (n : Nat) (l : Lea) (f : Nat → List ((Nat × Nat) × α)) : List (Nat × Nat × α) :=
  l.cores.zipIdx.flatMap (fun c => ((f c.1).filter (fun e => e.1.1 == n)).map (fun e => (c.2, e.1.2, e.2)))

/-- The dump of a lea (R382, R415, R430). -/
def State.dumpLea (s : State) (n : Nat) (l : Lea) : LeaDump :=
  { digest := l.digest
    saves := (List.range l.cores.length).map (fun i => (i, s.dumpCore n (l.cores.getD i 0)))
    ctx := l.ctxDump n (fun c => (s.core c).ctx)
    ctxGen := l.ctxDump n (fun c => (s.core c).ctxGen)
    commons := l.banks.map (fun p => (p.1, s.mem.commonsImage p.1 p.2)) }

/-- What Headland keeps of a core (R330, R339, R377, R378, R430). -/
def Core.sliceDump (c : Core) : SliceDump :=
  { sched := c.sched, next := c.schedNext, slice := c.slice, sliceEnd := c.sliceEnd, lag := c.lag, debts := c.debts, accrued := c.accrued,
    delivered := c.delivered, counting := c.counting, handover := c.handover, headRecords := c.headRecords }

/-- The region of a dump under key 0: Headland's own state, every log, and the circuits that the tide tables hold (R430). -/
def State.dumpHead (s : State) (log : List Pf0Log) : HeadDump :=
  { log := log, frames := s.head.frames, keys := s.head.keys, measured := s.head.measured, fenced := s.head.fenced
    disabledCores := s.head.disabledCores, disabledChannels := s.head.disabledChannels, disabledPorts := s.head.disabledPorts
    shares := s.head.shares, leas := s.leas.map (fun p => (p.1, { p.2 with dump := none })), gangs := s.gangs
    slices := s.cores.map (fun p => (p.1, p.2.sliceDump))
    circuits := s.circuits, agreements := s.agreements, dies := s.dies, islands := s.islands, session := s.host.session
    streams := s.host.streams, replays := s.replays, debug := s.dbg }

/-- FATAL_ERROR (R429, R430): at a tide boundary every die stops, the dump is written, and the module is in the Fatal state. -/
def execFatalError (reason : FatalReason) (s : State) : Out1 :=
  .next (
    if s.head.power ≠ .running ∨ s.tideSlot ≠ 0 then s
    else
      let log := s.head.log ++ [.fatal reason]
      let u := s.exactAll
      { s with free := u.free
               head := { s.head with power := .fatal reason, log := log, failing := none
                                     dump := s.leas.map (fun p => u.dumpLea p.1 p.2), headDump := some (s.dumpHead log) } })

/-- MODULE_RESET (R428-R430): the module as after reset; the dump of a fatal error stays for the next boot, and so does what
Headland knows of the cores that it has fenced. R428 speaks of cores alone; a pseudo-channel or a port that was fenced is not disabled
after the reset unless the boot image says so, which is the model's choice (log 38). -/
def execModuleReset (s : State) : Out1 :=
  .next { State.reset with
    head := { State.reset.head with dump := s.head.dump, headDump := s.head.headDump, fenced := s.head.fenced }
    nextId := s.nextId
    free := s.free }

/-- SECURE_BOOT (R398, R427, R428, R431): the firmware runs only if its signatures and the manifest's verify; each stage is
measured. A core that was fenced before has no core index from now on (log 38). -/
def execSecureBoot (img : BootImage) (s : State) : Out1 :=
  .next (
    if s.head.power ≠ .off ∨ !(img.ecdsaOk && img.lmsOk && img.manifestOk) then s
    else { s with head := { s.head with
      power := .running
      measured := [(1, img.fwHash), (2, img.manifestHash), (3, img.scheduleHash), (4, img.secVersion)]
      disabledCores := s.head.fenced.foldl natIns img.disabledCores, shares := img.shares, disabledChannels := img.disabledChannels, disabledPorts := img.disabledPorts } })

/-! ## SPDM and IDE (R394, R395, R431) -/

/-- Whether a function has an SPDM responder (R395). -/
def spdmFn (fn : Nat) : Bool := fn == 0 || fn == 1

/-- SPDM_REQUEST (R395, R396, R431): 0 and the answer's data, or 1; certificates, signatures and keys are free values (log 7). A key
exchange ends the function's former session (log 70), and with that of the debug function its unlock. -/
def execSpdmRequest (req : SpdmRequest) (s : State) : Out1 :=
  .next (
    let fresh := Config.freeNat s.free
    let s1 : State := { s with free := s.free + 1 }
    if s.head.power ≠ .running then s
    else
      match req with
      | .getCertificate fn slot => if spdmFn fn && slot == 0 then s1.reply [0, fresh] else s.reply [1]
      | .challenge fn nonce => if spdmFn fn then s1.reply [0, nonce, fresh] else s.reply [1]
      | .getMeasurement fn index sign =>
        match if spdmFn fn then keyFind s.head.measured index else none with
        | some m => if sign then s1.reply [0, m, fresh] else s.reply [0, m]
        | none => s.reply [1]
      | .keyExchange fn twoWay digest =>
        if spdmFn fn then
          let s2 := if fn = 1 then s1.debugLock else s1
          { s2 with host := { s2.host with session := keySet s2.host.session fn (twoWay, digest) } }.reply [0, fresh]
        else s.reply [1]
      | .endSession fn =>
        if (keyFind s.host.session fn).isSome then
          let s2 := if fn = 1 then s.debugLock else s
          { s2 with host := { s2.host with session := keyDel s2.host.session fn } }.reply [0]
        else s.reply [1])

/-- IDE_KM (R394): over a secured session on physical function 0; streams 0 to 255 are selective, 256 is link IDE's. -/
def execIdeKm (stream : Nat) (req : IdeRequest) (s : State) : Out1 :=
  .next (
    let e := keyGet (none, false, []) s.host.streams stream
    let put (x : Option Nat × Bool × List Nat) : State :=
      { s with host := { s.host with streams := keySet s.host.streams stream x } }.reply [0]
    let secured := (keyFind s.host.session 0).isSome
    if 256 < stream then s.reply [1]
    else
      match req with
      | .keyProg k => if secured then put (some k, e.2) else s.reply [1]
      | .setGo => if secured && e.1.isSome then put (e.1, true, e.2.2) else s.reply [1]
      | .setStop => if secured then put (e.1, false, e.2.2) else s.reply [1]
      | .bind vfs => if stream < 256 then put (e.1, e.2.1, vfs) else s.reply [1])

/-! ## The debug function (R396, R397) -/

/-- DEBUG_UNLOCK (R396): within a mutually authenticated session on physical function 1, for the lea whose tenant's root the
requester's chain ends at; a former lea is locked. -/
def execDebugUnlock (lea digest : Nat) (s : State) : Out1 :=
  .next (match keyFind s.host.session 1, s.lea lea with
    | some (true, root), some l =>
      if root ≠ digest ∨ l.digest ≠ digest then s.reply [1]
      else if s.dbg.lea = some lea then s.reply [0]
      else
        let s1 := s.debugLock
        { s1 with dbg := { s1.dbg with lea := some lea } }.reply [0]
    | _, _ => s.reply [1])

/-- The thread of the unlocked lea in a slot, where it is: in the core, or in the save area (R396). -/
def State.debugSlot (s : State) (n core slot : Nat) : Option Slot :=
  let x := match keyFind ((s.core core).save n).slots slot with
    | some v => v.slot
    | none => s.slot core slot
  if x.run = .absent ∨ x.lea ≠ some n then none else some x

/-- The descriptor of the unlocked lea's thread in a slot: live, or as it is at its TDP (R30, R396). -/
def State.debugDesc (s : State) (n core slot : Nat) (x : Slot) : Desc :=
  if (s.core core).slotSaved n slot then descOfWords (s.awayDesc core n slot x.tdp.toNat) else x.desc

/-- Where an offset of a core's local store is for the unlocked lea (R380, R396). -/
def State.debugLocal (s : State) (n core off : Nat) : Option Spot :=
  let c := s.core core
  let k := off / 0x8000
  let x := c.slot k
  if off % 8 ≠ 0 ∨ 0xC0000 ≤ off then none
  else if off < 0x80000 then
    if c.slotSaved n k then some (.saved core k (off % 0x8000))
    else if (if x.run = .absent then c.lea else x.lea) = some n ∧ s.dieUp (dieOf core) then some (.mem (lsAddr core off)) else none
  else if c.lea = some n then (if s.dieUp (dieOf core) then some (.mem (lsAddr core off)) else none)
  else if (c.save n).pool.isSome then some (.saved core 16 (off - 0x80000))
  else none

/-- Where a doubleword that the debug function may reach for reading or writing lies (R396). -/
def State.debugPlace (s : State) (n : Nat) (l : Lea) (write : Bool) : DebugTarget → Option Spot
  | .reg core slot k => match s.debugSlot n core slot with
    | some x =>
      let d := s.debugDesc n core slot x
      if k < 32 then s.debugLocal n core (workFlat core slot (d.seg 0) (d.wp.toNat + 8 * k) - lsAddr core 0) else none
    | none => none
  | .desc _ _ _ => none
  | .localStore core off => if l.cores.contains core then s.debugLocal n core off else none
  | .commons die off =>
    if off % 8 = 0 ∧ s.dieUp die then
      (l.banksOn die)[off / bankBytes]?.map (fun b => .mem (commonsAddr die b (off % bankBytes)))
    else none
  | .virt die va =>
    match if va % 8 = 0 then s.translate n die va [if write then .w else .r] else .fault 0 with
    | .ok e => if s.dieUp (hbmDie (e.host va)) then some (.mem (e.host va)) else none
    | _ => none

/-- A doubleword written by the debug function: clean, with its full/empty state as it was, and by another party than the thread
whose register it may be (R206; log 39). -/
def State.debugWrite (s : State) (n : Nat) (v : Word) : Spot → State :=
  (s.noteWrote n (byteSet v.toNat 8)).modSpot n (fun m a => (m.putWord a ⟨v, false⟩).noteWriter none a)
    (fun r o => { r.put o ⟨v, false⟩ with ext := keySet r.ext o 0 })

/-- Doubleword i of the descriptor of the unlocked lea's thread in a slot, as the debug function reads it (R30, R396). -/
def State.debugDescRead (s : State) (n core slot i : Nat) (x : Slot) : PWord :=
  if (s.core core).slotSaved n slot then (s.awayDesc core n slot x.tdp.toNat).getD i ⟨0, false⟩
  else ⟨(x.desc.words (Config.freeWord s.free)).getD i 0, false⟩

/-- That doubleword written: live, or at the TDP (R30, R396). -/
def State.debugDescWrite (s : State) (n core slot i : Nat) (x : Slot) (v : Word) : State :=
  if (s.core core).slotSaved n slot then
    match (s.descSpots core n slot x.tdp.toNat)[i]? with
    | some p => s.debugWrite n v p
    | none => s
  else s.modSlot core slot (fun y => { y with desc := descOf (fun j => ((x.desc.words 0).set i v).getD j 0) })

/-- The debug control word (R397). -/
def Debug.control (d : Debug) : Word :=
  BitVec.ofNat 64 ((if d.stop then 1 else 0) + (if d.brkcap then 2 else 0)
    + ((List.range 4).map (fun k => if d.matchOn.getD k false then 2 ^ (4 + k) else 0)).sum)

/-- DEBUG_ACCESS (R396, R397): one doubleword of the unlocked lea, the control word, or an address match; a write leaves the
word's full/empty state (log 39). -/
def execDebugAccess (acc : DebugOp) (s : State) : Out1 :=
  .next (match s.dbg.lea with
    | none => s.reply [1]
    | some n =>
      match s.lea n with
      | none => s.reply [1]
      | some l =>
        let answer (v : PWord) (s : State) : State :=
          { s with dbg := { s.dbg with data := v.val } }.reply [if v.bad then 2 else 0, v.val.toNat]
        match acc with
        | .readControl => answer ⟨s.dbg.control, false⟩ s
        | .readMatch k => if k < 4 then answer ⟨s.dbg.matchAddr.getD k 0, false⟩ s else s.reply [1]
        | .read (.desc core slot i) =>
          match s.debugSlot n core slot with
          | some x => if i < 32 then answer (s.debugDescRead n core slot i x) { s with free := s.free + 1 } else s.reply [1]
          | none => s.reply [1]
        | .write (.desc core slot i) v =>
          match s.debugSlot n core slot with
          | some x =>
            if i < 32 then (s.debugDescWrite n core slot i x v).reply [0] else s.reply [1]
          | none => s.reply [1]
        | .read t => match s.debugPlace n l false t with
          | some a => answer (s.spotWord n a) s
          | none => s.reply [1]
        | .write t v => match s.debugPlace n l true t with
          | some a => (s.debugWrite n v a).reply [0]
          | none => s.reply [1])

/-- The debug function's controls changed, while a lea is unlocked (R397). -/
def State.debugSet (s : State) (f : Debug → Debug) : State :=
  if s.dbg.lea.isSome then { s with dbg := f s.dbg }.reply [0] else s.reply [1]

/-- DEBUG_STOP (R397): each compute thread of the lea halts at its next own turn. -/
def execDebugStop (s : State) : Out1 := .next (s.debugSet (fun d => { d with stop := true }))

/-- DEBUG_RESUME (R397): every thread that debug halted resumes. -/
def execDebugResume (s : State) : Out1 :=
  .next (
    let s1 := s.debugSet (fun d => { d with stop := false })
    if s.dbg.lea.isSome then s1.debugWake else s1)

/-- DEBUG_BRKCAP (R397). -/
def execDebugBrkcap (on : Bool) (s : State) : Out1 := .next (s.debugSet (fun d => { d with brkcap := on }))

/-- DEBUG_ADDRESS_MATCH_SET (R397): AMk, an sg7 offset in bits 47 to 1, and AMV. -/
def execDebugAddressMatchSet (k : Nat) (addr : Word) (valid : Bool) (s : State) : Out1 :=
  .next (if 4 ≤ k then s.reply [1] else s.debugSet (fun d =>
    { d with matchAddr := d.matchAddr.set k (addr &&& 0x0000FFFFFFFFFFFE#64), matchOn := d.matchOn.set k valid }))

/-- Whether the acting thread's next instruction lies at a valid match (R397). -/
def State.debugMatches (s : State) : Bool :=
  s.dbg.lea.isSome && s.dbg.lea == s.me.lea &&
    (List.range 4).any (fun k => s.dbg.matchOn.getD k false && s.dbg.matchAddr.getD k 0 == s.pc)

/-- ADDRESS_MATCH_HALT (R397, R404): the acting thread is halted for debug before the instruction issues, and 0x0B is logged to
the debug function. -/
def execAddressMatchHalt (s : State) : Out1 :=
  .next (
    if s.debugMatches then
      { s.modMe Slot.debugStop with
        dbg := { s.dbg with log := s.dbg.log ++ [(0x0B, 16 * s.cur.1 + s.cur.2, s.pc.toNat, s.pc.toNat)] } }
    else s)

/-- DEBUG_SESSION_END (R396, R397). -/
def execDebugSessionEnd (s : State) : Out1 :=
  .next (
    let s1 := s.debugLock
    { s1 with host := { s1.host with session := keyDel s1.host.session 1 } })

/-! ## What stops a thread before its instruction (R47, R48, R401, R437) -/

/-- DECODE_TRAP (R48, R404): the acting thread's next instruction fails a check of the decoder. -/
def execDecodeTrap (cause : BitVec 8) (bits : BitVec 64) (ilen : BitVec 2) (s : State) : Out1 :=
  .next (s.raise (2 * ilen.toNat) cause bits)

/-- What the fetch of the acting thread's next instruction gives: its halfwords, a line that misses with the halfwords then known (R401),
or a trap. -/
inductive Fetched where
  | halves (l : List (BitVec 16))
  | miss (line known : Nat)
  | trap (cause : BitVec 8) (tval : Word) (ilen : Nat)
  deriving DecidableEq, Repr

/-- The next halfword of the instruction at PC, after those known; `known` is the ILEN that a failure here reports (R401). -/
def State.fetchNext (s : State) (l : List (BitVec 16)) (known : Nat) (k : BitVec 16 → Fetched) : Fetched :=
  let off := s.pc.toNat + 2 * l.length
  match s.fetchHalf off with
  | .beyond c => .trap c (BitVec.ofNat 64 off) known
  | .miss n => .miss n known
  | .half h bad => if bad then .trap 0x56 s.pc known else k h

/-- The halfwords of the instruction at PC: one, two, or an RX prefix with its follower (R47, R66, R401). -/
def State.fetch (s : State) : Fetched :=
  s.fetchNext [] 0 (fun h0 =>
    if h0.extractLsb' 0 2 = 3 then s.fetchNext [h0] 2 (fun h1 => .halves [h0, h1])
    else
      match decode16 h0 with
      | .rx _ => s.fetchNext [h0] 1 (fun h1 =>
          if h1.extractLsb' 0 2 = 3 then s.fetchNext [h0, h1] 3 (fun h2 => .halves [h0, h1, h2]) else .halves [h0, h1])
      | _ => .halves [h0])

/-- INSTRUCTION_FETCH (R39, R47, R401, R437): a miss asks for its line, and a fetch beyond sg7 or of poison traps. -/
def execInstructionFetch (s : State) : Out1 :=
  .next (match s.fetch with
    | .halves _ => s
    | .miss l known => s.missLine l known
    | .trap c v n => s.raise (2 * n) c v)

end Sys2Proof.Machine
end

