-- ==== Sys2Proof/Machine/Dispatch.lean ====
section
/-! DEFINITION. The meaning of every instruction: one arm per constructor, each one call. -/

namespace Sys2Proof.Machine

def exec (i : Instr) (s : State) : Host.Outcome State Fault Refusal :=
  match i with
  | .add b a d => Sys2Proof.Machine.execAdd b a d s
  | .sub b a d => Sys2Proof.Machine.execSub b a d s
  | .mul b a d => Sys2Proof.Machine.execMul b a d s
  | .mulh b a d => Sys2Proof.Machine.execMulh b a d s
  | .mulhu b a d => Sys2Proof.Machine.execMulhu b a d s
  | .div l b a d => Sys2Proof.Machine.execDiv l b a d s
  | .divu l b a d => Sys2Proof.Machine.execDivu l b a d s
  | .rem l b a d => Sys2Proof.Machine.execRem l b a d s
  | .remu l b a d => Sys2Proof.Machine.execRemu l b a d s
  | .and b a d => Sys2Proof.Machine.execAnd b a d s
  | .or b a d => Sys2Proof.Machine.execOr b a d s
  | .xor b a d => Sys2Proof.Machine.execXor b a d s
  | .andn b a d => Sys2Proof.Machine.execAndn b a d s
  | .orn b a d => Sys2Proof.Machine.execOrn b a d s
  | .shl b a d => Sys2Proof.Machine.execShl b a d s
  | .shr b a d => Sys2Proof.Machine.execShr b a d s
  | .sra b a d => Sys2Proof.Machine.execSra b a d s
  | .ror b a d => Sys2Proof.Machine.execRor b a d s
  | .min b a d => Sys2Proof.Machine.execMin b a d s
  | .max b a d => Sys2Proof.Machine.execMax b a d s
  | .minu b a d => Sys2Proof.Machine.execMinu b a d s
  | .maxu b a d => Sys2Proof.Machine.execMaxu b a d s
  | .cmpeq b a d => Sys2Proof.Machine.execCmpeq b a d s
  | .cmplt b a d => Sys2Proof.Machine.execCmplt b a d s
  | .cmpltu b a d => Sys2Proof.Machine.execCmpltu b a d s
  | .sel c b a d => Sys2Proof.Machine.execSel c b a d s
  | .extr b a d => Sys2Proof.Machine.execExtr b a d s
  | .insb b a d => Sys2Proof.Machine.execInsb b a d s
  | .clz a d => Sys2Proof.Machine.execClz a d s
  | .ctz a d => Sys2Proof.Machine.execCtz a d s
  | .popc a d => Sys2Proof.Machine.execPopc a d s
  | .brev a d => Sys2Proof.Machine.execBrev a d s
  | .bswap a d => Sys2Proof.Machine.execBswap a d s
  | .addi ix a d => Sys2Proof.Machine.execAddi ix a d s
  | .movi ix d => Sys2Proof.Machine.execMovi ix d s
  | .shli n a d => Sys2Proof.Machine.execShli n a d s
  | .shri n a d => Sys2Proof.Machine.execShri n a d s
  | .srai n a d => Sys2Proof.Machine.execSrai n a d s
  | .cmpi c ix a d => Sys2Proof.Machine.execCmpi c ix a d s
  | .lih ix d => Sys2Proof.Machine.execLih ix d s
  | .lea k n a d => Sys2Proof.Machine.execLea k n a d s
  | .mapr k n a d => Sys2Proof.Machine.execMapr k n a d s
  | .addpc ix d => Sys2Proof.Machine.execAddpc ix d s
  | .sgrd f k d => Sys2Proof.Machine.execSgrd f k d s
  | .ldl o l d => Sys2Proof.Machine.execLdl o l d s
  | .beq o b a => Sys2Proof.Machine.execBeq o b a s
  | .bne o b a => Sys2Proof.Machine.execBne o b a s
  | .blt o b a => Sys2Proof.Machine.execBlt o b a s
  | .bge o b a => Sys2Proof.Machine.execBge o b a s
  | .bltu o b a => Sys2Proof.Machine.execBltu o b a s
  | .bgeu o b a => Sys2Proof.Machine.execBgeu o b a s
  | .bz o a => Sys2Proof.Machine.execBz o a s
  | .bnz o a => Sys2Proof.Machine.execBnz o a s
  | .br o => Sys2Proof.Machine.execBr o s
  | .callr a f => Sys2Proof.Machine.execCallr a f s
  | .ret => Sys2Proof.Machine.execRet s
  | .jmp a => Sys2Proof.Machine.execJmp a s
  | .loop o a => Sys2Proof.Machine.execLoop o a s
  | .nop => Sys2Proof.Machine.execNop s
  | .call o f => Sys2Proof.Machine.execCall o f s
  | .ldd16 rx g l b d => Sys2Proof.Machine.execLdd16 rx g l b d s
  | .std16 rx g k b d => Sys2Proof.Machine.execStd16 rx g k b d s
  | .addiMove16 d a => Sys2Proof.Machine.execAddiMove16 d a s
  | .addi16 d ix => Sys2Proof.Machine.execAddi16 d ix s
  | .movi16 d ix => Sys2Proof.Machine.execMovi16 d ix s
  | .shli16 d n => Sys2Proof.Machine.execShli16 d n s
  | .shri16 d n => Sys2Proof.Machine.execShri16 d n s
  | .add16 d a => Sys2Proof.Machine.execAdd16 d a s
  | .sub16 d a => Sys2Proof.Machine.execSub16 d a s
  | .and16 d a => Sys2Proof.Machine.execAnd16 d a s
  | .or16 d a => Sys2Proof.Machine.execOr16 d a s
  | .bz16 a o => Sys2Proof.Machine.execBz16 a o s
  | .bnz16 a o => Sys2Proof.Machine.execBnz16 a o s
  | .br16 o => Sys2Proof.Machine.execBr16 o s
  | .hret => Sys2Proof.Machine.execHret s
  | .ret16 => Sys2Proof.Machine.execRet16 s
  | .nop16 => Sys2Proof.Machine.execNop16 s
  | .fadd x r b a d => Sys2Proof.Machine.execFadd x r b a d s
  | .fsub x r b a d => Sys2Proof.Machine.execFsub x r b a d s
  | .fmul x r b a d => Sys2Proof.Machine.execFmul x r b a d s
  | .fma x r b a d => Sys2Proof.Machine.execFma x r b a d s
  | .fms x r b a d => Sys2Proof.Machine.execFms x r b a d s
  | .fnma x r b a d => Sys2Proof.Machine.execFnma x r b a d s
  | .fdiv x l b a d => Sys2Proof.Machine.execFdiv x l b a d s
  | .fsqrt x l a d => Sys2Proof.Machine.execFsqrt x l a d s
  | .frsqe x r a d => Sys2Proof.Machine.execFrsqe x r a d s
  | .frcpe x r a d => Sys2Proof.Machine.execFrcpe x r a d s
  | .fmin x b a d => Sys2Proof.Machine.execFmin x b a d s
  | .fmax x b a d => Sys2Proof.Machine.execFmax x b a d s
  | .fcmpeq x b a d => Sys2Proof.Machine.execFcmpeq x b a d s
  | .fcmplt x b a d => Sys2Proof.Machine.execFcmplt x b a d s
  | .fcmple x b a d => Sys2Proof.Machine.execFcmple x b a d s
  | .fclass x a d => Sys2Proof.Machine.execFclass x a d s
  | .fcvt x r t m a d => Sys2Proof.Machine.execFcvt x r t m a d s
  | .fcvti x r n a d => Sys2Proof.Machine.execFcvti x r n a d s
  | .icvtf x r n a d => Sys2Proof.Machine.execIcvtf x r n a d s
  | .fabs x a d => Sys2Proof.Machine.execFabs x a d s
  | .fneg x a d => Sys2Proof.Machine.execFneg x a d s
  | .fsgnj x b a d => Sys2Proof.Machine.execFsgnj x b a d s
  | .ldb rx p l g b d => Sys2Proof.Machine.execLdb rx p l g b d s
  | .ldh rx p l g b d => Sys2Proof.Machine.execLdh rx p l g b d s
  | .ldw rx p l g b d => Sys2Proof.Machine.execLdw rx p l g b d s
  | .ldd rx p l g b d => Sys2Proof.Machine.execLdd rx p l g b d s
  | .stb rx p g b d => Sys2Proof.Machine.execStb rx p g b d s
  | .sth rx p g b d => Sys2Proof.Machine.execSth rx p g b d s
  | .stw rx p g b d => Sys2Proof.Machine.execStw rx p g b d s
  | .std rx p g b d => Sys2Proof.Machine.execStd rx p g b d s
  | .ldAcq l z g b d => Sys2Proof.Machine.execLdAcq l z g b d s
  | .lduAcq l z g b d => Sys2Proof.Machine.execLduAcq l z g b d s
  | .stRel z g b d => Sys2Proof.Machine.execStRel z g b d s
  | .ldbu rx l g b d => Sys2Proof.Machine.execLdbu rx l g b d s
  | .ldhu rx l g b d => Sys2Proof.Machine.execLdhu rx l g b d s
  | .ldwu rx l g b d => Sys2Proof.Machine.execLdwu rx l g b d s
  | .lde l g b d => Sys2Proof.Machine.execLde l g b d s
  | .ldf l g b d => Sys2Proof.Machine.execLdf l g b d s
  | .stf g b d => Sys2Proof.Machine.execStf g b d s
  | .stff g b d => Sys2Proof.Machine.execStff g b d s
  | .feq l g b d => Sys2Proof.Machine.execFeq l g b d s
  | .feclr g b => Sys2Proof.Machine.execFeclr g b s
  | .ldbIdx rx ix l g b d => Sys2Proof.Machine.execLdbIdx rx ix l g b d s
  | .ldbuIdx rx ix l g b d => Sys2Proof.Machine.execLdbuIdx rx ix l g b d s
  | .ldhIdx rx ix l g b d => Sys2Proof.Machine.execLdhIdx rx ix l g b d s
  | .ldhuIdx rx ix l g b d => Sys2Proof.Machine.execLdhuIdx rx ix l g b d s
  | .ldwIdx rx ix l g b d => Sys2Proof.Machine.execLdwIdx rx ix l g b d s
  | .ldwuIdx rx ix l g b d => Sys2Proof.Machine.execLdwuIdx rx ix l g b d s
  | .lddIdx rx ix l g b d => Sys2Proof.Machine.execLddIdx rx ix l g b d s
  | .stbIdx rx ix g b d => Sys2Proof.Machine.execStbIdx rx ix g b d s
  | .sthIdx rx ix g b d => Sys2Proof.Machine.execSthIdx rx ix g b d s
  | .stwIdx rx ix g b d => Sys2Proof.Machine.execStwIdx rx ix g b d s
  | .stdIdx rx ix g b d => Sys2Proof.Machine.execStdIdx rx ix g b d s
  | .amoadd rx l b g a d => Sys2Proof.Machine.execAmoadd rx l b g a d s
  | .amoand rx l b g a d => Sys2Proof.Machine.execAmoand rx l b g a d s
  | .amoor rx l b g a d => Sys2Proof.Machine.execAmoor rx l b g a d s
  | .amoxor rx l b g a d => Sys2Proof.Machine.execAmoxor rx l b g a d s
  | .amomin rx l b g a d => Sys2Proof.Machine.execAmomin rx l b g a d s
  | .amomax rx l b g a d => Sys2Proof.Machine.execAmomax rx l b g a d s
  | .amoswp rx l b g a d => Sys2Proof.Machine.execAmoswp rx l b g a d s
  | .amocas rx l b g a d => Sys2Proof.Machine.execAmocas rx l b g a d s
  | .amofaddS rx l b g a d => Sys2Proof.Machine.execAmofaddS rx l b g a d s
  | .amofaddD rx l b g a d => Sys2Proof.Machine.execAmofaddD rx l b g a d s
  | .get l e k g a d => Sys2Proof.Machine.execGet l e k g a d s
  | .put l e k g a d => Sys2Proof.Machine.execPut l e k g a d s
  | .ramo l o g a d => Sys2Proof.Machine.execRamo l o g a d s
  | .rsem l k a d => Sys2Proof.Machine.execRsem l k a d s
  | .nadd v g a d => Sys2Proof.Machine.execNadd v g a d s
  | .nmax v g a d => Sys2Proof.Machine.execNmax v g a d s
  | .nred v g a d => Sys2Proof.Machine.execNred v g a d s
  | .naxpy v g a d => Sys2Proof.Machine.execNaxpy v g a d s
  | .nfill b g a d => Sys2Proof.Machine.execNfill b g a d s
  | .namo l b g a d => Sys2Proof.Machine.execNamo l b g a d s
  | .fence k sx => Sys2Proof.Machine.execFence k sx s
  | .fenceb sx => Sys2Proof.Machine.execFenceb sx s
  | .vld rx l m g a d => Sys2Proof.Machine.execVld rx l m g a d s
  | .vlds rx l ix m g a d => Sys2Proof.Machine.execVlds rx l ix m g a d s
  | .vgath rx l ix m g a d => Sys2Proof.Machine.execVgath rx l ix m g a d s
  | .vst rx m g a d => Sys2Proof.Machine.execVst rx m g a d s
  | .vsts rx ix m g a d => Sys2Proof.Machine.execVsts rx ix m g a d s
  | .vscat rx ix m g a d => Sys2Proof.Machine.execVscat rx ix m g a d s
  | .viadd t l m b a d => Sys2Proof.Machine.execViadd t l m b a d s
  | .visub t l m b a d => Sys2Proof.Machine.execVisub t l m b a d s
  | .vimul t l m b a d => Sys2Proof.Machine.execVimul t l m b a d s
  | .vimin t l m b a d => Sys2Proof.Machine.execVimin t l m b a d s
  | .vimax t l m b a d => Sys2Proof.Machine.execVimax t l m b a d s
  | .vand t l m b a d => Sys2Proof.Machine.execVand t l m b a d s
  | .vor t l m b a d => Sys2Proof.Machine.execVor t l m b a d s
  | .vxor t l m b a d => Sys2Proof.Machine.execVxor t l m b a d s
  | .vshl t l m b a d => Sys2Proof.Machine.execVshl t l m b a d s
  | .vshr t l m b a d => Sys2Proof.Machine.execVshr t l m b a d s
  | .vsra t l m b a d => Sys2Proof.Machine.execVsra t l m b a d s
  | .vcmpeq t l m b a d => Sys2Proof.Machine.execVcmpeq t l m b a d s
  | .vcmplt t l m b a d => Sys2Proof.Machine.execVcmplt t l m b a d s
  | .vcmple t l m b a d => Sys2Proof.Machine.execVcmple t l m b a d s
  | .vadd t l m b a d => Sys2Proof.Machine.execVadd t l m b a d s
  | .vsub t l m b a d => Sys2Proof.Machine.execVsub t l m b a d s
  | .vmul t l m b a d => Sys2Proof.Machine.execVmul t l m b a d s
  | .vfma t l m b a d => Sys2Proof.Machine.execVfma t l m b a d s
  | .vfms t l m b a d => Sys2Proof.Machine.execVfms t l m b a d s
  | .vmin t l m b a d => Sys2Proof.Machine.execVmin t l m b a d s
  | .vmax t l m b a d => Sys2Proof.Machine.execVmax t l m b a d s
  | .vabs t l m a d => Sys2Proof.Machine.execVabs t l m a d s
  | .vneg t l m a d => Sys2Proof.Machine.execVneg t l m a d s
  | .vrsqe t l m a d => Sys2Proof.Machine.execVrsqe t l m a d s
  | .vrcpe t l m a d => Sys2Proof.Machine.execVrcpe t l m a d s
  | .vexp2e t l m a d => Sys2Proof.Machine.execVexp2e t l m a d s
  | .vlog2e t l m a d => Sys2Proof.Machine.execVlog2e t l m a d s
  | .vcvt c l m a d => Sys2Proof.Machine.execVcvt c l m a d s
  | .vquant sx l m r t a d => Sys2Proof.Machine.execVquant sx l m r t a d s
  | .vdeq sx l m h a d => Sys2Proof.Machine.execVdeq sx l m h a d s
  | .mand l b a d => Sys2Proof.Machine.execMand l b a d s
  | .mor l b a d => Sys2Proof.Machine.execMor l b a d s
  | .mnot l a d => Sys2Proof.Machine.execMnot l a d s
  | .mpop d l b => Sys2Proof.Machine.execMpop d l b s
  | .vmov l m z a d => Sys2Proof.Machine.execVmov l m z a d s
  | .vbcast a l m z d => Sys2Proof.Machine.execVbcast a l m z d s
  | .vextr w l e b => Sys2Proof.Machine.execVextr w l e b s
  | .vins w l e b => Sys2Proof.Machine.execVins w l e b s
  | .vperm z l m b a d => Sys2Proof.Machine.execVperm z l m b a d s
  | .vslide w l b d => Sys2Proof.Machine.execVslide w l b d s
  | .vsel z l m b a d => Sys2Proof.Machine.execVsel z l m b a d s
  | .vredsum w l m b t => Sys2Proof.Machine.execVredsum w l m b t s
  | .vredmax w l m b t => Sys2Proof.Machine.execVredmax w l m b t s
  | .vredmin w l m b t => Sys2Proof.Machine.execVredmin w l m b t s
  | .mcfg l b t => Sys2Proof.Machine.execMcfg l b t s
  | .mload l k b t => Sys2Proof.Machine.execMload l k b t s
  | .mswap l => Sys2Proof.Machine.execMswap l s
  | .mstep l m b v t => Sys2Proof.Machine.execMstep l m b v t s
  | .mzero l t => Sys2Proof.Machine.execMzero l t s
  | .mdrain l r f b v t => Sys2Proof.Machine.execMdrain l r f b v t s
  | .mflags l b => Sys2Proof.Machine.execMflags l b s
  | .msave l k b t => Sys2Proof.Machine.execMsave l k b t s
  | .mrest l k b t => Sys2Proof.Machine.execMrest l k b t s
  | .tcopy k c b a => Sys2Proof.Machine.execTcopy k c b a s
  | .tgath k c b a => Sys2Proof.Machine.execTgath k c b a s
  | .tscat k c b a => Sys2Proof.Machine.execTscat k c b a s
  | .tfill k c b a => Sys2Proof.Machine.execTfill k c b a s
  | .ego => Sys2Proof.Machine.execEgo s
  | .estat d => Sys2Proof.Machine.execEstat d s
  | .ecan => Sys2Proof.Machine.execEcan s
  | .semadd k a => Sys2Proof.Machine.execSemadd k a s
  | .semset k a => Sys2Proof.Machine.execSemset k a s
  | .semrd k d => Sys2Proof.Machine.execSemrd k d s
  | .semwait k a => Sys2Proof.Machine.execSemwait k a s
  | .bar k => Sys2Proof.Machine.execBar k s
  | .barar k d => Sys2Proof.Machine.execBarar k d s
  | .barwt k a => Sys2Proof.Machine.execBarwt k a s
  | .gred o a d => Sys2Proof.Machine.execGred o a d s
  | .send b a d => Sys2Proof.Machine.execSend b a d s
  | .sendam b a d => Sys2Proof.Machine.execSendam b a d s
  | .sendamR l b a d => Sys2Proof.Machine.execSendamR l b a d s
  | .mbxst d => Sys2Proof.Machine.execMbxst d s
  | .mbxstClr d => Sys2Proof.Machine.execMbxstClr d s
  | .waitfAll b d => Sys2Proof.Machine.execWaitfAll b d s
  | .waitfAny b d => Sys2Proof.Machine.execWaitfAny b d s
  | .backoff d => Sys2Proof.Machine.execBackoff d s
  | .tqpush k b a d => Sys2Proof.Machine.execTqpush k b a d s
  | .tqdone a d => Sys2Proof.Machine.execTqdone a d s
  | .tqdoneT a d => Sys2Proof.Machine.execTqdoneT a d s
  | .succok => Sys2Proof.Machine.execSuccok s
  | .waitpred => Sys2Proof.Machine.execWaitpred s
  | .yield => Sys2Proof.Machine.execYield s
  | .exit => Sys2Proof.Machine.execExit s
  | .colld k b a => Sys2Proof.Machine.execColld k b a s
  | .colrun k a => Sys2Proof.Machine.execColrun k a s
  | .colwt d => Sys2Proof.Machine.execColwt d s
  | .colst d => Sys2Proof.Machine.execColst d s
  | .colstAbort d => Sys2Proof.Machine.execColstAbort d s
  | .crd ix d => Sys2Proof.Machine.execCrd ix d s
  | .crdStat d => Sys2Proof.Machine.execCrdStat d s
  | .crdTime d => Sys2Proof.Machine.execCrdTime d s
  | .cwr ix a => Sys2Proof.Machine.execCwr ix a s
  | .cwrStat a => Sys2Proof.Machine.execCwrStat a s
  | .cwrTdp a => Sys2Proof.Machine.execCwrTdp a s
  | .cwrWp a => Sys2Proof.Machine.execCwrWp a s
  | .cwrVp a => Sys2Proof.Machine.execCwrVp a s
  | .cwrGtoff a => Sys2Proof.Machine.execCwrGtoff a s
  | .cwrRot a => Sys2Proof.Machine.execCwrRot a s
  | .trap c => Sys2Proof.Machine.execTrap c s
  | .brk c => Sys2Proof.Machine.execBrk c s
  | .halt => Sys2Proof.Machine.execHalt s
  | .wfm a => Sys2Proof.Machine.execWfm a s
  | .eret b a => Sys2Proof.Machine.execEret b a s
  | .resume a => Sys2Proof.Machine.execResume a s
  | .preempt a d => Sys2Proof.Machine.execPreempt a d s
  | .preemptDrop a d => Sys2Proof.Machine.execPreemptDrop a d s
  | .ctxld b a => Sys2Proof.Machine.execCtxld b a s
  | .ctxldTdp b a => Sys2Proof.Machine.execCtxldTdp b a s
  | .tlbinv b a => Sys2Proof.Machine.execTlbinv b a s
  | .tlbinvAll b a => Sys2Proof.Machine.execTlbinvAll b a s
  | .segld b a k => Sys2Proof.Machine.execSegld b a k s
  | .rotset a => Sys2Proof.Machine.execRotset a s
  | .dsend buf ch qo ce cnt len => Sys2Proof.Machine.execDsend buf ch qo ce cnt len s
  | .drecv buf ch qo ce cnt len => Sys2Proof.Machine.execDrecv buf ch qo ce cnt len s
  | .dcopy buf sbuf qo ce cnt qs len => Sys2Proof.Machine.execDcopy buf sbuf qo ce cnt qs len s
  | .dred buf tree qo ce cnt op len => Sys2Proof.Machine.execDred buf tree qo ce cnt op len s
  | .dwait n tgt tb tmo thr => Sys2Proof.Machine.execDwait n tgt tb tmo thr s
  | .dsig n ch amt => Sys2Proof.Machine.execDsig n ch amt s
  | .dsigLoc n amt => Sys2Proof.Machine.execDsigLoc n amt s
  | .dloop qa tgt => Sys2Proof.Machine.execDloop qa tgt s
  | .dloopJmp tgt => Sys2Proof.Machine.execDloopJmp tgt s
  | .dloopBz qa tgt => Sys2Proof.Machine.execDloopBz qa tgt s
  | .dloopBnz qa tgt => Sys2Proof.Machine.execDloopBnz qa tgt s
  | .dnextAdd qa imm => Sys2Proof.Machine.execDnextAdd qa imm s
  | .dnextMod qa qb imm => Sys2Proof.Machine.execDnextMod qa qb imm s
  | .dnextSet qa imm => Sys2Proof.Machine.execDnextSet qa imm s
  | .dnextMov qa qb imm => Sys2Proof.Machine.execDnextMov qa qb imm s
  | .dnextMul qa qb imm => Sys2Proof.Machine.execDnextMul qa qb imm s
  | .dnextRnk qa imm => Sys2Proof.Machine.execDnextRnk qa imm s
  | .djoinSend ch qp rate => Sys2Proof.Machine.execDjoinSend ch qp rate s
  | .djoinRecv ch qp rate => Sys2Proof.Machine.execDjoinRecv ch qp rate s
  | .djoinTree tree qp qc mask rate => Sys2Proof.Machine.execDjoinTree tree qp qc mask rate s
  | .dverRd qa => Sys2Proof.Machine.execDverRd qa s
  | .dverAgree qa t => Sys2Proof.Machine.execDverAgree qa t s
  | .dbar tgt tb tmo => Sys2Proof.Machine.execDbar tgt tb tmo s
  | .dhalt code => Sys2Proof.Machine.execDhalt code s
  | .resultFill id => Sys2Proof.Machine.execResultFill id s
  | .accessPerformedAtHome id part => Sys2Proof.Machine.execAccessPerformedAtHome id part s
  | .storeAcknowledge id => Sys2Proof.Machine.execStoreAcknowledge id s
  | .flitInject id part => Sys2Proof.Machine.execFlitInject id part s
  | .exchangeInject id => Sys2Proof.Machine.execExchangeInject id s
  | .hbmServiceStart id part => Sys2Proof.Machine.execHbmServiceStart id part s
  | .hbmServiceDone id part => Sys2Proof.Machine.execHbmServiceDone id part s
  | .icacheFill core => Sys2Proof.Machine.execIcacheFill core s
  | .translationWalkDone id part => Sys2Proof.Machine.execTranslationWalkDone id part s
  | .pageFaultWake lea frame => Sys2Proof.Machine.execPageFaultWake lea frame s
  | .vectorServe core => Sys2Proof.Machine.execVectorServe core s
  | .vectorFill id => Sys2Proof.Machine.execVectorFill id s
  | .bayEntryPerform core => Sys2Proof.Machine.execBayEntryPerform core s
  | .bayEntryEffect core => Sys2Proof.Machine.execBayEntryEffect core s
  | .portTransferDone core => Sys2Proof.Machine.execPortTransferDone core s
  | .portTransferFault core => Sys2Proof.Machine.execPortTransferFault core s
  | .bankCommandExecute bank => Sys2Proof.Machine.execBankCommandExecute bank s
  | .engineCommandStart core => Sys2Proof.Machine.execEngineCommandStart core s
  | .engineWindowCommit core => Sys2Proof.Machine.execEngineWindowCommit core s
  | .enginePark core => Sys2Proof.Machine.execEnginePark core s
  | .engineRestart core => Sys2Proof.Machine.execEngineRestart core s
  | .engineInternalError core => Sys2Proof.Machine.execEngineInternalError core s
  | .remoteAccessArrive id => Sys2Proof.Machine.execRemoteAccessArrive id s
  | .remoteComplete id => Sys2Proof.Machine.execRemoteComplete id s
  | .rsemArrive id => Sys2Proof.Machine.execRsemArrive id s
  | .depositArrive id => Sys2Proof.Machine.execDepositArrive id s
  | .sendAck id => Sys2Proof.Machine.execSendAck id s
  | .amArrive id => Sys2Proof.Machine.execAmArrive id s
  | .sendamAck id => Sys2Proof.Machine.execSendamAck id s
  | .sendamReply id => Sys2Proof.Machine.execSendamReply id s
  | .handlerStart core => Sys2Proof.Machine.execHandlerStart core s
  | .trapRecordDeliver core place => Sys2Proof.Machine.execTrapRecordDeliver core place s
  | .slot15Fault core => Sys2Proof.Machine.execSlot15Fault core s
  | .barrierArrival lea gid k rank => Sys2Proof.Machine.execBarrierArrival lea gid k rank s
  | .barrierComplete lea gid k core => Sys2Proof.Machine.execBarrierComplete lea gid k core s
  | .gredContributionArrive lea gid round grank => Sys2Proof.Machine.execGredContributionArrive lea gid round grank s
  | .gredResultDeliver lea gid round rank => Sys2Proof.Machine.execGredResultDeliver lea gid round rank s
  | .threadSwitch core slot => Sys2Proof.Machine.execThreadSwitch core slot s
  | .preemptSaveDone core slot => Sys2Proof.Machine.execPreemptSaveDone core slot s
  | .ctxldLoadDone core slot => Sys2Proof.Machine.execCtxldLoadDone core slot s
  | .exitComplete core slot => Sys2Proof.Machine.execExitComplete core slot s
  | .tlbinvComplete core slot => Sys2Proof.Machine.execTlbinvComplete core slot s
  | .rotApply core => Sys2Proof.Machine.execRotApply core s
  | .yieldEnd core slot => Sys2Proof.Machine.execYieldEnd core slot s
  | .backoffExpire core slot => Sys2Proof.Machine.execBackoffExpire core slot s
  | .wfmExpire core slot => Sys2Proof.Machine.execWfmExpire core slot s
  | .hostEnqueue lea queue pkt => Sys2Proof.Machine.execHostEnqueue lea queue pkt s
  | .tqpushArrive id => Sys2Proof.Machine.execTqpushArrive id s
  | .tqpushAck id => Sys2Proof.Machine.execTqpushAck id s
  | .dispatchPass lea => Sys2Proof.Machine.execDispatchPass lea s
  | .taskRetire lea gid => Sys2Proof.Machine.execTaskRetire lea gid s
  | .watchdogTide lea gid => Sys2Proof.Machine.execWatchdogTide lea gid s
  | .watchdogExpire lea gid => Sys2Proof.Machine.execWatchdogExpire lea gid s
  | .gtoffApply lea => Sys2Proof.Machine.execGtoffApply lea s
  | .islandClockChange island clock => Sys2Proof.Machine.execIslandClockChange island clock s
  | .debtAccrue lea core => Sys2Proof.Machine.execDebtAccrue lea core s
  | .sliceStart core => Sys2Proof.Machine.execSliceStart core s
  | .handoverStop core slot => Sys2Proof.Machine.execHandoverStop core slot s
  | .settleEnd core slot => Sys2Proof.Machine.execSettleEnd core slot s
  | .slotSaveDone core slot => Sys2Proof.Machine.execSlotSaveDone core slot s
  | .slotRestoreDone core slot => Sys2Proof.Machine.execSlotRestoreDone core slot s
  | .poolPhaseDone core => Sys2Proof.Machine.execPoolPhaseDone core s
  | .lateResultToSaveArea id => Sys2Proof.Machine.execLateResultToSaveArea id s
  | .circuitRequestArrive core => Sys2Proof.Machine.execCircuitRequestArrive core s
  | .circuitDecide id => Sys2Proof.Machine.execCircuitDecide id s
  | .circuitSwitch id => Sys2Proof.Machine.execCircuitSwitch id s
  | .dorentOpComplete core op => Sys2Proof.Machine.execDorentOpComplete core op s
  | .dsigArrive core op => Sys2Proof.Machine.execDsigArrive core op s
  | .reductionSlotCombine core tree => Sys2Proof.Machine.execReductionSlotCombine core tree s
  | .dorentTimeout core => Sys2Proof.Machine.execDorentTimeout core s
  | .djoinTimeout core => Sys2Proof.Machine.execDjoinTimeout core s
  | .dbarComplete lea gid => Sys2Proof.Machine.execDbarComplete lea gid s
  | .closingBarrierDone lea gid => Sys2Proof.Machine.execClosingBarrierDone lea gid s
  | .closingBarrierTimeout core => Sys2Proof.Machine.execClosingBarrierTimeout core s
  | .colldCopyDone core => Sys2Proof.Machine.execColldCopyDone core s
  | .dorentPark core => Sys2Proof.Machine.execDorentPark core s
  | .agreeVoteArrive core => Sys2Proof.Machine.execAgreeVoteArrive core s
  | .agreeDeadline core => Sys2Proof.Machine.execAgreeDeadline core s
  | .agreeDecisionArrive core => Sys2Proof.Machine.execAgreeDecisionArrive core s
  | .agreeInstall core => Sys2Proof.Machine.execAgreeInstall core s
  | .agreeNoDecision core => Sys2Proof.Machine.execAgreeNoDecision core s
  | .catchUpRecord core peer => Sys2Proof.Machine.execCatchUpRecord core peer s
  | .linkReplay link => Sys2Proof.Machine.execLinkReplay link s
  | .uncorrectableError site => Sys2Proof.Machine.execUncorrectableError site s
  | .patrolScrub addr => Sys2Proof.Machine.execPatrolScrub addr s
  | .dieReset die => Sys2Proof.Machine.execDieReset die s
  | .dieResetLogic die => Sys2Proof.Machine.execDieResetLogic die s
  | .dieScrub die => Sys2Proof.Machine.execDieScrub die s
  | .dieRejoin die => Sys2Proof.Machine.execDieRejoin die s
  | .unitFence unit => Sys2Proof.Machine.execUnitFence unit s
  | .fatalError reason => Sys2Proof.Machine.execFatalError reason s
  | .moduleReset => Sys2Proof.Machine.execModuleReset s
  | .secureBoot img => Sys2Proof.Machine.execSecureBoot img s
  | .leaCreate req => Sys2Proof.Machine.execLeaCreate req s
  | .leaDestroy lea => Sys2Proof.Machine.execLeaDestroy lea s
  | .sliceScheduleSet core sched => Sys2Proof.Machine.execSliceScheduleSet core sched s
  | .dispatchTemplateInstall lea slot tmpl => Sys2Proof.Machine.execDispatchTemplateInstall lea slot tmpl s
  | .stage2Change lea frame entry => Sys2Proof.Machine.execStage2Change lea frame entry s
  | .keyAssign lea key => Sys2Proof.Machine.execKeyAssign lea key s
  | .frameRebind frame key => Sys2Proof.Machine.execFrameRebind frame key s
  | .wdlimSet lea limit => Sys2Proof.Machine.execWdlimSet lea limit s
  | .groupCreate lea gid members candidates nsr => Sys2Proof.Machine.execGroupCreate lea gid members candidates nsr s
  | .spdmRequest req => Sys2Proof.Machine.execSpdmRequest req s
  | .ideKm stream req => Sys2Proof.Machine.execIdeKm stream req s
  | .debugUnlock lea digest => Sys2Proof.Machine.execDebugUnlock lea digest s
  | .debugAccess acc => Sys2Proof.Machine.execDebugAccess acc s
  | .debugStop => Sys2Proof.Machine.execDebugStop s
  | .debugResume => Sys2Proof.Machine.execDebugResume s
  | .debugBrkcap on => Sys2Proof.Machine.execDebugBrkcap on s
  | .debugAddressMatchSet k addr valid => Sys2Proof.Machine.execDebugAddressMatchSet k addr valid s
  | .addressMatchHalt => Sys2Proof.Machine.execAddressMatchHalt s
  | .debugSessionEnd => Sys2Proof.Machine.execDebugSessionEnd s
  | .decodeTrap cause bits ilen => Sys2Proof.Machine.execDecodeTrap cause bits ilen s
  | .instructionFetch => Sys2Proof.Machine.execInstructionFetch s
  | .dorentDecodeFault err => Sys2Proof.Machine.execDorentDecodeFault err s
  | .hostMemoryAccess lea gpa op => Sys2Proof.Machine.execHostMemoryAccess lea gpa op s
  | .queueDisable lea queue off => Sys2Proof.Machine.execQueueDisable lea queue off s
  | .leaMigration lea paused gtoff => Sys2Proof.Machine.execLeaMigration lea paused gtoff s
  | .keyIdentifierRemove lea key => Sys2Proof.Machine.execKeyIdentifierRemove lea key s

end Sys2Proof.Machine
end

