-- ==== Sys2Proof/Machine/Schedule.lean ====
section
/-! DEFINITION. What moves next (R16, R19, R314, R438; log 1): one examination of a thread in a turn, one step of a Dorent
context, one event, or a tick of the slot counter. -/

namespace Sys2Proof.Machine

/-! ## Turns (R16, R19, R314, R329, R438) -/

/-- What a step comes to: a state with nothing to execute, or an instruction to execute in a state, in a turn of a core or
not. -/
inductive Aim where
  | pass (s : State)
  | go (turn : Bool) (i : Instr) (s : State)

/-- The agenda without its first act. -/
def State.popAct (s : State) : State := { s with agenda := s.agenda.tail }

/-- The turn of a core in the present cycle ends: it counts as delivered unless its rotation was gated (R329, R330). -/
def State.endTurn (s : State) (core : Nat) (given : Bool) : State :=
  (s.modCore core (fun c =>
    { c with turned := s.cycle core + 1, probe := 0, counting := if given then c.counting + 1 else c.counting })).popAct

/-- The slot under examination did not issue: the next one is examined, and after the last the turn idles (R314). -/
def State.nextProbe (s : State) (core : Nat) : State :=
  if 15 ≤ (s.core core).probe then s.endTurn core true else s.modCore core (fun c => { c with probe := c.probe + 1 })

/-- The owner of a core's turn in a cycle (R16, R17). -/
def Core.owner (c : Core) (cycle : Nat) : Nat := rotEntry c.rot (cycle % 16)

/-- The slot under examination: the owner first, then those after it (R314). -/
def Core.candidate (c : Core) (cycle : Nat) : Nat := (c.owner cycle + c.probe) % 16

/-- Whether a core's present rotation is gated (R329). -/
def State.gated (s : State) (core : Nat) : Bool :=
  match s.islands[islandOf core]? with
  | some k => decide (s.cycle core / 16 % 16 < k.gate)
  | none => false

/-- What a slot's own turn does to it before anything issues: a thread named by a PREEMPT issues nothing from now on, and a
debug stop takes the thread (R397, R414). -/
def Slot.ownTurn (x : Slot) (cycle : Nat) (stop : Bool) : Slot :=
  let x1 := if x.claimed.isSome ∧ x.stopped.isNone then { x with stopped := some cycle } else x
  if stop then x1.debugStop else x1

/-- An own turn that a slot owes the normaliser has passed (R94). -/
def Slot.afterOwn (x : Slot) : Slot := match x.hold with
  | .owed (n + 2) => { x with hold := .owed (n + 1) }
  | .owed _ => x.letGo
  | _ => x

/-- What of a thread is held, so that it is Parked until that goes on: an access at the group port, its port transfer from a fault
until it proceeds, or a full/empty operation that waits at its home (R64, R200, R236, R405). -/
def State.heldWait (s : State) (core : Nat) (x : Slot) : Option Wait :=
  match s.outs.find? (fun o => o.tid == x.tid && o.held) with
  | some o => some (.access o.id)
  | none =>
    if (s.core core).bay.port.any (fun j => j.stalled.isSome && s.outs.any (fun o => o.id == j.outId && o.tid == x.tid)) then some .port
    else (s.outs.find? (fun o => o.tid == x.tid && o.waitsHome)).map (fun o => .home o.id)

/-- Whether the thread of a slot is in the rotation: Ready or Forfeiting, and nothing holds it (R16, R19, R31, R397, R414). -/
def Slot.inRotation (x : Slot) : Bool :=
  (x.run == .ready || x.run == .forfeiting) && x.hold == .none && x.stopped.isNone && x.debugHalt.isNone && !x.vacated

/-- Whether a thread of a slot may issue in the present turn of its core: it is in the rotation, its last instruction has left the
pipeline, its slot has not come to the stop of a handover, and a thread just loaded issues in its own turn only (R19, R31, R64,
R314, R319, R378). -/
def State.eligible (s : State) (core k : Nat) (own : Bool) : Bool :=
  let c := s.core core
  let x := c.slot k
  let t := s.cycle core
  x.inRotation && decide (x.lastIssue + 10 ≤ t) && (own || !x.fresh)
    && (own || c.slotLea k == c.slotLea (c.owner t)) && !c.stopDue t k

/-- The beginning of a turn: a rotation or a handover that is due, and what the owner's own turn does to it. -/
def State.beginTurn (s : State) (core : Nat) : State :=
  let c := s.core core
  let t := s.cycle core
  if c.probe = 0 then
    let c1 := (c.applyRot t).saveRot t
    let x := c1.slot (c1.owner t)
    let stop := s.dbg.stop && s.dbg.lea.isSome && s.dbg.lea == x.lea && c1.owner t != 15
    s.setCore core (c1.modSlot (c1.owner t) (fun x => x.ownTurn t stop))
  else s

/-- A wait that no other unit ends: an HRET goes on once nothing of its handler is outstanding (R335, R342). -/
def State.testHret (s : State) (core k : Nat) : State := if (s.slot core k).wait = .hret then s.retest core k else s

/-- The instruction that the acting thread's next fetch and decode give: itself, the trap of a failed decode, or the failed
fetch (R47, R48, R438). -/
noncomputable def State.nextInstr (s : State) : Option Instr :=
  if s.debugMatches then some .addressMatchHalt
  else match s.fetch with
    | .halves l => match decode s.priv l with
      | .ok i _ => some i
      | .bad c b n => some (.decodeTrap c b (BitVec.ofNat 2 n))
      | .more => none
    | _ => some .instructionFetch

/-- The examination of the candidate of a core's turn (R314, R329, R438): the gate, eligibility, what is held at the port, a trap
owed, windows, fetch and decode; its instruction then executes. -/
noncomputable def State.aimTurn (s : State) (core : Nat) : Aim :=
  let t := s.cycle core
  if t < (s.core core).turned then .pass s.popAct
  else if s.gated core then .pass (s.endTurn core false)
  else
    let s0 := s.beginTurn core
    let k := (s0.core core).candidate t
    let s1 := s0.testHret core k
    let c := s1.core core
    if (c.slotLea (c.owner t)).isNone ∨ !s1.dieUp (dieOf core) then .pass (s1.endTurn core true)
    else if !s1.eligible core k (c.probe == 0) then
      .pass ((if c.probe = 0 then s1.modSlot core k Slot.afterOwn else s1).nextProbe core)
    else match s1.heldWait core (c.slot k) with
      | some w => .pass ((s1.modSlot core k (fun x => { x with run := .parked, wait := w })).nextProbe core)
      | none =>
        let s2 : State := { s1 with cur := (core, k) }
        if (c.slot k).owedTrap.isSome then .pass ((s2.takeOwed core k).endTurn core true)
        else if !s2.windowsOpen then .pass (s2.forfeit.nextProbe core)
        else
          match s2.nextInstr with
          | some i => .go true i s2
          | none => .pass (s2.nextProbe core)

/-- Whether the acting slot's thread issued between two states: an instruction completed or trapped (R62, R400). -/
def State.issuedSince (s u : State) : Bool :=
  u.me.issued != s.me.issued || (u.me.run == .halted && u.me.debugHalt.isNone)

/-- Whether the instruction that the acting thread issued last is complete: the thread waits for nothing, and nothing of that
instruction is outstanding (R62, R328). -/
def State.completedNow (s : State) : Bool :=
  s.me.hold.complete && s.me.wait == .none && !s.outs.any (fun o => o.tid == s.me.tid && o.born == s.me.issued)

/-- After the execution in a turn: a turn that issued ends, and where the instruction is complete the thread's gang saw work;
otherwise the next slot is examined (R314, R328). -/
def State.afterTurn (s u : State) : State :=
  let core := s.cur.1
  if s.issuedSince u then
    (match s.me.lea, s.me.gang with
      | some l, some g =>
        if u.me.issued = s.me.issued || !u.completedNow then u else u.modGang l g (fun g => { g with worked := true })
      | _, _ => u).endTurn core true
  else u.nextProbe core

/-! ## A step of a Dorent context (R271, R281, R282) -/

/-- The next step of a core's context: an abort, the instruction at PC, or the fault of its fetch or decode. -/
noncomputable def State.aimDorent (s : State) (core : Nat) : Aim :=
  let s1 : State := { s.popAct with cur := (core, 0) }
  let d := s1.dor core
  if d.state ≠ .running ∨ !s1.dieUp (dieOf core) then .pass s1
  else if d.abort then .pass (s1.dStop core .aborted 0x0C d.pc)
  else if d.park.isSome then .pass s1
  else if d.loaded ≤ d.pc then .go false (.dorentDecodeFault 0x05) s1
  else match decodeDorent (keyGet 0 d.store d.pc) with
    | .ok i => .go false i s1
    | .bad c => .go false (.dorentDecodeFault c) s1
    | .rx _ => .pass s1

/-! ## Events that may be due (log 1) -/

/-- A list of steps where a condition holds. -/
def stepsIf (b : Bool) (l : List Instr) : List Instr := if b then l else []

/-- The events that an item of outstanding work may come to outside the core's cycles (R209, R219, R222, R322, R326, R380,
R386). -/
noncomputable def Out.events (o : Out) : List Instr :=
  let part (i : Nat) : List Instr :=
    [.translationWalkDone o.id i, .flitInject o.id i, .hbmServiceStart o.id i, .hbmServiceDone o.id i, .accessPerformedAtHome o.id i]
  let late : List Instr := [.lateResultToSaveArea o.id]
  let ends (x : Access) : List Instr :=
    if x.remote then [.remoteAccessArrive o.id, .remoteComplete o.id]
    else if x.op.isStore then [.storeAcknowledge o.id] else [.resultFill o.id]
  match o.work with
  | .access x => (List.range o.parts.length).flatMap part ++ ends x ++ late
  | .bank _ => (List.range o.parts.length).flatMap (fun i => [.translationWalkDone o.id i, .flitInject o.id i]) ++ late
  | _ => late

/-- The events that a message may come to (R247, R324, R336-R342, R352, R380). What a barrier, a group reduction or a Dorent
context sends is taken by the events of the gang and of the context. -/
noncomputable def Mail.events (m : Mail) : List Instr :=
  if m.sent.isNone then [.exchangeInject m.id]
  else
    let home : List Instr := match m.msg with
      | .deposit _ _ _ _ => [.depositArrive m.id]
      | .am _ _ _ _ => [.amArrive m.id]
      | .ack _ _ => [.sendAck m.id]
      | .amAck _ _ => [.sendamAck m.id]
      | .reply _ _ => [.sendamReply m.id]
      | .rsem _ _ => [.rsemArrive m.id]
      | .rsemAck _ => [.remoteComplete m.id]
      | .packet _ _ => [.tqpushArrive m.id]
      | .packetAck _ _ => [.tqpushAck m.id]
      | .barIn _ _ _ => []
      | .barOut _ _ _ => []
      | .gredIn _ _ _ => []
      | .gredUp _ _ _ => []
      | .gredDown _ _ _ => []
      | .control _ => []
      | .decision _ _ _ _ => []
      | .record _ _ _ => []
    home ++ [.lateResultToSaveArea m.id]

/-- The events of a slot (R31, R345, R356, R400, R411, R414, R416, R417). -/
noncomputable def Slot.events (x : Slot) (core k : Nat) : List Instr :=
  List.flatten [
    match x.hold with
    | .switching _ => [.threadSwitch core k]
    | .tlb _ _ _ => [.tlbinvComplete core k]
    | _ => [],
    match x.wait with
    | .exit => [.exitComplete core k]
    | .backoff _ _ _ => [.backoffExpire core k]
    | .time _ => [.wfmExpire core k]
    | _ => [],
    stepsIf x.claimed.isSome [.preemptSaveDone core k],
    stepsIf x.loading.isSome [.ctxldLoadDone core k],
    stepsIf (!x.record.isEmpty) [.trapRecordDeliver core k]]

/-- The events of a Dorent context (R278, R283-R301, R306). -/
noncomputable def Dorent.events (d : Dorent) (core : Nat) (peers : List Nat) : List Instr :=
  let running : List Instr := List.flatten [
    [.dorentPark core],
    d.ops.flatMap (fun o => [.dsigArrive core o.num, .dorentOpComplete core o.num]),
    [.reductionSlotCombine core 0, .reductionSlotCombine core 1, .reductionSlotCombine core 2, .reductionSlotCombine core 3],
    match d.wait with
    | .none => []
    | .count _ _ _ _ _ => [.dorentTimeout core]
    | .barrier _ _ _ _ => [.dorentTimeout core]
    | .join _ _ _ => [.circuitRequestArrive core, .djoinTimeout core]
    | .unjoin _ _ _ _ => [.circuitRequestArrive core]
    | .closing _ => [.closingBarrierTimeout core]
    | .agree _ _ _ _ _ _ _ =>
      [.agreeVoteArrive core, .agreeDeadline core, .agreeDecisionArrive core, .agreeInstall core, .agreeNoDecision core],
    peers.map (fun p => .catchUpRecord core p)]
  stepsIf d.copy.isSome [.colldCopyDone core] ++ stepsIf (d.state == .running) running
    ++ stepsIf (!d.late.isEmpty) [.dorentOpComplete core d.nextOp]

/-- The frames for which something of a core waits: fetches, and the units (R405). -/
def Core.heldFrames (c : Core) : List (Nat × Nat) :=
  c.slots.filterMap (fun x => match x.wait, x.lea with
    | .fetch (some f), some l => some (l, f)
    | _, _ => none)
  ++ (match c.lea with
    | some l =>
      [c.bay.port.bind (fun j => j.parked.join), c.dorent.park.join, c.dorent.copy.bind (fun y => y.parked.join)].filterMap (fun f =>
        f.map (fun f => (l, f)))
    | none => [])

/-- The frames for which an item of outstanding work waits (R405). -/
def Out.heldFrames (o : Out) : List (Nat × Nat) :=
  o.parts.filterMap (fun p => match p.stage with
    | .pageFault f => some (o.lea, f)
    | _ => none)

/-- The events of a core's units (R264, R278, R339, R340, R378, R403, R437). -/
noncomputable def State.coreEvents (s : State) (core : Nat) : List Instr :=
  let c := s.core core
  let each (f : Nat → List Instr) : List Instr := (List.range 16).flatMap f
  let peers : List Nat := match c.lea.bind s.lea with
    | some l => if (c.dorent.record c.dorent.gid).isSome then l.cores.filter (fun p => p != core) else []
    | none => []
  List.flatten [
    stepsIf (!c.fills.isEmpty) [.icacheFill core],
    stepsIf (c.engine.shadow.isSome || c.engine.active.isSome) [.engineRestart core, .enginePark core, .engineWindowCommit core],
    stepsIf c.bay.port.isSome [.portTransferFault core, .portTransferDone core],
    stepsIf c.fault15.isSome [.slot15Fault core],
    each (fun k => (c.slot k).events core k),
    stepsIf (!c.headRecords.isEmpty) [.trapRecordDeliver core 15],
    stepsIf (!c.trapFile.isEmpty || !c.mailbox.isEmpty) [.handlerStart core],
    stepsIf c.handover.isSome (each (fun k => [.slotSaveDone core k, .slotRestoreDone core k])),
    stepsIf c.handover.isSome [.poolPhaseDone core],
    c.dorent.events core peers]

/-- The groups that have a Running context, by lea. -/
def State.runs (s : State) : List (Nat × Nat) :=
  (s.cores.filterMap (fun p => match p.2.lea with
    | some l => if p.2.dorent.state = .running then some (l, p.2.dorent.gid) else none
    | none => none)).dedup

/-- The events of a gang (R320, R347, R349, R350, R357). -/
noncomputable def Gang.events (g : Gang) : List Instr :=
  let bar (k : Nat) : List Instr :=
    let b := g.bar k
    let behind := (g.members.map (fun m => m.core)).dedup.filter (fun c => decide (b.genAt c < b.gen))
    b.arrived.map (fun r => .barrierArrival g.lea g.gid k r.1) ++ behind.map (fun c => .barrierComplete g.lea g.gid k c)
  let round (q : GredRound) : List Instr :=
    let nodes := (List.range g.ncore).reverse.filter (fun r => (keyFind q.nodes r).isNone)
    let ranks := if q.result.isSome then (List.range g.members.length).filter (fun r => !q.delivered.contains r) else []
    nodes.map (fun r => .gredContributionArrive g.lea g.gid q.num r) ++ ranks.map (fun r => .gredResultDeliver g.lea g.gid q.num r)
  List.flatten [
    (List.range g.barriers.length).flatMap bar,
    g.rounds.flatMap round,
    stepsIf (g.members.all (fun m => m.gone)) [.taskRetire g.lea g.gid]]

/-- The debt of the lea whose slice a core's schedule brings next, and that lea (R330). -/
def State.nextSlice (s : State) (core : Nat) : Nat × Nat :=
  let c := (s.core core).bringNext
  match c.sched[(c.slice + 1) % c.sched.length]? with
  | some (l, _) => (keyGet 0 c.debts l, l)
  | none => (0, 0)

/-- A core placed among others in the order in which slices due at one boundary start: descending debt, then ascending lea
(R330). -/
def State.insSlice (s : State) (core : Nat) : List Nat → List Nat
  | [] => [core]
  | c :: t =>
    let (a, l) := s.nextSlice core
    let (b, m) := s.nextSlice c
    if b < a ∨ (a = b ∧ l < m) then core :: c :: t else c :: s.insSlice core t

/-- The events of a tide boundary: what Headland makes of the ended tide first, then what it decides for the next (R227, R318,
R325, R328, R330, R377, R425, R429). -/
noncomputable def State.tideEvents (s : State) : List Instr :=
  let starts := (s.cores.filter (fun p => !p.2.sched.isEmpty)).foldl (fun l p => s.insSlice p.1 l) []
  List.flatten [
    s.head.failing.elim [] (fun r => [.fatalError r]),
    s.dies.zipIdx.flatMap (fun d => stepsIf d.1.failed [.dieReset d.2] ++ stepsIf (d.1.phase != .up) [.dieRejoin d.2]),
    s.gangs.flatMap (fun g => [.watchdogTide g.lea g.gid, .watchdogExpire g.lea g.gid]),
    s.leas.flatMap (fun p => p.2.cores.map (fun c => .debtAccrue p.1 c)),
    s.leas.map (fun p => .gtoffApply p.1),
    s.circuits.flatMap (fun c => [.circuitSwitch c.id, .circuitDecide c.id]),
    starts.map (fun c => .sliceStart c),
    s.leas.map (fun p => .dispatchPass p.1)]

/-- The events that may be due in a slot after the cycles of its cores. Each has no effect where its time has not come
(log 2). -/
noncomputable def State.dueEvents (s : State) : List Instr :=
  let die (d : Die × Nat) : List Instr := match d.1.phase with
    | .isolate _ => [.dieResetLogic d.2]
    | .reset => [.dieScrub d.2]
    | _ => []
  List.flatten [
    s.dies.zipIdx.flatMap die,
    ((s.outs.flatMap Out.heldFrames ++ s.cores.flatMap (fun p => p.2.heldFrames)).dedup).map (fun f => .pageFaultWake f.1 f.2),
    s.outs.flatMap Out.events,
    s.mail.flatMap Mail.events,
    (s.banks.filter (fun b => !b.2.isEmpty)).map (fun b => .bankCommandExecute b.1),
    s.gangs.flatMap Gang.events,
    s.cores.flatMap (fun p => s.coreEvents p.1),
    s.runs.flatMap (fun g => [.dbarComplete g.1 g.2, .closingBarrierDone g.1 g.2])]

/-! ## A core cycle of an island (R16, R112, R143, R174, R263, R270, R355, R378) -/

/-- Whether a core has cycles: a lea holds it, or it changes hands. -/
def Core.active (c : Core) : Bool := c.lea.isSome || c.handover.isSome

/-- The cores of an island that have cycles. -/
def State.islandCores (s : State) (island : Nat) : List Nat :=
  (s.cores.filter (fun p => islandOf p.1 == island && p.2.active)).map (fun p => p.1)

/-- What is due at the beginning of a cycle of a core, before its turn: a rotation, the stops of a handover, results and flags, the
effects of the bay, the ends of YIELDs and the engine's next command (R17, R112, R136, R146, R177, R263, R355, R378). -/
noncomputable def State.cycleStart (s : State) (core : Nat) : List Instr :=
  let c := s.core core
  let slots (f : Nat → Bool) : List Nat := (List.range 16).filter f
  let fill (o : Out) : List Instr := match o.work with
    | .compute _ _ _ => [.resultFill o.id]
    | .vector _ _ _ _ => [.vectorFill o.id]
    | _ => []
  let yields (k : Nat) : Bool := match (c.slot k).hold with
    | .turn0 _ => true
    | _ => false
  List.flatten [
    stepsIf c.rotNext.isSome [.rotApply core],
    (slots (fun k => c.stopDue (s.cycle core) k)).map (fun k => .handoverStop core k),
    (s.outs.filter (fun o => o.core == core)).flatMap fill,
    stepsIf (!c.bay.queue.isEmpty) [.bayEntryEffect core],
    (slots (fun k => c.handover.isSome && (c.slot k).stopped.isSome && !(c.slot k).vacated)).map (fun k => .settleEnd core k),
    (slots yields).map (fun k => .yieldEnd core k),
    stepsIf c.engine.shadow.isSome [.engineCommandStart core]]

/-- What a cycle of an island brings: what is due, the turn of each core, then the lanes and the array of the cores whose cycle it
is (R145, R177). -/
noncomputable def State.cycleActs (s : State) (island : Nat) : List Act :=
  let cores := s.islandCores island
  (cores.flatMap s.cycleStart).map Act.event ++ cores.map Act.turn
    ++ (cores.filter (fun c => s.cycle c % 4 == c % 4)).flatMap (fun c => [.event (.vectorServe c), .event (.bayEntryPerform c)])

/-- A cycle of an island begins, and ends once every core of it has had its turn: the semaphores that changed in it wake their
waiters, and the island comes to its next cycle (R143, R270). -/
noncomputable def State.runCycle (s : State) (island : Nat) : State :=
  if (s.islandCores island).any (fun c => (s.core c).turned ≤ s.cycle c) then
    { s with agenda := s.cycleActs island ++ s.agenda }
  else
    { s.popAct with
      cores := s.cores.map (fun p => if islandOf p.1 = island then (p.1, p.2.semCycle) else p)
      cycles := listMod s.cycles island (fun n => n + 1) }

/-! ## The tick (R224, R271, R328-R330; log 1) -/

/-- The core cycles that an island gives in the slot that begins now, at its clock (R329; 40 steps of 50 MHz are one cycle a
slot). -/
def State.cyclesNow (s : State) (island : Nat) : Nat :=
  match s.islands[island]? with
  | some k => (s.now + 1) * k.steps / 40 - s.now * k.steps / 40
  | none => 0

/-- A core at a tide boundary: the cycles of the tide that ended, and one more tide parked for a parked context (R286, R299,
R330). -/
def Core.tideEnd (c : Core) : Core :=
  { c with
    delivered := c.counting
    counting := 0
    accrued := []
    dorent := if c.dorent.park.isSome then { c.dorent with parkedTides := c.dorent.parkedTides + 1 } else c.dorent }

/-- Whether an item waits for a service slot of HBM (R326, R328). -/
def Out.awaitsService (o : Out) : Bool :=
  match o.work with
  | .access x => x.parts.any (fun p => p.pa.isSome && ((x.space == 4 && p.stage == .sent) || (x.space == 5 && p.stage == .arrived)))
  | .bank c => c.inQueue && c.space == 4 && decide (0 < c.units)
  | _ => false

/-- Whether a walk of an item waits for a service slot of HBM for its next read (R326, R328, R390). -/
def State.awaitsRead (s : State) (o : Out) : Bool :=
  (List.range o.parts.length).any (fun i => (o.parts[i]?).any (fun p =>
    s.walks o i p && decide (s.walkAt o p ≤ s.now) && ((s.partReads o p)[p.walked]?).any Option.isSome))

/-- The threads of a core whose fetches wait for service slots of HBM, by slot: those of the first fill of each lea (R326, R328, R437). -/
def Core.awaitsFill (c : Core) : List Nat :=
  ((c.fills.map (fun f => f.lea)).dedup.filterMap (fun l => c.fills.find? (fun f => f.lea == l))).filterMap (fun f =>
    if f.began.isNone && (c.slot f.slot).tid == f.tid then some f.slot else none)

/-- The thread of a core whose port transfer or copy of COLLD waits for service slots of HBM (R326, R328). -/
def State.awaitsUnits (s : State) (core : Nat) : List Nat :=
  let port : List Nat := match s.portView core with
    | some (j, o, l, _) =>
      if l.any (fun p => (hbmUnits p.2.2 p.2.1).any (fun u => !j.flow.any (fun f => f.1 == u))) then [o.tid] else []
    | none => []
  let copy : List Nat := match (s.dor core).copy with
    | some y => if y.flow.any (fun f => !f.wants.isEmpty) then [y.tid] else []
    | none => []
  (List.range 16).filter (fun k => (port ++ copy).contains (s.slot core k).tid && (s.slot core k).run != .absent)

/-- The gangs of threads that wait for service slots have this tide excluded (R328). -/
def State.excludeWaits (s : State) : State :=
  let s1 := (s.outs.filter (fun o => o.awaitsService || s.awaitsRead o)).foldl (fun s o => s.excludeOn o.core o.slot) s
  (s.cores.flatMap (fun p => (p.2.awaitsFill ++ s.awaitsUnits p.1).map (fun k => (p.1, k)))).foldl (fun s x => s.excludeOn x.1 x.2) s1

/-- The cycles of an island in the slot that begins now: acts where some core of it has cycles. -/
def State.islandActs (s : State) (island : Nat) : List Act :=
  if (s.islandCores island).isEmpty then [] else List.replicate (s.cyclesNow island) (.cycle island)

/-- The cycles of the islands of which no core has any, passed over. -/
def State.idleCycles (s : State) : List Nat :=
  s.cycles.mapIdx (fun i n => if (s.islandCores i).isEmpty then n + s.cyclesNow i else n)

/-- The slot counter advances; what is due in the slot is the agenda: what a tide boundary brings, the cycles of the cores, what
comes to its time or its home, so that it comes after a register write of the same cycle, and then the steps of the contexts
whose slot it is (R107, R224, R271, R337). -/
noncomputable def State.tick (s : State) : State :=
  let s1 : State := { s with now := s.now + 1, served := [] }
  let s2 : State := if s1.tideSlot = 0 then { s1 with cores := s1.cores.map (fun p => (p.1, p.2.tideEnd)) } else s1
  let s3 := s2.excludeWaits
  { s3 with
    cycles := s3.idleCycles
    agenda :=
      (if s3.tideSlot = 0 then s3.tideEvents else []).map Act.event
      ++ (List.range 16).flatMap s3.islandActs
      ++ s3.dueEvents.map Act.event
      ++ (s3.cores.filter (fun p => p.2.dorent.state == .running && p.1 % 4 == s3.now % 4)).map (fun p => .dorent p.1)
      ++ s3.agenda }

/-! ## The next step -/

/-- Whether a step of the table may run while the module is off or in the Fatal state (R429-R431). -/
def runsStopped : Instr → Bool
  | .secureBoot _ => true
  | .moduleReset => true
  | _ => false

/-- Whether a step of the table belongs to the thread or the context that acts although no word of a program names it. -/
def ofActor : Instr → Bool
  | .decodeTrap _ _ _ => true
  | .instructionFetch => true
  | .dorentDecodeFault _ => true
  | .addressMatchHalt => true
  | _ => false

/-- Whether a step of the table is one that no thread and no Dorent context issues: only such a step is an act of its own (R16).
The table has them after the instructions, from RESULT_FILL on. -/
noncomputable def isEvent (i : Instr) : Bool := decide ((Instr.resultFill 0).ctorIdx ≤ i.ctorIdx) && !ofActor i

/-- Whether an act of the agenda may execute a step of the table now. -/
noncomputable def State.mayAct (s : State) (i : Instr) : Bool := isEvent i && (s.head.power == .running || runsStopped i)

/-- What the next step comes to: the first act of the agenda, or a tick where it is empty. While the module does not run, only
its start and its reset have an effect (R429, R431). -/
noncomputable def State.aim (s : State) : Aim :=
  match s.agenda with
  | [] => .pass (if s.head.power = .running then s.tick else { s with now := s.now + 1, served := [] })
  | .event i :: _ => if s.mayAct i then .go false i s.popAct else .pass s.popAct
  | .cycle n :: _ => .pass (if s.head.power = .running then s.runCycle n else s.popAct)
  | .turn c :: _ => if s.head.power = .running then s.aimTurn c else .pass s.popAct
  | .dorent c :: _ => if s.head.power = .running then s.aimDorent c else .pass s.popAct
  | .tick :: _ => .pass (if s.head.power = .running then s.popAct.tick else { s.popAct with now := s.now + 1, served := [] })

/-- The state after an instruction executed: in a turn, what becomes of the turn. -/
def State.after (turn : Bool) (s u : State) : State := if turn then s.afterTurn u else u

/-! ## A program placed from outside (log 6) -/

/-- The code segment of a thread placed from outside: the whole of code space, with R and X. -/
def placedCode : Seg := ⟨0, 0x1000000000000#49, 0x0057#16⟩

/-- A thread placed from outside: Ready at supervisor level with PC 0 in a code segment. -/
def placedSlot (x : Slot) (cycle : Nat) : Slot :=
  { Slot.reset with
    run := .ready, lea := some 0, tid := x.tid, lastIssue := (cycle : Int) - 16
    desc := { x.desc with pc := 0, stat := x.desc.stat ||| 0x200#64, segs := x.desc.segs.set 7 placedCode } }

/-- Core 0 with a thread in the slot that owns its present turn, and a line of code in its instruction cache. -/
def Core.placeCode (c : Core) (cycle : Nat) (bytes : List Byte) : Core :=
  ({ c with
    lea := some 0, turned := 0, probe := 0, handover := none, rotNext := none
    icache := ⟨0, 0, bytes, [], 0, 0⟩ :: c.icache }).modSlot (c.owner cycle) (fun x => placedSlot x cycle)

/-- Core 0 with a Running context of one member whose program is one word. -/
def Core.placeDorent (c : Core) (w : Word) : Core :=
  { c with
    lea := some 0
    dorent := { Dorent.reset with
      store := [(0, w)], loaded := 1, state := .running, gid := 0, recs := [⟨0, 0, some 0, 1, false, [0]⟩] } }

/-- The bytes of a number of bits, the least significant first, filled with zeros to a line. -/
def lineBytes (nbits w : Nat) : List Byte :=
  (List.range 64).map (fun i => if 8 * i < nbits then BitVec.ofNat 8 (w % 2 ^ nbits / 256 ^ i) else 0)

/-- A state with an instruction placed as the one that the next step fetches: a thread's, or a Dorent word where the table gives
64 bits. -/
def State.placeWord (s : State) (nbits w : Nat) : State :=
  let s1 : State := { s with head := { s.head with power := .running } }
  if nbits = 64 then { s1.modCore 0 (fun c => c.placeDorent (BitVec.ofNat 64 w)) with agenda := [.dorent 0] }
  else { s1.modCore 0 (fun c => c.placeCode (s.cycle 0) (lineBytes nbits w)) with agenda := [.turn 0] }

end Sys2Proof.Machine
end

