-- ==== Sys2Proof/Machine/Step.lean ====
section
/-! DEFINITION. One step of the module: what moves next (log 1), and its effect. -/

namespace Sys2Proof.Machine

/-- One step: an aim with nothing to execute gives its state; an instruction executes, and the state after it is what its act
makes of it. A step that stops says why. -/
noncomputable def step (s : State) : Host.Outcome State Fault Refusal :=
  match s.aim with
  | .pass t => .next t
  | .go turn i t =>
    match exec i t with
    | .next u => .next (State.after turn t u)
    | .fault f => .fault f
    | .refused r => .refused r

/-- A state with an instruction stored where the next step fetches (log 6). -/
def State.withFetchWord (s : State) (nbits w : Nat) : State := s.placeWord nbits w

end Sys2Proof.Machine
end

