-- ==== Sys2Proof/Safety.lean ====
section
/-! DEFINITION. What counts as a safe step, the conditions on operands under which instructions run, and the invariant of the
state: the terms in which statements are made. -/

namespace Sys2Proof.Machine

/-- A step is safe when it ends in a next state: it meets no fault and no refusal. -/
def Safe (s : State) : Prop := ∃ t, step s = .next t

/-- The invariant of memory: its canonical form. -/
abbrev MemoryOk (s : State) : Prop := s.mem.wf = true

/-- Every doubleword of a list is full (R25, R105). -/
abbrev State.Full (s : State) (l : List Nat) : Prop := ∀ a ∈ l, s.mem.isFull a = true

/-- No doubleword of a list is owed a result (R26, R62). -/
abbrev State.Unowed (s : State) (l : List Nat) : Prop := ∀ a ∈ l, s.mem.isPending a = false

/-- No doubleword of a list is poisoned (R422). -/
abbrev State.Clean (s : State) (l : List Nat) : Prop := ∀ a ∈ l, s.mem.isBad a = false

/-- The registers of the acting thread may be reached: they do not lie in a shared pool that its lea does not hold, unless the
instruction names none (R381). -/
abbrev State.Reached (s : State) (l : List Nat) : Prop := s.regsAway = true → l = []

/-- The sources of an instruction may be read and its destinations written in this turn: its registers can be reached, its sources
are full, its destinations are owed nothing, no earlier plain access holds back the read of a word that another party wrote, and no
access in the lookahead window has still to reach a destination (R62, R65, R105, R206, R381). -/
abbrev State.Operands (s : State) (src dst : List Nat) : Prop :=
  s.Full src ∧ s.Unowed dst ∧ s.Reached (src ++ dst) ∧ s.readsWait src = false ∧ s.writesWait dst = false

/-- The scalar registers of a list may be read (R105). -/
abbrev State.Reads (s : State) (src dst : List Nat) : Prop := s.Operands (src.map s.wAddr) (dst.map s.wAddr)

/-- An instruction runs on to a space: the thread's lea holds the pool where the space needs it, and the injection queue of its
request plane has room (R322, R343, R381). -/
abbrev State.PathOpen (s : State) (sp : Nat) : Prop :=
  ((sp = 2 ∨ sp = 6) → s.myCore.lea = s.me.lea) ∧ ((sp = 3 ∨ sp = 4 ∨ sp = 5) → s.requestFlits s.cur.1 s.me.lea (Config.requestPlane s.nextId) < 16)

/-- The conditions under which a scalar access of n bytes through segment k issues (R39, R62, R228, R231, R423): its operands,
its kind's limit, its path, clean address registers, and the checks of its exact offset. -/
abbrev State.MayAccess (s : State) (rx : Option (BitVec 3)) (k n : Nat) (rights : List Right) (spaces regs srcs dst : List Nat)
    (off : Int) : Prop :=
  s.Reads (regs ++ srcs) dst ∧ s.count (kindOf rx) < (kindOf rx).limit ∧ s.PathOpen (s.seg k).space
  ∧ (∀ r ∈ regs, (s.w r).bad = false) ∧ 0 ≤ off
  ∧ segFail (s.seg k) (s.extent (s.seg k).space) off.toNat n rights spaces = none
  ∧ ((s.seg k).base.toNat + off.toNat) % n = 0
  ∧ s.overlaps (s.seg k).space ((s.seg k).base.toNat + off.toNat) n (dst.map s.wAddr) = false

/-- A store through segment k that reaches, in the message window, the class table at supervisor level only (R343). -/
abbrev State.TableOnly (s : State) (k : Nat) (off : Int) : Prop :=
  (s.seg k).space = 6 → s.priv = true ∧ 0x400 ≤ (s.seg k).base.toNat + off.toNat

/-- A scalar access issued: one event of n bytes at BASE + offset waits to be performed, its destination is pending, and PC
advances past its bytes (R26, R205, R228). -/
def State.accessed (s : State) (ilen k n : Nat) (op : MemOp) (rx : Option (BitVec 3)) (acq rel : Bool) (look : Option Nat)
    (dst : List Nat) (off : Int) (data : PWord) : Out1 :=
  let x := s.newAccess k off.toNat op
    [s.newPart (s.seg k) ((s.seg k).base.toNat + off.toNat) off.toNat n data 0] (scopeOf rx)
  .next (s.startAccess ilen look.isSome (look.getD 0) (dst.map s.wAddr) { x with acq := acq, rel := rel })

/-- A vector instruction may issue: its operands may be read and written, its sources are clean, and its slot's queue has room
(R105, R144). -/
abbrev State.MayQueue (s : State) (src dst : List Nat) : Prop :=
  s.Operands src dst ∧ s.Clean src ∧ (s.outs.filter (fun o => o.inVQueue s.cur.1 s.cur.2)).length < 4

/-- A vector instruction issued: an entry of the slot's queue holds its results, flags and latency, its destination is pending,
and PC advances by 4 (R144, R150). -/
def State.queued (s : State) (dst : List Nat) (look : BitVec 4) (lat : Nat) (vals : List PWord) (fl : Flags) : Out1 :=
  .next (((s.addOut (s.newOut 4 true look.toNat dst (.vector vals fl lat none))).markPending dst).issue 4)

/-- Element i of w bits of the register whose doublewords stand at some addresses (R80, R148). -/
def State.elemIn (s : State) (l : List Nat) (w i : Nat) : Nat := s.wide l / 2 ^ (w * i) % 2 ^ w

/-- Whether element i is active under governing mask m, mask 0 being none (R149). -/
def State.active (s : State) (m : BitVec 3) (i : Nat) : Bool := m == 0 || (s.elemIn (s.mAddrs m.toNat) 1 i == 1)

end Sys2Proof.Machine
end

