-- ==== Sys2Proof/Certificates/Slice0/Obligations.lean ====
section
/-! DEFINITION. The statements for the provers, written from the numbered rules of spec/. -/

open Sys2Proof Sys2Proof.Machine

/-- R111: the results of the two-register integer instructions, for every operand; a poisoned source gives a poisoned result
(R422). The compact form of ADD w3, w3, w9 is the halfword 0x8325. -/
def Obligations.IntegerTwoRegisterResults : Prop :=
  decodeTableWord 16 0x8325 = some (.add16 3 9)
  ∧ ∀ (b a d : BitVec 5) (s : State), s.Reads [a.toNat, b.toNat] [d.toNat] →
    let x := (s.w a.toNat).val
    let y := (s.w b.toNat).val
    let put (v : Word) : Out1 := .next (s.setW 4 d.toNat ((s.w a.toNat).bad || (s.w b.toNat).bad) v)
    exec (.add b a d) s = put (x + y)
    ∧ exec (.sub b a d) s = put (x - y)
    ∧ exec (.mul b a d) s = put (x * y)
    ∧ exec (.mulh b a d) s = put ((x.signExtend 128 * y.signExtend 128).extractLsb' 64 64)
    ∧ exec (.mulhu b a d) s = put ((x.setWidth 128 * y.setWidth 128).extractLsb' 64 64)
    ∧ exec (.and b a d) s = put (x &&& y)
    ∧ exec (.or b a d) s = put (x ||| y)
    ∧ exec (.xor b a d) s = put (x ^^^ y)
    ∧ exec (.andn b a d) s = put (x &&& ~~~y)
    ∧ exec (.orn b a d) s = put (x ||| ~~~y)
    ∧ exec (.shl b a d) s = put (x <<< (y.toNat % 64))
    ∧ exec (.shr b a d) s = put (x >>> (y.toNat % 64))
    ∧ exec (.sra b a d) s = put (x.sshiftRight (y.toNat % 64))
    ∧ exec (.ror b a d) s = put (x.rotateRight (y.toNat % 64))
    ∧ exec (.min b a d) s = put (if x.toInt < y.toInt then x else y)
    ∧ exec (.max b a d) s = put (if x.toInt < y.toInt then y else x)
    ∧ exec (.minu b a d) s = put (if x.toNat < y.toNat then x else y)
    ∧ exec (.maxu b a d) s = put (if x.toNat < y.toNat then y else x)
    ∧ exec (.cmpeq b a d) s = put (if x = y then 1 else 0)
    ∧ exec (.cmplt b a d) s = put (if x.toInt < y.toInt then 1 else 0)
    ∧ exec (.cmpltu b a d) s = put (if x.toNat < y.toNat then 1 else 0)

/-- R113: what the bit counts and reversals give, for every word. R114, R115: SEL chooses by wc; EXTR and INSB read the position
in wb[5:0] and the length in wb[14:8], cut at bit 63. -/
def Obligations.BitAndFieldResults : Prop :=
  (∀ (a d : BitVec 5) (s : State), s.Reads [a.toNat] [d.toNat] →
      let x := (s.w a.toNat).val
      let put (v : Word) : Out1 := .next (s.setW 4 d.toNat (s.w a.toNat).bad v)
      (∃ n, n ≤ 64 ∧ exec (.clz a d) s = put (BitVec.ofNat 64 n) ∧ (∀ i, 64 - n ≤ i → x.getLsbD i = false)
        ∧ (n < 64 → x.getLsbD (63 - n) = true))
      ∧ (∃ n, n ≤ 64 ∧ exec (.ctz a d) s = put (BitVec.ofNat 64 n) ∧ (∀ i, i < n → x.getLsbD i = false)
        ∧ (n < 64 → x.getLsbD n = true))
      ∧ exec (.popc a d) s = put (BitVec.ofNat 64 ((List.range 64).filter (fun i => x.getLsbD i)).length)
      ∧ (∃ v : Word, exec (.brev a d) s = put v ∧ ∀ i, i < 64 → v.getLsbD i = x.getLsbD (63 - i))
      ∧ (∃ v : Word, exec (.bswap a d) s = put v ∧ ∀ k i, k < 8 → i < 8 → v.getLsbD (8 * k + i) = x.getLsbD (8 * (7 - k) + i)))
  ∧ (∀ (c : BitVec 4) (b a d : BitVec 5) (s : State),
      let x := (s.w a.toNat).val
      let y := (s.w b.toNat).val
      let pos := y.toNat % 64
      let len := min (y.toNat / 256 % 128) (64 - pos)
      (s.Reads [c.toNat, a.toNat, b.toNat] [d.toNat] →
        exec (.sel c b a d) s = .next (s.setW 4 d.toNat ((s.w c.toNat).bad || (s.w a.toNat).bad || (s.w b.toNat).bad)
          (if (s.w c.toNat).val = 0 then y else x)))
      ∧ (s.Reads [a.toNat, b.toNat] [d.toNat] → ∃ v : Word,
        exec (.extr b a d) s = .next (s.setW 4 d.toNat ((s.w a.toNat).bad || (s.w b.toNat).bad) v)
        ∧ ∀ i, i < 64 → v.getLsbD i = (decide (i < len) && x.getLsbD (pos + i)))
      ∧ (s.Reads [a.toNat, b.toNat, d.toNat] [d.toNat] → ∃ v : Word,
        exec (.insb b a d) s = .next (s.setW 4 d.toNat ((s.w a.toNat).bad || (s.w b.toNat).bad || (s.w d.toNat).bad) v)
        ∧ ∀ i, i < 64 → v.getLsbD i = if pos ≤ i ∧ i < pos + len then x.getLsbD (i - pos) else (s.w d.toNat).val.getLsbD i))

/-- R116, R117, R118: the immediate and the compact integer forms; the compact forms advance PC by 2. R69, R120-R124: LEA and
MAPR form a checked offset, ADDPC and SGRD read what they name, and LDL reads a literal through the instruction cache. -/
def Obligations.ImmediateAndAddressResults : Prop :=
  (∀ (a d : BitVec 5) (s : State),
      let x := (s.w a.toNat).val
      let z := (s.w d.toNat).val
      let put (n : Nat) (v : Word) : Out1 := .next (s.setW n d.toNat (s.w a.toNat).bad v)
      let own (n : Nat) (v : Word) : Out1 := .next (s.setW n d.toNat (s.w d.toNat).bad v)
      let two (v : Word) : Out1 := .next (s.setW 2 d.toNat ((s.w d.toNat).bad || (s.w a.toNat).bad) v)
      (s.Reads [a.toNat] [d.toNat] →
        (∀ i : BitVec 12, exec (.addi i a d) s = put 4 (x + i.signExtend 64))
        ∧ (∀ k : BitVec 6, exec (.shli k a d) s = put 4 (x <<< k.toNat) ∧ exec (.shri k a d) s = put 4 (x >>> k.toNat)
          ∧ exec (.srai k a d) s = put 4 (x.sshiftRight k.toNat))
        ∧ (∀ i : BitVec 9,
            exec (.cmpi 0 i a d) s = put 4 (if x = i.signExtend 64 then 1 else 0)
            ∧ exec (.cmpi 1 i a d) s = put 4 (if x ≠ i.signExtend 64 then 1 else 0)
            ∧ exec (.cmpi 2 i a d) s = put 4 (if x.toInt < i.toInt then 1 else 0)
            ∧ exec (.cmpi 3 i a d) s = put 4 (if i.toInt ≤ x.toInt then 1 else 0)
            ∧ exec (.cmpi 4 i a d) s = put 4 (if x.toNat < (i.signExtend 64).toNat then 1 else 0)
            ∧ exec (.cmpi 5 i a d) s = put 4 (if (i.signExtend 64).toNat ≤ x.toNat then 1 else 0))
        ∧ exec (.addiMove16 d a) s = put 2 x)
      ∧ (s.Reads [] [d.toNat] →
        (∀ i : BitVec 17, exec (.movi i d) s = .next (s.setW 4 d.toNat false (i.signExtend 64)))
        ∧ (∀ i : BitVec 6, exec (.movi16 d i) s = .next (s.setW 2 d.toNat false (i.signExtend 64))))
      ∧ (s.Reads [d.toNat] [d.toNat] →
        (∀ i : BitVec 16, exec (.lih i d) s = own 4 ((z <<< 16) ||| i.setWidth 64))
        ∧ (∀ i : BitVec 6, exec (.addi16 d i) s = own 2 (z + i.signExtend 64))
        ∧ (∀ k : BitVec 6, exec (.shli16 d k) s = own 2 (z <<< k.toNat) ∧ exec (.shri16 d k) s = own 2 (z >>> k.toNat)))
      ∧ (s.Reads [d.toNat, a.toNat] [d.toNat] →
        exec (.add16 d a) s = two (z + x) ∧ exec (.sub16 d a) s = two (z - x)
        ∧ exec (.and16 d a) s = two (z &&& x) ∧ exec (.or16 d a) s = two (z ||| x)))
  ∧ (∀ (k : BitVec 3) (a d : BitVec 5) (s : State),
      let g := s.seg k.toNat
      (s.Reads [a.toNat] [d.toNat] → (s.w a.toNat).bad = false → ∀ i : BitVec 9,
        let o : Int := ((s.w a.toNat).val.toNat : Int) + i.toInt
        (g.space ≠ 0 → 0 ≤ o → o ≤ g.limit.toNat →
          exec (.lea k i a d) s = .next (s.setW 4 d.toNat false (BitVec.ofInt 64 o)))
        ∧ (g.space = 0 → exec (.lea k i a d) s = .next (s.raise 4 0x20 (BitVec.ofInt 64 o)))
        ∧ (g.space ≠ 0 → (o < 0 ∨ (g.limit.toNat : Int) < o) → exec (.lea k i a d) s = .next (s.raise 4 0x21 (BitVec.ofInt 64 o))))
      ∧ (s.Reads [a.toNat] [d.toNat] → (s.w a.toNat).bad = false → ∀ i : BitVec 9,
        let o : Int := ((s.w a.toNat).val.toNat : Int) + 64 * i.toInt
        (g.space = 1 ∨ g.space = 2) → g.has .r = true → 0 ≤ o → o + 64 ≤ g.limit.toNat → o % 64 = 0 →
          exec (.mapr k i a d) s = .next (s.setW 4 d.toNat false (BitVec.ofInt 64 o ||| k.setWidth 64)))
      ∧ (s.Reads [] [d.toNat] →
        (∀ i : BitVec 17, exec (.addpc i d) s = .next (s.setW 4 d.toNat false (s.pc + 2 * i.signExtend 64)))
        ∧ exec (.sgrd 0 k d) s = .next (s.setW 4 d.toNat false (g.base.setWidth 64))
        ∧ exec (.sgrd 1 k d) s = .next (s.setW 4 d.toNat false (g.limit.setWidth 64))
        ∧ exec (.sgrd 2 k d) s = .next (s.setW 4 d.toNat false (g.attr.setWidth 64))
        ∧ ∀ (o : BitVec 11) (l : BitVec 4) (v : Nat) (bad : Bool),
            let off := (s.pc &&& ~~~7#64) + 8 * o.signExtend 64
            segFail (s.seg 7) (s.extent (s.seg 7).space) off.toNat 8 [.x] [7] = none →
            s.codeRead ((s.seg 7).base.toNat + off.toNat) 8 = .ok (v, bad) →
            exec (.ldl o l d) s = .next (((s.addOut (s.newOut 4 true l.toNat [s.wAddr d.toNat]
              (.compute [⟨BitVec.ofNat 64 v, bad⟩] none (s.cycle s.cur.1)))).markWord (s.wAddr d.toNat) .pending).issue 4)))

/-- R112, R26, R62: a division issues with its result owed: the destination is pending, and the result, with no flag, is due 66
core cycles later. A division by zero gives all ones or the dividend, and nothing traps. R136: FDIV and FSQRT issue with their
destination pending; the result, rounded under STAT.RM, and its flags are due 24 (.S) or 56 (.D) core cycles later. -/
def Obligations.LongLatencyIssue : Prop :=
  (∀ (l : BitVec 4) (b a d : BitVec 5) (s : State), s.Reads [a.toNat, b.toNat] [d.toNat] →
      (s.w a.toNat).bad = false → (s.w b.toNat).bad = false →
      let x := (s.w a.toNat).val
      let y := (s.w b.toNat).val
      let goes (i : Instr) (v : Word) : Prop :=
        exec i s = .next (((s.addOut (s.newOut 4 true l.toNat [s.wAddr d.toNat]
          (.compute [⟨v, false⟩] none (s.cycle s.cur.1 + 66)))).markWord (s.wAddr d.toNat) .pending).issue 4)
      goes (.div l b a d) (if y = 0 then BitVec.allOnes 64 else x.sdiv y)
      ∧ goes (.divu l b a d) (if y = 0 then BitVec.allOnes 64 else x / y)
      ∧ goes (.rem l b a d) (if y = 0 then x else x.srem y)
      ∧ goes (.remu l b a d) (x % y))
  ∧ (∀ (w : BitVec 1) (l : BitVec 4) (b a d : BitVec 5) (s : State),
      let f := widthFmt w
      let x := s.fpIn w (s.w a.toNat).val
      let y := s.fpIn w (s.w b.toNat).val
      let slow (k : BitVec 5) : Bool := s.slowNum f (widthBits w (s.w k.toNat).val)
      let goes (sl : Bool) (v : Res) : Out1 :=
        .next ((((s.addOut (s.newOut 4 true l.toNat [s.wAddr d.toNat]
          (.compute [⟨BitVec.ofNat 64 v.bits, false⟩] (some v.flags) (s.cycle s.cur.1 + (if w = 0 then 24 else 56))))).markWord
            (s.wAddr d.toNat) .pending).issue 4).owe (sl || s.slowNum f v.bits))
      (s.Reads [a.toNat, b.toNat] [d.toNat] → (s.w a.toNat).bad = false → (s.w b.toNat).bad = false →
        exec (.fdiv w l b a d) s = goes (slow a || slow b) (fpDiv f s.fz s.rm x y))
      ∧ (s.Reads [a.toNat] [d.toNat] → (s.w a.toNat).bad = false →
        exec (.fsqrt w l a d) s = goes (slow a) (fpSqrt f s.fz s.rm x)))

/-- R126, R128, R130, R131: where each branch, jump and loop goes, for clean operands; NOP only advances PC. R24, R129: CALL and
CALLR open the window at WP + 8F, with the return PC and the old WP in the caller's words F − 1 and F − 2; RET reads them back
at WP − 8 and WP − 16. -/
def Obligations.BranchesAndCalls : Prop :=
  (∀ (a b : BitVec 5) (s : State),
      let x := (s.w a.toNat).val
      let y := (s.w b.toNat).val
      let go (n : Nat) (taken : Prop) [Decidable taken] (t : Word) : Out1 := .next (if taken then s.issueTo t else s.issue n)
      (s.Reads [a.toNat, b.toNat] [] → (s.w a.toNat).bad = false → (s.w b.toNat).bad = false → ∀ o : BitVec 12,
        let t := s.pc + 2 * o.signExtend 64
        exec (.beq o b a) s = go 4 (x = y) t ∧ exec (.bne o b a) s = go 4 (x ≠ y) t
        ∧ exec (.blt o b a) s = go 4 (x.toInt < y.toInt) t ∧ exec (.bge o b a) s = go 4 (y.toInt ≤ x.toInt) t
        ∧ exec (.bltu o b a) s = go 4 (x.toNat < y.toNat) t ∧ exec (.bgeu o b a) s = go 4 (y.toNat ≤ x.toNat) t)
      ∧ (s.Reads [a.toNat] [] → (s.w a.toNat).bad = false →
        (∀ o : BitVec 12, exec (.bz o a) s = go 4 (x = 0) (s.pc + 2 * o.signExtend 64)
          ∧ exec (.bnz o a) s = go 4 (x ≠ 0) (s.pc + 2 * o.signExtend 64))
        ∧ (∀ o : BitVec 6, exec (.bz16 a o) s = go 2 (x = 0) (s.pc + 2 * o.signExtend 64)
          ∧ exec (.bnz16 a o) s = go 2 (x ≠ 0) (s.pc + 2 * o.signExtend 64))
        ∧ (x.getLsbD 0 = false → exec (.jmp a) s = .next (s.issueTo x))
        ∧ (x.getLsbD 0 = true → exec (.jmp a) s = .next (s.raise 4 0x05 x)))
      ∧ (s.Reads [a.toNat] [a.toNat] → (s.w a.toNat).bad = false → ∀ o : BitVec 10,
        let s1 := s.fillWord (s.wAddr a.toNat) ⟨x - 1, false⟩
        exec (.loop o a) s = .next (if x - 1 = 0 then s1.issue 4 else s1.issueTo (s.pc + 2 * o.signExtend 64)))
      ∧ (∀ o : BitVec 20, exec (.br o) s = .next (s.issueTo (s.pc + 2 * o.signExtend 64)))
      ∧ (∀ o : BitVec 11, exec (.br16 o) s = .next (s.issueTo (s.pc + 2 * o.signExtend 64)))
      ∧ exec .nop s = .next (s.issue 4) ∧ exec .nop16 s = .next (s.issue 2))
  ∧ (∀ (f : BitVec 5) (s : State),
      let wp := s.desc.wp.toNat
      (wpOk (s.seg 0) (wp + 8 * f.toNat) = true →
        let opened (t : Word) : Out1 :=
          let s1 := s.fillWord (s.work (wp + 8 * (f.toNat - 1))) ⟨s.pc + 4, false⟩
          let s2 := s1.fillWord (s.work (wp + 8 * (f.toNat - 2))) ⟨s.desc.wp, false⟩
          .next ((s2.modDesc (fun d => { d with wp := BitVec.ofNat 64 (wp + 8 * f.toNat) })).issueTo t)
        (s.Reads [] [f.toNat - 1, f.toNat - 2] → ∀ o : BitVec 20, exec (.call o f) s = opened (s.pc + 2 * o.signExtend 64))
        ∧ (∀ a : BitVec 5, s.Reads [a.toNat] [f.toNat - 1, f.toNat - 2] → (s.w a.toNat).bad = false →
            (s.w a.toNat).val.getLsbD 0 = false → exec (.callr a f) s = opened (s.w a.toNat).val))
      ∧ (16 ≤ wp → s.Operands [s.work (wp - 8), s.work (wp - 16)] [] →
        let r := s.mem.word (s.work (wp - 8))
        let p := s.mem.word (s.work (wp - 16))
        r.bad = false → p.bad = false → r.val.getLsbD 0 = false → wpOk (s.seg 0) p.val.toNat = true →
          let back : Out1 := .next ((s.modDesc (fun d => { d with wp := p.val })).issueTo r.val)
          exec .ret s = back ∧ exec .ret16 s = back))

/-- R60, R228, R232, R233: a scalar load issues one event of its size at BASE plus its exact offset; the displacement is in
units of the size. R50, R207, R232: the compact load, through sg1 or sg2, and the acquire loads. -/
def Obligations.ScalarLoadsIssue : Prop :=
  (∀ (rx : Option (BitVec 3)) (l : BitVec 4) (g : BitVec 3) (b d : BitVec 5) (s : State),
      let x : Int := (s.w b.toNat).val.toNat
      let ok (n : Nat) (off : Int) (regs : List Nat) : Prop := s.MayAccess rx g.toNat n [.r] [1, 2, 3, 4, 6] regs [] [d.toNat] off
      let go (n : Nat) (sg : Bool) (off : Int) : Out1 :=
        s.accessed (withPrefix rx 4) g.toNat n (.load sg) rx false false (some l.toNat) [d.toNat] off ⟨0, false⟩
      (∀ p : BitVec 6,
        let disp (n : Nat) : Int := x + p.toInt * n
        (ok 1 (disp 1) [b.toNat] → exec (.ldb rx p l g b d) s = go 1 true (disp 1))
        ∧ (ok 2 (disp 2) [b.toNat] → exec (.ldh rx p l g b d) s = go 2 true (disp 2))
        ∧ (ok 4 (disp 4) [b.toNat] → exec (.ldw rx p l g b d) s = go 4 true (disp 4))
        ∧ (ok 8 (disp 8) [b.toNat] → exec (.ldd rx p l g b d) s = go 8 true (disp 8)))
      ∧ (ok 1 x [b.toNat] → exec (.ldbu rx l g b d) s = go 1 false x)
      ∧ (ok 2 x [b.toNat] → exec (.ldhu rx l g b d) s = go 2 false x)
      ∧ (ok 4 x [b.toNat] → exec (.ldwu rx l g b d) s = go 4 false x)
      ∧ (∀ i : BitVec 4,
        let off (n : Nat) : Int := (((s.w b.toNat).val.toNat + (s.w i.toNat).val.toNat * n : Nat) : Int)
        let rs : List Nat := [b.toNat, i.toNat]
        (ok 1 (off 1) rs → exec (.ldbIdx rx i l g b d) s = go 1 true (off 1) ∧ exec (.ldbuIdx rx i l g b d) s = go 1 false (off 1))
        ∧ (ok 2 (off 2) rs → exec (.ldhIdx rx i l g b d) s = go 2 true (off 2) ∧ exec (.ldhuIdx rx i l g b d) s = go 2 false (off 2))
        ∧ (ok 4 (off 4) rs → exec (.ldwIdx rx i l g b d) s = go 4 true (off 4) ∧ exec (.ldwuIdx rx i l g b d) s = go 4 false (off 4))
        ∧ (ok 8 (off 8) rs → exec (.lddIdx rx i l g b d) s = go 8 true (off 8))))
  ∧ ((∀ (rx : Option (BitVec 3)) (g : BitVec 1) (l : BitVec 4) (b d : BitVec 3) (s : State),
      let k := if g = 0 then 1 else 2
      let x : Int := (s.w b.toNat).val.toNat
      s.MayAccess rx k 8 [.r] [1, 2, 3, 4, 6] [b.toNat] [] [d.toNat] x →
        exec (.ldd16 rx g l b d) s = s.accessed (withPrefix rx 2) k 8 (.load true) rx false false (some l.toNat) [d.toNat] x ⟨0, false⟩)
    ∧ (∀ (l : BitVec 4) (z : BitVec 2) (g : BitVec 3) (b d : BitVec 5) (s : State),
      let x : Int := (s.w b.toNat).val.toNat
      let n := 2 ^ z.toNat
      s.MayAccess none g.toNat n [.r] [1, 2, 3, 4, 6] [b.toNat] [] [d.toNat] x →
        exec (.ldAcq l z g b d) s = s.accessed 4 g.toNat n (.load true) none true false (some l.toNat) [d.toNat] x ⟨0, false⟩
        ∧ exec (.lduAcq l z g b d) s = s.accessed 4 g.toNat n (.load false) none true false (some l.toNat) [d.toNat] x ⟨0, false⟩))

/-- R50, R60, R228, R232, R233: a scalar store issues one event with the low bytes of its data register; it has no destination
and no window. A store through the message window runs at supervisor level and to the class table, and traps with 0x22 where it
does not reach it (R39, R343). -/
def Obligations.ScalarStoresIssue : Prop :=
  (∀ (rx : Option (BitVec 3)) (g : BitVec 3) (b d : BitVec 5) (s : State),
    let x : Int := (s.w b.toNat).val.toNat
    let ok (n : Nat) (off : Int) (regs : List Nat) : Prop :=
      s.MayAccess rx g.toNat n [.w] [1, 2, 3, 4, 6] regs [d.toNat] [] off ∧ s.TableOnly g.toNat off
    let go (n : Nat) (off : Int) : Out1 :=
      s.accessed (withPrefix rx 4) g.toNat n .store rx false false none [] off (s.w d.toNat)
    (∀ p : BitVec 6,
      let disp (n : Nat) : Int := x + p.toInt * n
      (ok 1 (disp 1) [b.toNat] → exec (.stb rx p g b d) s = go 1 (disp 1))
      ∧ (ok 2 (disp 2) [b.toNat] → exec (.sth rx p g b d) s = go 2 (disp 2))
      ∧ (ok 4 (disp 4) [b.toNat] → exec (.stw rx p g b d) s = go 4 (disp 4))
      ∧ (ok 8 (disp 8) [b.toNat] → exec (.std rx p g b d) s = go 8 (disp 8)))
    ∧ (∀ i : BitVec 4,
      let off (n : Nat) : Int := (((s.w b.toNat).val.toNat + (s.w i.toNat).val.toNat * n : Nat) : Int)
      let rs : List Nat := [b.toNat, i.toNat]
      (ok 1 (off 1) rs → exec (.stbIdx rx i g b d) s = go 1 (off 1))
      ∧ (ok 2 (off 2) rs → exec (.sthIdx rx i g b d) s = go 2 (off 2))
      ∧ (ok 4 (off 4) rs → exec (.stwIdx rx i g b d) s = go 4 (off 4))
      ∧ (ok 8 (off 8) rs → exec (.stdIdx rx i g b d) s = go 8 (off 8)))
    ∧ (∀ z : BitVec 2, s.MayAccess none g.toNat (2 ^ z.toNat) [.w] [1, 2, 3, 4, 6] [b.toNat] [d.toNat] [] x →
        s.TableOnly g.toNat x →
        exec (.stRel z g b d) s = s.accessed 4 g.toNat (2 ^ z.toNat) .store none false true none [] x (s.w d.toNat)))
  ∧ (∀ (rx : Option (BitVec 3)) (g : BitVec 1) (k : BitVec 4) (b d : BitVec 3) (s : State),
    let j := if g = 0 then 1 else 2
    let off : Int := (s.w b.toNat).val.toNat + 8 * (k.toNat : Int)
    s.MayAccess rx j 8 [.w] [1, 2, 3, 4, 6] [b.toNat] [d.toNat] [] off → s.TableOnly j off →
      exec (.std16 rx g k b d) s = s.accessed (withPrefix rx 2) j 8 .store rx false false none [] off (s.w d.toNat))
  ∧ (∀ (g : BitVec 3) (p : BitVec 6) (b d : BitVec 5) (s : State),
    let off : Int := (s.w b.toNat).val.toNat + p.toInt * (8 : Nat)
    s.MayAccess none g.toNat 8 [.w] [1, 2, 3, 4, 6] [b.toNat] [d.toNat] [] off → ¬ s.TableOnly g.toNat off →
      exec (.std none p g b d) s = .next (s.raise 4 0x22 (BitVec.ofInt 64 off)))

/-- R235: the full/empty operations need right F with R or W, and slot slice, shared pool or commons. R241, R242: the atomics
need R and W; AMOCAS compares with the value of its destination register at issue. -/
def Obligations.AtomicAndFullEmptyIssue : Prop :=
  (∀ (l : BitVec 4) (g : BitVec 3) (b d : BitVec 5) (s : State),
      let x : Int := (s.w b.toNat).val.toNat
      let load (r : List Right) : Prop := s.MayAccess none g.toNat 8 r [1, 2, 3] [b.toNat] [] [d.toNat] x
      let store (r : List Right) (src : List Nat) : Prop := s.MayAccess none g.toNat 8 r [1, 2, 3] [b.toNat] src [] x
      let goL (op : MemOp) : Out1 := s.accessed 4 g.toNat 8 op none false false (some l.toNat) [d.toNat] x ⟨0, false⟩
      let goS (op : MemOp) (v : PWord) : Out1 := s.accessed 4 g.toNat 8 op none false false none [] x v
      (load [.f, .r, .w] → exec (.lde l g b d) s = goL .lde)
      ∧ (load [.f, .r] → exec (.ldf l g b d) s = goL .ldf ∧ exec (.feq l g b d) s = goL .feq)
      ∧ (store [.f, .w] [d.toNat] → exec (.stf g b d) s = goS .stf (s.w d.toNat) ∧ exec (.stff g b d) s = goS .stff (s.w d.toNat))
      ∧ (store [.f, .w] [] → exec (.feclr g b) s = goS .feclr ⟨0, false⟩))
  ∧ (∀ (rx : Option (BitVec 3)) (l b : BitVec 4) (g : BitVec 3) (a d : BitVec 5) (s : State),
      let x : Int := (s.w a.toNat).val.toNat
      let ok (n : Nat) (src : List Nat) : Prop := s.MayAccess rx g.toNat n [.r, .w] [1, 2, 3, 4] [a.toNat] src [d.toNat] x
      let go (op n : Nat) (bad : Bool) : Out1 := s.accessed (withPrefix rx 4) g.toNat n (.amo op (s.w d.toNat).val) rx false false
        (some l.toNat) [d.toNat] x ⟨(s.w b.toNat).val, bad⟩
      let bb := (s.w b.toNat).bad
      (ok 8 [b.toNat] →
        exec (.amoadd rx l b g a d) s = go 0 8 bb ∧ exec (.amoand rx l b g a d) s = go 1 8 bb
        ∧ exec (.amoor rx l b g a d) s = go 2 8 bb ∧ exec (.amoxor rx l b g a d) s = go 3 8 bb
        ∧ exec (.amomin rx l b g a d) s = go 4 8 bb ∧ exec (.amomax rx l b g a d) s = go 5 8 bb
        ∧ exec (.amoswp rx l b g a d) s = go 6 8 bb ∧ exec (.amofaddD rx l b g a d) s = go 9 8 bb)
      ∧ (ok 8 [b.toNat, d.toNat] → exec (.amocas rx l b g a d) s = go 7 8 (bb || (s.w d.toNat).bad))
      ∧ (ok 4 [b.toNat] → exec (.amofaddS rx l b g a d) s = go 8 4 bb))

/-- R235: what each full/empty operation does at its home, and where it waits. R241: what each atomic leaves in a clean word that is
not pending, with clean operands; it returns the old value. Poison in the word leaves it unchanged and returns poison (R422). R26,
R230, R422: a plain load returns its bytes; a plain store waits for a pending word, changes exactly its bytes, fills a register word
of a resident thread, poisons its word where its data are poisoned, and clears a poison only with a whole doubleword. -/
def Obligations.AtomicAndFullEmptyAtHome : Prop :=
  (∀ (m : Memory) (reg : Bool) (v : Word) (a : Nat) (p : Part), a % 8 = 0 → p.size = 8 →
      let word : PWord := ⟨BitVec.ofNat 64 p.data, p.dataBad⟩
      homeOp m reg v .lde a p = (if m.isFull a then some (m.setFe a (some .empty), m.word a) else none)
      ∧ homeOp m reg v .ldf a p = (if m.isFull a then some (m, m.word a) else none)
      ∧ homeOp m reg v .stf a p = (if m.feOf a = some .empty then some ((m.putWord a word).setFe a none, word) else none)
      ∧ homeOp m reg v .stff a p = (if m.isPending a then none else some ((m.putWord a word).setFe a none, word))
      ∧ homeOp m reg v .feq a p = some (m, ⟨if m.isFull a then 1 else 0, false⟩)
      ∧ homeOp m reg v .feclr a p = (if m.isPending a then none else some (m.setFe a (some .empty), word)))
  ∧ (∀ (m : Memory) (v c : Word) (a : Nat) (p : Part), a % 8 = 0 → p.size = 8 → p.dataBad = false → m.isPending a = false →
      let old : Word := BitVec.ofNat 64 (m.read a 8)
      let x : Word := BitVec.ofNat 64 p.data
      let gives (op : Nat) (w : Word) : Prop :=
        homeOp m false v (.amo op c) a p = some (m.putWord a ⟨w, false⟩, ⟨old, false⟩)
      (m.isBad a = false →
        gives 0 (old + x) ∧ gives 1 (old &&& x) ∧ gives 2 (old ||| x) ∧ gives 3 (old ^^^ x)
        ∧ gives 4 (if x.toInt < old.toInt then x else old) ∧ gives 5 (if old.toInt < x.toInt then x else old)
        ∧ gives 6 x ∧ gives 7 (if old = c then x else old))
      ∧ (m.isBad a = true → ∀ op, homeOp m false v (.amo op c) a p = some (m, ⟨old, true⟩)))
  ∧ (∀ (m : Memory) (v c : Word) (a : Nat) (p : Part) (op : Nat) (f : Fmt), (op, f, p.size) ∈ [(8, fp32, 4), (9, fp64, 8)] →
      a % p.size = 0 → p.data < 256 ^ p.size → p.dataBad = false → m.isPending (dwordOf a) = false → m.isBad a = false →
      let old := m.read a p.size
      homeOp m false v (.amo op c) a p = some (m.store a p.size
        (fpAdd f false .rne (f.dec true false old) (f.dec true false p.data)).bits false, ⟨BitVec.ofNat 64 old, false⟩))
  ∧ (∀ (m : Memory) (reg : Bool) (v : Word) (a : Nat) (p : Part), m.wf = true → p.size ∈ [1, 2, 4, 8] → a % p.size = 0 →
      (∀ sg, homeOp m reg v (.load sg) a p = some (m, ⟨BitVec.ofNat 64 (m.read a p.size), m.isBad a⟩))
      ∧ (m.isPending (dwordOf a) = true → homeOp m reg v .store a p = none)
      ∧ (m.isPending (dwordOf a) = false → ∃ (n : Memory) (r : PWord), homeOp m reg v .store a p = some (n, r)
          ∧ n.read a p.size = p.data % 256 ^ p.size
          ∧ (∀ b, b < a ∨ a + p.size ≤ b → n.cells.get b = m.cells.get b)
          ∧ (∀ w, n.feOf w = if reg = true ∧ w = dwordOf a then none else m.feOf w)
          ∧ (∀ w, n.isBad w = if dwordOf w ≠ dwordOf a then m.isBad w
              else if p.dataBad then true else if p.size = 8 then false else m.isBad w)))

/-- R92, R94, R95, R132-R142: what each scalar floating-point instruction writes for clean operands, rounded once in the
instruction's mode, the flags it raises, and the two own turns that a subnormal costs. R97, R141, R142: the conversions between
a width and another format, and between a width and an integer, for a clean operand. -/
def Obligations.ScalarFpResults : Prop :=
  (∀ (w : BitVec 1) (r : BitVec 3) (b a d : BitVec 5) (s : State),
      let f := widthFmt w
      let x := s.fpIn w (s.w a.toNat).val
      let y := s.fpIn w (s.w b.toNat).val
      let z := s.fpIn w (s.w d.toNat).val
      let rm := s.roundMode r
      let slow (k : BitVec 5) : Bool := s.slowNum f (widthBits w (s.w k.toNat).val)
      let put (sl : Bool) (v : Res) : Out1 :=
        .next (((s.setW 4 d.toNat false (BitVec.ofNat 64 v.bits)).raiseFlags v.flags).owe (sl || s.slowNum f v.bits))
      let said (sl : Bool) (p : Prop) [Decidable p] : Out1 :=
        .next (((s.setW 4 d.toNat false (if p then 1 else 0)).raiseFlags 0).owe sl)
      let code (v : Val) : Res := ⟨(f.enc true false .rne v).bits, 0⟩
      let s1 := slow a
      let s2 := slow a || slow b
      let s3 := slow a || (slow b || slow d)
      (s.Reads [a.toNat, b.toNat] [d.toNat] → (s.w a.toNat).bad = false → (s.w b.toNat).bad = false →
        exec (.fadd w r b a d) s = put s2 (fpAdd f s.fz rm x y) ∧ exec (.fsub w r b a d) s = put s2 (fpAdd f s.fz rm x y.neg)
        ∧ exec (.fmul w r b a d) s = put s2 (fpMul f s.fz rm x y)
        ∧ exec (.fmin w b a d) s = put s2 (code (Val.minOf x y)) ∧ exec (.fmax w b a d) s = put s2 (code (Val.maxOf x y))
        ∧ exec (.fsgnj w b a d) s = put s2 (code (x.withSign (signOf w (s.w b.toNat).val)))
        ∧ exec (.fcmpeq w b a d) s = said s2 (x.eq y = true) ∧ exec (.fcmplt w b a d) s = said s2 (x.lt y = true)
        ∧ exec (.fcmple w b a d) s = said s2 (x.lt y = true ∨ x.eq y = true))
      ∧ (s.Reads [a.toNat, b.toNat, d.toNat] [d.toNat] → (s.w a.toNat).bad = false → (s.w b.toNat).bad = false →
          (s.w d.toNat).bad = false →
        exec (.fma w r b a d) s = put s3 (fpFma f s.fz rm x y z) ∧ exec (.fms w r b a d) s = put s3 (fpFma f s.fz rm x y z.neg)
        ∧ exec (.fnma w r b a d) s = put s3 (fpFma f s.fz rm x.neg y z))
      ∧ (s.Reads [a.toNat] [d.toNat] → (s.w a.toNat).bad = false →
        exec (.frsqe w r a d) s = put s1 (fpRsqe f 12 x) ∧ exec (.frcpe w r a d) s = put s1 (fpRcpe f 12 x)
        ∧ exec (.fabs w a d) s = put s1 (code (x.withSign false)) ∧ exec (.fneg w a d) s = put s1 (code x.neg)
        ∧ exec (.fclass w a d) s = .next (((s.setW 4 d.toNat false
            (BitVec.ofNat 64 (fpClass f s.fz (widthBits w (s.w a.toNat).val)))).raiseFlags 0).owe s1)))
  ∧ (∀ (w : BitVec 1) (r m : BitVec 3) (a d : BitVec 5) (s : State), s.Reads [a.toNat] [d.toNat] → (s.w a.toNat).bad = false →
      let u := (s.w a.toNat).val
      let f := widthFmt w
      let g := cvtFmt w m
      let rm := s.roundMode r
      let put (sl : Bool) (v : Res) : Out1 :=
        .next (((s.setW 4 d.toNat false (BitVec.ofNat 64 v.bits)).raiseFlags v.flags).owe sl)
      let conv (src dst : Fmt) : Out1 :=
        let n := u.toNat % 2 ^ (1 + src.eb + src.mb)
        let v := dst.enc s.nsr s.fz rm (src.dec s.nsr s.fz n)
        put (s.slowNum src n || s.slowNum dst v.bits) v
      let int (v : Int) : Out1 :=
        let e := f.enc true s.fz rm (Val.ofInt v)
        put (s.slowNum f e.bits) e
      let range (n : BitVec 3) (lo hi : Int) : Prop :=
        let v := (s.fpIn w u).toInt rm lo hi
        exec (.fcvti w r n a d) s = .next (((s.setW 4 d.toNat false (BitVec.ofInt 64 v.1)).raiseFlags v.2).owe
          (s.slowNum f (widthBits w u)))
      exec (.fcvt w r 0 m a d) s = conv f g ∧ exec (.fcvt w r 1 m a d) s = conv g f
      ∧ range 0 (-(2 ^ 63)) (2 ^ 63 - 1) ∧ range 1 0 (2 ^ 64 - 1) ∧ range 2 (-(2 ^ 31)) (2 ^ 31 - 1) ∧ range 3 0 (2 ^ 32 - 1)
      ∧ exec (.icvtf w r 0 a d) s = int u.toInt ∧ exec (.icvtf w r 1 a d) s = int u.toNat
      ∧ exec (.icvtf w r 2 a d) s = int (u.setWidth 32).toInt ∧ exec (.icvtf w r 3 a d) s = int (u.setWidth 32).toNat)

/-- R88, R91: how a magnitude is rounded to a multiple of 2^q: exact where it is one, nearest-even with ties to even, toward
zero, away from zero on the side of a directed mode, and stochastic by the value u. R88, R92, R134, R135: a sum, a product and a
product with an addend of finite values is the exact one rounded once; an exact zero sum of unlike signs is +0, and -0 in the mode
toward minus infinity; NaN gives the canonical NaN; an infinity stays, and infinities of unlike signs added or an infinity times zero
give the canonical NaN with IV. How a value is written does not change its rounding. -/
def Obligations.RoundingModes : Prop :=
  (∀ (f : Fmt) (fz : Bool) (rm : Rm) (s t u : Bool) (m n k : Nat) (e g h : Int),
      let sgn (b : Bool) (i : Nat) : Int := if b then -(i : Int) else i
      let rounded (v q : Int) : Res := roundFin f true fz rm (decide (v < 0)) v.natAbs q
      let zero (b : Bool) : Res := ⟨f.signBit b, Flags.none⟩
      let down : Bool := decide (rm = .rdn)
      (∀ q : Int, q = min e g → let v : Int := sgn s (m * 2 ^ (e - q).toNat) + sgn t (n * 2 ^ (g - q).toNat)
        (v ≠ 0 → fpAdd f fz rm (.fin s m e) (.fin t n g) = rounded v q)
        ∧ (v = 0 → fpAdd f fz rm (.fin s m e) (.fin t n g) = zero (if m = 0 ∧ n = 0 ∧ s = t then s else down)))
      ∧ fpMul f fz rm (.fin s m e) (.fin t n g) = roundFin f true fz rm (s != t) (m * n) (e + g)
      ∧ (∀ q : Int, q = min (e + g) h →
          let v : Int := sgn (s != t) (m * n * 2 ^ (e + g - q).toNat) + sgn u (k * 2 ^ (h - q).toNat)
        (v ≠ 0 → fpFma f fz rm (.fin s m e) (.fin t n g) (.fin u k h) = rounded v q)
        ∧ (v = 0 → fpFma f fz rm (.fin s m e) (.fin t n g) (.fin u k h) =
            zero (if m * n = 0 ∧ k = 0 ∧ (s != t) = u then u else down)))
      ∧ roundFin f true fz rm s (m * 2 ^ k) (e - k) = roundFin f true fz rm s m e)
  ∧ (∀ (f : Fmt) (fz : Bool) (rm : Rm) (x y : Val) (s t : Bool) (m : Nat) (e : Int), f.always = true →
      let nan : Res := ⟨f.cnan, Flags.none⟩
      let bad : Res := ⟨f.cnan, Flags.iv⟩
      let inf (b : Bool) : Res := ⟨f.signBit b + f.infCode, Flags.none⟩
      fpAdd f fz rm .nan y = nan ∧ fpAdd f fz rm x .nan = nan ∧ fpMul f fz rm .nan y = nan ∧ fpMul f fz rm x .nan = nan
      ∧ fpFma f fz rm .nan x y = nan ∧ fpFma f fz rm x .nan y = nan ∧ (fpFma f fz rm x y .nan).bits = f.cnan
      ∧ fpAdd f fz rm (.inf s) (.inf t) = (if s = t then inf s else bad)
      ∧ fpAdd f fz rm (.inf s) (.fin t m e) = inf s ∧ fpAdd f fz rm (.fin t m e) (.inf s) = inf s
      ∧ fpMul f fz rm (.inf s) (.inf t) = inf (s != t)
      ∧ fpMul f fz rm (.inf s) (.fin t m e) = (if m = 0 then bad else inf (s != t))
      ∧ fpMul f fz rm (.fin t m e) (.inf s) = (if m = 0 then bad else inf (t != s))
      ∧ fpFma f fz rm (.inf s) (.fin t 0 e) y = bad
      ∧ (m ≠ 0 → fpFma f fz rm (.inf s) (.fin t m e) (.inf (s == t)) = bad))
  ∧ ∀ (neg : Bool) (m k : Nat) (e : Int), 0 < k →
    let q : Int := e + k
    let lo := m / 2 ^ k
    let rest := m % 2 ^ k
    (∀ rm, (roundAt rm neg m e q).2 = decide (rest = 0))
    ∧ (∀ rm, rest = 0 → (roundAt rm neg m e q).1 = lo)
    ∧ (∀ rm, lo ≤ (roundAt rm neg m e q).1 ∧ (roundAt rm neg m e q).1 ≤ lo + 1)
    ∧ (let a := (roundAt .rne neg m e q).1
       2 * ((a : Int) * 2 ^ k - m).natAbs ≤ 2 ^ k ∧ (2 * rest = 2 ^ k → a % 2 = 0))
    ∧ (roundAt .rtz neg m e q).1 = lo
    ∧ (0 < rest → (roundAt .rup neg m e q).1 = if neg then lo else lo + 1)
    ∧ (0 < rest → (roundAt .rdn neg m e q).1 = if neg then lo + 1 else lo)
    ∧ (∀ u, 0 < rest → (roundAt (.rsr u) neg m e q).1 = if 2 ^ 32 ≤ rest * 2 ^ 32 / 2 ^ k + u then lo + 1 else lo)

/-- R81, R88: a code of each format whose value is finite, decoded and rounded again in any mode, gives the code back with no
flag; a NaN code gives the canonical NaN, with no flag. -/
def Obligations.FormatRoundTrip : Prop :=
  ∀ f ∈ [fp64, fp32, fp16, bf16, e5m2, e4m3, e3m2, e2m3], ∀ (nsr : Bool) (rm : Rm) (n : Nat), n < 2 ^ (1 + f.eb + f.mb) →
    (f.dec nsr false n = .nan → f.enc nsr false rm (f.dec nsr false n) = ⟨f.cnan, 0⟩)
    ∧ (f.dec nsr false n ≠ .nan → f.enc nsr false rm (f.dec nsr false n) = ⟨n, 0⟩)

/-- R322, R326, R386, R389, R390: the way of an access's event to its home. A walk makes its reads in turn, those of stage 2 in 64
slots each and those of stage 1 from a service slot of its lea in 96 (R390; what a walker keeps from the walk before is not
modelled, log 105), all of them from the table that S1ROOT named as the first began (R383); one that ends well gives the event its
host address and leaves the entry in the translation buffer; a flit leaves its core only in a slot granted to it, from the 16 that
its queue holds, one on a request plane in a slot; an access at a pseudo-channel begins in its lea's service slot, where no access
of the lea came there before it; a remote access arrives when it has crossed and no replay holds its route. R209, R235, R326: an
event is performed at its home where its word lets it: memory and the result are those of the operation, the thread that waited for
it wakes, a write to a named buffer of a running collective leaves it undefined (R220), and the word's other waiters are retried; in
HBM 96 slots after the access began. R25, R65: a read of a word that an earlier instruction of its own thread still owes a result
waits for it. R220: what the engines of its core's groups have delivered is in memory before it (log 50). -/
def Obligations.AccessToHome : Prop :=
  (∀ (s : State) (id i : Nat) (o : Out) (x : Access) (p : Part),
      s.out id = some o → o.work = .access x → x.parts[i]? = some p →
      let stage (t : State) (g : Stage) (dated : Bool) : State :=
        t.modOut id (fun o => o.setPart i (fun p => { p with stage := g, since := if dated then s.now else p.since }))
      (∀ e : Gtb, x.space = 4 → p.stage = .queued → p.pa = none → s.mayGo o x i p = true →
          (s.core o.core).gtbFind o.lea x.die p.addr x.op.needs = none → o.walksBefore i p = false →
          let root := if p.walked = 0 then s.rootOf o.lea x.die else p.root
          let reads := s.walkReads o.lea x.die p.addr root
          let next (t : State) : State :=
            t.modOut id (fun o => o.setPart i (fun p => { p with walked := p.walked + 1, root := root, since := s.now }))
          let here := if p.walked = 0 then s.now else p.since + (if (reads.getD (p.walked - 1) none).isSome then 96 else 64)
          here ≤ s.now →
        (reads[p.walked]? = none → s.translateFrom o.lea x.die p.addr x.op.needs root = .ok e →
          exec (.translationWalkDone id i) s = .next ((s.modCore o.core (fun c => c.gtbUse e)).modOut id
            (fun o => o.setPart i (fun p => { p with pa := some (e.host p.addr) }))))
        ∧ (reads[p.walked]? = some none → exec (.translationWalkDone id i) s = .next (next s))
        ∧ (∀ h, reads[p.walked]? = some (some h) → exec (.translationWalkDone id i) s =
            .next (if s.mayServe o.lea (channelOf h) (here, id, i) then next (s.takeService (channelOf h)) else s)))
      ∧ (s.mayInject o.core o.lea = true → s.planeTaken o.core (Config.requestPlane id) = false → s.flitsBefore o i < 16 →
          p.stage = .queued → (x.space = 3 ∨ x.space = 4 ∨ x.space = 5) → s.mayGo o x i p = true → p.pa ≠ none →
        exec (.flitInject id i) s = .next (stage s .sent true))
      ∧ (s.mayInject o.core o.lea = false ∨ s.planeTaken o.core (Config.requestPlane id) = true ∨ 16 ≤ s.flitsBefore o i →
        exec (.flitInject id i) s = .next s)
      ∧ (∀ a, x.space = 4 → p.stage = .sent → p.pa = some a → s.dieUp (a / hbmBytes) = true →
          s.serviceSlot o.lea (channelOf a) = true → s.serviceTaken (channelOf a) = false →
          (∀ e ∈ s.channelQueue o.lea (channelOf a), cameBefore e (p.since, id, i) = false) →
        exec (.hbmServiceStart id i) s = .next (stage (s.takeService (channelOf a)) (.service s.now) false))
      ∧ (∀ a, i = 0 → x.remote = true → p.stage = .sent → p.pa = some a → s.dieUp x.die = true →
          exec (.remoteAccessArrive id) s = .next (if s.crossed p.since (dieOf o.core) x.die then stage s .arrived true else s)))
  ∧ (∀ (s t : State) (id i a : Nat) (o : Out) (x : Access) (p : Part),
      s.out id = some o → o.work = .access x → x.parts[i]? = some p → p.pa = some a → (s.flushFor o.core o.lea).tryPart id i = some t →
      let done : Out1 := .next (t.touched (dwordOf a))
      (x.space = 3 → p.stage = .sent → p.since < s.now → s.dieUp (dieOf o.core) = true →
        exec (.accessPerformedAtHome id i) s = done)
      ∧ (x.space = 1 → p.stage = .queued → s.dieUp (dieOf o.core) = true → s.isLate o = false → s.mayGo o x i p = true →
        exec (.accessPerformedAtHome id i) s = done)
      ∧ (∀ n, p.stage = .service n → n + 96 ≤ s.now → exec (.hbmServiceDone id i) s = done)
      ∧ ((∀ e ∈ s.cores, e.2.dorent.late = []) → s.flushFor o.core o.lea = s))
  ∧ (∀ (s t : State) (id i a : Nat) (o : Out) (x : Access) (p : Part),
      s.out id = some o → o.work = .access x → x.parts[i]? = some p → p.pa = some a →
      (s.mem.isPending (dwordOf a) = true → (∃ e ∈ s.outs, e.tid = o.tid ∧ e.id < o.id ∧ dwordOf a ∈ e.dst) →
        (x.op = .feq ∨ ∃ sg, x.op = .load sg) → s.tryPart id i = none)
      ∧ (∀ m r, s.tryPart id i = some t → homeOp s.mem (s.isRegWord (dwordOf a)) (s.undef (some o.lea) s.free) x.op a p = some (m, r) →
          let w := m.noteWriter (some o.tid) (dwordOf a)
          let u : State := { (s.modOut id (fun o => o.modPart i (fun p => { p.done r with since := s.now }))).wakeHome o with
            mem := if x.op.writes then w else m, free := s.free + 1 }
          t = (if x.op.writes then u.spoil o.core o.lea a p.size else u)
          ∧ w.cells = m.cells ∧ w.fe = m.fe ∧ w.poison = m.poison))

/-- R26, R209, R219, R247: an access is complete for its thread: a performed load fills its destination and leaves the
outstanding list, a store is acknowledged, and a remote access adds 8 to the semaphore its E names. R233, R234: the word that a
scalar load gives its register: the bytes read, extended by their sign or by zeros. R247, R322, R324: RSEM on the exchange
plane: injected from slot 16 of a tide on, it adds its amount at the target and is answered, and the answer completes it. -/
def Obligations.AccessCompletes : Prop :=
  ((∀ (s : State) (id : Nat) (o : Out) (x : Access),
      s.out id = some o → o.work = .access x → x.allDone = true →
      (x.op.isStore = false → x.remote = false → s.isLate o = false →
        exec (.resultFill id) s = .next (s.fillOut o (x.results o.old) Flags.none))
      ∧ (x.op.isStore = true → x.remote = false → exec (.storeAcknowledge id) s = .next (s.dropOut id))
      ∧ (x.remote = true → s.isLate o = false → (∀ p ∈ x.parts, s.crossed p.since x.die (dieOf o.core) = true) →
        (x.sem = none → exec (.remoteComplete id) s = .next (s.fillOut o (x.results o.old) Flags.none))
        ∧ ∀ k, x.sem = some k →
          exec (.remoteComplete id) s = .next ((s.fillOut o (x.results o.old) Flags.none).addSem o.core o.lea k 8)))
    ∧ (∀ (s : State) (id due : Nat) (o : Out) (vals : List PWord) (fl : Option Flags),
      s.out id = some o → o.work = .compute vals fl due → s.isLate o = false →
      (due ≤ s.cycle o.core → exec (.resultFill id) s = .next (s.fillOut o vals (fl.getD Flags.none)))
      ∧ (s.cycle o.core < due → exec (.resultFill id) s = .next s)))
  ∧ (∀ (x : Access) (p : Part) (old : PWord), x.parts = [p] → p.size ∈ [1, 2, 4, 8] → p.res < 256 ^ p.size →
      (x.op = .load false → ∃ w : Word, x.results [old] = [⟨w, p.bad⟩] ∧ w.toNat = p.res)
      ∧ (x.op = .load true → ∃ w : Word, x.results [old] = [⟨w, p.bad⟩]
          ∧ w.toInt = if 2 * p.res < 256 ^ p.size then (p.res : Int) else (p.res : Int) - 256 ^ p.size))
  ∧ (∀ (s : State) (id : Nat) (m : Mail), s.mailOf id = some m →
      (m.sent = none → s.exchangeOpen m.lea m.src m.dst = true → s.inExchangeQueue m = true →
          (∀ e ∈ s.mail, e.src = m.src → e.lea = m.lea → e.sent ≠ some s.now) →
          s.mailMayGo m = true → exec (.exchangeInject id) s =
        .next { s with mail := s.mail.map (fun e => if e.id = id then { e with sent := some s.now } else e) })
      ∧ (s.tideSlot < 16 → exec (.exchangeInject id) s = .next s)
      ∧ (∀ k n t, m.msg = .rsem k n → m.sent = some t → s.dieUp (dieOf m.dst) = true →
        exec (.rsemArrive id) s = .next (if s.crossed t (dieOf m.src) (dieOf m.dst) then
          (s.addSem m.dst m.lea k n).answer m (.rsemAck id) else s))
      ∧ (∀ o t, s.out id = some o → o.work = .rsem → m.msg = .rsemAck id → m.sent = some t →
          s.crossed t (dieOf m.src) (dieOf m.dst) = true →
        exec (.remoteComplete id) s = .next ((s.dropMail id).dropOut id)))

/-- R254, R256, R326: a bank agent performs the command at the head of its queue access by access, at a pseudo-channel one in
each service slot of its lea that no access waits for; with the last one every element left is performed, the queue advances, and the
semaphore that it names, if any, gains 1; NAMO's result waits to fill its destination. R217, R312: the count may show the addition
before (log 50: a free bit says when), once for each command. R103, R254, R255: what NADD, NMAX, NRED, NAXPY and NFILL leave
in an element where what they read is clean, in the formats FP32, BF16, FP16, FP64, INT32 and INT64, and that NAMO is the atomic of
R241. R326, R437: the first fill of a lea begins in a service slot of its lea, and 96 slots later caches the 64
bytes of its line, for its lea, as the thread that asked for it sees memory; the next one then has its turn. R69: what a thread sees of a
line is what memory held after the writes that it has fenced (log 10, the model's inference). -/
def Obligations.BankCommandsAndFills : Prop :=
  (∀ (s : State) (q id : Nat) (rest : List Nat) (o : Out) (c : BankCmd),
      keyGet [] s.banks q = id :: rest → s.out id = some o → o.work = .bank c → s.dieUp (dieOf o.core) = true →
      let ch := c.bank - 4096
      let pa := (c.parts.filterMap (fun p => p.pa)).headD 0
      let rows := (c.parts.filterMap (fun p => p.pa)).tail
      let b : State := if c.sem.isSome then { s with free := s.free + 1 } else s
      let u := if 4096 ≤ c.bank then b.takeService ch else b
      let s1 := u.bankServe o c
      let s2 := { s1 with banks := keySet s1.banks q rest }
      let open_ : Prop := c.bank < 4096 ∨ (s.serviceSlot o.lea ch = true ∧ s.serviceTaken ch = false ∧ s.channelQueue o.lea ch = [])
      let shows : Prop := c.early = false ∧ (s.core o.core).lea = some o.lea ∧ (Config.freeWord s.free).getLsbD 0 = true
      let turn : Prop := open_ ∧ (c.sem = none ∨ ¬ shows)
      (¬ open_ → exec (.bankCommandExecute q) s = .next s)
      ∧ (∀ k, open_ → c.sem = some k → shows → exec (.bankCommandExecute q) s =
          .next (({ s with free := s.free + 1 }.addEarly o.core k id).modOut id (fun o => { o with work := .bank { c with early := true } })))
      ∧ (turn → 1 < c.units → exec (.bankCommandExecute q) s = .next s1)
      ∧ (turn → c.units ≤ 1 →
        (c.fn ≠ 5 → c.sem = none → exec (.bankCommandExecute q) s = .next (s2.dropOut id))
        ∧ (∀ k, c.fn ≠ 5 → c.sem = some k → exec (.bankCommandExecute q) s = .next (if c.early then
            (s2.dropOut id).modCore o.core (fun x => x.endEarly o.lea k id) else (s2.dropOut id).addSem o.core o.lea k 1))
        ∧ (c.fn = 5 → exec (.bankCommandExecute q) s = .next (((s2.namoRun o.lea c pa).1.spoil o.core o.lea pa c.size).modOut id
            (fun o => { o with work := .compute [(s2.namoRun o.lea c pa).2] none (s.cycle o.core) })))
        ∧ (c.fn ≠ 5 → s.groupCores o.lea (s.core o.core).dorent.gid = [] → (∀ e ∈ s.cores, e.2.dorent.late = []) →
            s1.mem = ({ u with free := u.free + c.left.length }.bankRun o.lea c pa rows c.left).mem)))
  ∧ (∀ (s : State) (lea : Nat) (c : BankCmd) (pa i : Nat) (rows : List Nat), s.mem.isBad (pa + bankElem c.fmt * i) = false →
      c.srcBad.contains (bankElem c.fmt * i / 8) = false → (∀ r ∈ rows, s.mem.isBad (r + bankElem c.fmt * i) = false) →
      c.val.bad = false → c.fmt < 6 →
      let n := bankElem c.fmt
      let f := [fp32, bf16, fp16, fp64].getD c.fmt fp64
      let dec (b : Nat) : Val := f.dec true false b
      let m := s.mem.read (pa + n * i) n
      let x := vBytes c.src (n * i) n
      let ys := rows.map (fun r => s.mem.read (r + n * i) n)
      let leaves (v : Nat) : Prop := (s.bankRun lea c pa rows [i]).mem = s.mem.store (pa + n * i) n v false
      let wide (b : Nat) : Nat := if f = fp32 ∨ f = fp64 then b else (fp32.enc true false .rne (dec b)).bits
      let g := if f = fp64 then fp64 else fp32
      let acc : Nat := ys.foldl (fun a y => (fpAdd g false .rne (g.dec true false a) (g.dec true false (wide y))).bits) (wide m)
      (rows = [] → 4 ≤ c.fmt → (c.fn = 0 → leaves ((m + x) % 256 ^ n))
        ∧ (c.fn = 1 → leaves (if (BitVec.ofNat (8 * n) m).toInt < (BitVec.ofNat (8 * n) x).toInt then x else m)))
      ∧ (rows = [] → c.fmt < 4 → (c.fn = 0 → leaves (fpAdd f false .rne (dec m) (dec x)).bits)
        ∧ (c.fn = 1 → leaves (f.enc true false .rne ((dec m).maxOf (dec x))).bits)
        ∧ (c.fn = 3 → leaves (fpFma f false .rne (fp32.dec true false c.alpha.toNat) (dec x) (dec m)).bits))
      ∧ (c.fn = 2 → 4 ≤ c.fmt → leaves ((m + ys.sum) % 256 ^ n))
      ∧ (c.fn = 2 → (c.fmt = 0 ∨ c.fmt = 3) → leaves acc)
      ∧ (c.fn = 2 → (c.fmt = 1 ∨ c.fmt = 2) → leaves (f.enc true false .rne (fp32.dec true false acc)).bits)
      ∧ (rows = [] → c.fn = 4 → leaves (c.val.val.toNat % 256 ^ n))
      ∧ (∀ (p : Part) (mem : Memory) (r : PWord), p.size = c.size → p.data = c.val.val.toNat → p.dataBad = false →
          homeOp s.mem false (s.undef (some lea) s.free) (.amo c.op 0) pa p = some (mem, r) →
          (s.namoRun lea c pa).1.mem = mem ∧ (s.namoRun lea c pa).2 = r))
  ∧ (∀ (s : State) (core : Nat) (f : Fill) (rest : List Fill), (s.core core).fills = f :: rest → (∀ g ∈ rest, g.lea = f.lea) → f ∉ rest →
      s.dieUp (dieOf core) = true →
      (∀ e : Gtb, f.began = none → s.lookUp core f.lea (dieOf core) (64 * f.line) [.x] = .ok e →
        let a := e.host (64 * f.line)
        exec (.icacheFill core) s = .next (if s.mayServe f.lea (channelOf a) (f.since, s.nextId + core, 0) then
          (s.takeService (channelOf a)).modCore core (fun c =>
            { c.gtbUse e with fills := { f with began := some (s.now, a) } :: rest }) else s))
      ∧ (∀ b a, f.began = some (b, a) →
        (s.now < b + 96 → exec (.icacheFill core) s = .next s)
        ∧ (b + 96 ≤ s.now → ∃ t, exec (.icacheFill core) s = .next t
          ∧ (t.core core).fills = (match rest with
            | [] => []
            | g :: u => { g with since := s.now } :: u)
          ∧ t.codeLine core f.lea f.view f.line = some (s.readLine f.lea f.line a f.view)
          ∧ (∀ lea view n, (lea ≠ f.lea ∨ n ≠ f.line) → t.codeLine core lea view n = s.codeLine core lea view n)
          ∧ t.mem = s.mem)))
  ∧ (∀ (m : Memory) (a b n v : Nat) (bad : Bool), m.wf = true → a < 2 ^ 44 → 0 < n → a % 8 + n ≤ 8 →
      m.wordAt m.log.length b = m.word (dwordOf b)
      ∧ (m.store a n v bad).wordAt m.log.length b = m.word (dwordOf b))

/-- R217, R269, R270: SEMADD, SEMSET and SEMWAIT act on a value below 2^48, else trap with 0x06; SEMADD and SEMSET wait for the
thread's accesses; SEMRD reads the count and the wrap flag; SEMWAIT parks until its threshold is met. R270: a setting comes before
the additions of its cycle, neither changes another semaphore, and after a cycle with changes exactly the parked threads of the
pool's lea whose threshold the count then meets are woken. R217, R254: the addition of a bank command that SEMRD sees early
satisfies no SEMWAIT before its last element (log 50). R69, R213, R216, R243: a fence issues once what its kind orders is done, and
forfeits otherwise; FENCE.FULL of core scope or wider also discards the instruction cache, and its thread sees every write then
made; FENCEB.BANK waits for the queues, a wider scope for execution. -/
def Obligations.SemaphoresAndFences : Prop :=
  (∀ (k : BitVec 6) (a : BitVec 5) (s : State), s.myCore.lea = s.me.lea →
      let n := (s.w a.toNat).val.toNat
      let x := s.myCore.sem k.toNat
      (s.Reads [a.toNat] [] → (s.w a.toNat).bad = false → n < 2 ^ 48 →
        (s.accessesDone false = true →
          exec (.semadd k a) s = .next ((s.modMyCore (fun c => c.addNow k.toNat n)).issue 4)
          ∧ exec (.semset k a) s = .next ((s.modMyCore (fun c => c.setNow k.toNat n)).issue 4))
        ∧ (s.accessesDone false = false → exec (.semadd k a) s = .next s.forfeit ∧ exec (.semset k a) s = .next s.forfeit)
        ∧ exec (.semwait k a) s = .next (if n ≤ x.settled then s.issue 4 else (s.issue 4).park (.sem k.toNat n)))
      ∧ (s.Reads [a.toNat] [] → (s.w a.toNat).bad = false → 2 ^ 48 ≤ n → s.accessesDone false = true →
          let trap : Out1 := .next (s.raise 4 0x06 (s.w a.toNat).val)
          exec (.semadd k a) s = trap ∧ exec (.semset k a) s = trap ∧ exec (.semwait k a) s = trap)
      ∧ (s.Reads [] [a.toNat] →
          exec (.semrd k a) s = .next (s.setW 4 a.toNat false (BitVec.ofNat 64 (x.count.toNat + (if x.wrap then 2 ^ 63 else 0))))))
  ∧ (∀ (c : Core) (k n : Nat),
      let total := (c.sem k).count.toNat + n
      (c.addNow k n).sem k = ⟨BitVec.ofNat 48 total, (c.sem k).wrap || decide (2 ^ 48 ≤ total), (c.sem k).early⟩
      ∧ ((∀ e ∈ c.semAdds, e.1 ≠ k) → (c.setNow k n).sem k = ⟨BitVec.ofNat 48 n, false, []⟩)
      ∧ ((c.setNow k n).addNow k 1).sem k = ((c.addNow k 1).setNow k n).sem k
      ∧ (∀ i, i ≠ k → (c.addNow k n).sem i = c.sem i ∧ (c.setNow k n).sem i = c.sem i)
      ∧ (c.addNow k n).slots = c.slots ∧ (c.setNow k n).slots = c.slots)
  ∧ (∀ (x : Sem) (id : Nat),
      (x.early = [] → x.settled = x.count.toNat)
      ∧ (x.addEarly id).count = x.count + 1 ∧ (x.addEarly id).settled = x.settled
      ∧ (id ∉ x.early → ((x.addEarly id).endEarly id).settled = (x.add 1).settled))
  ∧ (∀ (c : Core) (j k : Nat) (x : Slot), j < c.slots.length → c.slot j = x → (c.semSets ≠ [] ∨ c.semAdds ≠ []) →
      (∀ t, x.lea = c.lea → x.run = .parked → x.wait = .sem k t → t ≤ (c.sem k).settled →
        c.semCycle.slot j = { x with run := x.hold.run, wait := .none, woken := true, fresh := true })
      ∧ (∀ t, x.wait = .sem k t → (x.lea ≠ c.lea ∨ (c.sem k).settled < t) → c.semCycle.slot j = x)
      ∧ ((∀ i t, x.wait ≠ .sem i t) → c.semCycle.slot j = x))
  ∧ (∀ (c : BitVec 3) (s : State),
      let remote : Bool := decide (3 ≤ c.toNat)
      let waits (k : BitVec 2) : Bool := (k.getLsbD 1 && !s.accessesDone remote) || (k.getLsbD 0 && !s.readsDone remote)
      (∀ k, waits k = true → exec (.fence k c) s = .next s.forfeit)
      ∧ (∀ k, waits k = false → (k ≠ 3 ∨ c = 0) → exec (.fence k c) s = .next (s.issue 4))
      ∧ (waits 3 = false → c ≠ 0 →
          exec (.fence 3 c) s =
            .next (((s.modMyCore (fun x => { x with icache := [] })).modMe (fun x => { x with view := s.mem.log.length })).issue 4))
      ∧ (exec (.fenceb c) s = .next (if s.myOuts.any (fun o => o.holdsFenceb (c == 5)) then s.forfeit else s.issue 4)))

/-- R245, R246: GET, PUT and RAMO issue one remote event of the die their segment names, at BASE plus W(a); a die that is
absent, disabled or in reset traps with 0x2A. R247: RSEM names a core of the lea, else traps with 0x40, and an amount below
2^48, else 0x06; it then sends one message and is outstanding until acknowledged. R250-R255: a bank command issues after its
checks with what it read at issue: the vector or W(b), the control word and the destination row at BASE plus W(a), which its
element count makes a power of two and which must be aligned to it. -/
def Obligations.RemoteAndBankIssue : Prop :=
  (∀ (l k : BitVec 4) (e : BitVec 1) (g : BitVec 3) (a d : BitVec 5) (s : State),
      let sg := s.seg g.toNat
      let off := (s.w a.toNat).val.toNat
      let at_ := sg.base.toNat + off
      let ok (n : Nat) (r : List Right) (src dst : List Nat) : Prop :=
        s.Reads (a.toNat :: src) dst ∧ s.count .remote < 16 ∧ s.PathOpen sg.space ∧ (s.w a.toNat).bad = false
        ∧ segFail sg (s.extent sg.space) off n r [5] = none ∧ at_ % n = 0
      let go (n : Nat) (op : MemOp) (dst : List Nat) (sem : Option Nat) (v : PWord) : Out1 :=
        let x := s.newAccess g.toNat off op [s.newPart sg at_ off n v 0] none
        .next (s.startAccess 4 true l.toNat (dst.map s.wAddr) { x with remote := true, sem := sem })
      let sem : Option Nat := if e = 1 then some k.toNat else none
      (ok 8 [.r] [] [d.toNat] →
        (s.dieUsable sg.die = true → exec (.get l e k g a d) s = go 8 (.load false) [d.toNat] sem ⟨0, false⟩)
        ∧ (s.dieUsable sg.die = false → exec (.get l e k g a d) s = .next (s.raise 4 0x2A (BitVec.ofNat 64 sg.die))))
      ∧ (ok 8 [.w] [d.toNat] [] → s.dieUsable sg.die = true →
          exec (.put l e k g a d) s = go 8 .store [] sem (s.w d.toNat))
      ∧ (ok (if k = 8 then 4 else 8) [.r, .w] [d.toNat] [d.toNat] → s.dieUsable sg.die = true →
          exec (.ramo l k g a d) s = go (if k = 8 then 4 else 8) (.amo k.toNat 0) [d.toNat] none (s.w d.toNat)))
  ∧ (∀ (l : BitVec 4) (k : BitVec 6) (a d : BitVec 5) (s : State),
      let c := (s.w a.toNat).val
      let n := (s.w d.toNat).val
      s.Reads [a.toNat, d.toNat] [] → s.count .remote < 16 → s.exchangeFlits s.cur.1 s.me.lea < 16 →
      (s.w a.toNat).bad = false → (s.w d.toNat).bad = false →
      (c.toNat < s.leal → n.toNat < 2 ^ 48 →
        exec (.rsem l k a d) s = .next (((s.addOut (s.newOut 4 true l.toNat [] .rsem)).post
          (s.newMail s.nextId (s.physOf c.toNat) 0 (.rsem k.toNat n.toNat))).issue 4))
      ∧ (s.leal ≤ c.toNat → exec (.rsem l k a d) s = .next (s.raise 4 0x40 c))
      ∧ (c.toNat < s.leal → 2 ^ 48 ≤ n.toNat → exec (.rsem l k a d) s = .next (s.raise 4 0x06 n)))
  ∧ (∀ (l v : BitVec 4) (g : BitVec 3) (b a d : BitVec 5) (s : State),
      let sg := s.seg g.toNat
      let w := (s.w d.toNat).val
      let off := (s.w a.toNat).val.toNat
      let at_ := sg.base.toNat + off
      let va := s.vAddrs v.toNat
      let ready (src dst : List Nat) (n : Nat) : Prop :=
        s.Operands (s.wAddr a.toNat :: src) dst ∧ s.PathOpen sg.space ∧ s.count .bank < 32
        ∧ (s.w a.toNat).bad = false ∧ (s.w d.toNat).bad = false
        ∧ segFail sg (s.extent sg.space) off n [.b] [3, 4] = none ∧ at_ % n = 0
      let sends (win : Bool) (look : Nat) (dst : List Nat) (c : BankCmd) : Out1 :=
        .next (((s.addOut (s.newOut 4 win look dst (.bank c))).markPending dst).issue 4)
      let vec (fn : Nat) : BankCmd := s.newCmd fn g.toNat at_ off (rowBytes w) w [] (s.v v.toNat) (s.badList va) ⟨0, false⟩
      (ready (va ++ [s.wAddr d.toNat]) [] (rowBytes w) →
        (ctlBad 0 w = false → exec (.nadd v g a d) s = sends false 0 [] (vec 0))
        ∧ (ctlBad 1 w = false → exec (.nmax v g a d) s = sends false 0 [] (vec 1))
        ∧ (ctlBad 3 w = false → exec (.naxpy v g a d) s = sends false 0 [] (vec 3))
        ∧ (ctlBad 2 w = false → (∀ x ∈ va, s.mem.isBad x = false) → vBytes (s.v v.toNat) 0 8 % 512 = 0 →
            (w.extractLsb' 8 3 = 0) →
            let o := rowOffset sg.space (vBytes (s.v v.toNat) 0 8) (rowBytes w) (vBytes (s.v v.toNat) 8 4)
            segFail sg (s.extent sg.space) o (rowBytes w) [.r] [3, 4] = none →
            s.myBank sg.space (sg.base.toNat + o) = s.myBank sg.space at_ →
            exec (.nred v g a d) s = sends false 0 [] (s.newCmd 2 g.toNat at_ off (rowBytes w) w
              [s.newPart sg (sg.base.toNat + o) o (rowBytes w) ⟨0, false⟩ 0] (s.v v.toNat) [] ⟨0, false⟩)))
      ∧ (ready [s.wAddr b.toNat, s.wAddr d.toNat] [] (rowBytes w) → ctlBad 4 w = false →
          exec (.nfill b g a d) s = sends false 0 [] (s.newCmd 4 g.toNat at_ off (rowBytes w) w [] 0 [] (s.w b.toNat)))
      ∧ (let n := if w.extractLsb' 0 4 = 8 then 4 else 8
         ready [s.wAddr b.toNat, s.wAddr d.toNat] [s.wAddr d.toNat] n → namoBad w = false →
          exec (.namo l b g a d) s =
            sends true l.toNat [s.wAddr d.toNat] (s.newCmd 5 g.toNat at_ off n w [] 0 [] (s.w b.toNat))))

/-- R150, R154, R156-R158, R163, R164: what the element-wise vector instructions give active elements, inactive ones keeping the
old value of vd; sources and mask clean. The results wait in the slot's queue with their flags and latency. -/
def Obligations.VectorElementResults : Prop :=
  ∀ (t : BitVec 1) (l : BitVec 4) (m : BitVec 3) (b a d : BitVec 4) (s : State),
    let va := s.vAddrs a.toNat
    let vb := s.vAddrs b.toNat
    let vd := s.vAddrs d.toNat
    let mk := if m = 0 then [] else s.mAddrs m.toNat
    let els (w : Nat) (f : Nat → Nat × Flags) : List El := (List.range (2048 / w)).map (fun i =>
      if s.active m i then ⟨(f i).1, (f i).2, false⟩ else ⟨s.elemIn vd w i, 0, false⟩)
    let goes (lat w : Nat) (f : Nat → Nat × Flags) : Out1 :=
      { s with free := s.free + 2 }.queued vd l lat (wordsOf 32 w (els w f)) (flagsOf (els w f))
    let iw := if t = 0 then 32 else 64
    let x (i : Nat) : BitVec iw := BitVec.ofNat iw (s.elemIn va iw i)
    let y (i : Nat) : BitVec iw := BitVec.ofNat iw (s.elemIn vb iw i)
    let int (lat : Nat) (f : BitVec iw → BitVec iw → BitVec iw) : Out1 := goes lat iw (fun i => ((f (x i) (y i)).toNat, 0))
    let f := if t = 0 then fp32 else bf16
    let fw := if t = 0 then 32 else 16
    let u (i : Nat) : Val := f.dec true s.fz (s.elemIn va fw i)
    let v (i : Nat) : Val := f.dec true s.fz (s.elemIn vb fw i)
    let z (i : Nat) : Val := f.dec true s.fz (s.elemIn vd fw i)
    let fp (lat : Nat) (r : Nat → Res) : Out1 := goes lat fw (fun i => ((r i).bits, (r i).flags))
    let code (x : Val) : Res := ⟨(f.enc true false .rne x).bits, 0⟩
    let p := if t = 0 then 12 else 7
    (s.MayQueue (va ++ vb ++ mk ++ (if m = 0 then [] else vd)) vd → s.Clean vd →
      exec (.viadd t l m b a d) s = int 4 (fun x y => x + y) ∧ exec (.visub t l m b a d) s = int 4 (fun x y => x - y)
      ∧ exec (.vimul t l m b a d) s = int 6 (fun x y => x * y)
      ∧ exec (.vimin t l m b a d) s = int 4 (fun x y => if y.toInt < x.toInt then y else x)
      ∧ exec (.vimax t l m b a d) s = int 4 (fun x y => if x.toInt < y.toInt then y else x)
      ∧ exec (.vand t l m b a d) s = int 4 (fun x y => x &&& y) ∧ exec (.vor t l m b a d) s = int 4 (fun x y => x ||| y)
      ∧ exec (.vxor t l m b a d) s = int 4 (fun x y => x ^^^ y)
      ∧ exec (.vshl t l m b a d) s = int 4 (fun x y => x <<< (y.toNat % iw))
      ∧ exec (.vshr t l m b a d) s = int 4 (fun x y => x >>> (y.toNat % iw))
      ∧ exec (.vsra t l m b a d) s = int 4 (fun x y => x.sshiftRight (y.toNat % iw))
      ∧ exec (.vadd t l m b a d) s = fp 6 (fun i => fpAdd f s.fz s.rm (u i) (v i))
      ∧ exec (.vsub t l m b a d) s = fp 6 (fun i => fpAdd f s.fz s.rm (u i) (v i).neg)
      ∧ exec (.vmul t l m b a d) s = fp 6 (fun i => fpMul f s.fz s.rm (u i) (v i))
      ∧ exec (.vmin t l m b a d) s = fp 6 (fun i => code ((u i).minOf (v i)))
      ∧ exec (.vmax t l m b a d) s = fp 6 (fun i => code ((u i).maxOf (v i))))
    ∧ (s.MayQueue (va ++ vb ++ mk ++ vd) vd →
      exec (.vfma t l m b a d) s = fp 6 (fun i => fpFma f s.fz s.rm (u i) (v i) (z i))
      ∧ exec (.vfms t l m b a d) s = fp 6 (fun i => fpFma f s.fz s.rm (u i) (v i) (z i).neg))
    ∧ (s.MayQueue (va ++ mk ++ (if m = 0 then [] else vd)) vd → s.Clean vd →
      exec (.vabs t l m a d) s = fp 6 (fun i => code ((u i).withSign false))
      ∧ exec (.vneg t l m a d) s = fp 6 (fun i => code (u i).neg)
      ∧ exec (.vrsqe t l m a d) s = fp 8 (fun i => fpRsqe f p (u i))
      ∧ exec (.vrcpe t l m a d) s = fp 8 (fun i => fpRcpe f p (u i))
      ∧ exec (.vexp2e t l m a d) s = fp 8 (fun i => fpExp2e f p (u i))
      ∧ exec (.vlog2e t l m a d) s = fp 8 (fun i => fpLog2e f p (u i)))

/-- R157, R162, R163, R166, R168, R170-R172: compares, conversions, dequantisation and moves between elements, for clean sources and
masks. A stochastic conversion takes 64 steps of SRGEN at issue, of which element i uses the value of step i + 1 (R90). A mask
governs every VCVT, also one between FP32 and 8-bit elements, which is the model's choice (log 101). -/
def Obligations.VectorMoveResults : Prop :=
  ∀ (t h : BitVec 1) (c : BitVec 2) (k : BitVec 5) (l : BitVec 4) (m n : BitVec 3) (b a d : BitVec 4) (s : State),
    let va := s.vAddrs a.toNat
    let vb := s.vAddrs b.toNat
    let vd := s.vAddrs d.toNat
    let mk := if m = 0 then [] else s.mAddrs m.toNat
    let s1 : State := { s with free := s.free + 2 }
    let els (w : Nat) (f : Nat → Nat × Flags) : List El := (List.range (2048 / w)).map (fun i =>
      if s.active m i then ⟨(f i).1, (f i).2, false⟩ else ⟨s.elemIn vd w i, 0, false⟩)
    let goes (lat w : Nat) (f : Nat → Nat × Flags) : Out1 :=
      s1.queued vd l lat (wordsOf 32 w (els w f)) (flagsOf (els w f))
    let cw := cmpWidth c
    let bits (f : Nat → Bool) : List PWord :=
      wordsOf 2 1 ((List.range (2048 / cw)).map (fun i => ⟨if s.active m i && f i then 1 else 0, 0, false⟩))
    let cmp (i : Nat) : Bool × Bool := cmpEl c ⟨s.rm, s.fz, s.nsr⟩ (s.elemIn va cw i) (s.elemIn vb cw i)
    let f := if t = 0 then fp32 else bf16
    let fw := if t = 0 then 32 else 16
    let zw := if t = 0 then 32 else 16
    let sw := scBits c
    (s.MayQueue (va ++ vb ++ mk) (s.mAddrs n.toNat) →
      exec (.vcmpeq c l m b a n) s = s1.queued (s.mAddrs n.toNat) l 6 (bits (fun i => (cmp i).2)) 0
      ∧ exec (.vcmplt c l m b a n) s = s1.queued (s.mAddrs n.toNat) l 6 (bits (fun i => (cmp i).1)) 0
      ∧ exec (.vcmple c l m b a n) s = s1.queued (s.mAddrs n.toNat) l 6 (bits (fun i => (cmp i).1 || (cmp i).2)) 0)
    ∧ (s.MayQueue (va ++ mk ++ (if m = 0 then [] else vd)) vd → s.Clean vd →
      exec (.vmov l m c a d) s = goes 4 sw (fun i => (s.elemIn va sw i, 0))
      ∧ exec (.vdeq t l m h a d) s = goes 6 fw (fun i =>
          let j := if h = 1 then i + 64 else i
          let e := s.elemIn va 8 (128 + j / 32)
          ((f.enc true false .rne (blockDec s.nsr (e / 64) (e % 64) (s.elemIn va 4 j))).bits, 0))
      ∧ (k < 6 →
          let g := cvtFmt 0 (k.setWidth 3)
          let es : List El := (List.range 64).map (fun i =>
            let r := g.enc s.nsr s.fz s.rm (fp32.dec true s.fz (s.elemIn va 32 i))
            if s.active m i then ⟨r.bits, r.flags, false⟩ else ⟨s.elemIn vd g.bits i, 0, false⟩)
          exec (.vcvt k l m a d) s = s1.queued vd l 6 (wordsOf 32 g.bits es) (flagsOf es))
      ∧ (8 ≤ k → k < 14 →
          let g := cvtFmt 0 (k.setWidth 3)
          exec (.vcvt k l m a d) s = goes 6 32 (fun i =>
            let r := fp32.enc true s.fz s.rm (g.dec s.nsr s.fz (s.elemIn va g.bits i))
            (r.bits, r.flags)))
      ∧ (let u (i : Nat) : Rm := .rsr (srStep (srSteps i s.desc.srgen)).2
         let s2 : State := s1.modDesc (fun e => { e with srgen := srSteps 64 e.srgen })
         let narrow (w : Nat) (r : Nat → Nat × Flags) : List El := (List.range 64).map (fun i =>
           if s.active m i then ⟨(r i).1, (r i).2, false⟩ else ⟨s.elemIn vd w i, 0, false⟩)
         let toFmt (g : Fmt) (q : Nat → Rm) : List El := narrow g.bits (fun i =>
           let r := g.enc s.nsr s.fz (q i) (fp32.dec true s.fz (s.elemIn va 32 i))
           (r.bits, r.flags))
         let toInt (w : Nat) (q : Nat → Rm) : List El := narrow w (fun i =>
           let r := (fp32.dec true s.fz (s.elemIn va 32 i)).toInt (q i) (-(2 ^ (w - 1))) (2 ^ (w - 1) - 1)
           ((BitVec.ofInt w r.1).toNat, r.2))
         let put (s1 : State) (w : Nat) (es : List El) : Out1 := s1.queued vd l 6 (wordsOf 32 w es) (flagsOf es)
         (16 ≤ k → k < 22 → exec (.vcvt k l m a d) s =
           put s2 (cvtFmt 0 (k.setWidth 3)).bits (toFmt (cvtFmt 0 (k.setWidth 3)) u))
         ∧ ∀ w ∈ [(8 : Nat), 16, 32],
           let code (x y z : BitVec 5) : BitVec 5 := if w = 32 then x else if w = 8 then y else z
           (k = code 6 7 0x18 → exec (.vcvt k l m a d) s = put s1 w (toInt w (fun _ => s.rm)))
           ∧ (k = code 22 23 0x1A → exec (.vcvt k l m a d) s = put s2 w (toInt w u))
           ∧ (k = code 14 15 0x19 → exec (.vcvt k l m a d) s = goes 6 32 (fun i =>
             let r := fp32.enc true s.fz s.rm (Val.ofInt (BitVec.ofNat w (s.elemIn va w i)).toInt)
             (r.bits, r.flags)))))
    ∧ (s.MayQueue (va ++ vb ++ mk ++ (if m = 0 then [] else vd)) vd → s.Clean vd →
      exec (.vperm t l m b a d) s = goes 4 zw (fun i =>
        let j := s.elemIn vb zw i
        (if j < 2048 / zw then s.elemIn va zw j else 0, 0)))
    ∧ (s.MayQueue (va ++ vb ++ s.mAddrs m.toNat) vd →
      exec (.vsel t l m b a d) s = s1.queued vd l 4 (wordsOf 32 zw ((List.range (2048 / zw)).map (fun i =>
        ⟨if s.active m i then s.elemIn va zw i else s.elemIn vb zw i, 0, false⟩))) 0)
    ∧ (s.MayQueue ([s.wAddr k.toNat] ++ mk ++ (if m = 0 then [] else vd)) vd → s.Clean vd →
      exec (.vbcast k l m c d) s = goes 4 sw (fun _ => ((s.w k.toNat).val.toNat % 2 ^ sw, 0)))
    ∧ (s.MayQueue ([s.wAddr k.toNat] ++ vb) vd →
      exec (.vslide k l b d) s = s.queued vd l 4 (wordsOf 32 8 ((List.range 256).map (fun j =>
        let i : Int := (j : Int) + (s.w k.toNat).val.toInt
        ⟨if 0 ≤ i ∧ i < 256 then s.elemIn vb 8 i.toNat else 0, 0, false⟩))) 0)

/-- R164, R165, R167, R169, R173: mask logic, single elements, the reduction trees of the three types and quantisation, for clean
sources; a stochastic quantisation takes one step of SRGEN for each element at issue (R90). -/
def Obligations.VectorMaskAndReductionResults : Prop :=
  ∀ (k : BitVec 5) (l : BitVec 4) (e : BitVec 7) (m p q : BitVec 3) (b a d z : BitVec 4) (c : BitVec 2) (t r : BitVec 1) (s : State),
    let vb := s.vAddrs b.toNat
    let mask (j : BitVec 3) : Nat := s.wide (s.mAddrs j.toNat)
    let put (v : Nat) : Out1 :=
      s.queued (s.mAddrs m.toNat) l 4 [⟨BitVec.ofNat 64 v, false⟩, ⟨BitVec.ofNat 64 (v / 2 ^ 64), false⟩] 0
    let word (i : Nat) : Nat := (s.vAddrs b.toNat).getD i 0
    let lo : BitVec 7 := e % 64
    (s.MayQueue (s.mAddrs p.toNat ++ s.mAddrs q.toNat) (s.mAddrs m.toNat) →
      exec (.mand l q p m) s = put (mask p &&& mask q) ∧ exec (.mor l q p m) s = put (mask p ||| mask q))
    ∧ (s.MayQueue (s.mAddrs p.toNat) (s.mAddrs m.toNat) → exec (.mnot l p m) s = put (2 ^ 128 - 1 - mask p))
    ∧ (s.MayQueue (s.mAddrs p.toNat) [s.wAddr k.toNat] →
        exec (.mpop k l p) s = s.queued [s.wAddr k.toNat] l 4
          [⟨BitVec.ofNat 64 ((List.range 128).filter (fun i => (mask p).testBit i)).length, false⟩] 0)
    ∧ (e < 64 → s.MayQueue [word (e.toNat / 2)] [s.wAddr k.toNat] →
        exec (.vextr k l e b) s = s.queued [s.wAddr k.toNat] l 4 [⟨BitVec.ofNat 64 (s.elemIn vb 32 e.toNat), false⟩] 0)
    ∧ (64 ≤ e → e < 96 → s.MayQueue [word lo.toNat] [s.wAddr k.toNat] →
        exec (.vextr k l e b) s = s.queued [s.wAddr k.toNat] l 4 [⟨BitVec.ofNat 64 (s.elemIn vb 64 lo.toNat), false⟩] 0)
    ∧ (64 ≤ e → e < 96 → s.MayQueue [s.wAddr k.toNat, word lo.toNat] [word lo.toNat] →
        exec (.vins k l e b) s = s.queued [word lo.toNat] l 4 [s.w k.toNat] 0)
    ∧ (e < 64 → s.MayQueue [s.wAddr k.toNat, word (e.toNat / 2)] [word (e.toNat / 2)] →
        let x := (s.w k.toNat).val
        let y := (s.mem.word (word (e.toNat / 2))).val
        exec (.vins k l e b) s = s.queued [word (e.toNat / 2)] l 4 [⟨if e.toNat % 2 = 0 then y.extractLsb' 32 32 ++ x.extractLsb' 0 32
          else x.extractLsb' 0 32 ++ y.extractLsb' 0 32, false⟩] 0)
    ∧ (z < 3 → s.MayQueue (vb ++ (if m = 0 then [] else s.mAddrs m.toNat)) [s.wAddr k.toNat] →
        let md := s.fz
        let f := if z = 0 then fp32 else if z = 1 then bf16 else fp16
        let n := if z = 0 then 64 else 128
        let red (idle : Nat) (g : Val → Val → Res) : Out1 :=
          let leaf (i : Nat) : El := ⟨if s.active m i then (fp32.enc true false .rne (f.dec true md (s.elemIn vb f.bits i))).bits
            else idle, 0, false⟩
          let node (x y : El) : El :=
            let r := g (fp32.dec true md x.val) (fp32.dec true md y.val)
            ⟨r.bits, r.flags ||| x.flags ||| y.flags, x.bad || y.bad⟩
          let r := treeRoot node (if z = 0 then 6 else 7) ((List.range n).map leaf)
          { s with free := s.free + 2 }.queued [s.wAddr k.toNat] l 12 [⟨BitVec.ofNat 64 r.val, r.bad⟩]
            (if r.bad then 0 else r.flags)
        exec (.vredsum k l m b z) s = red 0x80000000 (fun x y => fpAdd fp32 md s.rm x y)
        ∧ exec (.vredmax k l m b z) s = red 0xFF800000 (fun x y => ⟨(fp32.enc true false .rne (x.maxOf y)).bits, 0⟩)
        ∧ exec (.vredmin k l m b z) s = red 0x7F800000 (fun x y => ⟨(fp32.enc true false .rne (x.minOf y)).bits, 0⟩))
    ∧ (s.MayQueue (s.vAddrs a.toNat ++ (if m = 0 then [] else s.mAddrs m.toNat)) (s.vAddrs d.toNat) →
        let w := if t = 0 then 32 else 16
        let f := if t = 0 then fp32 else bf16
        let rm (i : Nat) : Rm := if r = 1 then .rsr (srStep (srSteps i s.desc.srgen)).2 else s.rm
        let block (j : Nat) : List El × El := quantBlock f ⟨s.rm, s.fz, s.nsr⟩ c.toNat ((List.range 32).map (fun i =>
          (⟨s.elemIn (s.vAddrs a.toNat) w (32 * j + i), 0, false⟩, s.active m (32 * j + i), rm (32 * j + i))))
        let bs := (List.range (2048 / w / 32)).map block
        let s1 : State := { s with free := s.free + 2 }
        let s2 := if r = 1 then s1.modDesc (fun e => { e with srgen := srSteps (2048 / w) e.srgen }) else s1
        exec (.vquant t l m r c a d) s = s2.queued (s.vAddrs d.toNat) l 10
          (wordsOf 16 4 (bs.flatMap Prod.fst) ++ wordsOf 16 8 (bs.map Prod.snd)) (flagsOf (bs.flatMap Prod.fst)))

/-- R238, R239, R240: a vector load or store issues one access whose events cover its active elements, each at its form's
offset; a load's old register is kept for the inactive ones. R322: its flits must find room in the injection queue of its request
plane; that one of more than 16 flits issues into an empty queue is the model's choice (log 15). -/
def Obligations.VectorMemoryIssue : Prop :=
  ∀ (rx : Option (BitVec 3)) (l i : BitVec 4) (m g : BitVec 3) (a : BitVec 5) (d : BitVec 4) (s : State),
    let sg := s.seg g.toNat
    let n := if rx = none then 4 else 6
    let vd := s.vAddrs d.toNat
    let base := (s.w a.toNat).val
    let mk := if m = 0 then [] else s.mAddrs m.toNat
    let unit (e : Nat) : Int := base.toNat + 4 * e
    let strided (e : Nat) : Int := base.toNat + (s.w i.toNat).val.toInt * e
    let indexed (e : Nat) : Int := base.toNat + s.elemIn (s.vAddrs i.toNat) 32 e
    let flits (pair : Bool) : Nat :=
      if pair then ((List.range 32).filter (fun j => s.active m (2 * j) || s.active m (2 * j + 1))).length
      else ((List.range 64).filter (s.active m)).length
    let room (pair : Bool) : Prop := (sg.space = 3 ∨ sg.space = 4 ∨ sg.space = 5) →
      s.requestFlits s.cur.1 s.me.lea (Config.requestPlane s.nextId) + min (flits pair) 16 ≤ 16
    let ok (store pair : Bool) (regs : List Nat) (off : Nat → Int) : Prop :=
      let dst := if store then [] else vd
      s.Operands (s.wAddr a.toNat :: regs ++ mk ++ (if store ∨ m ≠ 0 then vd else [])) dst
      ∧ s.Clean (s.wAddr a.toNat :: regs ++ mk) ∧ s.count (kindOf rx) < (kindOf rx).limit ∧ s.PathOpen sg.space ∧ room pair
      ∧ (pair = true → base.toNat % 8 = 0)
      ∧ ∀ e ∈ List.range 64, s.active m e = true → 0 ≤ off e
        ∧ segFail sg (s.extent sg.space) (off e).toNat 4 [if store then .w else .r] [1, 2, 3, 4] = none
        ∧ (sg.base.toNat + (off e).toNat) % 4 = 0 ∧ s.overlaps sg.space (sg.base.toNat + (off e).toNat) 4 dst = false
    let goes (store pair : Bool) (off : Nat → Int) : Out1 :=
      let dst := if store then [] else vd
      let parts := s.vParts sg pair (fun e => (off e).toNat) (s.active m) (s.v d.toNat) (fun j => s.mem.isBad (vd.getD j 0))
      let s1 : State := { s with free := s.free + 2 }
      let x := s1.newAccess g.toNat base.toNat (if store then .store else .load false) parts (scopeOf rx)
      .next (((s1.addOut (s1.newOut n (!store) (if store then 0 else l.toNat) dst (.access x))).markPending dst).issue n)
    (ok false true [] unit → exec (.vld rx l m g a d) s = goes false true unit)
    ∧ (ok false false [s.wAddr i.toNat] strided → exec (.vlds rx l i m g a d) s = goes false false strided)
    ∧ (ok false false (s.vAddrs i.toNat) indexed → exec (.vgath rx l i m g a d) s = goes false false indexed)
    ∧ (ok true true [] unit → exec (.vst rx m g a d) s = goes true true unit)
    ∧ (ok true false [s.wAddr i.toNat] strided → exec (.vsts rx i m g a d) s = goes true false strided)
    ∧ (ok true false (s.vAddrs i.toNat) indexed → exec (.vscat rx i m g a d) s = goes true false indexed)

/-- R239: the events of a vector access: each covers one active element, or both elements of a doubleword of VLD and VST, at
BASE plus the element's offset; every active element is covered; an inactive one is not touched. R143-R146: one cycle in four,
after its turn, the lanes of a core serve one entry, the owner of the turn first, and none else in that cycle; which slot follows an
owner whose only entry is of this same cycle is the model's choice (log 100); at the end of cycle t + D the entry's words are filled
and its flags raised. R422: of a doubleword both of whose elements a load reads nothing of the old word stays, its poison neither. -/
def Obligations.VectorEvents : Prop :=
  (∀ (s : State) (g : Seg) (off : Nat → Nat) (act : Nat → Bool) (val : VReg) (bad : Nat → Bool) (b : Nat),
      (let ps := s.vParts g false off act val bad
       (∀ p ∈ ps, ∃ e, e < 64 ∧ act e = true ∧ p.dst = 4 * e ∧ p.addr = g.base.toNat + off e ∧ p.size = 4
          ∧ p.data = vBytes val (4 * e) 4 ∧ p.stage = .queued)
       ∧ ∀ e, e < 64 → act e = true → ∃ p ∈ ps, p.dst = 4 * e ∧ p.size = 4)
      ∧ (let ps := s.vParts g true (fun e => b + 4 * e) act val bad
         (∀ p ∈ ps, ∃ e, e < 64 ∧ act e = true ∧ p.dst = 4 * e ∧ p.addr = g.base.toNat + b + 4 * e
            ∧ p.data = vBytes val (4 * e) p.size
            ∧ (p.size = 4 ∨ (p.size = 8 ∧ e % 2 = 0 ∧ act (e + 1) = true ∧ p.addr % 8 = 0)))
         ∧ ∀ e, e < 64 → act e = true → ∃ p ∈ ps, p.dst ≤ 4 * e ∧ 4 * e + 4 ≤ p.dst + p.size))
  ∧ (∀ (w : PWord) (p q : Part), p.size = 4 → q.size = 4 → p.dst % 8 = 0 → q.dst % 8 = 4 →
      (patchAll w [p, q]).bad = (p.bad || q.bad) ∧ (patchAll w [p]).bad = (w.bad || p.bad)
      ∧ (patchAll w [p, q]).val.toNat = p.res % 2 ^ 32 + 2 ^ 32 * (q.res % 2 ^ 32))
  ∧ (∀ (s : State),
      (∀ core k id, s.cycle core % 4 = core % 4 → (s.core core).laned ≤ s.cycle core → s.cycle core < (s.core core).turned →
          s.laneSlot core = some k → s.vHead core k = some id →
        exec (.vectorServe core) s = .next ((s.modCore core (fun c => { c with laned := s.cycle core + 1 })).modOut id
          (fun o => match o.work with
            | .vector v f d _ => { o with work := .vector v f d (some (s.cycle core)) }
            | _ => o)))
      ∧ (∀ core, (s.cycle core % 4 ≠ core % 4 ∨ s.cycle core < (s.core core).laned ∨ (s.core core).turned ≤ s.cycle core) →
          exec (.vectorServe core) s = .next s)
      ∧ (∀ core, (s.vHead core (s.cycle core / 4 % 16)).isSome = true → s.laneSlot core = some (s.cycle core / 4 % 16))
      ∧ (∀ id o vals fl d t, s.out id = some o → o.work = .vector vals fl d (some t) →
          exec (.vectorFill id) s = .next (if t + d < s.cycle o.core then s.fillOut o vals fl else s))
      ∧ (∀ id o vals fl d, s.out id = some o → o.work = .vector vals fl d none → exec (.vectorFill id) s = .next s))

/-- R80, R148, R150: elements side by side in doublewords: element i is read back from bits [wi, wi + w), the bits beyond the
last are zero, and a doubleword is poisoned exactly where it holds bits of a poisoned element; that a result has poison in the
doublewords of its poisoned elements alone is the model's reading of R422 (log 12). -/
def Obligations.ElementPlaces : Prop :=
  ∀ (k w : Nat) (es : List El), 0 < w → es.length * w ≤ 64 * k →
    let ws := wordsOf k w es
    let v := ws.foldr (fun x r => x.val.toNat + 2 ^ 64 * r) 0
    ws.length = k ∧ v < 2 ^ (w * es.length)
    ∧ (∀ i (h : i < es.length), v / 2 ^ (w * i) % 2 ^ w = es[i].val % 2 ^ w)
    ∧ ∀ j (h : j < ws.length), ws[j].bad = true ↔
        ∃ i, ∃ h : i < es.length, es[i].bad = true ∧ w * i < 64 * (j + 1) ∧ 64 * j < w * i + w

/-- R177-R179, R187-R196: the matrix instructions of the bay queue issue where the core's bay is their lea's, has room and runs
no restore, each with the values of its operands at issue; a refused configuration, row or drain start traps with 0x06 and a
disagreement with the active plane with 0x07. R178, R189, R196, R197, R231: the port's instructions issue where the port is
idle, and their own conditions of R178 hold: a load records its format and shape in the shadow plane, a restore starts at once,
a save waits in the queue. -/
def Obligations.MatrixIssue : Prop :=
  (∀ (l : BitVec 4) (r f m : BitVec 3) (b : BitVec 5) (v : BitVec 4) (t : BitVec 2) (s : State),
      let bay := s.myCore.bay
      let w := (s.w b.toNat).val
      let vd := s.vAddrs v.toNat
      let mk := if m = 0 then [] else s.mAddrs m.toNat
      let cfg := bay.viewCfg t.toNat
      let free : Prop := s.myCore.lea = s.me.lea ∧ bay.hasRoom = true ∧ bay.busyWith 2 = false
      let entry (s : State) (win : Bool) (look : Nat) (dst : List Nat) (op : BayOp) : State :=
        ((((s.addOut (s.newOut 4 win look dst .bay)).markPending dst).modBay s.cur.1 (fun y =>
          { y with queue := y.queue ++ [⟨s.nextId, op, s.cycle s.cur.1, none⟩] })).issue 4)
      let d := if f = 0 then 64 else 128
      free →
      (s.Reads [b.toNat] [] → (s.w b.toNat).bad = false →
        exec (.mcfg l b t) s = .next (if cfgBad w then s.raise 4 0x06 w
          else entry s true l.toNat [] (.mcfg t.toNat (w.extractLsb' 0 10))))
      ∧ exec (.mzero l t) s = .next (entry s true l.toNat [] (.mzero t.toNat))
      ∧ (bay.busyWith 0 = false → exec (.mswap l) s = .next (entry s true l.toNat [] .mswap))
      ∧ (s.Operands (vd ++ mk ++ [s.wAddr b.toNat]) [] → s.Clean (mk ++ [s.wAddr b.toNat]) →
        (cfgRows cfg ≤ w.toNat → exec (.mstep l m b v t) s = .next (s.raise 4 0x06 w))
        ∧ (w.toNat < cfgRows cfg → bay.viewPlane ≠ (cfg.extractLsb' 4 4, cfg.extractLsb' 8 2) →
            exec (.mstep l m b v t) s = .next (s.raise 4 0x07 (cfg.setWidth 64)))
        ∧ (w.toNat < cfgRows cfg → bay.viewPlane = (cfg.extractLsb' 4 4, cfg.extractLsb' 8 2) →
            let bits : MReg := BitVec.ofNat 128 ((List.range 128).map (fun i => if s.active m i then 2 ^ i else 0)).sum
            exec (.mstep l m b v t) s = .next ((entry { s with free := s.free + 2 } false l.toNat []
              (.mstep t.toNat w.toNat (s.v v.toNat) (s.badList vd) bits s.nsr s.fz)).modMe (fun x => { x with run := .matrixStep }))))
      ∧ (s.Operands [s.wAddr b.toNat] vd → (s.w b.toNat).bad = false →
        (w.toNat % d = 0 → w.toNat + d ≤ 4096 →
          exec (.mdrain l r f b v t) s = .next (entry s true l.toNat vd (.mdrain t.toNat w.toNat f.toNat
            (if r = 0 then s.desc.stat.extractLsb' 0 2 else r.extractLsb' 0 2) s.nsr s.fz)))
        ∧ ((w.toNat % d ≠ 0 ∨ 4096 < w.toNat + d) → exec (.mdrain l r f b v t) s = .next (s.raise 4 0x06 w)))
      ∧ (s.Reads [b.toNat] [b.toNat] → (s.w b.toNat).bad = false →
        exec (.mflags l b) s = .next (entry { s with free := s.free + 1 } true l.toNat [s.wAddr b.toNat]
          (.mflags (w.extractLsb' 0 32)))))
  ∧ (∀ (l : BitVec 4) (k : BitVec 3) (b : BitVec 5) (t : BitVec 2) (s : State),
      let bay := s.myCore.bay
      let g := s.seg k.toNat
      let off := (s.w b.toNat).val.toNat
      let cfg := bay.viewCfg t.toNat
      let job (kind n : Nat) : PortJob :=
        { outId := s.nextId, kind := kind, tile := t.toNat, space := g.space, die := dieOf s.cur.1, addr := g.base.toNat + off,
          sgOff := off, size := n, left := portPieces (g.base.toNat + off) n, image := [], bad := [], flow := [],
          parked := none, stalled := none }
      let ok (n : Nat) (need : Right) : Prop :=
        s.Reads [b.toNat] [] ∧ (s.w b.toNat).bad = false ∧ s.myCore.lea = s.me.lea ∧ bay.portIdle = true ∧ bay.busyWith 2 = false
        ∧ s.count .relaxed < 8 ∧ segFail g (s.extent g.space) off n [need] [1, 2, 3, 4] = none ∧ off % 64 = 0
      let out := s.newOut 4 true l.toNat [] .port
      (ok (planeSize cfg) .r → bay.queue.any (fun e => e.op == .mswap) = false →
        exec (.mload l k b t) s = .next (((s.addOut out).modBay s.cur.1 (fun y =>
          { y with port := some (job 0 (planeSize cfg)),
                   shadow := { y.shadow with wf := cfg.extractLsb' 4 4, shp := cfg.extractLsb' 8 2 } })).issue 4))
      ∧ (ok 16448 .r → bay.isEmpty = true →
        exec (.mrest l k b t) s = .next (((s.addOut out).modBay s.cur.1 (fun y => { y with port := some (job 2 16448) })).issue 4))
      ∧ (ok 16448 .w → bay.hasRoom = true →
        exec (.msave l k b t) s = .next (((s.addOut out).modBay s.cur.1 (fun y =>
          { y with queue := y.queue ++ [⟨s.nextId, .msave t.toNat k.toNat g.space (dieOf s.cur.1) (g.base.toNat + off) off,
            s.cycle s.cur.1, none⟩] })).issue 4)))

/-- R174, R177, R180, R187, R188, R190, R192, R194, R196: after its turn an array cycle performs the first entry that waits and
issued before it, and no other; at the end of cycle t + 4 it takes effect: a tile is configured or zeroed, the planes change places,
flags are read and cleared, the thread In matrix step is Ready, a drain delivers the tile's elements converted and sets Saturation
where one was cut to ±M, and a save copies the tile's image into the port. R100, R101, R185, R191: what a step of clean operands
leaves: every element of its row accumulates the runs of its column in ascending order, each run's products summed exactly and
rounded once, with the flags of R101; every other byte, tile and plane is as before. R189, R195-R197, R200, R205: the events of a
transfer are performed in no given order, those that the thread's order and the words' states let go: a save's pieces to memory, a
load's and a restore's into the image, each once the accesses of HBM that it takes have been served in service slots of the lea
(R326); with the last one the image is in the shadow plane or the tile and the instruction is complete. A restored tile is what the
image says, or is cleared with Invalid where CFG or FLAGS are malformed, and a save restored is as it was. A transfer whose first
piece left meets a page fault parks and keeps what it has moved. -/
def Obligations.MatrixEffects : Prop :=
  (∀ (s : State) (core : Nat),
      let c := s.core core
      let now := s.cycle core
      let popped := s.modBay core (fun b => { b with queue := b.queue.drop 1 })
      ((now % 4 ≠ core % 4 ∨ now < c.arrayed ∨ c.turned ≤ now) → exec (.bayEntryPerform core) s = .next s)
      ∧ (∀ e rest, now % 4 = core % 4 → c.arrayed ≤ now → now < c.turned → c.bay.queue = e :: rest → e.done = none →
          e.issuedAt < now →
          ∃ u, exec (.bayEntryPerform core) s = .next u ∧ (u.core core).arrayed = now + 1
            ∧ (u.core core).bay = { c.bay with queue := { e with done := some now } :: rest } ∧ u.mem = s.mem)
      ∧ (∀ e rest t, c.bay.queue = e :: rest → e.done = some t →
        (now ≤ t + 4 → exec (.bayEntryEffect core) s = .next s)
        ∧ (t + 4 < now →
          (∀ k v, e.op = .mcfg k v → exec (.bayEntryEffect core) s = .next
            ((popped.modBay core (fun b => b.modTile k (fun x => x.configure v))).dropOut e.outId))
          ∧ (∀ k, e.op = .mzero k → exec (.bayEntryEffect core) s = .next
            ((popped.modBay core (fun b => b.modTile k (fun x => { x with data := [], bad := [] }))).dropOut e.outId))
          ∧ (e.op = .mswap → exec (.bayEntryEffect core) s = .next
            ((popped.modBay core (fun b => { b with active := b.shadow, shadow := b.active })).dropOut e.outId))
          ∧ (∀ k row a bad m nsr fz o x, e.op = .mstep k row a bad m nsr fz → s.out e.outId = some o →
              c.slots[o.slot]? = some x → x.tid = o.tid → x.run = .matrixStep →
            ∃ u, exec (.bayEntryEffect core) s = .next u ∧ (u.core core).slots[o.slot]? = some { x with run := .ready }
              ∧ (u.core core).bay =
                ({ c.bay with queue := rest }).step (fun i => popped.undef c.lea (s.free + i)) k row a bad m nsr fz ∧ u.mem = s.mem)
          ∧ (∀ m o, e.op = .mflags m → popped.out e.outId = some o → exec (.bayEntryEffect core) s = .next
            ((popped.modBay core (fun b => b.clearFlags m)).fillOut o [⟨(popped.core core).bay.flagsWord, false⟩] Flags.none))
          ∧ (∀ k start f rm nsr fz o, e.op = .mdrain k start f rm nsr fz → f < 5 → s.out e.outId = some o → (c.bay.tile k).bad = [] →
            let g := [fp32, bf16, fp16, e4m3, e5m2].getD f fp32
            let code (i : Nat) : Nat := (c.bay.tile k).data.read (4 * (start + i)) 4
            let r (i : Nat) : Res := g.enc nsr fz (Rm.ofRM rm) (fp32.dec true fz (code i))
            let els : List El := (List.range (if f = 0 then 64 else 128)).map (fun i =>
              if f = 0 then ⟨code i, 0, false⟩ else ⟨(r i).bits, (r i).flags, false⟩)
            let cut : Bool := f != 0 && (List.range 128).any (fun i =>
              (r i).flags.getLsbD 2 && (r i).bits % 2 ^ (g.eb + g.mb) == g.maxCode nsr)
            exec (.bayEntryEffect core) s = .next ((if cut then
              popped.modBay core (fun b => b.modTile k (fun x => { x with flags := x.flags ||| 4 })) else popped).fillOut o
                (wordsOf 32 g.bits els) (flagsOf els)))
          ∧ (∀ k sg space die a off, e.op = .msave k sg space die a off → exec (.bayEntryEffect core) s = .next
            (popped.modBay core (fun b => { b with
              port := some { outId := e.outId, kind := 1, tile := k, space := space, die := die, addr := a, sgOff := off,
                             size := 16448, left := portPieces a 16448, image := (c.bay.tile k).image.1,
                             bad := (c.bay.tile k).image.2, flow := [], parked := none, stalled := none } }))))))
  ∧ (∀ (b : Bay) (fresh : Nat → Word) (t row : Nat) (a : VReg) (mask : MReg) (nsr fz : Bool),
      let tl := b.tile t
      let af := (tl.cfg.extractLsb' 0 4).toNat
      let wf := (tl.cfg.extractLsb' 4 4).toNat
      let shp := (tl.cfg.extractLsb' 8 2).toNat
      let n := 128 / 2 ^ shp
      let k := (if af = 6 ∧ wf = 6 then 128 else if af = 5 ∧ wf = 5 then 32 else 64) * 2 ^ shp
      let l := if af = 5 ∧ wf = 5 then 8 else 32
      let p := k * matBits wf / 8
      let bitsOf (v w i : Nat) : Nat := v / 2 ^ (w * i) % 2 ^ w
      let act (i : Nat) : Val :=
        if mask.getLsbD (if 128 < k then i * 128 / k else i) then
          matDec af nsr fz (if af = 6 then bitsOf a.toNat 8 (128 + i / 32) else 0) (bitsOf a.toNat (matBits af) i)
        else .fin false 0 0
      let wgt (c i : Nat) : Val :=
        matDec wf nsr fz (if wf = 6 then b.active.data.read (n * p + c * (k / 32) + i / 32) 1 else 0)
          (bitsOf (b.active.data.read (c * p) p) (matBits wf) i)
      let sum (c j : Nat) : Val × Bool :=
        let is := (List.range l).map (fun i => l * j + i)
        ((is.map (fun i => (Val.mul (act i) (wgt c i)).1)).foldl (fun (s : Option Val) x =>
            some (match s with | none => x | some v => (Val.add .rne v x).1)) none |>.getD (.fin false 0 0),
          is.any (fun i => act i == .nan || wgt c i == .nan))
      let acc (c : Nat) : Nat × BitVec 4 := (List.range (k / l)).foldl (fun r j =>
        let old := fp32.dec true false r.1
        let s := sum c j
        let x := fpAdd fp32 false .rne old s.1
        let iv : Bool := (s.1 == .nan && !s.2) || (fp32.dec true false x.bits == .nan && old != .nan && s.1 != .nan)
        (x.bits, r.2 ||| (if iv then 1 else 0) ||| (if x.flags.getLsbD 2 then 2 else 0) ||| (if x.flags.getLsbD 4 then 8 else 0)))
        (tl.data.read (4 * (row * n + c)) 4, 0)
      let u := b.step fresh t row a [] mask nsr fz
      t < b.tiles.length → cfgBad (tl.cfg.setWidth 64) = false → tl.data.wf = true → tl.bad = [] → b.active.data.wf = true →
      b.active.bad = [] →
        (∀ c, c < n → (u.tile t).data.read (4 * (row * n + c)) 4 = (acc c).1)
        ∧ (∀ i, (i < 4 * row * n ∨ 4 * (row * n + n) ≤ i) → (u.tile t).data.get i = tl.data.get i)
        ∧ (u.tile t).flags = (List.range n).foldl (fun f c => f ||| (acc c).2) tl.flags
        ∧ (u.tile t).bad = [] ∧ (u.tile t).cfg = tl.cfg ∧ (u.tile t).hist = tl.hist ∧ (∀ i, i ≠ t → u.tile i = b.tile i)
        ∧ u.active = b.active ∧ u.shadow = b.shadow ∧ u.queue = b.queue ∧ u.port = b.port)
  ∧ (∀ (t old : Tile) (img : Cells) (fresh : Nat → Word),
      let cfg : Word := BitVec.ofNat 64 (img.read 0 8)
      let fl : Word := BitVec.ofNat 64 (img.read 8 8)
      (cfgBad cfg = true ∨ fl.extractLsb' 4 60 ≠ 0 → old.restored img [] fresh = ⟨[], [], 0, 1, old.hist ||| old.flags⟩)
      ∧ (cfgBad cfg = false → fl.extractLsb' 4 60 = 0 → old.restored img [] fresh =
          ⟨img.slice 64 16384, [], cfg.extractLsb' 0 10, fl.extractLsb' 0 4, old.hist ||| (old.flags &&& ~~~fl.extractLsb' 0 4)⟩)
      ∧ (t.data.wf = true → (∀ p ∈ t.data, p.1 < 16384) → cfgBad (t.cfg.setWidth 64) = false →
          t.image.1.read 0 8 = t.cfg.toNat ∧ t.image.1.read 8 8 = t.flags.toNat ∧ (∀ i, t.image.1.get (64 + i) = t.data.get i)
          ∧ (∀ i, 16 ≤ i → i < 64 → t.image.1.get i = 0) ∧ t.image.2 = t.bad.map (fun i => i + 8)
          ∧ old.restored t.image.1 t.image.2 fresh = { t with hist := old.hist ||| (old.flags &&& ~~~t.flags) }))
  ∧ (∀ (s : State) (core : Nat) (j : PortJob) (o : Out) (ps : List (Nat × Nat × Nat)) (h : Option (Nat × Place)),
      s.portView core = some (j, o, ps, h) →
      let ready := s.portReady o j ps
      let served := ready.filter (fun p => unitsServed s.now j.flow p.2.2 p.2.1)
      (ready = [] → exec (.portTransferDone core) s = .next s)
      ∧ (ready ≠ [] → served = [] → ∃ u flow, exec (.portTransferDone core) s = .next u ∧ u.mem = s.mem
          ∧ (u.core core).bay = { (s.core core).bay with port := some { j with flow := flow } } ∧ (∀ e ∈ j.flow, e ∈ flow)
          ∧ ∀ e ∈ flow, e ∈ j.flow ∨ (e.2 = s.now ∧ s.spareService o.lea (channelOf e.1) = true ∧ channelOf e.1 ∈ u.served
            ∧ ∃ p ∈ ready, e.1 ∈ hbmUnits p.2.2 p.2.1))
      ∧ (served ≠ [] → s.pickSome served ≠ [] ∧ (∀ p ∈ s.pickSome served, p ∈ served)
          ∧ exec (.portTransferDone core) s = .next ({ s with free := s.free + served.length }.portMove core j o (s.pickSome served)))
      ∧ (∀ a n, lsOrigin ≤ a → hbmUnits a n = []) ∧ (∀ a n i, a < 2 ^ 44 → i < n → 64 * ((a + i) / 64) ∈ hbmUnits a n)
      ∧ (∀ off frame, ps = [] → h = some (off, .page frame) →
        ∃ u, exec (.portTransferFault core) s = .next u ∧ u.mem = s.mem
          ∧ (u.core core).bay.port = some { j with parked := some (some frame), stalled := some (off, s.nextId) }))
  ∧ (∀ (s : State) (core : Nat) (j : PortJob) (o : Out) (l : List (Nat × Nat × Nat)),
      let left := j.left.filter (fun p => !l.any (fun q => q.1 == p.1))
      let u := s.portMove core j o l
      let f := s.flushFor core o.lea
      let y := (f.core core).bay
      let r := readImage f.mem j.image j.bad l
      (left ≠ [] → j.kind ≠ 1 → u.mem = f.mem
        ∧ (u.core core).bay = { y with port := some { j with left := left, image := r.1, bad := r.2, stalled := none } })
      ∧ (left ≠ [] → j.kind = 1 → (u.core core).bay = { y with port := some { j with left := left, stalled := none } })
      ∧ (left = [] → u.out j.outId = none
        ∧ (j.kind = 0 → u.mem = f.mem
          ∧ (u.core core).bay = { y with port := none, shadow := { y.shadow with data := r.1, bad := r.2 } })
        ∧ (j.kind = 1 → (u.core core).bay = { y with port := none })
        ∧ (j.kind = 2 → r.2 = [] → u.mem = f.mem
          ∧ ∀ fresh, (u.core core).bay = { y with port := none }.modTile j.tile (fun t => t.restored r.1 [] fresh)))
      ∧ (j.kind = 1 → (∀ p ∈ l, f.mem.isFull (dwordOf p.2.2) = true) →
          ((f.core o.core).lea ≠ some o.lea ∨ (f.dor o.core).state ≠ .running) →
          u.mem = l.foldl (fun m p => (m.store p.2.2 p.2.1 (j.image.read p.1 p.2.1)
            ((imageWords p.1 p.2.1).any j.bad.contains)).noteWriter none (dwordOf p.2.2)) f.mem)
      ∧ ((∀ p ∈ l, f.mem.isBad p.2.2 = false) →
          r = (l.foldl (fun c p => c.write p.1 p.2.1 (f.mem.read p.2.2 p.2.1)) j.image, j.bad))
      ∧ ((∀ e ∈ s.cores, e.2.dorent.late = []) → f = s))

/-- R121, R262, R263: an engine command whose maps are read clean, well formed, and within their segments is written into the
shadow set with the segments it captures. -/
def Obligations.EngineCommandsIssue : Prop :=
  ∀ (k : BitVec 6) (c : BitVec 1) (b a : BitVec 5) (s : State) (p q : Nat),
    let reads (r : Nat) (x : Nat) : Prop :=
      let v := (s.w r).val
      let g := s.seg (v.toNat % 8)
      let off := v.toNat / 64 * 64
      v.extractLsb' 3 3 = 0 ∧ segFail g (s.extent g.space) off 64 [.r] [1, 2] = none
      ∧ s.flat s.cur.1 s.cur.2 s.me.lea g.space (g.base.toNat + off) = some x ∧ s.ownStorePending x 64 = false
      ∧ s.Clean ((List.range 8).map (fun i => x + 8 * i))
    let words (x i : Nat) : Word := BitVec.ofNat 64 (s.mem.read (x + 8 * i) 8)
    let m := mapOf (words p)
    let n := mapOf (words q)
    let kind (j : Nat) : TMap := if j = 2 then n else m
    let goes (j : Nat) (src : TMap) (fill : PWord) : Out1 :=
      .next ((s.modMyCore (fun x => { x with engine := { x.engine with shadow := some ⟨s.cur.2, none,
        { kind := j, src := src, dst := n, fill := fill, sem := if c = 1 then some k.toNat else none, srcSeg := s.seg src.sg,
          dstSeg := s.seg n.sg, idxSeg := s.seg (if j = 2 then n.isg else src.isg), nsr := s.nsr, tid := s.me.tid,
          pc := s.pc }⟩ } })).issue 4)
    let ok (mi ni : Bool) : Prop :=
      reads a.toNat p ∧ reads b.toNat q ∧ mapRes (words p) = false ∧ m.bad false = false ∧ mapRes (words q) = false
      ∧ n.bad true = false ∧ s.hullFail m mi .r = none ∧ s.hullFail n ni .w = none ∧ s.hullsMeet m n mi ni = false
      ∧ m.esz = n.esz ∧ ∀ j ∈ List.range 5, m.extent j = n.extent j
    let listed (x : TMap) : Prop := segFail (s.seg x.isg) (s.extent (s.seg x.isg).space) x.ioff (4 * x.extent 1) [.r] [1, 2] = none
    s.Reads [a.toNat, b.toNat] [] → s.myCore.lea = s.me.lea → s.myCore.engine.shadow = none →
    ((s.w a.toNat).bad = false → (s.w b.toNat).bad = false →
      (ok false false → exec (.tcopy k c b a) s = goes 0 m ⟨0, false⟩)
      ∧ (ok true false → listed (kind 1) → exec (.tgath k c b a) s = goes 1 m ⟨0, false⟩)
      ∧ (ok false true → listed (kind 2) → exec (.tscat k c b a) s = goes 2 m ⟨0, false⟩))
    ∧ ((s.w b.toNat).bad = false → reads b.toNat q → mapRes (words q) = false → n.bad true = false →
        s.hullFail n false .w = none → exec (.tfill k c b a) s = goes 3 n (s.w a.toNat))

/-- R262, R263, R266, R267: EGO arms the owner's held set and is a sequence error (0x28) otherwise; ESTAT reads the status; ECAN
empties the shadow set and cancels the active command of the slots whose commands it cancels, from slot 15 those of every slot, and
has no effect on others; where another lea holds the core, they park (R381). R205, R217, R263-R265, R405: an armed set becomes the
active command where there is none, and its events wait for the accesses before its EGO; elements of a window are written, each
once, after the accesses of HBM that it takes have been served in service slots of the lea (R326): the source element, 0 where that
is outside its segment, or TFILL's value; when none is left the window commits whole: the resume offset moves to its end and its
bytes are counted; a page fault parks the command at the offset, and it restarts when the page is resident. In which order the
elements of a window come, and what of an uncommitted window is in memory when the command parks or ends, is the model's choice (log
40), and so is the offset 0 that ESTAT shows once a command has started or ended (log 62). -/
def Obligations.EngineControl : Prop :=
  (∀ (d : BitVec 5) (s : State),
      let e := s.myCore.engine
      let mine (k : Nat) : Prop := s.in15 = true ∨ k = s.cur.2
      let sequence : Out1 := .next (s.raise 4 0x28 (rrBits 0x13 0 0 4 0 0 0))
      (s.myCore.lea = s.me.lea →
        (∀ h, e.shadow = some h → h.owner = s.cur.2 → h.armed = none → exec .ego s = .next ((s.modMyCore (fun x =>
          { x with engine := { x.engine with shadow := some { h with armed := some (s.me.tid, s.nextId) } } })).issue 4))
        ∧ (e.shadow = none → exec .ego s = sequence)
        ∧ (∀ h, e.shadow = some h → (h.owner ≠ s.cur.2 ∨ h.armed ≠ none) → exec .ego s = sequence)
        ∧ (s.Reads [] [d.toNat] → exec (.estat d) s = .next (s.setW 4 d.toNat false e.status))
        ∧ ∃ t, exec .ecan s = .next t
          ∧ (∀ h, e.shadow = some h → (mine h.owner → t.myCore.engine.shadow = none)
              ∧ (¬ mine h.owner → t.myCore.engine.shadow = some h))
          ∧ (e.shadow = none → t.myCore.engine.shadow = none)
          ∧ (∀ a, e.active = some a → mine a.owner → t.myCore.engine.active = none ∧ t.myCore.engine.canc = true)
          ∧ ((∀ a, e.active = some a → ¬ mine a.owner) → t.myCore.engine.active = e.active ∧ t.mem = s.mem))
      ∧ (s.myCore.lea ≠ s.me.lea → exec .ego s = .next (s.park .pool) ∧ exec .ecan s = .next (s.park .pool)
          ∧ (s.Reads [] [d.toNat] → exec (.estat d) s = .next (s.park .pool))))
  ∧ (∀ e : Engine, (∀ h, e.shadow = some h → h.owner < 16) → (∀ a, e.active = some a → a.owner < 16 ∧ a.offset < 2 ^ 40) →
      e.kept < 2 ^ 40 →
      let w := e.status
      w.extractLsb' 62 2 = 0 ∧ w.getLsbD 61 = e.canc ∧ w.getLsbD 60 = e.oob
      ∧ w.getLsbD 59 = e.shadow.any (fun h => h.armed.isSome) ∧ w.getLsbD 58 = e.shadow.isSome
      ∧ w.getLsbD 57 = e.active.any (fun a => a.parked.isSome) ∧ w.getLsbD 56 = e.active.isSome
      ∧ (∀ h, e.shadow = some h → (w.extractLsb' 52 4).toNat = h.owner)
      ∧ (∀ a, e.active = some a → (w.extractLsb' 48 4).toNat = a.owner ∧ (w.extractLsb' 0 40).toNat = a.offset)
      ∧ w.extractLsb' 40 8 = 0)
  ∧ (∀ (s : State) (core l : Nat) (a : TActive),
      let e := (s.core core).engine
      let w := s.window core l a
      (∀ h n, e.shadow = some h → e.active = none → h.armed = some n →
        exec (.engineCommandStart core) s = .next (s.modEngine core (fun e =>
          { e with shadow := none, active := some ⟨h.owner, h.cmd, 0, n, none, [], none, false⟩, kept := 0 })))
      ∧ (e.active = some a → s.earlierDone a.edge.1 a.edge.2 false = false → exec (.engineWindowCommit core) s = .next s)
      ∧ (s.engineRun core = some (a, l) → s.windowHeld core l a w = none →
          (a.rest = [] → exec (.engineWindowCommit core) s = .next (s.commitWindow core l a w))
          ∧ (a.rest ≠ [] → s.ranksReady core l a = [] → exec (.engineWindowCommit core) s = .next s)
          ∧ (a.rest ≠ [] → s.ranksReady core l a ≠ [] →
            let served := s.ranksServed core l a (s.ranksReady core l a)
            (served = [] → ∃ u flow, exec (.engineWindowCommit core) s = .next u ∧ u.mem = s.mem ∧ (∀ x ∈ a.flow, x ∈ flow)
              ∧ (u.core core).engine = { e with active := some { a with flow := flow } }
              ∧ ∀ x ∈ flow, x ∈ a.flow ∨ (x.2 = s.now ∧ s.spareService l (channelOf x.1) = true ∧ channelOf x.1 ∈ u.served
                ∧ ∃ r ∈ s.ranksReady core l a, x.1 ∈ s.rankUnits core l a r))
            ∧ (served ≠ [] → exec (.engineWindowCommit core) s = .next (s.writeSome core l a served)
              ∧ ∃ p, p ≠ [] ∧ (∀ r ∈ p, r ∈ served)
                ∧ ((s.writeSome core l a served).core core).engine.active =
                  some { a with left := some (a.rest.filter (fun r => !p.contains r)) }))
          ∧ exec (.enginePark core) s = .next s)
      ∧ (∀ x d, s.elemHome core l a x = some d → s.mem.isFull (dwordOf d) = true →
          ((s.core core).lea ≠ some l ∨ (s.dor core).state ≠ .running) →
          let n := a.cmd.dst.esz
          let puts (v : Nat) (bad : Bool) : Prop :=
            (s.moveElem core l a x).mem = (s.mem.store d n v bad).noteWriter none (dwordOf d)
          (a.cmd.kind = 3 → puts (a.cmd.fill.val.toNat % 256 ^ n) a.cmd.fill.bad)
          ∧ (a.cmd.kind ≠ 3 → x.src = none → puts 0 false)
          ∧ (∀ v y, a.cmd.kind ≠ 3 → x.src = some v → s.placeOf core a.owner l a.cmd.srcSeg.space (dieOf core) v [.r] = .at y →
              puts (s.mem.read y n) (s.mem.isBad y)))
      ∧ (s.engineRun core = some (a, l) →
          let t := s.commitWindow core l a w
          (a.windowEnd ≠ a.cmd.dst.bytes → ∃ b, (t.core core).engine.active = some b ∧ b.offset = a.windowEnd ∧ b.cmd = a.cmd)
          ∧ (a.windowEnd = a.cmd.dst.bytes → (t.core core).engine.active = none ∧ (t.core core).engine.canc = false)
          ∧ (∀ k, a.cmd.sem = some k → (t.core core).sem k = ((s.core core).sem k).add (a.windowEnd - a.offset)))
      ∧ (∀ f off, s.engineRun core = some (a, l) → s.windowHeld core l a w = some (.page f, off) →
          exec (.engineWindowCommit core) s = .next s
          ∧ exec (.enginePark core) s = .next (((s.moveSome core l a).modEngine core (fun e =>
              { e with active := some { a with left := none, flow := [], parked := some (some f) } })).logPage l f))
      ∧ (∀ f, e.active = some a → (s.core core).lea = some l → a.parked = some (some f) → s.resident l f = true →
          exec (.engineRestart core) s = .next (s.modEngine core (fun e => { e with active := some { a with parked := none } })))
      ∧ (e.active = some a → exec (.engineInternalError core) s = .next ((s.cancelActive core).headRecord core (s.core core).lea
          a.owner .engine 2 2 0x59 a.cmd.pc (BitVec.ofNat 64 a.offset) (BitVec.ofNat 64 a.offset))))

/-- R322, R333, R347: BAR sends its arrival to the gang's first core and waits for the generation, BARAR sends it and gives the
generation's number, BARWT waits for a generation above its operand; a second arrival, and any of them outside a gang, traps
with 0x43, and in slot 15 with 0x42; a full exchange queue makes an arrival forfeit. R347: an arrival may leave its core once the
thread's earlier accesses are done; at the first core the last arrival ends the generation; a completed generation reaches a
member's core in order, frees the arrival bits of its threads and wakes those that wait for it. -/
def Obligations.Barriers : Prop :=
  (∀ (k : BitVec 3) (a d : BitVec 5) (s : State),
      (s.in15 = false →
        (∀ g, s.myGang = some g →
          let rank := g.rankOf s.cur.1 s.cur.2
          let gen := (g.bar k.toNat).genAt s.cur.1
          let came := ({ s with nextId := s.nextId + 1 }.post (s.newMail s.nextId (g.coreOf 0) 0 (.barIn g.gid k.toNat rank))).modGang
            g.lea g.gid (fun g => g.modBar k.toNat (fun b => { b with arrived := (rank, some (s.me.tid, s.nextId)) :: b.arrived }))
          (s.exchangeFlits s.cur.1 s.me.lea < 16 → keyFind (g.bar k.toNat).arrived rank = none →
            exec (.bar k) s = .next ((came.issue 4).park (.barrier k.toNat gen))
            ∧ (s.Reads [] [d.toNat] → exec (.barar k d) s = .next (came.setW 4 d.toNat false (BitVec.ofNat 64 gen))))
          ∧ (s.exchangeFlits s.cur.1 s.me.lea < 16 → keyFind (g.bar k.toNat).arrived rank ≠ none →
            exec (.bar k) s = .next (s.raise 4 0x43 (BitVec.ofNat 64 k.toNat))
            ∧ (s.Reads [] [d.toNat] → exec (.barar k d) s = .next (s.raise 4 0x43 (BitVec.ofNat 64 k.toNat))))
          ∧ (s.Reads [a.toNat] [] → (s.w a.toNat).bad = false →
            let v := (s.w a.toNat).val.toNat
            exec (.barwt k a) s = .next (if v < gen then s.issue 4 else (s.issue 4).park (.barrier k.toNat v))))
        ∧ (s.myGang = none → s.exchangeFlits s.cur.1 s.me.lea < 16 →
          exec (.bar k) s = .next (s.raise 4 0x43 (BitVec.ofNat 64 k.toNat))
          ∧ (s.Reads [] [d.toNat] → exec (.barar k d) s = .next (s.raise 4 0x43 (BitVec.ofNat 64 k.toNat))))
        ∧ (s.myGang = none → s.Reads [a.toNat] [] → exec (.barwt k a) s = .next (s.raise 4 0x43 (BitVec.ofNat 64 k.toNat)))
        ∧ (16 ≤ s.exchangeFlits s.cur.1 s.me.lea → exec (.bar k) s = .next s.forfeitFull))
      ∧ (s.in15 = true →
        exec (.bar k) s = .next (s.raise 4 0x42 (rrBits 0x15 0 0 0 (k.setWidth 5) 0 0))
        ∧ exec (.barar k d) s = .next (s.raise 4 0x42 (rrBits 0x15 0 0 1 (k.setWidth 5) 0 d))
        ∧ exec (.barwt k a) s = .next (s.raise 4 0x42 (rrBits 0x15 0 0 2 (k.setWidth 5) a 0))))
  ∧ (∀ (s : State) (lea gid k rank core : Nat) (g : Gang), s.gang lea gid = some g →
      let b := g.bar k
      (∀ m : Mail, m.msg = .barIn gid k rank → m.lea = lea → s.mailMayGo m = s.earlierDone m.srcTid m.id g.multi)
      ∧ (s.unitMail lea (g.coreOf 0) (.barIn gid k rank) = none → exec (.barrierArrival lea gid k rank) s = .next s)
      ∧ (∀ m, s.unitMail lea (g.coreOf 0) (.barIn gid k rank) = some m →
        exec (.barrierArrival lea gid k rank) s = .next ((s.dropMail m.id).atFirst g (fun g => g.modBar k (fun b => g.checkBar { b with
          arrived := b.arrived.map (fun e => if e.1 = rank then (rank, none) else e), counted := rank :: b.counted }))))
      ∧ ((∀ r, r < g.members.length → r ∈ b.counted ∨ g.isGone r = true) → b.counted ≠ [] →
          g.checkBar b = { b with counted := [], gen := b.gen + 1 })
      ∧ ((∃ r, r < g.members.length ∧ r ∉ b.counted ∧ g.isGone r = false) → g.checkBar b = b)
      ∧ (∀ m, s.unitMail lea core (.barOut gid k (b.genAt core + 1)) = some m → k < g.barriers.length →
        ∃ t h, exec (.barrierComplete lea gid k core) s = .next t ∧ t.gang lea gid = some h ∧ t.mem = s.mem
          ∧ (h.bar k).genAt core = b.genAt core + 1
          ∧ (∀ r m, g.member r = some m → m.core = core → keyFind (h.bar k).arrived r = none)
          ∧ (∀ (j n : Nat) (x : Slot), (s.core core).slots[j]? = some x → x.run = .parked → x.lea = some lea → x.gang = some gid →
              x.wait = .barrier k n →
              (t.core core).slots[j]? = some (if n ≤ b.genAt core then { x with run := x.hold.run, wait := .none, woken := true } else x)))
      ∧ (s.unitMail lea core (.barOut gid k (b.genAt core + 1)) = none → exec (.barrierComplete lea gid k core) s = .next s))

/-- R102, R104, R333, R349, R350: GRED marks its destination empty, which a waiting operation on the word may find (R236), and sends
its contribution to its core's node; it forfeits until the thread's last result is delivered, and traps with 0x47 where the gang has
no tree and with 0x42 in slot 15. A node combines its slots in rank order and then its children; at the root the value is the
result, undefined where the operators differ, which goes down the tree, elsewhere it goes up to the parent; a result at a member's
core is deposited in its destination where its NSR is that of rank 0's contribution, or, the model's choice where rank 0 gave none,
that with which the gang was dispatched (log 24); else the member owes trap 0x4A. -/
def Obligations.GroupReduction : Prop :=
  (∀ (o : BitVec 4) (a d : BitVec 5) (s : State),
    (s.in15 = true → exec (.gred o a d) s = .next (s.raise 4 0x42 (rrBits 0x15 0 o 3 0 a d)))
    ∧ (s.in15 = false → s.Reads [a.toNat] [d.toNat] →
      (s.myGang = none → s.exchangeFlits s.cur.1 s.me.lea < 16 → (s.w a.toNat).bad = false →
        exec (.gred o a d) s = .next (s.raise 4 0x47 0))
      ∧ ∀ (g : Gang) (m : Member), s.myGang = some g → g.member (g.rankOf s.cur.1 s.cur.2) = some m →
        let r := g.rankOf s.cur.1 s.cur.2
        let x := s.wAddr d.toNat
        (m.gredDst ≠ none → exec (.gred o a d) s = .next s.forfeit)
        ∧ (m.gredDst = none → s.exchangeFlits s.cur.1 s.me.lea < 16 → (s.w a.toNat).bad = false →
          (g.tree = none → exec (.gred o a d) s = .next (s.raise 4 0x47 0))
          ∧ (g.tree ≠ none → exec (.gred o a d) s = .next ((((({ s with nextId := s.nextId + 1 }.post
              (s.newMail s.nextId s.cur.1 0 (.gredIn g.gid m.gredRound r))).markWord x .empty).modGang g.lea g.gid (fun g =>
              (g.modMember r (fun y => { y with gredRound := m.gredRound + 1, gredDst := some (m.gredRound, x) })).modRound m.gredRound
                (fun q => { q with given := keySet q.given r ⟨o.toNat, s.w a.toNat, s.nsr, s.me.tid, s.nextId⟩ }))).issue 4).touched x)))))
  ∧ (∀ (s : State) (lea gid round n : Nat) (g : Gang) (q : GredRound), s.gang lea gid = some g → g.round round = some q →
    n < g.ncore → keyFind q.nodes n = none →
    let ranks := (List.range g.spc).map (fun r => n * g.spc + r)
    let op := (q.given.head?.map (fun e => e.2.op)).getD 0
    let v := gredFold op (ranks.filterMap (fun r => (keyFind q.given r).map (fun x => x.val)) ++
      (g.kids n).filterMap (fun c => keyGet none q.nodes c))
    let fresh := s.undef (some lea) s.free
    let root : Option PWord := v.map (fun x =>
      ⟨if q.given.all (fun e => e.2.op == op) && !x.bad then (if 9 ≤ op then x.val &&& 0xFFFFFFFF#64 else x.val) else fresh, x.bad⟩)
    (((∃ r ∈ ranks, s.gredIn g q r = false) ∨ ∃ c ∈ g.kids n, s.gredUp g q n c = false) →
      exec (.gredContributionArrive lea gid round n) s = .next s)
    ∧ ((∀ r ∈ ranks, s.gredIn g q r = true) → (∀ c ∈ g.kids n, s.gredUp g q n c = true) →
      ∃ t h p, exec (.gredContributionArrive lea gid round n) s = .next t ∧ t.mem = s.mem
        ∧ t.gang lea gid = some h ∧ h.round round = some p ∧ keyGet none p.nodes n = v
        ∧ (n = 0 → p.result = root ∧ ∀ c ∈ g.kids 0, ∃ m ∈ t.mail, m.msg = .gredDown gid round c ∧ m.dst = g.coreOf c)
        ∧ (n ≠ 0 → p.result = q.result ∧ ∃ m ∈ t.mail, m.msg = .gredUp gid round n ∧ m.dst = g.coreOf ((n - 1) / 4))))
  ∧ (∀ (s : State) (lea gid round rank : Nat) (g : Gang) (m : Member) (q : GredRound) (v : PWord) (dst : Nat),
    s.gang lea gid = some g → g.round round = some q → g.member rank = some m → q.delivered.contains rank = false →
    q.reached.contains (rank / g.spc) = true → s.gredLate g m = false →
    s.unitMail g.lea (g.coreOf (rank / g.spc)) (.gredDown g.gid round (rank / g.spc)) = none →
    q.result = some v → m.gredDst = some (round, dst) → s.memberHere g m = true →
    let nsr : Bool := (keyFind q.given 0).elim g.nsr (fun x => x.nsr)
    ((s.slot m.core m.slot).desc.stat.getLsbD 3 = nsr →
      ∃ t, exec (.gredResultDeliver lea gid round rank) s = .next t
        ∧ t.mem = (if s.mem.feOf dst = some .empty then (s.fillExt dst v).mem else s.mem))
    ∧ ((s.slot m.core m.slot).desc.stat.getLsbD 3 ≠ nsr →
      ∃ t, exec (.gredResultDeliver lea gid round rank) s = .next t ∧ t.mem = s.mem
        ∧ (m.slot < (s.core m.core).slots.length → (t.slot m.core m.slot).owedTrap = some (0x4A, s.gangSender g))))

/-- R334-R338, R344-R346: SEND and SENDAM check the address word and send one message, the thread then Forfeiting until its status comes;
SENDAM.R leaves its destination pending instead; MBXST reads the mailbox status and its .CLR form zeroes the refusals; BACKOFF
parks for 2,048 × (2^k + h mod 2^k) slots, k the attempts up to 8; WAITF completes at once where the masked words are full. -/
def Obligations.MessageInstructions : Prop :=
  ∀ (l : BitVec 4) (b a d : BitVec 5) (s : State),
    let v := (s.w a.toNat).val
    let core := v.toNat % 2048
    let regs := [b.toNat, b.toNat + 1, b.toNat + 2, b.toNat + 3]
    let clean (r : List Nat) : Prop := ∀ k ∈ r, (s.w k).bad = false
    let waits (m : Msg) : Out1 := .next ((({ s with nextId := s.nextId + 1 }.post
      (s.newMail s.nextId (s.physOf core) (s.wAddr d.toNat) m)).issue 4).modMe (fun x =>
        { x with run := .forfeiting, hold := .ack s.nextId }))
    (s.Reads [a.toNat, b.toNat] [d.toNat] → s.exchangeFlits s.cur.1 s.me.lea < 16 → clean [a.toNat, b.toNat] →
      let slot := v.toNat / 2 ^ 16 % 16
      ((v &&& ~~~0x1F0F07FF#64) = 0 → slot ≠ 15 → core < s.leal →
        exec (.send b a d) s = waits (.deposit (s.w b.toNat) slot (v.toNat / 2 ^ 24 % 32) s.nsr))
      ∧ (((v &&& ~~~0x1F0F07FF#64) ≠ 0 ∨ slot = 15) → exec (.send b a d) s = .next (s.raise 4 0x06 v))
      ∧ ((v &&& ~~~0x1F0F07FF#64) = 0 → slot ≠ 15 → s.leal ≤ core → exec (.send b a d) s = .next (s.raise 4 0x40 v)))
    ∧ (s.Reads (a.toNat :: regs) [d.toNat] → s.exchangeFlits s.cur.1 s.me.lea < 16 → clean (a.toNat :: regs) →
        let cls := v.toNat / 2 ^ 16 % 64
        ((v &&& ~~~0x3F07FF#64) = 0 → cls ≠ 0 → core < s.leal →
          exec (.sendam b a d) s = waits (.am cls (regs.map s.w) s.nsr false)
          ∧ exec (.sendamR l b a d) s = .next ((((s.addOut (s.newOut 4 true l.toNat [s.wAddr d.toNat] .reply)).markWord
              (s.wAddr d.toNat) .pending).post (s.newMail s.nextId (s.physOf core) (s.wAddr d.toNat)
                (.am cls (regs.map s.w) s.nsr true))).issue 4))
        ∧ (((v &&& ~~~0x3F07FF#64) ≠ 0 ∨ cls = 0) → exec (.sendam b a d) s = .next (s.raise 4 0x06 v)
          ∧ exec (.sendamR l b a d) s = .next (s.raise 4 0x06 v))
        ∧ ((v &&& ~~~0x3F07FF#64) = 0 → cls ≠ 0 → s.leal ≤ core → exec (.sendam b a d) s = .next (s.raise 4 0x40 v)
          ∧ exec (.sendamR l b a d) s = .next (s.raise 4 0x40 v)))
    ∧ (s.Reads (a.toNat :: regs) [d.toNat] → 16 ≤ s.exchangeFlits s.cur.1 s.me.lea →
        exec (.sendam b a d) s = .next s.forfeitFull ∧ exec (.sendamR l b a d) s = .next s.forfeitFull)
    ∧ (s.Reads [] [d.toNat] → s.myCore.lea = s.me.lea →
        exec (.mbxst d) s = .next (s.setW 4 d.toNat false s.myCore.mbxst)
        ∧ exec (.mbxstClr d) s = .next ((s.setW 4 d.toNat false s.myCore.mbxst).modMyCore (fun c => { c with refused := 0 })))
    ∧ (s.Reads [d.toNat] [d.toNat] → (s.w d.toNat).bad = false →
        let n := (s.w d.toNat).val.toNat
        let k := min n 8
        let h := 16 * (s.me.coreReg.toNat % 2048) + s.me.slotReg.toNat % 16
        exec (.backoff d) s = .next ((s.issue 4).park (.backoff
          (((s.guestTime s.me.lea).toNat + 2048 * (2 ^ k + h % 2 ^ k)) % 2 ^ 64) (s.wAddr d.toNat) n)))
    ∧ (s.in15 = false → s.Reads [b.toNat] [d.toNat] → (s.w b.toNat).bad = false → (s.w b.toNat).val.toNat < 2 ^ 32 →
        let m := (s.w b.toNat).val.toNat
        let watched := ((List.range 32).filter (fun j => m.testBit j)).map (fun j => (j, s.wAddr j))
        let got := (watched.map (fun p => if s.mem.isFull p.2 then 2 ^ p.1 else 0)).sum
        let put := (s.issue 4).fillWord (s.wAddr d.toNat) ⟨BitVec.ofNat 64 got, false⟩
        let park (any : Bool) := (s.issue 4).park (.words watched any (s.wAddr d.toNat) false)
        exec (.waitfAll b d) s = .next (if watched.all (fun p => s.mem.isFull p.2) then put else park false)
        ∧ exec (.waitfAny b d) s =
            .next (if watched.isEmpty || watched.any (fun p => s.mem.isFull p.2) then put else park true))

/-- R334, R336, R337: a deposit fills its register word only where the target core is the lea's, the slot's thread is resident, its
NSR agrees and the word is empty; each other case leaves memory as it was and answers its own status. The answer ends the sender's
wait with the status in its register. R338, R339, R342: an active message enters a free mailbox entry of its core, the lowest by the
model's choice (log 23), and is answered with 0 unless it asks for a reply; a full mailbox refuses it with reason 4 and counts it; a
class without V refuses it with reason 5. Its status or its reply ends the sender's wait. -/
def Obligations.DepositsAndMessages : Prop :=
  (∀ (s : State) (id : Nat) (m : Mail), s.mailOf id = some m → s.arrives m = true →
      (∀ v slot reg nsr, m.msg = .deposit v slot reg nsr →
        let x := s.slot m.dst slot
        let a := workFlat m.dst slot (x.desc.seg 0) (x.desc.wp.toNat + 8 * reg)
        let here : Prop := s.holds m.dst m.lea = true ∧ x.run ≠ .absent ∧ x.lea = some m.lea
        let ends (t : State) (st : Word) : Out1 := .next (t.answer m (.ack st id))
        (s.holds m.dst m.lea = false → exec (.depositArrive id) s = ends s 0x8000000000000007#64)
        ∧ (s.holds m.dst m.lea = true → (x.run = .absent ∨ x.lea ≠ some m.lea) →
            exec (.depositArrive id) s = ends s 0x8000000000000002#64)
        ∧ (here → nsr ≠ x.desc.stat.getLsbD 3 → ∃ t, exec (.depositArrive id) s = ends t 0x8000000000000003#64 ∧ t.mem = s.mem)
        ∧ (here → nsr = x.desc.stat.getLsbD 3 → s.mem.feOf a = some .empty →
            exec (.depositArrive id) s = ends (s.fillExt a v) 0)
        ∧ (here → nsr = x.desc.stat.getLsbD 3 → s.mem.feOf a ≠ some .empty →
            exec (.depositArrive id) s = ends s 0x8000000000000001#64))
      ∧ (∀ st k, m.msg = .ack st k → s.lateMail m = false → exec (.sendAck id) s = .next (s.acked m st))
      ∧ (∀ st x, s.mem.isFull m.wd = true → (s.core m.dst).slots[m.srcSlot]? = some x → x.tid = m.srcTid → x.hold = .ack m.id →
          x.run = .forfeiting →
          (s.acked m st).mem = (s.mem.putWord m.wd ⟨st, false⟩).setExt m.wd none
          ∧ ((s.acked m st).core m.dst).slots[m.srcSlot]? = some { x with
              run := .ready, hold := .none, woken := true,
              debugHalt := if x.debugHalt = some .forfeiting then some .ready else x.debugHalt }))
  ∧ (∀ (s : State) (id : Nat) (m : Mail), s.mailOf id = some m → s.arrives m = true →
      (∀ cls payload nsr r, m.msg = .am cls payload nsr r →
        let c := s.core m.dst
        let x := c.slot 15
        s.holds m.dst m.lea = true → x.run ≠ .absent → x.lea = some m.lea → nsr = x.desc.stat.getLsbD 3 →
        ((c.classEntry cls).getLsbD 63 = false → exec (.amArrive id) s = .next (s.answer m (.amAck 0x8000000000000005#64 id)))
        ∧ ((c.classEntry cls).getLsbD 63 = true →
          (c.freeEntry (s.cycle m.dst) = none → exec (.amArrive id) s = .next
            ((s.modCore m.dst (fun c => { c with refused := c.refused + 1 })).answer m (.amAck 0x8000000000000004#64 id)))
          ∧ ∀ i, c.freeEntry (s.cycle m.dst) = some i →
            let e : MbxEntry := ⟨i, payload, senderWord (s.logicalOf m.lea m.src) m.srcSlot cls r, cls,
              if r then some (m.id, m.src) else none⟩
            let t := s.modCore m.dst (fun c => { c with mailbox := c.mailbox ++ [e] })
            exec (.amArrive id) s = .next (if r then t.dropMail id else t.answer m (.amAck 0 id))))
      ∧ (s.lateMail m = false →
        (∀ st k o, m.msg = .amAck st k → s.out id = some o →
          exec (.sendamAck id) s = .next ((s.dropMail id).fillOut o [⟨st, false⟩] Flags.none))
        ∧ (∀ st k, m.msg = .amAck st k → s.out id = none → exec (.sendamAck id) s = .next (s.acked m st))
        ∧ (∀ v k o, m.msg = .reply v k → s.out id = some o →
          exec (.sendamReply id) s = .next ((s.dropMail id).fillOut o [v] Flags.none))))

/-- R339, R340, R342, R345, R400, R403: an idle slot 15 starts the handler of the first record of the trap file before any message;
a record enters its place once what its thread issued before it is done, a waiting record of Headland its own; a fault of slot 15
ends its handler, whose sender is answered with reason 6, and drops its held accesses, which is the model's inference (log 21);
BACKOFF's wait ends when its time has come, with one attempt more. R21, R333, R335, R342: HRET sends the reply and ends the handler,
parks while slot 15 has work outstanding or its lea does not hold the pool (R381), and traps with 0x23 where its WP lies outside sg0 and
with 0x41 outside a handler; that a poisoned reply goes out poisoned, with no trap, is the model's choice (log 41). -/
def Obligations.HandlersAndRecords : Prop :=
  (∀ (s : State) (core : Nat),
    let c := s.core core
    let x := c.slot 15
    let idle : Prop := x.run = .parked ∧ c.handler = none ∧ x.lea = c.lea ∧ x.stopped = none ∧ x.vacated = false
      ∧ c.fault15 = none ∧ c.handover = none
    let me := s.logicalOf (x.lea.getD 0) core
    (∀ r, idle → firstRecord c.trapFile = some r →
      exec (.handlerStart core) s = .next (s.startHandler core (c.classEntry 0)
        (r.words ++ [⟨senderWord me (fieldAt r.w0 16 4) 0 false, false⟩]) ⟨0, none, some r.place, x.desc.wp, none⟩))
    ∧ (∀ e rest, idle → c.trapFile = [] → c.mailbox = e :: rest →
      exec (.handlerStart core) s = .next (s.startHandler core (c.classEntry e.cls &&& 0x0000FFFFFFFFFFFF#64)
        (e.payload ++ [⟨e.sender, false⟩]) ⟨e.cls, some e.idx, none, x.desc.wp, e.reply⟩))
    ∧ (c.handler.isSome = true → exec (.handlerStart core) s = .next s)
    ∧ (∀ k tid n r t, k < 15 → c.trapFile.any (fun r => r.place == k) = false → c.handover = none →
      (c.slot k).record = (tid, n, r) :: t →
      (s.quietTo tid n = true → exec (.trapRecordDeliver core k) s = .next (s.modCore core (fun c =>
        ({ c with trapFile := c.trapFile ++ [r] }).modSlot k (fun x => { x with record := t }))))
      ∧ (s.quietTo tid n = false → exec (.trapRecordDeliver core k) s = .next s))
    ∧ (∀ r, c.trapFile.any (fun r => r.place == 15) = false → c.handover = none →
      c.headRecords.find? (fun r => some r.1 == c.lea) = some r →
      exec (.trapRecordDeliver core 15) s = .next (s.modCore core (fun c =>
        { c with headRecords := c.headRecords.erase r, trapFile := c.trapFile ++ [r.2] })))
    ∧ (∀ k due dst n, let y := s.slot core k
      y.wait = .backoff due dst n → y.run = .parked → y.away c.lea = false →
      ((s.guestTime y.lea - BitVec.ofNat 64 due).toNat < 2 ^ 63 → n + 1 < 2 ^ 64 →
        exec (.backoffExpire core k) s = .next ((s.fillWord dst ⟨BitVec.ofNat 64 (n + 1), false⟩).modSlot core k Slot.wake))
      ∧ (2 ^ 63 ≤ (s.guestTime y.lea - BitVec.ofNat 64 due).toNat → exec (.backoffExpire core k) s = .next s))
    ∧ (let s1 := s.dropHeld core x.tid false
       let s2 := match c.handler with
         | some h => s1.sendReply core h ⟨0x8000000000000006#64, false⟩
         | none => s1
       (∀ cause, x.lea = c.lea → c.fault15 = some cause → s1.quiet x.tid = true →
        exec (.slot15Fault core) s = .next ((((s2.endHandler core).modCore core (fun c => { c with fault15 := none })).modSlot core 15
          (fun x => { x with owedTrap := none })).log15 (x.lea.getD 0) cause))
       ∧ (c.fault15 = none ∨ x.lea ≠ c.lea → exec (.slot15Fault core) s = .next s)))
  ∧ (∀ (s : State),
    (∀ h, s.in15 = true → s.myCore.lea = s.me.lea → s.myCore.handler = some h →
      let w := s.w 0
      (h.reply = none ∨ s.Reads [0] []) →
      (s.quiet s.me.tid = true → wpOk (s.seg 0) h.wp0.toNat = true →
        (h.reply = none → exec .hret s = .next ((s.issue 2).endHandler s.cur.1))
        ∧ (h.reply ≠ none → exec .hret s =
          .next (((s.sendReply s.cur.1 h ⟨w.val &&& 0x7FFFFFFFFFFFFFFF#64, w.bad⟩).issue 2).endHandler s.cur.1)))
      ∧ (s.quiet s.me.tid = false → exec .hret s = .next (s.park .hret))
      ∧ (s.quiet s.me.tid = true → wpOk (s.seg 0) h.wp0.toNat = false → exec .hret s = .next (s.raise 2 0x23 h.wp0)))
    ∧ (s.in15 = false → exec .hret s = .next (s.raise 2 0x41 0))
    ∧ (s.myCore.lea = s.me.lea → s.myCore.handler = none → exec .hret s = .next (s.raise 2 0x41 0))
    ∧ (s.in15 = true → s.myCore.lea ≠ s.me.lea → exec .hret s = .next (s.park .pool)))

/-- R346, R352-R356: TQPUSH reads its packet in the issuing turn and sends it to Headland; TQDONE parks until its token is
Retired, TQDONE.T reads its state; SUCCOK makes the task's own token Early; WAITPRED waits for the predecessors; YIELD gives up
the slot's turns until the next turn 0; EXIT leaves the thread Halted (R19). In slot 15 all but TQPUSH and TQDONE.T trap with 0x42. -/
def Obligations.TaskInstructions : Prop :=
  ∀ (k : BitVec 3) (b a d : BitVec 5) (s : State) (x : Nat),
    let q := (s.w b.toNat).val.toNat
    let off := (s.w a.toNat).val.toNat
    let g := s.seg k.toNat
    let t := (s.w a.toNat).val.toNat
    (s.Reads [a.toNat, b.toNat] [d.toNat] → s.exchangeFlits s.cur.1 s.me.lea < 16 → (s.w a.toNat).bad = false →
      (s.w b.toNat).bad = false → (g.space = 2 → s.myCore.lea = s.me.lea) → segFail g (s.extent g.space) off 64 [.r] [1, 2] = none → off % 64 = 0 →
      (64 ≤ q → exec (.tqpush k b a d) s = .next (s.raise 4 0x06 (s.w b.toNat).val))
      ∧ (q < 64 → s.flat s.cur.1 s.cur.2 s.me.lea g.space (g.base.toNat + off) = some x → s.ownStorePending x 64 = false →
        s.Clean ((List.range 8).map (fun i => x + 8 * i)) →
        exec (.tqpush k b a d) s = .next ((({ s with nextId := s.nextId + 1 }.post (s.newMail s.nextId s.cur.1 (s.wAddr d.toNat)
          (.packet q ((List.range 8).map (fun i => BitVec.ofNat 64 (s.mem.read (x + 8 * i) 8)))))).issue 4).modMe
            (fun y => { y with run := .forfeiting, hold := .ack s.nextId }))))
    ∧ (s.Reads [a.toNat] [d.toNat] → (s.w a.toNat).bad = false → t < 2 ^ 16 →
        exec (.tqdoneT a d) s = .next ((s.fillWord (s.wAddr d.toNat) ⟨BitVec.ofNat 64 (s.tokState t), false⟩).issue 4)
        ∧ (s.in15 = false → exec (.tqdone a d) s = .next (if s.tokState t = 2 then (s.issue 4).fillWord (s.wAddr d.toNat) ⟨2, false⟩
            else (s.issue 4).park (.token t (s.wAddr d.toNat) false))))
    ∧ (s.Reads [a.toNat] [d.toNat] → (s.w a.toNat).bad = false → 2 ^ 16 ≤ t →
        exec (.tqdoneT a d) s = .next (s.raise 4 0x06 (s.w a.toNat).val)
        ∧ (s.in15 = false → exec (.tqdone a d) s = .next (s.raise 4 0x06 (s.w a.toNat).val)))
    ∧ (s.in15 = false →
        (s.myGang = none → exec .succok s = .next (s.issue 4))
        ∧ (∀ y, s.myGang = some y → packetOwn y.packet = 0 → ∃ t, exec .succok s = .next t ∧ (∀ n, t.lea n = s.lea n) ∧ t.mem = s.mem)
        ∧ (∀ y l, s.myGang = some y → s.lea y.lea = some l →
            let own := packetOwn y.packet
            own ≠ 0 → keyFind l.tokens (own % 4096) = some (own / 4096, .pending) →
            exec .succok s = .next ((s.modLea y.lea (fun l =>
              { l with tokens := keySet l.tokens (own % 4096) (own / 4096, .early) })).issue 4))
        ∧ exec .waitpred s = .next (if s.predsDone s.me then s.issue 4 else (s.issue 4).park .pred)
        ∧ exec .yield s = .next ((s.issue 4).modMe (fun y =>
            { y with run := .forfeiting, hold := .turn0 ((s.cycle s.cur.1 / 16 + 1) * 16) }))
        ∧ exec .exit s = .next ((s.issue 4).modMe (fun y => { y with run := .halted, wait := .exit })))
    ∧ (s.in15 = true → exec (.tqdone a d) s = .next (s.raise 4 0x42 (rrBits 0x17 0 0 1 0 a d))
        ∧ exec .succok s = .next (s.raise 4 0x42 (rrBits 0x17 0 0 2 0 0 0))
        ∧ exec .waitpred s = .next (s.raise 4 0x42 (rrBits 0x17 0 0 3 0 0 0))
        ∧ exec .yield s = .next (s.raise 4 0x42 (rrBits 0x17 0 0 4 0 0 0))
        ∧ exec .exit s = .next (s.raise 4 0x42 (rrBits 0x17 0 0 5 0 0 0)))

/-- R316, R317, R334, R352: a packet that is well formed and whose token is free enters the tail of its queue and its own token
becomes Pending; a malformed one is refused with reason 0x10 and changes nothing; a token that is not retired or names its
present generation is refused with 0x11, a disabled queue with 0x13, and a full one with 0x12. Which reason is given where several
apply, and that the host's own packets enter a disabled queue, is the model's reading (log 25). -/
def Obligations.Enqueue : Prop :=
  ∀ (l : Lea) (num q : Nat) (p : List Word) (host : Bool),
    let own := packetOwn p
    let r := l.enqueue num q p host
    let pass : Prop := packetBad l.leal p = false ∧ l.ownBad own = false
    (packetBad l.leal p = true → r = (0x8000000000000010#64, l))
    ∧ (packetBad l.leal p = false → l.ownBad own = true → r = (0x8000000000000011#64, l))
    ∧ (pass → (l.queue q).off = true → host = false → r = (0x8000000000000013#64, l))
    ∧ (pass → ((l.queue q).off = false ∨ host = true) → 256 ≤ (l.queue q).packets.length → r = (0x8000000000000012#64, l))
    ∧ (pass → ((l.queue q).off = false ∨ host = true) → (l.queue q).packets.length < 256 →
        r.1 = 0 ∧ (r.2.queue q).packets = (l.queue q).packets ++ [(num, p)]
        ∧ (∀ j, j ≠ q → r.2.queue j = l.queue j)
        ∧ (own ≠ 0 → own < 65536 → r.2.readTok own = 0)
        ∧ (∀ u, u % 4096 ≠ own % 4096 → r.2.readTok u = l.readTok u))

/-- R317-R320, R334, R347, R355-R357: packets reach their queue and are answered (the host with 0, or 1 for a refusal, which is the
model's choice of answer, log 90); a dispatch pass runs at a tide boundary only; a yield and an exit end; a gang whose work is done
retires its token, 12 slots after that was first seen, which is the model's inference from R226 (log 75); at a boundary the watchdog
(R328) counts an idle tide once, a wait that ended being work, and it reports where the count comes to its limit. -/
def Obligations.TaskEvents : Prop :=
  ∀ (s : State) (lea gid : Nat),
    (∀ q p l, q < 64 → s.lea lea = some l →
      let r := l.enqueue s.now q p true
      exec (.hostEnqueue lea q p) s = .next { s.modLea lea (fun _ => r.2) with
        host := { s.host with answer := [if r.1 = 0 then 0 else 1] } })
    ∧ (∀ id m l q ws, s.mailOf id = some m → m.msg = .packet q ws → s.lea m.lea = some l → s.arrives m = true →
        let r := l.enqueue s.now q ws false
        exec (.tqpushArrive id) s = .next ((s.modLea m.lea (fun _ => r.2)).answer m (.packetAck r.1 id)))
    ∧ (∀ id m st k, s.mailOf id = some m → m.msg = .packetAck st k → s.arrives m = true → s.lateMail m = false →
        exec (.tqpushAck id) s = .next (s.acked m st))
    ∧ (∀ l, s.lea lea = some l →
        (s.now % 4096 = 0 → exec (.dispatchPass lea) s =
          .next (State.dispatchPass ((l.queues.map (fun q => q.2.packets.length)).sum) lea s))
        ∧ (s.now % 4096 ≠ 0 → exec (.dispatchPass lea) s = .next s))
    ∧ (∀ core k c, (s.slot core k).hold = .turn0 c → exec (.yieldEnd core k) s =
        .next (if c ≤ s.cycle core then s.modSlot core k (fun x =>
          { x with hold := .none, woken := true, run := if x.run = .forfeiting then .ready else x.run,
                   debugHalt := if x.debugHalt = some .forfeiting then some .ready else x.debugHalt }) else s))
    ∧ (∀ core k, let x := s.slot core k
        x.wait = .exit → x.stopped = none → x.claimed = none →
        (s.quiet x.tid = false → exec (.exitComplete core k) s = .next s)
        ∧ (s.quiet x.tid = true → x.run = .halted → x.debugHalt = none →
          exec (.exitComplete core k) s = .next ((s.modSlot core k Slot.emptied).leaveGang x.lea x.gang core k)))
    ∧ (∀ g, s.gang lea gid = some g →
        (s.gangDone g = false → exec (.taskRetire lea gid) s = .next s)
        ∧ (s.gangDone g = true → g.ended = none →
            exec (.taskRetire lea gid) s = .next (s.modGang lea gid (fun y => { y with ended := some s.now })))
        ∧ (∀ t, s.gangDone g = true → g.ended = some t → s.now < t + 12 → exec (.taskRetire lea gid) s = .next s)
        ∧ (∀ b, s.gangDone g = true → g.ended = some b → b + 12 ≤ s.now → packetOwn g.packet ≠ 0 → ∀ l, s.lea lea = some l →
            ∃ t l1, exec (.taskRetire lea gid) s = .next t ∧ t.gang lea gid = none ∧ t.lea lea = some l1
              ∧ l1.readTok (packetOwn g.packet) = 2 ∧ (l1.queue g.queue).retired = (l.queue g.queue).retired + 1)
        ∧ (s.now % 4096 = 0 → g.watched < s.tide → ∀ l, s.lea lea = some l →
            let worked : Bool := g.worked || g.members.any (fun m => s.memberHere g m && (s.slot m.core m.slot).woken)
            let counts : Bool := !worked && !(g.excluded || s.excludedNow g)
            let idle := if worked then 0 else if counts then g.idle + 1 else g.idle
            exec (.watchdogTide lea gid) s = .next ((s.clearWoken g).modGang lea gid (fun y => { y with
              idle := idle, expired := counts && l.wdlim != 0 && idle == l.wdlim, worked := false, excluded := false,
              watched := s.tide })))
        ∧ ((s.now % 4096 ≠ 0 ∨ s.tide ≤ g.watched) → exec (.watchdogTide lea gid) s = .next s)
        ∧ (∀ l, s.lea lea = some l →
            ((g.expired = false ∨ s.now % 4096 ≠ 0) → exec (.watchdogExpire lea gid) s = .next s)
            ∧ (∀ m, g.expired = true → s.now % 4096 = 0 → g.member 0 = some m →
              exec (.watchdogExpire lea gid) s = .next ((s.headRecord (l.cores.getD g.first 0) (some lea) m.slot .gang 2 0 0x54 0
                (BitVec.ofNat 64 gid) (BitVec.ofNat 64 l.wdlim)).modGang lea gid (fun y => { y with idle := 0, expired := false })))))

/-- R44, R318, R319: Place puts a gang where it fits: each of its cores has the gang's threads in free slots that have templates and
is not fenced, no two members share a slot, and its reservation lies in a run of the core's pool that no gang of its lea holds and
no template's descriptor lies in. That a slot without a template takes no thread is the model's choice (log 26). -/
def Obligations.Placement : Prop :=
  ∀ (s : State) (l : Lea) (core spc ls : Nat) (slots : List Nat) (off : Nat), s.fitsCore l core spc ls = some (slots, off) →
    s.holds core l.num = true ∧ s.head.fenced.contains core = false ∧ slots.length = spc ∧ slots.Pairwise (fun a b => a < b)
    ∧ (∀ k ∈ slots, k < 15 ∧ s.slotFree l.num core k = true ∧ (keyFind l.templates k).isSome = true)
    ∧ (∀ k, k < 15 → s.slotFree l.num core k = true → (keyFind l.templates k).isSome = true → (∃ j ∈ slots, k < j) → k ∈ slots)
    ∧ (ls = 0 → off = 0)
    ∧ (0 < ls → off % 4 = 0 ∧ off + ls ≤ 256
        ∧ (∀ g ∈ s.gangs, g.lea = l.num → ∀ r ∈ g.resv, r.1 = core → off + ls ≤ r.2.1 ∨ r.2.1 + r.2.2 ≤ off)
        ∧ ∀ t ∈ l.poolDescs, 1024 * (off + ls) ≤ t ∨ t + 256 ≤ 1024 * off)

/-- R278, R280, R281: COLLD asks for a copy of 1 to 512 words and parks; COLRUN launches a Loaded context of a member whose NSR
agrees, with n0-n7 zero, its eight launch words in q0-q7 and the rest zero, once the thread's accesses and the core's copy are done,
until when it forfeits and keeps the block that it read; a version that the record does not have makes it Failed at once; a buffer
that a participant of the run has written already is undefined here too (R220); COLWT parks while the context runs; COLST reads the
status, and its .ABORT form also asks a Running context to stop. R381: while another lea holds the core they park. That COLLD
refuses a context that is Left, and that COLRUN waits for a copy, is the model's choice (log 84). -/
def Obligations.DorentLaunch : Prop :=
  (∀ (k : BitVec 3) (b a d : BitVec 5) (s : State), s.myCore.lea ≠ s.me.lea →
    let away : Out1 := .next (s.park .pool)
    (s.Reads [a.toNat, b.toNat] [] → exec (.colld k b a) s = away)
    ∧ ((s.me.launch ≠ none ∨ s.Reads [a.toNat] []) → exec (.colrun k a) s = away)
    ∧ (s.Reads [] [d.toNat] → exec (.colwt d) s = away ∧ exec (.colst d) s = away ∧ exec (.colstAbort d) s = away))
  ∧ ∀ (k : BitVec 3) (b a d : BitVec 5) (s : State), s.myCore.lea = s.me.lea →
    let x := s.myCore.dorent
    let off := (s.w a.toNat).val.toNat
    let n := (s.w b.toNat).val.toNat
    let g := s.seg k.toNat
    (s.Reads [a.toNat, b.toNat] [] → x.copy ≠ none → exec (.colld k b a) s = .next s.forfeit)
    ∧ (s.Reads [a.toNat, b.toNat] [] → x.copy = none → (s.w a.toNat).bad = false → (s.w b.toNat).bad = false →
      ((n = 0 ∨ 512 < n) → exec (.colld k b a) s = .next (s.raise 4 0x06 (s.w b.toNat).val))
      ∧ (0 < n → n ≤ 512 → off % 8 = 0 →
          segFail g (s.extent g.space) off (8 * n) [if g.space = 7 then .x else .r] [1, 2, 3, 4, 7] = none →
        (x.state = .running → exec (.colld k b a) s = .next (s.raise 4 0x44 2))
        ∧ (x.state = .left → exec (.colld k b a) s = .next (s.raise 4 0x44 6))
        ∧ (x.state ≠ .running → x.state ≠ .left → exec (.colld k b a) s = .next (((s.modDor s.cur.1 (fun y => { y with
            copy := some ⟨s.cur.2, s.me.tid, s.pc, g, off, n, s.nextId, none, none⟩ })).issue 4).park .colld))))
    ∧ (s.Reads [] [d.toNat] →
        (x.state = .running → exec (.colwt d) s = .next ((s.issue 4).park (.coll (s.wAddr d.toNat))))
        ∧ (x.state ≠ .running → exec (.colwt d) s = .next (s.setW 4 d.toNat false x.status))
        ∧ exec (.colst d) s = .next (s.setW 4 d.toNat false x.status)
        ∧ exec (.colstAbort d) s = .next ((s.setW 4 d.toNat false x.status).modDor s.cur.1 (fun y =>
            if y.state = .running then { y with abort := true } else y)))
    ∧ (∀ (p : Nat) (r : DMember),
        let w (i : Nat) : Word := BitVec.ofNat 64 (s.mem.read (p + 8 * i) 8)
        let gid := (w 0).toNat % 2 ^ 16
        s.me.launch = none → s.Reads [a.toNat] [] → (s.w a.toNat).bad = false → segFail g (s.extent g.space) off 256 [.r] [1, 2] = none →
        off % 256 = 0 → x.state = .loaded → s.flat s.cur.1 s.cur.2 s.me.lea g.space (g.base.toNat + off) = some p →
        s.ownStorePending p 256 = false → s.Clean ((List.range 32).map (fun i => p + 8 * i)) →
        s.launchBad w = false → x.record gid = some r → (w 1).getLsbD 16 = r.rank.isNone → s.nsr = r.nsr →
        (List.range 8).findSome? (s.bufFail w) = none →
        ((s.accessesDone false = false ∨ x.copy ≠ none) → exec (.colrun k a) s =
          .next (s.forfeit.modMe (fun x => { x with launch := some ((List.range 32).map w) })))
        ∧ (s.accessesDone false = true → x.copy = none → ∃ t, exec (.colrun k a) s = .next t
            ∧ (t.myCore.dorent.state = .running → x.late = [] → s.spoiledIn s.cur.1 gid = [] → t.mem = s.mem)
            ∧ (t.myCore.dorent.state = .running → ∀ j b, j ∈ s.spoiledIn s.cur.1 gid → t.myCore.dorent.bufs.getD j none = some b →
                j ∈ t.myCore.dorent.spoiled)
            ∧ t.myCore.dorent.gid = r.gid ∧ t.myCore.dorent.pc = 0
            ∧ t.myCore.dorent.state = (if (w 0).toNat / 2 ^ 32 % 2 ^ 32 = 0 ∨ (w 0).toNat / 2 ^ 32 % 2 ^ 32 = r.ver.toNat
                then .running else .failed)
            ∧ (∀ i, i < 8 → t.myCore.dorent.n.getD i 1 = 0)
            ∧ (∀ i, i < 8 → t.myCore.dorent.qv i = w (2 + i)) ∧ (∀ i, 8 ≤ i → t.myCore.dorent.qv i = 0)))
    ∧ (∀ (l : List Word) (r : DMember),
        let w (i : Nat) : Word := l.getD i 0
        let gid := (w 0).toNat % 2 ^ 16
        s.me.launch = some l → x.state = .loaded → x.record gid = some r → (w 1).getLsbD 16 = r.rank.isNone → s.nsr = r.nsr →
        (List.range 8).findSome? (s.bufFail w) = none → s.accessesDone false = true → x.copy = none →
        ∃ t, exec (.colrun k a) s = .next t
          ∧ (t.myCore.dorent.state = .running → x.late = [] → s.spoiledIn s.cur.1 gid = [] → t.mem = s.mem) ∧ t.myCore.dorent.gid = r.gid
          ∧ ∀ i, i < 8 → t.myCore.dorent.qv i = w (2 + i))

/-- R272, R276, R282, R283, R289-R294: what the Dorent instructions over registers, counters and the program counter do in a
Running context that is not parked; PC is of 9 bits. DHALT waits for the outstanding instructions, and its closing barrier begins
when the core's exchange queue takes its message (that it meets at rank 0 is log 85). -/
def Obligations.DorentRegisters : Prop :=
  ∀ (s : State) (r : DMember) (qa qb : BitVec 4) (n : BitVec 3) (imm : BitVec 32) (tgt : BitVec 9),
    let c := s.cur.1
    let d := s.dor c
    d.state = .running → d.park = none → d.mine = some r →
    let a := d.qv qa.toNat
    let go (f : Dorent → Dorent) : Out1 :=
      .next (((s.modDor c (fun d => { f d with pc := (d.pc + 1) % 512, wait := .none })).workedOn c).hush c true)
    let jump (f : Dorent → Dorent) : Out1 :=
      .next (((s.modDor c (fun d => { f d with pc := tgt.toNat, wait := .none })).workedOn c).hush c true)
    let set (v : Word) (d : Dorent) : Dorent := { d with q := d.q.set qa.toNat v }
    let put (v : Word) : Out1 := go (set v)
    let fail (e : BitVec 8) : Out1 := .next (s.dStop c .failed e d.pc)
    exec (.dnextAdd qa imm) s = put (a + imm.signExtend 64)
    ∧ exec (.dnextMod qa qb imm) s = put (BitVec.ofNat 64 (if (d.qv qb.toNat).toNat = 0 then a.toNat + imm.toNat
        else (a.toNat + imm.toNat) % (d.qv qb.toNat).toNat))
    ∧ exec (.dnextSet qa imm) s = put (imm.signExtend 64)
    ∧ exec (.dnextMov qa qb imm) s = put (d.qv qb.toNat + imm.signExtend 64)
    ∧ exec (.dnextMul qa qb imm) s = put (d.qv qb.toNat * imm.setWidth 64)
    ∧ (∀ k, r.rank = some k → exec (.dnextRnk qa imm) s = put (BitVec.ofNat 64 ((k + imm.toNat) % r.size)))
    ∧ (r.rank = none → exec (.dnextRnk qa imm) s = fail 0x06)
    ∧ exec (.dloop qa tgt) s = (if a - 1 = 0 then go (set (a - 1)) else jump (set (a - 1)))
    ∧ exec (.dloopJmp tgt) s = jump (fun d => d)
    ∧ exec (.dloopBz qa tgt) s = (if a = 0 then jump (fun d => d) else go (fun d => d))
    ∧ exec (.dloopBnz qa tgt) s = (if a = 0 then go (fun d => d) else jump (fun d => d))
    ∧ (d.ops.length < 8 → exec (.dsigLoc n imm) s = go (fun d => { d with n := d.n.set n.toNat (d.n.getD n.toNat 0 + imm) }))
    ∧ exec (.dverRd qa) s = go (fun d => d.putVersion qa.toNat r)
    ∧ (∀ tb tmo, imm ≤ d.n.getD n.toNat 0 → exec (.dwait n tgt tb tmo imm) s = go (fun d => d))
    ∧ (∀ tb tmo, d.n.getD n.toNat 0 < imm → d.wait = .none → exec (.dwait n tgt tb tmo imm) s =
        .next ((s.modDor c (fun d => { d with
          parkedTides := 0
          wait := .count n.toNat imm.toNat s.tide (if tmo = 0 then d.tmo else tmo.toNat)
            (if tb = 1 then some tgt.toNat else none) })).workedOn c))
    ∧ (d.ops = [] → d.wait = .none →
        (∀ code, code ≠ 0 → exec (.dhalt code) s = fail (0x80#8 + code.setWidth 8))
        ∧ (s.exchangeFlits c (s.core c).lea < 16 → exec (.dhalt 0) s = .next (((s.dPost c r.meet (.control 0)).modDor c (fun d =>
            { d with parkedTides := 0, wait := .closing s.tide })).workedOn c))
        ∧ (16 ≤ s.exchangeFlits c (s.core c).lea → exec (.dhalt 0) s = .next s))
    ∧ ((d.ops ≠ [] ∨ d.wait ≠ .none) → ∀ code, exec (.dhalt code) s = .next s)
    ∧ (∀ e, exec (.dorentDecodeFault e) s = fail e)

/-- R283, R285-R289, R298: what the Dorent instructions over buffers, channels and trees do in a Running context: a chunk
outside its buffer fails with 0x03, an unbound record with 0x04, a circuit that is down with 0x0E; a good one is one more
outstanding instruction; a signal, a join, a barrier and a vote send their message, for which they wait while the core's exchange
queue is full, and the last three then wait for their outcome (R322, R324; that these messages exist is log 85). -/
def Obligations.DorentTransfers : Prop :=
  ∀ (s : State) (r : DMember) (buf sbuf ch : BitVec 3) (tree : BitVec 2) (qo qs : BitVec 4) (ce : BitVec 1) (cnt op : BitVec 3)
      (len : BitVec 32) (rate : BitVec 16),
    let c := s.cur.1
    let d := s.dor c
    d.state = .running → d.park = none → d.mine = some r →
    let off := (d.qv qo.toNat).toNat
    let n := len.toNat
    let k : Option Nat := if ce = 1 then some cnt.toNat else none
    let go (f : Dorent → Dorent) : Out1 :=
      .next (((s.modDor c (fun d => { f d with pc := (d.pc + 1) % 512, wait := .none })).workedOn c).hush c true)
    let asks (dst : Nat) (w : DWaiting) : Out1 := .next (if 16 ≤ s.exchangeFlits c (s.core c).lea then s
      else ((s.dPost c dst (.control 0)).modDor c (fun d => { d with wait := w, parkedTides := 0 })).workedOn c)
    let fail (e : BitVec 8) : Out1 := .next (s.dStop c .failed e d.pc)
    let room (kind b o t sb so : Nat) : Prop := s.mustWait c d kind b o n t sb so = false
    (room 0 buf.toNat off ch.toNat 0 0 → d.chunkBad buf.toNat off n = false → ∀ peer circ seq,
      (d.chans.getD ch.toNat .unbound = .bound peer true circ seq true → exec (.dsend buf ch qo ce cnt len) s = go (fun d =>
        { (d.addOp (d.newOp 0 buf.toNat off n ch.toNat seq k)) with chans := d.chans.set ch.toNat (.bound peer true circ (seq + 1) true) }))
      ∧ (d.chans.getD ch.toNat .unbound = .bound peer true circ seq false → exec (.dsend buf ch qo ce cnt len) s = fail 0x0E)
      ∧ (d.chans.getD ch.toNat .unbound = .unbound → exec (.dsend buf ch qo ce cnt len) s = fail 0x04)
      ∧ (d.chans.getD ch.toNat .unbound = .nil true → exec (.dsend buf ch qo ce cnt len) s = go (fun d => d.addCe k)))
    ∧ (room 0 buf.toNat off ch.toNat 0 0 → d.chunkBad buf.toNat off n = true → exec (.dsend buf ch qo ce cnt len) s = fail 0x03)
    ∧ (room 1 buf.toNat off ch.toNat 0 0 → d.chunkBad buf.toNat off n = false → ∀ peer circ seq,
        d.chans.getD ch.toNat .unbound = .bound peer false circ seq true → exec (.drecv buf ch qo ce cnt len) s = go (fun d =>
          { (d.addOp (d.newOp 1 buf.toNat off n ch.toNat seq k)) with chans := d.chans.set ch.toNat (.bound peer false circ (seq + 1) true) }))
    ∧ (let so := (d.qv qs.toNat).toNat
       room 2 buf.toNat off 0 sbuf.toNat so → d.chunkBad buf.toNat off n = false → d.chunkBad sbuf.toNat so n = false →
        (¬(buf = sbuf ∧ off < so + n ∧ so < off + n) → exec (.dcopy buf sbuf qo ce cnt qs len) s =
          go (fun d => d.addOp { (d.newOp 2 buf.toNat off n 0 0 k) with sbuf := sbuf.toNat, soff := so }))
        ∧ (buf = sbuf → off < so + n → so < off + n → exec (.dcopy buf sbuf qo ce cnt qs len) s = fail 0x0D))
    ∧ (room 3 buf.toNat off tree.toNat 0 0 → d.chunkBad buf.toNat off n = false → ∀ y, d.trees.getD tree.toNat none = some y →
        y.up = true → (d.bufs.getD buf.toNat none).any (fun b => b.fmt == 6) = false →
        exec (.dred buf tree qo ce cnt op len) s = go (fun d =>
          { (d.addOp { (d.newOp 3 buf.toNat off n tree.toNat y.rounds k) with op := op.toNat }) with
            trees := d.trees.set tree.toNat (some { y with rounds := y.rounds + 1 }) }))
    ∧ (d.ops.length < 8 → ∀ peer circ seq, d.chans.getD ch.toNat .unbound = .bound peer true circ seq true →
        exec (.dsig cnt ch len) s = .next (if 16 ≤ s.exchangeFlits c (s.core c).lea then s
          else (((s.dPost c (r.list.getD peer 0) (.control (d.nextOp + 1))).modDor c (fun d =>
            { (d.addOp { (d.newOp 4 0 0 0 ch.toNat seq none) with ctr := cnt.toNat, amt := len }) with
              pc := (d.pc + 1) % 512, wait := .none })).workedOn c).hush c true))
    ∧ (d.wait = .none → r.rank ≠ none →
        let p := d.qv qo.toNat
        (p ≠ 0xFFFFFFFFFFFFFFFF#64 → p.toNat < r.size → rate ≠ 0 → d.busyOn false ch.toNat = false →
          exec (.djoinSend ch qo rate) s = asks c (.join ⟨false, ch.toNat, true, p.toNat, none, [], rate.toNat⟩ s.tide none)
          ∧ exec (.djoinRecv ch qo rate) s = asks c (.join ⟨false, ch.toNat, false, p.toNat, none, [], rate.toNat⟩ s.tide none))
        ∧ (p ≠ 0xFFFFFFFFFFFFFFFF#64 → r.size ≤ p.toNat →
          exec (.djoinSend ch qo rate) s = fail 0x06 ∧ exec (.djoinRecv ch qo rate) s = fail 0x06)
        ∧ (p = 0xFFFFFFFFFFFFFFFF#64 → rate ≠ 0 → d.busyOn true tree.toNat = false →
          exec (.djoinTree tree qo qs 0 rate) s =
            asks c (.join ⟨true, tree.toNat, false, 0, none, [none, none, none, none], rate.toNat⟩ s.tide none)))
    ∧ (d.wait = .none →
        (∀ tgt tb tmo, exec (.dbar tgt tb tmo) s = .next (if 16 ≤ s.exchangeFlits c (s.core c).lea then s
          else ((s.dPost c r.meet (.control 0)).modDor c (fun x =>
            { x with
              parkedTides := 0
              barriers := x.barriers + 1
              wait := .barrier (d.barriers + 1) s.tide (if tmo = 0 then d.tmo else tmo.toNat)
                (if tb = 1 then some tgt.toNat else none) })).workedOn c))
        ∧ (∀ t, r.size ≤ (d.qv qo.toNat).toNat / 256 % 256 → exec (.dverAgree qo t) s = fail 0x06)
        ∧ (∀ t, (d.qv qo.toNat).toNat / 256 % 256 < r.size → exec (.dverAgree qo t) s =
            asks (r.list.getD ((d.qv qo.toNat).toNat / 256 % 256) 0) (.agree qo.toNat t.toNat ((d.qv qo.toNat).toNat / 256 % 256) ((d.qv qo.toNat).getLsbD 0) (s.tide + 1) false none)))

/-- R41-R44, R225, R408, R418: CRD and CWR of the registers named here read and write them; an unassigned index below 0x070 and one
at or above 0x100 trap with 0x01 and, at user level, the supervisor's registers with 0x04; the capability words are read, and one
that is not listed reads as zero; a user-level write of a register that is read-only there is ignored. That ROT reads as what was
written last, also before it is in force, is the model's choice (log 95), and that TRAPV and ROT wait for the pool's lea its reading
(log 27); which units the counts of CAPUNITS leave out is log 71. STAT waits for the flags owed, and TIME for earlier acquires;
SEGLD writes a segment register from two doublewords. -/
def Obligations.ControlRegisters : Prop :=
  ∀ (i : BitVec 12) (a b d : BitVec 5) (k : BitVec 3) (s : State),
    let v := (s.w a.toNat).val
    let keep (f : Desc → Desc) : Out1 := .next ((s.modDesc f).issue 4)
    let stray : Prop := i.toNat < 0x070 ∧ ¬ i.toNat ≤ 0x006 ∧ ¬ (0x010 ≤ i.toNat ∧ i.toNat ≤ 0x027)
      ∧ i.toNat ∉ [0x030, 0x031, 0x040, 0x041, 0x042, 0x043, 0x044, 0x045, 0x050, 0x051, 0x052, 0x053, 0x060]
    (s.Reads [] [d.toNat] →
      (stray → exec (.crd i d) s = .next (s.raise 4 0x01 (crdBits i d)))
      ∧ (s.priv = false → s.myCore.lea = s.me.lea → ∀ j ∈ [0x031#12, 0x045, 0x050, 0x060],
          exec (.crd j d) s = .next (s.raise 4 0x04 (crdBits j d)))
      ∧ (s.myCore.lea ≠ s.me.lea → exec (.crd 0x050 d) s = .next (s.park .pool) ∧ exec (.crd 0x060 d) s = .next (s.park .pool))
      ∧ (s.priv = true → s.myCore.lea = s.me.lea →
          exec (.crd 0x050 d) s = .next (s.setW 4 d.toNat false (s.myCore.trapv &&& 0x0000FFFFFFFFFFFF#64))
          ∧ exec (.crd 0x060 d) s = .next (s.setW 4 d.toNat false (s.myCore.rotNext.getD s.myCore.rot)))
      ∧ (∀ l, s.myLea = some l →
          let reads (j : BitVec 12) (w : Word) : Prop := exec (.crd j d) s = .next (s.setW 4 d.toNat false w)
          reads 0x043 (BitVec.ofNat 64 l.leab) ∧ reads 0x044 (BitVec.ofNat 64 l.cores.length)
          ∧ reads 0x072 (BitVec.ofNat 64 (l.perPair % 2 ^ 16 + Nat.log2 l.xp * 2 ^ 16)) ∧ reads 0x074 (BitVec.ofNat 64 l.bulk)
          ∧ reads 0x070 1
          ∧ reads 0x071 (BitVec.ofNat 64 (s.coresPresent + s.groupsPresent * 2 ^ 16 + s.channelsPresent * 2 ^ 32))
          ∧ reads 0x073 (BitVec.ofNat 64 (16 - s.head.disabledPorts.length + 7 * 2 ^ 8))
          ∧ (0x075 ≤ i.toNat → i.toNat < 0x100 → reads i 0)
          ∧ (s.priv = true → reads 0x031 l.gtoff ∧ reads 0x045 (keyGet 0 l.s1root (dieOf s.cur.1))))
      ∧ (0x100 ≤ i.toNat → exec (.crd i d) s = .next (s.raise 4 0x01 (crdBits i d)))
      ∧ (0x010 ≤ i.toNat → i.toNat ≤ 0x027 →
          (s.priv = false → exec (.crd i d) s = .next (s.raise 4 0x04 (crdBits i d)))
          ∧ (s.priv = true → exec (.crd i d) s = .next (s.setW 4 d.toNat false
              (let g := s.seg ((i.toNat - 16) / 3)
               match (i.toNat - 16) % 3 with
               | 0 => g.base.setWidth 64
               | 1 => g.limit.setWidth 64
               | _ => g.attr.setWidth 64))))
      ∧ (∀ p ∈ [(0x001#12, s.desc.fmtd), (0x002, s.desc.scla), (0x003, s.desc.sclb), (0x004, s.me.tdp), (0x005, s.desc.wp),
            (0x006, s.desc.vp), (0x040, s.me.gangReg), (0x042, s.me.slotReg), (0x051, s.desc.tcause), (0x052, s.desc.tpc),
            (0x053, s.desc.tval), (0x041, if s.priv then s.me.coreReg else s.me.coreReg &&& 0xFFFFFFFF)],
          exec (.crd p.1 d) s = .next (s.setW 4 d.toNat false p.2))
      ∧ (s.flagsOwed = false → exec (.crdStat d) s = .next (s.setW 4 d.toNat false s.desc.stat))
      ∧ (s.flagsOwed = true → exec (.crdStat d) s = .next s.forfeit)
      ∧ ((s.myOuts.all (fun o => match o.work with
            | .access x => !x.acq || x.allDone
            | _ => true)) = true → exec (.crdTime d) s = .next (s.setW 4 d.toNat false (s.guestTime s.me.lea))))
    ∧ (s.Reads [a.toNat] [] → (s.w a.toNat).bad = false →
        (0x100 ≤ i.toNat → exec (.cwr i a) s = .next (s.raise 4 0x01 (cwrBits i a)))
        ∧ (stray → exec (.cwr i a) s = .next (s.raise 4 0x01 (cwrBits i a)))
        ∧ (0x070 ≤ i.toNat → i.toNat < 0x100 → exec (.cwr i a) s = .next (s.issue 4))
        ∧ (s.myCore.lea ≠ s.me.lea → exec (.cwr 0x050 a) s = .next (s.park .pool) ∧ exec (.cwrRot a) s = .next (s.park .pool))
        ∧ (∀ c ∈ [0x040#12, 0x042, 0x043, 0x044, 0x070, 0x073], exec (.cwr c a) s = .next (s.issue 4))
        ∧ (s.priv = false →
            (0x010 ≤ i.toNat → i.toNat ≤ 0x027 → exec (.cwr i a) s = .next (s.raise 4 0x04 (cwrBits i a)))
            ∧ (∀ c ∈ [0x001#12, 0x002, 0x003, 0x051, 0x052, 0x053], exec (.cwr c a) s = .next (s.issue 4))
            ∧ exec (.cwrTdp a) s = .next (s.issue 4) ∧ exec (.cwr 0x045 a) s = .next (s.raise 4 0x04 (cwrBits 0x045 a))
            ∧ exec (.cwrGtoff a) s = .next (s.raise 4 0x04 (cwrBits 0x031 a)))
        ∧ (s.priv = true →
            exec (.cwr 0x001 a) s = keep (fun d => { d with fmtd := v })
            ∧ exec (.cwr 0x002 a) s = keep (fun d => { d with scla := v })
            ∧ exec (.cwr 0x003 a) s = keep (fun d => { d with sclb := v })
            ∧ exec (.cwr 0x051 a) s = keep (fun d => { d with tcause := v })
            ∧ exec (.cwr 0x052 a) s = keep (fun d => { d with tpc := v })
            ∧ exec (.cwr 0x053 a) s = keep (fun d => { d with tval := v })
            ∧ exec (.cwr 0x045 a) s = .next ((s.modLea (s.me.lea.getD 0) (fun l =>
                { l with s1root := keySet l.s1root (dieOf s.cur.1) (v &&& 0x0000FFFFFFFF0000#64) })).issue 4)
            ∧ (s.myCore.lea = s.me.lea → exec (.cwr 0x050 a) s =
                .next ((s.modMyCore (fun c => { c with trapv := v &&& 0x0000FFFFFFFFFFFE#64 })).issue 4))
            ∧ exec (.cwrGtoff a) s =
                .next ((s.modLea (s.me.lea.getD 0) (fun l => { l with gtoffNext := some (v, s.now) })).issue 4))
        ∧ (s.flagsOwed = false → exec (.cwrStat a) s = keep (fun d =>
            { d with stat := (d.stat &&& 0x200#64) ||| (v &&& 0x1FF#64) }))
        ∧ (let w := v &&& ~~~7#64
           exec (.cwrWp a) s = if windowOk (s.seg 0) w.toNat 256 then keep (fun d => { d with wp := w }) else .next (s.raise 4 0x23 w))
        ∧ (let w := v &&& ~~~255#64
           exec (.cwrVp a) s = if windowOk (s.seg 0) w.toNat 4224 then keep (fun d => { d with vp := w }) else .next (s.raise 4 0x23 w))
        ∧ (s.priv = true → s.myCore.lea = s.me.lea →
            (rotOk v = true → exec (.cwrRot a) s = .next ((s.modMyCore (fun c => { c with rotNext := some v })).issue 4))
            ∧ (rotOk v = false → exec (.cwrRot a) s = .next (s.raise 4 0x51 v))))
    ∧ (s.priv = true → s.Reads [a.toNat, b.toNat] [] → (s.w a.toNat).bad = false → (s.w b.toNat).bad = false → 0 < k.toNat → k.toNat < 7 →
        exec (.segld b a k) s = keep (fun d => { d with segs := d.segs.set k.toNat (segOf (s.w a.toNat).val (s.w b.toNat).val) }))

/-- R31, R375, R381, R397, R409-R419: TRAP and BRK raise 0x08 and 0x09, but a BRK that debug captures halts its thread and leaves a
record in the debug log, with PC still at it (the model's reading, log 42); HALT raises 0x0A once the thread is quiet, and until
then its thread is Forfeiting, which is the model's reading of a wait for which R410 names no state (log 53); WFM parks until its
deadline, and traps with 0x42 in slot 15 whatever its source (log 109, the model's choice); the privileged instructions raise 0x04
at user level, ERET restarts a Halted slot, RESUME reissues what a unit of each kind holds, PREEMPT claims a slot, CTXLD loads an
Absent one, from the descriptor at a TDP, clean or poisoned, or from a context-area entry whose GEN it checks, TLBINV drops
translations, ROTSET waits for its rotation, and CWR of TDP begins a switch to its own or another descriptor, whose window it
checks; a thread that waits for one of these is Forfeiting, or Parked for CTXLD. -/
def Obligations.SystemInstructions : Prop :=
  ∀ (c : BitVec 10) (a b d : BitVec 5) (s : State),
    let va := (s.w a.toNat).val
    let vb := (s.w b.toNat).val
    let k := va.toNat % 16
    let x := s.slot s.cur.1 k
    let trap (n : BitVec 8) (v : Word) : Out1 := .next (s.raise 4 n v)
    let hold (t : State) (h : Hold) : State := t.modMe (fun y => { y with run := .forfeiting, hold := h })
    let away (tdp : Nat) : Prop := (0x80000 ≤ tdp ∨ 0x80000 ≤ s.me.tdp.toNat) ∧ s.myCore.lea ≠ s.me.lea
    let window (tdp : Nat) : Option Word := (descOf (s.descWord s.cur.1 tdp)).windowFail
    let poisoned (tdp : Nat) : Bool := (s.descPoison s.cur.1 tdp).isSome
    let gone (die : Nat) (all : Bool) : State := (s.flushLea (s.me.lea.getD 0)).dropGtb (s.me.lea.getD 0) die all va.toNat
    exec (.trap c) s = trap 0x08 (c.setWidth 64)
    ∧ ((s.dbg.brkcap = false ∨ s.dbg.lea = none ∨ s.dbg.lea ≠ s.me.lea) → exec (.brk c) s = trap 0x09 (c.setWidth 64))
    ∧ (s.dbg.brkcap = true → s.dbg.lea ≠ none → s.dbg.lea = s.me.lea → exec (.brk c) s = .next
        { s.modMe Slot.debugStop with
          dbg := { s.dbg with log := s.dbg.log ++ [(0x09, 16 * s.cur.1 + s.cur.2, s.pc.toNat, c.toNat)] } })
    ∧ exec .halt s = .next (if s.quiet s.me.tid then s.raise 4 0x0A 0 else s.forfeit)
    ∧ (s.cur.2 ≠ 15 → s.Reads [a.toNat] [] → (s.w a.toNat).bad = false → exec (.wfm a) s = .next
        (if va.toNat ≤ (s.guestTime s.me.lea).toNat then s.issue 4 else (s.issue 4).park (.time va.toNat)))
    ∧ (s.cur.2 = 15 → exec (.wfm a) s = trap 0x42 (rrBits 0x1A 0 0 3 0 a 0))
    ∧ (s.priv = false →
        exec (.eret b a) s = trap 0x04 (rrBits 0x1B 0 0 0 b a 0) ∧ exec (.resume a) s = trap 0x04 (rrBits 0x1B 0 0 1 0 a 0)
        ∧ exec (.preempt a d) s = trap 0x04 (rrBits 0x1B 0 0 2 0 a d) ∧ exec (.ctxld b a) s = trap 0x04 (rrBits 0x1B 0 0 3 b a 0)
        ∧ exec (.tlbinv b a) s = trap 0x04 (rrBits 0x1B 0 0 4 b a 0) ∧ exec (.segld b a 0) s = trap 0x04 (rrBits 0x1B 0 0 5 b a 0)
        ∧ exec (.rotset a) s = trap 0x04 (rrBits 0x1B 0 0 6 0 a 0))
    ∧ (s.priv = true → s.Reads [a.toNat, b.toNat] [] → (s.w a.toNat).bad = false → (s.w b.toNat).bad = false →
        (s.accessesDone false = true → va &&& ~~~0x30F#64 = 0 → k ≠ 15 → x.run = .halted → x.lea = s.me.lea → x.debugHalt = none →
          x.wait ≠ .exit → x.recordWaits (s.myCore.trapFile.any (fun r => r.place == k)) = false → vb.getLsbD 0 = false → exec (.eret b a) s = .next ((s.issue 4).modSlot s.cur.1 k (fun y =>
            y.restart (if va.getLsbD 9 then vb else x.desc.tpc) (va.getLsbD 8))))
        ∧ (s.accessesDone false = true → va &&& ~~~0x30F#64 = 0 → k ≠ 15 →
          x.recordWaits (s.myCore.trapFile.any (fun r => r.place == k)) = true → exec (.eret b a) s = trap 0x50 va)
        ∧ (s.accessesDone true = true → vb &&& ~~~0x107#64 = 0 →
            (vb.getLsbD 8 = false → exec (.tlbinv b a) s = .next (hold ((gone (vb.toNat % 8) false).issue 4)
              (.tlb (vb.toNat % 8) false va.toNat)))
            ∧ (vb.getLsbD 8 = true → exec (.tlbinvAll b a) s = .next (hold ((gone (vb.toNat % 8) true).issue 4)
              (.tlb (vb.toNat % 8) true va.toNat))))
        ∧ (va &&& ~~~0x10F#64 = 0 → va.getLsbD 8 = true → tdpFail k vb.toNat = none →
            (s.myCore.sliceOwner k ≠ s.me.lea → exec (.ctxldTdp b a) s = .next (s.park .pool))
            ∧ (s.myCore.sliceOwner k = s.me.lea → (x.run ≠ .absent ∨ x.claimed ≠ none ∨ x.loading ≠ none) →
              exec (.ctxldTdp b a) s = trap 0x50 va)
            ∧ (s.myCore.sliceOwner k = s.me.lea → x.run = .absent → x.claimed = none → x.loading = none → 0x80000 ≤ vb.toNat →
              s.myCore.lea ≠ s.me.lea → exec (.ctxldTdp b a) s = .next (s.park .pool)))
        ∧ (va &&& ~~~0x10F#64 = 0 → x.run = .absent → x.claimed = none → x.loading = none → s.myCore.sliceOwner k = s.me.lea →
            (va.getLsbD 8 = true → tdpFail k vb.toNat = none → (0x80000 ≤ vb.toNat → s.myCore.lea = s.me.lea) →
              ((poisoned vb.toNat = true ∨ window vb.toNat = none) → exec (.ctxldTdp b a) s =
                .next (((s.issue 4).modSlot s.cur.1 k (fun y => { y with
                  loading := some (s.cur.2, vb.toNat, none) })).park .ctxld))
              ∧ (∀ w, poisoned vb.toNat = false → window vb.toNat = some w → exec (.ctxldTdp b a) s = trap 0x23 w))
            ∧ (va.getLsbD 8 = false →
              let key := (s.me.lea.getD 0, vb.toNat % 2048)
              let gen := (s.myCore.ctxGen.find? (fun p => p.1 == key)).elim 0 (fun p => p.2)
              (∀ e, s.myCore.ctx.find? (fun p => p.1 == key) = some (key, e) → vb.getLsbD 11 = false → vb.toNat / 4096 % 16 = gen →
                (e.slot = k → (0x80000 ≤ e.tdp.toNat → s.myCore.lea = s.me.lea) → exec (.ctxld b a) s = .next (((s.issue 4).modSlot s.cur.1 k (fun y => { y with
                  loading := some (s.cur.2, e.tdp.toNat, some (vb.toNat % 2048)) })).park .ctxld))
                ∧ (e.slot ≠ k → exec (.ctxld b a) s = trap 0x50 va))
              ∧ ((s.myCore.ctx.find? (fun p => p.1 == key) = none ∨ vb.getLsbD 11 = true ∨ vb.toNat / 4096 % 16 ≠ gen) →
                exec (.ctxld b a) s = trap 0x53 (vb &&& 0xFFFF#64)))))
    ∧ (s.priv = true → s.Reads [a.toNat] [d.toNat] → (s.w a.toNat).bad = false →
        (s.myCore.lea = s.me.lea → rotOk va = true → exec (.rotset a) s =
          .next (hold ((s.modMyCore (fun c => { c with rotNext := some va })).issue 4) .rot))
        ∧ (let unit := va.toNat / 16 % 8
           ((va &&& ~~~0x7F#64 ≠ 0 ∨ 4 ≤ unit ∨ (unit ≠ 0 ∧ k ≠ 0)) → exec (.resume a) s = trap 0x06 va)
           ∧ (va &&& ~~~0x7F#64 = 0 → unit = 0 → (x.run = .absent ∨ x.lea ≠ s.me.lea) → exec (.resume a) s = .next (s.issue 4))
           ∧ (va &&& ~~~0x7F#64 = 0 → unit = 0 → x.run ≠ .absent → x.lea = s.me.lea → ∃ t, exec (.resume a) s = .next t ∧ t.mem = s.mem
              ∧ t.outs = s.outs.map (fun o => if o.tid = x.tid then o.mapParts Part.reissue else o)
              ∧ (x.wait = .fetch none → x.run = .parked → k ≠ s.cur.2 →
                  (t.slot s.cur.1 k).run = x.hold.run ∧ (t.slot s.cur.1 k).wait = .none)
              ∧ (∀ y, s.myCore.dorent.copy = some y → y.tid = x.tid → y.parked = some none →
                  t.myCore.dorent.copy = some { y with parked := none }))
           ∧ (va &&& ~~~0x7F#64 = 0 → 1 ≤ unit → unit < 4 → k = 0 → s.myCore.lea ≠ s.me.lea → exec (.resume a) s = .next (s.issue 4))
           ∧ (va &&& ~~~0x7F#64 = 0 → k = 0 → s.myCore.lea = s.me.lea →
              (unit = 1 → exec (.resume a) s = .next ((s.modEngine s.cur.1 (fun y => { y with
                active := y.active.map (fun z => if z.parked = some none then { z with parked := none } else z) })).issue 4))
              ∧ (∀ j, unit = 2 → s.myCore.bay.port = some j → j.parked = some none → exec (.resume a) s =
                .next ((s.modBay s.cur.1 (fun y => { y with port := some { j with parked := none } })).issue 4))
              ∧ (unit = 2 → (∀ j, s.myCore.bay.port = some j → j.parked ≠ some none) → exec (.resume a) s = .next (s.issue 4))
              ∧ (unit = 3 → exec (.resume a) s = .next ((s.modCore s.cur.1 (fun y => { y with dorent := { y.dorent with
                park := if y.dorent.park = some none then none else y.dorent.park } })).issue 4))))
        ∧ (tdpFail s.cur.2 va.toNat = none →
            (away va.toNat → exec (.cwrTdp a) s = .next (s.park .pool))
            ∧ (¬ away va.toNat →
              ((va = s.me.tdp ∨ poisoned va.toNat = true ∨ window va.toNat = none) →
                exec (.cwrTdp a) s = .next (hold (s.issue 4) (.switching va.toNat)))
              ∧ (∀ w, va ≠ s.me.tdp → poisoned va.toNat = false → window va.toNat = some w → exec (.cwrTdp a) s = trap 0x23 w)))
        ∧ (va &&& ~~~0x10F#64 = 0 → k ≠ 15 → k ≠ s.cur.2 → x.run ≠ .absent → x.lea = s.me.lea → x.claimed = none → x.loading = none →
            let claim (i : Option Nat) : Out1 := .next (hold ((s.issue 4).modSlot s.cur.1 k (fun y =>
              { y with claimed := some (s.cur.2, s.wAddr d.toNat, i) })) (.preempting k))
            (va.getLsbD 8 = true → exec (.preemptDrop a d) s = claim none)
            ∧ (∀ i, va.getLsbD 8 = false → s.myCore.freeCtx (s.me.lea.getD 0) = some i → exec (.preempt a d) s = claim (some i))))

/-- R17, R31, R223, R227, R378, R405, R411, R414, R416, R417: a thread's deadline, switch, save, load and dropped translations
complete once their condition holds; a new ROT takes effect at a turn 0 that is still to come, outside a handover, and GTOFF at the
first tide boundary after its write; a resident frame wakes its waiters; a replay holds its link for 4,096 slots. In a handover a load
of CTXLD waits for the slots, and for the pool where its descriptor lies there (R375, R381). -/
def Obligations.SystemEvents : Prop :=
  ∀ (c k f l : Nat) (s : State), k < (s.core c).slots.length →
    let x := s.slot c k
    let present (issuer tdp : Nat) : Prop := ∀ h, (s.core c).handover = some h →
      k ∈ h.restored ∧ issuer ∈ h.restored ∧ (0x80000 ≤ tdp → (s.core c).lea = some h.into)
    (∀ due, x.wait = .time due → x.run = .parked →
      exec (.wfmExpire c k) s = .next (if due ≤ (s.guestTime x.lea).toNat then s.modSlot c k Slot.wake else s))
    ∧ (∀ tdp, x.hold = .switching tdp → x.claimed = none → x.stopped = none →
        let held : Prop := (0x80000 ≤ tdp ∨ 0x80000 ≤ x.tdp.toNat) → (s.core c).lea = x.lea
        (held → s.leaveReady x = true → exec (.threadSwitch c k) s =
          .next (((s.takeOwed c k).writeBack c k).loadFrom c k (x.lea.getD 0) tdp))
        ∧ ((¬ held ∨ s.leaveReady x = false) → exec (.threadSwitch c k) s = .next s))
    ∧ (∀ die all va, x.hold = .tlb die all va →
        exec (.tlbinvComplete c k) s = .next (if s.outs.any (fun o => o.usesDropped (x.lea.getD 0) die all va)
            || s.fillsBegun (x.lea.getD 0) (fun d a => d == die && (all || a / 2 ^ 21 == va / 2 ^ 21)) then s
          else s.modSlot c k (fun y => { y with hold := .none, woken := true, run := if y.run = .forfeiting then .ready else y.run,
                                                debugHalt := if y.debugHalt = some .forfeiting then some .ready else y.debugHalt })))
    ∧ (∀ issuer dst i cyc, x.claimed = some (issuer, dst, i) → x.stopped = some cyc → (∀ t, x.hold ≠ .switching t) →
        (s.leaveReady x = true → (s.core c).handover = none → exec (.preemptSaveDone c k) s =
          .next ((s.preemptDone c k issuer dst i).modSlot c k (fun y => { y with stopped := none })))
        ∧ (s.leaveReady x = false → exec (.preemptSaveDone c k) s = .next s))
    ∧ (∀ issuer tdp src h, x.loading = some (issuer, tdp, src) → (s.core c).handover = some h →
        (k ∉ h.restored ∨ issuer ∉ h.restored ∨ (0x80000 ≤ tdp ∧ (s.core c).lea ≠ some h.into)) → exec (.ctxldLoadDone c k) s = .next s)
    ∧ (∀ issuer tdp, x.loading = some (issuer, tdp, none) → present issuer tdp → ∃ t u,
        exec (.ctxldLoadDone c k) s = .next t
        ∧ u = ((s.modSlot c k (fun y => { y with loading := none })).modSlot c k (fun y => { y with
            gang := none, gangReg := 0, coreReg := coreWord c 0 (s.logicalOf ((s.slot c issuer).lea.getD 0) c),
            slotReg := slotWord 0 k })).loadFrom c k ((s.slot c issuer).lea.getD 0) tdp
        ∧ t = u.modSlot c issuer (fun y => if y.wait = .ctxld then y.wake else y))
    ∧ (∀ issuer tdp i e, x.loading = some (issuer, tdp, some i) → present issuer tdp →
        let key := ((s.slot c issuer).lea.getD 0, i)
        (s.core c).ctx.find? (fun p => p.1 == key) = some (key, e) →
        exec (.ctxldLoadDone c k) s = .next (((((s.modSlot c k (fun y => { y with loading := none })).modCore c (fun y =>
          y.freeEntryOf key.1 i)).modSlot c k (fun y => { y with
            gang := e.gang, gangReg := e.gangReg, coreReg := e.coreReg, slotReg := e.slotReg })).loadThread c k key.1 tdp e.desc
            (some e.kept)).modSlot c issuer (fun y => if y.wait = .ctxld then y.wake else y)))
    ∧ (s.cycle c < (s.core c).turned → ∃ t, exec (.rotApply c) s = .next t ∧ t.core c = s.core c)
    ∧ (∀ v, (s.core c).rotNext = some v → s.cycle c % 16 = 0 → (s.core c).turned ≤ s.cycle c → ∃ t, exec (.rotApply c) s = .next t ∧ t.mem = s.mem
        ∧ ((s.core c).mayRotate = true → (t.core c).rot = v ∧ (t.core c).rotNext = none)
        ∧ ((s.core c).mayRotate = false → (t.core c).rot = (s.core c).rot ∧ (t.core c).rotNext = some v))
    ∧ (∀ h, (s.core c).handover = some h → h.rot ≠ none → (s.core c).lea ≠ some h.into → (s.core c).mayRotate = false)
    ∧ (∀ y v n, s.lea l = some y → y.gtoffNext = some (v, n) →
        (s.tideSlot = 0 → n < s.now → exec (.gtoffApply l) s = .next (s.modLea l (fun z => { z with gtoff := v, gtoffNext := none })))
        ∧ (s.tideSlot = 0 → s.now ≤ n → ∃ t, exec (.gtoffApply l) s = .next t ∧ t.lea l = some y)
        ∧ (s.tideSlot ≠ 0 → exec (.gtoffApply l) s = .next s))
    ∧ (s.resident l f = false → exec (.pageFaultWake l f) s = .next s)
    ∧ (s.resident l f = true → ∃ t, exec (.pageFaultWake l f) s = .next t ∧ t.mem = s.mem
        ∧ (∀ o ∈ t.outs, o.lea = l → s.isLate o = false → o.onFrame f = false))
    ∧ exec (.linkReplay f) s = .next { s with replays := s.replays.filter (fun r => decide (s.now < r.2 + 12288)) ++ [(f, s.now + 4096)] }

/-- R329, R330, R377, R398: a clock of 1.2 to 2.4 GHz takes effect at a tide boundary, an island's own power throttles it only above
its share, and module power lowers every island by the same steps, none below 24 (the model's choice, log 98); a throttled tide's
deficit is added once to a debt of at most 64 tides; a slice starts at the end of the one before, of several that are due the one
whose lea has the largest debt (which are due is the model's inference, log 104), lengthened by its debt, and begins a handover
where it is another lea's. R28, R30, R378, R380: in a handover slot k stops at cycle t0 + k under the identity rotation, is vacated
320 cycles later once its queue entries and its port transfer have ended, but for one that a page fault holds, its exact descriptor
and slice are saved and the slice scrubbed, and the incoming lea's are put in place; once every slot is saved (log 64, the model's
inference) the pool changes hands: the outgoing lea's is saved, and the incoming lea has its saved one back or, on its first hold,
its message thread from its template; a late result goes to the save area. -/
def Obligations.SlicesAndHandovers : Prop :=
  (∀ (i c l : Nat) (k : IslandClock) (s : State),
      let ok : Prop := s.tideSlot = 0 ∧ 24 ≤ k.steps ∧ k.steps ≤ 48 ∧ k.gate ≤ 15 ∧ (k.gate = 0 ∨ k.steps = 24)
        ∧ (k.cause = .islandPower → s.head.shares.getD i 0 < k.draw)
      (∀ z, s.islands[i]? = some z →
        (¬ ok → exec (.islandClockChange i k) s = .next s)
        ∧ (ok → (∀ j, j < 16 → s.tideDone j = true) →
          (k.cause ≠ .modulePower → exec (.islandClockChange i k) s = .next { s with islands := s.islands.set i k })
          ∧ (k.cause = .modulePower → ∃ t, exec (.islandClockChange i k) s = .next t ∧ t.mem = s.mem ∧ ∀ (j : Nat) (y : IslandClock),
              s.islands[j]? = some y → ∃ x : IslandClock, t.islands[j]? = some x ∧ x.steps = max 24 (y.steps - (z.steps - k.steps)))))
      ∧ (∀ y z, s.lea l = some y → s.islands[islandOf c]? = some z → s.tideSlot = 0 → y.cores.contains c = true →
          (z.cause = .thermal ∨ z.cause = .islandPower → (s.core c).accrued.contains l = false → ∃ t,
            exec (.debtAccrue l c) s = .next t ∧ (t.core c).accrued.contains l = true
            ∧ keyGet 0 (t.core c).debts l = min 262144 (keyGet 0 (s.core c).debts l + deficit y.clock (s.core c).delivered))
          ∧ ((s.core c).accrued.contains l = true → exec (.debtAccrue l c) s = .next s)
          ∧ (z.cause ≠ .thermal → z.cause ≠ .islandPower → exec (.debtAccrue l c) s = .next s))
      ∧ (let d := (s.core c).bringNext
        ∀ n, d.sched[(d.slice + 1) % d.sched.length]? = some (l, n) →
          let go : Prop := s.tideSlot = 0 ∧ d.sliceEnd ≤ s.now ∧ d.handover = none ∧ s.dieUp (dieOf c) = true
          let add := lengthening (keyGet 0 d.debts l) n
          (¬ go → exec (.sliceStart c) s = .next s)
          ∧ (go → ∃ t, exec (.sliceStart c) s = .next t
              ∧ (t.core c).slice = (d.slice + 1) % d.sched.length
              ∧ (t.core c).sliceEnd = s.now + 4096 * (n + add) ∧ (t.core c).lag = d.lag + add
              ∧ keyGet 0 (t.core c).debts l = keyGet 0 d.debts l - 4096 * add
              ∧ (d.lea = some l → (t.core c).handover = none)
              ∧ (d.lea ≠ some l → (t.core c).handover =
                  some ⟨s.now, turn0From (s.cycle c), d.lea.filter (fun a => a != 2048), l, none, [], [], []⟩))))
  ∧ (∀ (y : Core) (is : List Nat) (i : Nat),
      (y.firstDue is = some i → i ∈ is ∧ ∀ j ∈ is,
        let a := (y.sched.getD i (0, 0)).1
        let b := (y.sched.getD j (0, 0)).1
        keyGet 0 y.debts b < keyGet 0 y.debts a ∨ (keyGet 0 y.debts b = keyGet 0 y.debts a ∧ a ≤ b))
      ∧ (y.firstDue y.slicesDue = some i →
          y.bringNext.sched[(y.slice + 1) % y.sched.length]? = y.sched[i]? ∧ y.bringNext.sched.Perm y.sched
          ∧ y.bringNext.slice = y.slice ∧ y.bringNext.debts = y.debts)
      ∧ ((∀ e ∈ y.sched, 0 < e.2) → y.lag = 0 → y.bringNext = y))
  ∧ (∀ (c k : Nat) (h : Handover) (s : State), (s.core c).handover = some h → k < 16 → (s.core c).slots.length = 16 →
      let x := s.slot c k
      let home := lsAddr c x.tdp.toNat
      (∀ r, h.rot = some r → h.t0 + k ≤ s.cycle c → h.stopped.contains k = false → ∃ t,
        exec (.handoverStop c k) s = .next t ∧ (t.slot c k).stopped = some (h.t0 + k) ∧ t.mem = s.mem
        ∧ (t.core c).handover = some { h with stopped := k :: h.stopped })
      ∧ (h.rot = none → h.t0 + k ≤ s.cycle c → h.stopped.contains k = false → ∃ t,
        exec (.handoverStop c k) s = .next t ∧ (t.slot c k).stopped = some (h.t0 + k) ∧ (t.core c).rot = 0xFEDCBA9876543210
        ∧ (t.core c).handover = some { h with stopped := k :: h.stopped, rot := some ((s.core c).rotNext.getD (s.core c).rot) })
      ∧ (s.cycle c < h.t0 + k → exec (.handoverStop c k) s = .next s)
      ∧ (∀ cyc, x.stopped = some cyc → h.stopped.contains k = true → h.saved.contains k = false → x.vacated = false →
          exec (.settleEnd c k) s = .next (if s.cycle c < cyc + 320 ∨ s.outs.any (fun o =>
              o.core == c && o.tid == x.tid && s.settles o) = true ∨ (s.portFlush c x.tid).portRuns c x.tid = true then s
            else (s.portFlush c x.tid).modSlot c k (fun y => { y with vacated := true })))
      ∧ (x.vacated = true → h.saved.contains k = false →
          let e := if x.run = .absent then s.mem else s.mem.putWords home (x.desc.words (Config.freeWord s.free))
          ∃ t, exec (.slotSaveDone c k) s = .next t
          ∧ t.mem = (e.forget (sliceAt c k) 0x8000).scrub (sliceAt c k) 0x8000 ∧ (t.slot c k).run = .absent ∧ (t.slot c k).vacated = true
          ∧ (t.core c).handover = some { h with saved := k :: h.saved }
          ∧ (∀ a, h.out = some a → ∃ v, keyFind ((t.core c).save a).slots k = some v
              ∧ v.slot = { x with stopped := none, vacated := false } ∧ v.range = e.cut (sliceAt c k) 0x8000
              ∧ v.waits = (s.core c).waits.filter (fun p => inSlice k p.1)))
      ∧ (h.saved.contains k = true → h.restored.contains k = false → s.dieUp (dieOf c) = true → s.outs = [] →
          h.restored.length < 15 →
          (keyFind ((s.core c).save h.into).slots k = none → (k ≠ 15 ∨ (s.core c).lea ≠ some h.into) →
            ∃ t, exec (.slotRestoreDone c k) s = .next t ∧ t.mem = s.mem ∧ (t.slot c k).run = .absent
              ∧ (t.core c).handover = some { h with restored := k :: h.restored } ∧ (∀ j, j ≠ k → t.slot c j = s.slot c j))
          ∧ (∀ v, keyFind ((s.core c).save h.into).slots k = some v → v.slot.waiting = false →
            let m := s.mem.paste (sliceAt c k) v.range
            let tdp := v.slot.tdp.toNat
            let at' (d : Desc) : Slot :=
              { v.slot with desc := d, fresh := true, since := s.now, lastIssue := (s.cycle c : Int) - 16 }
            ∃ t, exec (.slotRestoreDone c k) s = .next t
              ∧ (t.core c).handover = some { h with restored := k :: h.restored }
              ∧ (v.slot.run = .absent → t.mem = m ∧ t.slot c k = at' v.slot.desc)
              ∧ (v.slot.run ≠ .absent → ((s.core c).modSave h.into (fun y => { y with slots := keyDel y.slots k })).slotSaved h.into k = false →
                  0x8000 * k ≤ tdp → tdp + 256 ≤ 0x8000 * k + 0x8000 →
                  (∀ i, i < 32 → m.isBad (lsAddr c tdp + 8 * i) = false) →
                  t.slot c k = at' (descOfWords ((List.range 32).map (fun i => m.word (lsAddr c tdp + 8 * i))))
                  ∧ ∀ a, (a < lsAddr c tdp ∨ lsAddr c tdp + 256 ≤ a) → t.mem.read a 1 = m.read a 1)))
      ∧ (h.saved.contains k = false → exec (.poolPhaseDone c) s = .next s))
  ∧ (∀ (c : Nat) (h : Handover) (s : State), (s.core c).handover = some h → (s.core c).slots.length = 16 →
      (∀ j, j < 16 → h.saved.contains j = true) → (s.core c).lea ≠ some h.into → s.dieUp (dieOf c) = true →
      (∀ j, (s.slot c j).waiting = false) → (∀ y, s.lea h.into = some y → y.num = h.into) →
      (∀ a, h.out = some a → a ≠ h.into ∧ (s.core c).engine.active = none ∧ (s.core c).bay.port = none
        ∧ (s.core c).dorent.state ≠ .running ∧ (s.core c).dorent.late = [] ∧ ∀ p ∈ ((s.core c).save a).slots, p.2.slot.waiting = false) →
      let e := (s.mem.forget (poolAt c) 0x40000).scrub (poolAt c) 0x40000
      let v := (s.core c).save h.into
      ∃ t, exec (.poolPhaseDone c) s = .next t ∧ (t.core c).lea = some h.into
        ∧ (∀ p, v.pool = some p → t.mem = e.paste (poolAt c) p.range ∧ ((t.core c).save h.into).pool = none
            ∧ (t.core c).bay = p.bay ∧ (t.core c).sems = p.sems ∧ (t.core c).mailbox = p.mailbox ∧ (t.core c).engine = p.engine
            ∧ (t.core c).dorent = p.dorent ∧ (t.core c).classes = p.classes ∧ (t.core c).trapv = p.trapv
            ∧ (t.core c).trapFile = p.trapFile ∧ (t.core c).handler = p.handler ∧ (t.core c).rotNext = some p.rot)
        ∧ (v.pool = none → s.lea h.into = none → t.mem = e)
        ∧ (∀ y m, v.pool = none → s.lea h.into = some y → y.msg = some m →
            let z := t.slot c 15
            let home := lsAddr c m.base.tdp
            z.run = .parked ∧ z.wait = .idle15 ∧ z.lea = some h.into ∧ z.tdp = BitVec.ofNat 64 m.base.tdp
            ∧ z.desc = descOf (fun i => m.base.image.getD i 0)
            ∧ (t.core c).classes = m.classes.map (fun p => (p.1, classWord p.2)) ∧ (t.core c).sems = v.sems
            ∧ (t.core c).dorent = { Dorent.reset with recs := y.recsFor c }
            ∧ ∀ a, (a < home ∨ home + 256 ≤ a) → t.mem.read a 1 = e.read a 1)
        ∧ (∀ a, h.out = some a → ∃ p, ((t.core c).save a).pool = some p ∧ p.range = s.mem.cut (poolAt c) 0x40000
            ∧ p.sems = (s.core c).sems ∧ p.mailbox = (s.core c).mailbox ∧ p.bay = (s.core c).bay
            ∧ p.dorent = (s.core c).dorent.saved ∧ p.classes = (s.core c).classes ∧ p.trapv = (s.core c).trapv
            ∧ p.trapFile = (s.core c).trapFile ∧ p.handler = (s.core c).handler))
  ∧ (∀ (s : State) (id : Nat) (o : Out) (vals : List PWord) (fl : Option Flags) (due : Nat), s.mailOf id = none → s.out id = some o →
      s.isLate o = true → o.work = .compute vals fl due →
      exec (.lateResultToSaveArea id) s = .next (if due ≤ s.cycle o.core then s.lateEnd o vals (fl.getD Flags.none) else s))

/-- R275, R276, R286, R287, R302, R325: Headland installs a new group's records, where the lea's context is, on each named core; a
DJOIN whose message has come to Harbour pairs with the other end's, or waits for it; at a tide boundary Harbour takes a lea's
changes in order of arrival, at most four a tide, and refuses one that passes the lea's bulk slots; two boundaries later the routers
switch and both ends are bound, and a change that is torn down is gone, or asked again where its entries do not all arrive. How a
group request that breaks R276 is answered and where a record is kept before the lea has held the core's pool (log 31), what counts
as a part that is missing (log 76), and when a change's entries do not all arrive (log 86) are the model's readings. -/
def Obligations.Circuits : Prop :=
  (∀ (l gid : Nat) (ms cs : List Nat) (nsr : Bool) (y : Lea) (s : State), s.lea l = some y →
    let bad : Prop := ms = [] ∨ 65536 ≤ gid ∨ (∃ i ∈ ms ++ cs, y.leal ≤ i) ∨ (∃ c ∈ y.cores, ∃ r ∈ s.recsOf l c, r.gid = gid)
    (bad → exec (.groupCreate l gid ms cs nsr) s = .next s)
    ∧ (¬bad → ∃ t, exec (.groupCreate l gid ms cs nsr) s = .next t ∧ t.mem = s.mem ∧ ∀ p j, (ms ++ cs)[p]? = some j →
        ∃ r ∈ t.recsOf l (y.cores.getD j 0), r.gid = gid ∧ r.ver = 1 ∧ r.size = ms.length ∧ r.nsr = nsr
          ∧ r.list = ms.map (fun i => y.cores.getD i 0) ∧ r.rank = (if p < ms.length then some p else none)))
  ∧ (∀ (c l : Nat) (d : Dorent) (m : DMember) (s : State), s.runningAt c = some (l, d, m) →
      (s.heard l c c 0 = none → exec (.circuitRequestArrive c) s = .next s)
      ∧ (∀ r start, (s.heard l c c 0).isSome = true → d.wait = .join r start none → exec (.circuitRequestArrive c) s =
          .next ((if r.tree then s.askTree l c d m r start else s.askChannel l c d m r start).readyAll))
      ∧ (∀ r start, (s.heard l c c 0).isSome = true → d.wait = .join r start none → r.tree = false → s.circuits = [] → ∃ t,
          exec (.circuitRequestArrive c) s = .next t ∧ (t.dor c).wait = .join r start (some s.nextId) ∧ ∃ x, t.circuits = [x]
            ∧ x.id = s.nextId ∧ x.lea = l ∧ x.gid = d.gid ∧ x.ver = m.ver ∧ x.tree = false ∧ x.rate = r.rate ∧ x.phase = .asking
            ∧ (r.send = true → x.src = c ∧ x.dst = (m.core r.peer).getD c ∧ x.srcIdx = some r.idx ∧ x.dstIdx = none)
            ∧ (r.send = false → x.dst = c ∧ x.src = (m.core r.peer).getD c ∧ x.dstIdx = some r.idx ∧ x.srcIdx = none))
      ∧ (∀ r start x, (s.heard l c c 0).isSome = true → d.wait = .join r start none → r.tree = false → s.circuits = [x] →
          x.tree = false → x.lea = l → x.gid = d.gid → x.ver = m.ver → x.phase = .asking →
          (if r.send then x.src = c ∧ x.dst = (m.core r.peer).getD c ∧ x.srcIdx = none ∧ x.dstIdx.isSome = true
            else x.dst = c ∧ x.src = (m.core r.peer).getD c ∧ x.dstIdx = none ∧ x.srcIdx.isSome = true) → ∃ t y,
          exec (.circuitRequestArrive c) s = .next t ∧ (t.dor c).wait = .join r start (some x.id) ∧ t.circuits = [y]
            ∧ y.phase = .ready s.tide s.nextId ∧ (if r.send then y.srcIdx else y.dstIdx) = some r.idx
            ∧ (y.rate = x.rate ∨ y.rate = r.rate))
      ∧ (∀ r start, (s.heard l c c 0).isSome = true → d.wait = .join r start none → r.tree = true → s.circuits = [] →
          r.parent = none → r.kids = [none, none, none, none] → ∃ t y,
          exec (.circuitRequestArrive c) s = .next t ∧ (t.dor c).wait = .join r start (some s.nextId) ∧ t.circuits = [y]
            ∧ y.id = s.nextId ∧ y.tree = true ∧ y.src = c ∧ y.srcIdx = some r.idx ∧ y.phase = .ready s.tide (s.nextId + 1))
      ∧ (∀ tree idx id, (s.heard l c c 0).isSome = true → d.wait = .unjoin tree idx id false →
          exec (.circuitRequestArrive c) s = match s.circuits.find? (fun y => y.id == id) with
            | some x => .next ((s.tearDown c x).modDor c (fun d => { d with wait := .unjoin tree idx id true }))
            | none => .next (s.dNext c (fun d => d.unbind tree idx))))
  ∧ (∀ (id k o : Nat) (c : Circuit) (s : State), s.circuits.find? (fun y => y.id == id) = some c → c.waits = some (k, o) →
      let parts : List Circuit := if c.tree then s.circuits.filter (fun x => x.tree && c.with x) else [c]
      let due : Prop := s.tideSlot = 0 ∧ k < s.tide ∧ s.changesTaken c.lea < 4
        ∧ ∀ x ∈ s.circuits, x.lea = c.lea → ∀ w, x.waits = some w → w.1 < s.tide → o ≤ w.2
      (¬due → exec (.circuitDecide id) s = .next s)
      ∧ (due → c.phase = .closing k o → ∃ t, exec (.circuitDecide id) s = .next t ∧ t.circuits = s.circuits.map (fun x =>
          if x = c then { x with phase := .closed s.tide o } else x))
      ∧ (due → c.phase = .ready k o →
          (parts.all s.whole = false → exec (.circuitDecide id) s = .next (s.breakChange 0x0E parts))
          ∧ (parts.all s.whole = true → s.refuses c.lea parts = false → ∃ t,
              exec (.circuitDecide id) s = .next t ∧ t.cores = s.cores ∧ t.circuits = s.circuits.map (fun x =>
                if parts.contains x then { x with phase := .decided s.tide o, granted := x.tree && s.grants x } else x))
          ∧ (parts.all s.whole = true → s.refuses c.lea parts = true → exec (.circuitDecide id) s =
              .next (parts.foldl (fun u x => u.failEnds 0x0B x)
                (({ s with free := s.free + 1 } : State).setPhase parts (.refused s.tide o) (fun _ => false))))))
  ∧ (∀ (id k o : Nat) (c : Circuit) (s : State), s.circuits.find? (fun y => y.id == id) = some c →
      let parts : List Circuit := s.circuits.filter (fun x => x.tree == c.tree && c.with x)
      (s.tideSlot ≠ 0 → exec (.circuitSwitch id) s = .next s)
      ∧ (s.tideSlot = 0 →
        (c.phase = .closed k o → exec (.circuitSwitch id) s = .next (if s.tide < k + 2 then s
            else if s.entriesLost c k = true then (s.setPhase [c] (.closing s.tide o) (fun x => x.granted)).failUnjoins c
            else s.dropCircuit c))
        ∧ (c.phase = .refused k o → exec (.circuitSwitch id) s = .next (if s.tide ≤ k then s else
            { s with circuits := s.circuits.filter (fun x => x.id != id) }))
        ∧ (c.phase = .decided k o →
            (s.tide < k + 2 → exec (.circuitSwitch id) s = .next s)
            ∧ (k + 2 ≤ s.tide → parts.all s.whole = false → exec (.circuitSwitch id) s = .next (s.breakChange 0x0E parts))
            ∧ (k + 2 ≤ s.tide → parts.all s.whole = true → parts.any (fun x => s.entriesLost x k) = true →
                exec (.circuitSwitch id) s = .next (s.breakChange 0x0B parts))
            ∧ (k + 2 ≤ s.tide → parts.all s.whole = true → parts.any (fun x => s.entriesLost x k) = false → c.old = [] →
                c.tree = false → c.src ≠ c.dst → ∃ t, exec (.circuitSwitch id) s = .next t
                ∧ t.circuits = s.circuits.map (fun x => if x.id = id then { x with phase := .up, old := [] } else x)
                ∧ ∀ (d : Dorent) (m : DMember) (r : DReq) (st i : Nat) (q : Bool), (if q then c.srcIdx else c.dstIdx) = some i →
                    s.running (if q then c.src else c.dst) c.lea c.gid = some (d, m) → d.wait = .join r st (some c.id) →
                    i < d.chans.length →
                    let u := t.dor (if q then c.src else c.dst)
                    u.wait = .none ∧ u.pc = (d.pc + 1) % 512
                    ∧ u.chans.getD i .unbound = .bound ((m.rankOf (if q then c.dst else c.src)).getD r.peer) r.send c.id 0 true))))

/-- R104, R278, R283, R285, R286, R288, R290, R295, R301: COLLD's copy makes its context Loaded and wakes its thread; a piece moves
between buffers once nothing holds it, and the last one ends its instruction; transfers of different lengths fail with 0x09; a
signal that has come, and that no earlier DSEND precedes, adds to the peer's counter, at a peer of the same version; a node combines its
own element with its children's; a held piece parks the context. R223, R326: the accesses of HBM that a copy or a piece makes begin in
service slots of the lea that no access waits for, and are over 96 slots later; a piece moves once those of its source are over, it has
crossed, and those of its destination are over. R306: bytes of an instruction's last piece in commons or HBM may come to memory later
(log 50). That a piece is at most 4 KiB, in order of offset (log 60), and that the words which a poisoned source leaves are undefined
(log 33) are the model's choices. -/
def Obligations.CollectiveData : Prop :=
  ∀ (c l op : Nat) (s : State),
    (∀ y, (s.core c).lea = some l → (s.dor c).copy = some y →
      let out : Out1 := exec (.colldCopyDone c) s
      let away : Prop := y.seg.space = 1 ∧ (s.core c).slotSaved l y.slot = true
      let f := y.flow.getD ⟨((List.range y.words).flatMap (fun i => match s.copyPlace c l y i with
        | .at a => hbmUnits a 8
        | _ => [])).dedup, s.now, none⟩
      let u := s.flushFor c l
      ((y.parked ≠ none ∨ s.copyWaits c l y = true ∨ s.dieUp (dieOf c) = false ∨ away) → out = .next s)
      ∧ (y.parked = none → s.copyWaits c l y = false → s.dieUp (dieOf c) = true → ¬away →
        ((∀ i, i < y.words → ∃ a, s.copyPlace c l y i = .at a) → f.wants = [] → f.due ≤ s.now → ∃ t, out = .next t
          ∧ ((u.dor c).state ≠ .running → (t.dor c).state = .loaded) ∧ (t.dor c).loaded = y.words ∧ (t.dor c).copy = none
          ∧ (∀ i a, i < y.words → s.copyPlace c l y i = .at a → u.mem.isBad a = false →
              keyGet 0 (t.dor c).store i = BitVec.ofNat 64 (u.mem.read a 8))
          ∧ (∀ k, k < (u.core c).slots.length →
              t.slot c k = if (u.slot c k).tid = y.tid ∧ (u.slot c k).wait = .colld then (u.slot c k).wake else u.slot c k))
        ∧ ((∀ i, i < y.words → ∃ a, s.copyPlace c l y i = .at a) → (f.wants ≠ [] ∨ s.now < f.due) → ∃ t g, out = .next t
          ∧ t.mem = s.mem ∧ (t.dor c).copy = some { y with flow := some g } ∧ g.sent = f.sent
          ∧ (∀ a ∈ g.wants, a ∈ f.wants) ∧ (∀ a ∈ f.wants, a ∈ g.wants ∨ s.spareService l (channelOf a) = true)
          ∧ g.due = (if g.wants.length < f.wants.length then s.now + 96 else f.due))
        ∧ (∀ i f, i < y.words → (∀ j, j < i → ∃ a, s.copyPlace c l y j = .at a) → s.copyPlace c l y i = .page f →
            out = .next ((s.modDor c (fun d => { d with copy := some { y with parked := some (some f) } })).logPage l f))))
    ∧ (∀ d m, s.runningAt c = some (l, d, m) → (d.park ≠ none ∨ s.dieUp (dieOf c) = false) →
        ((∃ e ∈ d.ops, e.num = op) → exec (.dorentOpComplete c op) s = .next s) ∧ exec (.reductionSlotCombine c op) s = .next s)
    ∧ ((∀ e ∈ (s.dor c).ops, e.num ≠ op) → exec (.dorentOpComplete c op) s = .next (
        if s.dieUp (dieOf c) = false ∨ (s.dor c).late = [] then s
        else if (Config.freeWord s.free).getLsbD 0 = true then { s.flushLate c with free := s.free + 1 }
        else { s with free := s.free + 1 }))
    ∧ (∀ (e : Option DFlow) (reads writes : List Nat) (a b : Nat),
        let r := s.flowPiece l e reads writes a b
        r.1.mem = s.mem ∧ r.1.cores = s.cores
        ∧ (r.2.2 = true → r.2.1.wants = [] ∧ r.2.1.due ≤ s.now ∧ ∃ t, r.2.1.sent = some t ∧ s.crossed t (dieOf a) (dieOf b) = true)
        ∧ (e = none → reads ≠ [] → r.2.2 = false ∧ r.2.1.sent = none)
        ∧ (∀ t, e = some ⟨writes, t, some t⟩ → writes ≠ [] → r.2.2 = false)
        ∧ (e = none → reads = [] → writes = [] → dieOf a = dieOf b → r.2.2 = true ∧ r.1 = s))
    ∧ (∀ (a b xo yo n : Nat) (x y : DBuf) (last : Bool),
        let u := s.flushGroup a
        let t := s.movePiece a x xo b y yo n last
        let bytes := u.bufRead a x xo n
        (last = false ∨ (y.space ≠ 3 ∧ y.space ≠ 4) → t.mem = ({ u with free := u.free + n + 1 }.bufWrite b y yo bytes).mem)
        ∧ (t.mem = ({ u with free := u.free + n + 1 }.bufWrite b y yo bytes).mem
          ∨ (t.mem = u.mem ∧ (t.dor b).late = (u.dor b).late ++ u.bufBytes b y yo bytes))
        ∧ ((∃ p ∈ bytes, p.2 = true) → (t.dor a).psn = true ∧ (t.dor b).psn = true)
        ∧ ((∀ e ∈ s.cores, e.2.dorent.late = []) → u = s))
    ∧ (∀ d m o, s.runningAt c = some (l, d, m) → d.park = none → s.dieUp (dieOf c) = true → d.ops.find? (fun e => e.num == op) = some o →
        (∀ p q, o.kind = 2 → d.bufs.getD o.sbuf none = some p → d.bufs.getD o.buf none = some q →
          let n := min 4096 (o.len - o.done)
          let ready := s.pieceReady c p (o.soff + o.done) c q (o.off + o.done) n
          let r := s.flowPiece l o.flow (s.pieceUnits c p (o.soff + o.done) n) (s.pieceUnits c q (o.off + o.done) n) c c
          (ready = false → exec (.dorentOpComplete c op) s = .next s)
          ∧ (ready = true → r.2.2 = false →
              exec (.dorentOpComplete c op) s = .next (r.1.modOp c o.num (fun e => { e with flow := some r.2.1 })))
          ∧ (ready = true → r.2.2 = true →
              let u := r.1.movePiece c p (o.soff + o.done) c q (o.off + o.done) n (o.done + n == o.len)
              exec (.dorentOpComplete c op) s = .next (if o.done + n = o.len then u.dDone c o.num
                else u.modOp c o.num (fun e => { e with done := e.done + n, flow := none }))))
        ∧ (o.kind ≤ 1 → (s.tideSlot < 16 ∨ s.pairOf c d o = none ∨ ∃ e ∈ d.ops, e.kind = o.kind ∧ e.chan = o.chan ∧ e.num < o.num) →
            exec (.dorentOpComplete c op) s = .next s)
        ∧ (∀ a x b y k, o.kind ≤ 1 → 16 ≤ s.tideSlot → (∀ e ∈ d.ops, e.kind = o.kind → e.chan = o.chan → o.num ≤ e.num) →
            s.pairOf c d o = some (a, x, b, y) → (s.core b).lea = some k →
            (x.len ≠ y.len → exec (.dorentOpComplete c op) s = .next ((s.dFail a 0x09 x.pc).dFail b 0x09 y.pc))
            ∧ (∀ p q, x.len = y.len → (s.dor a).bufs.getD x.buf none = some p → (s.dor b).bufs.getD y.buf none = some q →
                let n := min 4096 (y.len - y.done)
                let ready := s.pieceReady a p (x.off + x.done) b q (y.off + y.done) n
                let r := s.flowPiece k y.flow (s.pieceUnits a p (x.off + x.done) n) (s.pieceUnits b q (y.off + y.done) n) a b
                (ready = false → exec (.dorentOpComplete c op) s = .next s)
                ∧ (ready = true → r.2.2 = false →
                    exec (.dorentOpComplete c op) s = .next (r.1.modOp b y.num (fun e => { e with flow := some r.2.1 })))
                ∧ (ready = true → r.2.2 = true → x.done = y.done →
                    let u := r.1.movePiece a p (x.off + x.done) b q (y.off + y.done) n (y.done + n == y.len)
                    exec (.dorentOpComplete c op) s = .next (if y.done + n = y.len then (u.dDone a x.num).dDone b y.num
                      else (u.modOp a x.num (fun e => { e with done := e.done + n, flow := none })).modOp b y.num
                        (fun e => { e with done := e.done + n, flow := none })))))
        ∧ (o.kind = 3 → exec (.dorentOpComplete c op) s =
            .next (if (d.trees.getD o.chan none).any (fun t => t.granted) ∨ s.tideSlot < 16 then s else s.stepNode c o)))
    ∧ (∀ d m o t k, s.runningAt c = some (l, d, m) → d.park = none → s.dieUp (dieOf c) = true → d.trees.getD k none = some t →
        d.firstRed k = some o → exec (.reductionSlotCombine c k) s =
          .next (if 16 ≤ s.tideSlot ∧ t.granted = true then s.stepNode c o else s))
    ∧ (∀ d m, s.runningAt c = some (l, d, m) →
        (d.park ≠ none ∨ d.ops.findSome? (s.dHeld c d) = none → exec (.dorentPark c) s = .next s)
        ∧ (∀ f off, d.park = none → d.ops.findSome? (s.dHeld c d) = some (off, .page f) →
            exec (.dorentPark c) s = .next ((s.modDor c (fun d => { d with park := some (some f) })).logPage l f))
        ∧ (∀ e off, d.park = none → d.ops.findSome? (s.dHeld c d) = some (off, .fault e) → ∃ t,
            exec (.dorentPark c) s = .next t ∧ (t.dor c).park = some none ∧ (t.dor c).ops = d.ops ∧ t.mem = s.mem))
    ∧ (∀ d m o x e peer dir seq, s.runningAt c = some (l, d, m) → d.ops.find? (fun e => e.num == op) = some o → o.kind = 4 →
        d.chans.getD o.chan .unbound = .bound peer dir x.id seq true → s.circuits.find? (fun y => y.id == x.id) = some x →
        s.running x.dst l d.gid = some e →
        let clear : Prop := ∀ e ∈ d.ops, e.kind = 0 → e.chan = o.chan → o.num ≤ e.num
        ((¬clear ∨ s.heard l c x.dst (op + 1) = none) → exec (.dsigArrive c op) s = .next s)
        ∧ (∀ z, clear → s.heard l c x.dst (op + 1) = some z → m.ver.toNat < e.2.ver.toNat →
            exec (.dsigArrive c op) s = .next (s.dropMail z.id))
        ∧ (clear → e.2.ver.toNat < m.ver.toNat → exec (.dsigArrive c op) s = .next s)
        ∧ (clear → m.ver = e.2.ver → (s.heard l c x.dst (op + 1)).isSome = true → ∃ t,
            exec (.dsigArrive c op) s = .next t
            ∧ ((x.dst = c → o.cnt = none) → o.ctr < (s.dor x.dst).n.length →
                (t.dor x.dst).n.getD o.ctr 0 = (s.dor x.dst).n.getD o.ctr 0 + o.amt)
            ∧ (t.dor c).ops = d.ops.filter (fun e => e.num != op)))
    ∧ (∀ x y, dCombine 4 0 x y = (x + y) % 2 ^ 32 ∧ dCombine 5 0 x y = (x + y) % 2 ^ 64)
    ∧ (∀ fmt o (own kid : PWord) fresh, own.bad = false →
        (kid.bad = false → nodeElem fmt o own [some kid] fresh = ⟨BitVec.ofNat 64 (dCombine fmt o own.val.toNat kid.val.toNat), false⟩)
        ∧ (kid.bad = true → nodeElem fmt o own [some kid] fresh = ⟨fresh, true⟩))

/-- R286, R287, R289, R294, R297-R300, R324: a wait that passes its limit branches or fails (0x07, for a join 0x08); a barrier and
the closing barrier end once every member waits in them, with what it issued before done; a vote that has come is counted, the
coordinator decides, tells its voters, and the new version is installed at its tide. Which messages these need, and that barriers
meet at rank 0 (log 85), that a member that has left is a candidate from then on (log 32), and that a record of a higher version stops a
wait without doing its instruction again (log 57), are the model's choices. -/
def Obligations.CollectiveWaits : Prop :=
  ∀ (c l : Nat) (d : Dorent) (r : DMember) (s : State), s.runningAt c = some (l, d, r) →
    let late (start tmo : Nat) : Prop := tmo ≠ 0 ∧ tmo ≤ s.tide - start - d.parkedTides
    let jump (tgt : Nat) : Out1 := .next (((s.modDor c (fun d => { d with pc := tgt, wait := .none })).workedOn c).hush c true)
    let fail (e : BitVec 8) : Out1 := .next (s.dStop c .failed e d.pc)
    (∀ n thr start tmo j, d.wait = .count n thr start tmo j →
      ((thr ≤ (d.n.getD n 0).toNat ∨ ¬late start tmo) → exec (.dorentTimeout c) s = .next s)
      ∧ ((d.n.getD n 0).toNat < thr → late start tmo → exec (.dorentTimeout c) s = match j with
          | some t => jump t
          | none => fail 0x07))
    ∧ (∀ k start tmo j, d.wait = .barrier k start tmo j →
        (¬late start tmo → exec (.dorentTimeout c) s = .next s)
        ∧ (late start tmo → exec (.dorentTimeout c) s = match j with
          | some t => jump t
          | none => fail 0x07))
    ∧ (∀ q start asked, d.wait = .join q start asked →
        let alone : Prop := asked = none ∨ ∃ x ∈ s.circuits, asked = some x.id ∧ x.phase = .asking
        (alone → late start d.tmo → exec (.djoinTimeout c) s = fail 0x08)
        ∧ ((¬alone ∨ ¬late start d.tmo) → exec (.djoinTimeout c) s = .next s))
    ∧ (∀ start, d.wait = .closing start →
        (late start d.tmo → exec (.closingBarrierTimeout c) s = fail 0x07)
        ∧ (¬late start d.tmo → exec (.closingBarrierTimeout c) s = .next s))
    ∧ (∀ y k start tmo j, s.lea l = some y → y.cores.Nodup → c ∈ y.cores → d.wait = .barrier k start tmo j →
        r.list.all (s.atBarrier l d.gid r) = true →
        s.allIn l d.gid r (fun w => match w with
          | .barrier i _ _ _ => i == k
          | _ => false) = true →
        ∃ t, exec (.dbarComplete l d.gid) s = .next t ∧ (t.dor c).pc = (d.pc + 1) % 512 ∧ (t.dor c).wait = .none)
    ∧ (∀ y start, s.lea l = some y → y.cores.Nodup → c ∈ y.cores → d.wait = .closing start →
        r.list.all (s.atBarrier l d.gid r) = true →
        s.allIn l d.gid r (fun w => match w with
          | .closing _ => true
          | _ => false) = true →
        ∃ t, exec (.closingBarrierDone l d.gid) s = .next t ∧ (t.dor c).state = .done ∧ (t.dor c).err = 0)
    ∧ (∀ qa t att vote tau i, d.wait = .agree qa t att vote tau false i →
        (s.heard l c (r.coord att) 0 = none → exec (.agreeVoteArrive c) s = .next s)
        ∧ (∀ q, (s.heard l c (r.coord att) 0).isSome = true → (s.dor (r.coord att)).record d.gid = some q → q.ver = r.ver →
            (s.core (r.coord att)).lea = some l → s.agreements = [] → ∃ u, exec (.agreeVoteArrive c) s = .next u
            ∧ u.agreements = [⟨l, d.gid, r.ver, r.coord att, if r.rank.isSome then [(c, vote)] else [],
                if r.rank.isSome then [] else [(s.now, c)], none⟩]
            ∧ (u.dor c).wait = .agree qa t att vote tau true i))
    ∧ (∀ qa t att vote tau i y a, d.wait = .agree qa t att vote tau true i → s.lea l = some y → r.coord att = c →
        s.agreements = [a] → a.lea = l → a.gid = d.gid → a.ver = r.ver → a.coord = c → a.decision = none →
        let due : Prop := (∀ m ∈ r.list, ∃ v ∈ a.votes, v.1 = m) ∨ tau + t + d.parkedTides ≤ s.tide
        let next := r.list.filter (fun m => a.votes.any (fun v => v.1 == m && v.2))
          ++ (a.joins.foldl (fun acc x => insJoin y x acc) []).map (fun x => x.2)
        (due → ∃ u, exec (.agreeDeadline c) s = .next u ∧ u.cores = s.cores
          ∧ u.agreements = [{ a with decision := some (next, s.tide + t) }]
          ∧ (∀ v ∈ a.votes, ∃ m ∈ u.mail, m.dst = v.1 ∧ m.msg = .decision d.gid r.ver next (s.tide + t))
          ∧ (∀ v ∈ a.joins, ∃ m ∈ u.mail, m.dst = v.2 ∧ m.msg = .decision d.gid r.ver next (s.tide + t)))
        ∧ (¬due → exec (.agreeDeadline c) s = .next s))
    ∧ (∀ qa t att vote tau sent, d.wait = .agree qa t att vote tau sent none →
        (s.told l d.gid r.ver (r.coord att) c = none → exec (.agreeDecisionArrive c) s = .next s)
        ∧ (∀ m i, s.told l d.gid r.ver (r.coord att) c = some (m, i) →
          (c ∈ m → exec (.agreeDecisionArrive c) s =
            .next (s.modDor c (fun d => { d with wait := .agree qa t att vote tau sent (some i) })))
          ∧ (c ∉ m → exec (.agreeDecisionArrive c) s =
            .next ((s.modDor c (fun d => (d.putOutcome qa r 3).setRecord { r with rank := none })).dStop c .left 0 d.pc)))
        ∧ (exec (.agreeNoDecision c) s = .next (if s.tide < tau + 3 * t + d.parkedTides then s
            else s.dNext c (fun d => d.putOutcome qa r 1))))
    ∧ (∀ p q, (s.core p).lea = some l → (s.dor p).record d.gid = some q →
        let spoke : Prop := d.speaksTo r p = true
          ∨ ((s.dor p).state = .running ∧ (s.dor p).gid = d.gid ∧ (s.dor p).speaksTo q c = true)
        s.recordMail l d.gid p c = none →
          ((q.ver.toNat ≤ r.ver.toNat ∨ ¬spoke) → exec (.catchUpRecord c p) s = .next s)
          ∧ (r.ver.toNat < q.ver.toNat → spoke → exec (.catchUpRecord c p) s =
              .next (if 16 ≤ s.exchangeFlits p (some l) then s else s.dPost p c (.record d.gid q.ver q.list))))
    ∧ (∀ p m v z, s.recordMail l d.gid p c = some (m, v, z) →
        let r1 := r.become c v z
        (s.arrives m = false → exec (.catchUpRecord c p) s = .next s)
        ∧ (s.arrives m = true → v.toNat ≤ r.ver.toNat → exec (.catchUpRecord c p) s = .next (s.dropMail m.id))
        ∧ (s.arrives m = true → r.ver.toNat < v.toNat →
            (∀ qa t att vote tau sent i, d.wait = .agree qa t att vote tau sent i →
              exec (.catchUpRecord c p) s = .next ((s.dropMail m.id).install c r1 (fun x => x.putOutcome qa r1 2)))
            ∧ ∃ t, exec (.catchUpRecord c p) s = .next t ∧ (t.dor c).wait = .none ∧ (t.dor c).record d.gid = some r1
              ∧ (t.dor c).pc = (if d.wait = .none then d.pc else (d.pc + 1) % 512)
              ∧ ∀ k, (t.dor c).chans.getD k .unbound = .unbound ∧ (t.dor c).trees.getD k none = none))
    ∧ (∀ qa t att vote tau sent i m j, d.wait = .agree qa t att vote tau sent (some i) → s.told l d.gid r.ver (r.coord att) c = some (m, j) →
        exec (.agreeInstall c) s = .next (if s.tide < i then s
          else s.install c (r.become c (r.ver + 1) m) (fun d => d.putOutcome qa (r.become c (r.ver + 1) m) 0)))

/-- R421, R424-R431: an uncorrectable error poisons data where it lies, halts the thread whose slot state it hits, or awaits its
recovery; a die's reset isolates it at a tide boundary, clears its logic 3 tides later, scrubs its memories and rejoins it; a fence
and a fatal error are logged, and a fatal module is dumped, with the descriptor of every resident thread exact (the model's
inference, log 107), and stops until its reset; it starts only from verified firmware. That a stage-2 entry is poisoned, and a
mailbox entry only where it is occupied (log 52), that a fenced channel or port counts as disabled (log 71), and that a fenced core,
not a channel or port, stays out at the next start (log 38), are the model's readings. -/
def Obligations.Recovery : Prop :=
  ∀ (s : State) (a d k n : Nat) (b : Bool) (img : BootImage) (r : FatalReason),
    (memoryHas a = true → exec (.uncorrectableError (.data a)) s = .next { s with mem := s.mem.setBad a true }
      ∧ exec (.patrolScrub a) s = .next s)
    ∧ (memoryHas a = false → exec (.uncorrectableError (.data a)) s = .fault .noSuchAddress ∧ exec (.patrolScrub a) s = .fault .noSuchAddress)
    ∧ exec (.uncorrectableError (.corrected a)) s = .next { s with head := { s.head with log := s.head.log ++ [.corrected a] } }
    ∧ exec (.uncorrectableError (.slotState d k)) s = .next (if (s.slot d k).run = .absent then s else s.trapSlot d k 0x55 0 0)
    ∧ (∀ l, s.lea d = some l → ∃ t, exec (.uncorrectableError (.stage2 d k)) s = .next t
        ∧ t.lea d = some (if k < l.s2len then { l with s2bad := natIns l.s2bad k } else l))
    ∧ (∃ t, exec (.uncorrectableError (.plane d b n)) s = .next t ∧ t.mem = s.mem
        ∧ (n < 1088 → (if b then (t.core d).bay.shadow.bad else (t.core d).bay.active.bad) =
            natIns (if b then (s.core d).bay.shadow.bad else (s.core d).bay.active.bad) n))
    ∧ (∃ t, exec (.uncorrectableError (.tile d k n)) s = .next t ∧ t.mem = s.mem
        ∧ (n < 2048 → ∀ x, (s.core d).bay.tiles[k]? = some x → (t.core d).bay.tiles[k]? = some { x with bad := natIns x.bad n }))
    ∧ (∃ t, exec (.uncorrectableError (.mailbox d k n)) s = .next t ∧ t.mem = s.mem
        ∧ ∀ e ∈ (s.core d).mailbox, (if e.idx = k then { e with payload := listMod e.payload n (fun v => { v with bad := true }) } else e)
            ∈ (t.core d).mailbox)
    ∧ (∃ t, exec (.uncorrectableError (.dieControl d)) s = .next t
        ∧ t.dies = listMod s.dies d (fun x => { x with failed := true }) ∧ t.mem = s.mem
        ∧ t.head.log = s.head.log ++ [.machineCheck])
    ∧ (∃ t, exec (.uncorrectableError .headland) s = .next t ∧ t.mem = s.mem
        ∧ (s.head.failing = none → t.head.failing = some .headlandState))
    ∧ exec (.dieReset d) s = .next (if s.tideSlot = 0 ∧ s.dieUp d = true then { s with
        dies := listMod s.dies d (fun x => { x with phase := .isolate s.now, touched := [], failed := false }) } else s)
    ∧ (∀ x q, s.dies[d]? = some x → x.phase = .isolate q →
        (s.now < q + 3 * 4096 → exec (.dieResetLogic d) s = .next s)
        ∧ (q + 3 * 4096 ≤ s.now → (∀ c ∈ dieCores d, (s.dor c).state ≠ .running) → s.circuits = [] → ∃ t,
            exec (.dieResetLogic d) s = .next t
            ∧ ((∀ c ∈ dieCores d, (s.core c).handover = none ∧ (s.dor c).late = []) → t.mem = s.mem) ∧ (∀ o ∈ t.outs, dieOf o.core ≠ d)
            ∧ (∀ c k, dieOf c = d → k < 16 → (t.slot c k).run = .absent)
            ∧ (t.dies[d]?).map (fun y => y.phase) = some .reset))
    ∧ (∀ x, s.dies[d]? = some x → x.phase = .reset → ∃ t, exec (.dieScrub d) s = .next t
        ∧ t.dies = listMod s.dies d (fun x => { x with phase := .scrubbed s.now }) ∧ t.outs = s.outs
        ∧ ((∀ c ∈ dieCores d, (s.core c).lea = none) →
            t.mem = (s.mem.scrub (lsAddr (256 * d) 0) (256 * 2 ^ 20)).scrub (commonsAddr d 0 0) (512 * bankBytes)))
    ∧ (∀ x q, s.dies[d]? = some x → x.phase = .scrubbed q →
        ((s.tideSlot ≠ 0 ∨ s.now ≤ q) → exec (.dieRejoin d) s = .next s)
        ∧ (s.tideSlot = 0 → q < s.now → ∃ t, exec (.dieRejoin d) s = .next t ∧ (t.dies[d]?).map (fun y => y.phase) = some .up
            ∧ t.mem.cells = s.mem.cells ∧ (x.discarded = [] → t.mem = s.mem)))
    ∧ (∃ t, exec (.unitFence (.core d)) s = .next t ∧ t.head.fenced = natIns s.head.fenced d
        ∧ t.head.log = s.head.log ++ [.fenced (.core d)])
    ∧ (∃ t, exec (.unitFence (.port d)) s = .next t ∧ t.head.disabledPorts = natIns s.head.disabledPorts d
        ∧ t.head.log = s.head.log ++ [.fenced (.port d)])
    ∧ (∃ t, exec (.unitFence (.channel d k)) s = .next t ∧ (d, k) ∈ t.head.disabledChannels
        ∧ t.head.log = s.head.log ++ [.fenced (.channel d k)])
    ∧ (s.head.power = .running → s.tideSlot = 0 → ∃ t, exec (.fatalError r) s = .next t ∧ t.head.power = .fatal r
        ∧ t.head.log = s.head.log ++ [.fatal r] ∧ t.mem = s.mem ∧ t.cores = s.cores
        ∧ t.head.dump = s.leas.map (fun p => s.exactAll.dumpLea p.1 p.2)
        ∧ t.head.headDump = some (s.dumpHead (s.head.log ++ [.fatal r])))
    ∧ ((s.head.power ≠ .running ∨ s.tideSlot ≠ 0) → exec (.fatalError r) s = .next s)
    ∧ (∃ t, exec .moduleReset s = .next t ∧ t.head.power = .off ∧ t.mem = Memory.reset ∧ t.cores = [] ∧ t.leas = [] ∧ t.outs = []
        ∧ t.head.dump = s.head.dump ∧ t.head.headDump = s.head.headDump)
    ∧ (s.head.power = .off →
        (img.ecdsaOk = true → img.lmsOk = true → img.manifestOk = true → ∃ t, exec (.secureBoot img) s = .next t
          ∧ t.head.power = .running ∧ t.mem = s.mem ∧ t.cores = s.cores
          ∧ t.head.disabledCores = s.head.fenced.foldl natIns img.disabledCores
          ∧ t.head.disabledChannels = img.disabledChannels ∧ t.head.disabledPorts = img.disabledPorts
          ∧ t.head.measured = [(1, img.fwHash), (2, img.manifestHash), (3, img.scheduleHash), (4, img.secVersion)])
        ∧ ((img.ecdsaOk = false ∨ img.lmsOk = false ∨ img.manifestOk = false) → exec (.secureBoot img) s = .next s))
    ∧ (s.head.power ≠ .off → exec (.secureBoot img) s = .next s)

/-- R227, R304, R319, R328, R334, R370, R377, R382, R389, R391, R393, R440: what each request of the host driver changes, and when
Headland refuses it. The form of the answers and of what physical function 0 reads is log 90, and which readings there are log 97;
how save areas are chosen is log 87; that schedules wait for each other is log 89; that a lea with frames is destroyed at once is
log 35; that a request of the host which translates only in part, or names commons by an offset, is met so is log 36; what else
refuses a template is log 65; that a lea's first key stays is log 66; that a request for a lea that does not exist is refused is log
94: these are the model's choices. -/
def Obligations.HeadlandRequests : Prop :=
  ∀ (s : State) (n k f : Nat) (v : Word) (y : Lea),
    let done (t : State) : Out1 := .next { t with host := { t.host with answer := [0] } }
    let no : Out1 := .next { s with host := { s.host with answer := [1] } }
    (∀ req c, req.msg.elim (some 0x06) msgTemplateFail = some c → ∃ t, exec (.leaCreate req) s = .next t ∧ t.leas = s.leas
        ∧ t.mem = s.mem ∧ t.host.answer = [1, c.toNat])
    ∧ (∀ req m, req.msg = some m → msgTemplateFail m = none → s.requestOk req = false → ∃ t, exec (.leaCreate req) s = .next t
        ∧ t.leas = s.leas ∧ t.mem = s.mem ∧ t.host.answer = [1])
    ∧ (∀ req m banks ways svc areas,
        let cores := (s.coreList.drop req.leab).take req.leal
        req.msg = some m → msgTemplateFail m = none → s.requestOk req = true →
        chooseAll (fun d r => chooseItems 0 512 (s.taken Lea.banks d) r) req.banks = some banks →
        chooseAll (fun d r => chooseItems 0 16 (s.taken Lea.ways d) r) req.ways = some ways →
        chooseAll (fun c r => chooseSlots (s.taken Lea.svc c) r) req.svc = some svc → s.chooseAreas cores [] = some areas →
        s.queuesFit svc = true →
        ∃ t x, exec (.leaCreate req) s = .next t ∧ t.lea req.lea = some x ∧ x.leab = req.leab ∧ x.cores = cores ∧ x.bulk = req.bulk
          ∧ x.keys = req.keys ∧ x.banks = banks ∧ x.ways = ways ∧ x.svc = svc ∧ x.areas = areas
          ∧ t.host.answer = 0 :: (banks ++ ways ++ svc).flatMap (fun p => p.1 :: p.2))
    ∧ (s.lea n = none → exec (.leaDestroy n) s = no)
    ∧ (s.lea n = some y → ∃ t, exec (.leaDestroy n) s = .next t ∧ t.host.answer = [0] ∧ (∀ o ∈ t.outs, o.lea ≠ n)
        ∧ (∀ g ∈ t.gangs, g.lea ≠ n) ∧ (∀ p ∈ t.head.keys, p.2 ≠ n)
        ∧ ((∀ c ∈ y.cores, (s.core c).handover = none) → t.leas = keyDel s.leas n))
    ∧ (∀ sched,
        let ok : Prop := s.schedOk k sched = true ∧ s.schedJoins k sched = true ∧ ∀ c ∈ s.schedCores k, (s.core c).handover = none
        let u := s.modCore k (fun c => { c with schedNext := some sched })
        let agree : Prop := ∀ p ∈ s.leas, (∀ c ∈ p.2.cores, c ∉ s.schedCores k) ∨ u.schedAgrees p.1 p.2 = true
        (ok → ∃ t, exec (.sliceScheduleSet k sched) s = .next t ∧ t.mem = s.mem
          ∧ (agree → t.host.answer = [0] ∧ (t.core k).sched = sched ∧ (t.core k).schedNext = none ∧ (t.core k).sliceEnd = s.now)
          ∧ (¬agree → t.host.answer = [2] ∧ (t.core k).sched = (s.core k).sched ∧ (t.core k).schedNext = some sched))
        ∧ (¬ok → ∃ t, exec (.sliceScheduleSet k sched) s = .next t ∧ t.cores = s.cores ∧ t.host.answer = [1]))
    ∧ (∀ m, s.lea n = some y → k < 15 → templateFail k m = none →
        exec (.dispatchTemplateInstall n k m) s = done (s.modLea n (fun l => { l with templates := keySet l.templates k m })))
    ∧ (∀ m c, s.lea n = some y → k < 15 → templateFail k m = some c → ∃ t, exec (.dispatchTemplateInstall n k m) s = .next t
        ∧ t.leas = s.leas ∧ t.host.answer = [1, c.toNat])
    ∧ (∀ m, (s.lea n = none ∨ 15 ≤ k) → ∃ t, exec (.dispatchTemplateInstall n k m) s = .next t ∧ t.leas = s.leas
        ∧ t.host.answer = [1])
    ∧ (exec (.wdlimSet n k) s = if (s.lea n).isSome ∧ k ≤ 2 ^ 20 then done (s.modLea n (fun l => { l with wdlim := k })) else no)
    ∧ (∀ off, exec (.queueDisable n k off) s =
        .next (if k < 64 then s.modLea n (fun l => { l with queues := keySet l.queues k { l.queue k with off := off } }) else s))
    ∧ (s.lea n = some y →
        let goesOn : Prop := y.isPaused = true ∧ k ≤ s.now ∧ BitVec.ofNat 64 (s.now - k) + v = s.guestTime (some n)
        (goesOn → exec (.leaMigration n k v) s = done (s.modLea n (fun l =>
            { l with paused := k, gtoff := v, lastGuest := s.now - k })))
        ∧ (¬goesOn → exec (.leaMigration n k v) s = no))
    ∧ (s.lea n = some y →
        let waits : Prop := y.s2len ≤ k ∨ (∃ o ∈ s.outs, o.translated n = true)
          ∨ (∃ e ∈ s.cores, ∃ z ∈ e.2.fills, z.lea = n ∧ z.began.isSome = true)
          ∨ (v.getLsbD 0 = true ∧ ∃ p ∈ s.leas, p.2.savesIn (s2Frame v) = true)
        (waits → exec (.stage2Change n k v) s = .next s)
        ∧ (¬waits → ∃ t z, exec (.stage2Change n k v) s = .next t
            ∧ t.lea n = some z ∧ z.s2 = (if v = 0 then keyDel y.s2 k else keySet y.s2 k v)
            ∧ ∀ c e, e ∈ (t.core c).gtb → e.lea ≠ n))
    ∧ (s.lea n = some y → 1 ≤ k → k < 4096 → keyFind s.head.keys k = none → ∃ t z, exec (.keyAssign n k) s = .next t
        ∧ t.lea n = some z ∧ z.keys = y.keys ++ [k] ∧ keyFind t.head.keys k = some n)
    ∧ ((s.lea n = none ∨ k = 0 ∨ 4096 ≤ k ∨ (keyFind s.head.keys k).isSome = true) → exec (.keyAssign n k) s = no)
    ∧ (s.lea n = some y →
        let may : Prop := y.keys.contains k = true ∧ y.keys.head? ≠ some k ∧ s.head.frames.any (fun p => p.2 == k) = false
        (¬may → exec (.keyIdentifierRemove n k) s = no)
        ∧ (may → ∃ t z, exec (.keyIdentifierRemove n k) s = .next t ∧ t.head.keys = keyDel s.head.keys k ∧ t.lea n = some z
            ∧ z.keys = natDel y.keys k))
    ∧ (∀ key : Option Nat,
        let may : Prop := s.frameThere f = true ∧ s.leas.any (fun l => l.2.namesFrame f || l.2.savesIn f) = false
          ∧ ∀ i, key = some i → i = 0 ∨ (keyFind s.head.keys i).isSome = true
        (¬may → exec (.frameRebind f key) s = no)
        ∧ (may → ∃ t, exec (.frameRebind f key) s = .next t
            ∧ (∀ i, key = some i → keyFind t.head.frames f = some i
              ∧ t.mem = (s.mem.forget (f * frameBytes) frameBytes).scrub (f * frameBytes) frameBytes)
            ∧ (key = none → t.mem = s.mem.forget (f * frameBytes) frameBytes ∧ t.head.frames = keyDel s.head.frames f)))
    ∧ (s.lea n = some y →
        (∀ l, s.hostRange y f k 1 = some l → (∀ a ∈ l, s.dieUp (hbmDie a) = true ∧ s.mem.isBad a = false) → ∃ t,
          exec (.hostMemoryAccess n f (.read k)) s = .next t ∧ t.mem = s.mem
          ∧ t.host.answer = 0 :: l.map (fun a => (s.mem.cells.get a).toNat))
        ∧ (s.hostRange y f k 1 = none → exec (.hostMemoryAccess n f (.read k)) s = no)
        ∧ (∀ bs, s.hostRange y f bs.length 2 = none → exec (.hostMemoryAccess n f (.write bs)) s = no)
        ∧ (∀ b x, s.hostRange y f 1 2 = some [x] → s.dieUp (hbmDie x) = true →
            exec (.hostMemoryAccess n f (.write [b])) s = done { s with mem := s.mem.store x 1 b.toNat false })
        ∧ (∀ b x, y.commonsRange k f 1 = some [x] → s.dieUp k = true →
            exec (.hostMemoryAccess n f (.commonsWrite k [b])) s = done { s with mem := s.mem.store x 1 b.toNat false })
        ∧ exec (.hostMemoryAccess n f (.retired k)) s =
            (if k < 64 then .next { s with host := { s.host with answer := [0, (y.queue k).retired] } } else no)
        ∧ exec (.hostMemoryAccess n f .rate) s = .next { s with host := { s.host with answer := [0, y.exchangeCap] } }
        ∧ exec (.hostMemoryAccess n f .faults) s =
            .next { s with host := { s.host with answer := 0 :: y.log.flatMap (fun p => [p.1, p.2]) } })
    ∧ (∀ i, s.islands[k]? = some i → exec (.hostMemoryAccess n f (.readings 0 k)) s = .next { s with host := { s.host with
        answer := [0, i.draw, i.heat, (s.islands.map (fun x => x.draw)).sum, (s.islands.map (fun x => x.heat)).foldl max 0] } })
    ∧ (∀ fn, fn ≠ 0 → exec (.hostMemoryAccess n f (.readings fn k)) s = no)
    ∧ (∀ d, s.head.headDump = some d → exec (.hostMemoryAccess n f .dump) s = if s.head.power = .running then
        .next { s with host := { s.host with answer := [0], region := some d } } else no)

/-- R394-R397: the SPDM responder's sessions, IDE's keys and streams, and the debug function: it opens one lea to a requester
with the tenant's root, reads and writes that lea's words, halts and resumes its threads, and logs matched addresses. What a
request answers with (log 90), that a key exchange ends the former session, with the order of the measurements and the number of the
link stream (log 70), and that a debug write leaves a word's full/empty state (log 39) are the model's choices. -/
def Obligations.HostServices : Prop :=
  ∀ (s : State) (n k fn dg : Nat) (v : Word) (on two : Bool),
    let ans (t : State) (l : List Nat) : Out1 := .next { t with host := { t.host with answer := l } }
    (s.head.power = .running → (fn ≤ 1 → ∃ t, exec (.spdmRequest (.keyExchange fn two dg)) s = .next t
          ∧ keyFind t.host.session fn = some (two, dg) ∧ (fn = 1 → t.dbg.lea = none))
        ∧ (2 ≤ fn → exec (.spdmRequest (.keyExchange fn two dg)) s = ans s [1] ∧ exec (.spdmRequest (.challenge fn k)) s = ans s [1])
        ∧ (fn ≤ 1 → ∃ t, exec (.spdmRequest (.challenge fn k)) s = .next t ∧ t.mem = s.mem ∧ t.host.answer.length = 3)
        ∧ (fn ≤ 1 → ∃ t, exec (.spdmRequest (.getCertificate fn 0)) s = .next t ∧ t.mem = s.mem ∧ t.host.answer.length = 2)
        ∧ (∀ m, fn ≤ 1 → keyFind s.head.measured k = some m → exec (.spdmRequest (.getMeasurement fn k false)) s = ans s [0, m])
        ∧ (keyFind s.host.session fn = none → exec (.spdmRequest (.endSession fn)) s = ans s [1])
        ∧ ((keyFind s.host.session fn).isSome = true → ∃ t, exec (.spdmRequest (.endSession fn)) s = .next t
            ∧ t.host.session = keyDel s.host.session fn ∧ (fn = 1 → t.dbg.lea = none)))
    ∧ (s.head.power ≠ .running → ∀ req, exec (.spdmRequest req) s = .next s)
    ∧ (k ≤ 256 → (keyFind s.host.session 0).isSome = true → ∃ t, exec (.ideKm k (.keyProg dg)) s = .next t
        ∧ (keyGet (none, false, []) t.host.streams k).1 = some dg ∧ t.host.answer = [0])
    ∧ (k ≤ 256 → (keyFind s.host.session 0).isSome = true → ∀ key e, keyGet (none, false, []) s.host.streams k = (some key, e) →
        (∃ t, exec (.ideKm k .setGo) s = .next t ∧ keyGet (none, false, []) t.host.streams k = (some key, true, e.2))
        ∧ ∃ t, exec (.ideKm k .setStop) s = .next t ∧ keyGet (none, false, []) t.host.streams k = (some key, false, e.2))
    ∧ ((keyFind s.host.session 0 = none ∨ 256 < k) → exec (.ideKm k (.keyProg dg)) s = ans s [1] ∧ exec (.ideKm k .setGo) s = ans s [1])
    ∧ (∀ l, keyFind s.host.session 1 = some (true, dg) → s.lea n = some l → (l.digest = dg → ∃ t, exec (.debugUnlock n dg) s = .next t
          ∧ t.dbg.lea = some n ∧ t.mem = s.mem)
        ∧ (l.digest ≠ dg → exec (.debugUnlock n dg) s = ans s [1]))
    ∧ (s.dbg.lea = none → (∀ op, exec (.debugAccess op) s = ans s [1]) ∧ exec .debugStop s = ans s [1]
        ∧ exec .debugResume s = ans s [1] ∧ exec (.debugBrkcap on) s = ans s [1] ∧ exec (.debugAddressMatchSet k v on) s = ans s [1])
    ∧ (s.dbg.lea = some n → ∀ l, s.lea n = some l →
        (∀ t, (∀ c x i, t ≠ .desc c x i) →
          (s.debugPlace n l false t = none → exec (.debugAccess (.read t)) s = ans s [1])
          ∧ (s.debugPlace n l true t = none → exec (.debugAccess (.write t v)) s = ans s [1])
          ∧ (∀ p, s.debugPlace n l false t = some p → exec (.debugAccess (.read t)) s =
              ans { s with dbg := { s.dbg with data := (s.spotWord n p).val } }
                [if (s.spotWord n p).bad then 2 else 0, (s.spotWord n p).val.toNat])
          ∧ (∀ p, s.debugPlace n l true t = some p → exec (.debugAccess (.write t v)) s = ans (s.debugWrite n v p) [0]))
        ∧ (∀ a, s.spotWord n (.mem a) = s.mem.word a ∧ (s.debugWrite n v (.mem a)).mem.cells = (s.mem.putWord a ⟨v, false⟩).cells)
        ∧ (∀ c x i, s.debugSlot n c x = none → exec (.debugAccess (.read (.desc c x i))) s = ans s [1])
        ∧ (∀ c k o, s.spotWord n (.saved c k o) = (((s.core c).save n).range k).word o)
        ∧ (∀ c x i z, s.debugSlot n c x = some z → i < 32 →
            (∃ u, exec (.debugAccess (.read (.desc c x i))) s = .next u ∧ u.mem = s.mem
              ∧ ((s.core c).slotSaved n x = false → u.dbg.data = (z.desc.words (Config.freeWord s.free)).getD i 0)
              ∧ ((s.core c).slotSaved n x = true → u.dbg.data = ((s.awayDesc c n x z.tdp.toNat).getD i ⟨0, false⟩).val))
            ∧ exec (.debugAccess (.write (.desc c x i) v)) s = ans (s.debugDescWrite n c x i z v) [0]
            ∧ ((s.core c).slotSaved n x = false → x < (s.core c).slots.length →
                ((s.debugDescWrite n c x i z v).slot c x).desc = descOf (fun j => ((z.desc.words 0).set i v).getD j 0)))
        ∧ exec (.debugAccess .readControl) s =
            ans { s with dbg := { s.dbg with data := s.dbg.control } } [0, s.dbg.control.toNat]
        ∧ exec .debugStop s = ans { s with dbg := { s.dbg with stop := true } } [0]
        ∧ exec (.debugBrkcap on) s = ans { s with dbg := { s.dbg with brkcap := on } } [0]
        ∧ (k < 4 → exec (.debugAddressMatchSet k v on) s = ans { s with dbg := { s.dbg with
            matchAddr := s.dbg.matchAddr.set k (v &&& 0x0000FFFFFFFFFFFE#64), matchOn := s.dbg.matchOn.set k on } } [0])
        ∧ (∃ t, exec .debugResume s = .next t ∧ t.dbg.stop = false
            ∧ ∀ c j r, j < (s.core c).slots.length → (s.slot c j).debugHalt = some r → (t.slot c j).run = r ∧ (t.slot c j).debugHalt = none))
    ∧ (4 ≤ k → exec (.debugAddressMatchSet k v on) s = ans s [1])
    ∧ (∃ t, exec .debugSessionEnd s = .next t ∧ t.dbg.lea = none ∧ t.dbg.stop = false ∧ t.dbg.brkcap = false)
    ∧ (s.debugMatches = false → exec .addressMatchHalt s = .next s)
    ∧ (s.debugMatches = true → s.me.debugHalt = none → s.me.run ≠ .absent → s.cur.2 < s.myCore.slots.length → ∃ t,
        exec .addressMatchHalt s = .next t ∧ t.me.run = .halted ∧ t.me.debugHalt = some s.me.run ∧ t.me.desc = s.me.desc
        ∧ t.dbg.log = s.dbg.log ++ [(0x0B, 16 * s.cur.1 + s.cur.2, s.pc.toNat, s.pc.toNat)])

/-- R17, R19, R37, R175, R267, R272, R273: right after reset every slot is Absent, ROT is the identity rotation, segments and
STAT are 0, bays, engines and Dorent contexts are at their reset values, and nothing is outstanding. Memory reads as zero and is
full (the model's choice, log 4), and BASE and LIMIT of the segments, the semaphores and the slot counter are 0 (the model's choice,
log 5). -/
def Obligations.ResetState : Prop :=
  let s := State.reset
  (∀ c k, (s.slot c k).run = .absent ∧ (s.slot c k).desc.stat = 0 ∧ (∀ j, (s.slot c k).desc.seg j = ⟨0, 0, 0⟩))
  ∧ (∀ c, (s.core c).rot = 0xFEDCBA9876543210#64 ∧ (s.core c).engine = ⟨none, none, false, false, 0⟩
      ∧ (s.core c).dorent.state = .empty ∧ (s.core c).dorent.loaded = 0 ∧ (∀ k, (s.core c).dorent.q.getD k 0 = 0)
      ∧ (∀ k, (s.core c).dorent.n.getD k 0 = 0) ∧ (∀ k, (s.core c).dorent.chans.getD k .unbound = .unbound)
      ∧ (s.core c).bay.queue = [] ∧ (s.core c).mailbox = [] ∧ (∀ k, ((s.core c).sem k).count = 0))
  ∧ s.outs = [] ∧ s.leas = [] ∧ s.now = 0
  ∧ (∀ a, s.mem.cells.get a = 0 ∧ s.mem.isFull a = true ∧ s.mem.isBad a = false)

/-- The model's invariant: at reset memory is in its canonical form. -/
def Obligations.ResetMemory : Prop := MemoryOk State.reset

/-- The model's invariant: every step keeps memory in its canonical form, from every state, reached by a run or not. -/
def Obligations.StepKeepsMemory : Prop := ∀ s t : State, MemoryOk s → step s = .next t → MemoryOk t

/-- R16, R314, R329, R438: in a turn whose candidate may issue, a step is the execution of the instruction decoded at PC, after which
the turn ends or the next slot is examined; a failed decode, a miss or a failed fetch, and a valid address match execute as what
they come to; a gated turn passes. An event of the agenda executes as it stands, and no thread instruction is one; a step of a
Running context is the execution of its word. R47: what is at PC. -/
def Obligations.StepRunsDecoded : Prop :=
  (∀ (c : Nat) (rest : List Act) (s : State), s.head.power = .running → s.agenda = .turn c :: rest → (s.core c).turned ≤ s.cycle c →
    s.gated c = true → step s = .next (s.endTurn c false))
  ∧ (∀ (c : Nat) (rest : List Act) (s : State), s.head.power = .running → s.agenda = .turn c :: rest → (s.core c).turned ≤ s.cycle c →
    let now := s.cycle c
    let k := ((s.beginTurn c).core c).candidate now
    let s1 := (s.beginTurn c).testHret c k
    let x := s1.core c
    let t : State := { s1 with cur := (c, k) }
    let runs (i : Instr) : Prop := step s = match exec i t with
      | .next u => .next (t.afterTurn u)
      | .fault f => .fault f
      | .refused r => .refused r
    s.gated c = false → (x.slotLea (x.owner now)).isNone = false → s1.dieUp (dieOf c) = true → s1.eligible c k (x.probe == 0) = true →
    s1.heldWait c (x.slot k) = none → (x.slot k).owedTrap = none → t.windowsOpen = true →
    (t.debugMatches = true → runs .addressMatchHalt)
    ∧ (t.debugMatches = false →
      (∀ l, t.fetch = .halves l →
        (∀ i n, decode t.priv l = .ok i n → runs i)
        ∧ (∀ e b n, decode t.priv l = .bad e b n → runs (.decodeTrap e b (BitVec.ofNat 2 n))))
      ∧ (∀ l n, t.fetch = .miss l n → runs .instructionFetch)
      ∧ (∀ e v n, t.fetch = .trap e v n → runs .instructionFetch)))
  ∧ (∀ (i : Instr) (rest : List Act) (s : State), s.head.power = .running → s.agenda = .event i :: rest →
      (isEvent i = true → step s = exec i { s with agenda := rest })
      ∧ (isEvent i = false → step s = .next { s with agenda := rest }))
  ∧ (isEvent (.add 0 0 0) = false ∧ isEvent .ret16 = false ∧ isEvent (.dhalt 0) = false ∧ isEvent (.resultFill 0) = true)
  ∧ (∀ (c : Nat) (rest : List Act) (s : State), s.head.power = .running → s.agenda = .dorent c :: rest →
      let d := s.dor c
      let t : State := { s with agenda := rest, cur := (c, 0) }
      d.state = .running → s.dieUp (dieOf c) = true → d.abort = false → d.park = none →
      (d.loaded ≤ d.pc → step s = exec (.dorentDecodeFault 0x05) t)
      ∧ (d.pc < d.loaded →
          (∀ i, decodeDorent (keyGet 0 d.store d.pc) = .ok i → step s = exec i t)
          ∧ (∀ e, decodeDorent (keyGet 0 d.store d.pc) = .bad e → step s = exec (.dorentDecodeFault e) t)))
  ∧ (∀ (s : State) (h0 h1 : BitVec 16), s.fetchHalf s.pc.toNat = .half h0 false → s.fetchHalf (s.pc.toNat + 2) = .half h1 false →
      h0.extractLsb' 0 2 = 3 → s.fetch = .halves [h0, h1])

/-- R47, R48, R54-R59, R116-R118, R131, R282: words written out from the spec's encodings decode to the instructions they stand
for (MUL w18, w17, w17; CALL 16; BZ w17; LOOP w17; ADDI w5, w6, -4; ADDI w1, w16, 0 and RET in their compact forms, all from the
spec's own examples; LDD; DHALT 5); the all-zero halfword is cause 0x00, and MAJ 0x1B at user level is cause 0x04. -/
def Obligations.DecodeWords : Prop :=
  decodeTableWord 32 0x00A31903 = some (.mul 17 17 18) ∧ decodeTableWord 32 0x0001F833 = some (.call 31 16)
  ∧ decodeTableWord 32 0x007C08AF = some (.bz 7 17) ∧ decodeTableWord 32 0xFF620233 = some (.loop 0x3FD 17)
  ∧ decodeTableWord 32 0xFFC06287 = some (.addi 0xFFC 6 5) ∧ decodeTableWord 16 0x6180 = some (.addiMove16 1 16)
  ∧ decodeTableWord 16 0xA002 = some .ret16 ∧ decodeTableWord 32 0x04B23213 = some (.ldd none 1 2 1 3 4)
  ∧ decodeTableWord 64 0x6050000000000000 = some (.dhalt 5)
  ∧ decode true [0#16] = .bad 0x00 0 1 ∧ decode false [0x006F#16, 0#16] = .bad 0x04 0x6F 2

/-- Every core instruction with a code of its own, every operand at every value its encoding admits: its halfwords decode to it
at supervisor level, whatever follows them. -/
def Obligations.DecodeEncode : Prop :=
  ∀ (i : Instr) (l : List (BitVec 16)), i.decodable = true → decode true (encode i ++ l) = .ok i (encode i).length

/-- Every well-formed Dorent instruction's word decodes to it. -/
def Obligations.DorentDecodeEncode : Prop :=
  ∀ (i : Instr) (w : BitVec 64), i.dorentCode = some w → i.wellFormed = true → decodeDorent w = .ok i

/-- R106, R422: a result written to a full register: that word has it and is clean, PC advances, and every other byte,
full/empty bit, poison bit and register of the module is unchanged; a poisoned result poisons the word. R7, R9: every byte of a value
that the manual leaves undefined, a poisoned result's among them, is zero or one that the reading thread's lea has written (log 7), and
what a lea has given up is no longer counted among the values of the range. -/
def Obligations.ResultFrame : Prop :=
  ∀ (s : State) (n d : Nat) (v : Word), MemoryOk s → s.mem.isFull (s.wAddr d) = true → s.cur.2 < s.myCore.slots.length →
    ∃ t, s.setW n d false v = t
      ∧ t.mem.read (s.wAddr d) 8 = v.toNat
      ∧ (∀ a, a < s.wAddr d ∨ s.wAddr d + 8 ≤ a → t.mem.cells.get a = s.mem.cells.get a)
      ∧ (∀ a, dwordOf a ≠ dwordOf (s.wAddr d) → t.mem.isBad a = s.mem.isBad a)
      ∧ t.mem.isBad (s.wAddr d) = false ∧ t.mem.fe = s.mem.fe
      ∧ t.me.desc = { s.me.desc with pc := s.pc + BitVec.ofNat 64 n } ∧ t.me.run = .ready
      ∧ (∀ c k, (c, k) ≠ s.cur → t.slot c k = s.slot c k)
      ∧ { t with mem := s.mem, cores := s.cores } = s
      ∧ (∀ c, { t.core c with slots := (s.core c).slots } = s.core c)
      ∧ (let u := s.setW n d true v
         u.mem.isBad (s.wAddr d) = true ∧ (∀ i, i < 8 → let b := u.mem.read (s.wAddr d + i) 1
           b = 0 ∨ (s.wrote s.me.lea).getLsbD b = true))
      ∧ (∀ lea k i, let b := ((s.undef lea k).extractLsb' (8 * i) 8).toNat
          b = 0 ∨ (s.wrote lea).getLsbD b = true)
      ∧ (∀ (lea k : Nat) (l : Lea) (p : Nat × BitVec 256), s.lea lea = some l → p ∈ s.mem.past → s.ownsRegion lea l p.1 = true →
          p.2.getLsbD k = true → (s.wrote (some lea)).getLsbD k = true)
      ∧ (∀ a k w i, i < k → (keyGet 0 (s.mem.write a k w).past (regionOf a)).getLsbD (w / 256 ^ i % 256) = true)
      ∧ (∀ lea a k, (s.giveUp lea a k).mem.pastOf a k = 0)

/-- R19, R26, R62, R105, R144, R381: what issuing, forfeiting and parking leave unchanged: an access or a queued instruction changes
no byte of memory, only marks its destinations pending, and no register but PC; a forfeit or a park changes the slot's state
alone. R65: a destination word that an event of an earlier instruction with a lookahead still names is written after it. -/
def Obligations.IssueFrames : Prop :=
  ∀ (s : State) (n k size look : Nat) (op : MemOp) (rx : Option (BitVec 3)) (acq rel : Bool) (dst : List Nat) (off : Int)
      (data : PWord) (w : Wait), s.cur.2 < s.myCore.slots.length →
    (∃ t, s.accessed n k size op rx acq rel (some look) dst off data = .next t
      ∧ t.mem.cells = s.mem.cells ∧ t.mem.poison = s.mem.poison
      ∧ (∀ a, a ∉ dst.map s.wAddr → t.mem.feOf a = s.mem.feOf a)
      ∧ (∀ a ∈ dst.map s.wAddr, t.mem.isPending a = true)
      ∧ t.me.desc = { s.me.desc with pc := s.pc + BitVec.ofNat 64 n } ∧ t.outs.length = s.outs.length + 1
      ∧ (∀ j, j ≠ s.cur.2 → t.slot s.cur.1 j = s.slot s.cur.1 j))
    ∧ (∃ t, s.accessed n k size op rx acq rel none [] off data = .next t ∧ t.mem = s.mem
        ∧ t.me.desc = { s.me.desc with pc := s.pc + BitVec.ofNat 64 n } ∧ t.outs.length = s.outs.length + 1)
    ∧ (s.issue n).mem = s.mem ∧ (s.issue n).me.desc = { s.me.desc with pc := s.pc + BitVec.ofNat 64 n }
    ∧ (s.issue n).me.run = .ready ∧ (s.issue n).outs = s.outs
    ∧ s.forfeit.mem = s.mem ∧ s.forfeit.me = { s.me with run := .forfeiting } ∧ s.forfeit.outs = s.outs
    ∧ (s.park w).mem = s.mem ∧ (s.park w).me = { s.me with run := .parked, wait := w } ∧ (s.park w).outs = s.outs
    ∧ (∀ a f, s.regsAway = true → s.withOperands [a] [] f = s.park .pool ∧ s.withOperands [] [a] f = s.park .pool)
    ∧ (∀ a f, s.regsAway = false →
        (s.mem.feOf a = some .empty → s.withOperands [a] [] f = s.park (.word a))
        ∧ (s.mem.feOf a = some .pending → s.withOperands [a] [] f = s.forfeit ∧ s.withOperands [] [a] f = s.forfeit)
        ∧ (∀ o ∈ s.outs, o.tid = s.me.tid → o.windowed = true → s.eventAt o a = true → s.withOperands [] [a] f = s.forfeit))

/-- R400, R401, R403: a trap makes the thread Halted with PC at the instruction, sets TCAUSE, TPC and TVAL, and leaves a record for
the slot; a fault of slot 15 goes to Headland with no record, in a handover with the units of its own lea (R378). R48, R437:
DECODE_TRAP and a failed fetch trap; a miss asks for its line. -/
def Obligations.Traps : Prop :=
  ∀ (s : State) (n : Nat) (c : BitVec 8) (v : Word) (il : BitVec 2), s.cur.2 < s.myCore.slots.length →
    let w0 := recW0 (s.guestTime s.me.lea) s.cur.2 .thread 0 (n / 2) c
    let t := s.raise n c v
    t.me.run = .halted ∧ t.me.desc = { s.me.desc with tcause := w0 &&& 0xFFFF#64, tpc := s.pc, tval := v }
    ∧ t.me.tdp = s.me.tdp ∧ t.mem = s.mem ∧ t.outs = s.outs
    ∧ (s.cur.2 ≠ 15 → t.me.record = s.me.record ++ [(s.me.tid, s.nextId, ⟨w0, s.pc, v, s.me.tdp, s.cur.2⟩)] ∧ t.myCore.fault15 = s.myCore.fault15)
    ∧ (s.cur.2 = 15 → t.me.record = s.me.record
        ∧ (s.myCore.lea = s.me.lea → t.myCore.fault15 = some c.toNat)
        ∧ (s.myCore.lea ≠ s.me.lea → t.myCore.fault15 = s.myCore.fault15
            ∧ ∀ l e p, s.me.lea = some l → e ∈ s.myCore.saves → e.1 = l → e.2.pool = some p →
              (l, { e.2 with pool := some { p with fault15 := some c.toNat } }) ∈ t.myCore.saves))
    ∧ (∀ j, j ≠ s.cur.2 → t.slot s.cur.1 j = s.slot s.cur.1 j)
    ∧ exec (.decodeTrap c v il) s = .next (s.raise (2 * il.toNat) c v)
    ∧ (∀ m j, s.fetch = .miss m j → exec .instructionFetch s = .next (s.missLine m j))
    ∧ (∀ e u j, s.fetch = .trap e u j → exec .instructionFetch s = .next (s.raise (2 * j) e u))

/-- R39: the checks of a segment in their order: no space, a space the operation may not use, a right that is missing, an offset
beyond LIMIT, an address beyond the space; otherwise none. -/
def Obligations.SegmentChecks : Prop :=
  ∀ (g : Seg) (ext off size : Nat) (need : Right) (ok : List Nat),
    segFail g ext off size [need] ok =
      if g.attr.extractLsb' 0 3 = 0 then some 0x20
      else if (g.attr.extractLsb' 0 3).toNat ∉ ok then some 0x24
      else if g.has need = false then some 0x22
      else if off + size > g.limit.toNat then some 0x21
      else if g.base.toNat + off + size > ext then some 0x21
      else none
end

