-- ==== Sys2Proof/Laws/State.lean ====
section
/-! SUPPORT. What each update of the state leaves alone: one lemma for each field and update. -/

namespace Sys2Proof.Laws

open Sys2Proof Sys2Proof.Machine

@[simp] theorem setCore_now (s : State) (c : Nat) (x : Core) : (s.setCore c x).now = s.now := rfl
@[simp] theorem setCore_served (s : State) (c : Nat) (x : Core) : (s.setCore c x).served = s.served := rfl
@[simp] theorem setCore_mem (s : State) (c : Nat) (x : Core) : (s.setCore c x).mem = s.mem := rfl
@[simp] theorem setCore_outs (s : State) (c : Nat) (x : Core) : (s.setCore c x).outs = s.outs := rfl
@[simp] theorem setCore_mail (s : State) (c : Nat) (x : Core) : (s.setCore c x).mail = s.mail := rfl
@[simp] theorem setCore_banks (s : State) (c : Nat) (x : Core) : (s.setCore c x).banks = s.banks := rfl
@[simp] theorem setCore_leas (s : State) (c : Nat) (x : Core) : (s.setCore c x).leas = s.leas := rfl
@[simp] theorem setCore_gangs (s : State) (c : Nat) (x : Core) : (s.setCore c x).gangs = s.gangs := rfl
@[simp] theorem setCore_circuits (s : State) (c : Nat) (x : Core) : (s.setCore c x).circuits = s.circuits := rfl
@[simp] theorem setCore_agreements (s : State) (c : Nat) (x : Core) : (s.setCore c x).agreements = s.agreements := rfl
@[simp] theorem setCore_dies (s : State) (c : Nat) (x : Core) : (s.setCore c x).dies = s.dies := rfl
@[simp] theorem setCore_islands (s : State) (c : Nat) (x : Core) : (s.setCore c x).islands = s.islands := rfl
@[simp] theorem setCore_cycles (s : State) (c : Nat) (x : Core) : (s.setCore c x).cycles = s.cycles := rfl
@[simp] theorem setCore_replays (s : State) (c : Nat) (x : Core) : (s.setCore c x).replays = s.replays := rfl
@[simp] theorem setCore_head (s : State) (c : Nat) (x : Core) : (s.setCore c x).head = s.head := rfl
@[simp] theorem setCore_host (s : State) (c : Nat) (x : Core) : (s.setCore c x).host = s.host := rfl
@[simp] theorem setCore_dbg (s : State) (c : Nat) (x : Core) : (s.setCore c x).dbg = s.dbg := rfl
@[simp] theorem setCore_cur (s : State) (c : Nat) (x : Core) : (s.setCore c x).cur = s.cur := rfl
@[simp] theorem setCore_agenda (s : State) (c : Nat) (x : Core) : (s.setCore c x).agenda = s.agenda := rfl
@[simp] theorem setCore_nextId (s : State) (c : Nat) (x : Core) : (s.setCore c x).nextId = s.nextId := rfl
@[simp] theorem setCore_free (s : State) (c : Nat) (x : Core) : (s.setCore c x).free = s.free := rfl

@[simp] theorem modCore_now (s : State) (c : Nat) (f : Core → Core) : (s.modCore c f).now = s.now := rfl
@[simp] theorem modCore_served (s : State) (c : Nat) (f : Core → Core) : (s.modCore c f).served = s.served := rfl
@[simp] theorem modCore_mem (s : State) (c : Nat) (f : Core → Core) : (s.modCore c f).mem = s.mem := rfl
@[simp] theorem modCore_outs (s : State) (c : Nat) (f : Core → Core) : (s.modCore c f).outs = s.outs := rfl
@[simp] theorem modCore_mail (s : State) (c : Nat) (f : Core → Core) : (s.modCore c f).mail = s.mail := rfl
@[simp] theorem modCore_banks (s : State) (c : Nat) (f : Core → Core) : (s.modCore c f).banks = s.banks := rfl
@[simp] theorem modCore_leas (s : State) (c : Nat) (f : Core → Core) : (s.modCore c f).leas = s.leas := rfl
@[simp] theorem modCore_gangs (s : State) (c : Nat) (f : Core → Core) : (s.modCore c f).gangs = s.gangs := rfl
@[simp] theorem modCore_circuits (s : State) (c : Nat) (f : Core → Core) : (s.modCore c f).circuits = s.circuits := rfl
@[simp] theorem modCore_agreements (s : State) (c : Nat) (f : Core → Core) : (s.modCore c f).agreements = s.agreements := rfl
@[simp] theorem modCore_dies (s : State) (c : Nat) (f : Core → Core) : (s.modCore c f).dies = s.dies := rfl
@[simp] theorem modCore_islands (s : State) (c : Nat) (f : Core → Core) : (s.modCore c f).islands = s.islands := rfl
@[simp] theorem modCore_cycles (s : State) (c : Nat) (f : Core → Core) : (s.modCore c f).cycles = s.cycles := rfl
@[simp] theorem modCore_replays (s : State) (c : Nat) (f : Core → Core) : (s.modCore c f).replays = s.replays := rfl
@[simp] theorem modCore_head (s : State) (c : Nat) (f : Core → Core) : (s.modCore c f).head = s.head := rfl
@[simp] theorem modCore_host (s : State) (c : Nat) (f : Core → Core) : (s.modCore c f).host = s.host := rfl
@[simp] theorem modCore_dbg (s : State) (c : Nat) (f : Core → Core) : (s.modCore c f).dbg = s.dbg := rfl
@[simp] theorem modCore_cur (s : State) (c : Nat) (f : Core → Core) : (s.modCore c f).cur = s.cur := rfl
@[simp] theorem modCore_agenda (s : State) (c : Nat) (f : Core → Core) : (s.modCore c f).agenda = s.agenda := rfl
@[simp] theorem modCore_nextId (s : State) (c : Nat) (f : Core → Core) : (s.modCore c f).nextId = s.nextId := rfl
@[simp] theorem modCore_free (s : State) (c : Nat) (f : Core → Core) : (s.modCore c f).free = s.free := rfl

@[simp] theorem modSlot_now (s : State) (c k : Nat) (f : Slot → Slot) : (s.modSlot c k f).now = s.now := rfl
@[simp] theorem modSlot_served (s : State) (c k : Nat) (f : Slot → Slot) : (s.modSlot c k f).served = s.served := rfl
@[simp] theorem modSlot_mem (s : State) (c k : Nat) (f : Slot → Slot) : (s.modSlot c k f).mem = s.mem := rfl
@[simp] theorem modSlot_outs (s : State) (c k : Nat) (f : Slot → Slot) : (s.modSlot c k f).outs = s.outs := rfl
@[simp] theorem modSlot_mail (s : State) (c k : Nat) (f : Slot → Slot) : (s.modSlot c k f).mail = s.mail := rfl
@[simp] theorem modSlot_banks (s : State) (c k : Nat) (f : Slot → Slot) : (s.modSlot c k f).banks = s.banks := rfl
@[simp] theorem modSlot_leas (s : State) (c k : Nat) (f : Slot → Slot) : (s.modSlot c k f).leas = s.leas := rfl
@[simp] theorem modSlot_gangs (s : State) (c k : Nat) (f : Slot → Slot) : (s.modSlot c k f).gangs = s.gangs := rfl
@[simp] theorem modSlot_circuits (s : State) (c k : Nat) (f : Slot → Slot) : (s.modSlot c k f).circuits = s.circuits := rfl
@[simp] theorem modSlot_agreements (s : State) (c k : Nat) (f : Slot → Slot) : (s.modSlot c k f).agreements = s.agreements := rfl
@[simp] theorem modSlot_dies (s : State) (c k : Nat) (f : Slot → Slot) : (s.modSlot c k f).dies = s.dies := rfl
@[simp] theorem modSlot_islands (s : State) (c k : Nat) (f : Slot → Slot) : (s.modSlot c k f).islands = s.islands := rfl
@[simp] theorem modSlot_cycles (s : State) (c k : Nat) (f : Slot → Slot) : (s.modSlot c k f).cycles = s.cycles := rfl
@[simp] theorem modSlot_replays (s : State) (c k : Nat) (f : Slot → Slot) : (s.modSlot c k f).replays = s.replays := rfl
@[simp] theorem modSlot_head (s : State) (c k : Nat) (f : Slot → Slot) : (s.modSlot c k f).head = s.head := rfl
@[simp] theorem modSlot_host (s : State) (c k : Nat) (f : Slot → Slot) : (s.modSlot c k f).host = s.host := rfl
@[simp] theorem modSlot_dbg (s : State) (c k : Nat) (f : Slot → Slot) : (s.modSlot c k f).dbg = s.dbg := rfl
@[simp] theorem modSlot_cur (s : State) (c k : Nat) (f : Slot → Slot) : (s.modSlot c k f).cur = s.cur := rfl
@[simp] theorem modSlot_agenda (s : State) (c k : Nat) (f : Slot → Slot) : (s.modSlot c k f).agenda = s.agenda := rfl
@[simp] theorem modSlot_nextId (s : State) (c k : Nat) (f : Slot → Slot) : (s.modSlot c k f).nextId = s.nextId := rfl
@[simp] theorem modSlot_free (s : State) (c k : Nat) (f : Slot → Slot) : (s.modSlot c k f).free = s.free := rfl

@[simp] theorem modMe_now (s : State) (f : Slot → Slot) : (s.modMe f).now = s.now := rfl
@[simp] theorem modMe_served (s : State) (f : Slot → Slot) : (s.modMe f).served = s.served := rfl
@[simp] theorem modMe_mem (s : State) (f : Slot → Slot) : (s.modMe f).mem = s.mem := rfl
@[simp] theorem modMe_outs (s : State) (f : Slot → Slot) : (s.modMe f).outs = s.outs := rfl
@[simp] theorem modMe_mail (s : State) (f : Slot → Slot) : (s.modMe f).mail = s.mail := rfl
@[simp] theorem modMe_banks (s : State) (f : Slot → Slot) : (s.modMe f).banks = s.banks := rfl
@[simp] theorem modMe_leas (s : State) (f : Slot → Slot) : (s.modMe f).leas = s.leas := rfl
@[simp] theorem modMe_gangs (s : State) (f : Slot → Slot) : (s.modMe f).gangs = s.gangs := rfl
@[simp] theorem modMe_circuits (s : State) (f : Slot → Slot) : (s.modMe f).circuits = s.circuits := rfl
@[simp] theorem modMe_agreements (s : State) (f : Slot → Slot) : (s.modMe f).agreements = s.agreements := rfl
@[simp] theorem modMe_dies (s : State) (f : Slot → Slot) : (s.modMe f).dies = s.dies := rfl
@[simp] theorem modMe_islands (s : State) (f : Slot → Slot) : (s.modMe f).islands = s.islands := rfl
@[simp] theorem modMe_cycles (s : State) (f : Slot → Slot) : (s.modMe f).cycles = s.cycles := rfl
@[simp] theorem modMe_replays (s : State) (f : Slot → Slot) : (s.modMe f).replays = s.replays := rfl
@[simp] theorem modMe_head (s : State) (f : Slot → Slot) : (s.modMe f).head = s.head := rfl
@[simp] theorem modMe_host (s : State) (f : Slot → Slot) : (s.modMe f).host = s.host := rfl
@[simp] theorem modMe_dbg (s : State) (f : Slot → Slot) : (s.modMe f).dbg = s.dbg := rfl
@[simp] theorem modMe_cur (s : State) (f : Slot → Slot) : (s.modMe f).cur = s.cur := rfl
@[simp] theorem modMe_agenda (s : State) (f : Slot → Slot) : (s.modMe f).agenda = s.agenda := rfl
@[simp] theorem modMe_nextId (s : State) (f : Slot → Slot) : (s.modMe f).nextId = s.nextId := rfl
@[simp] theorem modMe_free (s : State) (f : Slot → Slot) : (s.modMe f).free = s.free := rfl

@[simp] theorem modMyCore_now (s : State) (f : Core → Core) : (s.modMyCore f).now = s.now := rfl
@[simp] theorem modMyCore_served (s : State) (f : Core → Core) : (s.modMyCore f).served = s.served := rfl
@[simp] theorem modMyCore_mem (s : State) (f : Core → Core) : (s.modMyCore f).mem = s.mem := rfl
@[simp] theorem modMyCore_outs (s : State) (f : Core → Core) : (s.modMyCore f).outs = s.outs := rfl
@[simp] theorem modMyCore_mail (s : State) (f : Core → Core) : (s.modMyCore f).mail = s.mail := rfl
@[simp] theorem modMyCore_banks (s : State) (f : Core → Core) : (s.modMyCore f).banks = s.banks := rfl
@[simp] theorem modMyCore_leas (s : State) (f : Core → Core) : (s.modMyCore f).leas = s.leas := rfl
@[simp] theorem modMyCore_gangs (s : State) (f : Core → Core) : (s.modMyCore f).gangs = s.gangs := rfl
@[simp] theorem modMyCore_circuits (s : State) (f : Core → Core) : (s.modMyCore f).circuits = s.circuits := rfl
@[simp] theorem modMyCore_agreements (s : State) (f : Core → Core) : (s.modMyCore f).agreements = s.agreements := rfl
@[simp] theorem modMyCore_dies (s : State) (f : Core → Core) : (s.modMyCore f).dies = s.dies := rfl
@[simp] theorem modMyCore_islands (s : State) (f : Core → Core) : (s.modMyCore f).islands = s.islands := rfl
@[simp] theorem modMyCore_cycles (s : State) (f : Core → Core) : (s.modMyCore f).cycles = s.cycles := rfl
@[simp] theorem modMyCore_replays (s : State) (f : Core → Core) : (s.modMyCore f).replays = s.replays := rfl
@[simp] theorem modMyCore_head (s : State) (f : Core → Core) : (s.modMyCore f).head = s.head := rfl
@[simp] theorem modMyCore_host (s : State) (f : Core → Core) : (s.modMyCore f).host = s.host := rfl
@[simp] theorem modMyCore_dbg (s : State) (f : Core → Core) : (s.modMyCore f).dbg = s.dbg := rfl
@[simp] theorem modMyCore_cur (s : State) (f : Core → Core) : (s.modMyCore f).cur = s.cur := rfl
@[simp] theorem modMyCore_agenda (s : State) (f : Core → Core) : (s.modMyCore f).agenda = s.agenda := rfl
@[simp] theorem modMyCore_nextId (s : State) (f : Core → Core) : (s.modMyCore f).nextId = s.nextId := rfl
@[simp] theorem modMyCore_free (s : State) (f : Core → Core) : (s.modMyCore f).free = s.free := rfl

@[simp] theorem modDesc_now (s : State) (f : Desc → Desc) : (s.modDesc f).now = s.now := rfl
@[simp] theorem modDesc_served (s : State) (f : Desc → Desc) : (s.modDesc f).served = s.served := rfl
@[simp] theorem modDesc_mem (s : State) (f : Desc → Desc) : (s.modDesc f).mem = s.mem := rfl
@[simp] theorem modDesc_outs (s : State) (f : Desc → Desc) : (s.modDesc f).outs = s.outs := rfl
@[simp] theorem modDesc_mail (s : State) (f : Desc → Desc) : (s.modDesc f).mail = s.mail := rfl
@[simp] theorem modDesc_banks (s : State) (f : Desc → Desc) : (s.modDesc f).banks = s.banks := rfl
@[simp] theorem modDesc_leas (s : State) (f : Desc → Desc) : (s.modDesc f).leas = s.leas := rfl
@[simp] theorem modDesc_gangs (s : State) (f : Desc → Desc) : (s.modDesc f).gangs = s.gangs := rfl
@[simp] theorem modDesc_circuits (s : State) (f : Desc → Desc) : (s.modDesc f).circuits = s.circuits := rfl
@[simp] theorem modDesc_agreements (s : State) (f : Desc → Desc) : (s.modDesc f).agreements = s.agreements := rfl
@[simp] theorem modDesc_dies (s : State) (f : Desc → Desc) : (s.modDesc f).dies = s.dies := rfl
@[simp] theorem modDesc_islands (s : State) (f : Desc → Desc) : (s.modDesc f).islands = s.islands := rfl
@[simp] theorem modDesc_cycles (s : State) (f : Desc → Desc) : (s.modDesc f).cycles = s.cycles := rfl
@[simp] theorem modDesc_replays (s : State) (f : Desc → Desc) : (s.modDesc f).replays = s.replays := rfl
@[simp] theorem modDesc_head (s : State) (f : Desc → Desc) : (s.modDesc f).head = s.head := rfl
@[simp] theorem modDesc_host (s : State) (f : Desc → Desc) : (s.modDesc f).host = s.host := rfl
@[simp] theorem modDesc_dbg (s : State) (f : Desc → Desc) : (s.modDesc f).dbg = s.dbg := rfl
@[simp] theorem modDesc_cur (s : State) (f : Desc → Desc) : (s.modDesc f).cur = s.cur := rfl
@[simp] theorem modDesc_agenda (s : State) (f : Desc → Desc) : (s.modDesc f).agenda = s.agenda := rfl
@[simp] theorem modDesc_nextId (s : State) (f : Desc → Desc) : (s.modDesc f).nextId = s.nextId := rfl
@[simp] theorem modDesc_free (s : State) (f : Desc → Desc) : (s.modDesc f).free = s.free := rfl

@[simp] theorem issueTo_now (s : State) (p : Word) : (s.issueTo p).now = s.now := rfl
@[simp] theorem issueTo_served (s : State) (p : Word) : (s.issueTo p).served = s.served := rfl
@[simp] theorem issueTo_mem (s : State) (p : Word) : (s.issueTo p).mem = s.mem := rfl
@[simp] theorem issueTo_outs (s : State) (p : Word) : (s.issueTo p).outs = s.outs := rfl
@[simp] theorem issueTo_mail (s : State) (p : Word) : (s.issueTo p).mail = s.mail := rfl
@[simp] theorem issueTo_banks (s : State) (p : Word) : (s.issueTo p).banks = s.banks := rfl
@[simp] theorem issueTo_leas (s : State) (p : Word) : (s.issueTo p).leas = s.leas := rfl
@[simp] theorem issueTo_gangs (s : State) (p : Word) : (s.issueTo p).gangs = s.gangs := rfl
@[simp] theorem issueTo_circuits (s : State) (p : Word) : (s.issueTo p).circuits = s.circuits := rfl
@[simp] theorem issueTo_agreements (s : State) (p : Word) : (s.issueTo p).agreements = s.agreements := rfl
@[simp] theorem issueTo_dies (s : State) (p : Word) : (s.issueTo p).dies = s.dies := rfl
@[simp] theorem issueTo_islands (s : State) (p : Word) : (s.issueTo p).islands = s.islands := rfl
@[simp] theorem issueTo_cycles (s : State) (p : Word) : (s.issueTo p).cycles = s.cycles := rfl
@[simp] theorem issueTo_replays (s : State) (p : Word) : (s.issueTo p).replays = s.replays := rfl
@[simp] theorem issueTo_head (s : State) (p : Word) : (s.issueTo p).head = s.head := rfl
@[simp] theorem issueTo_host (s : State) (p : Word) : (s.issueTo p).host = s.host := rfl
@[simp] theorem issueTo_dbg (s : State) (p : Word) : (s.issueTo p).dbg = s.dbg := rfl
@[simp] theorem issueTo_cur (s : State) (p : Word) : (s.issueTo p).cur = s.cur := rfl
@[simp] theorem issueTo_agenda (s : State) (p : Word) : (s.issueTo p).agenda = s.agenda := rfl
@[simp] theorem issueTo_nextId (s : State) (p : Word) : (s.issueTo p).nextId = s.nextId := rfl
@[simp] theorem issueTo_free (s : State) (p : Word) : (s.issueTo p).free = s.free := rfl

@[simp] theorem issue_now (s : State) (n : Nat) : (s.issue n).now = s.now := rfl
@[simp] theorem issue_served (s : State) (n : Nat) : (s.issue n).served = s.served := rfl
@[simp] theorem issue_mem (s : State) (n : Nat) : (s.issue n).mem = s.mem := rfl
@[simp] theorem issue_outs (s : State) (n : Nat) : (s.issue n).outs = s.outs := rfl
@[simp] theorem issue_mail (s : State) (n : Nat) : (s.issue n).mail = s.mail := rfl
@[simp] theorem issue_banks (s : State) (n : Nat) : (s.issue n).banks = s.banks := rfl
@[simp] theorem issue_leas (s : State) (n : Nat) : (s.issue n).leas = s.leas := rfl
@[simp] theorem issue_gangs (s : State) (n : Nat) : (s.issue n).gangs = s.gangs := rfl
@[simp] theorem issue_circuits (s : State) (n : Nat) : (s.issue n).circuits = s.circuits := rfl
@[simp] theorem issue_agreements (s : State) (n : Nat) : (s.issue n).agreements = s.agreements := rfl
@[simp] theorem issue_dies (s : State) (n : Nat) : (s.issue n).dies = s.dies := rfl
@[simp] theorem issue_islands (s : State) (n : Nat) : (s.issue n).islands = s.islands := rfl
@[simp] theorem issue_cycles (s : State) (n : Nat) : (s.issue n).cycles = s.cycles := rfl
@[simp] theorem issue_replays (s : State) (n : Nat) : (s.issue n).replays = s.replays := rfl
@[simp] theorem issue_head (s : State) (n : Nat) : (s.issue n).head = s.head := rfl
@[simp] theorem issue_host (s : State) (n : Nat) : (s.issue n).host = s.host := rfl
@[simp] theorem issue_dbg (s : State) (n : Nat) : (s.issue n).dbg = s.dbg := rfl
@[simp] theorem issue_cur (s : State) (n : Nat) : (s.issue n).cur = s.cur := rfl
@[simp] theorem issue_agenda (s : State) (n : Nat) : (s.issue n).agenda = s.agenda := rfl
@[simp] theorem issue_nextId (s : State) (n : Nat) : (s.issue n).nextId = s.nextId := rfl
@[simp] theorem issue_free (s : State) (n : Nat) : (s.issue n).free = s.free := rfl

@[simp] theorem park_now (s : State) (w : Wait) : (s.park w).now = s.now := rfl
@[simp] theorem park_served (s : State) (w : Wait) : (s.park w).served = s.served := rfl
@[simp] theorem park_mem (s : State) (w : Wait) : (s.park w).mem = s.mem := rfl
@[simp] theorem park_outs (s : State) (w : Wait) : (s.park w).outs = s.outs := rfl
@[simp] theorem park_mail (s : State) (w : Wait) : (s.park w).mail = s.mail := rfl
@[simp] theorem park_banks (s : State) (w : Wait) : (s.park w).banks = s.banks := rfl
@[simp] theorem park_leas (s : State) (w : Wait) : (s.park w).leas = s.leas := rfl
@[simp] theorem park_gangs (s : State) (w : Wait) : (s.park w).gangs = s.gangs := rfl
@[simp] theorem park_circuits (s : State) (w : Wait) : (s.park w).circuits = s.circuits := rfl
@[simp] theorem park_agreements (s : State) (w : Wait) : (s.park w).agreements = s.agreements := rfl
@[simp] theorem park_dies (s : State) (w : Wait) : (s.park w).dies = s.dies := rfl
@[simp] theorem park_islands (s : State) (w : Wait) : (s.park w).islands = s.islands := rfl
@[simp] theorem park_cycles (s : State) (w : Wait) : (s.park w).cycles = s.cycles := rfl
@[simp] theorem park_replays (s : State) (w : Wait) : (s.park w).replays = s.replays := rfl
@[simp] theorem park_head (s : State) (w : Wait) : (s.park w).head = s.head := rfl
@[simp] theorem park_host (s : State) (w : Wait) : (s.park w).host = s.host := rfl
@[simp] theorem park_dbg (s : State) (w : Wait) : (s.park w).dbg = s.dbg := rfl
@[simp] theorem park_cur (s : State) (w : Wait) : (s.park w).cur = s.cur := rfl
@[simp] theorem park_agenda (s : State) (w : Wait) : (s.park w).agenda = s.agenda := rfl
@[simp] theorem park_nextId (s : State) (w : Wait) : (s.park w).nextId = s.nextId := rfl
@[simp] theorem park_free (s : State) (w : Wait) : (s.park w).free = s.free := rfl

@[simp] theorem forfeit_now (s : State) : (s.forfeit).now = s.now := rfl
@[simp] theorem forfeit_served (s : State) : (s.forfeit).served = s.served := rfl
@[simp] theorem forfeit_mem (s : State) : (s.forfeit).mem = s.mem := rfl
@[simp] theorem forfeit_outs (s : State) : (s.forfeit).outs = s.outs := rfl
@[simp] theorem forfeit_mail (s : State) : (s.forfeit).mail = s.mail := rfl
@[simp] theorem forfeit_banks (s : State) : (s.forfeit).banks = s.banks := rfl
@[simp] theorem forfeit_leas (s : State) : (s.forfeit).leas = s.leas := rfl
@[simp] theorem forfeit_gangs (s : State) : (s.forfeit).gangs = s.gangs := rfl
@[simp] theorem forfeit_circuits (s : State) : (s.forfeit).circuits = s.circuits := rfl
@[simp] theorem forfeit_agreements (s : State) : (s.forfeit).agreements = s.agreements := rfl
@[simp] theorem forfeit_dies (s : State) : (s.forfeit).dies = s.dies := rfl
@[simp] theorem forfeit_islands (s : State) : (s.forfeit).islands = s.islands := rfl
@[simp] theorem forfeit_cycles (s : State) : (s.forfeit).cycles = s.cycles := rfl
@[simp] theorem forfeit_replays (s : State) : (s.forfeit).replays = s.replays := rfl
@[simp] theorem forfeit_head (s : State) : (s.forfeit).head = s.head := rfl
@[simp] theorem forfeit_host (s : State) : (s.forfeit).host = s.host := rfl
@[simp] theorem forfeit_dbg (s : State) : (s.forfeit).dbg = s.dbg := rfl
@[simp] theorem forfeit_cur (s : State) : (s.forfeit).cur = s.cur := rfl
@[simp] theorem forfeit_agenda (s : State) : (s.forfeit).agenda = s.agenda := rfl
@[simp] theorem forfeit_nextId (s : State) : (s.forfeit).nextId = s.nextId := rfl
@[simp] theorem forfeit_free (s : State) : (s.forfeit).free = s.free := rfl

@[simp] theorem addOut_now (s : State) (o : Out) : (s.addOut o).now = s.now := rfl
@[simp] theorem addOut_served (s : State) (o : Out) : (s.addOut o).served = s.served := rfl
@[simp] theorem addOut_mem (s : State) (o : Out) : (s.addOut o).mem = s.mem := rfl
@[simp] theorem addOut_mail (s : State) (o : Out) : (s.addOut o).mail = s.mail := rfl
@[simp] theorem addOut_banks (s : State) (o : Out) : (s.addOut o).banks = s.banks := rfl
@[simp] theorem addOut_leas (s : State) (o : Out) : (s.addOut o).leas = s.leas := rfl
@[simp] theorem addOut_gangs (s : State) (o : Out) : (s.addOut o).gangs = s.gangs := rfl
@[simp] theorem addOut_circuits (s : State) (o : Out) : (s.addOut o).circuits = s.circuits := rfl
@[simp] theorem addOut_agreements (s : State) (o : Out) : (s.addOut o).agreements = s.agreements := rfl
@[simp] theorem addOut_dies (s : State) (o : Out) : (s.addOut o).dies = s.dies := rfl
@[simp] theorem addOut_islands (s : State) (o : Out) : (s.addOut o).islands = s.islands := rfl
@[simp] theorem addOut_cycles (s : State) (o : Out) : (s.addOut o).cycles = s.cycles := rfl
@[simp] theorem addOut_replays (s : State) (o : Out) : (s.addOut o).replays = s.replays := rfl
@[simp] theorem addOut_head (s : State) (o : Out) : (s.addOut o).head = s.head := rfl
@[simp] theorem addOut_host (s : State) (o : Out) : (s.addOut o).host = s.host := rfl
@[simp] theorem addOut_dbg (s : State) (o : Out) : (s.addOut o).dbg = s.dbg := rfl
@[simp] theorem addOut_cur (s : State) (o : Out) : (s.addOut o).cur = s.cur := rfl
@[simp] theorem addOut_agenda (s : State) (o : Out) : (s.addOut o).agenda = s.agenda := rfl
@[simp] theorem addOut_free (s : State) (o : Out) : (s.addOut o).free = s.free := rfl
@[simp] theorem addOut_cores (s : State) (o : Out) : (s.addOut o).cores = s.cores := rfl

@[simp] theorem modOut_now (s : State) (id : Nat) (f : Out → Out) : (s.modOut id f).now = s.now := rfl
@[simp] theorem modOut_served (s : State) (id : Nat) (f : Out → Out) : (s.modOut id f).served = s.served := rfl
@[simp] theorem modOut_mem (s : State) (id : Nat) (f : Out → Out) : (s.modOut id f).mem = s.mem := rfl
@[simp] theorem modOut_mail (s : State) (id : Nat) (f : Out → Out) : (s.modOut id f).mail = s.mail := rfl
@[simp] theorem modOut_banks (s : State) (id : Nat) (f : Out → Out) : (s.modOut id f).banks = s.banks := rfl
@[simp] theorem modOut_leas (s : State) (id : Nat) (f : Out → Out) : (s.modOut id f).leas = s.leas := rfl
@[simp] theorem modOut_gangs (s : State) (id : Nat) (f : Out → Out) : (s.modOut id f).gangs = s.gangs := rfl
@[simp] theorem modOut_circuits (s : State) (id : Nat) (f : Out → Out) : (s.modOut id f).circuits = s.circuits := rfl
@[simp] theorem modOut_agreements (s : State) (id : Nat) (f : Out → Out) : (s.modOut id f).agreements = s.agreements := rfl
@[simp] theorem modOut_dies (s : State) (id : Nat) (f : Out → Out) : (s.modOut id f).dies = s.dies := rfl
@[simp] theorem modOut_islands (s : State) (id : Nat) (f : Out → Out) : (s.modOut id f).islands = s.islands := rfl
@[simp] theorem modOut_cycles (s : State) (id : Nat) (f : Out → Out) : (s.modOut id f).cycles = s.cycles := rfl
@[simp] theorem modOut_replays (s : State) (id : Nat) (f : Out → Out) : (s.modOut id f).replays = s.replays := rfl
@[simp] theorem modOut_head (s : State) (id : Nat) (f : Out → Out) : (s.modOut id f).head = s.head := rfl
@[simp] theorem modOut_host (s : State) (id : Nat) (f : Out → Out) : (s.modOut id f).host = s.host := rfl
@[simp] theorem modOut_dbg (s : State) (id : Nat) (f : Out → Out) : (s.modOut id f).dbg = s.dbg := rfl
@[simp] theorem modOut_cur (s : State) (id : Nat) (f : Out → Out) : (s.modOut id f).cur = s.cur := rfl
@[simp] theorem modOut_agenda (s : State) (id : Nat) (f : Out → Out) : (s.modOut id f).agenda = s.agenda := rfl
@[simp] theorem modOut_nextId (s : State) (id : Nat) (f : Out → Out) : (s.modOut id f).nextId = s.nextId := rfl
@[simp] theorem modOut_free (s : State) (id : Nat) (f : Out → Out) : (s.modOut id f).free = s.free := rfl
@[simp] theorem modOut_cores (s : State) (id : Nat) (f : Out → Out) : (s.modOut id f).cores = s.cores := rfl

@[simp] theorem dropOut_now (s : State) (id : Nat) : (s.dropOut id).now = s.now := by
  unfold State.dropOut; split <;> rfl
@[simp] theorem dropOut_served (s : State) (id : Nat) : (s.dropOut id).served = s.served := by
  unfold State.dropOut; split <;> rfl
@[simp] theorem dropOut_mem (s : State) (id : Nat) : (s.dropOut id).mem = s.mem := by
  unfold State.dropOut; split <;> rfl
@[simp] theorem dropOut_mail (s : State) (id : Nat) : (s.dropOut id).mail = s.mail := by
  unfold State.dropOut; split <;> rfl
@[simp] theorem dropOut_banks (s : State) (id : Nat) : (s.dropOut id).banks = s.banks := by
  unfold State.dropOut; split <;> rfl
@[simp] theorem dropOut_leas (s : State) (id : Nat) : (s.dropOut id).leas = s.leas := by
  unfold State.dropOut; split <;> rfl
@[simp] theorem dropOut_circuits (s : State) (id : Nat) : (s.dropOut id).circuits = s.circuits := by
  unfold State.dropOut; split <;> rfl
@[simp] theorem dropOut_agreements (s : State) (id : Nat) : (s.dropOut id).agreements = s.agreements := by
  unfold State.dropOut; split <;> rfl
@[simp] theorem dropOut_dies (s : State) (id : Nat) : (s.dropOut id).dies = s.dies := by
  unfold State.dropOut; split <;> rfl
@[simp] theorem dropOut_islands (s : State) (id : Nat) : (s.dropOut id).islands = s.islands := by
  unfold State.dropOut; split <;> rfl
@[simp] theorem dropOut_cycles (s : State) (id : Nat) : (s.dropOut id).cycles = s.cycles := by
  unfold State.dropOut; split <;> rfl
@[simp] theorem dropOut_replays (s : State) (id : Nat) : (s.dropOut id).replays = s.replays := by
  unfold State.dropOut; split <;> rfl
@[simp] theorem dropOut_head (s : State) (id : Nat) : (s.dropOut id).head = s.head := by
  unfold State.dropOut; split <;> rfl
@[simp] theorem dropOut_host (s : State) (id : Nat) : (s.dropOut id).host = s.host := by
  unfold State.dropOut; split <;> rfl
@[simp] theorem dropOut_dbg (s : State) (id : Nat) : (s.dropOut id).dbg = s.dbg := by
  unfold State.dropOut; split <;> rfl
@[simp] theorem dropOut_cur (s : State) (id : Nat) : (s.dropOut id).cur = s.cur := by
  unfold State.dropOut; split <;> rfl
@[simp] theorem dropOut_agenda (s : State) (id : Nat) : (s.dropOut id).agenda = s.agenda := by
  unfold State.dropOut; split <;> rfl
@[simp] theorem dropOut_nextId (s : State) (id : Nat) : (s.dropOut id).nextId = s.nextId := by
  unfold State.dropOut; split <;> rfl
@[simp] theorem dropOut_free (s : State) (id : Nat) : (s.dropOut id).free = s.free := by
  unfold State.dropOut; split <;> rfl
@[simp] theorem dropOut_cores (s : State) (id : Nat) : (s.dropOut id).cores = s.cores := by
  unfold State.dropOut; split <;> rfl

@[simp] theorem workBy_now (s : State) (c k n : Nat) : (s.workBy c k n).now = s.now := rfl
@[simp] theorem workBy_served (s : State) (c k n : Nat) : (s.workBy c k n).served = s.served := rfl
@[simp] theorem workBy_mem (s : State) (c k n : Nat) : (s.workBy c k n).mem = s.mem := rfl
@[simp] theorem workBy_mail (s : State) (c k n : Nat) : (s.workBy c k n).mail = s.mail := rfl
@[simp] theorem workBy_banks (s : State) (c k n : Nat) : (s.workBy c k n).banks = s.banks := rfl
@[simp] theorem workBy_leas (s : State) (c k n : Nat) : (s.workBy c k n).leas = s.leas := rfl
@[simp] theorem workBy_circuits (s : State) (c k n : Nat) : (s.workBy c k n).circuits = s.circuits := rfl
@[simp] theorem workBy_agreements (s : State) (c k n : Nat) : (s.workBy c k n).agreements = s.agreements := rfl
@[simp] theorem workBy_dies (s : State) (c k n : Nat) : (s.workBy c k n).dies = s.dies := rfl
@[simp] theorem workBy_islands (s : State) (c k n : Nat) : (s.workBy c k n).islands = s.islands := rfl
@[simp] theorem workBy_cycles (s : State) (c k n : Nat) : (s.workBy c k n).cycles = s.cycles := rfl
@[simp] theorem workBy_replays (s : State) (c k n : Nat) : (s.workBy c k n).replays = s.replays := rfl
@[simp] theorem workBy_head (s : State) (c k n : Nat) : (s.workBy c k n).head = s.head := rfl
@[simp] theorem workBy_host (s : State) (c k n : Nat) : (s.workBy c k n).host = s.host := rfl
@[simp] theorem workBy_dbg (s : State) (c k n : Nat) : (s.workBy c k n).dbg = s.dbg := rfl
@[simp] theorem workBy_cur (s : State) (c k n : Nat) : (s.workBy c k n).cur = s.cur := rfl
@[simp] theorem workBy_agenda (s : State) (c k n : Nat) : (s.workBy c k n).agenda = s.agenda := rfl
@[simp] theorem workBy_nextId (s : State) (c k n : Nat) : (s.workBy c k n).nextId = s.nextId := rfl
@[simp] theorem workBy_free (s : State) (c k n : Nat) : (s.workBy c k n).free = s.free := rfl
@[simp] theorem workBy_cores (s : State) (c k n : Nat) : (s.workBy c k n).cores = s.cores := rfl
@[simp] theorem workBy_outs (s : State) (c k n : Nat) : (s.workBy c k n).outs = s.outs := rfl

@[simp] theorem removeOut_now (s : State) (id : Nat) : (s.removeOut id).now = s.now := rfl
@[simp] theorem removeOut_served (s : State) (id : Nat) : (s.removeOut id).served = s.served := rfl
@[simp] theorem removeOut_mem (s : State) (id : Nat) : (s.removeOut id).mem = s.mem := rfl
@[simp] theorem removeOut_mail (s : State) (id : Nat) : (s.removeOut id).mail = s.mail := rfl
@[simp] theorem removeOut_banks (s : State) (id : Nat) : (s.removeOut id).banks = s.banks := rfl
@[simp] theorem removeOut_leas (s : State) (id : Nat) : (s.removeOut id).leas = s.leas := rfl
@[simp] theorem removeOut_circuits (s : State) (id : Nat) : (s.removeOut id).circuits = s.circuits := rfl
@[simp] theorem removeOut_agreements (s : State) (id : Nat) : (s.removeOut id).agreements = s.agreements := rfl
@[simp] theorem removeOut_dies (s : State) (id : Nat) : (s.removeOut id).dies = s.dies := rfl
@[simp] theorem removeOut_islands (s : State) (id : Nat) : (s.removeOut id).islands = s.islands := rfl
@[simp] theorem removeOut_cycles (s : State) (id : Nat) : (s.removeOut id).cycles = s.cycles := rfl
@[simp] theorem removeOut_replays (s : State) (id : Nat) : (s.removeOut id).replays = s.replays := rfl
@[simp] theorem removeOut_head (s : State) (id : Nat) : (s.removeOut id).head = s.head := rfl
@[simp] theorem removeOut_host (s : State) (id : Nat) : (s.removeOut id).host = s.host := rfl
@[simp] theorem removeOut_dbg (s : State) (id : Nat) : (s.removeOut id).dbg = s.dbg := rfl
@[simp] theorem removeOut_cur (s : State) (id : Nat) : (s.removeOut id).cur = s.cur := rfl
@[simp] theorem removeOut_agenda (s : State) (id : Nat) : (s.removeOut id).agenda = s.agenda := rfl
@[simp] theorem removeOut_nextId (s : State) (id : Nat) : (s.removeOut id).nextId = s.nextId := rfl
@[simp] theorem removeOut_free (s : State) (id : Nat) : (s.removeOut id).free = s.free := rfl
@[simp] theorem removeOut_cores (s : State) (id : Nat) : (s.removeOut id).cores = s.cores := rfl
@[simp] theorem removeOut_gangs (s : State) (id : Nat) : (s.removeOut id).gangs = s.gangs := rfl

@[simp] theorem removeOut_outs (s : State) (id : Nat) : (s.removeOut id).outs = s.outs.filter (fun o => o.id != id) := rfl

/-- An item that ends is gone, and the rest of outstanding work is as it was. -/
@[simp] theorem dropOut_outs (s : State) (id : Nat) : (s.dropOut id).outs = s.outs.filter (fun o => o.id != id) := by
  unfold State.dropOut
  split
  · rfl
  · rename_i h
    refine (List.filter_eq_self.2 fun o ho => ?_).symm
    have := List.find?_eq_none.1 h o ho
    simpa using this

@[simp] theorem markWord_now (s : State) (a : Nat) (x : FE) : (s.markWord a x).now = s.now := rfl
@[simp] theorem markWord_served (s : State) (a : Nat) (x : FE) : (s.markWord a x).served = s.served := rfl
@[simp] theorem markWord_outs (s : State) (a : Nat) (x : FE) : (s.markWord a x).outs = s.outs := rfl
@[simp] theorem markWord_mail (s : State) (a : Nat) (x : FE) : (s.markWord a x).mail = s.mail := rfl
@[simp] theorem markWord_banks (s : State) (a : Nat) (x : FE) : (s.markWord a x).banks = s.banks := rfl
@[simp] theorem markWord_leas (s : State) (a : Nat) (x : FE) : (s.markWord a x).leas = s.leas := rfl
@[simp] theorem markWord_gangs (s : State) (a : Nat) (x : FE) : (s.markWord a x).gangs = s.gangs := rfl
@[simp] theorem markWord_circuits (s : State) (a : Nat) (x : FE) : (s.markWord a x).circuits = s.circuits := rfl
@[simp] theorem markWord_agreements (s : State) (a : Nat) (x : FE) : (s.markWord a x).agreements = s.agreements := rfl
@[simp] theorem markWord_dies (s : State) (a : Nat) (x : FE) : (s.markWord a x).dies = s.dies := rfl
@[simp] theorem markWord_islands (s : State) (a : Nat) (x : FE) : (s.markWord a x).islands = s.islands := rfl
@[simp] theorem markWord_cycles (s : State) (a : Nat) (x : FE) : (s.markWord a x).cycles = s.cycles := rfl
@[simp] theorem markWord_replays (s : State) (a : Nat) (x : FE) : (s.markWord a x).replays = s.replays := rfl
@[simp] theorem markWord_head (s : State) (a : Nat) (x : FE) : (s.markWord a x).head = s.head := rfl
@[simp] theorem markWord_host (s : State) (a : Nat) (x : FE) : (s.markWord a x).host = s.host := rfl
@[simp] theorem markWord_dbg (s : State) (a : Nat) (x : FE) : (s.markWord a x).dbg = s.dbg := rfl
@[simp] theorem markWord_cur (s : State) (a : Nat) (x : FE) : (s.markWord a x).cur = s.cur := rfl
@[simp] theorem markWord_agenda (s : State) (a : Nat) (x : FE) : (s.markWord a x).agenda = s.agenda := rfl
@[simp] theorem markWord_nextId (s : State) (a : Nat) (x : FE) : (s.markWord a x).nextId = s.nextId := rfl
@[simp] theorem markWord_free (s : State) (a : Nat) (x : FE) : (s.markWord a x).free = s.free := rfl
@[simp] theorem markWord_cores (s : State) (a : Nat) (x : FE) : (s.markWord a x).cores = s.cores := rfl

@[simp] theorem addOut_outs (s : State) (o : Out) : (s.addOut o).outs = s.outs ++ [o] := rfl
@[simp] theorem addOut_nextId (s : State) (o : Out) : (s.addOut o).nextId = s.nextId + 1 := rfl
@[simp] theorem markWord_mem (s : State) (a : Nat) (x : FE) : (s.markWord a x).mem = s.mem.setFe a (some x) := rfl

/-! ## Cores and slots after an update -/

/-- Reading the key just set. -/
theorem keyGet_keySet_same {α : Type} (d : α) (a : Nat) (x : α) : ∀ l : List (Nat × α), keyGet d (keySet l a x) a = x
  | [] => by simp [keySet, keyGet]
  | (k, v) :: t => by
    simp only [keySet]
    split
    · simp [keyGet]
    · split
      · simp [keyGet]
      · rename_i h; simp [keyGet, h, keyGet_keySet_same d a x t]

/-- Reading another key. -/
theorem keyGet_keySet_other {α : Type} (d : α) {a b : Nat} (x : α) (h : b ≠ a) :
    ∀ l : List (Nat × α), keyGet d (keySet l a x) b = keyGet d l b
  | [] => by simp [keySet, keyGet, h]
  | (k, v) :: t => by
    simp only [keySet]
    split
    · simp [keyGet, h]
    · split
      · rename_i hk; subst hk; simp [keyGet, h]
      · simp only [keyGet, keyGet_keySet_other d x h t]

/-- The same for a key that may be absent. -/
theorem keyFind_keySet_same {α : Type} (a : Nat) (x : α) : ∀ l : List (Nat × α), keyFind (keySet l a x) a = some x
  | [] => by simp [keySet, keyFind]
  | (k, v) :: t => by
    simp only [keySet]
    split
    · simp [keyFind]
    · split
      · simp [keyFind]
      · rename_i h; simp [keyFind, h, keyFind_keySet_same a x t]

theorem keyFind_keySet_other {α : Type} {a b : Nat} (x : α) (h : b ≠ a) :
    ∀ l : List (Nat × α), keyFind (keySet l a x) b = keyFind l b
  | [] => by simp [keySet, keyFind, h]
  | (k, v) :: t => by
    simp only [keySet]
    split
    · simp [keyFind, h]
    · split
      · rename_i hk; subst hk; simp [keyFind, h]
      · simp only [keyFind, keyFind_keySet_other x h t]

@[simp] theorem core_setCore (s : State) (c : Nat) (x : Core) : (s.setCore c x).core c = x := keyGet_keySet_same _ _ _ _

theorem core_setCore_other (s : State) {c d : Nat} (x : Core) (h : d ≠ c) : (s.setCore c x).core d = s.core d :=
  keyGet_keySet_other _ _ h _

@[simp] theorem core_modCore (s : State) (c : Nat) (f : Core → Core) : (s.modCore c f).core c = f (s.core c) :=
  core_setCore s c _

theorem core_modCore_other (s : State) {c d : Nat} (f : Core → Core) (h : d ≠ c) : (s.modCore c f).core d = s.core d :=
  core_setCore_other s _ h

/-- A slot of a core changed. -/
theorem coreSlot_modSlot (c : Core) (k : Nat) (f : Slot → Slot) (h : k < c.slots.length) :
    (c.modSlot k f).slot k = f (c.slot k) := by
  simp [Core.slot, Core.modSlot, listMod, List.getD_eq_getElem?_getD, h]

/-- Another slot of the core. -/
theorem coreSlot_modSlot_other (c : Core) {k j : Nat} (f : Slot → Slot) (h : j ≠ k) : (c.modSlot k f).slot j = c.slot j := by
  have hk : ¬(k = j) := fun e => h e.symm
  simp only [Core.slot, Core.modSlot, listMod, List.getD_eq_getElem?_getD, List.getElem?_modify]
  simp [hk]

/-! What a lea has written is the leas' alone (R7). -/

@[simp] theorem modLea_now (s : State) (l : Nat) (f : Lea → Lea) : (s.modLea l f).now = s.now := by unfold State.modLea; split <;> rfl
@[simp] theorem modLea_served (s : State) (l : Nat) (f : Lea → Lea) : (s.modLea l f).served = s.served := by unfold State.modLea; split <;> rfl
@[simp] theorem modLea_mem (s : State) (l : Nat) (f : Lea → Lea) : (s.modLea l f).mem = s.mem := by unfold State.modLea; split <;> rfl
@[simp] theorem modLea_outs (s : State) (l : Nat) (f : Lea → Lea) : (s.modLea l f).outs = s.outs := by unfold State.modLea; split <;> rfl
@[simp] theorem modLea_mail (s : State) (l : Nat) (f : Lea → Lea) : (s.modLea l f).mail = s.mail := by unfold State.modLea; split <;> rfl
@[simp] theorem modLea_banks (s : State) (l : Nat) (f : Lea → Lea) : (s.modLea l f).banks = s.banks := by unfold State.modLea; split <;> rfl
@[simp] theorem modLea_gangs (s : State) (l : Nat) (f : Lea → Lea) : (s.modLea l f).gangs = s.gangs := by unfold State.modLea; split <;> rfl
@[simp] theorem modLea_circuits (s : State) (l : Nat) (f : Lea → Lea) : (s.modLea l f).circuits = s.circuits := by unfold State.modLea; split <;> rfl
@[simp] theorem modLea_agreements (s : State) (l : Nat) (f : Lea → Lea) : (s.modLea l f).agreements = s.agreements := by unfold State.modLea; split <;> rfl
@[simp] theorem modLea_dies (s : State) (l : Nat) (f : Lea → Lea) : (s.modLea l f).dies = s.dies := by unfold State.modLea; split <;> rfl
@[simp] theorem modLea_islands (s : State) (l : Nat) (f : Lea → Lea) : (s.modLea l f).islands = s.islands := by unfold State.modLea; split <;> rfl
@[simp] theorem modLea_cycles (s : State) (l : Nat) (f : Lea → Lea) : (s.modLea l f).cycles = s.cycles := by unfold State.modLea; split <;> rfl
@[simp] theorem modLea_replays (s : State) (l : Nat) (f : Lea → Lea) : (s.modLea l f).replays = s.replays := by unfold State.modLea; split <;> rfl
@[simp] theorem modLea_head (s : State) (l : Nat) (f : Lea → Lea) : (s.modLea l f).head = s.head := by unfold State.modLea; split <;> rfl
@[simp] theorem modLea_host (s : State) (l : Nat) (f : Lea → Lea) : (s.modLea l f).host = s.host := by unfold State.modLea; split <;> rfl
@[simp] theorem modLea_dbg (s : State) (l : Nat) (f : Lea → Lea) : (s.modLea l f).dbg = s.dbg := by unfold State.modLea; split <;> rfl
@[simp] theorem modLea_cur (s : State) (l : Nat) (f : Lea → Lea) : (s.modLea l f).cur = s.cur := by unfold State.modLea; split <;> rfl
@[simp] theorem modLea_agenda (s : State) (l : Nat) (f : Lea → Lea) : (s.modLea l f).agenda = s.agenda := by unfold State.modLea; split <;> rfl
@[simp] theorem modLea_nextId (s : State) (l : Nat) (f : Lea → Lea) : (s.modLea l f).nextId = s.nextId := by unfold State.modLea; split <;> rfl
@[simp] theorem modLea_free (s : State) (l : Nat) (f : Lea → Lea) : (s.modLea l f).free = s.free := by unfold State.modLea; split <;> rfl
@[simp] theorem modLea_cores (s : State) (l : Nat) (f : Lea → Lea) : (s.modLea l f).cores = s.cores := by unfold State.modLea; split <;> rfl

@[simp] theorem noteWrote_now (s : State) (l : Nat) (v : BitVec 256) : (s.noteWrote l v).now = s.now := modLea_now s l _
@[simp] theorem noteWrote_served (s : State) (l : Nat) (v : BitVec 256) : (s.noteWrote l v).served = s.served := modLea_served s l _
@[simp] theorem noteWrote_mem (s : State) (l : Nat) (v : BitVec 256) : (s.noteWrote l v).mem = s.mem := modLea_mem s l _
@[simp] theorem noteWrote_outs (s : State) (l : Nat) (v : BitVec 256) : (s.noteWrote l v).outs = s.outs := modLea_outs s l _
@[simp] theorem noteWrote_mail (s : State) (l : Nat) (v : BitVec 256) : (s.noteWrote l v).mail = s.mail := modLea_mail s l _
@[simp] theorem noteWrote_banks (s : State) (l : Nat) (v : BitVec 256) : (s.noteWrote l v).banks = s.banks := modLea_banks s l _
@[simp] theorem noteWrote_gangs (s : State) (l : Nat) (v : BitVec 256) : (s.noteWrote l v).gangs = s.gangs := modLea_gangs s l _
@[simp] theorem noteWrote_circuits (s : State) (l : Nat) (v : BitVec 256) : (s.noteWrote l v).circuits = s.circuits := modLea_circuits s l _
@[simp] theorem noteWrote_agreements (s : State) (l : Nat) (v : BitVec 256) : (s.noteWrote l v).agreements = s.agreements := modLea_agreements s l _
@[simp] theorem noteWrote_dies (s : State) (l : Nat) (v : BitVec 256) : (s.noteWrote l v).dies = s.dies := modLea_dies s l _
@[simp] theorem noteWrote_islands (s : State) (l : Nat) (v : BitVec 256) : (s.noteWrote l v).islands = s.islands := modLea_islands s l _
@[simp] theorem noteWrote_cycles (s : State) (l : Nat) (v : BitVec 256) : (s.noteWrote l v).cycles = s.cycles := modLea_cycles s l _
@[simp] theorem noteWrote_replays (s : State) (l : Nat) (v : BitVec 256) : (s.noteWrote l v).replays = s.replays := modLea_replays s l _
@[simp] theorem noteWrote_head (s : State) (l : Nat) (v : BitVec 256) : (s.noteWrote l v).head = s.head := modLea_head s l _
@[simp] theorem noteWrote_host (s : State) (l : Nat) (v : BitVec 256) : (s.noteWrote l v).host = s.host := modLea_host s l _
@[simp] theorem noteWrote_dbg (s : State) (l : Nat) (v : BitVec 256) : (s.noteWrote l v).dbg = s.dbg := modLea_dbg s l _
@[simp] theorem noteWrote_cur (s : State) (l : Nat) (v : BitVec 256) : (s.noteWrote l v).cur = s.cur := modLea_cur s l _
@[simp] theorem noteWrote_agenda (s : State) (l : Nat) (v : BitVec 256) : (s.noteWrote l v).agenda = s.agenda := modLea_agenda s l _
@[simp] theorem noteWrote_nextId (s : State) (l : Nat) (v : BitVec 256) : (s.noteWrote l v).nextId = s.nextId := modLea_nextId s l _
@[simp] theorem noteWrote_free (s : State) (l : Nat) (v : BitVec 256) : (s.noteWrote l v).free = s.free := modLea_free s l _
@[simp] theorem noteWrote_cores (s : State) (l : Nat) (v : BitVec 256) : (s.noteWrote l v).cores = s.cores := modLea_cores s l _

@[simp] theorem forget_cells (m : Memory) (a n : Nat) : (m.forget a n).cells = m.cells := rfl
@[simp] theorem forget_fe (m : Memory) (a n : Nat) : (m.forget a n).fe = m.fe := rfl
@[simp] theorem forget_poison (m : Memory) (a n : Nat) : (m.forget a n).poison = m.poison := rfl
@[simp] theorem forget_ext (m : Memory) (a n : Nat) : (m.forget a n).ext = m.ext := rfl
@[simp] theorem forget_log (m : Memory) (a n : Nat) : (m.forget a n).log = m.log := rfl

/-- A range given up is forgotten, and nothing else of memory changes. -/
@[simp] theorem giveUp_mem (s : State) (lea : Option Nat) (a n : Nat) : (s.giveUp lea a n).mem = s.mem.forget a n := by cases lea <;> simp [State.giveUp]
@[simp] theorem giveUp_now (s : State) (lea : Option Nat) (a n : Nat) : (s.giveUp lea a n).now = s.now := by cases lea <;> simp [State.giveUp]
@[simp] theorem giveUp_served (s : State) (lea : Option Nat) (a n : Nat) : (s.giveUp lea a n).served = s.served := by cases lea <;> simp [State.giveUp]
@[simp] theorem giveUp_outs (s : State) (lea : Option Nat) (a n : Nat) : (s.giveUp lea a n).outs = s.outs := by cases lea <;> simp [State.giveUp]
@[simp] theorem giveUp_mail (s : State) (lea : Option Nat) (a n : Nat) : (s.giveUp lea a n).mail = s.mail := by cases lea <;> simp [State.giveUp]
@[simp] theorem giveUp_banks (s : State) (lea : Option Nat) (a n : Nat) : (s.giveUp lea a n).banks = s.banks := by cases lea <;> simp [State.giveUp]
@[simp] theorem giveUp_gangs (s : State) (lea : Option Nat) (a n : Nat) : (s.giveUp lea a n).gangs = s.gangs := by cases lea <;> simp [State.giveUp]
@[simp] theorem giveUp_circuits (s : State) (lea : Option Nat) (a n : Nat) : (s.giveUp lea a n).circuits = s.circuits := by cases lea <;> simp [State.giveUp]
@[simp] theorem giveUp_agreements (s : State) (lea : Option Nat) (a n : Nat) : (s.giveUp lea a n).agreements = s.agreements := by cases lea <;> simp [State.giveUp]
@[simp] theorem giveUp_dies (s : State) (lea : Option Nat) (a n : Nat) : (s.giveUp lea a n).dies = s.dies := by cases lea <;> simp [State.giveUp]
@[simp] theorem giveUp_islands (s : State) (lea : Option Nat) (a n : Nat) : (s.giveUp lea a n).islands = s.islands := by cases lea <;> simp [State.giveUp]
@[simp] theorem giveUp_cycles (s : State) (lea : Option Nat) (a n : Nat) : (s.giveUp lea a n).cycles = s.cycles := by cases lea <;> simp [State.giveUp]
@[simp] theorem giveUp_replays (s : State) (lea : Option Nat) (a n : Nat) : (s.giveUp lea a n).replays = s.replays := by cases lea <;> simp [State.giveUp]
@[simp] theorem giveUp_head (s : State) (lea : Option Nat) (a n : Nat) : (s.giveUp lea a n).head = s.head := by cases lea <;> simp [State.giveUp]
@[simp] theorem giveUp_host (s : State) (lea : Option Nat) (a n : Nat) : (s.giveUp lea a n).host = s.host := by cases lea <;> simp [State.giveUp]
@[simp] theorem giveUp_dbg (s : State) (lea : Option Nat) (a n : Nat) : (s.giveUp lea a n).dbg = s.dbg := by cases lea <;> simp [State.giveUp]
@[simp] theorem giveUp_cur (s : State) (lea : Option Nat) (a n : Nat) : (s.giveUp lea a n).cur = s.cur := by cases lea <;> simp [State.giveUp]
@[simp] theorem giveUp_agenda (s : State) (lea : Option Nat) (a n : Nat) : (s.giveUp lea a n).agenda = s.agenda := by cases lea <;> simp [State.giveUp]
@[simp] theorem giveUp_nextId (s : State) (lea : Option Nat) (a n : Nat) : (s.giveUp lea a n).nextId = s.nextId := by cases lea <;> simp [State.giveUp]
@[simp] theorem giveUp_free (s : State) (lea : Option Nat) (a n : Nat) : (s.giveUp lea a n).free = s.free := by cases lea <;> simp [State.giveUp]
@[simp] theorem giveUp_cores (s : State) (lea : Option Nat) (a n : Nat) : (s.giveUp lea a n).cores = s.cores := by cases lea <;> simp [State.giveUp]

/-- The slot that an update names, in a core that has it. -/
theorem slot_modSlot (s : State) (c k : Nat) (f : Slot → Slot) (h : k < (s.core c).slots.length) :
    (s.modSlot c k f).slot c k = f (s.slot c k) := by
  simp only [State.slot, State.modSlot, core_modCore]
  exact coreSlot_modSlot _ _ _ h

/-- Every other slot. -/
theorem slot_modSlot_other (s : State) {c k d j : Nat} (f : Slot → Slot) (h : d ≠ c ∨ j ≠ k) :
    (s.modSlot c k f).slot d j = s.slot d j := by
  by_cases hd : d = c
  · subst hd
    simp only [State.slot, State.modSlot, core_modCore]
    exact coreSlot_modSlot_other _ _ (h.resolve_left (by simp))
  · simp only [State.slot, State.modSlot, core_modCore_other s _ hd]

/-- The acting slot. -/
theorem me_modMe (s : State) (f : Slot → Slot) (h : s.cur.2 < s.myCore.slots.length) : (s.modMe f).me = f s.me :=
  slot_modSlot s _ _ f h

/-- An issue sets PC and leaves the other registers (R62). -/
theorem issue_desc (s : State) (n : Nat) (h : s.cur.2 < s.myCore.slots.length) :
    (s.issue n).desc = { s.desc with pc := s.pc + BitVec.ofNat 64 n } := by
  unfold State.desc State.issue State.issueTo
  rw [me_modMe s _ h]

end Sys2Proof.Laws
end

