-- ==== Sys2Proof/Laws/Memory.lean ====
section
/-! SUPPORT. Memory keeps its canonical form under every operation, and what a read gives after a write. -/

namespace Sys2Proof.Laws

open Sys2Proof Sys2Proof.Machine

/-! ## Rising lists -/

theorem sortedKeys_iff {α : Type} : ∀ l : List (Nat × α), sortedKeys l = true ↔ l.Pairwise (fun p q => p.1 < q.1)
  | [] => by simp [sortedKeys]
  | [p] => by simp [sortedKeys]
  | p :: q :: t => by
    rw [show sortedKeys (p :: q :: t) = (decide (p.1 < q.1) && sortedKeys (q :: t)) from rfl, Bool.and_eq_true,
      sortedKeys_iff (q :: t), List.pairwise_cons (a := p)]
    constructor
    · rintro ⟨h1, h2⟩
      have h1 : p.1 < q.1 := of_decide_eq_true h1
      refine ⟨fun r hr => ?_, h2⟩
      rcases List.mem_cons.1 hr with rfl | hr
      · exact h1
      · exact Nat.lt_trans h1 ((List.pairwise_cons.1 h2).1 r hr)
    · rintro ⟨h1, h2⟩
      exact ⟨decide_eq_true (h1 q (by simp)), h2⟩

theorem sortedNats_iff : ∀ l : List Nat, sortedNats l = true ↔ l.Pairwise (· < ·)
  | [] => by simp [sortedNats]
  | [p] => by simp [sortedNats]
  | p :: q :: t => by
    rw [show sortedNats (p :: q :: t) = (decide (p < q) && sortedNats (q :: t)) from rfl, Bool.and_eq_true,
      sortedNats_iff (q :: t), List.pairwise_cons (a := p)]
    constructor
    · rintro ⟨h1, h2⟩
      have h1 : p < q := of_decide_eq_true h1
      refine ⟨fun r hr => ?_, h2⟩
      rcases List.mem_cons.1 hr with rfl | hr
      · exact h1
      · exact Nat.lt_trans h1 ((List.pairwise_cons.1 h2).1 r hr)
    · rintro ⟨h1, h2⟩
      exact ⟨decide_eq_true (h1 q (by simp)), h2⟩

theorem mem_keySet {α : Type} (a : Nat) (x : α) (p : Nat × α) :
    ∀ l : List (Nat × α), p ∈ keySet l a x → p = (a, x) ∨ p ∈ l
  | [], h => by simpa [keySet] using h
  | (k, v) :: t, h => by
    simp only [keySet] at h
    split at h
    · simpa using h
    · split at h
      · rcases List.mem_cons.1 h with h | h
        · exact .inl h
        · exact .inr (List.mem_cons_of_mem _ h)
      · rcases List.mem_cons.1 h with h | h
        · exact .inr (by simp [h])
        · exact (mem_keySet a x p t h).imp id (List.mem_cons_of_mem _)

theorem mem_keyDel {α : Type} (a : Nat) (p : Nat × α) : ∀ l : List (Nat × α), p ∈ keyDel l a → p ∈ l
  | [], h => by simp [keyDel] at h
  | (k, v) :: t, h => by
    simp only [keyDel] at h
    split at h
    · exact List.mem_cons_of_mem _ h
    · rcases List.mem_cons.1 h with h | h
      · simp [h]
      · exact List.mem_cons_of_mem _ (mem_keyDel a p t h)

theorem pairwise_keySet {α : Type} (a : Nat) (x : α) :
    ∀ l : List (Nat × α), l.Pairwise (fun p q => p.1 < q.1) → (keySet l a x).Pairwise (fun p q => p.1 < q.1)
  | [], _ => by simp [keySet]
  | (k, v) :: t, h => by
    obtain ⟨h1, h2⟩ := List.pairwise_cons.1 h
    simp only [keySet]
    split
    · rename_i hk
      refine List.pairwise_cons.2 ⟨fun q hq => ?_, h⟩
      rcases List.mem_cons.1 hq with rfl | hq
      · exact hk
      · exact Nat.lt_trans hk (h1 q hq)
    · split
      · rename_i hk
        subst hk
        exact List.pairwise_cons.2 ⟨h1, h2⟩
      · refine List.pairwise_cons.2 ⟨fun q hq => ?_, pairwise_keySet a x t h2⟩
        rcases mem_keySet a x q t hq with rfl | hq
        · simp only; omega
        · exact h1 q hq

theorem pairwise_keyDel {α : Type} (a : Nat) :
    ∀ l : List (Nat × α), l.Pairwise (fun p q => p.1 < q.1) → (keyDel l a).Pairwise (fun p q => p.1 < q.1)
  | [], _ => by simp [keyDel]
  | (k, v) :: t, h => by
    obtain ⟨h1, h2⟩ := List.pairwise_cons.1 h
    simp only [keyDel]
    split
    · exact h2
    · exact List.pairwise_cons.2 ⟨fun q hq => h1 q (mem_keyDel a q t hq), pairwise_keyDel a t h2⟩

theorem mem_natIns (a b : Nat) : ∀ l : List Nat, b ∈ natIns l a ↔ b = a ∨ b ∈ l
  | [] => by simp [natIns]
  | k :: t => by
    simp only [natIns]
    split
    · simp
    · split
      · rename_i hk; subst hk; simp
      · simp only [List.mem_cons, mem_natIns a b t]; tauto

theorem mem_natDel (a b : Nat) : ∀ l : List Nat, b ∈ natDel l a → b ∈ l
  | [], h => by simp [natDel] at h
  | k :: t, h => by
    simp only [natDel] at h
    split at h
    · exact List.mem_cons_of_mem _ h
    · rcases List.mem_cons.1 h with h | h
      · simp [h]
      · exact List.mem_cons_of_mem _ (mem_natDel a b t h)

theorem pairwise_natIns (a : Nat) : ∀ l : List Nat, l.Pairwise (· < ·) → (natIns l a).Pairwise (· < ·)
  | [], _ => by simp [natIns]
  | k :: t, h => by
    obtain ⟨h1, h2⟩ := List.pairwise_cons.1 h
    simp only [natIns]
    split
    · rename_i hk
      refine List.pairwise_cons.2 ⟨fun q hq => ?_, h⟩
      rcases List.mem_cons.1 hq with rfl | hq
      · exact hk
      · exact Nat.lt_trans hk (h1 q hq)
    · split
      · exact h
      · refine List.pairwise_cons.2 ⟨fun q hq => ?_, pairwise_natIns a t h2⟩
        rcases (mem_natIns a q t).1 hq with rfl | hq
        · omega
        · exact h1 q hq

theorem pairwise_natDel (a : Nat) : ∀ l : List Nat, l.Pairwise (· < ·) → (natDel l a).Pairwise (· < ·)
  | [], _ => by simp [natDel]
  | k :: t, h => by
    obtain ⟨h1, h2⟩ := List.pairwise_cons.1 h
    simp only [natDel]
    split
    · exact h2
    · exact List.pairwise_cons.2 ⟨fun q hq => h1 q (mem_natDel a q t hq), pairwise_natDel a t h2⟩

/-! ## Bytes -/

/-- The canonical form of bytes as a proposition. -/
theorem cells_wf_iff (c : Cells) : c.wf = true ↔ c.Pairwise (fun p q => p.1 < q.1) ∧ ∀ p ∈ c, p.2 ≠ 0#8 := by
  simp [Cells.wf, sortedKeys_iff]

theorem cells_set_wf {c : Cells} (a : Nat) (v : Byte) (h : c.wf = true) : (c.set a v).wf = true := by
  rw [cells_wf_iff] at h ⊢
  unfold Cells.set
  split
  · exact ⟨pairwise_keyDel a c h.1, fun p hp => h.2 p (mem_keyDel a p c hp)⟩
  · refine ⟨pairwise_keySet a v c h.1, fun p hp => ?_⟩
    rcases mem_keySet a v p c hp with rfl | hp
    · assumption
    · exact h.2 p hp

theorem cells_write_wf : ∀ (n : Nat) {c : Cells} (a v : Nat), c.wf = true → (c.write a n v).wf = true
  | 0, _, _, _, h => h
  | n + 1, _, _, _, h => cells_write_wf n _ _ (cells_set_wf _ _ h)

theorem cells_lay_wf : ∀ (l : Cells) {c : Cells} (a : Nat), c.wf = true → (c.lay a l).wf = true
  | [], _, _, h => h
  | _ :: t, _, _, h => cells_lay_wf t _ (cells_set_wf _ _ h)

theorem cells_filter_wf {c : Cells} (f : Nat × Byte → Bool) (h : c.wf = true) : Cells.wf (c.filter f) = true := by
  rw [cells_wf_iff] at h ⊢
  exact ⟨h.1.filter f, fun p hp => h.2 p (List.mem_filter.1 hp).1⟩

theorem get_keyDel {l : List (Nat × Byte)} (h : l.Pairwise (fun p q => p.1 < q.1)) (a b : Nat) :
    keyGet 0#8 (keyDel l a) b = if b = a then 0#8 else keyGet 0#8 l b := by
  induction l with
  | nil => simp [keyDel, keyGet]
  | cons p t ih =>
    obtain ⟨k, v⟩ := p
    obtain ⟨h1, h2⟩ := List.pairwise_cons.1 h
    simp only [keyDel]
    have none_below : ∀ m : List (Nat × Byte), (∀ q ∈ m, k < q.1) → keyGet 0#8 m k = 0#8 := by
      intro m
      induction m with
      | nil => intro _; rfl
      | cons q m ihm =>
        intro hm
        have : ¬(k = q.1) := Nat.ne_of_lt (hm q (by simp))
        simp only [keyGet, this, if_false]
        exact ihm (fun r hr => hm r (List.mem_cons_of_mem _ hr))
    split
    · rename_i hk
      subst hk
      by_cases hb : b = a
      · subst hb; simp only [if_true]; exact none_below t h1
      · simp [keyGet, hb]
    · rename_i hk
      by_cases hb : b = k
      · subst hb
        have : ¬(b = a) := fun e => hk e.symm
        simp [keyGet, this]
      · simp only [keyGet, hb, if_false]
        exact ih h2

/-- Reading a byte after one is written. -/
theorem get_set {c : Cells} (h : c.wf = true) (a b : Nat) (v : Byte) : (c.set a v).get b = if b = a then v else c.get b := by
  unfold Cells.set Cells.get
  split
  · rename_i hv
    rw [get_keyDel ((cells_wf_iff c).1 h).1, hv]
  · by_cases hb : b = a
    · subst hb; simp [keyGet_keySet_same]
    · simp [keyGet_keySet_other _ _ hb, hb]

/-- A write leaves every byte outside it. -/
theorem get_write_other : ∀ (n : Nat) {c : Cells} (a v b : Nat), c.wf = true → (b < a ∨ a + n ≤ b) →
    (c.write a n v).get b = c.get b
  | 0, _, _, _, _, _, _ => rfl
  | n + 1, c, a, v, b, h, hb => by
    simp only [Cells.write]
    rw [get_write_other n _ _ b (cells_set_wf _ _ h) (by omega), get_set h, if_neg (by omega)]

/-- A read of what was written. -/
theorem read_write : ∀ (n : Nat) {c : Cells} (a v : Nat), c.wf = true → (c.write a n v).read a n = v % 256 ^ n
  | 0, _, _, _, _ => by simp [Cells.read, Nat.mod_one]
  | n + 1, c, a, v, h => by
    simp only [Cells.read, Cells.write]
    rw [get_write_other n _ _ a (cells_set_wf _ _ h) (by omega), get_set h, if_pos rfl, read_write n _ _ (cells_set_wf _ _ h)]
    have e : 256 ^ (n + 1) = 256 * 256 ^ n := by rw [Nat.pow_succ, Nat.mul_comm]
    rw [e, Nat.mod_mul]
    simp

/-! ## Memory -/

theorem memory_wf_iff (m : Memory) : m.wf = true ↔
    m.cells.wf = true ∧ m.fe.Pairwise (fun p q => p.1 < q.1) ∧ m.poison.Pairwise (· < ·) ∧ m.ext.Pairwise (fun p q => p.1 < q.1) := by
  simp [Memory.wf, sortedKeys_iff, sortedNats_iff, and_assoc]

theorem reset_memory_wf : Memory.reset.wf = true := by decide

theorem setFe_wf {m : Memory} (a : Nat) (x : Option FE) (h : m.wf = true) : (m.setFe a x).wf = true := by
  rw [memory_wf_iff] at h ⊢
  cases x with
  | none => exact ⟨h.1, pairwise_keyDel a _ h.2.1, h.2.2⟩
  | some x => exact ⟨h.1, pairwise_keySet a x _ h.2.1, h.2.2⟩

theorem setBad_wf {m : Memory} (a : Nat) (b : Bool) (h : m.wf = true) : (m.setBad a b).wf = true := by
  unfold Memory.setBad
  rw [memory_wf_iff] at h
  split <;> rw [memory_wf_iff]
  · exact ⟨h.1, h.2.1, pairwise_natIns _ _ h.2.2.1, h.2.2.2⟩
  · exact ⟨h.1, h.2.1, pairwise_natDel _ _ h.2.2.1, h.2.2.2⟩

theorem setExt_wf {m : Memory} (a : Nat) (w : Option Nat) (h : m.wf = true) : (m.setExt a w).wf = true := by
  unfold Memory.setExt
  rw [memory_wf_iff] at h
  split <;> rw [memory_wf_iff]
  · exact ⟨h.1, h.2.1, h.2.2.1, pairwise_keySet _ _ _ h.2.2.2⟩
  · exact ⟨h.1, h.2.1, h.2.2.1, pairwise_keyDel _ _ h.2.2.2⟩

/-- Noting who wrote a word leaves memory canonical (R206). -/
theorem noteWriter_wf {m : Memory} (tid : Option Nat) (w : Nat) (h : m.wf = true) : (m.noteWriter tid w).wf = true := by
  unfold Memory.noteWriter
  split
  · exact setExt_wf _ _ h
  · exact h

theorem write_wf {m : Memory} (a n v : Nat) (h : m.wf = true) : (m.write a n v).wf = true := by
  rw [memory_wf_iff] at h ⊢
  exact ⟨cells_write_wf n a v h.1, h.2⟩

theorem putWord_wf {m : Memory} (a : Nat) (v : PWord) (h : m.wf = true) : (m.putWord a v).wf = true :=
  setBad_wf _ _ (write_wf _ _ _ h)

theorem store_wf {m : Memory} (a n v : Nat) (bad : Bool) (h : m.wf = true) : (m.store a n v bad).wf = true := by
  unfold Memory.store
  split
  · exact putWord_wf _ _ h
  · split
    · exact setBad_wf _ _ (write_wf _ _ _ h)
    · exact write_wf _ _ _ h

theorem scrub_wf {m : Memory} (a n : Nat) (h : m.wf = true) : (m.scrub a n).wf = true := by
  rw [memory_wf_iff] at h ⊢
  exact ⟨cells_filter_wf _ h.1, h.2.1.filter _, h.2.2.1.filter _, h.2.2.2.filter _⟩

theorem paste_wf {m : Memory} (a : Nat) (r : RangeSave) (h : m.wf = true) : (m.paste a r).wf = true := by
  rw [memory_wf_iff] at h ⊢
  refine ⟨cells_lay_wf _ _ h.1, ?_, ?_, ?_⟩
  · show (r.fe.foldl (fun l p => keySet l (a + p.1) p.2) m.fe).Pairwise _
    generalize m.fe = l at h
    have hl := h.2.1
    clear h
    induction r.fe generalizing l with
    | nil => exact hl
    | cons p t ih => exact ih _ (pairwise_keySet _ _ _ hl)
  · show (r.poison.foldl (fun l p => natIns l (a + p)) m.poison).Pairwise _
    generalize m.poison = l at h
    have hl := h.2.2.1
    clear h
    induction r.poison generalizing l with
    | nil => exact hl
    | cons p t ih => exact ih _ (pairwise_natIns _ _ hl)
  · show (r.ext.foldl (fun l p => keySet l (a + p.1) p.2) m.ext).Pairwise _
    generalize m.ext = l at h
    have hl := h.2.2.2
    clear h
    induction r.ext generalizing l with
    | nil => exact hl
    | cons p t ih => exact ih _ (pairwise_keySet _ _ _ hl)

theorem poisonRange_wf {m : Memory} (a n : Nat) (h : m.wf = true) : (m.poisonRange a n).wf = true := by
  unfold Memory.poisonRange
  generalize List.range (n / 8) = l
  induction l generalizing m with
  | nil => exact h
  | cons i t ih => exact ih (setBad_wf _ _ h)

theorem hostWrite_wf : ∀ (k : Nat) {m : Memory} (as : List Nat) (bs : List Byte), m.wf = true → (m.hostWrite k as bs).wf = true
  | 0, _, _, _, h => by simpa [Memory.hostWrite] using h
  | _ + 1, _, [], _, h => by simpa [Memory.hostWrite] using h
  | _ + 1, _, _ :: _, [], h => by simpa [Memory.hostWrite] using h
  | k + 1, m, a :: as, b :: bs, h => by
    simp only [Memory.hostWrite]
    split
    · exact hostWrite_wf k _ _ (putWord_wf _ _ h)
    · exact hostWrite_wf k _ _ (store_wf _ _ _ _ h)

/-- What an operation at a home leaves is canonical (R235, R241). -/
theorem homeOp_wf {m n : Memory} {reg : Bool} {fresh : Word} {op : MemOp} {a : Nat} {p : Part} {r : PWord} (h : m.wf = true)
    (e : homeOp m reg fresh op a p = some (n, r)) : n.wf = true := by
  have out : ∀ {x : Memory} {v : PWord}, some (x, v) = some (n, r) → x.wf = true → n.wf = true := by
    intro x v hx hw
    injection hx with hx
    injection hx with h1 _
    exact h1 ▸ hw
  cases op <;> simp only [homeOp] at e <;> try split_ifs at e
  all_goals first
    | exact out e h
    | exact out e (setFe_wf _ _ h)
    | exact out e (setFe_wf _ _ (putWord_wf _ _ h))
    | exact out e (store_wf _ _ _ _ h)
    | exact out e (setFe_wf _ _ (store_wf _ _ _ _ h))

/-! ## Words filled (R25, R106, R236) -/

/-- What holds of a state and of each result of a step along a list holds of the fold. -/
theorem foldl_wf {α : Type} {f : State → α → State} (hf : ∀ (s : State) (x : α), s.mem.wf = true → (f s x).mem.wf = true) :
    ∀ (l : List α) {s : State}, s.mem.wf = true → (l.foldl f s).mem.wf = true
  | [], _, h => h
  | x :: t, s, h => foldl_wf hf t (hf s x h)

theorem bufFree_wf {s : State} (core : Nat) (b : DBuf) (o n : Nat) (h : s.mem.wf = true) : (s.bufFree core b o n).mem.wf = true := by
  refine foldl_wf (fun s i h => ?_) _ h
  split
  · exact write_wf _ _ _ h
  · exact h

/-- A write to a named buffer leaves memory canonical (R220). -/
theorem spoil_wf {s : State} (core lea a n : Nat) (h : s.mem.wf = true) : (s.spoil core lea a n).mem.wf = true := by
  unfold State.spoil
  dsimp only
  split
  · exact h
  · split
    · exact h
    · refine foldl_wf (fun s p h => ?_) _ h
      refine foldl_wf (fun s j h => ?_) _ h
      split
      · exact bufFree_wf _ _ _ _ h
      · exact h

/-- An event tried at its home leaves memory canonical. -/
theorem tryPart_wf {s t : State} {id i : Nat} (h : s.mem.wf = true) (e : s.tryPart id i = some t) : t.mem.wf = true := by
  unfold State.tryPart at e
  repeat' split at e
  all_goals try (cases e; done)
  all_goals
    rename_i hm _
    injection e with e
    subst e
    split at hm
    · cases hm
  · exact spoil_wf _ _ _ _ (noteWriter_wf _ _ (homeOp_wf h hm))
  · exact homeOp_wf h hm

theorem retryFirst_wf {s t : State} (h : s.mem.wf = true) : ∀ {l : List (Nat × Nat × Nat)}, s.retryFirst l = some t → t.mem.wf = true
  | [], e => by simp [State.retryFirst] at e
  | (_, id, i) :: l, e => by
    simp only [State.retryFirst] at e
    split at e
    · rename_i s' hs
      injection e with e
      subst e
      exact tryPart_wf h hs
    · exact retryFirst_wf h e

@[simp] theorem wakeReaders_mem (s : State) (a : Nat) : (s.wakeReaders a).mem = s.mem := by
  unfold State.wakeReaders
  split <;> rfl

/-- Waking the waiters of words leaves memory canonical. -/
theorem settle_wf : ∀ (n : Nat) (l : List Nat) {s : State}, s.mem.wf = true → (State.settle n l s).mem.wf = true
  | 0, _, _, h => by simpa [State.settle] using h
  | _ + 1, [], _, h => by simpa [State.settle] using h
  | n + 1, w :: ws, s, h => by
    simp only [State.settle]
    split
    · exact settle_wf n _ (setFe_wf _ _ (setExt_wf _ _ (putWord_wf _ _ (by simpa using h))))
    · split
      · rename_i s2 hs
        exact settle_wf n _ (retryFirst_wf (by simpa using h) hs)
      · exact settle_wf n _ (by simpa using h)

theorem touched_wf {s : State} (w : Nat) (h : s.mem.wf = true) : (s.touched w).mem.wf = true := settle_wf _ _ h

/-- A word filled leaves memory canonical. -/
theorem fillWord_wf {s : State} (a : Nat) (v : PWord) (h : s.mem.wf = true) : (s.fillWord a v).mem.wf = true := by
  unfold State.fillWord
  split
  · exact setExt_wf _ _ (putWord_wf _ _ h)
  · exact touched_wf _ (setFe_wf _ _ (setExt_wf _ _ (putWord_wf _ _ h)))

/-- A word filled from outside leaves memory canonical (R206). -/
theorem fillExt_wf {s : State} (a : Nat) (v : PWord) (h : s.mem.wf = true) : (s.fillExt a v).mem.wf = true :=
  setExt_wf _ _ (fillWord_wf a v h)

theorem fillWords_wf : ∀ (l : List (Nat × PWord)) {s : State}, s.mem.wf = true → (s.fillWords l).mem.wf = true
  | [], _, h => h
  | (a, v) :: t, _, h => fillWords_wf t (fillWord_wf a v h)

theorem markPending_wf : ∀ (l : List Nat) {s : State}, s.mem.wf = true → (s.markPending l).mem.wf = true
  | [], _, h => h
  | _ :: t, _, h => markPending_wf t (setFe_wf _ _ h)

/-- A word that is full and written is read back, with its poison (R106). -/
theorem fillWord_full {s : State} {a : Nat} {v : PWord} (h : s.mem.isFull a = true) :
    s.fillWord a v = { s with mem := (s.mem.putWord a v).setExt a none } := by
  unfold State.fillWord
  rw [if_pos h]

/-- A doubleword written is read back. -/
theorem putWord_read {m : Memory} (h : m.wf = true) (a : Nat) (v : PWord) : (m.putWord a v).read a 8 = v.val.toNat := by
  have hc := (memory_wf_iff m).1 h
  have e : (m.putWord a v).cells = m.cells.write a 8 v.val.toNat := by
    unfold Memory.putWord Memory.setBad
    split <;> rfl
  unfold Memory.read
  rw [e, read_write 8 a _ hc.1]
  exact Nat.mod_eq_of_lt (lt_of_lt_of_le v.val.isLt (by norm_num))

/-- A doubleword written leaves every other byte. -/
theorem putWord_other {m : Memory} (h : m.wf = true) (a b : Nat) (v : PWord) (hb : b < a ∨ a + 8 ≤ b) :
    (m.putWord a v).cells.get b = m.cells.get b := by
  have hc := (memory_wf_iff m).1 h
  have e : (m.putWord a v).cells = m.cells.write a 8 v.val.toNat := by
    unfold Memory.putWord Memory.setBad
    split <;> rfl
  rw [e, get_write_other 8 a _ b hc.1 hb]

end Sys2Proof.Laws
end

