-- ==== Sys2Proof/Laws/Operands.lean ====
section
/-! SUPPORT. What the shared operand forms do, said once: an instruction whose operands may be read and written runs on. -/

namespace Sys2Proof.Laws

open Sys2Proof.Machine

theorem firstNotFull_none {s : State} : ∀ {l : List Nat}, s.Full l → s.firstNotFull l = none
  | [], _ => rfl
  | a :: t, h => by
    have ha : s.mem.feOf a = none := by
      have := h a (by simp)
      simpa [Memory.isFull] using this
    simp only [State.firstNotFull, ha]
    exact firstNotFull_none (fun b hb => h b (by simp [hb]))

theorem any_pending_false {s : State} {l : List Nat} (h : s.Unowed l) : l.any s.mem.isPending = false := by
  simpa [State.Unowed] using h

/-- An instruction whose sources are full and whose destinations are owed nothing runs on. -/
theorem withOperands_go {s : State} {src dst : List Nat} {k : State → State} (h : s.Operands src dst) :
    s.withOperands src dst k = k s := by
  obtain ⟨h1, h2, h3, h4, h6⟩ := h
  have h5 : (s.regsAway && !(src ++ dst).isEmpty) = false := by
    by_cases hr : s.regsAway = true
    · simp [h3 hr]
    · simp [hr]
  simp only [State.withOperands, firstNotFull_none h1, any_pending_false h2, h4, h5, h6]
  simp

/-- An instruction runs on past the check of a clean register. -/
theorem needClean_go {s : State} {n k : Nat} {c : BitVec 8} {f : State → State} (h : (s.w k).bad = false) :
    s.needClean n c k f = f s := by simp [State.needClean, h]

/-- A poisoned register that would be consumed traps (R423). -/
theorem needClean_trap {s : State} {n k : Nat} {c : BitVec 8} {f : State → State} (h : (s.w k).bad = true) :
    s.needClean n c k f = s.raise n c (BitVec.ofNat 64 k) := by simp [State.needClean, h]

theorem needCleans_go {s : State} {n : Nat} {c : BitVec 8} {f : State → State} :
    ∀ {l : List Nat}, (∀ k ∈ l, (s.w k).bad = false) → s.needCleans n c l f = f s
  | [], _ => rfl
  | k :: t, h => by
    simp only [State.needCleans, needClean_go (h k (by simp))]
    exact needCleans_go (fun j hj => h j (by simp [hj]))

/-- An instruction runs on to a space whose path is open. -/
theorem withSpace_go {s : State} {sp : Nat} {f : State → State} (h : s.PathOpen sp) : s.withSpace sp f = f s := by
  unfold State.withSpace
  by_cases h1 : sp = 2 ∨ sp = 6
  · simp [h1, State.withPool, h.1 h1]
  · rw [if_neg h1, if_neg]
    intro hh
    have := h.2 hh.1
    omega

/-- An access that passes the checks of R228 goes on with its address. -/
theorem memIssue_go {s : State} {ilen k n : Nat} {dsts : List Nat} {rights : List Right} {ok : List Nat} {off : Int}
    {f : State → Nat → State} (h0 : 0 ≤ off)
    (h1 : segFail (s.seg k) (s.extent (s.seg k).space) off.toNat n rights ok = none)
    (h2 : ((s.seg k).base.toNat + off.toNat) % n = 0)
    (h3 : s.overlaps (s.seg k).space ((s.seg k).base.toNat + off.toNat) n dsts = false) :
    s.memIssue ilen k off n n rights ok dsts f = f s ((s.seg k).base.toNat + off.toNat) := by
  unfold State.memIssue
  simp only [h1, h2, h3]
  rw [if_neg (by omega)]
  simp

/-- An access with a result, under its conditions, issues. -/
theorem loadForm_go {s : State} {m : MemForm} {regs srcs : List Nat} {d look : Nat} {off : State → Int}
    {data : State → PWord} (h : s.MayAccess m.rx m.seg m.size m.rights m.spaces regs srcs [d] (off s)) :
    Host.Outcome.next (s.loadForm m regs srcs d look off data)
      = s.accessed m.ilen m.seg m.size m.op m.rx m.acq m.rel (some look) [d] (off s) (data s) := by
  obtain ⟨h1, h2, h3, h4, h5, h6, h7, h8⟩ := h
  have h8' : s.overlaps (s.seg m.seg).space ((s.seg m.seg).base.toNat + (off s).toNat) m.size [s.wAddr d] = false := h8
  unfold State.loadForm
  rw [withOperands_go (by exact h1)]
  simp only [State.withLimit, h2, if_true, withSpace_go h3, needCleans_go h4, memIssue_go h5 h6 h7 h8']
  rfl

/-- An access without a result, under its conditions, issues. -/
theorem storeForm_go {s : State} {m : MemForm} {regs srcs : List Nat} {off : State → Int} {data : State → PWord}
    (h : s.MayAccess m.rx m.seg m.size m.rights m.spaces regs srcs [] (off s)) (hs : s.TableOnly m.seg (off s)) :
    Host.Outcome.next (s.storeForm m regs srcs off data)
      = s.accessed m.ilen m.seg m.size m.op m.rx m.acq m.rel none [] (off s) (data s) := by
  obtain ⟨h1, h2, h3, h4, h5, h6, h7, h8⟩ := h
  have h8' : s.overlaps (s.seg m.seg).space ((s.seg m.seg).base.toNat + (off s).toNat) m.size [] = false := h8
  unfold State.storeForm
  rw [withOperands_go (by exact h1)]
  simp only [State.withLimit, h2, if_true, withSpace_go h3, needCleans_go h4, memIssue_go h5 h6 h7 h8']
  rw [if_neg]
  · rfl
  · intro hh
    obtain ⟨hp, ha⟩ := hs hh.1
    rw [hp] at hh
    simp at hh
    omega

end Sys2Proof.Laws
end

