-- ==== Sys2Proof/Laws/Issue.lean ====
section
/-! SUPPORT. Everything that the conditions of issue and the shared operand forms can come to, one lemma each: a property of
states that every way out of a form has, the form has. -/

namespace Sys2Proof.Laws

open Sys2Proof Sys2Proof.Machine

variable {P : State → Prop} {s : State}

/-- R26, R105, R206, R381: registers of a pool that is away and an empty source park the thread, a pending word and a read that
earlier accesses hold back make it forfeit, otherwise the rest runs. -/
theorem withOperands_ind {src dst : List Nat} {k : State → State} (hk : P (k s)) (hf : P s.forfeit)
    (hp : ∀ w, P (s.park w)) : P (s.withOperands src dst k) := by
  unfold State.withOperands
  split
  · exact hp _
  · split
    · exact hp _
    · exact hf
    · split
      · exact hf
      · exact hk

/-- R343, R381: the rest runs where the thread's lea holds the pool, else the thread parks. -/
theorem withPool_ind {f : State → State} (hk : P (f s)) (hp : P (s.park .pool)) : P (s.withPool f) := by
  unfold State.withPool
  split
  · exact hk
  · exact hp

/-- R322, R381: what the path to a space can come to. -/
theorem withSpace_ind {sp : Nat} {f : State → State} (hk : P (f s)) (hf : P s.forfeitFull) (hp : P (s.park .pool)) :
    P (s.withSpace sp f) := by
  unfold State.withSpace
  split
  · exact withPool_ind hk hp
  · split
    · exact hf
    · exact hk

/-- R322: the flits that an instruction adds find room in the queue of their plane, or its thread forfeits. -/
theorem withFlits_ind {sp n : Nat} {f : State → State} (hk : P (f s)) (hf : P s.forfeitFull) : P (s.withFlits sp n f) := by
  unfold State.withFlits
  split
  · exact hf
  · exact hk

/-- R322: a message finds room in its core's queue of the exchange plane, or its thread forfeits. -/
theorem withExchange_ind {f : State → State} (hk : P (f s)) (hf : P s.forfeitFull) : P (s.withExchange f) := by
  unfold State.withExchange
  split
  · exact hf
  · exact hk

/-- R62, R231: the limit of an access's kind. -/
theorem withLimit_ind {k : Kind} {f : State → State} (hk : P (f s)) (hf : P s.forfeit) : P (s.withLimit k f) := by
  unfold State.withLimit
  split
  · exact hk
  · exact hf

/-- R423: poison that would be consumed traps. -/
theorem needClean_ind {n k : Nat} {c : BitVec 8} {f : State → State} (hk : P (f s)) (ht : ∀ v, P (s.raise n c v)) :
    P (s.needClean n c k f) := by
  unfold State.needClean
  split
  · exact ht _
  · exact hk

theorem needCleans_ind {n : Nat} {c : BitVec 8} {f : State → State} (hk : P (f s)) (ht : ∀ v, P (s.raise n c v)) :
    ∀ l : List Nat, P (s.needCleans n c l f)
  | [] => hk
  | _ :: t => needClean_ind (needCleans_ind hk ht t) ht

/-- R39, R228: an access goes on with its address, or traps with the first check that fails. -/
theorem memIssue_ind {ilen k n al : Nat} {off : Int} {rights : List Right} {ok dsts : List Nat} {f : State → Nat → State}
    (hk : ∀ a, P (f s a)) (ht : ∀ c v, P (s.raise ilen c v)) : P (s.memIssue ilen k off n al rights ok dsts f) := by
  unfold State.memIssue
  dsimp only
  split
  · exact ht _ _
  · split
    · exact ht _ _
    · split
      · exact ht _ _
      · split
        · exact ht _ _
        · exact hk _

/-- R48: the rest of a privileged instruction runs at supervisor level and traps with 0x04 at user level. -/
theorem sup_ind {bits : Word} {f : State → State} (hk : P (f s)) (ht : P (s.raise 4 0x04 bits)) : P (s.sup bits f) := by
  unfold State.sup
  split
  · exact hk
  · exact ht

/-- R340: an instruction that slot 15 may not issue traps with 0x42. -/
theorem no15_ind {bits : Word} {f : State → State} (hk : P (f s)) (ht : P (s.raise 4 0x42 bits)) : P (s.no15 bits f) := by
  unfold State.no15
  split
  · exact ht
  · exact hk

/-- R121, R262: a block of operands is read, waits for the thread's own stores, or traps. -/
theorem withBlock_ind {k off n : Nat} {c : BitVec 8} {f : State → (Nat → Word) → State} (hk : ∀ w, P (f s w)) (hf : P s.forfeit)
    (ht : ∀ c v, P (s.raise 4 c v)) : P (s.withBlock k off n c f) := by
  unfold State.withBlock
  dsimp only
  split
  · exact ht _ _
  · split
    · exact ht _ _
    · split
      · exact hf
      · split
        · exact ht _ _
        · exact hk _

/-! ## What each way out leaves of memory -/

@[simp] theorem trapSlot_mem (s : State) (c k : Nat) (cause : BitVec 8) (v : Word) (n : Nat) :
    (s.trapSlot c k cause v n).mem = s.mem := by
  unfold State.trapSlot
  dsimp only
  split <;> rfl

@[simp] theorem raise_mem (s : State) (n : Nat) (c : BitVec 8) (v : Word) : (s.raise n c v).mem = s.mem := trapSlot_mem ..

@[simp] theorem raiseFlags_mem (s : State) (f : Flags) : (s.raiseFlags f).mem = s.mem := rfl

@[simp] theorem owe_mem (s : State) (b : Bool) : (s.owe b).mem = s.mem := by
  unfold State.owe
  split <;> rfl

/-- A result written leaves memory canonical. -/
theorem setW_wf (n d : Nat) (bad : Bool) (v : Word) (h : s.mem.wf = true) : (s.setW n d bad v).mem.wf = true := by
  unfold State.setW
  split
  · exact fillWord_wf _ _ h
  · exact fillWord_wf _ _ h

theorem alu0_wf (n d : Nat) (v : Word) (h : s.mem.wf = true) : (s.alu0 n d v).mem.wf = true :=
  withOperands_ind (P := fun t => t.mem.wf = true) (setW_wf _ _ _ _ h) h (fun _ => h)

theorem alu1_wf (n a d : Nat) (f : Word → Word) (h : s.mem.wf = true) : (s.alu1 n a d f).mem.wf = true :=
  withOperands_ind (P := fun t => t.mem.wf = true) (setW_wf _ _ _ _ h) h (fun _ => h)

theorem alu2_wf (n a b d : Nat) (f : Word → Word → Word) (h : s.mem.wf = true) : (s.alu2 n a b d f).mem.wf = true :=
  withOperands_ind (P := fun t => t.mem.wf = true) (setW_wf _ _ _ _ h) h (fun _ => h)

theorem alu3_wf (n a b c d : Nat) (f : Word → Word → Word → Word) (h : s.mem.wf = true) :
    (s.alu3 n a b c d f).mem.wf = true :=
  withOperands_ind (P := fun t => t.mem.wf = true) (setW_wf _ _ _ _ h) h (fun _ => h)

theorem fpDone_wf (n d : Nat) (bad : Bool) (r : FpOut) (h : s.mem.wf = true) : (s.fpDone n d bad r).mem.wf = true := by
  unfold State.fpDone
  split
  · exact setW_wf _ _ _ _ h
  · simpa using setW_wf n d false r.val h

theorem fp1_wf (n a d : Nat) (f : State → Word → FpOut) (h : s.mem.wf = true) : (s.fp1 n a d f).mem.wf = true :=
  withOperands_ind (P := fun t => t.mem.wf = true) (fpDone_wf _ _ _ _ h) h (fun _ => h)

theorem fp2_wf (n a b d : Nat) (f : State → Word → Word → FpOut) (h : s.mem.wf = true) : (s.fp2 n a b d f).mem.wf = true :=
  withOperands_ind (P := fun t => t.mem.wf = true) (fpDone_wf _ _ _ _ h) h (fun _ => h)

theorem fp3_wf (n a b d : Nat) (f : State → Word → Word → Word → FpOut) (h : s.mem.wf = true) :
    (s.fp3 n a b d f).mem.wf = true :=
  withOperands_ind (P := fun t => t.mem.wf = true) (fpDone_wf _ _ _ _ h) h (fun _ => h)

theorem startAccess_wf (n : Nat) (w : Bool) (look : Nat) (dst : List Nat) (x : Access) (h : s.mem.wf = true) :
    (s.startAccess n w look dst x).mem.wf = true := markPending_wf dst (s := s.addOut _) h

theorem slow2_wf (n a b d : Nat) (look : BitVec 4) (lat : Nat) (f : State → Word → Word → Word × Option Flags × Bool)
    (h : s.mem.wf = true) : (s.slow2 n a b d look lat f).mem.wf = true := by
  refine withOperands_ind (P := fun t => t.mem.wf = true) ?_ h (fun _ => h)
  dsimp only
  split
  · exact setFe_wf _ _ h
  · simpa using setFe_wf _ _ h

theorem loadForm_wf (m : MemForm) (regs srcs : List Nat) (d look : Nat) (off : State → Int) (data : State → PWord)
    (h : s.mem.wf = true) : (s.loadForm m regs srcs d look off data).mem.wf = true := by
  refine withOperands_ind (P := fun t => t.mem.wf = true) ?_ h (fun _ => h)
  refine withLimit_ind (P := fun t => t.mem.wf = true) ?_ h
  refine withSpace_ind (P := fun t => t.mem.wf = true) ?_ h h
  refine needCleans_ind (P := fun t => t.mem.wf = true) ?_ (fun _ => by simpa using h) _
  exact memIssue_ind (P := fun t => t.mem.wf = true) (fun _ => startAccess_wf _ _ _ _ _ h) (fun _ _ => by simpa using h)

theorem storeForm_wf (m : MemForm) (regs srcs : List Nat) (off : State → Int) (data : State → PWord) (h : s.mem.wf = true) :
    (s.storeForm m regs srcs off data).mem.wf = true := by
  refine withOperands_ind (P := fun t => t.mem.wf = true) ?_ h (fun _ => h)
  refine withLimit_ind (P := fun t => t.mem.wf = true) ?_ h
  refine withSpace_ind (P := fun t => t.mem.wf = true) ?_ h h
  refine needCleans_ind (P := fun t => t.mem.wf = true) ?_ (fun _ => by simpa using h) _
  refine memIssue_ind (P := fun t => t.mem.wf = true) (fun _ => ?_) (fun _ _ => by simpa using h)
  split
  · simpa using h
  · exact startAccess_wf _ _ _ _ _ h

end Sys2Proof.Laws
end

