-- ==== Sys2Proof/Laws/PerInstr.lean ====
section
/-! SUPPORT. The family Codes: for every constructor, an instruction's code is at most four halfwords long, and one that the
decoder gives back has a code (R47, R66, R282). -/

namespace Sys2Proof.Laws.Codes

open Sys2Proof

/-- An instruction's code is at most four halfwords, and a decodable one has at least one (R47, R66, R282). -/
def Statement (i : Instr) : Prop := (encode i).length ≤ 4 ∧ (i.decodable = true → 1 ≤ (encode i).length)

/-- A code of a length from 1 to 4. -/
theorem of_length {i : Instr} {n : Nat} (h : (encode i).length = n) (h1 : 1 ≤ n) (h4 : n ≤ 4) : Statement i :=
  ⟨h ▸ h4, fun _ => h ▸ h1⟩

/-- No code: a step that no thread and no Dorent context issues. -/
theorem of_none {i : Instr} (h : encode i = []) (d : i.decodable = false) : Statement i :=
  ⟨by rw [h]; exact Nat.zero_le 4, fun e => absurd (d.symm.trans e) Bool.false_ne_true⟩

theorem add (x0 : BitVec 5) (x1 : BitVec 5) (x2 : BitVec 5) : Statement (.add x0 x1 x2) := of_length (n := 2) rfl (by decide) (by decide)
theorem sub (x0 : BitVec 5) (x1 : BitVec 5) (x2 : BitVec 5) : Statement (.sub x0 x1 x2) := of_length (n := 2) rfl (by decide) (by decide)
theorem mul (x0 : BitVec 5) (x1 : BitVec 5) (x2 : BitVec 5) : Statement (.mul x0 x1 x2) := of_length (n := 2) rfl (by decide) (by decide)
theorem mulh (x0 : BitVec 5) (x1 : BitVec 5) (x2 : BitVec 5) : Statement (.mulh x0 x1 x2) := of_length (n := 2) rfl (by decide) (by decide)
theorem mulhu (x0 : BitVec 5) (x1 : BitVec 5) (x2 : BitVec 5) : Statement (.mulhu x0 x1 x2) := of_length (n := 2) rfl (by decide) (by decide)
theorem div (x0 : BitVec 4) (x1 : BitVec 5) (x2 : BitVec 5) (x3 : BitVec 5) : Statement (.div x0 x1 x2 x3) := of_length (n := 2) rfl (by decide) (by decide)
theorem divu (x0 : BitVec 4) (x1 : BitVec 5) (x2 : BitVec 5) (x3 : BitVec 5) : Statement (.divu x0 x1 x2 x3) := of_length (n := 2) rfl (by decide) (by decide)
theorem rem (x0 : BitVec 4) (x1 : BitVec 5) (x2 : BitVec 5) (x3 : BitVec 5) : Statement (.rem x0 x1 x2 x3) := of_length (n := 2) rfl (by decide) (by decide)
theorem remu (x0 : BitVec 4) (x1 : BitVec 5) (x2 : BitVec 5) (x3 : BitVec 5) : Statement (.remu x0 x1 x2 x3) := of_length (n := 2) rfl (by decide) (by decide)
theorem and (x0 : BitVec 5) (x1 : BitVec 5) (x2 : BitVec 5) : Statement (.and x0 x1 x2) := of_length (n := 2) rfl (by decide) (by decide)
theorem or (x0 : BitVec 5) (x1 : BitVec 5) (x2 : BitVec 5) : Statement (.or x0 x1 x2) := of_length (n := 2) rfl (by decide) (by decide)
theorem xor (x0 : BitVec 5) (x1 : BitVec 5) (x2 : BitVec 5) : Statement (.xor x0 x1 x2) := of_length (n := 2) rfl (by decide) (by decide)
theorem andn (x0 : BitVec 5) (x1 : BitVec 5) (x2 : BitVec 5) : Statement (.andn x0 x1 x2) := of_length (n := 2) rfl (by decide) (by decide)
theorem orn (x0 : BitVec 5) (x1 : BitVec 5) (x2 : BitVec 5) : Statement (.orn x0 x1 x2) := of_length (n := 2) rfl (by decide) (by decide)
theorem shl (x0 : BitVec 5) (x1 : BitVec 5) (x2 : BitVec 5) : Statement (.shl x0 x1 x2) := of_length (n := 2) rfl (by decide) (by decide)
theorem shr (x0 : BitVec 5) (x1 : BitVec 5) (x2 : BitVec 5) : Statement (.shr x0 x1 x2) := of_length (n := 2) rfl (by decide) (by decide)
theorem sra (x0 : BitVec 5) (x1 : BitVec 5) (x2 : BitVec 5) : Statement (.sra x0 x1 x2) := of_length (n := 2) rfl (by decide) (by decide)
theorem ror (x0 : BitVec 5) (x1 : BitVec 5) (x2 : BitVec 5) : Statement (.ror x0 x1 x2) := of_length (n := 2) rfl (by decide) (by decide)
theorem min (x0 : BitVec 5) (x1 : BitVec 5) (x2 : BitVec 5) : Statement (.min x0 x1 x2) := of_length (n := 2) rfl (by decide) (by decide)
theorem max (x0 : BitVec 5) (x1 : BitVec 5) (x2 : BitVec 5) : Statement (.max x0 x1 x2) := of_length (n := 2) rfl (by decide) (by decide)
theorem minu (x0 : BitVec 5) (x1 : BitVec 5) (x2 : BitVec 5) : Statement (.minu x0 x1 x2) := of_length (n := 2) rfl (by decide) (by decide)
theorem maxu (x0 : BitVec 5) (x1 : BitVec 5) (x2 : BitVec 5) : Statement (.maxu x0 x1 x2) := of_length (n := 2) rfl (by decide) (by decide)
theorem cmpeq (x0 : BitVec 5) (x1 : BitVec 5) (x2 : BitVec 5) : Statement (.cmpeq x0 x1 x2) := of_length (n := 2) rfl (by decide) (by decide)
theorem cmplt (x0 : BitVec 5) (x1 : BitVec 5) (x2 : BitVec 5) : Statement (.cmplt x0 x1 x2) := of_length (n := 2) rfl (by decide) (by decide)
theorem cmpltu (x0 : BitVec 5) (x1 : BitVec 5) (x2 : BitVec 5) : Statement (.cmpltu x0 x1 x2) := of_length (n := 2) rfl (by decide) (by decide)
theorem sel (x0 : BitVec 4) (x1 : BitVec 5) (x2 : BitVec 5) (x3 : BitVec 5) : Statement (.sel x0 x1 x2 x3) := of_length (n := 2) rfl (by decide) (by decide)
theorem extr (x0 : BitVec 5) (x1 : BitVec 5) (x2 : BitVec 5) : Statement (.extr x0 x1 x2) := of_length (n := 2) rfl (by decide) (by decide)
theorem insb (x0 : BitVec 5) (x1 : BitVec 5) (x2 : BitVec 5) : Statement (.insb x0 x1 x2) := of_length (n := 2) rfl (by decide) (by decide)
theorem clz (x0 : BitVec 5) (x1 : BitVec 5) : Statement (.clz x0 x1) := of_length (n := 2) rfl (by decide) (by decide)
theorem ctz (x0 : BitVec 5) (x1 : BitVec 5) : Statement (.ctz x0 x1) := of_length (n := 2) rfl (by decide) (by decide)
theorem popc (x0 : BitVec 5) (x1 : BitVec 5) : Statement (.popc x0 x1) := of_length (n := 2) rfl (by decide) (by decide)
theorem brev (x0 : BitVec 5) (x1 : BitVec 5) : Statement (.brev x0 x1) := of_length (n := 2) rfl (by decide) (by decide)
theorem bswap (x0 : BitVec 5) (x1 : BitVec 5) : Statement (.bswap x0 x1) := of_length (n := 2) rfl (by decide) (by decide)
theorem addi (x0 : BitVec 12) (x1 : BitVec 5) (x2 : BitVec 5) : Statement (.addi x0 x1 x2) := of_length (n := 2) rfl (by decide) (by decide)
theorem movi (x0 : BitVec 17) (x1 : BitVec 5) : Statement (.movi x0 x1) := of_length (n := 2) rfl (by decide) (by decide)
theorem shli (x0 : BitVec 6) (x1 : BitVec 5) (x2 : BitVec 5) : Statement (.shli x0 x1 x2) := of_length (n := 2) rfl (by decide) (by decide)
theorem shri (x0 : BitVec 6) (x1 : BitVec 5) (x2 : BitVec 5) : Statement (.shri x0 x1 x2) := of_length (n := 2) rfl (by decide) (by decide)
theorem srai (x0 : BitVec 6) (x1 : BitVec 5) (x2 : BitVec 5) : Statement (.srai x0 x1 x2) := of_length (n := 2) rfl (by decide) (by decide)
theorem cmpi (x0 : BitVec 3) (x1 : BitVec 9) (x2 : BitVec 5) (x3 : BitVec 5) : Statement (.cmpi x0 x1 x2 x3) := of_length (n := 2) rfl (by decide) (by decide)
theorem lih (x0 : BitVec 16) (x1 : BitVec 5) : Statement (.lih x0 x1) := of_length (n := 2) rfl (by decide) (by decide)
theorem lea (x0 : BitVec 3) (x1 : BitVec 9) (x2 : BitVec 5) (x3 : BitVec 5) : Statement (.lea x0 x1 x2 x3) := of_length (n := 2) rfl (by decide) (by decide)
theorem mapr (x0 : BitVec 3) (x1 : BitVec 9) (x2 : BitVec 5) (x3 : BitVec 5) : Statement (.mapr x0 x1 x2 x3) := of_length (n := 2) rfl (by decide) (by decide)
theorem addpc (x0 : BitVec 17) (x1 : BitVec 5) : Statement (.addpc x0 x1) := of_length (n := 2) rfl (by decide) (by decide)
theorem sgrd (x0 : BitVec 2) (x1 : BitVec 3) (x2 : BitVec 5) : Statement (.sgrd x0 x1 x2) := of_length (n := 2) rfl (by decide) (by decide)
theorem ldl (x0 : BitVec 11) (x1 : BitVec 4) (x2 : BitVec 5) : Statement (.ldl x0 x1 x2) := of_length (n := 2) rfl (by decide) (by decide)
theorem beq (x0 : BitVec 12) (x1 : BitVec 5) (x2 : BitVec 5) : Statement (.beq x0 x1 x2) := of_length (n := 2) rfl (by decide) (by decide)
theorem bne (x0 : BitVec 12) (x1 : BitVec 5) (x2 : BitVec 5) : Statement (.bne x0 x1 x2) := of_length (n := 2) rfl (by decide) (by decide)
theorem blt (x0 : BitVec 12) (x1 : BitVec 5) (x2 : BitVec 5) : Statement (.blt x0 x1 x2) := of_length (n := 2) rfl (by decide) (by decide)
theorem bge (x0 : BitVec 12) (x1 : BitVec 5) (x2 : BitVec 5) : Statement (.bge x0 x1 x2) := of_length (n := 2) rfl (by decide) (by decide)
theorem bltu (x0 : BitVec 12) (x1 : BitVec 5) (x2 : BitVec 5) : Statement (.bltu x0 x1 x2) := of_length (n := 2) rfl (by decide) (by decide)
theorem bgeu (x0 : BitVec 12) (x1 : BitVec 5) (x2 : BitVec 5) : Statement (.bgeu x0 x1 x2) := of_length (n := 2) rfl (by decide) (by decide)
theorem bz (x0 : BitVec 12) (x1 : BitVec 5) : Statement (.bz x0 x1) := of_length (n := 2) rfl (by decide) (by decide)
theorem bnz (x0 : BitVec 12) (x1 : BitVec 5) : Statement (.bnz x0 x1) := of_length (n := 2) rfl (by decide) (by decide)
theorem br (x0 : BitVec 20) : Statement (.br x0) := of_length (n := 2) rfl (by decide) (by decide)
theorem callr (x0 : BitVec 5) (x1 : BitVec 5) : Statement (.callr x0 x1) := of_length (n := 2) rfl (by decide) (by decide)
theorem ret : Statement (.ret) := of_length (n := 2) rfl (by decide) (by decide)
theorem jmp (x0 : BitVec 5) : Statement (.jmp x0) := of_length (n := 2) rfl (by decide) (by decide)
theorem loop (x0 : BitVec 10) (x1 : BitVec 5) : Statement (.loop x0 x1) := of_length (n := 2) rfl (by decide) (by decide)
theorem nop : Statement (.nop) := of_length (n := 2) rfl (by decide) (by decide)
theorem call (x0 : BitVec 20) (x1 : BitVec 5) : Statement (.call x0 x1) := of_length (n := 2) rfl (by decide) (by decide)
theorem ldd16 (x0 : Option (BitVec 3)) (x1 : BitVec 1) (x2 : BitVec 4) (x3 : BitVec 3) (x4 : BitVec 3) : Statement (.ldd16 x0 x1 x2 x3 x4) := by
  cases x0
  · exact of_length (n := 1) rfl (by decide) (by decide)
  · exact of_length (n := 2) rfl (by decide) (by decide)
theorem std16 (x0 : Option (BitVec 3)) (x1 : BitVec 1) (x2 : BitVec 4) (x3 : BitVec 3) (x4 : BitVec 3) : Statement (.std16 x0 x1 x2 x3 x4) := by
  cases x0
  · exact of_length (n := 1) rfl (by decide) (by decide)
  · exact of_length (n := 2) rfl (by decide) (by decide)
theorem addiMove16 (x0 : BitVec 5) (x1 : BitVec 5) : Statement (.addiMove16 x0 x1) := of_length (n := 1) rfl (by decide) (by decide)
theorem addi16 (x0 : BitVec 5) (x1 : BitVec 6) : Statement (.addi16 x0 x1) := of_length (n := 1) rfl (by decide) (by decide)
theorem movi16 (x0 : BitVec 5) (x1 : BitVec 6) : Statement (.movi16 x0 x1) := of_length (n := 1) rfl (by decide) (by decide)
theorem shli16 (x0 : BitVec 5) (x1 : BitVec 6) : Statement (.shli16 x0 x1) := of_length (n := 1) rfl (by decide) (by decide)
theorem shri16 (x0 : BitVec 5) (x1 : BitVec 6) : Statement (.shri16 x0 x1) := of_length (n := 1) rfl (by decide) (by decide)
theorem add16 (x0 : BitVec 5) (x1 : BitVec 5) : Statement (.add16 x0 x1) := of_length (n := 1) rfl (by decide) (by decide)
theorem sub16 (x0 : BitVec 5) (x1 : BitVec 5) : Statement (.sub16 x0 x1) := of_length (n := 1) rfl (by decide) (by decide)
theorem and16 (x0 : BitVec 5) (x1 : BitVec 5) : Statement (.and16 x0 x1) := of_length (n := 1) rfl (by decide) (by decide)
theorem or16 (x0 : BitVec 5) (x1 : BitVec 5) : Statement (.or16 x0 x1) := of_length (n := 1) rfl (by decide) (by decide)
theorem bz16 (x0 : BitVec 5) (x1 : BitVec 6) : Statement (.bz16 x0 x1) := of_length (n := 1) rfl (by decide) (by decide)
theorem bnz16 (x0 : BitVec 5) (x1 : BitVec 6) : Statement (.bnz16 x0 x1) := of_length (n := 1) rfl (by decide) (by decide)
theorem br16 (x0 : BitVec 11) : Statement (.br16 x0) := of_length (n := 1) rfl (by decide) (by decide)
theorem hret : Statement (.hret) := of_length (n := 1) rfl (by decide) (by decide)
theorem ret16 : Statement (.ret16) := of_length (n := 1) rfl (by decide) (by decide)
theorem nop16 : Statement (.nop16) := of_length (n := 1) rfl (by decide) (by decide)
theorem fadd (x0 : BitVec 1) (x1 : BitVec 3) (x2 : BitVec 5) (x3 : BitVec 5) (x4 : BitVec 5) : Statement (.fadd x0 x1 x2 x3 x4) := of_length (n := 2) rfl (by decide) (by decide)
theorem fsub (x0 : BitVec 1) (x1 : BitVec 3) (x2 : BitVec 5) (x3 : BitVec 5) (x4 : BitVec 5) : Statement (.fsub x0 x1 x2 x3 x4) := of_length (n := 2) rfl (by decide) (by decide)
theorem fmul (x0 : BitVec 1) (x1 : BitVec 3) (x2 : BitVec 5) (x3 : BitVec 5) (x4 : BitVec 5) : Statement (.fmul x0 x1 x2 x3 x4) := of_length (n := 2) rfl (by decide) (by decide)
theorem fma (x0 : BitVec 1) (x1 : BitVec 3) (x2 : BitVec 5) (x3 : BitVec 5) (x4 : BitVec 5) : Statement (.fma x0 x1 x2 x3 x4) := of_length (n := 2) rfl (by decide) (by decide)
theorem fms (x0 : BitVec 1) (x1 : BitVec 3) (x2 : BitVec 5) (x3 : BitVec 5) (x4 : BitVec 5) : Statement (.fms x0 x1 x2 x3 x4) := of_length (n := 2) rfl (by decide) (by decide)
theorem fnma (x0 : BitVec 1) (x1 : BitVec 3) (x2 : BitVec 5) (x3 : BitVec 5) (x4 : BitVec 5) : Statement (.fnma x0 x1 x2 x3 x4) := of_length (n := 2) rfl (by decide) (by decide)
theorem fdiv (x0 : BitVec 1) (x1 : BitVec 4) (x2 : BitVec 5) (x3 : BitVec 5) (x4 : BitVec 5) : Statement (.fdiv x0 x1 x2 x3 x4) := of_length (n := 2) rfl (by decide) (by decide)
theorem fsqrt (x0 : BitVec 1) (x1 : BitVec 4) (x2 : BitVec 5) (x3 : BitVec 5) : Statement (.fsqrt x0 x1 x2 x3) := of_length (n := 2) rfl (by decide) (by decide)
theorem frsqe (x0 : BitVec 1) (x1 : BitVec 3) (x2 : BitVec 5) (x3 : BitVec 5) : Statement (.frsqe x0 x1 x2 x3) := of_length (n := 2) rfl (by decide) (by decide)
theorem frcpe (x0 : BitVec 1) (x1 : BitVec 3) (x2 : BitVec 5) (x3 : BitVec 5) : Statement (.frcpe x0 x1 x2 x3) := of_length (n := 2) rfl (by decide) (by decide)
theorem fmin (x0 : BitVec 1) (x1 : BitVec 5) (x2 : BitVec 5) (x3 : BitVec 5) : Statement (.fmin x0 x1 x2 x3) := of_length (n := 2) rfl (by decide) (by decide)
theorem fmax (x0 : BitVec 1) (x1 : BitVec 5) (x2 : BitVec 5) (x3 : BitVec 5) : Statement (.fmax x0 x1 x2 x3) := of_length (n := 2) rfl (by decide) (by decide)
theorem fcmpeq (x0 : BitVec 1) (x1 : BitVec 5) (x2 : BitVec 5) (x3 : BitVec 5) : Statement (.fcmpeq x0 x1 x2 x3) := of_length (n := 2) rfl (by decide) (by decide)
theorem fcmplt (x0 : BitVec 1) (x1 : BitVec 5) (x2 : BitVec 5) (x3 : BitVec 5) : Statement (.fcmplt x0 x1 x2 x3) := of_length (n := 2) rfl (by decide) (by decide)
theorem fcmple (x0 : BitVec 1) (x1 : BitVec 5) (x2 : BitVec 5) (x3 : BitVec 5) : Statement (.fcmple x0 x1 x2 x3) := of_length (n := 2) rfl (by decide) (by decide)
theorem fclass (x0 : BitVec 1) (x1 : BitVec 5) (x2 : BitVec 5) : Statement (.fclass x0 x1 x2) := of_length (n := 2) rfl (by decide) (by decide)
theorem fcvt (x0 : BitVec 1) (x1 : BitVec 3) (x2 : BitVec 1) (x3 : BitVec 3) (x4 : BitVec 5) (x5 : BitVec 5) : Statement (.fcvt x0 x1 x2 x3 x4 x5) := of_length (n := 2) rfl (by decide) (by decide)
theorem fcvti (x0 : BitVec 1) (x1 : BitVec 3) (x2 : BitVec 3) (x3 : BitVec 5) (x4 : BitVec 5) : Statement (.fcvti x0 x1 x2 x3 x4) := of_length (n := 2) rfl (by decide) (by decide)
theorem icvtf (x0 : BitVec 1) (x1 : BitVec 3) (x2 : BitVec 3) (x3 : BitVec 5) (x4 : BitVec 5) : Statement (.icvtf x0 x1 x2 x3 x4) := of_length (n := 2) rfl (by decide) (by decide)
theorem fabs (x0 : BitVec 1) (x1 : BitVec 5) (x2 : BitVec 5) : Statement (.fabs x0 x1 x2) := of_length (n := 2) rfl (by decide) (by decide)
theorem fneg (x0 : BitVec 1) (x1 : BitVec 5) (x2 : BitVec 5) : Statement (.fneg x0 x1 x2) := of_length (n := 2) rfl (by decide) (by decide)
theorem fsgnj (x0 : BitVec 1) (x1 : BitVec 5) (x2 : BitVec 5) (x3 : BitVec 5) : Statement (.fsgnj x0 x1 x2 x3) := of_length (n := 2) rfl (by decide) (by decide)
theorem ldb (x0 : Option (BitVec 3)) (x1 : BitVec 6) (x2 : BitVec 4) (x3 : BitVec 3) (x4 : BitVec 5) (x5 : BitVec 5) : Statement (.ldb x0 x1 x2 x3 x4 x5) := by
  cases x0
  · exact of_length (n := 2) rfl (by decide) (by decide)
  · exact of_length (n := 3) rfl (by decide) (by decide)
theorem ldh (x0 : Option (BitVec 3)) (x1 : BitVec 6) (x2 : BitVec 4) (x3 : BitVec 3) (x4 : BitVec 5) (x5 : BitVec 5) : Statement (.ldh x0 x1 x2 x3 x4 x5) := by
  cases x0
  · exact of_length (n := 2) rfl (by decide) (by decide)
  · exact of_length (n := 3) rfl (by decide) (by decide)
theorem ldw (x0 : Option (BitVec 3)) (x1 : BitVec 6) (x2 : BitVec 4) (x3 : BitVec 3) (x4 : BitVec 5) (x5 : BitVec 5) : Statement (.ldw x0 x1 x2 x3 x4 x5) := by
  cases x0
  · exact of_length (n := 2) rfl (by decide) (by decide)
  · exact of_length (n := 3) rfl (by decide) (by decide)
theorem ldd (x0 : Option (BitVec 3)) (x1 : BitVec 6) (x2 : BitVec 4) (x3 : BitVec 3) (x4 : BitVec 5) (x5 : BitVec 5) : Statement (.ldd x0 x1 x2 x3 x4 x5) := by
  cases x0
  · exact of_length (n := 2) rfl (by decide) (by decide)
  · exact of_length (n := 3) rfl (by decide) (by decide)
theorem stb (x0 : Option (BitVec 3)) (x1 : BitVec 6) (x2 : BitVec 3) (x3 : BitVec 5) (x4 : BitVec 5) : Statement (.stb x0 x1 x2 x3 x4) := by
  cases x0
  · exact of_length (n := 2) rfl (by decide) (by decide)
  · exact of_length (n := 3) rfl (by decide) (by decide)
theorem sth (x0 : Option (BitVec 3)) (x1 : BitVec 6) (x2 : BitVec 3) (x3 : BitVec 5) (x4 : BitVec 5) : Statement (.sth x0 x1 x2 x3 x4) := by
  cases x0
  · exact of_length (n := 2) rfl (by decide) (by decide)
  · exact of_length (n := 3) rfl (by decide) (by decide)
theorem stw (x0 : Option (BitVec 3)) (x1 : BitVec 6) (x2 : BitVec 3) (x3 : BitVec 5) (x4 : BitVec 5) : Statement (.stw x0 x1 x2 x3 x4) := by
  cases x0
  · exact of_length (n := 2) rfl (by decide) (by decide)
  · exact of_length (n := 3) rfl (by decide) (by decide)
theorem std (x0 : Option (BitVec 3)) (x1 : BitVec 6) (x2 : BitVec 3) (x3 : BitVec 5) (x4 : BitVec 5) : Statement (.std x0 x1 x2 x3 x4) := by
  cases x0
  · exact of_length (n := 2) rfl (by decide) (by decide)
  · exact of_length (n := 3) rfl (by decide) (by decide)
theorem ldAcq (x0 : BitVec 4) (x1 : BitVec 2) (x2 : BitVec 3) (x3 : BitVec 5) (x4 : BitVec 5) : Statement (.ldAcq x0 x1 x2 x3 x4) := of_length (n := 2) rfl (by decide) (by decide)
theorem lduAcq (x0 : BitVec 4) (x1 : BitVec 2) (x2 : BitVec 3) (x3 : BitVec 5) (x4 : BitVec 5) : Statement (.lduAcq x0 x1 x2 x3 x4) := of_length (n := 2) rfl (by decide) (by decide)
theorem stRel (x0 : BitVec 2) (x1 : BitVec 3) (x2 : BitVec 5) (x3 : BitVec 5) : Statement (.stRel x0 x1 x2 x3) := of_length (n := 2) rfl (by decide) (by decide)
theorem ldbu (x0 : Option (BitVec 3)) (x1 : BitVec 4) (x2 : BitVec 3) (x3 : BitVec 5) (x4 : BitVec 5) : Statement (.ldbu x0 x1 x2 x3 x4) := by
  cases x0
  · exact of_length (n := 2) rfl (by decide) (by decide)
  · exact of_length (n := 3) rfl (by decide) (by decide)
theorem ldhu (x0 : Option (BitVec 3)) (x1 : BitVec 4) (x2 : BitVec 3) (x3 : BitVec 5) (x4 : BitVec 5) : Statement (.ldhu x0 x1 x2 x3 x4) := by
  cases x0
  · exact of_length (n := 2) rfl (by decide) (by decide)
  · exact of_length (n := 3) rfl (by decide) (by decide)
theorem ldwu (x0 : Option (BitVec 3)) (x1 : BitVec 4) (x2 : BitVec 3) (x3 : BitVec 5) (x4 : BitVec 5) : Statement (.ldwu x0 x1 x2 x3 x4) := by
  cases x0
  · exact of_length (n := 2) rfl (by decide) (by decide)
  · exact of_length (n := 3) rfl (by decide) (by decide)
theorem lde (x0 : BitVec 4) (x1 : BitVec 3) (x2 : BitVec 5) (x3 : BitVec 5) : Statement (.lde x0 x1 x2 x3) := of_length (n := 2) rfl (by decide) (by decide)
theorem ldf (x0 : BitVec 4) (x1 : BitVec 3) (x2 : BitVec 5) (x3 : BitVec 5) : Statement (.ldf x0 x1 x2 x3) := of_length (n := 2) rfl (by decide) (by decide)
theorem stf (x0 : BitVec 3) (x1 : BitVec 5) (x2 : BitVec 5) : Statement (.stf x0 x1 x2) := of_length (n := 2) rfl (by decide) (by decide)
theorem stff (x0 : BitVec 3) (x1 : BitVec 5) (x2 : BitVec 5) : Statement (.stff x0 x1 x2) := of_length (n := 2) rfl (by decide) (by decide)
theorem feq (x0 : BitVec 4) (x1 : BitVec 3) (x2 : BitVec 5) (x3 : BitVec 5) : Statement (.feq x0 x1 x2 x3) := of_length (n := 2) rfl (by decide) (by decide)
theorem feclr (x0 : BitVec 3) (x1 : BitVec 5) : Statement (.feclr x0 x1) := of_length (n := 2) rfl (by decide) (by decide)
theorem ldbIdx (x0 : Option (BitVec 3)) (x1 : BitVec 4) (x2 : BitVec 4) (x3 : BitVec 3) (x4 : BitVec 5) (x5 : BitVec 5) : Statement (.ldbIdx x0 x1 x2 x3 x4 x5) := by
  cases x0
  · exact of_length (n := 2) rfl (by decide) (by decide)
  · exact of_length (n := 3) rfl (by decide) (by decide)
theorem ldbuIdx (x0 : Option (BitVec 3)) (x1 : BitVec 4) (x2 : BitVec 4) (x3 : BitVec 3) (x4 : BitVec 5) (x5 : BitVec 5) : Statement (.ldbuIdx x0 x1 x2 x3 x4 x5) := by
  cases x0
  · exact of_length (n := 2) rfl (by decide) (by decide)
  · exact of_length (n := 3) rfl (by decide) (by decide)
theorem ldhIdx (x0 : Option (BitVec 3)) (x1 : BitVec 4) (x2 : BitVec 4) (x3 : BitVec 3) (x4 : BitVec 5) (x5 : BitVec 5) : Statement (.ldhIdx x0 x1 x2 x3 x4 x5) := by
  cases x0
  · exact of_length (n := 2) rfl (by decide) (by decide)
  · exact of_length (n := 3) rfl (by decide) (by decide)
theorem ldhuIdx (x0 : Option (BitVec 3)) (x1 : BitVec 4) (x2 : BitVec 4) (x3 : BitVec 3) (x4 : BitVec 5) (x5 : BitVec 5) : Statement (.ldhuIdx x0 x1 x2 x3 x4 x5) := by
  cases x0
  · exact of_length (n := 2) rfl (by decide) (by decide)
  · exact of_length (n := 3) rfl (by decide) (by decide)
theorem ldwIdx (x0 : Option (BitVec 3)) (x1 : BitVec 4) (x2 : BitVec 4) (x3 : BitVec 3) (x4 : BitVec 5) (x5 : BitVec 5) : Statement (.ldwIdx x0 x1 x2 x3 x4 x5) := by
  cases x0
  · exact of_length (n := 2) rfl (by decide) (by decide)
  · exact of_length (n := 3) rfl (by decide) (by decide)
theorem ldwuIdx (x0 : Option (BitVec 3)) (x1 : BitVec 4) (x2 : BitVec 4) (x3 : BitVec 3) (x4 : BitVec 5) (x5 : BitVec 5) : Statement (.ldwuIdx x0 x1 x2 x3 x4 x5) := by
  cases x0
  · exact of_length (n := 2) rfl (by decide) (by decide)
  · exact of_length (n := 3) rfl (by decide) (by decide)
theorem lddIdx (x0 : Option (BitVec 3)) (x1 : BitVec 4) (x2 : BitVec 4) (x3 : BitVec 3) (x4 : BitVec 5) (x5 : BitVec 5) : Statement (.lddIdx x0 x1 x2 x3 x4 x5) := by
  cases x0
  · exact of_length (n := 2) rfl (by decide) (by decide)
  · exact of_length (n := 3) rfl (by decide) (by decide)
theorem stbIdx (x0 : Option (BitVec 3)) (x1 : BitVec 4) (x2 : BitVec 3) (x3 : BitVec 5) (x4 : BitVec 5) : Statement (.stbIdx x0 x1 x2 x3 x4) := by
  cases x0
  · exact of_length (n := 2) rfl (by decide) (by decide)
  · exact of_length (n := 3) rfl (by decide) (by decide)
theorem sthIdx (x0 : Option (BitVec 3)) (x1 : BitVec 4) (x2 : BitVec 3) (x3 : BitVec 5) (x4 : BitVec 5) : Statement (.sthIdx x0 x1 x2 x3 x4) := by
  cases x0
  · exact of_length (n := 2) rfl (by decide) (by decide)
  · exact of_length (n := 3) rfl (by decide) (by decide)
theorem stwIdx (x0 : Option (BitVec 3)) (x1 : BitVec 4) (x2 : BitVec 3) (x3 : BitVec 5) (x4 : BitVec 5) : Statement (.stwIdx x0 x1 x2 x3 x4) := by
  cases x0
  · exact of_length (n := 2) rfl (by decide) (by decide)
  · exact of_length (n := 3) rfl (by decide) (by decide)
theorem stdIdx (x0 : Option (BitVec 3)) (x1 : BitVec 4) (x2 : BitVec 3) (x3 : BitVec 5) (x4 : BitVec 5) : Statement (.stdIdx x0 x1 x2 x3 x4) := by
  cases x0
  · exact of_length (n := 2) rfl (by decide) (by decide)
  · exact of_length (n := 3) rfl (by decide) (by decide)
theorem amoadd (x0 : Option (BitVec 3)) (x1 : BitVec 4) (x2 : BitVec 4) (x3 : BitVec 3) (x4 : BitVec 5) (x5 : BitVec 5) : Statement (.amoadd x0 x1 x2 x3 x4 x5) := by
  cases x0
  · exact of_length (n := 2) rfl (by decide) (by decide)
  · exact of_length (n := 3) rfl (by decide) (by decide)
theorem amoand (x0 : Option (BitVec 3)) (x1 : BitVec 4) (x2 : BitVec 4) (x3 : BitVec 3) (x4 : BitVec 5) (x5 : BitVec 5) : Statement (.amoand x0 x1 x2 x3 x4 x5) := by
  cases x0
  · exact of_length (n := 2) rfl (by decide) (by decide)
  · exact of_length (n := 3) rfl (by decide) (by decide)
theorem amoor (x0 : Option (BitVec 3)) (x1 : BitVec 4) (x2 : BitVec 4) (x3 : BitVec 3) (x4 : BitVec 5) (x5 : BitVec 5) : Statement (.amoor x0 x1 x2 x3 x4 x5) := by
  cases x0
  · exact of_length (n := 2) rfl (by decide) (by decide)
  · exact of_length (n := 3) rfl (by decide) (by decide)
theorem amoxor (x0 : Option (BitVec 3)) (x1 : BitVec 4) (x2 : BitVec 4) (x3 : BitVec 3) (x4 : BitVec 5) (x5 : BitVec 5) : Statement (.amoxor x0 x1 x2 x3 x4 x5) := by
  cases x0
  · exact of_length (n := 2) rfl (by decide) (by decide)
  · exact of_length (n := 3) rfl (by decide) (by decide)
theorem amomin (x0 : Option (BitVec 3)) (x1 : BitVec 4) (x2 : BitVec 4) (x3 : BitVec 3) (x4 : BitVec 5) (x5 : BitVec 5) : Statement (.amomin x0 x1 x2 x3 x4 x5) := by
  cases x0
  · exact of_length (n := 2) rfl (by decide) (by decide)
  · exact of_length (n := 3) rfl (by decide) (by decide)
theorem amomax (x0 : Option (BitVec 3)) (x1 : BitVec 4) (x2 : BitVec 4) (x3 : BitVec 3) (x4 : BitVec 5) (x5 : BitVec 5) : Statement (.amomax x0 x1 x2 x3 x4 x5) := by
  cases x0
  · exact of_length (n := 2) rfl (by decide) (by decide)
  · exact of_length (n := 3) rfl (by decide) (by decide)
theorem amoswp (x0 : Option (BitVec 3)) (x1 : BitVec 4) (x2 : BitVec 4) (x3 : BitVec 3) (x4 : BitVec 5) (x5 : BitVec 5) : Statement (.amoswp x0 x1 x2 x3 x4 x5) := by
  cases x0
  · exact of_length (n := 2) rfl (by decide) (by decide)
  · exact of_length (n := 3) rfl (by decide) (by decide)
theorem amocas (x0 : Option (BitVec 3)) (x1 : BitVec 4) (x2 : BitVec 4) (x3 : BitVec 3) (x4 : BitVec 5) (x5 : BitVec 5) : Statement (.amocas x0 x1 x2 x3 x4 x5) := by
  cases x0
  · exact of_length (n := 2) rfl (by decide) (by decide)
  · exact of_length (n := 3) rfl (by decide) (by decide)
theorem amofaddS (x0 : Option (BitVec 3)) (x1 : BitVec 4) (x2 : BitVec 4) (x3 : BitVec 3) (x4 : BitVec 5) (x5 : BitVec 5) : Statement (.amofaddS x0 x1 x2 x3 x4 x5) := by
  cases x0
  · exact of_length (n := 2) rfl (by decide) (by decide)
  · exact of_length (n := 3) rfl (by decide) (by decide)
theorem amofaddD (x0 : Option (BitVec 3)) (x1 : BitVec 4) (x2 : BitVec 4) (x3 : BitVec 3) (x4 : BitVec 5) (x5 : BitVec 5) : Statement (.amofaddD x0 x1 x2 x3 x4 x5) := by
  cases x0
  · exact of_length (n := 2) rfl (by decide) (by decide)
  · exact of_length (n := 3) rfl (by decide) (by decide)
theorem get (x0 : BitVec 4) (x1 : BitVec 1) (x2 : BitVec 4) (x3 : BitVec 3) (x4 : BitVec 5) (x5 : BitVec 5) : Statement (.get x0 x1 x2 x3 x4 x5) := of_length (n := 2) rfl (by decide) (by decide)
theorem put (x0 : BitVec 4) (x1 : BitVec 1) (x2 : BitVec 4) (x3 : BitVec 3) (x4 : BitVec 5) (x5 : BitVec 5) : Statement (.put x0 x1 x2 x3 x4 x5) := of_length (n := 2) rfl (by decide) (by decide)
theorem ramo (x0 : BitVec 4) (x1 : BitVec 4) (x2 : BitVec 3) (x3 : BitVec 5) (x4 : BitVec 5) : Statement (.ramo x0 x1 x2 x3 x4) := of_length (n := 2) rfl (by decide) (by decide)
theorem rsem (x0 : BitVec 4) (x1 : BitVec 6) (x2 : BitVec 5) (x3 : BitVec 5) : Statement (.rsem x0 x1 x2 x3) := of_length (n := 2) rfl (by decide) (by decide)
theorem nadd (x0 : BitVec 4) (x1 : BitVec 3) (x2 : BitVec 5) (x3 : BitVec 5) : Statement (.nadd x0 x1 x2 x3) := of_length (n := 2) rfl (by decide) (by decide)
theorem nmax (x0 : BitVec 4) (x1 : BitVec 3) (x2 : BitVec 5) (x3 : BitVec 5) : Statement (.nmax x0 x1 x2 x3) := of_length (n := 2) rfl (by decide) (by decide)
theorem nred (x0 : BitVec 4) (x1 : BitVec 3) (x2 : BitVec 5) (x3 : BitVec 5) : Statement (.nred x0 x1 x2 x3) := of_length (n := 2) rfl (by decide) (by decide)
theorem naxpy (x0 : BitVec 4) (x1 : BitVec 3) (x2 : BitVec 5) (x3 : BitVec 5) : Statement (.naxpy x0 x1 x2 x3) := of_length (n := 2) rfl (by decide) (by decide)
theorem nfill (x0 : BitVec 5) (x1 : BitVec 3) (x2 : BitVec 5) (x3 : BitVec 5) : Statement (.nfill x0 x1 x2 x3) := of_length (n := 2) rfl (by decide) (by decide)
theorem namo (x0 : BitVec 4) (x1 : BitVec 5) (x2 : BitVec 3) (x3 : BitVec 5) (x4 : BitVec 5) : Statement (.namo x0 x1 x2 x3 x4) := of_length (n := 2) rfl (by decide) (by decide)
theorem fence (x0 : BitVec 2) (x1 : BitVec 3) : Statement (.fence x0 x1) := of_length (n := 2) rfl (by decide) (by decide)
theorem fenceb (x0 : BitVec 3) : Statement (.fenceb x0) := of_length (n := 2) rfl (by decide) (by decide)
theorem vld (x0 : Option (BitVec 3)) (x1 : BitVec 4) (x2 : BitVec 3) (x3 : BitVec 3) (x4 : BitVec 5) (x5 : BitVec 4) : Statement (.vld x0 x1 x2 x3 x4 x5) := by
  cases x0
  · exact of_length (n := 2) rfl (by decide) (by decide)
  · exact of_length (n := 3) rfl (by decide) (by decide)
theorem vlds (x0 : Option (BitVec 3)) (x1 : BitVec 4) (x2 : BitVec 4) (x3 : BitVec 3) (x4 : BitVec 3) (x5 : BitVec 5) (x6 : BitVec 4) : Statement (.vlds x0 x1 x2 x3 x4 x5 x6) := by
  cases x0
  · exact of_length (n := 2) rfl (by decide) (by decide)
  · exact of_length (n := 3) rfl (by decide) (by decide)
theorem vgath (x0 : Option (BitVec 3)) (x1 : BitVec 4) (x2 : BitVec 4) (x3 : BitVec 3) (x4 : BitVec 3) (x5 : BitVec 5) (x6 : BitVec 4) : Statement (.vgath x0 x1 x2 x3 x4 x5 x6) := by
  cases x0
  · exact of_length (n := 2) rfl (by decide) (by decide)
  · exact of_length (n := 3) rfl (by decide) (by decide)
theorem vst (x0 : Option (BitVec 3)) (x1 : BitVec 3) (x2 : BitVec 3) (x3 : BitVec 5) (x4 : BitVec 4) : Statement (.vst x0 x1 x2 x3 x4) := by
  cases x0
  · exact of_length (n := 2) rfl (by decide) (by decide)
  · exact of_length (n := 3) rfl (by decide) (by decide)
theorem vsts (x0 : Option (BitVec 3)) (x1 : BitVec 4) (x2 : BitVec 3) (x3 : BitVec 3) (x4 : BitVec 5) (x5 : BitVec 4) : Statement (.vsts x0 x1 x2 x3 x4 x5) := by
  cases x0
  · exact of_length (n := 2) rfl (by decide) (by decide)
  · exact of_length (n := 3) rfl (by decide) (by decide)
theorem vscat (x0 : Option (BitVec 3)) (x1 : BitVec 4) (x2 : BitVec 3) (x3 : BitVec 3) (x4 : BitVec 5) (x5 : BitVec 4) : Statement (.vscat x0 x1 x2 x3 x4 x5) := by
  cases x0
  · exact of_length (n := 2) rfl (by decide) (by decide)
  · exact of_length (n := 3) rfl (by decide) (by decide)
theorem viadd (x0 : BitVec 1) (x1 : BitVec 4) (x2 : BitVec 3) (x3 : BitVec 4) (x4 : BitVec 4) (x5 : BitVec 4) : Statement (.viadd x0 x1 x2 x3 x4 x5) := of_length (n := 2) rfl (by decide) (by decide)
theorem visub (x0 : BitVec 1) (x1 : BitVec 4) (x2 : BitVec 3) (x3 : BitVec 4) (x4 : BitVec 4) (x5 : BitVec 4) : Statement (.visub x0 x1 x2 x3 x4 x5) := of_length (n := 2) rfl (by decide) (by decide)
theorem vimul (x0 : BitVec 1) (x1 : BitVec 4) (x2 : BitVec 3) (x3 : BitVec 4) (x4 : BitVec 4) (x5 : BitVec 4) : Statement (.vimul x0 x1 x2 x3 x4 x5) := of_length (n := 2) rfl (by decide) (by decide)
theorem vimin (x0 : BitVec 1) (x1 : BitVec 4) (x2 : BitVec 3) (x3 : BitVec 4) (x4 : BitVec 4) (x5 : BitVec 4) : Statement (.vimin x0 x1 x2 x3 x4 x5) := of_length (n := 2) rfl (by decide) (by decide)
theorem vimax (x0 : BitVec 1) (x1 : BitVec 4) (x2 : BitVec 3) (x3 : BitVec 4) (x4 : BitVec 4) (x5 : BitVec 4) : Statement (.vimax x0 x1 x2 x3 x4 x5) := of_length (n := 2) rfl (by decide) (by decide)
theorem vand (x0 : BitVec 1) (x1 : BitVec 4) (x2 : BitVec 3) (x3 : BitVec 4) (x4 : BitVec 4) (x5 : BitVec 4) : Statement (.vand x0 x1 x2 x3 x4 x5) := of_length (n := 2) rfl (by decide) (by decide)
theorem vor (x0 : BitVec 1) (x1 : BitVec 4) (x2 : BitVec 3) (x3 : BitVec 4) (x4 : BitVec 4) (x5 : BitVec 4) : Statement (.vor x0 x1 x2 x3 x4 x5) := of_length (n := 2) rfl (by decide) (by decide)
theorem vxor (x0 : BitVec 1) (x1 : BitVec 4) (x2 : BitVec 3) (x3 : BitVec 4) (x4 : BitVec 4) (x5 : BitVec 4) : Statement (.vxor x0 x1 x2 x3 x4 x5) := of_length (n := 2) rfl (by decide) (by decide)
theorem vshl (x0 : BitVec 1) (x1 : BitVec 4) (x2 : BitVec 3) (x3 : BitVec 4) (x4 : BitVec 4) (x5 : BitVec 4) : Statement (.vshl x0 x1 x2 x3 x4 x5) := of_length (n := 2) rfl (by decide) (by decide)
theorem vshr (x0 : BitVec 1) (x1 : BitVec 4) (x2 : BitVec 3) (x3 : BitVec 4) (x4 : BitVec 4) (x5 : BitVec 4) : Statement (.vshr x0 x1 x2 x3 x4 x5) := of_length (n := 2) rfl (by decide) (by decide)
theorem vsra (x0 : BitVec 1) (x1 : BitVec 4) (x2 : BitVec 3) (x3 : BitVec 4) (x4 : BitVec 4) (x5 : BitVec 4) : Statement (.vsra x0 x1 x2 x3 x4 x5) := of_length (n := 2) rfl (by decide) (by decide)
theorem vcmpeq (x0 : BitVec 2) (x1 : BitVec 4) (x2 : BitVec 3) (x3 : BitVec 4) (x4 : BitVec 4) (x5 : BitVec 3) : Statement (.vcmpeq x0 x1 x2 x3 x4 x5) := of_length (n := 2) rfl (by decide) (by decide)
theorem vcmplt (x0 : BitVec 2) (x1 : BitVec 4) (x2 : BitVec 3) (x3 : BitVec 4) (x4 : BitVec 4) (x5 : BitVec 3) : Statement (.vcmplt x0 x1 x2 x3 x4 x5) := of_length (n := 2) rfl (by decide) (by decide)
theorem vcmple (x0 : BitVec 2) (x1 : BitVec 4) (x2 : BitVec 3) (x3 : BitVec 4) (x4 : BitVec 4) (x5 : BitVec 3) : Statement (.vcmple x0 x1 x2 x3 x4 x5) := of_length (n := 2) rfl (by decide) (by decide)
theorem vadd (x0 : BitVec 1) (x1 : BitVec 4) (x2 : BitVec 3) (x3 : BitVec 4) (x4 : BitVec 4) (x5 : BitVec 4) : Statement (.vadd x0 x1 x2 x3 x4 x5) := of_length (n := 2) rfl (by decide) (by decide)
theorem vsub (x0 : BitVec 1) (x1 : BitVec 4) (x2 : BitVec 3) (x3 : BitVec 4) (x4 : BitVec 4) (x5 : BitVec 4) : Statement (.vsub x0 x1 x2 x3 x4 x5) := of_length (n := 2) rfl (by decide) (by decide)
theorem vmul (x0 : BitVec 1) (x1 : BitVec 4) (x2 : BitVec 3) (x3 : BitVec 4) (x4 : BitVec 4) (x5 : BitVec 4) : Statement (.vmul x0 x1 x2 x3 x4 x5) := of_length (n := 2) rfl (by decide) (by decide)
theorem vfma (x0 : BitVec 1) (x1 : BitVec 4) (x2 : BitVec 3) (x3 : BitVec 4) (x4 : BitVec 4) (x5 : BitVec 4) : Statement (.vfma x0 x1 x2 x3 x4 x5) := of_length (n := 2) rfl (by decide) (by decide)
theorem vfms (x0 : BitVec 1) (x1 : BitVec 4) (x2 : BitVec 3) (x3 : BitVec 4) (x4 : BitVec 4) (x5 : BitVec 4) : Statement (.vfms x0 x1 x2 x3 x4 x5) := of_length (n := 2) rfl (by decide) (by decide)
theorem vmin (x0 : BitVec 1) (x1 : BitVec 4) (x2 : BitVec 3) (x3 : BitVec 4) (x4 : BitVec 4) (x5 : BitVec 4) : Statement (.vmin x0 x1 x2 x3 x4 x5) := of_length (n := 2) rfl (by decide) (by decide)
theorem vmax (x0 : BitVec 1) (x1 : BitVec 4) (x2 : BitVec 3) (x3 : BitVec 4) (x4 : BitVec 4) (x5 : BitVec 4) : Statement (.vmax x0 x1 x2 x3 x4 x5) := of_length (n := 2) rfl (by decide) (by decide)
theorem vabs (x0 : BitVec 1) (x1 : BitVec 4) (x2 : BitVec 3) (x3 : BitVec 4) (x4 : BitVec 4) : Statement (.vabs x0 x1 x2 x3 x4) := of_length (n := 2) rfl (by decide) (by decide)
theorem vneg (x0 : BitVec 1) (x1 : BitVec 4) (x2 : BitVec 3) (x3 : BitVec 4) (x4 : BitVec 4) : Statement (.vneg x0 x1 x2 x3 x4) := of_length (n := 2) rfl (by decide) (by decide)
theorem vrsqe (x0 : BitVec 1) (x1 : BitVec 4) (x2 : BitVec 3) (x3 : BitVec 4) (x4 : BitVec 4) : Statement (.vrsqe x0 x1 x2 x3 x4) := of_length (n := 2) rfl (by decide) (by decide)
theorem vrcpe (x0 : BitVec 1) (x1 : BitVec 4) (x2 : BitVec 3) (x3 : BitVec 4) (x4 : BitVec 4) : Statement (.vrcpe x0 x1 x2 x3 x4) := of_length (n := 2) rfl (by decide) (by decide)
theorem vexp2e (x0 : BitVec 1) (x1 : BitVec 4) (x2 : BitVec 3) (x3 : BitVec 4) (x4 : BitVec 4) : Statement (.vexp2e x0 x1 x2 x3 x4) := of_length (n := 2) rfl (by decide) (by decide)
theorem vlog2e (x0 : BitVec 1) (x1 : BitVec 4) (x2 : BitVec 3) (x3 : BitVec 4) (x4 : BitVec 4) : Statement (.vlog2e x0 x1 x2 x3 x4) := of_length (n := 2) rfl (by decide) (by decide)
theorem vcvt (x0 : BitVec 5) (x1 : BitVec 4) (x2 : BitVec 3) (x3 : BitVec 4) (x4 : BitVec 4) : Statement (.vcvt x0 x1 x2 x3 x4) := of_length (n := 2) rfl (by decide) (by decide)
theorem vquant (x0 : BitVec 1) (x1 : BitVec 4) (x2 : BitVec 3) (x3 : BitVec 1) (x4 : BitVec 2) (x5 : BitVec 4) (x6 : BitVec 4) : Statement (.vquant x0 x1 x2 x3 x4 x5 x6) := of_length (n := 2) rfl (by decide) (by decide)
theorem vdeq (x0 : BitVec 1) (x1 : BitVec 4) (x2 : BitVec 3) (x3 : BitVec 1) (x4 : BitVec 4) (x5 : BitVec 4) : Statement (.vdeq x0 x1 x2 x3 x4 x5) := of_length (n := 2) rfl (by decide) (by decide)
theorem mand (x0 : BitVec 4) (x1 : BitVec 3) (x2 : BitVec 3) (x3 : BitVec 3) : Statement (.mand x0 x1 x2 x3) := of_length (n := 2) rfl (by decide) (by decide)
theorem mor (x0 : BitVec 4) (x1 : BitVec 3) (x2 : BitVec 3) (x3 : BitVec 3) : Statement (.mor x0 x1 x2 x3) := of_length (n := 2) rfl (by decide) (by decide)
theorem mnot (x0 : BitVec 4) (x1 : BitVec 3) (x2 : BitVec 3) : Statement (.mnot x0 x1 x2) := of_length (n := 2) rfl (by decide) (by decide)
theorem mpop (x0 : BitVec 5) (x1 : BitVec 4) (x2 : BitVec 3) : Statement (.mpop x0 x1 x2) := of_length (n := 2) rfl (by decide) (by decide)
theorem vmov (x0 : BitVec 4) (x1 : BitVec 3) (x2 : BitVec 2) (x3 : BitVec 4) (x4 : BitVec 4) : Statement (.vmov x0 x1 x2 x3 x4) := of_length (n := 2) rfl (by decide) (by decide)
theorem vbcast (x0 : BitVec 5) (x1 : BitVec 4) (x2 : BitVec 3) (x3 : BitVec 2) (x4 : BitVec 4) : Statement (.vbcast x0 x1 x2 x3 x4) := of_length (n := 2) rfl (by decide) (by decide)
theorem vextr (x0 : BitVec 5) (x1 : BitVec 4) (x2 : BitVec 7) (x3 : BitVec 4) : Statement (.vextr x0 x1 x2 x3) := of_length (n := 2) rfl (by decide) (by decide)
theorem vins (x0 : BitVec 5) (x1 : BitVec 4) (x2 : BitVec 7) (x3 : BitVec 4) : Statement (.vins x0 x1 x2 x3) := of_length (n := 2) rfl (by decide) (by decide)
theorem vperm (x0 : BitVec 1) (x1 : BitVec 4) (x2 : BitVec 3) (x3 : BitVec 4) (x4 : BitVec 4) (x5 : BitVec 4) : Statement (.vperm x0 x1 x2 x3 x4 x5) := of_length (n := 2) rfl (by decide) (by decide)
theorem vslide (x0 : BitVec 5) (x1 : BitVec 4) (x2 : BitVec 4) (x3 : BitVec 4) : Statement (.vslide x0 x1 x2 x3) := of_length (n := 2) rfl (by decide) (by decide)
theorem vsel (x0 : BitVec 1) (x1 : BitVec 4) (x2 : BitVec 3) (x3 : BitVec 4) (x4 : BitVec 4) (x5 : BitVec 4) : Statement (.vsel x0 x1 x2 x3 x4 x5) := of_length (n := 2) rfl (by decide) (by decide)
theorem vredsum (x0 : BitVec 5) (x1 : BitVec 4) (x2 : BitVec 3) (x3 : BitVec 4) (x4 : BitVec 4) : Statement (.vredsum x0 x1 x2 x3 x4) := of_length (n := 2) rfl (by decide) (by decide)
theorem vredmax (x0 : BitVec 5) (x1 : BitVec 4) (x2 : BitVec 3) (x3 : BitVec 4) (x4 : BitVec 4) : Statement (.vredmax x0 x1 x2 x3 x4) := of_length (n := 2) rfl (by decide) (by decide)
theorem vredmin (x0 : BitVec 5) (x1 : BitVec 4) (x2 : BitVec 3) (x3 : BitVec 4) (x4 : BitVec 4) : Statement (.vredmin x0 x1 x2 x3 x4) := of_length (n := 2) rfl (by decide) (by decide)
theorem mcfg (x0 : BitVec 4) (x1 : BitVec 5) (x2 : BitVec 2) : Statement (.mcfg x0 x1 x2) := of_length (n := 2) rfl (by decide) (by decide)
theorem mload (x0 : BitVec 4) (x1 : BitVec 3) (x2 : BitVec 5) (x3 : BitVec 2) : Statement (.mload x0 x1 x2 x3) := of_length (n := 2) rfl (by decide) (by decide)
theorem mswap (x0 : BitVec 4) : Statement (.mswap x0) := of_length (n := 2) rfl (by decide) (by decide)
theorem mstep (x0 : BitVec 4) (x1 : BitVec 3) (x2 : BitVec 5) (x3 : BitVec 4) (x4 : BitVec 2) : Statement (.mstep x0 x1 x2 x3 x4) := of_length (n := 2) rfl (by decide) (by decide)
theorem mzero (x0 : BitVec 4) (x1 : BitVec 2) : Statement (.mzero x0 x1) := of_length (n := 2) rfl (by decide) (by decide)
theorem mdrain (x0 : BitVec 4) (x1 : BitVec 3) (x2 : BitVec 3) (x3 : BitVec 5) (x4 : BitVec 4) (x5 : BitVec 2) : Statement (.mdrain x0 x1 x2 x3 x4 x5) := of_length (n := 2) rfl (by decide) (by decide)
theorem mflags (x0 : BitVec 4) (x1 : BitVec 5) : Statement (.mflags x0 x1) := of_length (n := 2) rfl (by decide) (by decide)
theorem msave (x0 : BitVec 4) (x1 : BitVec 3) (x2 : BitVec 5) (x3 : BitVec 2) : Statement (.msave x0 x1 x2 x3) := of_length (n := 2) rfl (by decide) (by decide)
theorem mrest (x0 : BitVec 4) (x1 : BitVec 3) (x2 : BitVec 5) (x3 : BitVec 2) : Statement (.mrest x0 x1 x2 x3) := of_length (n := 2) rfl (by decide) (by decide)
theorem tcopy (x0 : BitVec 6) (x1 : BitVec 1) (x2 : BitVec 5) (x3 : BitVec 5) : Statement (.tcopy x0 x1 x2 x3) := of_length (n := 2) rfl (by decide) (by decide)
theorem tgath (x0 : BitVec 6) (x1 : BitVec 1) (x2 : BitVec 5) (x3 : BitVec 5) : Statement (.tgath x0 x1 x2 x3) := of_length (n := 2) rfl (by decide) (by decide)
theorem tscat (x0 : BitVec 6) (x1 : BitVec 1) (x2 : BitVec 5) (x3 : BitVec 5) : Statement (.tscat x0 x1 x2 x3) := of_length (n := 2) rfl (by decide) (by decide)
theorem tfill (x0 : BitVec 6) (x1 : BitVec 1) (x2 : BitVec 5) (x3 : BitVec 5) : Statement (.tfill x0 x1 x2 x3) := of_length (n := 2) rfl (by decide) (by decide)
theorem ego : Statement (.ego) := of_length (n := 2) rfl (by decide) (by decide)
theorem estat (x0 : BitVec 5) : Statement (.estat x0) := of_length (n := 2) rfl (by decide) (by decide)
theorem ecan : Statement (.ecan) := of_length (n := 2) rfl (by decide) (by decide)
theorem semadd (x0 : BitVec 6) (x1 : BitVec 5) : Statement (.semadd x0 x1) := of_length (n := 2) rfl (by decide) (by decide)
theorem semset (x0 : BitVec 6) (x1 : BitVec 5) : Statement (.semset x0 x1) := of_length (n := 2) rfl (by decide) (by decide)
theorem semrd (x0 : BitVec 6) (x1 : BitVec 5) : Statement (.semrd x0 x1) := of_length (n := 2) rfl (by decide) (by decide)
theorem semwait (x0 : BitVec 6) (x1 : BitVec 5) : Statement (.semwait x0 x1) := of_length (n := 2) rfl (by decide) (by decide)
theorem bar (x0 : BitVec 3) : Statement (.bar x0) := of_length (n := 2) rfl (by decide) (by decide)
theorem barar (x0 : BitVec 3) (x1 : BitVec 5) : Statement (.barar x0 x1) := of_length (n := 2) rfl (by decide) (by decide)
theorem barwt (x0 : BitVec 3) (x1 : BitVec 5) : Statement (.barwt x0 x1) := of_length (n := 2) rfl (by decide) (by decide)
theorem gred (x0 : BitVec 4) (x1 : BitVec 5) (x2 : BitVec 5) : Statement (.gred x0 x1 x2) := of_length (n := 2) rfl (by decide) (by decide)
theorem send (x0 : BitVec 5) (x1 : BitVec 5) (x2 : BitVec 5) : Statement (.send x0 x1 x2) := of_length (n := 2) rfl (by decide) (by decide)
theorem sendam (x0 : BitVec 5) (x1 : BitVec 5) (x2 : BitVec 5) : Statement (.sendam x0 x1 x2) := of_length (n := 2) rfl (by decide) (by decide)
theorem sendamR (x0 : BitVec 4) (x1 : BitVec 5) (x2 : BitVec 5) (x3 : BitVec 5) : Statement (.sendamR x0 x1 x2 x3) := of_length (n := 2) rfl (by decide) (by decide)
theorem mbxst (x0 : BitVec 5) : Statement (.mbxst x0) := of_length (n := 2) rfl (by decide) (by decide)
theorem mbxstClr (x0 : BitVec 5) : Statement (.mbxstClr x0) := of_length (n := 2) rfl (by decide) (by decide)
theorem waitfAll (x0 : BitVec 5) (x1 : BitVec 5) : Statement (.waitfAll x0 x1) := of_length (n := 2) rfl (by decide) (by decide)
theorem waitfAny (x0 : BitVec 5) (x1 : BitVec 5) : Statement (.waitfAny x0 x1) := of_length (n := 2) rfl (by decide) (by decide)
theorem backoff (x0 : BitVec 5) : Statement (.backoff x0) := of_length (n := 2) rfl (by decide) (by decide)
theorem tqpush (x0 : BitVec 3) (x1 : BitVec 5) (x2 : BitVec 5) (x3 : BitVec 5) : Statement (.tqpush x0 x1 x2 x3) := of_length (n := 2) rfl (by decide) (by decide)
theorem tqdone (x0 : BitVec 5) (x1 : BitVec 5) : Statement (.tqdone x0 x1) := of_length (n := 2) rfl (by decide) (by decide)
theorem tqdoneT (x0 : BitVec 5) (x1 : BitVec 5) : Statement (.tqdoneT x0 x1) := of_length (n := 2) rfl (by decide) (by decide)
theorem succok : Statement (.succok) := of_length (n := 2) rfl (by decide) (by decide)
theorem waitpred : Statement (.waitpred) := of_length (n := 2) rfl (by decide) (by decide)
theorem yield : Statement (.yield) := of_length (n := 2) rfl (by decide) (by decide)
theorem exit : Statement (.exit) := of_length (n := 2) rfl (by decide) (by decide)
theorem colld (x0 : BitVec 3) (x1 : BitVec 5) (x2 : BitVec 5) : Statement (.colld x0 x1 x2) := of_length (n := 2) rfl (by decide) (by decide)
theorem colrun (x0 : BitVec 3) (x1 : BitVec 5) : Statement (.colrun x0 x1) := of_length (n := 2) rfl (by decide) (by decide)
theorem colwt (x0 : BitVec 5) : Statement (.colwt x0) := of_length (n := 2) rfl (by decide) (by decide)
theorem colst (x0 : BitVec 5) : Statement (.colst x0) := of_length (n := 2) rfl (by decide) (by decide)
theorem colstAbort (x0 : BitVec 5) : Statement (.colstAbort x0) := of_length (n := 2) rfl (by decide) (by decide)
theorem crd (x0 : BitVec 12) (x1 : BitVec 5) : Statement (.crd x0 x1) := of_length (n := 2) rfl (by decide) (by decide)
theorem crdStat (x0 : BitVec 5) : Statement (.crdStat x0) := of_length (n := 2) rfl (by decide) (by decide)
theorem crdTime (x0 : BitVec 5) : Statement (.crdTime x0) := of_length (n := 2) rfl (by decide) (by decide)
theorem cwr (x0 : BitVec 12) (x1 : BitVec 5) : Statement (.cwr x0 x1) := of_length (n := 2) rfl (by decide) (by decide)
theorem cwrStat (x0 : BitVec 5) : Statement (.cwrStat x0) := of_length (n := 2) rfl (by decide) (by decide)
theorem cwrTdp (x0 : BitVec 5) : Statement (.cwrTdp x0) := of_length (n := 2) rfl (by decide) (by decide)
theorem cwrWp (x0 : BitVec 5) : Statement (.cwrWp x0) := of_length (n := 2) rfl (by decide) (by decide)
theorem cwrVp (x0 : BitVec 5) : Statement (.cwrVp x0) := of_length (n := 2) rfl (by decide) (by decide)
theorem cwrGtoff (x0 : BitVec 5) : Statement (.cwrGtoff x0) := of_length (n := 2) rfl (by decide) (by decide)
theorem cwrRot (x0 : BitVec 5) : Statement (.cwrRot x0) := of_length (n := 2) rfl (by decide) (by decide)
theorem trap (x0 : BitVec 10) : Statement (.trap x0) := of_length (n := 2) rfl (by decide) (by decide)
theorem brk (x0 : BitVec 10) : Statement (.brk x0) := of_length (n := 2) rfl (by decide) (by decide)
theorem halt : Statement (.halt) := of_length (n := 2) rfl (by decide) (by decide)
theorem wfm (x0 : BitVec 5) : Statement (.wfm x0) := of_length (n := 2) rfl (by decide) (by decide)
theorem eret (x0 : BitVec 5) (x1 : BitVec 5) : Statement (.eret x0 x1) := of_length (n := 2) rfl (by decide) (by decide)
theorem resume (x0 : BitVec 5) : Statement (.resume x0) := of_length (n := 2) rfl (by decide) (by decide)
theorem preempt (x0 : BitVec 5) (x1 : BitVec 5) : Statement (.preempt x0 x1) := of_length (n := 2) rfl (by decide) (by decide)
theorem preemptDrop (x0 : BitVec 5) (x1 : BitVec 5) : Statement (.preemptDrop x0 x1) := of_length (n := 2) rfl (by decide) (by decide)
theorem ctxld (x0 : BitVec 5) (x1 : BitVec 5) : Statement (.ctxld x0 x1) := of_length (n := 2) rfl (by decide) (by decide)
theorem ctxldTdp (x0 : BitVec 5) (x1 : BitVec 5) : Statement (.ctxldTdp x0 x1) := of_length (n := 2) rfl (by decide) (by decide)
theorem tlbinv (x0 : BitVec 5) (x1 : BitVec 5) : Statement (.tlbinv x0 x1) := of_length (n := 2) rfl (by decide) (by decide)
theorem tlbinvAll (x0 : BitVec 5) (x1 : BitVec 5) : Statement (.tlbinvAll x0 x1) := of_length (n := 2) rfl (by decide) (by decide)
theorem segld (x0 : BitVec 5) (x1 : BitVec 5) (x2 : BitVec 3) : Statement (.segld x0 x1 x2) := of_length (n := 2) rfl (by decide) (by decide)
theorem rotset (x0 : BitVec 5) : Statement (.rotset x0) := of_length (n := 2) rfl (by decide) (by decide)
theorem dsend (x0 : BitVec 3) (x1 : BitVec 3) (x2 : BitVec 4) (x3 : BitVec 1) (x4 : BitVec 3) (x5 : BitVec 32) : Statement (.dsend x0 x1 x2 x3 x4 x5) := of_length (n := 4) rfl (by decide) (by decide)
theorem drecv (x0 : BitVec 3) (x1 : BitVec 3) (x2 : BitVec 4) (x3 : BitVec 1) (x4 : BitVec 3) (x5 : BitVec 32) : Statement (.drecv x0 x1 x2 x3 x4 x5) := of_length (n := 4) rfl (by decide) (by decide)
theorem dcopy (x0 : BitVec 3) (x1 : BitVec 3) (x2 : BitVec 4) (x3 : BitVec 1) (x4 : BitVec 3) (x5 : BitVec 4) (x6 : BitVec 32) : Statement (.dcopy x0 x1 x2 x3 x4 x5 x6) := of_length (n := 4) rfl (by decide) (by decide)
theorem dred (x0 : BitVec 3) (x1 : BitVec 2) (x2 : BitVec 4) (x3 : BitVec 1) (x4 : BitVec 3) (x5 : BitVec 3) (x6 : BitVec 32) : Statement (.dred x0 x1 x2 x3 x4 x5 x6) := of_length (n := 4) rfl (by decide) (by decide)
theorem dwait (x0 : BitVec 3) (x1 : BitVec 9) (x2 : BitVec 1) (x3 : BitVec 14) (x4 : BitVec 32) : Statement (.dwait x0 x1 x2 x3 x4) := of_length (n := 4) rfl (by decide) (by decide)
theorem dsig (x0 : BitVec 3) (x1 : BitVec 3) (x2 : BitVec 32) : Statement (.dsig x0 x1 x2) := of_length (n := 4) rfl (by decide) (by decide)
theorem dsigLoc (x0 : BitVec 3) (x1 : BitVec 32) : Statement (.dsigLoc x0 x1) := of_length (n := 4) rfl (by decide) (by decide)
theorem dloop (x0 : BitVec 4) (x1 : BitVec 9) : Statement (.dloop x0 x1) := of_length (n := 4) rfl (by decide) (by decide)
theorem dloopJmp (x0 : BitVec 9) : Statement (.dloopJmp x0) := of_length (n := 4) rfl (by decide) (by decide)
theorem dloopBz (x0 : BitVec 4) (x1 : BitVec 9) : Statement (.dloopBz x0 x1) := of_length (n := 4) rfl (by decide) (by decide)
theorem dloopBnz (x0 : BitVec 4) (x1 : BitVec 9) : Statement (.dloopBnz x0 x1) := of_length (n := 4) rfl (by decide) (by decide)
theorem dnextAdd (x0 : BitVec 4) (x1 : BitVec 32) : Statement (.dnextAdd x0 x1) := of_length (n := 4) rfl (by decide) (by decide)
theorem dnextMod (x0 : BitVec 4) (x1 : BitVec 4) (x2 : BitVec 32) : Statement (.dnextMod x0 x1 x2) := of_length (n := 4) rfl (by decide) (by decide)
theorem dnextSet (x0 : BitVec 4) (x1 : BitVec 32) : Statement (.dnextSet x0 x1) := of_length (n := 4) rfl (by decide) (by decide)
theorem dnextMov (x0 : BitVec 4) (x1 : BitVec 4) (x2 : BitVec 32) : Statement (.dnextMov x0 x1 x2) := of_length (n := 4) rfl (by decide) (by decide)
theorem dnextMul (x0 : BitVec 4) (x1 : BitVec 4) (x2 : BitVec 32) : Statement (.dnextMul x0 x1 x2) := of_length (n := 4) rfl (by decide) (by decide)
theorem dnextRnk (x0 : BitVec 4) (x1 : BitVec 32) : Statement (.dnextRnk x0 x1) := of_length (n := 4) rfl (by decide) (by decide)
theorem djoinSend (x0 : BitVec 3) (x1 : BitVec 4) (x2 : BitVec 16) : Statement (.djoinSend x0 x1 x2) := of_length (n := 4) rfl (by decide) (by decide)
theorem djoinRecv (x0 : BitVec 3) (x1 : BitVec 4) (x2 : BitVec 16) : Statement (.djoinRecv x0 x1 x2) := of_length (n := 4) rfl (by decide) (by decide)
theorem djoinTree (x0 : BitVec 2) (x1 : BitVec 4) (x2 : BitVec 4) (x3 : BitVec 4) (x4 : BitVec 16) : Statement (.djoinTree x0 x1 x2 x3 x4) := of_length (n := 4) rfl (by decide) (by decide)
theorem dverRd (x0 : BitVec 4) : Statement (.dverRd x0) := of_length (n := 4) rfl (by decide) (by decide)
theorem dverAgree (x0 : BitVec 4) (x1 : BitVec 12) : Statement (.dverAgree x0 x1) := of_length (n := 4) rfl (by decide) (by decide)
theorem dbar (x0 : BitVec 9) (x1 : BitVec 1) (x2 : BitVec 14) : Statement (.dbar x0 x1 x2) := of_length (n := 4) rfl (by decide) (by decide)
theorem dhalt (x0 : BitVec 7) : Statement (.dhalt x0) := of_length (n := 4) rfl (by decide) (by decide)
theorem resultFill (x0 : Nat) : Statement (.resultFill x0) := of_none rfl rfl
theorem accessPerformedAtHome (x0 : Nat) (x1 : Nat) : Statement (.accessPerformedAtHome x0 x1) := of_none rfl rfl
theorem storeAcknowledge (x0 : Nat) : Statement (.storeAcknowledge x0) := of_none rfl rfl
theorem flitInject (x0 : Nat) (x1 : Nat) : Statement (.flitInject x0 x1) := of_none rfl rfl
theorem exchangeInject (x0 : Nat) : Statement (.exchangeInject x0) := of_none rfl rfl
theorem hbmServiceStart (x0 : Nat) (x1 : Nat) : Statement (.hbmServiceStart x0 x1) := of_none rfl rfl
theorem hbmServiceDone (x0 : Nat) (x1 : Nat) : Statement (.hbmServiceDone x0 x1) := of_none rfl rfl
theorem icacheFill (x0 : Nat) : Statement (.icacheFill x0) := of_none rfl rfl
theorem translationWalkDone (x0 : Nat) (x1 : Nat) : Statement (.translationWalkDone x0 x1) := of_none rfl rfl
theorem pageFaultWake (x0 : Nat) (x1 : Nat) : Statement (.pageFaultWake x0 x1) := of_none rfl rfl
theorem vectorServe (x0 : Nat) : Statement (.vectorServe x0) := of_none rfl rfl
theorem vectorFill (x0 : Nat) : Statement (.vectorFill x0) := of_none rfl rfl
theorem bayEntryPerform (x0 : Nat) : Statement (.bayEntryPerform x0) := of_none rfl rfl
theorem bayEntryEffect (x0 : Nat) : Statement (.bayEntryEffect x0) := of_none rfl rfl
theorem portTransferDone (x0 : Nat) : Statement (.portTransferDone x0) := of_none rfl rfl
theorem portTransferFault (x0 : Nat) : Statement (.portTransferFault x0) := of_none rfl rfl
theorem bankCommandExecute (x0 : Nat) : Statement (.bankCommandExecute x0) := of_none rfl rfl
theorem engineCommandStart (x0 : Nat) : Statement (.engineCommandStart x0) := of_none rfl rfl
theorem engineWindowCommit (x0 : Nat) : Statement (.engineWindowCommit x0) := of_none rfl rfl
theorem enginePark (x0 : Nat) : Statement (.enginePark x0) := of_none rfl rfl
theorem engineRestart (x0 : Nat) : Statement (.engineRestart x0) := of_none rfl rfl
theorem engineInternalError (x0 : Nat) : Statement (.engineInternalError x0) := of_none rfl rfl
theorem remoteAccessArrive (x0 : Nat) : Statement (.remoteAccessArrive x0) := of_none rfl rfl
theorem remoteComplete (x0 : Nat) : Statement (.remoteComplete x0) := of_none rfl rfl
theorem rsemArrive (x0 : Nat) : Statement (.rsemArrive x0) := of_none rfl rfl
theorem depositArrive (x0 : Nat) : Statement (.depositArrive x0) := of_none rfl rfl
theorem sendAck (x0 : Nat) : Statement (.sendAck x0) := of_none rfl rfl
theorem amArrive (x0 : Nat) : Statement (.amArrive x0) := of_none rfl rfl
theorem sendamAck (x0 : Nat) : Statement (.sendamAck x0) := of_none rfl rfl
theorem sendamReply (x0 : Nat) : Statement (.sendamReply x0) := of_none rfl rfl
theorem handlerStart (x0 : Nat) : Statement (.handlerStart x0) := of_none rfl rfl
theorem trapRecordDeliver (x0 : Nat) (x1 : Nat) : Statement (.trapRecordDeliver x0 x1) := of_none rfl rfl
theorem slot15Fault (x0 : Nat) : Statement (.slot15Fault x0) := of_none rfl rfl
theorem barrierArrival (x0 : Nat) (x1 : Nat) (x2 : Nat) (x3 : Nat) : Statement (.barrierArrival x0 x1 x2 x3) := of_none rfl rfl
theorem barrierComplete (x0 : Nat) (x1 : Nat) (x2 : Nat) (x3 : Nat) : Statement (.barrierComplete x0 x1 x2 x3) := of_none rfl rfl
theorem gredContributionArrive (x0 : Nat) (x1 : Nat) (x2 : Nat) (x3 : Nat) : Statement (.gredContributionArrive x0 x1 x2 x3) := of_none rfl rfl
theorem gredResultDeliver (x0 : Nat) (x1 : Nat) (x2 : Nat) (x3 : Nat) : Statement (.gredResultDeliver x0 x1 x2 x3) := of_none rfl rfl
theorem threadSwitch (x0 : Nat) (x1 : Nat) : Statement (.threadSwitch x0 x1) := of_none rfl rfl
theorem preemptSaveDone (x0 : Nat) (x1 : Nat) : Statement (.preemptSaveDone x0 x1) := of_none rfl rfl
theorem ctxldLoadDone (x0 : Nat) (x1 : Nat) : Statement (.ctxldLoadDone x0 x1) := of_none rfl rfl
theorem exitComplete (x0 : Nat) (x1 : Nat) : Statement (.exitComplete x0 x1) := of_none rfl rfl
theorem tlbinvComplete (x0 : Nat) (x1 : Nat) : Statement (.tlbinvComplete x0 x1) := of_none rfl rfl
theorem rotApply (x0 : Nat) : Statement (.rotApply x0) := of_none rfl rfl
theorem yieldEnd (x0 : Nat) (x1 : Nat) : Statement (.yieldEnd x0 x1) := of_none rfl rfl
theorem backoffExpire (x0 : Nat) (x1 : Nat) : Statement (.backoffExpire x0 x1) := of_none rfl rfl
theorem wfmExpire (x0 : Nat) (x1 : Nat) : Statement (.wfmExpire x0 x1) := of_none rfl rfl
theorem hostEnqueue (x0 : Nat) (x1 : Nat) (x2 : List Word) : Statement (.hostEnqueue x0 x1 x2) := of_none rfl rfl
theorem tqpushArrive (x0 : Nat) : Statement (.tqpushArrive x0) := of_none rfl rfl
theorem tqpushAck (x0 : Nat) : Statement (.tqpushAck x0) := of_none rfl rfl
theorem dispatchPass (x0 : Nat) : Statement (.dispatchPass x0) := of_none rfl rfl
theorem taskRetire (x0 : Nat) (x1 : Nat) : Statement (.taskRetire x0 x1) := of_none rfl rfl
theorem watchdogTide (x0 : Nat) (x1 : Nat) : Statement (.watchdogTide x0 x1) := of_none rfl rfl
theorem watchdogExpire (x0 : Nat) (x1 : Nat) : Statement (.watchdogExpire x0 x1) := of_none rfl rfl
theorem gtoffApply (x0 : Nat) : Statement (.gtoffApply x0) := of_none rfl rfl
theorem islandClockChange (x0 : Nat) (x1 : IslandClock) : Statement (.islandClockChange x0 x1) := of_none rfl rfl
theorem debtAccrue (x0 : Nat) (x1 : Nat) : Statement (.debtAccrue x0 x1) := of_none rfl rfl
theorem sliceStart (x0 : Nat) : Statement (.sliceStart x0) := of_none rfl rfl
theorem handoverStop (x0 : Nat) (x1 : Nat) : Statement (.handoverStop x0 x1) := of_none rfl rfl
theorem settleEnd (x0 : Nat) (x1 : Nat) : Statement (.settleEnd x0 x1) := of_none rfl rfl
theorem slotSaveDone (x0 : Nat) (x1 : Nat) : Statement (.slotSaveDone x0 x1) := of_none rfl rfl
theorem slotRestoreDone (x0 : Nat) (x1 : Nat) : Statement (.slotRestoreDone x0 x1) := of_none rfl rfl
theorem poolPhaseDone (x0 : Nat) : Statement (.poolPhaseDone x0) := of_none rfl rfl
theorem lateResultToSaveArea (x0 : Nat) : Statement (.lateResultToSaveArea x0) := of_none rfl rfl
theorem circuitRequestArrive (x0 : Nat) : Statement (.circuitRequestArrive x0) := of_none rfl rfl
theorem circuitDecide (x0 : Nat) : Statement (.circuitDecide x0) := of_none rfl rfl
theorem circuitSwitch (x0 : Nat) : Statement (.circuitSwitch x0) := of_none rfl rfl
theorem dorentOpComplete (x0 : Nat) (x1 : Nat) : Statement (.dorentOpComplete x0 x1) := of_none rfl rfl
theorem dsigArrive (x0 : Nat) (x1 : Nat) : Statement (.dsigArrive x0 x1) := of_none rfl rfl
theorem reductionSlotCombine (x0 : Nat) (x1 : Nat) : Statement (.reductionSlotCombine x0 x1) := of_none rfl rfl
theorem dorentTimeout (x0 : Nat) : Statement (.dorentTimeout x0) := of_none rfl rfl
theorem djoinTimeout (x0 : Nat) : Statement (.djoinTimeout x0) := of_none rfl rfl
theorem dbarComplete (x0 : Nat) (x1 : Nat) : Statement (.dbarComplete x0 x1) := of_none rfl rfl
theorem closingBarrierDone (x0 : Nat) (x1 : Nat) : Statement (.closingBarrierDone x0 x1) := of_none rfl rfl
theorem closingBarrierTimeout (x0 : Nat) : Statement (.closingBarrierTimeout x0) := of_none rfl rfl
theorem colldCopyDone (x0 : Nat) : Statement (.colldCopyDone x0) := of_none rfl rfl
theorem dorentPark (x0 : Nat) : Statement (.dorentPark x0) := of_none rfl rfl
theorem agreeVoteArrive (x0 : Nat) : Statement (.agreeVoteArrive x0) := of_none rfl rfl
theorem agreeDeadline (x0 : Nat) : Statement (.agreeDeadline x0) := of_none rfl rfl
theorem agreeDecisionArrive (x0 : Nat) : Statement (.agreeDecisionArrive x0) := of_none rfl rfl
theorem agreeInstall (x0 : Nat) : Statement (.agreeInstall x0) := of_none rfl rfl
theorem agreeNoDecision (x0 : Nat) : Statement (.agreeNoDecision x0) := of_none rfl rfl
theorem catchUpRecord (x0 : Nat) (x1 : Nat) : Statement (.catchUpRecord x0 x1) := of_none rfl rfl
theorem linkReplay (x0 : Nat) : Statement (.linkReplay x0) := of_none rfl rfl
theorem uncorrectableError (x0 : ErrorSite) : Statement (.uncorrectableError x0) := of_none rfl rfl
theorem patrolScrub (x0 : Nat) : Statement (.patrolScrub x0) := of_none rfl rfl
theorem dieReset (x0 : Nat) : Statement (.dieReset x0) := of_none rfl rfl
theorem dieResetLogic (x0 : Nat) : Statement (.dieResetLogic x0) := of_none rfl rfl
theorem dieScrub (x0 : Nat) : Statement (.dieScrub x0) := of_none rfl rfl
theorem dieRejoin (x0 : Nat) : Statement (.dieRejoin x0) := of_none rfl rfl
theorem unitFence (x0 : PhysUnit) : Statement (.unitFence x0) := of_none rfl rfl
theorem fatalError (x0 : FatalReason) : Statement (.fatalError x0) := of_none rfl rfl
theorem moduleReset : Statement (.moduleReset) := of_none rfl rfl
theorem secureBoot (x0 : BootImage) : Statement (.secureBoot x0) := of_none rfl rfl
theorem leaCreate (x0 : LeaRequest) : Statement (.leaCreate x0) := of_none rfl rfl
theorem leaDestroy (x0 : Nat) : Statement (.leaDestroy x0) := of_none rfl rfl
theorem sliceScheduleSet (x0 : Nat) (x1 : List (Nat × Nat)) : Statement (.sliceScheduleSet x0 x1) := of_none rfl rfl
theorem dispatchTemplateInstall (x0 : Nat) (x1 : Nat) (x2 : Template) : Statement (.dispatchTemplateInstall x0 x1 x2) := of_none rfl rfl
theorem stage2Change (x0 : Nat) (x1 : Nat) (x2 : Word) : Statement (.stage2Change x0 x1 x2) := of_none rfl rfl
theorem keyAssign (x0 : Nat) (x1 : Nat) : Statement (.keyAssign x0 x1) := of_none rfl rfl
theorem frameRebind (x0 : Nat) (x1 : Option Nat) : Statement (.frameRebind x0 x1) := of_none rfl rfl
theorem wdlimSet (x0 : Nat) (x1 : Nat) : Statement (.wdlimSet x0 x1) := of_none rfl rfl
theorem groupCreate (x0 : Nat) (x1 : Nat) (x2 : List Nat) (x3 : List Nat) (x4 : Bool) : Statement (.groupCreate x0 x1 x2 x3 x4) := of_none rfl rfl
theorem spdmRequest (x0 : SpdmRequest) : Statement (.spdmRequest x0) := of_none rfl rfl
theorem ideKm (x0 : Nat) (x1 : IdeRequest) : Statement (.ideKm x0 x1) := of_none rfl rfl
theorem debugUnlock (x0 : Nat) (x1 : Nat) : Statement (.debugUnlock x0 x1) := of_none rfl rfl
theorem debugAccess (x0 : DebugOp) : Statement (.debugAccess x0) := of_none rfl rfl
theorem debugStop : Statement (.debugStop) := of_none rfl rfl
theorem debugResume : Statement (.debugResume) := of_none rfl rfl
theorem debugBrkcap (x0 : Bool) : Statement (.debugBrkcap x0) := of_none rfl rfl
theorem debugAddressMatchSet (x0 : Nat) (x1 : Word) (x2 : Bool) : Statement (.debugAddressMatchSet x0 x1 x2) := of_none rfl rfl
theorem addressMatchHalt : Statement (.addressMatchHalt) := of_none rfl rfl
theorem debugSessionEnd : Statement (.debugSessionEnd) := of_none rfl rfl
theorem decodeTrap (x0 : BitVec 8) (x1 : BitVec 64) (x2 : BitVec 2) : Statement (.decodeTrap x0 x1 x2) := of_none rfl rfl
theorem instructionFetch : Statement (.instructionFetch) := of_none rfl rfl
theorem dorentDecodeFault (x0 : BitVec 8) : Statement (.dorentDecodeFault x0) := of_none rfl rfl
theorem hostMemoryAccess (x0 : Nat) (x1 : Nat) (x2 : HostOp) : Statement (.hostMemoryAccess x0 x1 x2) := of_none rfl rfl
theorem queueDisable (x0 : Nat) (x1 : Nat) (x2 : Bool) : Statement (.queueDisable x0 x1 x2) := of_none rfl rfl
theorem leaMigration (x0 : Nat) (x1 : Nat) (x2 : Word) : Statement (.leaMigration x0 x1 x2) := of_none rfl rfl
theorem keyIdentifierRemove (x0 : Nat) (x1 : Nat) : Statement (.keyIdentifierRemove x0 x1) := of_none rfl rfl

end Sys2Proof.Laws.Codes
end

