-- ==== Sys2Proof/Tests/Slice0.lean ====
section
/-! SUPPORT. Tests: words from the spec's encodings, an ill-formed term for each check, small steps, and states that meet the
hypotheses of the statements. -/

set_option maxRecDepth 100000
set_option exponentiation.threshold 4096

namespace Sys2Proof.Tests
open Sys2Proof Sys2Proof.Machine

/-! ## Words of the table, each field at a value of its own -/

/-- ADD to SHL. -/
theorem test_words_01 : [(32, 0x001E9B83, (.add 15 9 23 : Instr)),
    (32, 0x007B3A83, .sub 29 19 21),
    (32, 0x00BF5583, .mul 31 21 11),
    (32, 0x00F2D583, .mulh 25 13 11),
    (32, 0x010E7583, .mulhu 7 7 11),
    (32, 0x59763183, .div 11 27 3 3),
    (32, 0x599FBE83, .divu 11 15 27 29),
    (32, 0x69F35183, .rem 13 25 21 3),
    (32, 0x6A2E1983, .remu 13 23 1 19),
    (32, 0x025F9F83, .and 15 25 31),
    (32, 0x029B7883, .or 13 23 17),
    (32, 0x02DE5583, .xor 15 5 11),
    (32, 0x0326F483, .andn 19 15 9),
    (32, 0x0342D083, .orn 1 13 1),
    (32, 0x03A77383, .shl 19 23 7)].all (fun p =>
    decodeTableWord p.1 p.2.1 == some p.2.2) = true := by decide

/-- SHR to CTZ. -/
theorem test_words_02 : [(32, 0x03C65083, (.shr 3 5 1 : Instr)),
    (32, 0x04331283, .sra 25 17 5),
    (32, 0x044B5383, .ror 5 21 7),
    (32, 0x04A35D83, .min 17 21 27),
    (32, 0x04EB3B83, .max 21 19 23),
    (32, 0x051B3683, .minu 13 19 13),
    (32, 0x056BD883, .maxu 21 29 17),
    (32, 0x05B31A83, .cmpeq 25 17 21),
    (32, 0x05DE9283, .cmplt 15 9 5),
    (32, 0x061A7783, .cmpltu 13 7 15),
    (32, 0x2E5A1C83, .sel 5 13 1 25),
    (32, 0x069E7483, .extr 15 7 9),
    (32, 0x06D63083, .insb 11 3 1),
    (32, 0x07013883, .clz 19 17),
    (32, 0x07027083, .ctz 7 1)].all (fun p =>
    decodeTableWord p.1 p.2.1 == some p.2.2) = true := by decide

/-- POPC to LDL. -/
theorem test_words_03 : [(32, 0x07049183, (.popc 9 3 : Instr)),
    (32, 0x0707B083, .brev 27 1),
    (32, 0x07083883, .bswap 3 17),
    (32, 0x7530BF87, .addi 1875 11 31),
    (32, 0xA3A2DF87, .movi 83789 31),
    (32, 0x00B53787, .shli 11 19 15),
    (32, 0x00D7B587, .shri 13 27 11),
    (32, 0x0299D987, .srai 41 29 19),
    (32, 0xAF9BBC87, .cmpi 5 249 27 25),
    (32, 0x2920DE8B, .lih 21069 29),
    (32, 0x2BD2F18B, .lea 1 189 15 3),
    (32, 0xBB34FC8B, .mapr 5 435 15 25),
    (32, 0x1FF77D8B, .addpc 16375 27),
    (32, 0x0008F18B, .sgrd 1 7 3),
    (32, 0x4C53799B, .ldl 1335 1 19)].all (fun p =>
    decodeTableWord p.1 p.2.1 == some p.2.2) = true := by decide

/-- BEQ to CALL. -/
theorem test_words_04 : [(32, 0xFAD1B8AF, (.beq 4013 27 17 : Instr)),
    (32, 0xE992D7AF, .bne 3737 13 15),
    (32, 0x01957DAF, .blt 25 23 27),
    (32, 0xAF7614AF, .bge 2807 1 9),
    (32, 0xFF58F5AF, .bltu 4085 15 11),
    (32, 0xFD1A96AF, .bgeu 4049 9 13),
    (32, 0xD73C00AF, .bz 3443 1),
    (32, 0xE1FE0CAF, .bnz 3615 25),
    (32, 0x54415033, .br 345109),
    (32, 0x002EF0B3, .callr 23 15),
    (32, 0x00000133, .ret),
    (32, 0x002601B3, .jmp 19),
    (32, 0xDD760233, .loop 885 27),
    (32, 0x000002B3, .nop),
    (32, 0xE68B1AB3, .call 944305 21)].all (fun p =>
    decodeTableWord p.1 p.2.1 == some p.2.2) = true := by decide

/-- LDD_16 to HRET. -/
theorem test_words_05 : [(16, 0x3DBC, (.ldd16 none 1 13 5 7 : Instr)),
    (16, 0x572C, .std16 none 1 7 1 3),
    (16, 0x6DA8, .addiMove16 13 21),
    (16, 0x1735, .addi16 23 13),
    (16, 0x35D5, .movi16 21 53),
    (16, 0x4FDD, .shli16 15 55),
    (16, 0x79CD, .shri16 25 51),
    (16, 0x8125, .add16 1 9),
    (16, 0xA775, .sub16 7 29),
    (16, 0xC73D, .and16 7 15),
    (16, 0xE745, .or16 7 17),
    (16, 0x3506, .bz16 21 1),
    (16, 0x5926, .bnz16 25 9),
    (16, 0x7C56, .br16 1813),
    (16, 0x8002, .hret)].all (fun p =>
    decodeTableWord p.1 p.2.1 == some p.2.2) = true := by decide

/-- RET_16 to FCMPEQ. -/
theorem test_words_06 : [(16, 0xA002, (.ret16 : Instr)),
    (16, 0xC002, .nop16),
    (32, 0x701A348F, .fadd 0 7 13 3 9),
    (32, 0xD063D88F, .fsub 1 5 17 29 17),
    (32, 0xD092B88F, .fmul 1 5 9 11 17),
    (32, 0x70D0E20F, .fma 0 7 8 14 4),
    (32, 0xD103D18F, .fms 1 5 1 29 3),
    (32, 0x416EF90F, .fnma 0 4 23 15 18),
    (32, 0xB996358F, .fdiv 1 7 11 3 11),
    (32, 0xB9C0FF8F, .fsqrt 1 7 15 31),
    (32, 0xF2007F8F, .frsqe 1 7 7 31),
    (32, 0x6240098F, .frcpe 0 6 0 19),
    (32, 0x8283918F, .fmin 1 1 25 3),
    (32, 0x82D2148F, .fmax 1 9 1 9),
    (32, 0x8317988F, .fcmpeq 1 11 25 17)].all (fun p =>
    decodeTableWord p.1 p.2.1 == some p.2.2) = true := by decide

/-- FCMPLT to STH. -/
theorem test_words_07 : [(32, 0x836B928F, (.fcmplt 1 21 25 5 : Instr)),
    (32, 0x83BF3E8F, .fcmple 1 31 19 29),
    (32, 0x83C09A8F, .fclass 1 9 21),
    (32, 0x0427E28F, .fcvt 0 0 1 3 30 5),
    (32, 0xD446968F, .fcvti 1 5 3 9 13),
    (32, 0xF481E08F, .icvtf 1 7 0 30 1),
    (32, 0x84C15F8F, .fabs 1 21 31),
    (32, 0x8500BA8F, .fneg 1 11 21),
    (32, 0x857F328F, .fsgnj 1 31 19 5),
    (32, 0x2D429393, .ldb none 11 5 1 9 7),
    (32, 0x755EB793, .ldh none 29 5 7 11 15),
    (32, 0x7F671393, .ldw none 31 13 3 17 7),
    (32, 0x4C735693, .ldd none 19 1 1 21 13),
    (32, 0x940FDF97, .stb none 37 7 29 31),
    (32, 0x241F1B97, .sth none 9 7 17 23)].all (fun p =>
    decodeTableWord p.1 p.2.1 == some p.2.2) = true := by decide

/-- STW to LDB_IDX. -/
theorem test_words_08 : [(32, 0x7C2AB497, (.stw none 31 5 11 9 : Instr)),
    (32, 0xAC3FFF97, .std none 43 7 31 31),
    (32, 0x02F2F89B, .ldAcq 11 3 1 15 17),
    (32, 0x05DE759B, .lduAcq 7 1 7 7 11),
    (32, 0x0833D49B, .stRel 3 1 29 9),
    (32, 0x104F369B, .ldbu none 1 7 19 13),
    (32, 0x11565D9B, .ldhu none 5 3 5 27),
    (32, 0x126ABF9B, .ldwu none 9 5 11 31),
    (32, 0x1A7F5C9B, .lde 9 7 21 25),
    (32, 0x22FA799B, .ldf 11 5 7 19),
    (32, 0x2836169B, .stf 3 1 13),
    (32, 0x303ED69B, .stff 7 13 13),
    (32, 0x39F39E9B, .feq 7 1 25 29),
    (32, 0x4033101B, .feclr 1 17),
    (32, 0xB88E3D9B, .ldbIdx none 7 1 7 3 27)].all (fun p =>
    decodeTableWord p.1 p.2.1 == some p.2.2) = true := by decide

/-- LDBU_IDX to AMOMIN. -/
theorem test_words_09 : [(32, 0xCE93BD9B, (.ldbuIdx none 9 13 1 27 27 : Instr)),
    (32, 0xDBA7739B, .ldhIdx none 11 7 3 23 7),
    (32, 0x9DBF789B, .ldhuIdx none 3 11 7 23 17),
    (32, 0xA8C33C9B, .ldwIdx none 5 1 1 19 25),
    (32, 0xECDFF69B, .ldwuIdx none 13 9 7 31 13),
    (32, 0xDFE2D49B, .lddIdx none 11 15 1 13 9),
    (32, 0x987A3A9B, .stbIdx none 3 5 3 21),
    (32, 0xF8F3789B, .sthIdx none 15 1 23 17),
    (32, 0xC97ED19B, .stwIdx none 9 7 13 3),
    (32, 0xB9F6319B, .stdIdx none 7 3 3 3),
    (32, 0x07DA159F, .amoadd none 7 13 5 1 11),
    (32, 0x175AB09F, .amoand none 7 5 5 11 1),
    (32, 0x2BFEFD9F, .amoor none 11 15 7 15 27),
    (32, 0x399BD09F, .amoxor none 9 9 5 29 1),
    (32, 0x45B6B59F, .amomin none 5 11 3 11 11)].all (fun p =>
    decodeTableWord p.1 p.2.1 == some p.2.2) = true := by decide

/-- AMOMAX to NAMO. -/
theorem test_words_10 : [(32, 0x511EBE9F, (.amomax none 1 1 7 11 29 : Instr)),
    (32, 0x6752339F, .amoswp none 7 5 1 3 7),
    (32, 0x7137939F, .amocas none 1 3 3 25 7),
    (32, 0x85F7F59F, .amofaddS none 5 15 3 31 11),
    (32, 0x9736719F, .amofaddD none 7 3 3 7 3),
    (32, 0x71DE17A3, .get 7 1 13 7 1 15),
    (32, 0xF3D638A3, .put 15 1 13 3 3 17),
    (32, 0xB43F37A3, .ramo 11 3 7 19 15),
    (32, 0x57F2D3A3, .rsem 5 63 13 7),
    (32, 0x00F79DA7, .nadd 15 3 25 27),
    (32, 0x02161FA7, .nmax 1 3 1 31),
    (32, 0x045732A7, .nred 5 3 19 5),
    (32, 0x06BEFDA7, .naxpy 11 7 15 27),
    (32, 0x08BEBDA7, .nfill 11 7 11 27),
    (32, 0xDBBBD7A7, .namo 13 27 5 29 15)].all (fun p =>
    decodeTableWord p.1 p.2.1 == some p.2.2) = true := by decide

/-- FENCE to VOR. -/
theorem test_words_11 : [(32, 0x0004402B, (.fence 2 4 : Instr)),
    (32, 0x0040102B, .fenceb 1),
    (32, 0x2C0FBEC7, .vld none 11 1 7 23 13),
    (32, 0x5EEB4AC7, .vlds none 7 11 5 3 9 5),
    (32, 0xA6DD3BC7, .vgath none 9 11 3 5 7 7),
    (32, 0xC03B9AC7, .vst none 7 3 19 5),
    (32, 0xC47FBDC7, .vsts none 1 7 7 23 11),
    (32, 0xC8E94AC7, .vscat none 3 5 1 9 5),
    (32, 0xF81FAFB7, .viadd 1 15 3 15 5 15),
    (32, 0xE85FCAB7, .visub 1 13 3 15 9 5),
    (32, 0xE8BD8FB7, .vimul 1 13 7 11 1 15),
    (32, 0xB8CDEEB7, .vimin 1 7 1 11 13 13),
    (32, 0xD929DCB7, .vimax 1 11 5 3 11 9),
    (32, 0x994DEDB7, .vand 1 3 1 11 13 11),
    (32, 0xC999CFB7, .vor 1 9 3 3 9 15)].all (fun p =>
    decodeTableWord p.1 p.2.1 == some p.2.2) = true := by decide

/-- VXOR to VABS. -/
theorem test_words_12 : [(32, 0xA9EFF9B7, (.vxor 1 5 5 15 15 3 : Instr)),
    (32, 0x8A2BECB7, .vshl 1 1 5 7 13 9),
    (32, 0xCA49A9B7, .vshr 1 9 1 3 5 3),
    (32, 0x8A99FEB7, .vsra 1 1 3 3 15 13),
    (32, 0x1ACFDEB7, .vcmpeq 1 3 1 15 11 5),
    (32, 0x1B1F9FB7, .vcmplt 1 3 3 15 3 7),
    (32, 0x4B4ECEB7, .vcmple 1 9 1 13 9 5),
    (32, 0x880EC9BB, .vadd 1 1 1 13 9 3),
    (32, 0x885DCABB, .vsub 1 1 3 11 9 5),
    (32, 0xD88E9ABB, .vmul 1 11 1 13 3 5),
    (32, 0xE8EC8DBB, .vfma 1 13 5 9 1 11),
    (32, 0x991CAEBB, .vfms 1 3 3 9 5 13),
    (32, 0x894BEDBB, .vmin 1 1 1 7 13 11),
    (32, 0xA9BFBCBB, .vmax 1 5 7 15 7 9),
    (32, 0xE9D87CBB, .vabs 1 13 3 15 9)].all (fun p =>
    decodeTableWord p.1 p.2.1 == some p.2.2) = true := by decide

/-- VNEG to VEXTR. -/
theorem test_words_13 : [(32, 0xAA381EBB, (.vneg 1 5 7 3 13 : Instr)),
    (32, 0xEA782FBB, .vrsqe 1 13 7 5 15),
    (32, 0xCAB818BB, .vrcpe 1 9 7 3 1),
    (32, 0xAAC81FBB, .vexp2e 1 5 1 3 15),
    (32, 0xFB182ABB, .vlog2e 1 15 3 5 5),
    (32, 0x88334DBF, .vcvt 22 1 6 9 11),
    (32, 0x885AEDBF, .vquant 1 1 3 1 1 13 11),
    (32, 0xD09858BF, .vdeq 1 10 3 0 11 1),
    (32, 0x580099C3, .mand 11 1 3 3),
    (32, 0x484289C3, .mor 9 5 1 3),
    (32, 0x688028C3, .mnot 13 5 1),
    (32, 0x88C1D843, .mpop 27 1 3),
    (32, 0x79018C43, .vmov 15 0 3 1 8),
    (32, 0x797898C3, .vbcast 3 15 7 1 1),
    (32, 0xA1A3ABC3, .vextr 21 4 71 7)].all (fun p =>
    decodeTableWord p.1 p.2.1 == some p.2.2) = true := by decide

/-- VINS to MSAVE. -/
theorem test_words_14 : [(32, 0x19C7E8C3, (.vins 13 3 1 15 : Instr)),
    (32, 0xEA18BDC3, .vperm 1 13 3 1 7 11),
    (32, 0x7A47DFC3, .vslide 11 15 15 15),
    (32, 0xEAA8ACC3, .vsel 1 13 5 1 5 9),
    (32, 0xF2FCB8C3, .vredsum 23 14 7 9 1),
    (32, 0xAB205943, .vredmax 27 5 4 0 2),
    (32, 0x3B4BD8C3, .vredmin 11 7 1 7 1),
    (32, 0x3002E0CB, .mcfg 3 23 1),
    (32, 0x7115A0CB, .mload 7 5 13 1),
    (32, 0xF200004B, .mswap 15),
    (32, 0x53E1E2CB, .mstep 5 7 15 1 1),
    (32, 0xB40001CB, .mzero 11 3),
    (32, 0x1592D04B, .mdrain 1 4 4 22 8 0),
    (32, 0xD602A04B, .mflags 13 21),
    (32, 0xF715A1CB, .msave 15 5 13 3)].all (fun p =>
    decodeTableWord p.1 p.2.1 == some p.2.2) = true := by decide

/-- MREST to BARWT. -/
theorem test_words_15 : [(32, 0xF807A0CB, (.mrest 15 1 29 1 : Instr)),
    (32, 0x88031FCF, .tcopy 63 1 1 17),
    (32, 0x086796CF, .tgath 13 1 19 25),
    (32, 0x08B312CF, .tscat 5 1 25 17),
    (32, 0x88D759CF, .tfill 51 1 11 21),
    (32, 0x0100004F, .ego),
    (32, 0x014001CF, .estat 3),
    (32, 0x0180004F, .ecan),
    (32, 0x801E7053, .semadd 47 7),
    (32, 0x805A1053, .semset 45 1),
    (32, 0x808600D3, .semrd 35 1),
    (32, 0x80C79053, .semwait 35 25),
    (32, 0x00060057, .bar 3),
    (32, 0x004609D7, .barar 3 19),
    (32, 0x00861057, .barwt 3 1)].all (fun p =>
    decodeTableWord p.1 p.2.1 == some p.2.2) = true := by decide

/-- GRED to YIELD. -/
theorem test_words_16 : [(32, 0x08C050D7, (.gred 1 5 1 : Instr)),
    (32, 0x001BF7DB, .send 13 31 15),
    (32, 0x005E895B, .sendam 15 8 18),
    (32, 0xB84A7CDB, .sendamR 7 5 7 25),
    (32, 0x008004DB, .mbxst 9),
    (32, 0x808009DB, .mbxstClr 19),
    (32, 0x00C20DDB, .waitfAll 1 27),
    (32, 0x80C608DB, .waitfAny 3 17),
    (32, 0x010003DB, .backoff 7),
    (32, 0x383F74DF, .tqpush 7 31 23 9),
    (32, 0x0040DFDF, .tqdone 13 31),
    (32, 0x80411ADF, .tqdoneT 17 21),
    (32, 0x0080005F, .succok),
    (32, 0x00C0005F, .waitpred),
    (32, 0x0100005F, .yield)].all (fun p =>
    decodeTableWord p.1 p.2.1 == some p.2.2) = true := by decide

/-- EXIT to CWR_GTOFF. -/
theorem test_words_17 : [(32, 0x0140005F, (.exit : Instr)),
    (32, 0x502FF063, .colld 5 23 31),
    (32, 0x5041D063, .colrun 5 29),
    (32, 0x008007E3, .colwt 15),
    (32, 0x00C00CE3, .colst 25),
    (32, 0x80C006E3, .colstAbort 13),
    (32, 0xECF001E7, .crd 3791 3),
    (32, 0x000002E7, .crdStat 5),
    (32, 0x03000FE7, .crdTime 31),
    (32, 0x57531067, .cwr 1397 17),
    (32, 0x00023067, .cwrStat 3),
    (32, 0x00431067, .cwrTdp 17),
    (32, 0x0052B067, .cwrWp 11),
    (32, 0x0063B067, .cwrVp 27),
    (32, 0x03129067, .cwrGtoff 9)].all (fun p =>
    decodeTableWord p.1 p.2.1 == some p.2.2) = true := by decide

/-- CWR_ROT to ROTSET. -/
theorem test_words_18 : [(32, 0x06023067, (.cwrRot 3 : Instr)),
    (32, 0x0008D06B, .trap 141),
    (32, 0x0070306B, .brk 771),
    (32, 0x0080006B, .halt),
    (32, 0x00C0706B, .wfm 7),
    (32, 0x0037D06F, .eret 27 29),
    (32, 0x0040B06F, .resume 11),
    (32, 0x0080FFEF, .preempt 15 31),
    (32, 0x00F7106F, .ctxld 27 17),
    (32, 0x0127306F, .tlbinv 19 19),
    (32, 0x017691EF, .segld 27 9 3),
    (32, 0x0181906F, .rotset 25)].all (fun p =>
    decodeTableWord p.1 p.2.1 == some p.2.2) = true := by decide

/-- The Dorent instructions, by the fields of R282. -/
theorem test_words_dorent : [(0x0BB3C00012345678, (.dsend 3 5 9 1 6 0x12345678 : Instr)),
    (0x1454200089ABCDEF, .drecv 4 2 10 0 1 0x89ABCDEF),
    (0x19D75A0000000040, .dcopy 1 6 11 1 2 13 0x40),
    (0x2279A80000000080, .dred 2 3 12 1 5 2 0x80),
    (0x2FAAD23400000009, .dwait 7 0x155 1 0x1234 9),
    (0x36600000DEADBEEF, .dsig 6 3 0xDEADBEEF),
    (0x3510000000000007, .dsigLoc 5 7),
    (0x393AB00000000000, .dloop 9 0x1AB),
    (0x3A0F300000000000, .dloopJmp 0x0F3),
    (0x3CD0100000000000, .dloopBz 6 0x101),
    (0x3EA0200000000000, .dloopBnz 5 2),
    (0x40300000FFFFFFFE, .dnextAdd 3 0xFFFFFFFE),
    (0x414E000000000005, .dnextMod 4 14 5),
    (0x42F000007FFFFFFF, .dnextSet 15 0x7FFFFFFF),
    (0x4312000000000003, .dnextMov 1 2 3),
    (0x4487000000000006, .dnextMul 8 7 6),
    (0x45A000000000000B, .dnextRnk 10 11),
    (0x4AA400000FF00000, .djoinSend 5 9 4080),
    (0x4978000000010000, .djoinRecv 2 14 1),
    (0x4E6E500001230000, .djoinTree 2 13 12 0xA 0x123),
    (0x51A0000000000000, .dverRd 13),
    (0x5395780000000000, .dverAgree 12 0xABC),
    (0x58E3EAAA00000000, .dbar 0x1C7 1 0x2AAA),
    (0x6550000000000000, .dhalt 0x55)].all (fun p =>
    decodeTableWord 64 p.1 == some p.2) = true := by decide

/-- A prefix (R66, R244): scope 3 before LDD w4. -/
theorem test_words_prefix : decode true [0x000E#16, 0x3213#16, 0x04B2#16] = .ok (.ldd (some 3) 1 2 1 3 4) 3 := by decide

/-- R48, R66, R282: the causes of a failed decode. -/
theorem test_decode_fails :
    decode true [0x0000#16] = .bad 0x00 0 1
    ∧ decode false [0x006F#16, 0x0000#16] = .bad 0x04 0x6F 2
    ∧ decode true [0x0073#16, 0x0000#16] = .bad 0x01 0x73 2
    ∧ decode true [0x000E#16, 0x000E#16] = .bad 0x03 0x000E000E 2
    ∧ decode true [0x0003#16] = .more
    ∧ decodeDorent 0 = .bad 0x01
    ∧ decodeDorent 0x6000000000000001 = .bad 0x02 := by decide

/-! ## Well-formedness: an ill-formed term for each check -/

theorem test_wf_scalar :
    (Instr.cmpi 6 0 0 0).wellFormed = false ∧ (Instr.cmpi 5 0 0 0).wellFormed = true ∧ (Instr.sgrd 3 0 0).wellFormed = false
    ∧ (Instr.callr 0 7).wellFormed = false ∧ (Instr.callr 0 8).wellFormed = true ∧ (Instr.call 0 25).wellFormed = false
    ∧ (Instr.call 0 24).wellFormed = true := by decide

/-- Rounding codes 1 to 3 are reserved, in every instruction that has one. -/
theorem test_wf_rounding :
    (Instr.fadd 0 1 0 0 0).wellFormed = false ∧ (Instr.fsub 0 2 0 0 0).wellFormed = false ∧ (Instr.fmul 0 3 0 0 0).wellFormed = false
    ∧ (Instr.fma 0 1 0 0 0).wellFormed = false ∧ (Instr.fms 0 1 0 0 0).wellFormed = false ∧ (Instr.fnma 0 1 0 0 0).wellFormed = false
    ∧ (Instr.frsqe 0 1 0 0).wellFormed = false ∧ (Instr.frcpe 0 1 0 0).wellFormed = false ∧ (Instr.fcvt 0 1 0 0 0 0).wellFormed = false
    ∧ (Instr.fcvt 0 0 0 7 0 0).wellFormed = false ∧ (Instr.fcvt 0 0 1 6 0 0).wellFormed = false
    ∧ (Instr.fcvti 0 1 0 0 0).wellFormed = false ∧ (Instr.fcvti 0 0 4 0 0).wellFormed = false
    ∧ (Instr.icvtf 0 1 0 0 0).wellFormed = false ∧ (Instr.icvtf 0 0 4 0 0).wellFormed = false
    ∧ (Instr.fadd 0 4 0 0 0).wellFormed = true := by decide

/-- A prefix of bank scope or of a reserved scope. -/
theorem test_wf_prefix :
    (Instr.ldd16 (some 5) 0 0 0 0).wellFormed = false ∧ (Instr.std16 (some 5) 0 0 0 0).wellFormed = false
    ∧ (Instr.ldb (some 5) 0 0 0 0 0).wellFormed = false ∧ (Instr.ldh (some 5) 0 0 0 0 0).wellFormed = false
    ∧ (Instr.ldw (some 5) 0 0 0 0 0).wellFormed = false ∧ (Instr.ldd (some 5) 0 0 0 0 0).wellFormed = false
    ∧ (Instr.stb (some 5) 0 0 0 0).wellFormed = false ∧ (Instr.sth (some 5) 0 0 0 0).wellFormed = false
    ∧ (Instr.stw (some 5) 0 0 0 0).wellFormed = false ∧ (Instr.std (some 7) 0 0 0 0).wellFormed = false
    ∧ (Instr.ldbu (some 5) 0 0 0 0).wellFormed = false ∧ (Instr.ldhu (some 5) 0 0 0 0).wellFormed = false
    ∧ (Instr.ldwu (some 5) 0 0 0 0).wellFormed = false ∧ (Instr.ldd (some 4) 0 0 0 0 0).wellFormed = true := by decide

theorem test_wf_prefix_indexed :
    (Instr.ldbIdx (some 5) 0 0 0 0 0).wellFormed = false ∧ (Instr.ldbuIdx (some 5) 0 0 0 0 0).wellFormed = false
    ∧ (Instr.ldhIdx (some 5) 0 0 0 0 0).wellFormed = false ∧ (Instr.ldhuIdx (some 5) 0 0 0 0 0).wellFormed = false
    ∧ (Instr.ldwIdx (some 5) 0 0 0 0 0).wellFormed = false ∧ (Instr.ldwuIdx (some 5) 0 0 0 0 0).wellFormed = false
    ∧ (Instr.lddIdx (some 5) 0 0 0 0 0).wellFormed = false ∧ (Instr.stbIdx (some 5) 0 0 0 0).wellFormed = false
    ∧ (Instr.sthIdx (some 5) 0 0 0 0).wellFormed = false ∧ (Instr.stwIdx (some 5) 0 0 0 0).wellFormed = false
    ∧ (Instr.stdIdx (some 5) 0 0 0 0).wellFormed = false ∧ (Instr.vld (some 5) 0 0 0 0 0).wellFormed = false
    ∧ (Instr.vlds (some 5) 0 0 0 0 0 0).wellFormed = false ∧ (Instr.vgath (some 5) 0 0 0 0 0 0).wellFormed = false
    ∧ (Instr.vst (some 5) 0 0 0 0).wellFormed = false ∧ (Instr.vsts (some 5) 0 0 0 0 0).wellFormed = false
    ∧ (Instr.vscat (some 5) 0 0 0 0 0).wellFormed = false := by decide

theorem test_wf_prefix_atomic :
    (Instr.amoadd (some 5) 0 0 0 0 0).wellFormed = false ∧ (Instr.amoand (some 5) 0 0 0 0 0).wellFormed = false
    ∧ (Instr.amoor (some 5) 0 0 0 0 0).wellFormed = false ∧ (Instr.amoxor (some 5) 0 0 0 0 0).wellFormed = false
    ∧ (Instr.amomin (some 5) 0 0 0 0 0).wellFormed = false ∧ (Instr.amomax (some 5) 0 0 0 0 0).wellFormed = false
    ∧ (Instr.amoswp (some 5) 0 0 0 0 0).wellFormed = false ∧ (Instr.amocas (some 5) 0 0 0 0 0).wellFormed = false
    ∧ (Instr.amofaddS (some 5) 0 0 0 0 0).wellFormed = false ∧ (Instr.amofaddD (some 5) 0 0 0 0 0).wellFormed = false := by decide

theorem test_wf_memory :
    (Instr.lduAcq 0 3 0 0 0).wellFormed = false ∧ (Instr.get 0 0 1 0 0 0).wellFormed = false ∧ (Instr.put 0 0 1 0 0 0).wellFormed = false
    ∧ (Instr.ramo 0 7 0 0 0).wellFormed = false ∧ (Instr.ramo 0 10 0 0 0).wellFormed = false ∧ (Instr.fence 0 0).wellFormed = false
    ∧ (Instr.fence 1 5).wellFormed = false ∧ (Instr.fenceb 6).wellFormed = false ∧ (Instr.fenceb 5).wellFormed = true
    ∧ (Instr.tcopy 1 0 0 0).wellFormed = false ∧ (Instr.tgath 1 0 0 0).wellFormed = false ∧ (Instr.tscat 1 0 0 0).wellFormed = false
    ∧ (Instr.tfill 1 0 0 0).wellFormed = false ∧ (Instr.tcopy 1 1 0 0).wellFormed = true := by decide

theorem test_wf_vector :
    (Instr.vcvt 0x1B 0 0 0 0).wellFormed = false ∧ (Instr.vcvt 0x1A 0 0 0 0).wellFormed = true ∧ (Instr.vdeq 1 0 0 1 0 0).wellFormed = false
    ∧ (Instr.vmov 0 1 3 0 0).wellFormed = false ∧ (Instr.vbcast 0 0 1 3 0).wellFormed = false ∧ (Instr.vextr 0 0 0x60 0).wellFormed = false
    ∧ (Instr.vins 0 0 0x60 0).wellFormed = false ∧ (Instr.vsel 0 0 0 0 0 0).wellFormed = false ∧ (Instr.vredsum 0 0 0 0 3).wellFormed = false
    ∧ (Instr.vredmax 0 0 0 0 3).wellFormed = false ∧ (Instr.vredmin 0 0 0 0 3).wellFormed = false
    ∧ (Instr.mdrain 0 1 0 0 0 0).wellFormed = false ∧ (Instr.mdrain 0 0 5 0 0 0).wellFormed = false := by decide

theorem test_wf_system :
    (Instr.gred 12 0 0).wellFormed = false ∧ (Instr.sendam 29 0 0).wellFormed = false ∧ (Instr.sendamR 0 29 0 0).wellFormed = false
    ∧ (Instr.crd 0 0).wellFormed = false ∧ (Instr.crd 0x030 0).wellFormed = false ∧ (Instr.cwr 0 0).wellFormed = false
    ∧ (Instr.cwr 4 0).wellFormed = false ∧ (Instr.cwr 5 0).wellFormed = false ∧ (Instr.cwr 6 0).wellFormed = false
    ∧ (Instr.cwr 0x031 0).wellFormed = false ∧ (Instr.cwr 0x060 0).wellFormed = false := by decide

theorem test_wf_dorent :
    (Instr.djoinSend 0 0 4081).wellFormed = false ∧ (Instr.djoinRecv 0 0 4081).wellFormed = false
    ∧ (Instr.djoinTree 0 0 0 0 4081).wellFormed = false ∧ (Instr.djoinTree 0 0 13 0 0).wellFormed = false
    ∧ (Instr.djoinTree 0 0 12 0 4080).wellFormed = true ∧ (Instr.dred 0 0 0 0 0 3 0).wellFormed = false
    ∧ (Instr.dverRd 14).wellFormed = false ∧ (Instr.dverAgree 13 1).wellFormed = false ∧ (Instr.dverAgree 0 0).wellFormed = false := by decide

/-! ## A small state: core 0 of a lea of one core, with a thread in slot 0 -/

/-- A segment of a kind. -/
def seg (attr : BitVec 16) (base limit : Nat) : Seg := ⟨BitVec.ofNat 48 base, BitVec.ofNat 49 limit, attr⟩

/-- The bytes of some registers of the thread, as a list of cells in rising order. -/
def regCells (l : List (Nat × Nat)) : Cells :=
  l.flatMap (fun p => (List.range 8).filterMap (fun i =>
    let b : Byte := BitVec.ofNat 8 (p.2 / 256 ^ i)
    if b = 0 then none else some (lsOrigin + 0x1200 + 8 * p.1 + i, b)))

/-- The thread: Ready at supervisor level, with the work segment over the whole slot slice and one segment of each other
space that a thread reaches. -/
def thread : Slot :=
  { Slot.reset with
    run := .ready, lea := some 0, tid := 1
    desc := { Desc.reset with
      pc := 0x40, stat := 0x208, wp := 0x1200
      segs := [seg 0x131 0 0x8000, seg 0x132 0 0x40000, seg 0x1B3 0 0x60000, seg 0x0B4 0 0x100000, seg 0x1035 0 0x100000,
        seg 0x36 0 0x600, seg 0 0 0, seg 0x57 0 0x10000] } }

/-- A lea of core 0, with one bank of commons. -/
def lea0 : Lea :=
  { num := 0, leab := 0, cores := [0], banks := [(0, [0])], ways := [], svc := [], bulk := 0, keys := [1], areas := [], clock := 40,
    digest := 7, s2base := 0, s2len := 8, s2 := [], s2bad := [], s1root := [], gtoff := 0, gtoffNext := none, paused := 0,
    isPaused := false, lastGuest := 0, wdlim := 0, xp := 0, perPair := 1, queues := [], tokens := [], templates := [],
    msg := none, log := [], recs := [], dump := none, wrote := 0 }

/-- The state, with some registers of the thread. -/
def st (l : List (Nat × Nat)) : State :=
  { State.reset with
    mem := ⟨regCells l, [], [], [], [], []⟩
    leas := [(0, lea0)]
    head := { State.reset.head with power := .running }
    cycles := List.replicate 16 1000
    cores := [(0, { Core.reset with lea := some 0, slots := thread :: List.replicate 15 Slot.reset })] }

/-! ## Witnesses: states and operands that meet the hypotheses of the statements -/

/-- Registers w1 = 5 and w2 = 7. -/
def d0 : State := st [(1, 5), (2, 7)]

theorem witness_IntegerTwoRegisterResults : d0.Reads [1, 2] [3] ∧ d0.Reads [1, 1] [1] := by decide

theorem witness_BitAndFieldResults : d0.Reads [1] [3] ∧ d0.Reads [1, 2] [3] ∧ d0.Reads [1, 2, 3] [3] := by decide

theorem witness_ImmediateForms : d0.Reads [1] [3] ∧ d0.Reads [] [3] ∧ d0.Reads [3] [3] ∧ d0.Reads [3, 1] [3] := by decide

/-- LEA at 0 and at LIMIT, through a segment with no space, and beyond LIMIT; MAPR at the last row. -/
theorem witness_AddressForms :
    let s := st [(1, 0), (2, 0x40000), (4, 0x3FFC0)]
    s.Reads [1] [3] ∧ s.Reads [2] [3] ∧ s.Reads [4] [3] ∧ s.Reads [] [3]
    ∧ (s.w 1).bad = false ∧ (s.w 2).bad = false ∧ (s.w 4).bad = false
    ∧ (s.seg 1).space ≠ 0 ∧ ((s.w 1).val.toNat : Int) + (0#9).toInt = 0
    ∧ ((s.w 2).val.toNat : Int) + (0#9).toInt = (s.seg 1).limit.toNat ∧ (s.seg 6).space = 0
    ∧ ((s.seg 1).limit.toNat : Int) < ((s.w 2).val.toNat : Int) + (1#9).toInt
    ∧ ((s.w 1).val.toNat : Int) + (0x1FF#9).toInt < 0
    ∧ (s.seg 1).space = 2 ∧ (s.seg 1).has .r = true
    ∧ ((s.w 4).val.toNat : Int) + 64 * (0#9).toInt + 64 = (s.seg 1).limit.toNat ∧ (0x3FFC0 : Int) % 64 = 0 := by decide

/-- A line of code in the instruction cache of core 0, for lea 0. -/
def withCode (s : State) (bytes : List Byte) : State :=
  s.modCore 0 (fun c => { c with icache := [⟨0, 1, bytes ++ List.replicate (64 - bytes.length) 0, [], 0, 0⟩] })

/-- LDL of the literal after the instruction at 0x40. -/
theorem witness_Literal :
    let s := withCode d0 [1, 2, 3, 4, 5, 6, 7, 8, 9]
    s.Reads [] [3] ∧ ((s.pc &&& ~~~7#64) + 8 * (0#11).signExtend 64).toNat = 0x40
    ∧ segFail (s.seg 7) (s.extent (s.seg 7).space) 0x40 8 [.x] [7] = none
    ∧ s.codeRead ((s.seg 7).base.toNat + 0x40) 8 = .ok (0x0807060504030201, false) := by decide

theorem witness_LongLatencyIssue :
    let s := st [(1, 5), (2, 0)]
    d0.Reads [1, 2] [3] ∧ (d0.w 1).bad = false ∧ (d0.w 2).bad = false ∧ (d0.w 2).val ≠ 0
    ∧ s.Reads [1, 2] [3] ∧ (s.w 2).val = 0 ∧ d0.Reads [1] [3] := by decide

theorem witness_BranchesAndCalls :
    let s := st [(1, 6), (2, 7), (23, 0x44), (22, 0x1100)]
    s.Reads [1, 2] [] ∧ s.Reads [1] [] ∧ s.Reads [1] [1] ∧ (s.w 1).bad = false ∧ (s.w 2).bad = false
    ∧ (s.w 1).val.getLsbD 0 = false ∧ (s.w 2).val.getLsbD 0 = true
    ∧ wpOk (s.seg 0) (s.desc.wp.toNat + 8 * (8#5).toNat) = true ∧ wpOk (s.seg 0) (s.desc.wp.toNat + 8 * (24#5).toNat) = true
    ∧ s.Reads [] [(8#5).toNat - 1, (8#5).toNat - 2] ∧ s.Reads [1] [(24#5).toNat - 1, (24#5).toNat - 2] := by decide

/-- RET in the window that a call with a frame of 24 words opened. -/
theorem witness_Return :
    let s := (st [(23, 0x44), (22, 0x1200)]).modDesc (fun d => { d with wp := 0x12C0 })
    let wp := s.desc.wp.toNat
    16 ≤ wp ∧ s.Operands [s.work (wp - 8), s.work (wp - 16)] []
    ∧ (s.mem.word (s.work (wp - 8))) = ⟨0x44, false⟩ ∧ (s.mem.word (s.work (wp - 16))) = ⟨0x1200, false⟩
    ∧ (0x44#64).getLsbD 0 = false ∧ wpOk (s.seg 0) 0x1200 = true := by decide

/-- Registers for addresses: inside a segment, an index, a datum, the last doublewords of HBM's and the pool's segments, and
offsets of the message window. -/
def d1 : State := st [(1, 0x100), (2, 3), (3, 9), (4, 0xFFFF8), (5, 0x3FFF8), (6, 0x400), (7, 0x3F8)]

/-- Scalar loads of each size, with a displacement, an index, with and without a prefix, up to the last byte of the segment. -/
theorem witness_ScalarLoadsIssue :
    d1.MayAccess none 2 1 [.r] [1, 2, 3, 4, 6] [1] [] [3] (0x100 - 32)
    ∧ d1.MayAccess (some 4) 3 2 [.r] [1, 2, 3, 4, 6] [1] [] [3] 0x100
    ∧ d1.MayAccess none 1 4 [.r] [1, 2, 3, 4, 6] [1] [] [3] 0x104
    ∧ d1.MayAccess none 3 8 [.r] [1, 2, 3, 4, 6] [4] [] [3] 0xFFFF8
    ∧ d1.MayAccess none 5 8 [.r] [1, 2, 3, 4, 6] [1] [] [3] 0x100
    ∧ d1.MayAccess none 1 8 [.r] [1, 2, 3, 4, 6] [5] [] [3] 0x3FFF8 := by and_intros <;> decide

theorem witness_IndexedLoads :
    d1.MayAccess none 0 1 [.r] [1, 2, 3, 4, 6] [1, 2] [] [3] 0x103 ∧ d1.MayAccess none 0 2 [.r] [1, 2, 3, 4, 6] [1, 2] [] [3] 0x106
    ∧ d1.MayAccess none 0 4 [.r] [1, 2, 3, 4, 6] [1, 2] [] [3] 0x10C
    ∧ d1.MayAccess (some 0) 0 8 [.r] [1, 2, 3, 4, 6] [1, 2] [] [3] 0x118 := by and_intros <;> decide

/-- Scalar stores, through every space; the message window at its class table. -/
theorem witness_ScalarStoresIssue :
    d1.MayAccess none 2 1 [.w] [1, 2, 3, 4, 6] [1] [3] [] 0x101 ∧ d1.TableOnly 2 0x101
    ∧ d1.MayAccess (some 4) 3 2 [.w] [1, 2, 3, 4, 6] [1] [3] [] 0x102 ∧ d1.TableOnly 3 0x102
    ∧ d1.MayAccess none 1 4 [.w] [1, 2, 3, 4, 6] [1, 2] [3] [] 0x10C ∧ d1.TableOnly 1 0x10C
    ∧ d1.MayAccess none 1 8 [.w] [1, 2, 3, 4, 6] [1] [3] [] 0x100
    ∧ d1.MayAccess none 5 8 [.w] [1, 2, 3, 4, 6] [6] [3] [] 0x400 ∧ d1.TableOnly 5 0x400
    ∧ d1.MayAccess none 5 8 [.w] [1, 2, 3, 4, 6] [7] [3] [] 0x3F8 ∧ ¬ d1.TableOnly 5 0x3F8 := by and_intros <;> decide

theorem witness_AtomicAndFullEmptyIssue :
    d1.MayAccess none 1 8 [.f, .r, .w] [1, 2, 3] [1] [] [3] 0x100 ∧ d1.MayAccess none 0 8 [.f, .r] [1, 2, 3] [1] [] [3] 0x100
    ∧ d1.MayAccess none 2 8 [.f, .w] [1, 2, 3] [1] [3] [] 0x100 ∧ d1.MayAccess none 1 8 [.f, .w] [1, 2, 3] [1] [] [] 0x100
    ∧ d1.MayAccess (some 2) 3 8 [.r, .w] [1, 2, 3, 4] [1] [2] [3] 0x100
    ∧ d1.MayAccess none 2 8 [.r, .w] [1, 2, 3, 4] [1] [2, 3] [3] 0x100
    ∧ d1.MayAccess none 1 4 [.r, .w] [1, 2, 3, 4] [1] [2] [3] 0x100 := by and_intros <;> decide

/-- A part that one event of 8 bytes covers. -/
def part8 (a data : Nat) : Part :=
  { addr := a, pa := some a, size := 8, off := 0, data := data, dataBad := false, dst := 0, stage := .sent, res := 0, bad := false,
    since := 0, after := 0, walked := 0, root := 0 }

theorem witness_AtomicAndFullEmptyAtHome :
    let a := lsAddr 0 0x80100
    let m := (Memory.reset.putWord a ⟨5, false⟩)
    a % 8 = 0 ∧ (part8 a 3).size = 8 ∧ (part8 a 3).dataBad = false ∧ m.isPending a = false ∧ m.isBad a = false
    ∧ m.isFull a = true ∧ (m.setFe a (some .empty)).feOf a = some .empty
    ∧ (m.putWord a ⟨5, true⟩).isBad a = true ∧ (m.setFe a (some .pending)).isPending a = true := by decide

theorem witness_ScalarFpResults :
    let s := st [(1, 0x3F800000), (2, 0x40000000), (3, 0x40400000)]
    s.Reads [1, 2] [4] ∧ s.Reads [1, 2, 3] [3] ∧ s.Reads [1] [4] ∧ (s.w 1).bad = false ∧ (s.w 2).bad = false
    ∧ (s.w 3).bad = false := by decide

/-- A tie between two neighbours: 3 in units of 2. -/
theorem witness_RoundingModes : 0 < 1 ∧ 2 * (3 % 2 ^ 1) = 2 ^ 1 ∧ 0 < 3 % 2 ^ 1 ∧ 4 % 2 ^ 1 = 0 := by decide

theorem witness_FormatRoundTrip :
    0x7F < 2 ^ (1 + e4m3.eb + e4m3.mb) ∧ e4m3.dec true false 0x77 ≠ .nan ∧ e4m3.dec true false 0x7F = .nan := by decide

/-- A lea whose first guest frame is host frame 1, with a level-1 and a level-2 table there that map the first 512 MiB of die
0's address space to it, with all rights; and one slot of HBM service. -/
def paged (s : State) : State :=
  { s with
    mem := { s.mem with cells := [(0x200000, 1), (0x200002, 1), (0x210000, 0x3F)] ++ s.mem.cells }
    leas := [(0, { lea0 with s2 := [(0, 0x000400000020003F)], s1root := [(0, 0)], svc := [(0, [7])] })]
    head := { s.head with frames := [(1, 1)], keys := [(1, 0)] } }

/-- An outstanding instruction of the thread, for register w3. -/
def outOf (id : Nat) (work : Work) : Out :=
  { id := id, tid := 1, core := 0, slot := 0, lea := 0, pc := 0x40, ilen := 4, windowed := true, look := 0, born := 0,
    dst := [lsOrigin + 0x1218], old := [⟨0, false⟩], work := work, left := none }

/-- One event of an access to address 0x100. -/
def partOf (stage : Stage) (pa : Option Nat) : Part :=
  { addr := 0x100, pa := pa, size := 8, off := 0x100, data := 0, dataBad := false, dst := 0, stage := stage, res := 0x80, bad := false,
    since := 0, after := 0, walked := 0, root := 0 }

/-- An access of one event. -/
def accOf (op : MemOp) (space : Nat) (p : Part) : Access :=
  { op := op, seg := 3, space := space, die := 0, off := 0x100, parts := [p], relaxed := none, acq := false, rel := false,
    remote := false, sem := none, nsr := true, taint := false }

/-- The state with outstanding work, at a slot of the counter. -/
def withOut (s : State) (now : Nat) (work : Work) : State := { s with now := now, outs := [outOf 0 work], nextId := 1 }

/-- The last slot before injection, and the first with one; a slot in which a flit of the core left on the plane. -/
theorem witness_Walk_and_Injection :
    let o := outOf 0 (.access (accOf (.load false) 4 (partOf .queued none)))
    let x := accOf (.load false) 4 (partOf .queued none)
    let s := withOut (paged d0) 16 o.work
    let y := accOf (.load false) 4 (partOf .queued (some 0x200100))
    let t := withOut (paged d0) 16 (.access y)
    s.out 0 = some o ∧ x.parts[0]? = some (partOf .queued none) ∧ s.mayGo o x 0 (partOf .queued none) = true
    ∧ s.translate 0 0 0x100 [.r] = .ok ⟨0, 0, 0, true, 1, 0xF, 1⟩
    ∧ s.mayInject 0 0 = true ∧ { s with now := 12 }.mayInject 0 0 = false ∧ { s with now := 17 }.mayInject 0 0 = false
    ∧ t.mayGo (outOf 0 (.access y)) y 0 (partOf .queued (some 0x200100)) = true
    ∧ ((paged d0).core 0).gtbFind 0 0 0x100 [.r] = none := by and_intros <;> decide

theorem witness_Planes :
    let x (stage : Stage) := accOf (.load false) 4 (partOf stage (some 0x200100))
    let s (now : Nat) (stage : Stage) := withOut (paged d0) now (.access (x stage))
    (s 16 .queued).planeTaken 0 (Config.requestPlane 0) = false ∧ (s 0 .sent).planeTaken 0 (Config.requestPlane 0) = true := by
  simp [State.planeTaken, withOut, outOf, accOf, partOf]

theorem witness_HbmService :
    let x := accOf (.load false) 4 (partOf .sent (some 0x200100))
    let s := withOut (paged d0) 17 (.access x)
    s.out 0 = some (outOf 0 (.access x)) ∧ s.dieUp (0x200100 / hbmBytes) = true ∧ channelOf 0x200100 = 0
    ∧ s.serviceSlot 0 (channelOf 0x200100) = true ∧ s.serviceTaken (channelOf 0x200100) = false
    ∧ (∀ e ∈ s.channelQueue 0 (channelOf 0x200100), cameBefore e (0, 0, 0) = false) ∧ s.channelQueue 0 0 = [(0, 0, 0)]
    ∧ (({ s with now := 18 } : State).serviceSlot 0 0) = false := by decide

theorem witness_RemoteArrives :
    let x := { accOf (.load false) 5 (partOf .sent (some 0x200100)) with remote := true, die := 1 }
    let s := withOut (paged d0) 17 (.access x)
    s.out 0 = some (outOf 0 (.access x)) ∧ s.crossed 5 (dieOf 0) 1 = true ∧ s.crossed 6 (dieOf 0) 1 = false ∧ s.dieUp 1 = true := by decide

/-- An access performed in commons, in the slot slice, and in HBM at the end of its service. -/
theorem witness_PerformedAtHome :
    let a := commonsOrigin + 0x100
    let x := accOf (.load false) 3 (partOf .sent (some a))
    let s := withOut d0 17 (.access x)
    let b := lsOrigin + 0x100
    let y := accOf .store 1 (partOf .queued (some b))
    let t := withOut d0 17 (.access y)
    let z := accOf .store 4 (partOf (.service 17) (some 0x200100))
    let u := withOut d0 113 (.access z)
    s.out 0 = some (outOf 0 (.access x)) ∧ (s.tryPart 0 0).isSome = true ∧ s.dieUp (dieOf 0) = true
    ∧ (t.tryPart 0 0).isSome = true ∧ t.isLate (outOf 0 (.access y)) = false
    ∧ t.mayGo (outOf 0 (.access y)) y 0 (partOf .queued (some b)) = true
    ∧ (u.tryPart 0 0).isSome = true ∧ (17 + 96 ≤ u.now)
    ∧ (homeOp u.mem (u.isRegWord (dwordOf 0x200100)) 0 .store 0x200100 (partOf (.service 17) (some 0x200100))).isSome = true := by
  and_intros <;> decide

theorem witness_AccessCompletes :
    let x (op : MemOp) := accOf op 4 (partOf .performed (some 0x200100))
    let r := { x (.load false) with remote := true, die := 1, sem := some 63 }
    (x (.load false)).allDone = true ∧ (x .store).op.isStore = true ∧ r.allDone = true
    ∧ (withOut d0 17 (.access r)).isLate (outOf 0 (.access r)) = false
    ∧ (∀ p ∈ r.parts, (withOut d0 17 (.access r)).crossed p.since 1 (dieOf 0) = true)
    ∧ (withOut d0 17 (.compute [⟨5, false⟩] none 1000)).out 0 = some (outOf 0 (.compute [⟨5, false⟩] none 1000))
    ∧ 1000 ≤ (withOut d0 17 (.compute [] none 1000)).cycle 0 ∧ (withOut d0 17 (.compute [] (some 0) 1001)).cycle 0 < 1001
    ∧ (partOf .performed none).size ∈ [1, 2, 4, 8] ∧ (partOf .performed none).res < 256 ^ (partOf .performed none).size := by decide

/-- A message between core 0 and itself. -/
def mailFor (id : Nat) (sent : Bool) (msg : Msg) : Mail :=
  { id := id, lea := 0, src := 0, srcSlot := 0, srcTid := 1, dst := 0, sent := if sent then some 0 else none, msg := msg, wd := lsOrigin + 0x1218, born := 0 }

/-- RSEM injected in slot 16 of a tide and not before, arriving, and acknowledged. -/
theorem witness_Rsem :
    let s (now : Nat) (m : Mail) : State := { withOut d0 now .rsem with mail := [m] }
    let m := mailFor 0 false (.rsem 63 1)
    let n := mailFor 0 true (.rsem 63 1)
    let a := mailFor 0 true (.rsemAck 0)
    (s 16 m).mailOf 0 = some m ∧ (s 15 m).tideSlot < 16
    ∧ (s 16 n).mailOf 0 = some n ∧ (s 16 n).crossed 0 (dieOf 0) (dieOf 0) = true ∧ (s 16 n).dieUp (dieOf 0) = true
    ∧ (s 16 a).mailOf 0 = some a ∧ (s 16 a).out 0 = some (outOf 0 .rsem) := by decide

/-- Its injection in the slot that its lea's schedule grants, whichever that is. -/
theorem witness_RsemInject :
    let n := lea0.opportunity 0 0 0
    let m := mailFor 0 false (.rsem 63 1)
    let s : State := { withOut d0 n .rsem with mail := [m] }
    s.mailOf 0 = some m ∧ s.exchangeOpen 0 0 0 = true ∧ (∀ e ∈ s.mail, e.src = m.src → e.sent ≠ some s.now) ∧ s.mailMayGo m = true := by
  have h : Config.exchangeSlot 0 1 0 0 0 % 4080 < 4080 := Nat.mod_lt _ (by decide)
  have hn : lea0.opportunity 0 0 0 < 4096 := by
    show Config.exchangeSlot 0 1 0 0 0 % 4080 / 4080 * 4096 + (16 + Config.exchangeSlot 0 1 0 0 0 % 4080 % 4080) < 4096
    omega
  refine ⟨rfl, ?_, by simp [mailFor], rfl⟩
  show (lea0.opportunity 0 0 0 == lea0.opportunity 0 0 0 % 4096 || false) = true
  simp [Nat.mod_eq_of_lt hn]

/-- A bank command on the row at address 0 of commons. -/
def bankCmd (fn space : Nat) (sem : Option Nat) : BankCmd :=
  { fn := fn, fmt := 0, size := 64, space := space, die := 0, bank := 0, parts := [{ partOf .queued (some commonsOrigin) with size := 64 }],
    src := 0, srcBad := [], val := ⟨1, false⟩, alpha := 0, sem := sem, nsr := true, op := 0, inQueue := true,
    units := 1, left := List.range 16, early := false }

theorem witness_BankCommandsAndFills :
    let s (c : BankCmd) : State := { withOut d0 17 (.bank c) with banks := [(0, [0])] }
    let o := { withOut (paged d0) 17 (.bank (bankCmd 0 4 none)) with banks := [(4096, [0])] }
    let f := (paged d0).modCore 0 (fun c => { c with fills := [⟨0, 0, 1, 0, 0, 0, 0, none⟩] })
    keyGet [] (s (bankCmd 0 3 none)).banks 0 = [0] ∧ (s (bankCmd 0 3 (some 63))).out 0 = some (outOf 0 (.bank (bankCmd 0 3 (some 63))))
    ∧ (s (bankCmd 5 3 none)).out 0 = some (outOf 0 (.bank (bankCmd 5 3 none))) ∧ (s (bankCmd 0 3 none)).dieUp (dieOf 0) = true
    ∧ o.serviceSlot 0 (4096 - 4096) = true ∧ o.serviceTaken 0 = false ∧ (f.core 0).fills = [⟨0, 0, 1, 0, 0, 0, 0, none⟩]
    ∧ f.lookUp 0 0 (dieOf 0) (64 * 0) [.x] = .ok ⟨0, 0, 0, true, 1, 0xF, 1⟩ ∧ (bankCmd 0 3 none).units = 1
    ∧ (s (bankCmd 0 3 none)).groupCores 0 (((s (bankCmd 0 3 none)).core 0).dorent.gid) = [] ∧ 1 < ({ bankCmd 0 3 none with units := 2 }).units := by
  and_intros <;> decide

/-- Semaphores: the largest operand, and one beyond it; a threshold met exactly, and one not met. -/
theorem witness_SemaphoresAndFences :
    let s := st [(1, 2 ^ 48 - 1), (2, 2 ^ 48), (3, 0)]
    let busy := withOut s 17 (.access (accOf .store 3 (partOf .sent (some commonsOrigin))))
    let c := (({ Core.reset with slots := [{ thread with run := .parked, wait := .sem 63 4 }] } : Core))
    s.myCore.lea = s.me.lea ∧ s.Reads [1] [] ∧ (s.w 1).bad = false ∧ (s.w 1).val.toNat < 2 ^ 48 ∧ 2 ^ 48 ≤ (s.w 2).val.toNat
    ∧ s.accessesDone false = true ∧ busy.accessesDone false = false ∧ busy.accessesDone true = false ∧ s.readsDone true = true
    ∧ busy.myCore.lea = busy.me.lea ∧ s.Reads [] [3]
    ∧ (c.slot 0).run = .parked ∧ (c.slot 0).wait = .sem 63 4 ∧ 4 ≤ (c.sem 63).count.toNat + 4 ∧ (c.sem 63).count.toNat + 3 < 4 := by
  decide

/-- GET, PUT and RAMO of a doubleword of die 1's memory; of the same die in reset. -/
theorem witness_RemoteIssue :
    (∀ e ∈ [([], [3]), ([3], []), ([2], [2])], d1.Reads (1 :: e.1) e.2) ∧ d1.count .remote < 16 ∧ d1.PathOpen (d1.seg 4).space
    ∧ (d1.w 1).bad = false ∧ (∀ r ∈ [[Right.r], [.w], [.r, .w]], segFail (d1.seg 4) (d1.extent (d1.seg 4).space) 0x100 8 r [5] = none)
    ∧ ((d1.seg 4).base.toNat + 0x100) % 8 = 0 ∧ (d1.seg 4).die = 1 ∧ d1.dieUsable 1 = true
    ∧ ({ d1 with dies := listMod d1.dies 1 (fun x => { x with phase := .reset }) }.dieUsable 1) = false := by
  and_intros <;> decide

/-- RSEM with the largest amount and one beyond it, to the last core of the lea and one beyond it. -/
theorem witness_RsemIssue :
    let s := st [(1, 0), (2, 2 ^ 48 - 1), (3, 1), (4, 2 ^ 48)]
    s.Reads [1, 2] [] ∧ s.count .remote < 16 ∧ s.exchangeFlits s.cur.1 s.me.lea < 16 ∧ (s.w 1).bad = false ∧ (s.w 2).bad = false
    ∧ (s.w 1).val.toNat < s.leal ∧ (s.w 2).val.toNat < 2 ^ 48 ∧ s.leal ≤ (s.w 3).val.toNat ∧ 2 ^ 48 ≤ (s.w 4).val.toNat := by decide

/-- Bank commands on a row of commons: NADD with 128-byte rows; NAMO of code 8 and 9. -/
theorem witness_BankIssue :
    let s := st [(1, 0x100), (2, 0x10), (3, 8), (4, 9)]
    (∀ a ∈ s.vAddrs 1 ++ [s.wAddr 2], s.mem.isFull a = true) ∧ s.PathOpen (s.seg 2).space ∧ s.count .bank < 32
    ∧ (s.w 1).bad = false ∧ (s.w 2).bad = false ∧ rowBytes (s.w 2).val = 128
    ∧ segFail (s.seg 2) (s.extent (s.seg 2).space) 0x100 128 [.b] [3, 4] = none ∧ ((s.seg 2).base.toNat + 0x100) % 128 = 0
    ∧ (∀ f ∈ [0, 1, 2, 3, 4], ctlBad f (s.w 2).val = false) ∧ namoBad (s.w 3).val = false ∧ namoBad (s.w 4).val = false
    ∧ (s.w 3).val.extractLsb' 0 4 = 8 := by and_intros <;> decide

/-- NRED from row 0 at offset 0 to a destination in the same bank. -/
theorem witness_NredIssue :
    let s := st [(1, 0x100), (2, 0x10)]
    s.Operands (s.wAddr 1 :: (s.vAddrs 0 ++ [s.wAddr 2])) [] ∧ (∀ x ∈ s.vAddrs 0, s.mem.isBad x = false)
    ∧ vBytes (s.v 0) 0 8 % 512 = 0 ∧ (s.w 2).val.extractLsb' 8 3 = 0
    ∧ rowOffset 3 (vBytes (s.v 0) 0 8) 128 (vBytes (s.v 0) 8 4) = 0
    ∧ segFail (s.seg 2) (s.extent (s.seg 2).space) 0 128 [.r] [3, 4] = none
    ∧ s.myBank (s.seg 2).space ((s.seg 2).base.toNat + 0) = s.myBank (s.seg 2).space ((s.seg 2).base.toNat + 0x100) := by
  and_intros <;> decide

/-- Vector operands, without and with a mask, of the registers 1, 2 and 3, and of one register in every place. -/
theorem witness_VectorElementResults :
    d0.MayQueue (d0.vAddrs 1 ++ d0.vAddrs 2 ++ d0.mAddrs 1 ++ d0.vAddrs 3) (d0.vAddrs 3) ∧ d0.Clean (d0.vAddrs 3)
    ∧ d0.MayQueue (d0.vAddrs 1 ++ d0.vAddrs 2 ++ [] ++ []) (d0.vAddrs 3) ∧ d0.MayQueue (d0.vAddrs 15 ++ d0.vAddrs 15) (d0.vAddrs 15) := by
  and_intros <;> decide

theorem witness_VectorMoveResults :
    d0.MayQueue (d0.vAddrs 1 ++ d0.vAddrs 2 ++ d0.mAddrs 1) (d0.mAddrs 7)
    ∧ d0.MayQueue (d0.vAddrs 1 ++ d0.mAddrs 1 ++ d0.vAddrs 3) (d0.vAddrs 3) ∧ (5#5 < 6) ∧ (8#5 ≤ 13 ∧ 13#5 < 14)
    ∧ d0.MayQueue ([d0.wAddr 1] ++ d0.mAddrs 1 ++ d0.vAddrs 3) (d0.vAddrs 3) ∧ d0.Clean (d0.vAddrs 3)
    ∧ d0.MayQueue ([d0.wAddr 1] ++ d0.vAddrs 2) (d0.vAddrs 3) := by and_intros <;> decide

/-- Single elements at the ends of their ranges: 63, 64 and 95. -/
theorem witness_VectorMaskAndReductionResults :
    d0.MayQueue (d0.mAddrs 1 ++ d0.mAddrs 2) (d0.mAddrs 3) ∧ d0.MayQueue (d0.mAddrs 1) [d0.wAddr 1]
    ∧ (63#7 < 64) ∧ d0.MayQueue [(d0.vAddrs 2).getD ((63#7).toNat / 2) 0] [d0.wAddr 1]
    ∧ (64 ≤ 95#7 ∧ 95#7 < 96) ∧ d0.MayQueue [(d0.vAddrs 2).getD (95#7 % 64).toNat 0] [d0.wAddr 1]
    ∧ d0.MayQueue [d0.wAddr 1, (d0.vAddrs 2).getD (64#7 % 64).toNat 0] [(d0.vAddrs 2).getD (64#7 % 64).toNat 0]
    ∧ d0.MayQueue (d0.vAddrs 2 ++ d0.mAddrs 1) [d0.wAddr 1]
    ∧ d0.MayQueue (d0.vAddrs 2 ++ d0.mAddrs 1) (d0.vAddrs 3) := by and_intros <;> decide

/-- A vector load and store of the pool with every element active, and one with mask m1 = 0 for which none is. -/
theorem witness_VectorMemoryIssue :
    d1.Operands (d1.wAddr 1 :: [d1.wAddr 2] ++ [] ++ d1.vAddrs 3) (d1.vAddrs 3) ∧ d1.Clean (d1.wAddr 1 :: [d1.wAddr 2] ++ [])
    ∧ d1.count .plain < Kind.plain.limit ∧ d1.PathOpen (d1.seg 1).space ∧ ((d1.w 1).val.toNat % 8 = 0)
    ∧ (∀ e ∈ List.range 64, 0 ≤ ((d1.w 1).val.toNat + 4 * e : Int)
        ∧ segFail (d1.seg 1) (d1.extent (d1.seg 1).space) ((d1.w 1).val.toNat + 4 * e : Int).toNat 4 [.r] [1, 2, 3, 4] = none
        ∧ segFail (d1.seg 1) (d1.extent (d1.seg 1).space) ((d1.w 1).val.toNat + 4 * e : Int).toNat 4 [.w] [1, 2, 3, 4] = none
        ∧ ((d1.seg 1).base.toNat + ((d1.w 1).val.toNat + 4 * e : Int).toNat) % 4 = 0
        ∧ d1.overlaps (d1.seg 1).space ((d1.seg 1).base.toNat + ((d1.w 1).val.toNat + 4 * e : Int).toNat) 4 (d1.vAddrs 3) = false) := by
  and_intros <;> decide

/-- A mask that no element satisfies, and an indexed access of which every index is 0. -/
theorem witness_VectorMemoryMasked :
    (List.range 64).all (fun e => !d1.active 1 e) = true ∧ (List.range 64).all (fun e => d1.active 0 e) = true
    ∧ (List.range 64).all (fun e => d1.elemIn (d1.vAddrs 5) 32 e == 0) = true
    ∧ d1.Operands (d1.wAddr 1 :: d1.vAddrs 5 ++ d1.mAddrs 1 ++ d1.vAddrs 3) (d1.vAddrs 3)
    ∧ d1.Clean (d1.wAddr 1 :: d1.vAddrs 5 ++ d1.mAddrs 1) := by and_intros <;> decide

/-- An entry of the vector queue, waiting at the last cycle of its latency and past it; a lane's cycle. -/
theorem witness_VectorEvents :
    let w (t : Option Nat) := Work.vector [] 0 6 t
    let s := (withOut d0 17 (w none)).modCore 0 (fun c => { c with turned := 1001 })
    s.cycle 0 % 4 = 0 ∧ (s.core 0).laned ≤ s.cycle 0 ∧ s.cycle 0 < (s.core 0).turned ∧ s.laneSlot 0 = some 0 ∧ s.vHead 0 0 = some 0
    ∧ (s.vHead 4 (s.cycle 4 / 4 % 16)).isSome = false ∧ s.cycle 1 % 4 ≠ 1 % 4 ∧ (d0.core 0).turned ≤ d0.cycle 0
    ∧ (withOut d0 17 (w (some 994))).out 0 = some (outOf 0 (w (some 994))) ∧ ¬ (994 + 6 < s.cycle 0)
    ∧ 993 + 6 < s.cycle 0
    ∧ (({ s with cycles := [1024] } : State).vHead 0 (({ s with cycles := [1024] } : State).cycle 0 / 4 % 16)).isSome = true := by decide

theorem witness_ElementPlaces : 0 < 6 ∧ [(⟨0x3F, 0, true⟩ : El), ⟨1, 0, false⟩].length * 6 ≤ 64 * 1 := by decide

/-- The state with the bay of core 0 changed. -/
def withBay (s : State) (f : Bay → Bay) : State := s.modBay 0 f

/-- Tile 0 unconfigured: 32 rows, and a plane of 8,192 bytes; a drain at the last window of a tile. -/
theorem witness_MatrixQueue :
    let s := st [(1, 0), (2, 31), (3, 32), (4, 4032), (5, 4096)]
    let q := withBay s (fun y => { y with active := { y.active with wf := 1 } })
    s.myCore.lea = s.me.lea ∧ s.myCore.bay.hasRoom = true ∧ s.myCore.bay.busyWith 2 = false ∧ s.myCore.bay.busyWith 0 = false
    ∧ s.Reads [1] [] ∧ (s.w 1).bad = false ∧ s.Operands (s.vAddrs 1 ++ s.mAddrs 1 ++ [s.wAddr 2]) []
    ∧ s.Clean (s.mAddrs 1 ++ [s.wAddr 2]) ∧ cfgRows (s.myCore.bay.viewCfg 0) = 32 ∧ (s.w 2).val = 31 ∧ (s.w 3).val = 32
    ∧ s.myCore.bay.viewPlane = ((s.myCore.bay.viewCfg 0).extractLsb' 4 4, (s.myCore.bay.viewCfg 0).extractLsb' 8 2)
    ∧ q.myCore.bay.viewPlane ≠ ((q.myCore.bay.viewCfg 0).extractLsb' 4 4, (q.myCore.bay.viewCfg 0).extractLsb' 8 2)
    ∧ (s.w 4).val.toNat % 64 = 0 ∧ (s.w 4).val.toNat + 64 = 4096 ∧ 4096 < (s.w 5).val.toNat + 64
    ∧ s.Operands [s.wAddr 1] (s.vAddrs 1) ∧ s.Reads [1] [1] := by and_intros <;> decide

/-- The port, for the last plane and the last image that the pool's segment holds. -/
theorem witness_MatrixPort :
    let s := st [(1, 0x40000 - 8192), (2, 0x40000 - 16448)]
    s.Reads [1] [] ∧ (s.w 1).bad = false ∧ s.myCore.lea = s.me.lea ∧ s.myCore.bay.portIdle = true ∧ s.myCore.bay.busyWith 2 = false
    ∧ s.count .relaxed < 8 ∧ planeSize (s.myCore.bay.viewCfg 0) = 8192
    ∧ segFail (s.seg 1) (s.extent (s.seg 1).space) (s.w 1).val.toNat 8192 [.r] [1, 2, 3, 4] = none ∧ (s.w 1).val.toNat % 64 = 0
    ∧ segFail (s.seg 1) (s.extent (s.seg 1).space) (s.w 2).val.toNat 16448 [.r] [1, 2, 3, 4] = none ∧ (s.w 2).val.toNat % 64 = 0
    ∧ segFail (s.seg 1) (s.extent (s.seg 1).space) (s.w 2).val.toNat 16448 [.w] [1, 2, 3, 4] = none
    ∧ s.myCore.bay.queue.any (fun e => e.op == .mswap) = false ∧ s.myCore.bay.isEmpty = true ∧ s.myCore.bay.hasRoom = true := by
  and_intros <;> decide

/-- A queued entry before it is performed, four cycles after, and one more. -/
theorem witness_BayEntries :
    let e (op : BayOp) (done : Option Nat) : BayEntry := ⟨0, op, 999, done⟩
    let s (op : BayOp) (done : Option Nat) : State := withBay (withOut d0 17 .bay) (fun y => { y with queue := [e op done] })
    let q := (s .mswap none).modCore 0 (fun c => { c with turned := 1001 })
    let m := (s (.mstep 3 0 0 [] 0 true false) (some 995)).modSlot 0 0 (fun x => { x with run := .matrixStep })
    q.cycle 0 % 4 = 0 % 4 ∧ (q.core 0).arrayed ≤ q.cycle 0 ∧ q.cycle 0 < (q.core 0).turned ∧ (q.core 0).bay.queue = [e .mswap none]
    ∧ (e .mswap none).issuedAt < q.cycle 0 ∧ (s .mswap none).cycle 1 % 4 ≠ 1 % 4
    ∧ (s .mswap (some 996)).cycle 0 ≤ 996 + 4 ∧ 995 + 4 < (s .mswap (some 995)).cycle 0
    ∧ ((s (.mflags 0xFFFFFFFF) (some 995)).modBay 0 (fun b => { b with queue := b.queue.drop 1 })).out 0 = some (outOf 0 .bay)
    ∧ (m.slot 0 0).run = .matrixStep ∧ (m.slot 0 0).tid = (outOf 0 .bay).tid ∧ m.out 0 = some (outOf 0 .bay)
    ∧ (m.core 0).slots[0]? = some (m.slot 0 0) := by and_intros <;> decide

/-- A transfer of 8 bytes by the port. -/
def portJob (kind space addr : Nat) : PortJob :=
  { outId := 0, kind := kind, tile := 0, space := space, die := 0, addr := addr, sgOff := addr, size := 8, left := [(0, 8)], image := [],
    bad := [], flow := [], parked := none, stalled := none }

/-- Transfers by the port, from the pool and to it, and one from HBM that meets a page not resident. -/
theorem witness_PortTransfers :
    let s (j : PortJob) : State := withBay (withOut d0 17 .port) (fun y => { y with port := some j })
    let o := outOf 0 .port
    let p := withBay (withOut { paged d0 with leas := [(0, { lea0 with s2 := [(0, 0x000400000020001F)], s1root := [(0, 0)] })] } 17 .port)
      (fun y => { y with port := some (portJob 0 4 0x100) })
    (s (portJob 0 2 0x100)).portView 0 = some (portJob 0 2 0x100, o, [(0, 8, lsOrigin + 0x80100)], none)
    ∧ (s (portJob 1 2 0x100)).portView 0 = some (portJob 1 2 0x100, o, [(0, 8, lsOrigin + 0x80100)], none)
    ∧ p.portView 0 = some (portJob 0 4 0x100, o, [], some (0, .page 0))
    ∧ (s (portJob 0 2 0x100)).portReady o (portJob 0 2 0x100) [(0, 8, lsOrigin + 0x80100)] = [(0, 8, lsOrigin + 0x80100)]
    ∧ p.portReady o (portJob 0 4 0x100) [] = [] := ⟨rfl, rfl, rfl, rfl, rfl⟩

/-- The pool with doublewords written at an offset. -/
def poke (s : State) (off : Nat) : List Word → State
  | [] => s
  | w :: t => poke { s with mem := s.mem.putWord (lsOrigin + 0x80000 + off) ⟨w, false⟩ } (off + 8) t

/-- The doublewords of a map of four 4-byte elements of the pool at an offset, with its list of indices at 0x3000. -/
def mapWords (off : Nat) : List Word := [BitVec.ofNat 64 (0x0211000000000000 + off), 0x0004000000000000, 0, 0, 0, 0, 0x0001000000003000, 0]

/-- A source map at 0x100 and a destination map at 0x200, in registers w1 and w2. -/
def dMaps : State := poke (poke (st [(1, 0x101), (2, 0x201)]) 0x100 (mapWords 0x1000)) 0x200 (mapWords 0x2000)

theorem witness_EngineMapsRead :
    ∀ r ∈ [1, 2],
      let v := (dMaps.w r).val
      let g := dMaps.seg (v.toNat % 8)
      let off := v.toNat / 64 * 64
      v.extractLsb' 3 3 = 0 ∧ segFail g (dMaps.extent g.space) off 64 [.r] [1, 2] = none
      ∧ dMaps.flat 0 0 (some 0) g.space (g.base.toNat + off) = some (lsOrigin + 0x80000 + 0x100 * r)
      ∧ dMaps.ownStorePending (lsOrigin + 0x80000 + 0x100 * r) 64 = false
      ∧ dMaps.Clean ((List.range 8).map (fun i => lsOrigin + 0x80000 + 0x100 * r + 8 * i)) ∧ (dMaps.w r).bad = false := by decide

theorem witness_EngineMapsGood :
    let words (x i : Nat) : Word := BitVec.ofNat 64 (dMaps.mem.read (x + 8 * i) 8)
    let p := lsOrigin + 0x80100
    let q := lsOrigin + 0x80200
    let m := mapOf (words p)
    let n := mapOf (words q)
    dMaps.Reads [1, 2] [] ∧ dMaps.myCore.lea = dMaps.me.lea ∧ dMaps.myCore.engine.shadow = none
    ∧ mapRes (words p) = false ∧ m.bad false = false ∧ mapRes (words q) = false ∧ n.bad true = false
    ∧ dMaps.hullFail m false .r = none ∧ dMaps.hullFail m true .r = none ∧ dMaps.hullFail n false .w = none
    ∧ dMaps.hullFail n true .w = none ∧ dMaps.hullsMeet m n false false = false ∧ dMaps.hullsMeet m n true false = false
    ∧ dMaps.hullsMeet m n false true = false ∧ m.esz = n.esz ∧ (∀ j ∈ List.range 5, m.extent j = n.extent j)
    ∧ segFail (dMaps.seg m.isg) (dMaps.extent (dMaps.seg m.isg).space) m.ioff (4 * m.extent 1) [.r] [1, 2] = none
    ∧ segFail (dMaps.seg n.isg) (dMaps.extent (dMaps.seg n.isg).space) n.ioff (4 * n.extent 1) [.r] [1, 2] = none := by
  and_intros <;> decide

/-- A command that fills four elements of the pool, held by a slot, armed or not. -/
def fillCmd : TCmd :=
  { kind := 3, src := mapOf (fun i => (mapWords 0x2000).getD i 0), dst := mapOf (fun i => (mapWords 0x2000).getD i 0), fill := ⟨9, false⟩,
    sem := none, srcSeg := d0.seg 1, dstSeg := d0.seg 1, idxSeg := d0.seg 1, nsr := true, tid := 1, pc := 0x40 }

theorem witness_EngineControl :
    let h (owner : Nat) (armed : Option (Nat × Nat)) : TShadow := ⟨owner, armed, fillCmd⟩
    let a : TActive := ⟨1, fillCmd, 0, (1, 1), none, [], none, false⟩
    let s (h : Option TShadow) (a : Option TActive) : State := d0.modEngine 0 (fun e => { e with shadow := h, active := a })
    let away := d0.modCore 0 (fun c => { c with lea := none })
    let busy := (withOut d0 17 (.access (accOf .store 3 (partOf .sent none)))).modEngine 0 (fun e => { e with active := some a })
    (s (some (h 0 none)) none).myCore.lea = (s (some (h 0 none)) none).me.lea
    ∧ (s (some (h 0 none)) none).myCore.engine.shadow = some (h 0 none) ∧ (h 0 none).owner = (s (some (h 0 none)) none).cur.2
    ∧ (h 0 none).armed = none ∧ d0.myCore.engine.shadow = none ∧ (h 1 none).owner ≠ d0.cur.2 ∧ (h 0 (some (1, 0))).armed ≠ none
    ∧ d0.Reads [] [3] ∧ (s (some (h 0 none)) none).in15 = false ∧ ({ d0 with cur := (0, 15) } : State).in15 = true
    ∧ (s none (some a)).myCore.engine.active = some a ∧ a.owner ≠ d0.cur.2 ∧ a.owner < 16
    ∧ away.myCore.lea ≠ away.me.lea ∧ away.Reads [] [3]
    ∧ ((s (some (h 0 (some (1, 1)))) none).core 0).engine.shadow = some (h 0 (some (1, 1)))
    ∧ ((s (some (h 0 (some (1, 1)))) none).core 0).engine.active = none ∧ (s none (some a)).earlierDone a.edge.1 a.edge.2 false = true
    ∧ (busy.core 0).engine.active = some a ∧ busy.earlierDone a.edge.1 a.edge.2 false = false := by and_intros <;> decide

/-- The active command before its only window, in the pool and in a page of HBM that is not resident; and parked on it. -/
theorem witness_EngineWindow :
    let a : TActive := ⟨0, fillCmd, 0, (1, 1), none, [], none, false⟩
    let s := d0.modEngine 0 (fun e => { e with active := some a })
    let b : TActive := { a with cmd := { fillCmd with dst := { fillCmd.dst with sg := 3 }, dstSeg := d0.seg 3 } }
    let p := ({ paged d0 with leas := [(0, { lea0 with s2 := [(0, 0x000400000020001F)], s1root := [(0, 0)] })] } : State)
    let q := p.modEngine 0 (fun e => { e with active := some b })
    let r := (paged d0).modEngine 0 (fun e => { e with active := some { b with parked := some (some 0) } })
    let begun : TActive := { a with left := some [1, 3] }
    let v := d0.modEngine 0 (fun e => { e with active := some begun })
    let more : TActive := { a with cmd := { fillCmd with dst := { fillCmd.dst with ext := [0x10002] } } }
    let m := d0.modEngine 0 (fun e => { e with active := some more })
    s.engineRun 0 = some (a, 0) ∧ s.windowHeld 0 0 a (s.window 0 0 a) = none
    ∧ v.engineRun 0 = some (begun, 0) ∧ v.ranksReady 0 0 begun = [1, 3] ∧ begun.rest = [1, 3]
    ∧ v.windowHeld 0 0 begun (v.window 0 0 begun) = none ∧ ({ a with left := some [] }).rest = [] ∧ a.rest = [0, 1, 2, 3]
    ∧ (s.markWord (lsOrigin + 0x82000) .pending |>.markWord (lsOrigin + 0x82008) .pending).ranksReady 0 0 a = []
    ∧ s.elemHome 0 0 a ⟨some 0x1000, some 0x2000, 0x1000, 0x2000⟩ = some (lsOrigin + 0x82000) ∧ s.mem.isFull (dwordOf (lsOrigin + 0x82000)) = true
    ∧ (s.dor 0).state ≠ .running
    ∧ (match s.placeOf 0 0 0 2 (dieOf 0) 0x1000 [.r] with
      | .at y => y == lsOrigin + 0x81000
      | _ => false) = true
    ∧ a.windowEnd = a.cmd.dst.bytes ∧ m.engineRun 0 = some (more, 0) ∧ more.windowEnd ≠ more.cmd.dst.bytes
    ∧ (s.window 0 0 a).length = 4
    ∧ q.engineRun 0 = some (b, 0) ∧ (q.windowHeld 0 0 b (q.window 0 0 b)).isSome = true
    ∧ (match q.windowHeld 0 0 b (q.window 0 0 b) with
      | some (.page f, _) => f == 0
      | _ => false) = true
    ∧ (r.core 0).lea = some 0 ∧ r.resident 0 0 = true := by and_intros <;> decide

/-- A gang of the thread alone; its task waits for token 5 and its own token is 7. -/
def gang1 : Gang :=
  { lea := 0, gid := 0, nsr := true, first := 0, ncore := 1, spc := 1, queue := 0, packet := [0x40, 0x2100100000000001, 0, 0, 0, 0, 5, 7],
    members := [⟨0, 0, 0, 0, false, 0, none⟩], resv := [], tree := some 0, barriers := List.replicate 8 ⟨[], [], [], 0⟩,
    rounds := [], idle := 0, expired := false, watched := 0, worked := false, excluded := false, ended := none }

/-- The state with the thread in that gang. -/
def inGang (s : State) (g : Gang) : State := { s.modSlot 0 0 (fun x => { x with gang := some 0 }) with gangs := [g] }

/-- A message of a unit of the lea, come to core 0. -/
def unitMsg (msg : Msg) : Mail := mailFor 0 true msg

/-- A full exchange queue of core 0. -/
def exchangeFull (s : State) : State := { s with mail := (List.range 16).map (fun i => mailFor i false (.rsem 1 1)) }

/-- A barrier before the thread's arrival, after it, and with a generation that has come to its core. -/
theorem witness_Barriers :
    let s := inGang (withOut d0 17 .reply) gang1
    let g (b : Barrier) : Gang := { gang1 with barriers := List.replicate 8 b }
    let came : Barrier := ⟨[(0, some (1, 5))], [], [], 0⟩
    let done : Barrier := ⟨[(0, none)], [], [], 1⟩
    let busy := inGang (withOut d0 17 (.access (accOf .store 3 (partOf .sent none)))) (g came)
    let there := { inGang d0 (g came) with mail := [unitMsg (.barIn 0 7 0)] }
    let t := { inGang d0 (g done) with mail := [unitMsg (.barOut 0 7 1)] }
    let parked := t.modSlot 0 0 (fun x => { x with run := .parked, wait := .barrier 7 0 })
    s.in15 = false ∧ s.myGang = some gang1 ∧ gang1.rankOf 0 0 = 0 ∧ keyFind (gang1.bar 7).arrived 0 = none ∧ s.exchangeFlits 0 (some 0) < 16
    ∧ keyFind ((g came).bar 7).arrived 0 = some (some (1, 5)) ∧ s.Reads [] [3] ∧ s.Reads [1] [] ∧ (s.w 1).bad = false ∧ d0.myGang = none
    ∧ 16 ≤ (exchangeFull s).exchangeFlits 0 (some 0) ∧ (exchangeFull s).in15 = false ∧ ({ s with cur := (0, 15) } : State).in15 = true
    ∧ s.gang 0 0 = some gang1 ∧ (inGang d0 (g came)).earlierDone 1 5 (g came).multi = true ∧ busy.earlierDone 1 5 (g came).multi = false
    ∧ there.unitMail 0 0 (.barIn 0 7 0) = some (unitMsg (.barIn 0 7 0)) ∧ s.unitMail 0 0 (.barIn 0 7 0) = none
    ∧ t.unitMail 0 0 (.barOut 0 7 (((g done).bar 7).genAt 0 + 1)) = some (unitMsg (.barOut 0 7 1))
    ∧ s.unitMail 0 0 (.barOut 0 7 ((gang1.bar 7).genAt 0 + 1)) = none ∧ 7 < (g done).barriers.length
    ∧ (parked.slot 0 0).run = .parked ∧ (parked.slot 0 0).lea = some 0 ∧ (parked.slot 0 0).gang = some 0
    ∧ (parked.slot 0 0).wait = .barrier 7 0 := by and_intros <;> decide

/-- A generation that is complete, and one that a member holds back. -/
theorem witness_BarrierCheck :
    let b : Barrier := ⟨[(0, none)], [0], [], 0⟩
    (∀ r, r < gang1.members.length → r ∈ b.counted ∨ gang1.isGone r = true) ∧ b.counted ≠ []
    ∧ ∃ r, r < gang1.members.length ∧ r ∉ ({ b with counted := [] }).counted ∧ gang1.isGone r = false := by
  refine ⟨?_, by decide, 0, ?_⟩ <;> decide

/-- A round with the contribution of the one member on its way and come, and its result before delivery. -/
theorem witness_GroupReduction :
    let s := inGang d0 gang1
    let q (r : Option PWord) : GredRound := ⟨0, [(0, ⟨0, ⟨5, false⟩, true, 1, 0⟩)], [], r, [], []⟩
    let q1 : GredRound := { q (some ⟨5, false⟩) with reached := [0] }
    let m : Member := ⟨0, 0, 0, 0, false, 1, some (0, lsOrigin + 0x1218)⟩
    let g (q : GredRound) : Gang := { gang1 with members := [m], rounds := [q] }
    let came := { inGang d0 (g (q none)) with mail := [unitMsg (.gredIn 0 0 0)] }
    let t := (inGang d0 (g q1)).markWord (lsOrigin + 0x1218) .empty
    let user := (inGang d0 (g q1)).modDesc (fun d => { d with stat := 0x200 })
    s.in15 = false ∧ s.Reads [1] [3] ∧ (s.w 1).bad = false ∧ gang1.member (gang1.rankOf 0 0) = some ⟨0, 0, 0, 0, false, 0, none⟩
    ∧ s.exchangeFlits 0 (some 0) < 16 ∧ m.gredDst ≠ none ∧ d0.myGang = none ∧ ({ s with cur := (0, 15) } : State).in15 = true
    ∧ gang1.tree ≠ none ∧ { gang1 with tree := none }.tree = none
    ∧ (inGang d0 (g (q none))).gang 0 0 = some (g (q none)) ∧ (g (q none)).round 0 = some (q none) ∧ (g (q none)).ncore = 1
    ∧ keyFind (q none).nodes 0 = none ∧ (inGang d0 (g (q none))).gredIn (g (q none)) (q none) 0 = false
    ∧ (∀ r ∈ List.range (g (q none)).spc, came.gredIn (g (q none)) (q none) r = true) ∧ (g (q none)).kids 0 = []
    ∧ (g q1).member 0 = some m ∧ q1.delivered.contains 0 = false ∧ q1.reached.contains (0 / 1) = true ∧ t.gredLate (g q1) m = false
    ∧ t.unitMail 0 ((g q1).coreOf (0 / 1)) (.gredDown 0 0 (0 / 1)) = none
    ∧ m.gredDst = some (0, lsOrigin + 0x1218) ∧ t.memberHere (g q1) m = true
    ∧ (t.slot 0 0).desc.stat.getLsbD 3 = (g q1).nsrOf q1 ∧ t.mem.feOf (lsOrigin + 0x1218) = some .empty
    ∧ (user.slot 0 0).desc.stat.getLsbD 3 = false := by
  and_intros <;> decide

/-- A member whose NSR is not that of its gang's rank-0 thread, on a node of its own. -/
theorem witness_GredNsr :
    let m (r : Nat) : Member := ⟨0, r, 0, r, false, 1, some (0, lsOrigin + 0x1218)⟩
    let q : GredRound := ⟨0, [], [], some ⟨5, false⟩, [0], []⟩
    let g : Gang := { gang1 with spc := 2, members := [m 0, m 1], rounds := [q] }
    let s := (inGang d0 g).modSlot 0 1 (fun _ => { thread with tid := 2, gang := some 0, desc := { thread.desc with stat := 0x200 } })
    s.gang 0 0 = some g ∧ g.round 0 = some q ∧ g.member 1 = some (m 1) ∧ q.delivered.contains 1 = false
    ∧ q.reached.contains (1 / g.spc) = true ∧ s.gredLate g (m 1) = false ∧ s.unitMail 0 (g.coreOf (1 / g.spc)) (.gredDown 0 0 (1 / g.spc)) = none
    ∧ s.memberHere g (m 1) = true ∧ (s.slot 0 1).desc.stat.getLsbD 3 ≠ g.nsrOf q ∧ (m 1).slot < (s.core 0).slots.length := by
  and_intros <;> decide

/-- Address words: slot 14 and register 31 of core 0; slot 15; core 1, which the lea does not have; class 63. -/
theorem witness_MessageInstructions :
    let s := st [(1, 0x1F0E0000), (2, 0x0F0000), (3, 1), (4, 0x3F0000), (5, 2 ^ 32 - 1)]
    s.Reads [1, 5] [3] ∧ s.exchangeFlits s.cur.1 s.me.lea < 16 ∧ (∀ k ∈ [1, 2, 3, 4, 5, 6, 7, 8, 9], (s.w k).bad = false)
    ∧ ((s.w 1).val &&& ~~~0x1F0F07FF#64) = 0 ∧ (s.w 1).val.toNat / 2 ^ 16 % 16 ≠ 15 ∧ (s.w 1).val.toNat % 2048 < s.leal
    ∧ ((s.w 2).val &&& ~~~0x1F0F07FF#64) = 0 ∧ (s.w 2).val.toNat / 2 ^ 16 % 16 = 15
    ∧ ((s.w 3).val &&& ~~~0x1F0F07FF#64) = 0 ∧ (s.w 3).val.toNat / 2 ^ 16 % 16 ≠ 15 ∧ s.leal ≤ (s.w 3).val.toNat % 2048
    ∧ s.Reads (4 :: [6, 7, 8, 9]) [3] ∧ ((s.w 4).val &&& ~~~0x3F07FF#64) = 0 ∧ (s.w 4).val.toNat / 2 ^ 16 % 64 = 63
    ∧ (s.w 4).val.toNat % 2048 < s.leal ∧ s.Reads [] [3] ∧ s.myCore.lea = s.me.lea ∧ s.Reads [3] [3] ∧ s.in15 = false
    ∧ s.Reads [5] [3] ∧ (s.w 5).val.toNat < 2 ^ 32
    ∧ (exchangeFull s).Reads (4 :: [6, 7, 8, 9]) [3] ∧ 16 ≤ (exchangeFull s).exchangeFlits s.cur.1 s.me.lea := by and_intros <;> decide

/-- Deposits to a slot with a thread and without one, with NSR that agrees and not, to an empty and to a full word; at a core
that another lea holds. -/
theorem witness_Deposits :
    let m (slot : Nat) (nsr : Bool) := mailFor 0 true (.deposit ⟨5, false⟩ slot 3 nsr)
    let k := mailFor 0 true (.ack 0 0)
    let s (m : Mail) : State := { d0 with mail := [m] }
    let x := (s (m 0 true)).slot 0 0
    let a := workFlat 0 0 (x.desc.seg 0) (x.desc.wp.toNat + 8 * 3)
    (s (m 0 true)).mailOf 0 = some (m 0 true) ∧ (s (m 0 true)).arrives (m 0 true) = true ∧ (s (m 0 true)).holds 0 0 = true
    ∧ (({ s (m 0 true) with cores := [] } : State).holds 0 0) = false ∧ x.run ≠ .absent ∧ x.lea = some 0 ∧ x.desc.stat.getLsbD 3 = true
    ∧ ((s (m 1 true)).slot 0 1).run = .absent ∧ ((s (m 0 true)).markWord a .empty).mem.feOf a = some .empty
    ∧ (s (m 0 true)).mem.feOf a ≠ some .empty
    ∧ ({ d0 with mail := [k] } : State).lateMail k = false ∧ ({ d0 with mail := [k] } : State).mailOf 0 = some k
    ∧ ({ d0 with mail := [k] } : State).arrives k = true := by
  and_intros <;> decide

/-- Slot 15 with a message thread, Parked and idle; class 1 with a valid entry and class 2 without. -/
def msgCore (s : State) : State :=
  s.modCore 0 (fun c => { c.modSlot 15 (fun _ => { thread with run := .parked, tid := 2 }) with classes := [(1, 0x8000000000000000)] })

theorem witness_ActiveMessages :
    let m (cls : Nat) (r : Bool) := mailFor 0 true (.am cls [⟨1, false⟩, ⟨2, false⟩, ⟨3, false⟩, ⟨4, false⟩] true r)
    let s (m : Mail) : State := { msgCore d0 with mail := [m] }
    let full := (s (m 1 false)).modCore 0 (fun c => { c with mailbox := (List.range 16).map (fun i => ⟨i, [], 0, 1, none⟩) })
    let x := (s (m 1 false)).slot 0 15
    (s (m 1 true)).mailOf 0 = some (m 1 true) ∧ (s (m 1 true)).arrives (m 1 true) = true ∧ (s (m 1 true)).holds 0 0 = true
    ∧ x.run ≠ .absent ∧ x.lea = some 0 ∧ x.desc.stat.getLsbD 3 = true ∧ (((s (m 1 false)).core 0).classEntry 1).getLsbD 63 = true
    ∧ (((s (m 2 false)).core 0).classEntry 2).getLsbD 63 = false ∧ ((s (m 1 false)).core 0).freeEntry 1000 = some 0
    ∧ (full.core 0).freeEntry 1000 = none ∧ (full.modCore 0 (fun c => { c with mailbox := c.mailbox.drop 1, freed := some (0, 1000) })).cycle 0 = 1000
    ∧ (((full.modCore 0 (fun c => { c with mailbox := c.mailbox.drop 1, freed := some (0, 1000) })).core 0).freeEntry 1000) = none
    ∧ (withOut d0 17 .reply).out 0 = some (outOf 0 .reply) ∧ d0.out 0 = none
    ∧ ({ d0 with mail := [mailFor 0 true (.amAck 0 0)] } : State).arrives (mailFor 0 true (.amAck 0 0)) = true
    ∧ ({ d0 with mail := [mailFor 0 true (.amAck 0 0)] } : State).lateMail (mailFor 0 true (.amAck 0 0)) = false
    ∧ ({ d0 with mail := [mailFor 0 true (.reply ⟨9, false⟩ 0)] } : State).lateMail (mailFor 0 true (.reply ⟨9, false⟩ 0)) = false := by and_intros <;> decide

/-- An idle slot 15 with a record, with a message alone, and with a fault; a record whose thread is quiet; a time that has come. -/
theorem witness_HandlersAndRecords :
    let s := msgCore d0
    let c := s.core 0
    let r : Record := ⟨0, 0, 0, 0, 3⟩
    let e : MbxEntry := ⟨0, [], 0, 1, none⟩
    let h : Handler := ⟨1, some 0, none, 0x1200, none⟩
    let k : Handler := { h with reply := some (5, 0) }
    let p := d0.modSlot 0 0 (fun x => { x with record := [(1, 1, r)] })
    let busy := withOut p 17 (.access (accOf .store 3 (partOf .sent none)))
    let late : State := { d0 with now := 8192 }
    let b := d0.modSlot 0 0 (fun x => { x with run := .parked, wait := .backoff 0 0 8 })
    let f := s.modCore 0 (fun c => { c with fault15 := some 0x20 })
    let t := { s.modCore 0 (fun c => { c with handler := some h }) with cur := (0, 15) }
    (c.slot 15).run = .parked ∧ c.handler = none ∧ (c.slot 15).lea = c.lea ∧ (c.slot 15).stopped = none ∧ (c.slot 15).vacated = false
    ∧ c.fault15 = none ∧ c.handover = none ∧ firstRecord [⟨0, 0, 0, 0, 15⟩, r] = some r ∧ c.trapFile = []
    ∧ ({ c with mailbox := [e] }).mailbox = e :: [] ∧ ({ c with handler := some h }).handler.isSome = true
    ∧ (p.core 0).trapFile.any (fun r => r.place == 0) = false ∧ ((p.core 0).slot 0).record = (1, 1, r) :: [] ∧ p.quietTo 1 1 = true
    ∧ busy.quietTo 1 1 = false ∧ ((busy.core 0).slot 0).record = (1, 1, r) :: [] ∧ (p.core 0).handover = none
    ∧ (({ c with headRecords := [(0, r)] } : Core).headRecords.find? (fun r => some r.1 == c.lea)) = some (0, r)
    ∧ (b.slot 0 0).wait = .backoff 0 0 8 ∧ (b.slot 0 0).run = .parked ∧ (b.slot 0 0).away (b.core 0).lea = false
    ∧ 2 ^ 63 ≤ (b.guestTime (b.slot 0 0).lea - BitVec.ofNat 64 4096).toNat ∧ (late.now = 8192) ∧ (b.guestTime (b.slot 0 0).lea - BitVec.ofNat 64 0).toNat < 2 ^ 63
    ∧ (f.core 0).fault15 = some 0x20 ∧ (f.dropHeld 0 2 false).quiet 2 = true
    ∧ t.in15 = true ∧ t.myCore.handler = some h ∧ t.quiet t.me.tid = true ∧ t.Reads [0] [] ∧ wpOk (t.seg 0) h.wp0.toNat = true
    ∧ wpOk (t.seg 0) 0x1204 = false ∧ (withOut t 17 (.compute [] none 2000)).quiet 1 = false ∧ (c.fault15 = none) ∧ k.reply ≠ none ∧ h.reply = none ∧ d0.in15 = false ∧ d0.myCore.handler = none := by
  and_intros <;> decide

/-- A packet at 0x100 of the pool, for queue 63 and for queue 64; a token of 16 bits. -/
theorem witness_TaskInstructions :
    let s := st [(1, 0x100), (2, 63), (3, 64), (4, 0xFFFF)]
    let g := inGang { s with leas := [(0, { lea0 with tokens := [(7, (0, .pending)), (5, (0, .pending))] })] } gang1
    s.Reads [1, 2] [5] ∧ s.exchangeFlits s.cur.1 s.me.lea < 16 ∧ (s.w 1).bad = false ∧ (s.w 2).bad = false
    ∧ segFail (s.seg 1) (s.extent (s.seg 1).space) 0x100 64 [.r] [1, 2] = none ∧ (s.w 2).val.toNat < 64 ∧ 64 ≤ (s.w 3).val.toNat
    ∧ s.flat 0 0 (some 0) (s.seg 1).space ((s.seg 1).base.toNat + 0x100) = some (lsOrigin + 0x80100)
    ∧ s.ownStorePending (lsOrigin + 0x80100) 64 = false ∧ s.Clean ((List.range 8).map (fun i => lsOrigin + 0x80100 + 8 * i))
    ∧ s.Reads [4] [5] ∧ (s.w 4).val.toNat < 2 ^ 16 ∧ s.in15 = false ∧ s.myGang = none
    ∧ g.myGang = some gang1 ∧ packetOwn gang1.packet = 7 ∧ g.predsDone g.me = false ∧ s.predsDone s.me = true
    ∧ gang1.packet.length = 8 ∧ keyFind [(7, (0, TokState.pending))] (packetOwn gang1.packet % 4096) = some (packetOwn gang1.packet / 4096, .pending)
    ∧ packetOwn (gang1.packet.set 7 0) = 0 ∧ 2 ^ 16 ≤ (0x10000#64).toNat ∧ ((s.seg 1).space = 2 → s.myCore.lea = s.me.lea)
    ∧ { s with cur := (0, 15) }.in15 = true := by and_intros <;> decide

/-- A good packet for one core; one with a reserved bit; one whose own token is pending; a queue of 256 packets. -/
theorem witness_Enqueue :
    let p (own : Word) : List Word := [0x40, 0x0100100000000000, 0, 0, 0, 0, 0, own]
    let l (q : TaskQueue) : Lea := { lea0 with queues := [(0, q)], tokens := [(7, (0, .pending)), (8, (0, .retired))] }
    let e : TaskQueue := ⟨[], 0, false⟩
    packetBad (l e).leal ((p 0).set 1 0x0100100000000010) = true ∧ packetBad (l e).leal (p 7) = false ∧ packetOwn (p 7) = 7
    ∧ (l e).ownBad 7 = true ∧ (l e).ownBad 8 = true ∧ (l e).ownBad 0x1008 = false ∧ packetBad (l e).leal (p 0x1008) = false
    ∧ ((l { e with off := true }).queue 0).off = true
    ∧ 256 ≤ ((l { e with packets := List.replicate 256 (0, []) }).queue 0).packets.length
    ∧ ((l { e with packets := List.replicate 255 (0, []) }).queue 0).packets.length < 256 := by decide

/-- Packets, dispatch at a tide boundary and past it, a yield and an exit that may end, and the watchdog at its limit. -/
theorem witness_TaskEvents :
    let m := mailFor 0 true (.packet 63 gang1.packet)
    let a := mailFor 0 true (.packetAck 0 0)
    let x := d0.modSlot 0 0 (fun x => { x with run := .parked, wait := .exit })
    let h := d0.modSlot 0 0 (fun x => { x with run := .halted, wait := .exit })
    let y := d0.modSlot 0 0 (fun x => { x with hold := .turn0 1008 })
    let e : State := { inGang d0 { gang1 with idle := 3, expired := true } with leas := [(0, { lea0 with wdlim := 3 })] }
    let g := inGang d0 { gang1 with idle := 3, members := [⟨0, 0, 0, 0, true, 0, none⟩] }
    let w : State := { inGang d0 { gang1 with idle := 3 } with leas := [(0, { lea0 with wdlim := 3 })] }
    d0.lea 0 = some lea0 ∧ ({ d0 with mail := [m] } : State).mailOf 0 = some m ∧ ({ d0 with now := 12, mail := [m] } : State).arrives m = true
    ∧ ({ d0 with mail := [a] } : State).arrives a = true ∧ ({ d0 with mail := [a] } : State).mailOf 0 = some a
    ∧ ({ d0 with mail := [a] } : State).lateMail a = false
    ∧ d0.now % 4096 = 0 ∧ ({ d0 with now := 4097 } : State).now % 4096 ≠ 0 ∧ (y.slot 0 0).hold = .turn0 1008
    ∧ (x.slot 0 0).run = .parked ∧ (x.slot 0 0).wait = .exit ∧ x.quiet (x.slot 0 0).tid = true ∧ (x.slot 0 0).stopped = none
    ∧ (x.slot 0 0).claimed = none ∧ (withOut x 17 (.compute [] none 2000)).quiet (x.slot 0 0).tid = false
    ∧ (h.slot 0 0).run = .halted ∧ (h.slot 0 0).wait = .exit ∧ (h.slot 0 0).debugHalt = none ∧ h.quiet (h.slot 0 0).tid = true
    ∧ ({ w with now := 4096 } : State).now % 4096 = 0 ∧ gang1.watched < ({ w with now := 4096 } : State).tide ∧ w.tide ≤ gang1.watched
    ∧ e.gang 0 0 = some { gang1 with idle := 3, expired := true } ∧ gang1.expired = false ∧ e.now % 4096 = 0 ∧ g.gangDone { gang1 with idle := 3, members := [⟨0, 0, 0, 0, true, 0, none⟩] } = true
    ∧ (inGang d0 gang1).gangDone gang1 = false ∧ packetOwn gang1.packet ≠ 0
    ∧ w.gang 0 0 = some { gang1 with idle := 3 } ∧ w.lea 0 = some { lea0 with wdlim := 3 } ∧ (3 ≠ 0) ∧ lea0.wdlim = 0
    ∧ (gang1.member 0).isSome = true
    ∧ ({ d0 with now := 5, cycles := [1008] } : State).cycle 0 = 1008 := by and_intros <;> decide

/-- Two slots and the whole of the pool, on a core whose lea has templates for slots 3 and 5. -/
theorem witness_Placement :
    let t : Template := ⟨0, []⟩
    d0.fitsCore { lea0 with templates := [(3, t), (5, t)] } 0 2 256 = some ([3, 5], 0)
    ∧ d0.fitsCore { lea0 with templates := [(3, t), (5, t)] } 0 1 0 = some ([3], 0) := by decide

/-- A context of a group of two, of which core 0 has rank 0. -/
def dor (state : DState) : Dorent := { Dorent.reset with gid := 0, state := state, recs := [⟨0, 0, some 0, 2, true, [0, 1]⟩] }

/-- The state with that context. -/
def withDor (s : State) (d : Dorent) : State := s.modCore 0 (fun c => { c with dorent := d })

/-- COLLD of 1 word and of 512, and of 0 and of 513; COLRUN of a launch block of zeros. -/
theorem witness_DorentLaunch :
    let s := withDor (st [(1, 0x100), (2, 512), (3, 513), (4, 0), (5, 1)]) (dor .loaded)
    let r := withDor (st [(1, 0x100)]) (dor .running)
    let w (i : Nat) : Word := BitVec.ofNat 64 (s.mem.read (lsOrigin + 0x80100 + 8 * i) 8)
    let busy := withDor (withOut (st [(1, 0x100)]) 17 (.access (accOf .store 3 (partOf .sent none)))) (dor .loaded)
    let kept := s.modMe (fun x => { x with launch := some (List.replicate 32 0) })
    let copying := withDor (st [(1, 0x100)]) { dor .loaded with copy := some ⟨1, 2, 0, d0.seg 1, 0, 1, 0, none, none⟩ }
    let away := s.modCore 0 (fun c => { c with lea := none })
    let left := withDor (st [(1, 0x100)]) (dor .left)
    s.myCore.lea = s.me.lea ∧ s.Reads [1, 2] [] ∧ s.myCore.dorent.copy = none ∧ (s.w 1).bad = false ∧ (s.w 2).bad = false
    ∧ (s.w 2).val.toNat = 512 ∧ 512 < (s.w 3).val.toNat ∧ (s.w 4).val.toNat = 0 ∧ (s.w 5).val.toNat = 1 ∧ 0x100 % 8 = 0
    ∧ segFail (s.seg 1) (s.extent (s.seg 1).space) 0x100 (8 * 512) [.r] [1, 2, 3, 4, 7] = none
    ∧ segFail (s.seg 7) (s.extent (s.seg 7).space) 0x100 (8 * 1) [.x] [1, 2, 3, 4, 7] = none
    ∧ s.myCore.dorent.state ≠ .running ∧ r.myCore.dorent.state = .running ∧ s.Reads [] [3]
    ∧ segFail (s.seg 1) (s.extent (s.seg 1).space) 0x100 256 [.r] [1, 2] = none ∧ 0x100 % 256 = 0 ∧ s.myCore.dorent.state = .loaded
    ∧ s.flat 0 0 (some 0) (s.seg 1).space ((s.seg 1).base.toNat + 0x100) = some (lsOrigin + 0x80100)
    ∧ s.ownStorePending (lsOrigin + 0x80100) 256 = false ∧ s.Clean ((List.range 32).map (fun i => lsOrigin + 0x80100 + 8 * i))
    ∧ s.launchBad w = false ∧ s.myCore.dorent.record ((w 0).toNat % 2 ^ 16) = some ⟨0, 0, some 0, 2, true, [0, 1]⟩
    ∧ (w 1).getLsbD 16 = false ∧ s.nsr = true ∧ (List.range 8).findSome? (s.bufFail w) = none
    ∧ s.accessesDone false = true ∧ busy.accessesDone false = false ∧ left.myCore.dorent.state = .left
    ∧ away.myCore.lea ≠ away.me.lea ∧ away.Reads [1, 2] [] ∧ away.Reads [] [3] ∧ copying.myCore.dorent.copy ≠ none
    ∧ s.me.launch = none ∧ kept.me.launch = some (List.replicate 32 0) ∧ kept.myCore.dorent.state = .loaded
    ∧ (List.range 8).findSome? (kept.bufFail (fun i => (List.replicate 32 (0 : Word)).getD i 0)) = none
    ∧ kept.accessesDone false = true ∧ kept.myCore.dorent.copy = none := by and_intros <;> decide

/-- A Running context, of a member and of one that has left; a loop at its last turn; a counter at its threshold and below. -/
theorem witness_DorentRegisters :
    let d := { dor .running with q := (List.replicate 16 0).set 1 1, n := (List.replicate 8 0).set 7 5 }
    let s := withDor d0 d
    let l := withDor d0 { d with recs := [⟨0, 0, none, 2, true, [1]⟩] }
    (s.dor 0).state = .running ∧ (s.dor 0).park = none ∧ (s.dor 0).mine = some ⟨0, 0, some 0, 2, true, [0, 1]⟩
    ∧ (l.dor 0).mine = some ⟨0, 0, none, 2, true, [1]⟩ ∧ (s.dor 0).qv 1 - 1 = 0 ∧ (s.dor 0).qv 0 = 0 ∧ (s.dor 0).ops.length < 8
    ∧ (5 : BitVec 32) ≤ (s.dor 0).n.getD 7 0 ∧ (s.dor 0).n.getD 7 0 < (6 : BitVec 32) ∧ (s.dor 0).wait = .none ∧ (s.dor 0).ops = []
    ∧ (1 : BitVec 7) ≠ 0 ∧ s.exchangeFlits 0 (some 0) < 16 ∧ 16 ≤ (exchangeFull s).exchangeFlits 0 (some 0)
    ∧ ((exchangeFull s).dor 0).ops = [] ∧ ((exchangeFull s).dor 0).state = .running := by and_intros <;> decide

/-- Buffers 0 and 1 of 64 bytes; channel 0 to rank 1, channel 1 down, channel 2 unbound, channel 3 nil; tree record 0. -/
def dorBound : Dorent :=
  { dor .running with
    bufs := [some ⟨0, 2, 0, 0, 64, 1, 0⟩, some ⟨0, 2, 0, 0x1000, 64, 1, 0x1000⟩, none, none, none, none, none, none]
    chans := [.bound 1 true 0 0 true, .bound 1 true 0 0 false, .unbound, .nil true, .bound 1 false 1 0 true, .unbound, .unbound, .unbound]
    trees := [some ⟨some 1, [none, none, none, none], false, 0, 2, true⟩, none, none, none]
    q := (List.replicate 16 0).set 1 0xFFFFFFFFFFFFFFFF }

theorem witness_DorentTransfers :
    let s := withDor d0 dorBound
    let d := s.dor 0
    d.state = .running ∧ d.park = none ∧ d.mine = some ⟨0, 0, some 0, 2, true, [0, 1]⟩
    ∧ s.mustWait 0 d 0 0 0 64 0 0 0 = false ∧ d.chunkBad 0 0 64 = false ∧ d.chunkBad 0 0 68 = true ∧ s.mustWait 0 d 0 0 0 68 0 0 0 = false
    ∧ d.chans.getD 0 .unbound = .bound 1 true 0 0 true ∧ d.chans.getD 1 .unbound = .bound 1 true 0 0 false
    ∧ d.chans.getD 2 .unbound = .unbound ∧ d.chans.getD 3 .unbound = .nil true
    ∧ s.mustWait 0 d 1 0 0 64 4 0 0 = false ∧ d.chans.getD 4 .unbound = .bound 1 false 1 0 true
    ∧ s.mustWait 0 d 2 0 0 64 0 1 0 = false ∧ d.chunkBad 1 0 64 = false ∧ s.mustWait 0 d 2 0 0 64 0 0 0 = false
    ∧ s.mustWait 0 d 3 0 0 64 0 0 0 = false ∧ d.trees.getD 0 none = some ⟨some 1, [none, none, none, none], false, 0, 2, true⟩
    ∧ (d.bufs.getD 0 none).any (fun b => b.fmt == 6) = false ∧ d.ops.length < 8 ∧ d.wait = .none
    ∧ d.qv 0 ≠ 0xFFFFFFFFFFFFFFFF#64 ∧ (d.qv 0).toNat < 2 ∧ (1#16 ≠ 0) ∧ d.busyOn false 0 = false ∧ d.busyOn true 0 = false
    ∧ d.qv 1 = 0xFFFFFFFFFFFFFFFF#64 ∧ (d.qv 0).toNat / 256 % 256 < 2 := by and_intros <;> decide

/-- A rank that the group does not have. -/
theorem witness_DorentNoPeer :
    let d := { dor .running with q := List.replicate 16 2 }
    d.qv 0 ≠ 0xFFFFFFFFFFFFFFFF#64 ∧ 2 ≤ (d.qv 0).toNat := by decide

/-- The thread at user level. -/
def user (s : State) : State := s.modDesc (fun d => { d with stat := 0x008 })

/-- Indices at the ends of their ranges; flags owed; windows that fit and do not; rotations. -/
theorem witness_ControlRegisters :
    let s := st [(1, 0x1200), (2, 0x7FF8), (3, 0xFEDCBA9876543210), (4, 0)]
    let f := withOut s 17 (.compute [] (some 0) 2000)
    0x100 ≤ (0x100#12).toNat ∧ 0x010 ≤ (0x010#12).toNat ∧ (0x027#12).toNat ≤ 0x027 ∧ s.Reads [] [3] ∧ s.priv = true
    ∧ (user s).priv = false ∧ s.flagsOwed = false ∧ f.flagsOwed = true ∧ s.Reads [1] [] ∧ (s.w 1).bad = false
    ∧ windowOk (s.seg 0) 0x1200 256 = true ∧ windowOk (s.seg 0) 0x7FF8 256 = false ∧ s.myCore.lea = s.me.lea
    ∧ rotOk (s.w 3).val = true ∧ rotOk (s.w 4).val = false ∧ s.Reads [1, 2] [] ∧ 0 < (1#3).toNat ∧ (6#3).toNat < 7
    ∧ (s.myOuts.all (fun o => match o.work with
            | .access x => !x.acq || x.allDone
            | _ => true)) = true := by and_intros <;> decide

/-- Slot 1 Halted, slot 2 Absent with a context-area entry, slot 3 with a thread. -/
def sys (l : List (Nat × Nat)) : State :=
  ((st l).modSlot 0 1 (fun _ => { thread with run := .halted, tid := 3 })).modSlot 0 3 (fun _ => { thread with tid := 4 })

/-- ERET of slot 1; CTXLD of slot 2 from a descriptor and from an entry; PREEMPT of slot 3, kept and dropped. -/
theorem witness_SystemInstructions :
    let s := sys [(1, 1), (2, 0x40), (3, 3), (4, 0x103), (5, 0x102), (6, 0x80100), (7, 2), (8, 0)]
    let p : State := { s with mem := s.mem.putWord (lsOrigin + 0x80100) ⟨0, true⟩ }
    let q := s.modSlot 0 1 (fun x => { x with record := [(3, 1, ⟨0, 0, 0, 0, 1⟩), (3, 1, ⟨0, 0, 0, 0, 1⟩)] })
    let b : State := { s with dbg := { s.dbg with brkcap := true, lea := some 0 } }
    let e : CtxEntry := ⟨2, none, 0, 0, 0, Desc.reset, 0, ⟨.none, .ready, 5, .none, none, 0, none, 0⟩⟩
    let c := s.modCore 0 (fun c => { c with ctx := [((0, 0), e)] })
    let k (n : Nat) : Nat := (s.w n).val.toNat % 16
    s.dbg.brkcap = false ∧ s.cur.2 ≠ 15 ∧ s.Reads [1] [] ∧ (s.w 1).bad = false ∧ (user s).priv = false ∧ s.priv = true
    ∧ s.Reads [1, 2] [] ∧ (s.w 2).bad = false ∧ s.accessesDone false = true ∧ (s.w 1).val &&& ~~~0x30F#64 = 0 ∧ k 1 ≠ 15
    ∧ (s.slot 0 (k 1)).run = .halted ∧ (s.slot 0 (k 1)).lea = s.me.lea ∧ (s.slot 0 (k 1)).debugHalt = none
    ∧ (s.slot 0 (k 1)).wait ≠ .exit ∧ (s.slot 0 (k 1)).recordWaits (s.myCore.trapFile.any (fun r => r.place == k 1)) = false
    ∧ (q.slot 0 (k 1)).recordWaits (q.myCore.trapFile.any (fun r => r.place == k 1)) = true ∧ (s.w 2).val.getLsbD 0 = false
    ∧ b.dbg.brkcap = true ∧ b.dbg.lea ≠ none ∧ b.dbg.lea = b.me.lea ∧ ({ s with cur := (0, 15) } : State).cur.2 = 15
    ∧ s.accessesDone true = true ∧ (s.w 1).val &&& ~~~0x107#64 = 0 ∧ (s.w 1).val.getLsbD 8 = false
    ∧ (0x107#64) &&& ~~~0x107#64 = 0 ∧ (0x107#64).getLsbD 8 = true
    ∧ (s.w 5).val &&& ~~~0x10F#64 = 0 ∧ (s.slot 0 (k 5)).run = .absent ∧ (s.slot 0 (k 5)).claimed = none
    ∧ (s.slot 0 (k 5)).loading = none ∧ s.myCore.lea = s.me.lea ∧ (s.w 5).val.getLsbD 8 = true
    ∧ tdpFail (k 5) (s.w 6).val.toNat = none ∧ (p.descPoison 0 (p.w 6).val.toNat).isSome = true
    ∧ (s.w 7).val.getLsbD 8 = false ∧ (s.w 8).val.getLsbD 11 = false ∧ c.myCore.ctx.find? (fun q => q.1 == (0, 0 % 2048)) = some ((0, 0), e)
    ∧ e.slot = k 7 ∧ c.myCore.ctxGen = [] ∧ (s.w 8).val.toNat / 4096 % 16 = 0
    ∧ s.Reads [3] [2] ∧ (s.w 3).val &&& ~~~0x10F#64 = 0 ∧ k 3 ≠ 15 ∧ k 3 ≠ s.cur.2 ∧ (s.slot 0 (k 3)).run ≠ .absent
    ∧ (s.slot 0 (k 3)).lea = s.me.lea ∧ (s.slot 0 (k 3)).claimed = none ∧ (s.slot 0 (k 3)).loading = none
    ∧ (s.w 4).val &&& ~~~0x10F#64 = 0 ∧ (s.w 4).val.getLsbD 8 = true ∧ s.myCore.freeCtx 0 = some 0 := by and_intros <;> decide

/-- ROTSET of the identity; RESUME of the Dorent unit, 3 in bits [6:4]; CWR of TDP with the present one. -/
theorem witness_RotsetResumeTdp :
    let s := st [(1, 0xFEDCBA9876543210), (2, 0x30), (3, 0)]
    s.priv = true ∧ s.Reads [1] [4] ∧ (s.w 1).bad = false ∧ rotOk (s.w 1).val = true ∧ (s.w 2).val &&& ~~~0x7F#64 = 0
    ∧ (s.w 2).val.toNat / 16 % 8 = 3 ∧ (s.w 2).val.toNat % 16 = 0 ∧ tdpFail s.cur.2 (s.w 3).val.toNat = none
    ∧ (s.w 3).val = s.me.tdp := by decide

/-- The events of a thread that may be due, each at its boundary. -/
theorem witness_SystemEvents :
    let m (f : Slot → Slot) := d0.modSlot 0 0 f
    let w := m (fun x => { x with run := .parked, wait := .time 0 })
    let h := m (fun x => { x with hold := .switching 0x80100 })
    let t := m (fun x => { x with hold := .tlb 0 false 0 })
    let c := m (fun x => { x with claimed := some (1, lsOrigin + 0x9218, none), stopped := some 900 })
    let l := m (fun x => { x with loading := some (1, 0x80100, none) })
    let r := { d0 with cycles := List.replicate 16 1008 }.modCore 0 (fun c => { c with rotNext := some rotIdentity })
    let q := r.modCore 0 (fun c => { c with handover := some ⟨0, 1008, some 0, 1, some rotIdentity, [], [], []⟩ })
    let g : State := { d0 with leas := [(0, { lea0 with gtoffNext := some (5, 3) })] }
    0 < (d0.core 0).slots.length ∧ (w.slot 0 0).wait = .time 0 ∧ (w.slot 0 0).run = .parked
    ∧ (h.slot 0 0).hold = .switching 0x80100 ∧ (h.slot 0 0).claimed = none ∧ (h.slot 0 0).stopped = none ∧ (h.slot 0 0).owedTrap = none
    ∧ (t.slot 0 0).hold = .tlb 0 false 0 ∧ (c.slot 0 0).claimed = some (1, lsOrigin + 0x9218, none) ∧ (c.slot 0 0).stopped = some 900
    ∧ c.leaveReady (c.slot 0 0) = true ∧ (c.core 0).handover = none ∧ (∀ n, n < 4 → (c.slot 0 0).hold ≠ .switching n)
    ∧ (l.slot 0 0).loading = some (1, 0x80100, none) ∧ (r.core 0).rotNext = some rotIdentity ∧ r.cycle 0 % 16 = 0 ∧ (r.core 0).mayRotate = true ∧ (q.core 0).mayRotate = false
    ∧ ({ g with now := 4096 } : State).tideSlot = 0 ∧ 3 < ({ g with now := 4096 } : State).now ∧ ({ g with now := 4095 } : State).tideSlot ≠ 0
    ∧ g.tideSlot = 0 ∧ g.now ≤ 3
    ∧ g.lea 0 = some { lea0 with gtoffNext := some (5, 3) } ∧ d0.resident 0 0 = false ∧ (paged d0).resident 0 0 = true := by
  and_intros <;> decide

/-- Core 0 in a handover from lea 0 to lea 1, at cycle 1008 of the core. -/
def handing (h : Handover) : State :=
  { d0 with cycles := List.replicate 16 1008 }.modCore 0 (fun c => { c with handover := some h })

/-- The handover after its t0. -/
def hand0 : Handover := ⟨0, 1008, some 0, 1, some rotIdentity, [], [], []⟩

/-- A throttled island's debt; a slice of another lea and of the same; slot 0 stopped, settled, saved and restored; the pool's
change; a result that comes after its slot was saved. -/
theorem witness_Slices :
    let z : IslandClock := ⟨24, 15, .thermal, 0, 0⟩
    let s := { d0 with islands := d0.islands.set 0 z }.modCore 0 (fun c => { c with sched := [(0, 16), (1, 65536)] })
    let p : IslandClock := ⟨48, 0, .islandPower, 226, 0⟩
    let b := d0.modCore 0 (fun c => { c with accrued := [0] })
    d0.lea 0 = some lea0 ∧ s.islands[islandOf 0]? = some z ∧ s.tideSlot = 0 ∧ lea0.cores.contains 0 = true
    ∧ (d0.islands[islandOf 0]?).map (fun k => k.cause) = some .free
    ∧ (s.core 0).sliceEnd ≤ s.now ∧ (s.core 0).handover = none ∧ s.dieUp (dieOf 0) = true
    ∧ (s.core 0).sched[((s.core 0).slice + 1) % (s.core 0).sched.length]? = some (1, 65536) ∧ (s.core 0).lea ≠ some 1
    ∧ (s.core 0).lea = some 0 ∧ (s.core 0).accrued.contains 0 = false ∧ (b.core 0).accrued.contains 0 = true
    ∧ d0.head.shares.getD 0 0 < p.draw ∧ ¬ (d0.head.shares.getD 0 0 < (225 : Nat)) ∧ (z.gate = 0 ∨ z.steps = 24)
    ∧ (∀ j, j < 16 → d0.tideDone j = true) ∧ d0.islands[0]? = some ⟨40, 0, .free, 0, 0⟩
    ∧ ((withOut s 4095 .rsem).tideSlot ≠ 0) := by and_intros <;> decide

theorem witness_Handover :
    let s := handing hand0
    let t := (handing { hand0 with stopped := [0] }).modSlot 0 0 (fun x => { x with stopped := some 688 })
    let u := t.modSlot 0 0 (fun x => { x with vacated := true })
    let v := handing { hand0 with stopped := [0], saved := [0] }
    let p := (handing { hand0 with out := none, saved := List.range 16 }).modSlot 0 0 (fun _ => Slot.reset)
    let late := (withOut d0 17 (.compute [] none 1000)).modCore 0 (fun c => { c with saves := [(0, ⟨[(0, ⟨thread, [], [], [], [], []⟩)], none, []⟩)] })
    let w := (handing { hand0 with stopped := [0], saved := [0] }).modCore 0 (fun c => { c with saves := [(1, ⟨[(0, ⟨thread, [], [], [], [], []⟩)], none, []⟩)] })
    (s.core 0).handover = some hand0 ∧ (s.core 0).slots.length = 16 ∧ hand0.rot = some rotIdentity ∧ hand0.t0 + 0 ≤ s.cycle 0 ∧ ({ hand0 with rot := none }).rot = none
    ∧ hand0.stopped.contains 0 = false ∧ ({ s with cycles := [1007] } : State).cycle 0 < hand0.t0
    ∧ (t.slot 0 0).stopped = some 688 ∧ (t.slot 0 0).vacated = false ∧ ¬ (t.cycle 0 < 688 + 320)
    ∧ t.outs.any (fun o => o.core == 0 && o.tid == (t.slot 0 0).tid && t.settles o) = false
    ∧ ({ hand0 with stopped := [0] }).stopped.contains 0 = true ∧ hand0.saved.contains 0 = false ∧ (u.slot 0 0).vacated = true
    ∧ v.dieUp (dieOf 0) = true ∧ v.outs = [] ∧ keyFind ((v.core 0).save 1).slots 0 = none ∧ hand0.restored.contains 0 = false
    ∧ hand0.restored.length < 15 ∧ keyFind ((w.core 0).save 1).slots 0 = some ⟨thread, [], [], [], [], []⟩ ∧ thread.waiting = false
    ∧ (List.range 16).contains 15 = true ∧ hand0.saved.contains 15 = false ∧ (handing { hand0 with saved := [15] }).core 0 ≠ Core.reset
    ∧ ((handing { hand0 with saved := [15] }).core 0).engine.active = none ∧ ((handing { hand0 with saved := [15] }).core 0).bay.port = none
    ∧ ((handing { hand0 with saved := [15] }).core 0).dorent.state ≠ .running ∧ (p.dieUp (dieOf 0) = true) ∧ (p.core 0).lea ≠ some 1 ∧ (p.core 0).dorent.copy = none
    ∧ ((p.core 0).save 1).pool = none ∧ p.lea 1 = none ∧ (∀ j, j < 16 → (p.slot 0 j).waiting = false)
    ∧ late.mailOf 0 = none ∧ late.isLate (outOf 0 (.compute [] none 1000)) = true ∧ 1000 ≤ late.cycle 0
    ∧ late.out 0 = some (outOf 0 (.compute [] none 1000)) := by
  and_intros <;> decide

/-- A request for channel 0 of a member to rank 0, itself. -/
def req0 : DReq := ⟨false, 0, true, 0, none, [], 1⟩

/-- A control message of core 0's context that has come to its own core. -/
def control (n : Nat) : Mail := mailFor 0 true (.control n)

/-- A circuit of lea 0's group 0 between cores 0 and 1. -/
def circ (phase : CircPhase) : Circuit :=
  { id := 5, change := 5, lea := 0, gid := 0, ver := 0, tree := false, src := 0, dst := 1, srcIdx := some 0, dstIdx := some 0, parent := none,
    kids := [], req := req0, rate := 1, reached := 0, phase := phase, granted := false, old := [] }

/-- A group with a member and no candidate, and one that a record of the lea has; a join and an unjoin that reach Harbour, with no
other request, with the other end's, and of a tree alone. -/
theorem witness_CircuitRequests :
    let said (w : DWaiting) (x : List Circuit) : State := { withDor d0 { dor .running with wait := w } with mail := [control 0], circuits := x }
    let s := said (.join req0 0 none) []
    let half : Circuit := { circ .asking with dst := 0, srcIdx := none }
    let tree : DReq := ⟨true, 1, false, 0, none, [none, none, none, none], 1⟩
    let u := said (.unjoin false 0 5 false) [circ .up]
    let r : DMember := ⟨0, 0, some 0, 2, true, [0, 1]⟩
    d0.lea 0 = some lea0 ∧ [0] ≠ [] ∧ (∀ i ∈ [0] ++ ([] : List Nat), i < lea0.leal)
    ∧ lea0.cores.all (fun c => (d0.recsOf 0 c).all (fun r => r.gid != 65535)) = true
    ∧ ((withDor d0 (dor .running)).recsOf 0 0).any (fun r => r.gid == 0) = true
    ∧ s.runningAt 0 = some (0, s.dor 0, r) ∧ (s.dor 0).wait = .join req0 0 none
    ∧ (s.heard 0 0 0 0).isSome = true ∧ (withDor d0 (dor .running)).heard 0 0 0 0 = none ∧ s.circuits = [] ∧ req0.tree = false ∧ req0.send = true
    ∧ half.phase = .asking ∧ half.src = 0 ∧ half.dst = (r.core req0.peer).getD 0 ∧ half.srcIdx = none ∧ half.dstIdx.isSome = true
    ∧ ((said (.join req0 0 none) [half]).runningAt 0).isSome = true ∧ half.ver = r.ver ∧ half.gid = (s.dor 0).gid
    ∧ tree.parent = none ∧ tree.kids = [none, none, none, none] ∧ ((said (.join tree 0 none) []).runningAt 0).isSome = true
    ∧ (u.runningAt 0).isSome = true ∧ u.circuits.find? (fun y => y.id == 5) = some (circ .up) := by
  and_intros <;> decide

/-- A change decided in the tide after it came, one refused, and one with a part missing; in force two tides later, with all of
its entries and with a die of its route not working; and a change gone. -/
theorem witness_Circuits :
    let r (bulk : Nat) (c : Circuit) : State := { d0 with now := 4096, leas := [(0, { lea0 with bulk := bulk })], circuits := [c] }
    let go := circ (.ready 0 0)
    let far : Circuit := { go with dst := 4 }
    let part : Circuit := { go with dstIdx := none }
    let at5 := circ (.decided 0 0)
    let w : State := { withDor d0 { dor .running with wait := .join req0 0 (some 5) } with now := 8192, circuits := [at5] }
    let lost : Circuit := { at5 with dst := 256 }
    let dead : State := { w with circuits := [lost], dies := w.dies.set 1 ⟨.reset, [], [], false⟩ }
    (r 1 go).circuits.find? (fun y => y.id == 5) = some go ∧ go.waits = some (0, 0) ∧ (r 1 go).tideSlot = 0 ∧ 0 < (r 1 go).tide
    ∧ (r 1 go).changesTaken 0 < 4 ∧ [go].all (r 1 go).whole = true ∧ (r 1 go).refuses 0 [go] = false
    ∧ (∀ x ∈ (r 1 go).circuits, ∀ q ∈ x.waits, q.1 < (r 1 go).tide → 0 ≤ q.2)
    ∧ [far].all (r 0 far).whole = true ∧ (r 0 far).refuses 0 [far] = true ∧ [part].all (r 1 part).whole = false
    ∧ (circ (.closing 0 0)).waits = some (0, 0) ∧ ({ r 1 go with now := 0 } : State).tide ≤ 0
    ∧ w.circuits.find? (fun y => y.id == 5) = some at5 ∧ (w.circuits.filter (fun x => x.tree == false && at5.with x)).all w.whole = true
    ∧ (w.circuits.filter (fun x => x.tree == false && at5.with x)).any (fun x => w.entriesLost x 0) = false
    ∧ (dead.circuits.filter (fun x => x.tree == false && lost.with x)).any (fun x => dead.entriesLost x 0) = true
    ∧ (dead.circuits.filter (fun x => x.tree == false && lost.with x)).all dead.whole = true
    ∧ w.tideSlot = 0 ∧ 0 + 2 ≤ w.tide ∧ at5.old = [] ∧ at5.tree = false
    ∧ ({ w with now := 4096 } : State).tide < 0 + 2 ∧ at5.src ≠ at5.dst ∧ ({ w with now := 4097 } : State).tideSlot ≠ 0
    ∧ (w.running 0 0 0).isSome = true ∧ (w.dor 0).wait = .join req0 0 (some 5) ∧ 0 < (w.dor 0).chans.length
    ∧ (circ (.refused 1 0)).phase = .refused 1 0 ∧ (circ (.closed 0 0)).phase = .closed 0 0 := by
  and_intros <;> decide

/-- COLLD's copy of a word of the pool; DCOPY of 64 bytes between the buffers; a signal on channel 0. -/
theorem witness_CollectiveData :
    let y : DCopy := ⟨0, 1, 0x40, d0.seg 1, 0x100, 1, 0, none, none⟩
    let s := withDor d0 { dor .loaded with copy := some y }
    let op (num kind : Nat) : DOp := { (dorBound.newOp kind 0 0 64 0 0 none) with num := num, sbuf := 1 }
    let t := withDor d0 { dorBound with ops := [op 0 2] }
    let x : Circuit := { circ .up with id := 0, dst := 0 }
    let g : State := { withDor d0 { dorBound with ops := [op 0 4] } with circuits := [x], mail := [control 1] }
    let first : Dorent := { dorBound with ops := [op 0 0, op 1 4] }
    let far : DCopy := { y with seg := d0.seg 3 }
    let page : State := { paged d0 with leas := [(0, { lea0 with s2 := [(0, 0x000400000020001F)], s1root := [(0, 0)] })] }
    let q := withDor page { dor .loaded with copy := some far }
    let held := withDor (withOut d0 17 (.access (accOf .store 2 (partOf .sent (some (lsOrigin + 0x80100))))))
      { dor .loaded with copy := some { y with id := 1 } }
    let waits := s.modSlot 0 0 (fun x => { x with run := .parked, wait := .colld })
    (s.core 0).lea = some 0 ∧ (s.dor 0).copy = some y ∧ y.parked = none ∧ s.copyWaits 0 0 y = false ∧ s.dieUp (dieOf 0) = true
    ∧ (match s.copyPlace 0 0 y 0 with
      | .at a => decide (a = lsOrigin + 0x80100)
      | _ => false) = true
    ∧ (t.runningAt 0).isSome = true ∧ (t.dor 0).park = none ∧ (t.dor 0).ops.find? (fun e => e.num == 0) = some (op 0 2)
    ∧ (t.dor 0).bufs.getD 1 none = some ⟨0, 2, 0, 0x1000, 64, 1, 0x1000⟩ ∧ (t.dor 0).bufs.getD 0 none = some ⟨0, 2, 0, 0, 64, 1, 0⟩
    ∧ (g.runningAt 0).isSome = true ∧ (g.dor 0).ops.find? (fun e => e.num == 0) = some (op 0 4)
    ∧ (g.dor 0).chans.getD 0 .unbound = .bound 1 true 0 0 true
    ∧ g.circuits.find? (fun y => y.id == 0) = some x ∧ (g.running x.dst 0 (g.dor 0).gid).isSome = true ∧ (g.heard 0 0 x.dst (0 + 1)).isSome = true
    ∧ (∀ e ∈ (g.dor 0).ops, e.kind = 0 → e.chan = 0 → 0 ≤ e.num) ∧ t.heard 0 0 0 1 = none ∧ (op 0 4).ctr < (g.dor x.dst).n.length
    ∧ (x.dst = 0 → (op 0 4).cnt = none) ∧ (∃ e ∈ first.ops, e.kind = 0 ∧ e.chan = (op 1 4).chan ∧ e.num < (op 1 4).num)
    ∧ held.copyWaits 0 0 { y with id := 1 } = true ∧ (q.dor 0).copy = some far ∧ q.copyWaits 0 0 far = false
    ∧ (match q.copyPlace 0 0 far 0 with
      | .page f => f == 0
      | _ => false) = true
    ∧ (waits.slot 0 y.slot).tid = y.tid ∧ (waits.slot 0 y.slot).wait = .colld ∧ y.slot < (waits.core 0).slots.length := by
  and_intros <;> decide

/-- A piece from a buffer with a poisoned word, and one to a buffer in commons; nothing delivered that waits. -/
theorem witness_Piece :
    let s := withDor { d0 with mem := d0.mem.setBad (lsOrigin + 0x81000) true } dorBound
    (∃ p ∈ s.bufRead 0 ⟨0, 2, 0, 0x1000, 64, 1, 0x1000⟩ 0 8, p.2 = true) ∧ (∀ e ∈ s.cores, e.2.dorent.late = [])
    ∧ (⟨0, 3, 0, 0, 64, 2, 0⟩ : DBuf).space = 3 ∧ (⟨0, 2, 0, 0, 64, 1, 0⟩ : DBuf).space ≠ 3 := by decide

/-- A transfer between two channels of one context, of equal lengths and of others; a reduction in a granted slot and in a
node of no grant; a piece of HBM that is not resident. -/
theorem witness_Transfers :
    let op (num kind len chan : Nat) : DOp := { (dorBound.newOp kind (1 - kind % 2) 0 len chan 0 none) with num := num }
    let d (n : Nat) : Dorent := { dorBound with
      recs := [⟨0, 0, some 0, 1, true, [0]⟩], chans := [.bound 0 true 5 1 true, .bound 0 false 5 1 true] ++ List.replicate 6 .unbound,
      ops := [op 0 0 8 0, op 1 1 n 1] }
    let s (n : Nat) : State := { withDor d0 (d n) with now := 16, circuits := [{ circ .up with dst := 0, dstIdx := some 1 }] }
    let r (g : Bool) : State := { withDor d0 { dorBound with
      trees := [some ⟨some 1, [none, none, none, none], g, 1, 2, true⟩, none, none, none], ops := [op 0 3 8 0] } with now := 16 }
    let p (bad : List Nat) := withDor { paged d0 with leas := [(0, { lea0 with s2 := [(0, 0x000400000020001F)], s1root := [(0, 0)], s2bad := bad })] }
      { dorBound with bufs := [some ⟨0, 4, 0, 0, 64, 3, 0⟩] ++ List.replicate 7 none, ops := [op 0 3 8 0],
                      trees := [some ⟨some 1, [none, none, none, none], false, 1, 2, true⟩, none, none, none] }
    (s 8).tideSlot = 16 ∧ (s 8).pairOf 0 (d 8) (op 0 0 8 0) = some (0, op 0 0 8 0, 0, op 1 1 8 1)
    ∧ (s 16).pairOf 0 (d 16) (op 0 0 8 0) = some (0, op 0 0 8 0, 0, op 1 1 16 1)
    ∧ (s 8).pieceReady 0 ⟨0, 2, 0, 0x1000, 64, 1, 0x1000⟩ 0 0 ⟨0, 2, 0, 0, 64, 1, 0⟩ 0 8 = true
    ∧ ((s 8).flowPiece 0 none ((s 8).pieceUnits 0 ⟨0, 2, 0, 0x1000, 64, 1, 0x1000⟩ 0 8) ((s 8).pieceUnits 0 ⟨0, 2, 0, 0, 64, 1, 0⟩ 0 8) 0 0).2.2
      = true
    ∧ ({ s 8 with now := 15 } : State).tideSlot < 16
    ∧ ((r true).dor 0).firstRed 0 = some (op 0 3 8 0) ∧ (((r true).dor 0).trees.getD 0 none).any (fun t => t.granted) = true
    ∧ (((r false).dor 0).trees.getD 0 none).any (fun t => t.granted) = false
    ∧ (match ((p []).dor 0).ops.findSome? ((p []).dHeld 0 ((p []).dor 0)) with
      | some (0, .page f) => f == 0
      | _ => false) = true
    ∧ (match ((p [0]).dor 0).ops.findSome? ((p [0]).dHeld 0 ((p [0]).dor 0)) with
      | some (0, .fault _) => true
      | _ => false) = true
    ∧ ((r true).dor 0).ops.findSome? ((r true).dHeld 0 ((r true).dor 0)) = none ∧ ((p []).dor 0).park = none := by and_intros <;> decide

/-- Waits of a context, before and at their limits of 3 tides, and a round of agreement. -/
theorem witness_CollectiveWaits :
    let r : DMember := ⟨0, 0, some 0, 1, true, [0]⟩
    let d (w : DWaiting) : Dorent := { dor .running with recs := [r], wait := w, tmo := 3 }
    let s (tide : Nat) (w : DWaiting) (l : List Nat := [0]) : State :=
      { withDor d0 (d w) with now := 4096 * tide, mail := [control 0, { mailFor 1 true (.decision 0 0 l 7) with id := 1 }] }
    let late (t : Nat) (w : DWaiting) : Bool := decide (3 ≤ (s t w).tide - 0 - ((s t w).dor 0).parkedTides)
    let ag (sent : Bool) (i : Option Nat) : DWaiting := .agree 0 2 0 true 5 sent i
    let a (dec : Option (List Nat × Nat)) : Agreement := ⟨0, 0, 0, 0, [(0, true)], [], dec⟩
    let v : State := { s 5 (ag true none) with agreements := [a none] }
    (∀ w ∈ [.count 7 5 0 3 none, .barrier 1 0 3 (some 9), .join req0 0 none, .closing 0], ((s 2 w).runningAt 0).isSome = true
      ∧ late 2 w = false ∧ late 3 w = true)
    ∧ r.list.all ((s 3 (.barrier 1 0 3 none)).atBarrier 0 0 r) = true ∧ r.list.all ((s 3 (.closing 0)).atBarrier 0 0 r) = true
    ∧ lea0.cores.Nodup ∧ ((s 5 (ag false none)).heard 0 0 (r.coord 0) 0).isSome = true ∧ (s 5 (ag true none)).told 0 0 0 (r.coord 0) 0 = some ([0], 7)
    ∧ (withDor d0 (d (ag true none))).told 0 0 0 (r.coord 0) 0 = none ∧ (withDor d0 (d (ag false none))).heard 0 0 (r.coord 0) 0 = none
    ∧ (∃ x ∈ ({ s 3 (.join req0 0 (some 5)) with circuits := [circ .asking] }).circuits, some 5 = some x.id ∧ x.phase = .asking)
    ∧ ((d (.count 7 5 0 3 none)).n.getD 7 0).toNat < 5 ∧ (s 3 (.closing 0)).lea 0 = some lea0 ∧ lea0.cores = [0]
    ∧ (s 3 (.barrier 1 0 3 none)).allIn 0 0 r (fun w => match w with
        | .barrier i _ _ _ => i == 1
        | _ => false) = true
    ∧ (s 3 (.closing 0)).allIn 0 0 r (fun w => match w with
        | .closing _ => true
        | _ => false) = true
    ∧ r.coord 0 = 0 ∧ ((s 5 (ag false none)).dor 0).record 0 = some r ∧ (s 5 (ag false none)).agreements = []
    ∧ (∀ m ∈ r.list, ∃ q ∈ (a none).votes, q.1 = m) ∧ v.agreements = [a none] ∧ (a none).decision = none
    ∧ (s 5 (ag true none) [1]).told 0 0 0 (r.coord 0) 0 = some ([1], 7) ∧ (s 5 (ag true (some 7))).told 0 0 0 (r.coord 0) 0 = some ([0], 7) := by
  and_intros <;> decide

/-- A round with no vote of the coordinator's member yet, before its deadline; a peer with a later version. -/
theorem witness_AgreementOpen :
    let r : DMember := ⟨0, 0, some 0, 2, true, [0, 1]⟩
    let d := { dor .running with wait := .agree 0 2 0 true 5 true none }
    let s := ({ withDor d0 d with agreements := [⟨0, 0, 0, 0, [(0, true)], [], none⟩] }).modCore 1 (fun c =>
      { c with lea := some 0, dorent := { dor .running with recs := [⟨0, 1, some 0, 1, true, [1]⟩] } })
    let m (sent : Bool) : Mail := { mailFor 2 sent (.record 0 1 [1]) with src := 1 }
    (s.dor 0).mine = some r ∧ (∃ m ∈ r.list, ∀ v ∈ [((0 : Nat), true)], v.1 ≠ m) ∧ s.tide < 5 + 2 + (s.dor 0).parkedTides
    ∧ (s.core 1).lea = some 0 ∧ (s.dor 1).record 0 = some ⟨0, 1, some 0, 1, true, [1]⟩ ∧ (0#32).toNat < (1#32).toNat
    ∧ (s.dor 0).speaksTo r 1 = true ∧ s.recordMail 0 0 1 0 = none ∧ s.exchangeFlits 1 (some 0) < 16
    ∧ ({ s with mail := [m true] } : State).recordMail 0 0 1 0 = some (m true, 1, [1]) ∧ ({ s with mail := [m true] } : State).arrives (m true) = true
    ∧ ({ s with mail := [m false] } : State).arrives (m false) = false := by and_intros <;> decide

theorem witness_Recovery :
    let die (p : DiePhase) : State := { d0 with cores := [], dies := d0.dies.set 1 ⟨p, [], [], false⟩ }
    memoryHas 0 = true ∧ memoryHas (lsAddr 2047 0xBFFF8) = true ∧ memoryHas (lsAddr 2047 0xC0000) = false ∧ (d0.slot 0 0).run ≠ .absent
    ∧ d0.head.failing = none ∧ d0.tideSlot = 0 ∧ d0.dieUp 1 = true
    ∧ ((die (.isolate 0)).dies[1]?).map (fun x => x.phase) = some (.isolate 0)
    ∧ (∀ c ∈ dieCores 1, ((die (.isolate 0)).core c).lea = none) ∧ (∀ c ∈ dieCores 1, ((die (.isolate 0)).dor c).state ≠ .running)
    ∧ (die (.isolate 0)).circuits = [] ∧ ((die .reset).dies[1]?).map (fun x => x.phase) = some .reset
    ∧ (∀ c ∈ dieCores 1, ((die .reset).core c).lea = none) ∧ ((die .reset).dies[1]?).map (fun x => x.discarded) = some []
    ∧ (d0.lea 0).isSome = true ∧ (d0.core 0).bay.tiles[3]? = some Tile.reset ∧ d0.head.failing = none
    ∧ d0.lea 1 = none ∧ ({ d0 with now := 1 } : State).tideSlot ≠ 0 ∧ 0 < ({ die (.scrubbed 0) with now := 4096 } : State).now
    ∧ ({ die (.scrubbed 0) with now := 4096 }.tideSlot) = 0 ∧ d0.head.power = .running ∧ State.reset.head.power = .off := by
  and_intros <;> decide

/-- A descriptor image and a message-thread template that pass. -/
def tmpl : Template := ⟨0x80100, thread.desc.words 0⟩

/-- A request for the first core, with a message-thread template. -/
def leaReq : LeaRequest :=
  { lea := 5, leab := 0, leal := 1, banks := [], ways := [], svc := [], bulk := 0, keys := [2], clock := some 40, digest := 9, s2base := 0,
    s2len := 1, msg := some ⟨tmpl, 0, [(1, 0), (63, 0)]⟩ }

theorem witness_HeadlandRequests :
    let s := paged d0
    let e := { s with leas := [(0, lea0)], head := { s.head with frames := [] } }
    let p := s.modLea 0 (fun l => { l with isPaused := true })
    let none1 (l : Lea) : Lea := { l with s2 := [] }
    leaReq.msg.elim (some 0x06) msgTemplateFail = none ∧ ({ leaReq with msg := none }).msg.elim (some 0x06) msgTemplateFail = some 0x06
    ∧ s.requestOk leaReq = true ∧ chooseAll (fun d r => chooseItems 0 512 (s.taken Lea.banks d) r) leaReq.banks = some []
    ∧ chooseAll (fun d r => chooseItems 0 16 (s.taken Lea.ways d) r) leaReq.ways = some []
    ∧ chooseAll (fun c r => chooseSlots (s.taken Lea.svc c) r) leaReq.svc = some []
    ∧ (s.coreList.drop leaReq.leab).take leaReq.leal = [0] ∧ s.queuesFit [] = true
    ∧ templateFail 14 tmpl = none ∧ (templateFail 14 { tmpl with tdp := 0x80101 }).isSome = true
    ∧ (∀ c ∈ s.schedCores 0, (s.core c).handover = none) ∧ (∀ c ∈ lea0.cores, (s.core c).handover = none)
    ∧ (p.lea 0).isSome = true ∧ (p.leas.all (fun l => l.2.isPaused)) = true ∧ 0 ≤ p.now
    ∧ BitVec.ofNat 64 (p.now - 0) + 0 = p.guestTime (some 0)
    ∧ s.leas.any (fun q => q.2.savesIn 1) = false ∧ (none1 lea0).savesIn 1 = false
    ∧ s.requestOk { leaReq with leal := 2049 } = false
    ∧ s.lea 1 = none ∧ (s.lea 0).isSome = true ∧ s.schedOk 0 [(0, 16)] = true ∧ s.schedOk 0 [(0, 65536)] = true
    ∧ templateOk 14 { tmpl with tdp := 0x80100 } = true ∧ templateOk 14 { tmpl with tdp := 0x80101 } = false
    ∧ 7 < lea0.s2len ∧ s.outs.all (fun o => !o.translated 0) = true ∧ keyFind s.head.keys 4095 = none
    ∧ ({ lea0 with keys := [1, 2] }).keys.contains 2 = true ∧ ({ lea0 with keys := [1, 2] }).keys.head? ≠ some 2
    ∧ s.head.frames.any (fun p => p.2 == 1) = true ∧ s.head.frames.any (fun p => p.2 == 2) = false
    ∧ s.frameThere 1 = true ∧ s.leas.any (fun l => l.2.namesFrame 1) = true ∧ e.leas.any (fun l => l.2.namesFrame 1) = false
    ∧ (keyFind e.head.keys 1).isSome = true := by and_intros <;> decide

/-- The host reads and writes a byte of guest frame 0, and not of frame 1. -/
theorem witness_HostAccess :
    let s := paged d0
    let y := { lea0 with s2 := [(0, 0x000400000020003F)], s1root := [(0, 0)], svc := [(0, [7])] }
    s.lea 0 = some y ∧ s.hostRange y 0 2 1 = some [0x200000, 0x200001] ∧ [0x200000, 0x200001].any s.mem.isBad = false
    ∧ s.hostRange y 0x200000 1 2 = none ∧ s.hostRange y 0 1 2 = some [0x200000] ∧ s.dieUp (hbmDie 0x200000) = true
    ∧ y.commonsRange 0 0 1 = some [commonsOrigin] ∧ y.commonsRange 0 (2 ^ 30) 1 = none ∧ s.dieUp 0 = true ∧ s.islands[15]?.isSome = true := by
  and_intros <;> decide

theorem witness_HostServices :
    let s : State := { d0 with head := { d0.head with measured := [(1, 7)] }, host := ⟨[(0, (false, 1)), (1, (true, 7))], [], [], none⟩ }
    let b : State := { s with dbg := { s.dbg with lea := some 0 } }
    let h := b.modSlot 0 0 (fun x => { x with run := .halted, debugHalt := some .ready })
    let m : State := { b with dbg := { b.dbg with matchAddr := [0x40, 0, 0, 0], matchOn := [true, false, false, false] } }
    s.head.power = .running ∧ keyFind s.head.measured 1 = some 7 ∧ (keyFind s.host.session 0).isSome = true
    ∧ keyFind d0.host.session 0 = none ∧ keyFind s.host.session 1 = some (true, 7) ∧ lea0.digest = 7 ∧ s.lea 0 = some lea0
    ∧ d0.dbg.lea = none ∧ b.dbg.lea = some 0 ∧ b.debugPlace 0 lea0 false (.localStore 0 0xBFFF8) = some (.mem (lsOrigin + 0xBFFF8))
    ∧ b.debugPlace 0 lea0 true (.reg 0 0 31) = some (.mem (lsOrigin + 0x1200 + 8 * 31)) ∧ (h.slot 0 0).debugHalt = some .ready
    ∧ m.debugMatches = true ∧ m.me.debugHalt = none ∧ m.me.run ≠ .absent ∧ m.cur.2 < m.myCore.slots.length := by
  and_intros <;> decide

/-- The reset state with a word placed: MUL, the all-zero halfword, and a Dorent word. -/
theorem witness_StepRunsDecoded :
    let ok (s : State) (h0 h1 : BitVec 16) : Bool :=
      let now := s.cycle 0
      let k := ((s.beginTurn 0).core 0).candidate now
      let s1 := (s.beginTurn 0).testHret 0 k
      let x := s1.core 0
      let t : State := { s1 with cur := (0, k) }
      s.head.power == .running && s.agenda == [.turn 0] && decide ((s.core 0).turned ≤ now) && !s.gated 0 && !(x.slotLea (x.owner now)).isNone
        && s1.dieUp (dieOf 0) && s1.eligible 0 k (x.probe == 0) && (s1.heldWait 0 (x.slot k)).isNone && (x.slot k).owedTrap.isNone
        && t.windowsOpen && !t.debugMatches
        && (match t.fetch with
          | .halves l => l == [h0, h1] || l == [h0]
          | _ => false)
        && (match t.fetchHalf t.pc.toNat with
          | .half h _ => h == h0
          | _ => false)
    ok (State.reset.withFetchWord 32 0x00A31903) 0x1903 0x00A3 = true ∧ ok (State.reset.withFetchWord 16 0) 0 0 = true
    ∧ (match decode true [0x1903, 0x00A3] with
      | .ok i n => i == .mul 17 17 18 && n == 2
      | _ => false) = true := by decide

theorem witness_DorentStep :
    let s := State.reset.withFetchWord 64 0x6050000000000000
    let d := s.dor 0
    s.head.power = .running ∧ s.agenda = [.dorent 0] ∧ d.state = .running ∧ s.dieUp (dieOf 0) = true ∧ d.abort = false ∧ d.park = none
    ∧ d.pc < d.loaded ∧ (match decodeDorent (keyGet 0 d.store d.pc) with
      | .ok i => i == .dhalt 5
      | _ => false) = true := by decide

theorem witness_DecodeEncode :
    (Instr.mul 17 17 18).decodable = true ∧ (Instr.ldd (some 4) 0x3F 15 7 31 31).decodable = true ∧ Instr.ret16.decodable = true
    ∧ (Instr.dhalt 5).wellFormed = true ∧ (Instr.dhalt 5).dorentCode = some 0x6050000000000000 := by decide

theorem witness_Frames :
    MemoryOk d0 ∧ d0.mem.isFull (d0.wAddr 3) = true ∧ d0.cur.2 < d0.myCore.slots.length ∧ d0.cur.2 ≠ 15
    ∧ (d0.markWord (d0.wAddr 3) .empty).mem.feOf (d0.wAddr 3) = some .empty
    ∧ (d0.markWord (d0.wAddr 3) .pending).mem.feOf (d0.wAddr 3) = some .pending
    ∧ ({ d0 with cur := (0, 15) } : State).cur.2 < ({ d0 with cur := (0, 15) } : State).myCore.slots.length := by decide

/-- A fetch that misses, and one that traps at an odd PC or outside its code segment. -/
theorem witness_Fetches :
    (match d0.fetch with
      | .miss m _ => m == 1
      | _ => false) = true
    ∧ (match (d0.modDesc (fun d => { d with pc := 0x10000 })).fetch with
      | .trap _ _ _ => true
      | _ => false) = true := by decide

/-- Windows in the pool of a core that another lea holds; a rotation that the island gates, and one past it. -/
theorem witness_AwayAndGated :
    let a := (d0.modDesc (fun d => { d with segs := d.segs.set 0 (seg 0x132 0 0x8000) })).modCore 0 (fun c => { c with lea := some 1 })
    let g (c : Nat) : State := { d0 with islands := List.replicate 16 ⟨24, 15, .thermal, 0, 0⟩, cycles := [c] }
    a.regsAway = true ∧ d0.regsAway = false ∧ (g 239).gated 0 = true ∧ (g 240).gated 0 = false ∧ ((g 239).core 0).turned ≤ (g 239).cycle 0 := by
  decide

/-! ## Witnesses of single clauses, at the values where they meet -/

/-- A plain access of each size at a word that is full and at one that is pending. -/
theorem witness_PlainAtHome :
    let a := lsAddr 0 0x80100
    Memory.reset.wf = true ∧ (∀ n ∈ [1, 2, 4, 8], a % n = 0 ∧ (part8 a 3).data < 256 ^ n) ∧ Memory.reset.isPending (dwordOf a) = false
    ∧ (Memory.reset.setFe a (some .pending)).isPending (dwordOf a) = true ∧ Memory.reset.isBad a = false ∧ fp32.always = true
    ∧ (9, fp64, (part8 a 3).size) ∈ [(8, fp32, 4), (9, fp64, 8)] := by and_intros <;> decide

/-- A walk of one read of stage 2 and two of stage 1: before the first, after the first 64 slots later, and after the last 96 slots
later. -/
theorem witness_WalkReads :
    let p (n : Nat) := { partOf .queued none with walked := n }
    let x (n : Nat) := accOf (.load false) 4 (p n)
    let s (now n : Nat) := withOut (paged d0) now (.access (x n))
    let reads := (s 96 3).walkReads 0 0 0x100 ((s 96 3).rootOf 0 0)
    reads = [none, some 0x200000, some 0x210000] ∧ (x 3).parts[0]? = some (p 3) ∧ (outOf 0 (.access (x 3))).walksBefore 0 (p 3) = false
    ∧ (p 1).since + (if (reads.getD 0 none).isSome then 96 else 64) ≤ (s 64 1).now
    ∧ (p 3).since + (if (reads.getD 2 none).isSome then 96 else 64) ≤ (s 96 3).now
    ∧ (s 64 1).mayGo (outOf 0 (.access (x 1))) (x 1) 0 (p 1) = true ∧ (s 96 3).mayGo (outOf 0 (.access (x 3))) (x 3) 0 (p 3) = true := by
  and_intros <;> decide

/-- No flit of the thread stands before it in the injection queue. -/
theorem witness_FlitsBefore :
    let x := accOf (.load false) 4 { partOf .queued none with walked := 2 }
    (withOut (paged d0) 112 (.access x)).flitsBefore (outOf 0 (.access x)) 0 < 16 := by
  simp [State.flitsBefore, withOut, outOf, accOf, partOf, Out.queuedBefore, Out.access]

/-- Element 15 of a row of clean words; NAMO of a doubleword; a fill that has begun, 95 and 96 slots later. -/
theorem witness_BankElements :
    let c := bankCmd 0 3 none
    let f (now : Nat) : State := { (paged d0).modCore 0 (fun c => { c with fills := [⟨0, 0, 1, 0, 0, 0, 0, some (0, 0x200000)⟩] }) with now := now }
    d0.mem.isBad (commonsOrigin + bankElem c.fmt * 15) = false ∧ c.srcBad.contains (bankElem c.fmt * 15 / 8) = false ∧ c.val.bad = false
    ∧ c.fmt < 6 ∧ (part8 commonsOrigin 1).data = c.val.val.toNat ∧ (part8 commonsOrigin 1).dataBad = false
    ∧ ({ c with fn := 5, size := 8 }).size = (part8 commonsOrigin 1).size
    ∧ (homeOp d0.mem false 0 (.amo 0 0) commonsOrigin (part8 commonsOrigin 1)).isSome = true
    ∧ ((f 95).core 0).fills = [⟨0, 0, 1, 0, 0, 0, 0, some (0, 0x200000)⟩] ∧ (f 95).now < 0 + 96 ∧ 0 + 96 ≤ (f 96).now := by
  and_intros <;> decide

/-- The status of a SEND that its thread waits for. -/
theorem witness_Acked :
    let s := d0.modSlot 0 0 (fun x => { x with run := .forfeiting, hold := .ack 0 })
    let m := mailFor 0 true (.ack 0 0)
    s.mem.isFull m.wd = true ∧ (s.core m.dst).slots[m.srcSlot]? = some (s.slot 0 0) ∧ (s.slot 0 0).tid = m.srcTid
    ∧ (s.slot 0 0).hold = .ack m.id ∧ (s.slot 0 0).run = .forfeiting ∧ ({ s with mail := [m] } : State).lateMail m = false := by decide

/-- A gang whose work is done, first seen at slot 0: 11 and 12 slots later. -/
theorem witness_Retire :
    let g : Gang := { gang1 with members := [⟨0, 0, 0, 0, true, 0, none⟩], ended := some 0 }
    let s (now : Nat) : State := { inGang d0 g with now := now }
    (s 11).gangDone g = true ∧ (s 11).now < 0 + 12 ∧ 0 + 12 ≤ (s 12).now ∧ (s 12).gangDone g = true ∧ packetOwn g.packet ≠ 0
    ∧ (s 12).gang 0 0 = some g ∧ (s 12).lea 0 = some lea0 := by decide

/-- Unassigned indices, the first and the last below 0x070; the registers of the pool at user level and for another lea. -/
theorem witness_StrayRegisters :
    let s := st [(1, 0)]
    let a := s.modCore 0 (fun c => { c with lea := some 1 })
    (∀ i ∈ [0x007#12, 0x06F], i.toNat < 0x070 ∧ ¬ i.toNat ≤ 0x006 ∧ ¬ (0x010 ≤ i.toNat ∧ i.toNat ≤ 0x027))
    ∧ s.Reads [] [3] ∧ (user s).Reads [] [3] ∧ (user s).myCore.lea = (user s).me.lea ∧ a.myCore.lea ≠ a.me.lea ∧ a.Reads [] [3]
    ∧ a.Reads [1] [] ∧ a.priv = true ∧ (a.w 1).bad = false ∧ s.myLea = some lea0 ∧ 0x075 ≤ (0x0FF#12).toNat ∧ (0x0FF#12).toNat < 0x100 := by
  and_intros <;> decide


/-- Entries whose four cycles are over: a save's and a drain's, of a tile without poison. -/
theorem witness_BayEffects :
    let e (op : BayOp) : BayEntry := ⟨0, op, 990, some 995⟩
    let s (op : BayOp) : State := withBay (withOut d0 17 .bay) (fun y => { y with queue := [e op] })
    let d : BayOp := .mdrain 3 4032 4 0 true false
    let v : BayOp := .msave 3 1 2 0 0x80100 0x100
    ((s d).core 0).bay.queue = [e d] ∧ ((s v).core 0).bay.queue = [e v] ∧ 995 + 4 < (s d).cycle 0 ∧ (s d).out 0 = some (outOf 0 .bay)
    ∧ (((s d).core 0).bay.tile 3).bad = [] ∧ 4 < 5 := by and_intros <;> decide

/-- A tile and a plane without poison: a step of clean operands; a tile that can be saved; images whose CFG is good and bad. -/
theorem witness_StepAndImages :
    let b := Bay.reset
    let t := b.tile 3
    let img : Cells := [(0, 0x0F)]
    3 < b.tiles.length ∧ cfgBad (t.cfg.setWidth 64) = false ∧ t.data.wf = true ∧ t.bad = [] ∧ b.active.data.wf = true ∧ b.active.bad = []
    ∧ (∀ p ∈ t.data, p.1 < 16384) ∧ cfgBad (BitVec.ofNat 64 (Cells.read [] 0 8)) = false
    ∧ (BitVec.ofNat 64 (Cells.read [] 8 8)).extractLsb' 4 60 = 0 ∧ cfgBad (BitVec.ofNat 64 (img.read 0 8)) = true := by
  and_intros <;> decide

/-- A transfer with a piece left after this one, and with none; a full clean word, and a pending one, for the piece; a context that
does not run. -/
theorem witness_PortPieces :
    let j := { portJob 1 2 0x100 with left := [(0, 8), (8, 8)] }
    let l := [(0, 8, lsOrigin + 0x80100)]
    j.left.filter (fun p => !l.any (fun q => q.1 == p.1)) = [(8, 8)] ∧ (portJob 2 2 0x100).left.filter (fun p => !l.any (fun q => q.1 == p.1)) = []
    ∧ (∀ p ∈ l, d0.mem.isFull (dwordOf p.2.2) = true) ∧ (∀ p ∈ l, d0.mem.isBad p.2.2 = false) ∧ (d0.dor 0).state ≠ .running := by
  and_intros <;> decide

/-- CTXLD of a clean descriptor of the pool, and of one whose window fails; an entry whose GEN agrees, one whose GEN does not, one of
another slot, a handle with D set; the pool held by another lea. -/
theorem witness_CtxldClean :
    let s := poke (sys [(1, 0x102), (2, 0x80100), (3, 2), (4, 0xF000), (5, 0xE000), (6, 0xF800), (7, 4)]) 0x100 (thread.desc.words 0)
    let e : CtxEntry := ⟨2, none, 0, 0, 0, Desc.reset, 0, ⟨.none, .ready, 5, .none, none, 0, none, 0⟩⟩
    let c := s.modCore 0 (fun c => { c with ctx := [((0, 0), e)], ctxGen := [((0, 0), 15)] })
    let gen := (c.myCore.ctxGen.find? (fun p => p.1 == (0, 0))).elim 0 (fun p => p.2)
    let k (n : Nat) : Nat := (s.w n).val.toNat % 16
    let a := s.modCore 0 (fun c => { c with lea := some 1 })
    s.priv = true ∧ s.Reads [1, 2] [] ∧ (s.w 1).val &&& ~~~0x10F#64 = 0 ∧ (s.w 1).val.getLsbD 8 = true ∧ (s.slot 0 (k 1)).run = .absent
    ∧ tdpFail (k 1) 0x80100 = none ∧ (s.descPoison 0 0x80100).isSome = false ∧ (descOf (s.descWord 0 0x80100)).windowFail = none
    ∧ (s.descPoison 0 0x80300).isSome = false ∧ ((descOf (s.descWord 0 0x80300)).windowFail).isSome = true
    ∧ c.myCore.ctx.find? (fun p => p.1 == (0, 0)) = some ((0, 0), e) ∧ e.slot = k 3 ∧ e.slot ≠ k 7
    ∧ (s.w 4).val.toNat % 2048 = 0 ∧ (s.w 4).val.getLsbD 11 = false ∧ (s.w 4).val.toNat / 4096 % 16 = gen
    ∧ (s.w 5).val.toNat / 4096 % 16 ≠ gen ∧ (s.w 6).val.getLsbD 11 = true ∧ s.myCore.ctx.find? (fun p => p.1 == (0, 0)) = none
    ∧ a.myCore.lea ≠ a.me.lea ∧ tdpFail a.cur.2 (a.w 2).val.toNat = none ∧ 0x80000 ≤ (a.w 2).val.toNat ∧ (s.w 2).val ≠ s.me.tdp
    ∧ (s.descPoison 0 s.me.tdp.toNat).isSome = false := by and_intros <;> decide

/-- RESUME of a thread whose fetch a fault stopped, and of its COLLD copy; of the port, stopped and not; of an absent slot; malformed. -/
theorem witness_Resume :
    let s := (sys [(1, 1), (2, 2), (3, 0x20), (4, 0x41), (5, 0x40), (6, 0x11)]).modSlot 0 1 (fun x => { x with run := .parked, wait := .fetch none })
    let y : DCopy := ⟨1, 3, 0, seg 0 0 0, 0, 1, 0, some none, none⟩
    let c := s.modCore 0 (fun c => { c with dorent := { c.dorent with copy := some y } })
    let j := { portJob 0 4 0x100 with parked := some none }
    let p := withBay s (fun b => { b with port := some j })
    let a := s.modCore 0 (fun c => { c with lea := some 1 })
    let unit (n : Nat) : Nat := (s.w n).val.toNat / 16 % 8
    let k (n : Nat) : Nat := (s.w n).val.toNat % 16
    (s.w 1).val &&& ~~~0x7F#64 = 0 ∧ unit 1 = 0 ∧ (s.slot 0 (k 1)).run = .parked ∧ (s.slot 0 (k 1)).wait = .fetch none ∧ k 1 ≠ s.cur.2
    ∧ (s.slot 0 (k 1)).lea = s.me.lea ∧ c.myCore.dorent.copy = some y ∧ y.slot = k 1 ∧ y.parked = some none
    ∧ unit 2 = 0 ∧ (s.slot 0 (k 2)).run = .absent ∧ unit 3 = 2 ∧ k 3 = 0 ∧ p.myCore.bay.port = some j ∧ j.parked = some none
    ∧ s.myCore.bay.port = none ∧ unit 4 = 4 ∧ unit 5 = 4 ∧ unit 6 = 1 ∧ k 6 ≠ 0 ∧ a.myCore.lea ≠ a.me.lea ∧ s.Reads [1] [4] ∧ s.priv = true := by
  and_intros <;> decide

/-- A switch that may go, one to a descriptor of the pool while another lea holds it; a load from an entry; a ROT one cycle early. -/
theorem witness_SwitchAndLoad :
    let m (tdp : Nat) := d0.modSlot 0 0 (fun x => { x with hold := .switching tdp })
    let a := (m 0x80100).modCore 0 (fun c => { c with lea := some 1 })
    let b := (withOut d0 17 (.access (accOf (.load false) 4 (partOf .queued none)))).modSlot 0 0 (fun x => { x with hold := .switching 0 })
    let e : CtxEntry := ⟨2, none, 0, 0, 0, Desc.reset, 0, ⟨.none, .ready, 5, .none, none, 0, none, 0⟩⟩
    let l := (d0.modSlot 0 2 (fun x => { x with loading := some (0, 0x80100, some 0) })).modCore 0 (fun c => { c with ctx := [((0, 0), e)] })
    (m 0).leaveReady ((m 0).slot 0 0) = true ∧ ((m 0x80100).core 0).lea = ((m 0x80100).slot 0 0).lea ∧ (a.core 0).lea ≠ (a.slot 0 0).lea
    ∧ b.leaveReady (b.slot 0 0) = false
    ∧ (l.slot 0 2).loading = some (0, 0x80100, some 0) ∧ (l.core 0).handover = none
    ∧ (l.core 0).ctx.find? (fun p => p.1 == (((l.slot 0 0).lea).getD 0, 0)) = some ((0, 0), e)
    ∧ d0.cycle 0 < (d0.modCore 0 (fun c => { c with turned := 1001 }) |>.core 0).turned := by and_intros <;> decide

/-- Two slices that are late by their lea's debt: the later one goes first where its lea's debt is larger; a schedule with none late. -/
theorem witness_SlicesDue :
    let y := { Core.reset with sched := [(0, 16), (1, 16), (3, 16)], lag := 100, debts := [(1, 4096), (3, 8192)] }
    let z := { Core.reset with sched := [(0, 16), (1, 16)] }
    y.firstDue y.slicesDue = some 2 ∧ y.bringNext.sched = [(0, 16), (3, 16), (1, 16)] ∧ y.sched[(y.slice + 1) % y.sched.length]? = some (1, 16)
    ∧ z.lag = 0 ∧ (∀ e ∈ z.sched, 0 < e.2) ∧ z.bringNext.sched[(z.slice + 1) % z.sched.length]? = some (1, 16) := by decide

/-- A core at a boundary where the lea of the slice due next is the one that holds it, and where it is another. -/
theorem witness_SliceGoes :
    let s (l : Nat) := d0.modCore 0 (fun c => { c with sched := [(1 - l, 16), (l, 16)] })
    ((s 1).core 0).bringNext.sched[(((s 1).core 0).bringNext.slice + 1) % ((s 1).core 0).bringNext.sched.length]? = some (1, 16)
    ∧ (s 1).tideSlot = 0 ∧ ((s 1).core 0).bringNext.sliceEnd ≤ (s 1).now ∧ ((s 1).core 0).bringNext.handover = none
    ∧ ((s 1).core 0).bringNext.lea ≠ some 1 ∧ ((s 0).core 0).bringNext.lea = some 0
    ∧ ((s 0).core 0).bringNext.sched[(((s 0).core 0).bringNext.slice + 1) % ((s 0).core 0).bringNext.sched.length]? = some (0, 16) := by decide

/-- A vacated slot with a thread and one without; a saved thread whose descriptor is in the saved slice at TDP 0x100. -/
theorem witness_SlotRanges :
    let t := (handing { hand0 with stopped := [0, 1] }).modSlot 0 0 (fun x => { x with stopped := some 1008, vacated := true })
    let u := t.modSlot 0 1 (fun x => { x with stopped := some 1009, vacated := true })
    let d := (State.reset.mem.putWords (lsAddr 0 0x100) (thread.desc.words 0)).cut (sliceAt 0 0) 0x8000
    let v : SlotSave := { d with slot := { thread with tdp := 0x100, lea := some 1 }, waits := [] }
    let w := (handing { hand0 with stopped := [0], saved := [0] }).modCore 0 (fun c => { c with saves := [(1, ⟨[(0, v)], none, []⟩)] })
    let m := w.mem.paste (sliceAt 0 0) v.range
    (t.slot 0 0).run ≠ .absent ∧ (t.slot 0 0).vacated = true ∧ (u.slot 0 1).run = .absent ∧ (u.slot 0 1).vacated = true
    ∧ keyFind ((w.core 0).save 1).slots 0 = some v ∧ v.slot.waiting = false ∧ v.slot.run ≠ .absent
    ∧ ((w.core 0).modSave 1 (fun y => { y with slots := keyDel y.slots 0 })).slotSaved 1 0 = false
    ∧ v.slot.tdp.toNat + 256 ≤ 0x8000 ∧ (∀ i, i < 32 → m.isBad (lsAddr 0 0x100 + 8 * i) = false)
    ∧ w.dieUp (dieOf 0) = true ∧ w.outs = [] := by and_intros <;> decide

/-- Every slot saved: a lea on its first hold with its template, one with a saved pool, and the outgoing one quiet. -/
theorem witness_PoolChanges :
    let h : Handover := ⟨0, 1008, some 0, 1, some rotIdentity, List.range 16, List.range 16, []⟩
    let y : Lea := { lea0 with num := 1, msg := some ⟨⟨0x80100, thread.desc.words 0⟩, 0, [(1, 0), (63, 0)]⟩ }
    let s : State := { handing h with leas := [(0, lea0), (1, y)] }
    let o := s.core 0
    let p : PoolSave := ⟨[], [], [], [], Bay.reset, [], [], 0, none, none, [], 0, [], Engine.reset, Dorent.reset, [], [], rotIdentity⟩
    let q := s.modCore 0 (fun c => { c with saves := [(1, ⟨[], some p, []⟩)] })
    (s.core 0).handover = some h ∧ (∀ j, j < 16 → h.saved.contains j = true) ∧ o.lea ≠ some h.into ∧ s.dieUp (dieOf 0) = true
    ∧ (∀ j, j < 16 → (s.slot 0 j).waiting = false) ∧ s.lea 1 = some y ∧ y.num = h.into ∧ (o.save 1).pool = none ∧ y.msg.isSome = true
    ∧ ((q.core 0).save 1).pool = some p ∧ o.engine.active = none ∧ o.bay.port = none ∧ o.dorent.state ≠ .running ∧ (o.save 0).slots = [] := by
  and_intros <;> decide

/-- A message with none before it in its core's queue; VINS of element 63; a load of 64 flits into an empty injection queue. -/
theorem witness_QueuesAndPlaces :
    let m := mailFor 0 false (.rsem 63 1)
    ({ withOut d0 0 .rsem with mail := [m] } : State).inExchangeQueue m = true ∧ (63#7 < 64)
    ∧ d0.MayQueue [d0.wAddr 1, (d0.vAddrs 2).getD ((63#7).toNat / 2) 0] [(d0.vAddrs 2).getD ((63#7).toNat / 2) 0] ∧ (2#4 < 3)
    ∧ d1.outs = [] ∧ 0 + min 64 16 ≤ 16 := by and_intros <;> decide

/-- With nothing outstanding no flit waits on a plane. -/
theorem witness_Room (plane : Nat) : d1.requestFlits 0 (some 0) plane + min 64 16 ≤ 16 := by
  simp [State.requestFlits, d1, st, State.reset]

/-- A change torn down whose entries arrive, and one whose second end's die is in reset. -/
theorem witness_Closing :
    let c := circ (.closed 0 0)
    let far : Circuit := { c with dst := 256 }
    let s : State := { d0 with now := 8192, circuits := [c] }
    let dead : State := { s with circuits := [far], dies := s.dies.set 1 ⟨.reset, [], [], false⟩ }
    s.circuits.find? (fun y => y.id == 5) = some c ∧ s.tideSlot = 0 ∧ 0 + 2 ≤ s.tide ∧ s.entriesLost c 0 = false
    ∧ dead.circuits.find? (fun y => y.id == 5) = some far ∧ dead.entriesLost far 0 = true := by and_intros <;> decide

/-- A schedule that takes effect, one that waits for the lea's other core, and one that disagrees with what waits there. -/
theorem witness_Schedules :
    let y : Lea := { lea0 with cores := [0, 1] }
    let s : State := { d0 with leas := [(0, y)] }
    let w := s.modCore 1 (fun c => { c with schedNext := some [(0, 32)] })
    let put (t : State) : State := t.modCore 0 (fun c => { c with schedNext := some [(0, 16)] })
    d0.schedOk 0 [(0, 16)] = true ∧ d0.schedJoins 0 [(0, 16)] = true ∧ (∀ c ∈ d0.schedCores 0, (d0.core c).handover = none)
    ∧ (put d0).schedAgrees 0 lea0 = true ∧ d0.leas = [(0, lea0)]
    ∧ s.schedOk 0 [(0, 16)] = true ∧ s.schedJoins 0 [(0, 16)] = true ∧ (∀ c ∈ s.schedCores 0, (s.core c).handover = none)
    ∧ (put s).schedAgrees 0 y = false ∧ y.cores.any (s.schedCores 0).contains = true
    ∧ w.schedOk 0 [(0, 16)] = true ∧ w.schedJoins 0 [(0, 16)] = false := by and_intros <;> decide

/-- A dump that can be read, and the readings of another function. -/
theorem witness_Readings :
    let s : State := { d0 with head := { d0.head with headDump := some (d0.dumpHead []) } }
    s.head.headDump = some (d0.dumpHead []) ∧ s.head.power = .running ∧ d0.islands[15]?.isSome = true := by and_intros <;> rfl

/-- The debug function at the descriptor of a thread in its slot and of one whose slot is saved. -/
theorem witness_DebugDesc :
    let b : State := { d0 with dbg := { d0.dbg with lea := some 0 } }
    let v : SlotSave := ⟨{ thread with tdp := 0x100 }, [], [], [], [], []⟩
    let w := (b.modSlot 0 0 (fun _ => Slot.reset)).modCore 0 (fun c => { c with lea := some 1, saves := [(0, ⟨[(0, v)], none, []⟩)] })
    b.debugSlot 0 0 0 = some (b.slot 0 0) ∧ (b.core 0).slotSaved 0 0 = false ∧ 0 < (b.core 0).slots.length
    ∧ w.debugSlot 0 0 0 = some v.slot ∧ (w.core 0).slotSaved 0 0 = true ∧ b.debugSlot 0 1 0 = none := by and_intros <;> decide

/-- The port, the engine and COLLD's copy at a page of HBM that is resident: before the accesses that they take have been served, and
after; the copy of a slot that is saved, and of one whose words another lea's slice holds. -/
theorem witness_UnitAccesses :
    let p := { paged d0 with now := 17 }
    let j := portJob 0 4 0x100
    let port (flow : List (Nat × Nat)) (now : Nat) := withBay { withOut p now .port with leas := p.leas } (fun y =>
      { y with port := some { j with flow := flow } })
    let a : TActive := ⟨0, { fillCmd with dst := { fillCmd.dst with sg := 3 }, dstSeg := d0.seg 3 }, 0, (1, 1), none, [], none, false⟩
    let eng (flow : List (Nat × Nat)) (now : Nat) := ({ p with now := now } : State).modEngine 0 (fun e =>
      { e with active := some { a with flow := flow } })
    let y : DCopy := ⟨0, 1, 0x40, d0.seg 3, 0x100, 1, 0, none, none⟩
    let copy (f : Option DFlow) := withDor p { dor .loaded with copy := some { y with flow := f } }
    let gone := (withDor d0 { dor .loaded with copy := some { y with seg := d0.seg 1 } }).modCore 0 (fun c =>
      { c with saves := [(0, ⟨[(0, ⟨thread, [], [], [], [], []⟩)], none, []⟩)] })
    let l := [(0, 8, 0x200100)]
    (port [] 17).portReady (outOf 0 .port) j l = l ∧ l.filter (fun q => unitsServed 17 [] q.2.2 q.2.1) = []
    ∧ l.filter (fun q => unitsServed 113 [(0x200100, 17)] q.2.2 q.2.1) = l
    ∧ (eng [] 17).engineRun 0 = some (a, 0) ∧ (eng [] 17).windowHeld 0 0 a ((eng [] 17).window 0 0 a) = none
    ∧ (eng [] 17).ranksReady 0 0 a = [0, 1, 2, 3] ∧ (eng [] 17).ranksServed 0 0 a [0, 1, 2, 3] = []
    ∧ (eng [(0x202000, 17)] 113).ranksServed 0 0 { a with flow := [(0x202000, 17)] } [0, 1, 2, 3] = [0, 1, 2, 3]
    ∧ (match (copy none).copyPlace 0 0 y 0 with
      | .at x => hbmUnits x 8 == [0x200100]
      | _ => false) = true
    ∧ (copy none).spareService 0 (channelOf 0x200100) = true ∧ (copy none).dieUp (dieOf 0) = true ∧ (copy none).copyWaits 0 0 y = false
    ∧ ((⟨[], 17, none⟩ : DFlow).wants = [] ∧ (⟨[], 17, none⟩ : DFlow).due ≤ (copy (some ⟨[], 17, none⟩)).now)
    ∧ (copy none).now < (⟨[], 113, none⟩ : DFlow).due
    ∧ (gone.core 0).lea = some 0 ∧ (d0.seg 1).space ≠ 1 ∧ (seg 0x131 0 0x8000).space = 1 ∧ (gone.core 0).slotSaved 0 0 = true := by
  and_intros <;> decide

/-- An addition that may be seen early, all but for the free bit, which has no value here; and one seen. -/
theorem witness_EarlyAddition :
    let c := bankCmd 0 3 (some 63)
    let s : State := { withOut d0 17 (.bank c) with banks := [(0, [0])] }
    c.early = false ∧ (s.core (outOf 0 (.bank c)).core).lea = some (outOf 0 (.bank c)).lea ∧ c.sem = some 63 ∧ c.bank < 4096
    ∧ ({ c with early := true } : BankCmd).early = true ∧ (5 ∉ (⟨2, false, [7]⟩ : Sem).early) ∧ (⟨2, false, [7]⟩ : Sem).settled = 1
    ∧ Sem.reset.early = [] ∧ s.groupCores 0 (s.core 0).dorent.gid = [] ∧ (∀ e ∈ s.cores, e.2.dorent.late = []) := by decide

/-- A fill with another of its lea behind it; two events that make up a doubleword, and one. -/
theorem witness_FillsAndDoublewords :
    let f : Fill := ⟨0, 0, 1, 0, 0, 0, 0, none⟩
    let g : Fill := ⟨1, 1, 2, 0, 0, 0, 0, none⟩
    let s := ({ paged d0 with now := 17 } : State).modCore 0 (fun c => { c with fills := [f, g] })
    let p (dst : Nat) : Part := { partOf .performed (some 0x200100) with size := 4, dst := dst, res := 5 }
    (s.core 0).fills = f :: [g] ∧ (∀ x ∈ [g], x.lea = f.lea) ∧ f ∉ [g] ∧ s.dieUp (dieOf 0) = true
    ∧ s.lookUp 0 0 (dieOf 0) (64 * f.line) [.x] = .ok ⟨0, 0, 0, true, 1, 0xF, 1⟩ ∧ channelOf 0x200000 = 0
    ∧ s.mayServe 0 0 (f.since, s.nextId + 0, 0) = true ∧ ({ s with now := 18 } : State).mayServe 0 0 (f.since, s.nextId + 0, 0) = false
    ∧ (p 0).size = 4 ∧ (p 0).dst % 8 = 0 ∧ (p 4).dst % 8 = 4 ∧ Memory.reset.wf = true ∧ 0x200100 < 2 ^ 44 ∧ 0x200104 % 8 + 4 ≤ 8 := by
  and_intros <;> decide

/-- A load of a word that an earlier instruction of its thread still owes a result; a store to a word of its own. -/
theorem witness_OwedWord :
    let a := lsOrigin + 0x1218
    let x (op : MemOp) := accOf op 1 (partOf .queued (some a))
    let e : Out := { outOf 0 (.compute [⟨5, false⟩] none 2000) with dst := [a] }
    let o (op : MemOp) : Out := { outOf 1 (.access (x op)) with dst := [lsOrigin + 0x1220] }
    let s (op : MemOp) : State := { d0.markWord a .pending with outs := [e, o op], nextId := 2 }
    let t := withOut d0 17 (.access (x .store))
    (s (.load false)).out 1 = some (o (.load false)) ∧ (x (.load false)).parts[0]? = some (partOf .queued (some a))
    ∧ (s (.load false)).mem.isPending (dwordOf a) = true ∧ (∃ e ∈ (s (.load false)).outs, e.tid = (o (.load false)).tid
      ∧ e.id < (o (.load false)).id ∧ dwordOf a ∈ e.dst) ∧ (x .feq).op = .feq
    ∧ (t.tryPart 0 0).isSome = true ∧ (homeOp t.mem (t.isRegWord (dwordOf a)) 0 .store a (partOf .queued (some a))).isSome = true := by
  and_intros <;> decide

/-- A destination register word at which an earlier load with a lookahead has its event still to come. -/
theorem witness_WriteWaits :
    let a := lsOrigin + 0x1218
    let s := withOut d0 17 (.access (accOf (.load false) 1 (partOf .queued (some a))))
    s.regsAway = false ∧ s.mem.feOf a = none ∧ (∃ o ∈ s.outs, o.tid = s.me.tid ∧ o.windowed = true ∧ s.eventAt o a = true) := by decide

/-- CTXLD in a handover, of a slot that is not yet the lea's, and of one that is with its descriptor in the pool that is not; its load,
before its slots are in place and after. -/
theorem witness_CtxldAway :
    let s := sys [(1, 0x102), (2, 0x80100), (3, 0x10100)]
    let h (r : List Nat) : Handover := ⟨0, 1008, some 1, 0, some rotIdentity, List.range 16, List.range 16, r⟩
    let a (r : List Nat) := s.modCore 0 (fun c => { c with lea := some 1, handover := some (h r) })
    let l (r : List Nat) := (a r).modSlot 0 2 (fun x => { x with loading := some (0, 0x80100, none) })
    (s.w 1).val &&& ~~~0x10F#64 = 0 ∧ (s.w 1).val.getLsbD 8 = true ∧ tdpFail 2 0x80100 = none
    ∧ (a [0]).myCore.sliceOwner 2 ≠ (a [0]).me.lea ∧ (a [0, 2]).myCore.sliceOwner 2 = (a [0, 2]).me.lea
    ∧ ((a [0, 2]).slot 0 2).run = .absent ∧ ((a [0, 2]).slot 0 2).claimed = none ∧ ((a [0, 2]).slot 0 2).loading = none
    ∧ (a [0, 2]).myCore.lea ≠ (a [0, 2]).me.lea ∧ (a [0, 2]).priv = true ∧ (a [0, 2]).Reads [1, 2] []
    ∧ ((l [0]).slot 0 2).loading = some (0, 0x80100, none) ∧ ((l [0]).core 0).handover = some (h [0]) ∧ 2 ∉ (h [0]).restored
    ∧ ((l [0, 2]).core 0).lea ≠ some (h [0, 2]).into ∧ 2 ∈ (h [0, 2]).restored ∧ 0 ∈ (h [0, 2]).restored
    ∧ (((l [0, 2]).modCore 0 (fun c => { c with lea := some 0 })).core 0).lea = some (h [0, 2]).into := by and_intros <;> decide

/-- Slot 15 with a handler's registers while another lea holds the pool; a fault there, with the pool of its lea saved. -/
theorem witness_Slot15Away :
    let t : State := { msgCore d0 with cur := (0, 15) }
    let p : PoolSave := ⟨[], [], [], [], Bay.reset, [], [], 0, none, none, [], 0, [], Engine.reset, Dorent.reset, [], [], rotIdentity⟩
    let a := t.modCore 0 (fun c => { c with lea := some 1, saves := [(0, ⟨[], some p, []⟩)] })
    let f := a.modCore 0 (fun c => { c with fault15 := some 0x20 })
    a.in15 = true ∧ a.myCore.lea ≠ a.me.lea ∧ t.myCore.lea = t.me.lea ∧ t.myCore.handler = none ∧ a.me.lea = some 0
    ∧ (0, (⟨[], some p, []⟩ : SaveArea)) ∈ a.myCore.saves ∧ a.cur.2 < a.myCore.slots.length
    ∧ ((f.core 0).slot 15).lea ≠ (f.core 0).lea := by and_intros <;> decide

/-- A slot in its settle phase with a port transfer that no page fault holds, and one that a page fault holds. -/
theorem witness_SettlePort :
    let t := (handing { hand0 with stopped := [0] }).modSlot 0 0 (fun x => { x with stopped := some 688 })
    let s (j : PortJob) := withBay { t with outs := [outOf 0 .port], nextId := 1 } (fun y => { y with port := some j })
    let j := { portJob 0 2 0x100 with left := [(0, 8)] }
    (s j).portRuns 0 1 = true ∧ (s { j with parked := some (some 0) }).portRuns 0 1 = false ∧ t.portRuns 0 1 = false
    ∧ (s j).outs.any (fun o => o.core == 0 && o.tid == 1 && (s j).settles o) = false := by and_intros <;> decide

/-- A translation dropped, and a stage-2 entry changed, while a fill has used the one before. -/
theorem witness_FillUnderway :
    let s := (paged d0).modCore 0 (fun c => { c with fills := [⟨0, 0, 1, 0, 0, 0, 0, some (0, 0x200000)⟩] })
    let t := s.modSlot 0 0 (fun x => { x with hold := .tlb 0 false 0 })
    t.fillsBegun 0 (fun d a => d == 0 && (false || a / 2 ^ 21 == 0 / 2 ^ 21)) = true
    ∧ (∃ e ∈ s.cores, ∃ z ∈ e.2.fills, z.lea = 0 ∧ z.began.isSome = true) ∧ (paged d0).fillsBegun 0 (fun _ _ => true) = false
    ∧ (paged d0).head.frames.any (fun p => p.2 == 1) = true ∧ (7 : Nat) < 8 := by and_intros <;> decide

/-- A signal between contexts of versions 0 and 1, either way round; a transfer behind an earlier one of its channel; bytes on their
way with no instruction left; a parked context; a buffer that a participant of the run has written. -/
theorem witness_CollectiveOrder :
    let op (num kind : Nat) : DOp := { (dorBound.newOp kind 0 0 64 0 0 none) with num := num }
    let at' (v : BitVec 32) (r : Nat) : Dorent := { dorBound with ops := [op 0 4], recs := [⟨0, v, some r, 2, true, [0, 1]⟩] }
    let x : Circuit := { circ .up with id := 0, dst := 1 }
    let g (v w : BitVec 32) : State := { (withDor d0 (at' v 0)).modCore 1 (fun c => { c with lea := some 0, dorent := at' w 1 }) with
      leas := [(0, { lea0 with cores := [0, 1] })], circuits := [x], mail := [{ control 1 with dst := 1 }] }
    let first : Dorent := { dorBound with ops := [op 0 0, op 1 0] }
    let s := withDor d0 { dor .running with late := [(commonsOrigin, 5, false)] }
    let parked : Dorent := { dorBound with ops := [op 0 2], park := some none }
    let join := (withDor d0 (dor .loaded)).modCore 1 (fun c => { c with lea := some 0, dorent := { dorBound with
      spoiled := [0], recs := [⟨0, 0, some 1, 2, true, [0, 1]⟩] } })
    ((g 0 1).runningAt 0).isSome = true ∧ ((g 0 1).running 1 0 0).map (fun e => e.2.ver) = some 1
    ∧ ((g 1 0).running 1 0 0).map (fun e => e.2.ver) = some 0 ∧ ((g 0 1).heard 0 0 1 (0 + 1)).isSome = true
    ∧ (0#32).toNat < (1#32).toNat ∧ ((g 1 1).running 1 0 0).map (fun e => e.2.ver) = some 1
    ∧ (∃ e ∈ first.ops, e.kind = (op 1 0).kind ∧ e.chan = (op 1 0).chan ∧ e.num < (op 1 0).num)
    ∧ (s.dor 0).late ≠ [] ∧ (∀ e ∈ (s.dor 0).ops, e.num ≠ 0) ∧ s.dieUp (dieOf 0) = true
    ∧ ((withDor d0 parked).dor 0).park ≠ none ∧ (∃ e ∈ ((withDor d0 parked).dor 0).ops, e.num = 0)
    ∧ ({ join with leas := [(0, { lea0 with cores := [0, 1] })] } : State).spoiledIn 0 0 = [0]
    ∧ (dor .loaded).late = [] ∧ (withDor d0 (dor .loaded)).spoiledIn 0 0 = [] := by and_intros <;> decide

/-- What a lea has written: a byte of its thread's slice, by its value, and the same after the range is given up. -/
theorem witness_Written :
    let a := lsOrigin + 0x1218
    let s := { d0 with mem := d0.mem.write a 1 0x5A }
    let mask : BitVec 256 := byteSet 0x5A 1
    s.lea 0 = some lea0 ∧ (regionOf a, mask) ∈ s.mem.past ∧ s.ownsRegion 0 lea0 (regionOf a) = true ∧ mask.getLsbD 0x5A = true
    ∧ (s.wrote (some 0)).getLsbD 0x5A = true ∧ (s.wrote (some 0)).getLsbD 0x5B = false ∧ (s.giveUp (some 0) lsOrigin 0x8000).mem.past = [] := by
  and_intros <;> decide

/-! ## Results of the spec's own examples, computed by hand there -/

/-- A test of the state that an instruction leaves. -/
def gives (o : Out1) (f : State → Bool) : Bool := match o with
  | .next s => f s
  | _ => false

/-- A register's value. -/
def reg (s : State) (k : Nat) : Nat := (s.w k).val.toNat

/-- R24's example: WP = 0x1000, CALL 8. -/
theorem test_call_opens_window :
    gives (exec (.call 8 8) ((st []).modDesc (fun d => { d with wp := 0x1000 })))
      (fun s => s.desc.wp == 0x1040 && s.pc == 0x50 && s.mem.read (s.work 0x1038) 8 == 0x44 && s.mem.read (s.work 0x1030) 8 == 0x1000)
    = true := by decide

/-- R24's example: sg0 ends below 0x1140. -/
theorem test_call_past_segment :
    gives (exec (.call 8 8) ((st []).modDesc (fun d => { d with wp := 0x1000, segs := d.segs.set 0 (seg 0x131 0 0x1138) })))
      (fun s => s.desc.wp == 0x1000 && s.desc.tcause.extractLsb' 0 8 == 0x23 && s.desc.tval == 0x1040 && s.mem.read (s.work 0x1038) 8 == 0)
    = true := by decide

/-- R115's examples: a field of four bits, and one cut to four. -/
theorem test_extr :
    gives (exec (.extr 2 1 3) (st [(1, 0xA000000000000001), (2, 0x3C3C)])) (fun s => reg s 3 == 0xA)
    && gives (exec (.extr 2 1 3) (st [(1, 0xA000000000000001), (2, 0x3F3C)])) (fun s => reg s 3 == 0xA) = true := by decide

/-- R116's example: CMPI.LTU with −1. -/
theorem test_cmpi_ltu :
    gives (exec (.cmpi 4 0x1FF 1 3) (st [(1, 2 ^ 64 - 2)])) (fun s => reg s 3 == 1)
    && gives (exec (.cmpi 4 0x1FF 1 3) (st [(1, 2 ^ 64 - 1)])) (fun s => reg s 3 == 0) = true := by decide

/-- R117: LIH shifts in 16 bits. -/
theorem test_lih : gives (exec (.lih 0xBEEF 1) (st [(1, 0x1234)])) (fun s => reg s 1 == 0x1234BEEF) = true := by decide

/-- R112: the most negative number divided by −1, issued with its value. -/
theorem test_div_corner :
    gives (exec (.div 0 2 1 3) (st [(1, 2 ^ 63), (2, 2 ^ 64 - 1)])) (fun s => s.outs.any (fun o => match o.work with
      | .compute [v] _ t => v.val == 0x8000000000000000 && t == 1066
      | _ => false)) = true := by decide

/-- R130: LOOP of 0 wraps and branches, by off10 = −3. -/
theorem test_loop_wraps :
    gives (exec (.loop 0x3FD 17) (st [])) (fun s => reg s 17 == 2 ^ 64 - 1 && s.pc == 0x3A) = true := by decide

/-- The example after R142: y0 = FRSQE.S 4.0. -/
theorem test_frsqe :
    gives (exec (.frsqe 0 0 1 2) (st [(1, 0x40800000)])) (fun s => reg s 2 == 0x3EFFE000 && s.desc.stat == 0x208) = true := by decide

/-- The same example: FNMA.S is exact, and the last FMUL.S rounds and sets NX. -/
theorem test_newton_step :
    gives (exec (.fnma 0 0 3 5 4) (st [(3, 0x3F7FC004), (4, 0x3FC00000), (5, 0x3F000000)])) (fun s => reg s 4 == 0x3F800FFF && s.desc.stat == 0x208)
    && gives (exec (.fmul 0 0 4 2 6) (st [(2, 0x3EFFE000), (4, 0x3F800FFF)])) (fun s => reg s 6 == 0x3EFFFFFA && s.desc.stat == 0x308)
    = true := by decide

/-- R91's example: SRGEN 3 steps. -/
theorem test_srgen : srStep 3 = (0xD800000000000001, 0xD8000000) := by decide

/-- The element of that example rounds up. -/
theorem test_stochastic : (roundAt (.rsr 0xD8000000) false 0x30000000 (-32) 0).1 = 1 := by decide

/-- R167's example: VQUANT.E2M1.FP32 of x0 = 12, x1 = −5, x2 = 0.6, x3 = 7 gives codes 7, 0xC, 1, 6 and E = 33 of type 0b01. -/
theorem test_quant :
    let b := quantBlock fp32 ⟨.rne, false, false⟩ 1 ([0x41400000, 0xC0A00000, 0x3F19999A, 0x40E00000].map (fun v => ((⟨v, 0, false⟩ : El), true, .rne))
      ++ List.replicate 28 (⟨0, 0, false⟩, true, .rne))
    (b.1.map (fun e => e.val)).take 5 = [7, 0xC, 1, 6, 0] ∧ b.2.val = 0x61 := by decide

/-- R349's example: 2^24 + 1.0 on core 0, and then the core values in rank order. -/
theorem test_gred_fold :
    gredFold 9 [⟨0x4B800000, false⟩, ⟨0x3F800000, false⟩] = some ⟨0x4B800000, false⟩
    ∧ gredFold 9 [⟨0x4B800000, false⟩, ⟨0x40000000, false⟩, ⟨0x3F800000, false⟩] = some ⟨0x4B800002, false⟩ := by decide

/-- R259's example: the first doubleword of row 3 at unit 3, and with STEP = 3 at unit 1. -/
theorem test_skew :
    let m (step : Nat) : TMap := ⟨4, 2, 3, 0, [16, 8], [64], step, 1, 0, 0⟩
    (m 1).inRow 0 3 = 24 ∧ (m 3).inRow 0 3 = 8 := by decide

/-- R260's example of a map. -/
theorem test_map :
    let m := mapOf (fun i => ([0x0223000000008000, 0x0040000000000100, 0x0020000000000000] : List Word).getD i 0)
    m.esz = 4 ∧ m.ndim = 2 ∧ m.sg = 3 ∧ m.off = 0x8000 ∧ m.extent 0 = 64 ∧ m.extent 1 = 32 ∧ m.str 1 = 256 ∧ m.bad true = false := by decide

/-- R386's example of a walk, with its five reads. -/
theorem test_walk :
    let b (a : Nat) (v : Nat) : Cells := (List.range 8).filterMap (fun i => if v / 256 ^ i % 256 = 0 then none else some (a + i, BitVec.ofNat 8 (v / 256 ^ i)))
    let l := { lea0 with s2 := [(0, 0x048C00184000_0027), (17, 0x048C001845600037)], s1root := [(1, 0x100000)], keys := [0x123], s2len := 18 }
    let s : State := { d0 with
      mem := ⟨b 0x1840100000 0x110001 ++ b 0x1840110010 0x120001 ++ b 0x1840125018 0x234002F, [], [], [], [], []⟩
      leas := [(0, l)]
      head := { d0.head with frames := [(0x1840000000 / 2 ^ 21, 0x123), (0x1845600000 / 2 ^ 21, 0x123)] } }
    (match s.translate 0 1 0x4A035C40 [.r] with
      | .ok e => decide (e.host 0x4A035C40 = 0x1845745C40) && !e.big
      | _ => false) = true
    ∧ channelOf 0x1845745C40 = 128 + 46
    ∧ ({ s with head := { s.head with frames := [(0x1840000000 / 2 ^ 21, 0x123), (0x1845600000 / 2 ^ 21, 0x124)] } }.translate 0 1 0x4A035C40 [.r])
        = .fault 0x34 := by decide

/-- R371: the order in which the curve visits the dies. -/
theorem test_curve : (List.range 8).map (fun k => dieOf (curveCore (256 * k))) = [0, 4, 5, 1, 2, 6, 7, 3]
    ∧ (List.range 8).map (fun k => dieOf (curveCore (256 * k + 255))) = [0, 4, 5, 1, 2, 6, 7, 3] := by decide

/-- R330's example: 40 tides at 1.5 GHz of 2.0 GHz, and slices of 16 lengthened by 4, 4 and 2. -/
theorem test_debt :
    40 * deficit 40 3072 = 10 * 4096 ∧ lengthening (10 * 4096) 16 = 4 ∧ lengthening (6 * 4096) 16 = 4 ∧ lengthening (2 * 4096) 16 = 2 := by decide

/-- R345's example: core 5, slot 3, the first and the second attempt. -/
theorem test_backoff :
    let s (n : Nat) := (st [(7, n)]).modSlot 0 0 (fun x => { x with coreReg := 5, slotReg := 3 })
    gives (exec (.backoff 7) (s 0)) (fun t => t.me.wait == .backoff 2048 (t.wAddr 7) 0)
    && gives (exec (.backoff 7) (s 1)) (fun t => t.me.wait == .backoff 6144 (t.wAddr 7) 1) = true := by decide

/-- R270: the count wraps and says so. -/
theorem test_semaphore_wraps :
    (({ Core.reset with sems := [(3, ⟨0xFFFFFFFFFFFF, false, []⟩)] } : Core).addNow 3 1).sem 3 = ⟨0, true, []⟩ := by
  decide

/-- R25, R105: a read of an empty word parks the thread on it, and PC stays. -/
theorem test_empty_parks :
    gives (exec (.add 2 1 3) (d0.markWord (d0.wAddr 2) .empty)) (fun s => s.me.run == .parked && s.me.wait == .word (d0.wAddr 2) && s.pc == 0x40)
    = true := by decide

/-- R26: a write to a word owed a result forfeits. -/
theorem test_pending_forfeits :
    gives (exec (.add 2 1 3) (d0.markWord (d0.wAddr 3) .pending)) (fun s => s.me.run == .forfeiting && s.pc == 0x40) = true := by decide

/-- R401, R413: TRAP 5 halts its thread with cause 0x08, TVAL 5 and a record. -/
theorem test_trap :
    gives (exec (.trap 5) d0) (fun s => s.me.run == .halted && s.desc.tcause.extractLsb' 0 8 == 0x08 && s.desc.tval == 5 && s.desc.tpc == 0x40
      && s.pc == 0x40 && s.me.record.length == 1) = true := by decide

/-- R404: an LDD at offset 0x104 is misaligned. -/
theorem test_misaligned :
    gives (exec (.ldd none 0 0 1 1 3) (st [(1, 0x104)])) (fun s => s.desc.tcause.extractLsb' 0 8 == 0x25 && s.desc.tval == 0x104) = true := by decide

/-- R234: a signed byte and an unsigned halfword. -/
theorem test_load_extends :
    let p : Part := { partOf .performed none with size := 1, res := 0x80 }
    (accOf (.load true) 4 p).results [⟨0, false⟩] = [⟨0xFFFFFFFFFFFFFF80, false⟩]
    ∧ (accOf (.load false) 4 p).results [⟨0, false⟩] = [⟨0x80, false⟩] := by decide

/-- R241: AMOADD returns the old word. -/
theorem test_amoadd :
    let a := lsAddr 0 0x80100
    let m := Memory.reset.putWord a ⟨5, false⟩
    homeOp m false 0 (.amo 0 0) a (part8 a 3) = some (m.putWord a ⟨8, false⟩, ⟨5, false⟩) := by decide

/-- A step from a placed word, the spec's MOVI w16, 10 in its compact form: w16 = 10 and PC = 2. -/
theorem test_step : gives (step (State.reset.withFetchWord 16 0x3029)) (fun s => reg s 16 == 10 && s.pc == 2) = true := by decide

/-- A step of a placed Dorent word, DHALT 5: the context fails with 0x85 (R294). -/
theorem test_dorent_step :
    gives (step (State.reset.withFetchWord 64 0x6050000000000000)) (fun s => (s.dor 0).state == .failed && (s.dor 0).err == 0x85) = true := by
  decide

/-- Words of the spec's examples: R407's table, and those after R65, R142, R254, R345 and R349. -/
theorem test_words_examples :
    decodeTableWord 32 0x041000E7 = some (.crd 0x041 1) ∧ decodeTableWord 32 0x00025067 = some (.cwrStat 5)
    ∧ decodeTableWord 32 0x0000506B = some (.trap 5) ∧ decodeTableWord 32 0x0040006B = some (.brk 0)
    ∧ decodeTableWord 32 0x0080006B = some .halt ∧ decodeTableWord 32 0x00C0406B = some (.wfm 4)
    ∧ decodeTableWord 32 0x000A406F = some (.eret 5 4) ∧ decodeTableWord 32 0x0040406F = some (.resume 4)
    ∧ decodeTableWord 32 0x0080436F = some (.preempt 4 6) ∧ decodeTableWord 32 0x00CA406F = some (.ctxld 5 4)
    ∧ decodeTableWord 32 0x010A406F = some (.tlbinv 5 4) ∧ decodeTableWord 32 0x014A41EF = some (.segld 5 4 3)
    ∧ decodeTableWord 32 0x0180406F = some (.rotset 4) ∧ decodeTableWord 32 0x48C03A57 = some (.gred 9 3 20)
    ∧ decodeTableWord 32 0x0444A727 = some (.nred 4 2 10 14) ∧ decodeTableWord 32 0x010003DB = some (.backoff 7)
    ∧ decodeTableWord 32 0x0146520F = some (.fnma 0 0 3 5 4) ∧ decodeTableWord 32 0x4800221B = some (.ldl 2 0 4) := by decide

/-- R67's example: RX.DIE and LDD w4, sg2:[w5+16] !3. -/
theorem test_prefix :
    (match decode true [0x000A, 0x5213, 0x08F4] with
      | .ok i n => i == .ldd (some 2) 2 3 2 5 4 && n == 3
      | _ => false) = true := by decide

end Sys2Proof.Tests
end

namespace Sys2Proof.Proofs

open Sys2Proof Sys2Proof.Machine Sys2Proof.Laws

section
variable {s : State}

/-! ## General forms -/

/-- A state with the memory of another is as canonical. -/
theorem wf_of_mem {t : State} (e : t.mem = s.mem) (h : MemoryOk s) : MemoryOk t := by rwa [MemoryOk, e]

/-- A fold whose every step leaves memory alone leaves it alone. -/
theorem foldl_mem {α : Type} {f : State → α → State} (hf : ∀ s x, (f s x).mem = s.mem) :
    ∀ (l : List α) (s : State), (l.foldl f s).mem = s.mem
  | [], _ => rfl
  | x :: t, s => (foldl_mem hf t (f s x)).trans (hf s x)

/-- A fold of memories whose every step keeps the canonical form keeps it. -/
theorem foldlMemory_wf {α : Type} {f : Memory → α → Memory} (hf : ∀ m x, m.wf = true → (f m x).wf = true) :
    ∀ (l : List α) {m : Memory}, m.wf = true → (l.foldl f m).wf = true
  | [], _, h => h
  | x :: t, m, h => foldlMemory_wf hf t (hf m x h)

theorem ite_wf {c : Prop} {_ : Decidable c} {t u : State} (ht : MemoryOk t) (hu : MemoryOk u) : MemoryOk (if c then t else u) := by
  split
  · exact ht
  · exact hu

theorem withOperands_wf {src dst : List Nat} {k : State → State} (h : MemoryOk s) (hk : MemoryOk (k s)) :
    MemoryOk (s.withOperands src dst k) := withOperands_ind (P := MemoryOk) hk h (fun _ => h)

theorem withPool_wf {f : State → State} (h : MemoryOk s) (hk : MemoryOk (f s)) : MemoryOk (s.withPool f) :=
  withPool_ind (P := MemoryOk) hk h

theorem withSpace_wf {n : Nat} {f : State → State} (h : MemoryOk s) (hk : MemoryOk (f s)) : MemoryOk (s.withSpace n f) :=
  withSpace_ind (P := MemoryOk) hk h h

theorem raise_wf {n : Nat} {c : BitVec 8} {v : Word} (h : MemoryOk s) : MemoryOk (s.raise n c v) := wf_of_mem (raise_mem ..) h

theorem needClean_wf {n k : Nat} {c : BitVec 8} {f : State → State} (h : MemoryOk s) (hk : MemoryOk (f s)) :
    MemoryOk (s.needClean n c k f) := needClean_ind (P := MemoryOk) hk (fun _ => raise_wf h)

theorem needCleans_wf {n : Nat} {c : BitVec 8} {l : List Nat} {f : State → State} (h : MemoryOk s) (hk : MemoryOk (f s)) :
    MemoryOk (s.needCleans n c l f) := needCleans_ind (P := MemoryOk) hk (fun _ => raise_wf h) l

theorem withLimit_wf {k : Kind} {f : State → State} (h : MemoryOk s) (hk : MemoryOk (f s)) : MemoryOk (s.withLimit k f) :=
  withLimit_ind (P := MemoryOk) hk h

theorem withFlits_wf {sp n : Nat} {f : State → State} (h : MemoryOk s) (hk : MemoryOk (f s)) : MemoryOk (s.withFlits sp n f) :=
  withFlits_ind (P := MemoryOk) hk h

theorem withExchange_wf {f : State → State} (h : MemoryOk s) (hk : MemoryOk (f s)) : MemoryOk (s.withExchange f) :=
  withExchange_ind (P := MemoryOk) hk h

theorem memIssue_wf {ilen k n al : Nat} {off : Int} {rights : List Right} {ok dsts : List Nat} {f : State → Nat → State}
    (h : MemoryOk s) (hk : ∀ a, MemoryOk (f s a)) : MemoryOk (s.memIssue ilen k off n al rights ok dsts f) :=
  memIssue_ind (P := MemoryOk) hk (fun _ _ => raise_wf h)

theorem sup_wf {bits : Word} {f : State → State} (h : MemoryOk s) (hk : MemoryOk (f s)) : MemoryOk (s.sup bits f) :=
  sup_ind (P := MemoryOk) hk (raise_wf h)

theorem no15_wf {bits : Word} {f : State → State} (h : MemoryOk s) (hk : MemoryOk (f s)) : MemoryOk (s.no15 bits f) :=
  no15_ind (P := MemoryOk) hk (raise_wf h)

theorem withBlock_wf {k off n : Nat} {c : BitVec 8} {f : State → (Nat → Word) → State} (h : MemoryOk s)
    (hk : ∀ w, MemoryOk (f s w)) : MemoryOk (s.withBlock k off n c f) :=
  withBlock_ind (P := MemoryOk) hk h (fun _ _ => raise_wf h)

/-- R176, R178: a bay instruction runs on under its condition, forfeits, or parks for the pool. -/
theorem withBay_wf {cond : Bay → Bool} {f : State → State} (h : MemoryOk s) (hk : MemoryOk (f s)) : MemoryOk (s.withBay cond f) := by
  refine withPool_wf h ?_
  split
  · exact hk
  · exact h

theorem withPort_wf {cond : Bay → Bool} {f : State → State} (h : MemoryOk s) (hk : MemoryOk (f s)) :
    MemoryOk (s.withPort cond f) := withBay_wf h (withLimit_wf h hk)

theorem portCheck_wf {k : BitVec 3} {b n : Nat} {right : Right} {f : State → Nat → State} (h : MemoryOk s)
    (hk : ∀ a, MemoryOk (f s a)) : MemoryOk (s.portCheck k b n right f) := by
  refine needClean_wf h ?_
  dsimp only
  split
  · exact raise_wf h
  · split
    · exact raise_wf h
    · exact hk _

theorem withMap_wf {bits : Word} {r : Nat} {f : State → (Nat → Word) → Nat → State} (h : MemoryOk s)
    (hk : ∀ w o, MemoryOk (f s w o)) : MemoryOk (s.withMap bits r f) := by
  unfold State.withMap
  dsimp only
  split
  · exact raise_wf h
  · exact withBlock_wf h (fun w => hk w _)

theorem withShadow_wf {f : State → State} (h : MemoryOk s) (hk : MemoryOk (f s)) : MemoryOk (s.withShadow f) := by
  refine withPool_wf h ?_
  split
  · split
    · exact h
    · exact hk
  · exact hk

/-- R105, log 41: a loose operand's value comes from memory as it is, or is a free value. -/
theorem withLoose_wf {k : Nat} {f : State → Word → Bool → State} (h : MemoryOk s)
    (hk : ∀ t v b, MemoryOk t → MemoryOk (f t v b)) : MemoryOk (s.withLoose k f) := by
  unfold State.withLoose
  split
  · exact hk _ _ _ h
  · exact hk _ _ _ h

theorem withToken_wf {a d : Nat} {f : State → Nat → Bool → State} (h : MemoryOk s)
    (hk : ∀ t n b, MemoryOk t → MemoryOk (f t n b)) : MemoryOk (s.withToken a d f) := by
  refine withOperands_wf h (withLoose_wf h (fun t v b ht => ?_))
  split
  · exact raise_wf ht
  · exact hk _ _ _ ht

theorem amAddress_wf {a b d : Nat} {f : State → Nat → Nat → State} (h : MemoryOk s) (hk : ∀ c k, MemoryOk (f s c k)) :
    MemoryOk (s.amAddress a b d f) := by
  refine withOperands_wf h (withExchange_wf h (needCleans_wf h ?_))
  dsimp only
  split
  · exact raise_wf h
  · split
    · exact raise_wf h
    · exact hk _ _

theorem withBarrier_wf {k : Nat} {f : State → Gang → State} (h : MemoryOk s) (hk : ∀ g, MemoryOk (f s g)) :
    MemoryOk (s.withBarrier k f) := by
  refine withExchange_wf h ?_
  split
  · exact raise_wf h
  · split
    · exact raise_wf h
    · exact hk _

theorem withCr_wf {i : Nat} {f : State → State} (h : MemoryOk s) (hk : MemoryOk (f s)) : MemoryOk (s.withCr i f) := by
  unfold State.withCr
  split
  · exact withPool_wf h hk
  · exact hk

theorem crWrite_wf {i : BitVec 12} {a : BitVec 5} {f : State → Word → State} (h : MemoryOk s) (hk : ∀ v, MemoryOk (f s v)) :
    MemoryOk (s.crWrite i a f) := by
  refine withOperands_wf h (withCr_wf h (needClean_wf h ?_))
  split
  · exact raise_wf h
  · exact raise_wf h
  · exact h
  · exact hk _

theorem withDescs_wf {old new : Nat} {f : State → State} (h : MemoryOk s) (hk : MemoryOk (f s)) :
    MemoryOk (s.withDescs old new f) := by
  unfold State.withDescs
  split
  · exact withPool_wf h hk
  · exact hk

theorem semOp_wf {a : Nat} {release : Bool} {f : State → Nat → State} (h : MemoryOk s) (hk : ∀ n, MemoryOk (f s n)) :
    MemoryOk (s.semOp a release f) := by
  refine withOperands_wf h (withPool_wf h ?_)
  dsimp only
  split
  · exact h
  · refine needClean_wf h ?_
    split
    · exact raise_wf h
    · exact hk _

theorem withCtx_wf {f : Nat → Dorent → DMember → State} (h : MemoryOk s) (hk : ∀ c d r, MemoryOk (f c d r)) :
    MemoryOk (s.withCtx f) := by
  unfold State.withCtx
  dsimp only
  split
  · split
    · exact hk _ _ _
    · exact h
  · exact h

theorem nredRows_wf {g rs bank : Nat} {v : VReg} {f : State → List Part → State} (h : MemoryOk s)
    (hk : ∀ ps, MemoryOk (f s ps)) : ∀ (l : List Nat) (ps : List Part), MemoryOk (s.nredRows g v rs bank l ps f)
  | [], ps => hk ps
  | k :: t, ps => by
    unfold State.nredRows
    dsimp only
    split
    · exact raise_wf h
    · split
      · exact raise_wf h
      · exact nredRows_wf h hk t _

end
end Sys2Proof.Proofs

namespace Sys2Proof.Proofs

open Sys2Proof Sys2Proof.Machine Sys2Proof.Laws

section
variable {s : State} {core slot lea tid id i j n a c d k : Nat} {o : Out} {x : Access} {p : Part}

/-! ## Translation, buffers, accesses -/

@[simp] theorem parkRecord_mem (s : State) (c : Nat) (l : Option Nat) (slot : Nat) (u : RecUnit) (il cause : Nat) (pc tval aux : Word) :
    (s.parkRecord c l slot u il cause pc tval aux).mem = s.mem := by
  unfold State.parkRecord
  split <;> rfl

@[simp] theorem usePage_mem (s : State) (core lea die : Nat) (need : List Right) (va : Nat) :
    (s.usePage core lea die need va).mem = s.mem := by
  unfold State.usePage
  split <;> rfl

@[simp] theorem logFault_mem (s : State) (lea cause tval : Nat) : (s.logFault lea cause tval).mem = s.mem := by
  unfold State.logFault
  split <;> rfl

@[simp] theorem logPage_mem (s : State) (lea frame : Nat) : (s.logPage lea frame).mem = s.mem := rfl

@[simp] theorem parkHeld_mem (s : State) (o : Out) : (s.parkHeld o).mem = s.mem := rfl

@[simp] theorem wakeHeld_mem (s : State) (id : Nat) : (s.wakeHeld id).mem = s.mem := by
  unfold State.wakeHeld
  split
  · rfl
  · split <;> rfl

@[simp] theorem outFault_mem (s : State) (o : Out) (cause off : Nat) : (s.outFault o cause off).mem = s.mem := by
  simp [State.outFault]

theorem spoilAt_wf {js : List Nat} (h : MemoryOk s) : MemoryOk (s.spoilAt core js) := by
  refine foldl_wf (fun s j h => ?_) js h
  split
  · exact bufFree_wf _ _ _ _ h
  · exact h

@[simp] theorem raiseFlagsOf_mem (s : State) (core slot tid : Nat) (f : Flags) : (s.raiseFlagsOf core slot tid f).mem = s.mem := rfl

theorem fillOut_wf {vals : List PWord} {fl : Flags} (h : MemoryOk s) : MemoryOk (s.fillOut o vals fl) := by
  refine wf_of_mem (dropOut_mem ..) ?_
  exact fillWords_wf (o.dst.zip (s.freshBad (some o.lea) s.free vals)) (s := { s with free := s.free + vals.length }) h

@[simp] theorem performWindow_mem (s : State) (o : Out) (x : Access) (i : Nat) (p : Part) : (s.performWindow o x i p).mem = s.mem := by
  unfold State.performWindow
  dsimp only
  split <;> rfl

theorem missLine_mem (s : State) (l known : Nat) : (s.missLine l known).mem = s.mem := by
  unfold State.missLine
  dsimp only
  split <;> rfl

theorem remoteOp_wf {l : BitVec 4} {g : BitVec 3} {srcs dst : List Nat} {rights : List Right} {op : MemOp} {sem : Option Nat}
    {data : State → PWord} (h : MemoryOk s) : MemoryOk (s.remoteOp l g a srcs dst n rights op sem data) := by
  refine withOperands_wf h (withLimit_wf h (withSpace_wf h (needClean_wf h (memIssue_wf h fun _ => ?_))))
  dsimp only
  split
  · exact raise_wf h
  · exact startAccess_wf _ _ _ _ _ h

/-! ## Bank commands -/

theorem sendCmd_wf {w : Bool} {look : Nat} {dst : List Nat} {c : BankCmd} (h : MemoryOk s) : MemoryOk (s.sendCmd w look dst c) :=
  withLimit_wf h (markPending_wf dst (s := s.addOut _) h)

theorem bankVec_wf {fn : Nat} {v : BitVec 4} {g : BitVec 3} {a d : BitVec 5} (h : MemoryOk s) : MemoryOk (s.bankVec fn v g a d) := by
  refine withOperands_wf h (withSpace_wf h (needClean_wf h (needClean_wf h (memIssue_wf h fun _ => ?_))))
  dsimp only
  split
  · exact raise_wf h
  · split
    · exact sendCmd_wf h
    · split
      · exact raise_wf h
      · refine ite_wf (raise_wf h) ?_
        exact nredRows_wf (f := fun t _ => t.sendCmd ..) h (fun _ => sendCmd_wf h) _ _

theorem bankElemStep_wf {c : BankCmd} {pa : Nat} {rows : List Nat} (h : MemoryOk s) :
    MemoryOk (s.bankElemStep lea c pa rows i) := by
  unfold State.bankElemStep
  dsimp only
  split
  · exact h
  · exact store_wf _ _ _ _ h

theorem bankRun_wf {c : BankCmd} {pa : Nat} {rows els : List Nat} (h : MemoryOk s) : MemoryOk (s.bankRun lea c pa rows els) :=
  foldl_wf (fun _ _ => bankElemStep_wf) els h

theorem namoRun_wf {c : BankCmd} {pa : Nat} (h : MemoryOk s) : MemoryOk (s.namoRun lea c pa).1 := by
  unfold State.namoRun
  dsimp only
  split
  · rename_i hm
    exact homeOp_wf h hm
  · exact h

theorem vmem_wf {rx : Option (BitVec 3)} {store : Bool} {look : Nat} {m g : BitVec 3} {a : BitVec 5} {d : BitVec 4} {f : VForm}
    (h : MemoryOk s) : MemoryOk (s.vmem rx store look m g a d f) := by
  refine withOperands_wf h (withLimit_wf h (withSpace_wf h (withFlits_wf h (needClean_wf h ?_))))
  split
  · exact raise_wf h
  · dsimp only
    split
    · exact raise_wf h
    · split
      · exact raise_wf h
      · split
        · exact raise_wf h
        · exact markPending_wf _ (s := State.addOut _ _) h

/-! ## What becomes of accesses after issue -/

@[simp] theorem takeService_mem (s : State) (ch : Nat) : (s.takeService ch).mem = s.mem := rfl

@[simp] theorem outPage_mem (s : State) (o : Out) (page frame : Nat) : (s.outPage o page frame).mem = s.mem := by
  unfold State.outPage
  dsimp only
  split <;> rfl

@[simp] theorem beginRead_mem (s : State) (id i root : Nat) : (s.beginRead id i root).mem = s.mem := rfl

@[simp] theorem beginUnit_mem (s : State) (lea : Nat) (flow : List (Nat × Nat)) (a : Nat) : (s.beginUnit lea flow a).1.mem = s.mem := by
  unfold State.beginUnit
  split <;> rfl

@[simp] theorem beginUnits_mem (lea : Nat) : ∀ (l : List Nat) (s : State) (flow : List (Nat × Nat)),
    (s.beginUnits lea flow l).1.mem = s.mem
  | [], _, _ => rfl
  | a :: l, s, flow => (beginUnits_mem lea l (s.beginUnit lea flow a).1 (s.beginUnit lea flow a).2).trans (beginUnit_mem ..)

@[simp] theorem walkDone_mem (s : State) (id i : Nat) : (s.walkDone id i).mem = s.mem := by
  unfold State.walkDone
  dsimp only
  repeat' split
  all_goals simp

theorem placePart_mem {r : Nat × State} (e : s.placePart o i p = some r) : r.2.mem = s.mem := by
  unfold State.placePart at e
  split at e
  · cases e; rfl
  · split at e
    · cases e
    · split at e
      · cases e; rfl
      · cases e

theorem placeRows_mem {t : State} : ∀ {l : List Part} {s : State} {i : Nat}, s.placeRows o i l = some t → t.mem = s.mem
  | [], _, _, e => by cases e; rfl
  | p :: l, s, i, e => by
    unfold State.placeRows at e
    split at e
    · rename_i hp
      exact (placeRows_mem e).trans (placePart_mem hp)
    · cases e

@[simp] theorem flitInject_mem (s : State) (id i : Nat) : (s.flitInject id i).mem = s.mem := by
  unfold State.flitInject
  split
  · rfl
  · split
    · rfl
    · split
      · split
        · rfl
        · split
          · rfl
          · split
            · rfl
            · rename_i hp
              exact placePart_mem hp
      · split
        · rfl
        · split
          · rfl
          · rename_i s1 hp
            exact (placeRows_mem hp : s1.mem = s.mem)
      · rfl

theorem unitStore_wf {v : Nat} {bad : Bool} (h : MemoryOk s) : MemoryOk (s.unitStore a n v bad) := by
  unfold State.unitStore
  dsimp only
  split
  · exact touched_wf _ (setFe_wf _ _ (noteWriter_wf _ _ (store_wf _ _ _ _ h)))
  · exact noteWriter_wf _ _ (store_wf _ _ _ _ h)

theorem unitWrites_wf : ∀ {n : Nat} {l : List (Nat × Byte × Bool)} {s : State}, MemoryOk s → MemoryOk (s.unitWrites n l)
  | 0, _, _, h => by simpa [State.unitWrites] using h
  | n + 1, [], _, h => by simpa [State.unitWrites] using h
  | n + 1, (x, v) :: t, s, h => by
    unfold State.unitWrites
    dsimp only
    split
    · exact unitWrites_wf (unitStore_wf h)
    · exact unitWrites_wf (unitStore_wf h)

theorem bufWrite_wf {b : DBuf} {l : List (Byte × Bool)} (h : MemoryOk s) : MemoryOk (s.bufWrite core b n l) := unitWrites_wf h

theorem flushLate_wf (h : MemoryOk s) : MemoryOk (s.flushLate core) := by
  unfold State.flushLate
  dsimp only
  split
  · exact h
  · exact unitWrites_wf h

theorem flushLea_wf (h : MemoryOk s) : MemoryOk (s.flushLea lea) := by
  unfold State.flushLea
  split
  · exact foldl_wf (fun _ _ => flushLate_wf) _ h
  · exact h

theorem flushFor_wf (h : MemoryOk s) : MemoryOk (s.flushFor core lea) := foldl_wf (fun _ _ => flushLate_wf) _ h

theorem performPart_wf (h : MemoryOk s) : MemoryOk (s.performPart o x i a) := by
  unfold State.performPart
  dsimp only
  split
  · rename_i hp
    exact touched_wf _ (tryPart_wf (flushFor_wf h) hp)
  · split <;> exact flushFor_wf h

theorem accessAtHome_wf (h : MemoryOk s) : MemoryOk (s.accessAtHome id i) := by
  unfold State.accessAtHome
  split
  · exact h
  · split
    · exact h
    · split
      · exact h
      · split
        · exact h
        · split
          · split
            · exact wf_of_mem (performWindow_mem ..) h
            · exact h
          · split
            · exact h
            · split
              · exact performPart_wf h
              · exact h

@[simp] theorem hbmStart_mem (s : State) (id i : Nat) : (s.hbmStart id i).mem = s.mem := by
  unfold State.hbmStart
  repeat' split
  all_goals rfl

theorem hbmDone_wf (h : MemoryOk s) : MemoryOk (s.hbmDone id i) := by
  unfold State.hbmDone
  split
  · exact h
  · split
    · exact h
    · split
      · exact h
      · split
        · split
          · exact performPart_wf h
          · exact h
        · exact h

theorem resultFill_wf (h : MemoryOk s) : MemoryOk (s.resultFill id) := by
  unfold State.resultFill
  split
  · exact h
  · split
    · exact h
    · split
      · split
        · exact fillOut_wf h
        · exact h
      · split
        · exact fillOut_wf h
        · exact h
      · exact h

@[simp] theorem logDiscard_mem (s : State) (d lea : Nat) (a : Option Nat) : (s.logDiscard d lea a).mem = s.mem := rfl

@[simp] theorem responder_mem (s : State) (o : Out) (x : Access) (a : Nat) : (s.responder o x a).mem = s.mem := by
  unfold State.responder
  dsimp only
  split <;> rfl

@[simp] theorem dropMail_mem (s : State) (id : Nat) : (s.dropMail id).mem = s.mem := rfl

@[simp] theorem answer_mem (s : State) (m : Mail) (b : Msg) : (s.answer m b).mem = s.mem := rfl

theorem bankServe_wf {c : BankCmd} (h : MemoryOk s) : MemoryOk (s.bankServe o c) :=
  ite_wf (flushFor_wf h) (foldl_wf (fun _ _ => spoil_wf _ _ _ _) _ (bankRun_wf (flushFor_wf h)))

@[simp] theorem bankAdd_mem (s : State) (o : Out) (c : BankCmd) : (s.bankAdd o c).mem = s.mem := by
  unfold State.bankAdd
  split
  · split <;> rfl
  · rfl

theorem bankExecute_wf (h : MemoryOk s) : MemoryOk (s.bankExecute n) := by
  unfold State.bankExecute
  split
  · exact h
  · split
    · exact h
    · split
      · dsimp only
        split
        · exact h
        · split
          · exact h
          · rename_i c _ _ _ _
            have h0 : MemoryOk (if c.sem.isSome then { s with free := s.free + 1 } else s) := ite_wf h h
            refine ite_wf (bankServe_wf (ite_wf h0 h0)) (ite_wf (spoil_wf _ _ _ _ (namoRun_wf (bankServe_wf (ite_wf h0 h0)))) ?_)
            exact wf_of_mem (bankAdd_mem ..) (wf_of_mem (dropOut_mem ..) (bankServe_wf (ite_wf h0 h0)))
      · exact h

@[simp] theorem fetchHeld_mem (s : State) (core slot : Nat) (frame : Option Nat) : (s.fetchHeld core slot frame).mem = s.mem := rfl

@[simp] theorem fillStep_mem (s : State) (core : Nat) (f : Fill) : (s.fillStep core f).mem = s.mem := by
  unfold State.fillStep
  dsimp only
  repeat' split
  all_goals simp

@[simp] theorem icacheFill_mem (s : State) (core : Nat) : (s.icacheFill core).mem = s.mem := by
  unfold State.icacheFill
  split
  · rfl
  · refine foldl_mem (fun s l => ?_) _ _
    split
    · exact fillStep_mem ..
    · rfl

end
end Sys2Proof.Proofs

namespace Sys2Proof.Proofs

open Sys2Proof Sys2Proof.Machine Sys2Proof.Laws

section
variable {s : State} {core slot lea tid id i j n a c d k : Nat} {o : Out} {x : Access} {p : Part} {g : Gang} {m : Mail}

/-! ## Vectors -/

theorem vissue_wf {srcs dst : List Nat} {look : BitVec 4} {lat : Nat} {f : State → State × List PWord × Flags} (h : MemoryOk s)
    (hf : MemoryOk (f s).1) : MemoryOk (s.vissue srcs dst look lat f) := by
  refine withOperands_wf h ?_
  dsimp only
  split
  · exact h
  · exact markPending_wf dst (s := State.addOut _ _) hf

theorem velem_wf {l : BitVec 4} {m : BitVec 3} {d : BitVec 4} {srcs : List Nat} {readD : Bool} {lat n w : Nat}
    {f : VMode → List VSrc → VSrc → Nat → El} (h : MemoryOk s) : MemoryOk (s.velem l m d srcs readD lat n w f) := by
  unfold State.velem
  refine vissue_wf h ?_
  dsimp only
  exact h

theorem vcmp_wf {t : BitVec 2} {l : BitVec 4} {m : BitVec 3} {b a : BitVec 4} {d : BitVec 3} {g : Bool × Bool → Bool}
    (h : MemoryOk s) : MemoryOk (s.vcmp t l m b a d g) := by
  refine vissue_wf h ?_
  exact h

theorem vmaskOp_wf {l : BitVec 4} {srcs : List Nat} {d : BitVec 3} {g : Nat → Nat → Nat} (h : MemoryOk s) :
    MemoryOk (s.vmaskOp l srcs d g) := by
  refine vissue_wf h ?_
  exact h

theorem vred_wf {w : BitVec 5} {l : BitVec 4} {m : BitVec 3} {b t : BitVec 4} {idle : Nat} {g : VMode → Val → Val → Nat × Flags}
    (h : MemoryOk s) : MemoryOk (s.vred w l m b t idle g) := by
  refine vissue_wf h ?_
  exact h

@[simp] theorem vectorServe_mem (s : State) (core : Nat) : (s.vectorServe core).mem = s.mem := by
  unfold State.vectorServe
  dsimp only
  repeat' split
  all_goals rfl

/-! ## Matrix bays -/

@[simp] theorem modBay_mem (s : State) (core : Nat) (f : Bay → Bay) : (s.modBay core f).mem = s.mem := rfl

theorem bayEnqueue_wf {w : Bool} {look : BitVec 4} {dst : List Nat} {k : Work} {op : BayOp} (h : MemoryOk s) :
    MemoryOk (s.bayEnqueue w look dst k op) := markPending_wf dst (s := State.addOut _ _) h

theorem dropOut_wf (h : MemoryOk s) : MemoryOk (s.dropOut id) := wf_of_mem (dropOut_mem ..) h

theorem bayEffect_wf {e : BayEntry} (h : MemoryOk s) : MemoryOk (s.bayEffect core e) := by
  unfold State.bayEffect
  dsimp only
  split
  · exact dropOut_wf h
  · exact dropOut_wf h
  · exact dropOut_wf h
  · split
    · exact dropOut_wf h
    · exact h
  · split
    · exact fillOut_wf (ite_wf h h)
    · exact ite_wf h h
  · split
    · exact fillOut_wf h
    · exact h
  · exact h

@[simp] theorem usePages_mem (s : State) (core lea space die : Nat) (need : List Right) (l : List Nat) :
    (s.usePages core lea space die need l).mem = s.mem := by
  unfold State.usePages
  split
  · exact foldl_mem (fun _ _ => usePage_mem ..) _ _
  · rfl

theorem writeImage_wf {j : PortJob} : ∀ {l : List (Nat × Nat × Nat)} {s : State}, MemoryOk s → MemoryOk (s.writeImage j l)
  | [], _, h => h
  | (_, _, _) :: _, s, h => writeImage_wf (s := s.unitStore _ _ _ _) (unitStore_wf h)

theorem spoilPieces_wf {l : List (Nat × Nat × Nat)} (h : MemoryOk s) : MemoryOk (s.spoilPieces o l) :=
  foldl_wf (fun _ _ => spoil_wf _ _ _ _) _ h

@[simp] theorem portFinish_mem (s : State) (core : Nat) (j : PortJob) (img : Cells) (bad : List Nat) :
    (s.portFinish core j img bad).mem = s.mem := dropOut_mem ..

@[simp] theorem portGoes_mem (s : State) (o : Out) : (s.portGoes o).mem = s.mem := rfl

theorem portMove_wf {j : PortJob} {l : List (Nat × Nat × Nat)} (h : MemoryOk s) : MemoryOk (s.portMove core j o l) := by
  unfold State.portMove
  dsimp only
  have hp : MemoryOk (((s.flushFor core o.lea).usePages core o.lea j.space j.die j.needs (l.map fun p => j.addr + p.1)).portGoes o) :=
    wf_of_mem (usePages_mem ..) (flushFor_wf h)
  refine ite_wf (wf_of_mem (portFinish_mem ..) ?_) ?_
  · exact ite_wf (spoilPieces_wf (writeImage_wf hp)) hp
  · exact ite_wf (spoilPieces_wf (writeImage_wf hp)) hp

@[simp] theorem portBegin_mem (s : State) (core : Nat) (j : PortJob) (o : Out) (l : List (Nat × Nat × Nat)) :
    (s.portBegin core j o l).mem = s.mem := beginUnits_mem ..

theorem hastenPart_wf (h : MemoryOk s) : MemoryOk (s.hastenPart id i) := by
  unfold State.hastenPart
  split
  · exact h
  · split
    · dsimp only
      refine ite_wf h (ite_wf (wf_of_mem (performWindow_mem ..) h) ?_)
      split
      · exact performPart_wf h
      · exact h
    · exact h

theorem hasten_wf (h : MemoryOk s) : MemoryOk (s.hasten tid id) :=
  foldl_wf (fun _ _ h => resultFill_wf (foldl_wf (fun _ _ => hastenPart_wf) _ h)) _ h

theorem portDrain_wf : ∀ {n : Nat} {s : State}, MemoryOk s → MemoryOk (State.portDrain core tid n s)
  | 0, _, h => h
  | n + 1, s, h => by
    unfold State.portDrain
    split
    · exact ite_wf (portDrain_wf (portMove_wf h)) h
    · exact h

theorem portFlush_wf (h : MemoryOk s) : MemoryOk (s.portFlush core tid) := by
  unfold State.portFlush
  split
  · exact ite_wf (portDrain_wf (hasten_wf h)) h
  · exact h

theorem undefImage_wf {j : PortJob} (h : MemoryOk s) : MemoryOk (s.undefImage core j o) := by
  refine ite_wf h (foldl_wf (fun s p h => ?_) _ h)
  split
  · exact ite_wf h (write_wf _ _ _ h)
  · exact h

theorem portStop_wf (h : MemoryOk s) : MemoryOk (s.portStop core) := by
  unfold State.portStop
  split
  · exact h
  · dsimp only
    split
    · exact ite_wf (undefImage_wf h) h
    · exact h

/-! ## The transfer engine -/

theorem writeShadow_wf {bits : Word} {c : TCmd} (h : MemoryOk s) : MemoryOk (s.writeShadow bits c) := ite_wf (raise_wf h) h

theorem moveCmd_wf {kind : Nat} {fn : BitVec 5} {k : BitVec 6} {c : BitVec 1} {b a : BitVec 5} (h : MemoryOk s) :
    MemoryOk (s.moveCmd kind fn k c b a) := by
  refine withOperands_wf h (withShadow_wf h (needCleans_wf h (withMap_wf h fun _ _ => withMap_wf h fun _ _ => ?_)))
  refine ite_wf (raise_wf h) (ite_wf (raise_wf h) ?_)
  split
  · exact raise_wf h
  · exact raise_wf h
  · split
    · exact raise_wf h
    · exact ite_wf (raise_wf h) (ite_wf (raise_wf h) (writeShadow_wf h))

theorem moveElem_wf {t : TActive} {e : Elem} (h : MemoryOk s) : MemoryOk (s.moveElem core lea t e) := by
  have put : ∀ {d n v bad}, MemoryOk ((s.unitStore d n v bad).spoil core lea d n) := spoil_wf _ _ _ _ (unitStore_wf h)
  unfold State.moveElem
  dsimp only
  split
  · split
    · exact put
    · split
      · exact put
      · exact put
      · exact h
  · exact h

theorem moveRanks_wf {t : TActive} {l : List Nat} (h : MemoryOk s) : MemoryOk (s.moveRanks core lea t l) :=
  foldl_wf (fun _ _ => moveElem_wf) _ h

theorem moveSome_wf {t : TActive} (h : MemoryOk s) : MemoryOk (s.moveSome core lea t) :=
  moveRanks_wf (s := { s.flushFor core lea with free := _ }) (flushFor_wf h)

@[simp] theorem modEngine_mem (s : State) (core : Nat) (f : Engine → Engine) : (s.modEngine core f).mem = s.mem := rfl

theorem cancelActive_wf (h : MemoryOk s) : MemoryOk (s.cancelActive core) := by
  unfold State.cancelActive
  split
  · exact ite_wf h (moveSome_wf h)
  · exact h
  · exact h

@[simp] theorem useWindow_mem (s : State) (core lea : Nat) (t : TActive) (w : List Elem) : (s.useWindow core lea t w).mem = s.mem := by
  simp [State.useWindow]

@[simp] theorem windowBegin_mem (s : State) (core lea : Nat) (t : TActive) (l : List Nat) :
    (s.windowBegin core lea t l).mem = s.mem := beginUnits_mem ..

theorem writeSome_wf {t : TActive} {l : List Nat} (h : MemoryOk s) : MemoryOk (s.writeSome core lea t l) :=
  moveRanks_wf (s := { s.flushFor core lea with free := _ }) (flushFor_wf h)

@[simp] theorem commitWindow_mem (s : State) (core lea : Nat) (t : TActive) (w : List Elem) :
    (s.commitWindow core lea t w).mem = s.mem := by
  unfold State.commitWindow
  dsimp only
  split <;> exact useWindow_mem ..

/-! ## Messages -/

theorem fillFixed_wf {v : Word} {bad : Bool} (h : MemoryOk s) : MemoryOk (s.fillFixed a v bad) := fillWord_wf _ _ h

@[simp] theorem sendMsg_mem (s : State) (dst wd : Nat) (m : Msg) : (s.sendMsg dst wd m).mem = s.mem := rfl

theorem acked_wf {v : Word} (h : MemoryOk s) : MemoryOk (s.acked m v) := fillFixed_wf (s := s.dropMail m.id) h

theorem deposit_wf {v : PWord} {slot reg : Nat} {nsr : Bool} (h : MemoryOk s) : MemoryOk (s.deposit m v slot reg nsr).1 := by
  unfold State.deposit
  dsimp only
  repeat' split
  · exact h
  · exact h
  · exact h
  · exact fillExt_wf _ _ h
  · exact h

@[simp] theorem log15_mem (s : State) (lea cause : Nat) : (s.log15 lea cause).mem = s.mem := modLea_mem ..

@[simp] theorem amJudge_mem (s : State) (m : Mail) (cls : Nat) (payload : List PWord) (nsr r : Bool) :
    (s.amJudge m cls payload nsr r).1.mem = s.mem := by
  unfold State.amJudge
  dsimp only
  repeat' split
  all_goals simp

theorem startHandler_wf {pc : Word} {words : List PWord} {hd : Handler} (h : MemoryOk s) :
    MemoryOk (s.startHandler core pc words hd) := fillWords_wf _ (s := s.modCore _ _) h

@[simp] theorem endHandler_mem (s : State) (core : Nat) : (s.endHandler core).mem = s.mem := rfl

@[simp] theorem sendReply_mem (s : State) (core : Nat) (h : Handler) (v : PWord) : (s.sendReply core h v).mem = s.mem := by
  unfold State.sendReply
  split
  · rfl
  · split <;> rfl

theorem dropOne_wf (h : MemoryOk s) : MemoryOk (s.dropOne o) := fillWords_wf _ (s := s.removeOut _) h

theorem dropHeld_wf {all : Bool} (h : MemoryOk s) : MemoryOk (s.dropHeld core tid all) := by
  have hd : MemoryOk ((s.outs.filter fun o => o.tid == tid && (o.held || (all && o.unperformed))).foldl State.dropOne s) :=
    foldl_wf (fun _ _ => dropOne_wf) _ h
  unfold State.dropHeld
  dsimp only
  split
  · exact ite_wf (portStop_wf hd) hd
  · exact hd

theorem waitf_wf {bits : Word} {any : Bool} {b d : Nat} (h : MemoryOk s) : MemoryOk (s.waitf bits any b d) :=
  no15_wf h (withOperands_wf h (withLoose_wf h fun _ _ _ ht => ite_wf (raise_wf ht) (ite_wf (fillFixed_wf ht) ht)))

/-! ## Gangs -/

@[simp] theorem modGang_mem (s : State) (lea gid : Nat) (f : Gang → Gang) : (s.modGang lea gid f).mem = s.mem := rfl

@[simp] theorem unitPost_mem (s : State) (lea src dst : Nat) (m : Msg) : (s.unitPost lea src dst m).mem = s.mem := rfl

@[simp] theorem unitPosts_mem (lea src : Nat) : ∀ (l : List (Nat × Msg)) (s : State), (s.unitPosts lea src l).mem = s.mem
  | [], _ => rfl
  | (dst, m) :: t, s => unitPosts_mem lea src t (s.unitPost lea src dst m)

@[simp] theorem atFirst_mem (s : State) (g : Gang) (f : Gang → Gang) : (s.atFirst g f).mem = s.mem := unitPosts_mem ..

@[simp] theorem barWait_mem (s : State) (g : Gang) (k gen : Nat) : (s.barWait g k gen).mem = s.mem := by
  unfold State.barWait
  split <;> rfl

@[simp] theorem arrive_mem (s : State) (g : Gang) (k : Nat) : (s.arrive g k).mem = s.mem := rfl

@[simp] theorem gredSpread_mem (s : State) (g : Gang) (round grank : Nat) : (s.gredSpread g round grank).mem = s.mem :=
  unitPosts_mem ..

theorem gredDeposit_wf {m : Member} {dst : Nat} {v : PWord} {nsr : Bool} (h : MemoryOk s) : MemoryOk (s.gredDeposit g m dst v nsr) :=
  ite_wf h (ite_wf h (ite_wf (fillExt_wf _ _ h) h))

@[simp] theorem gredReach_mem (s : State) (g : Gang) (round grank : Nat) : (s.gredReach g round grank).mem = s.mem := by
  unfold State.gredReach
  split
  · exact gredSpread_mem ..
  · rfl

theorem gredGive_wf {q : GredRound} {m : Member} {rank : Nat} {v : PWord} (h : MemoryOk s) : MemoryOk (s.gredGive g q m rank v) := by
  unfold State.gredGive
  dsimp only
  split
  · exact ite_wf (gredDeposit_wf h) h
  · exact h

@[simp] theorem leaveGang_mem (s : State) (lea gang : Option Nat) (core slot : Nat) : (s.leaveGang lea gang core slot).mem = s.mem := by
  unfold State.leaveGang
  split
  · split
    · exact atFirst_mem ..
    · rfl
  · rfl

/-! ## Descriptors -/

theorem putWords_wf : ∀ {l : List Word} {m : Memory} {a : Nat}, m.wf = true → (m.putWords a l).wf = true
  | [], _, _, h => h
  | _ :: _, m, _, h => putWords_wf (m := m.putWord _ _) (putWord_wf _ _ h)

theorem scramble_wf {tdp : Nat} {d : Desc} (h : MemoryOk s) : MemoryOk (s.scramble core tdp lea d) := putWords_wf h

@[simp] theorem takeOwed_mem (s : State) (core slot : Nat) : (s.takeOwed core slot).mem = s.mem := by
  unfold State.takeOwed
  split
  · exact trapSlot_mem ..
  · rfl

theorem putDesc_wf (h : MemoryOk s) : MemoryOk (s.putDesc core slot) := by
  unfold State.putDesc MemoryOk
  dsimp only [State.takeFree, State.markLeft]
  exact putWords_wf h

theorem writeBack_wf (h : MemoryOk s) : MemoryOk (s.writeBack core slot) :=
  wf_of_mem (modCore_mem (s.putDesc core slot) core _) (putDesc_wf h)

theorem retest_wf (h : MemoryOk s) : MemoryOk (s.retest core slot) := by
  unfold State.retest
  dsimp only
  refine ite_wf h ?_
  split
  case h_2 =>
    refine ite_wf h ?_
    split
    · exact fillWord_wf _ _ h
    · exact h
  case h_4 =>
    repeat' split
    all_goals exact h
  case h_5 =>
    split
    · exact ite_wf (fillWord_wf _ _ h) h
    · exact h
  case h_7 => exact ite_wf (fillWord_wf _ _ h) h
  case h_11 =>
    split
    · exact ite_wf h h
    · exact h
  case h_14 => exact h
  case h_15 => exact h
  all_goals exact ite_wf h h

theorem retestCore_wf (h : MemoryOk s) : MemoryOk (s.retestCore core) := foldl_wf (fun _ _ => retest_wf) _ h

theorem loadThread_wf {tdp : Nat} {d : Desc} {w : Option Kept} (h : MemoryOk s) : MemoryOk (s.loadThread core slot lea tdp d w) :=
  retest_wf (s := State.modCore _ _ _) (scramble_wf (s := s.takeId.2) h)

theorem loadFrom_wf {tdp : Nat} (h : MemoryOk s) : MemoryOk (s.loadFrom core slot lea tdp) := by
  unfold State.loadFrom
  dsimp only
  split
  · exact loadThread_wf h
  · exact wf_of_mem (trapSlot_mem ..) (loadThread_wf h)

/-! ## Tasks -/

theorem placeThread_wf {l : Lea} {core grank srank slot off : Nat} (h : MemoryOk s) :
    MemoryOk (s.placeThread l g core grank srank slot off) := by
  unfold State.placeThread
  split
  · exact h
  · exact fillWord_wf _ _ (fillWord_wf _ _ (loadThread_wf (s := s) h))

theorem place_wf {l : Lea} {q f : Nat} {p : List Word} (h : MemoryOk s) : MemoryOk (s.place l q p f) := by
  unfold State.place
  dsimp only
  refine foldl_wf (fun _ _ => placeThread_wf) _ ?_
  split
  · refine foldl_wf (fun _ _ h => ?_) _ h
    exact h
  · exact h

theorem dispatchOne_wf {t : State} (h : MemoryOk s) (e : s.dispatchOne lea = some t) : MemoryOk t := by
  unfold State.dispatchOne at e
  split at e
  · cases e
  · split at e
    · cases e
    · split at e
      · cases e
      · cases e
        exact place_wf (wf_of_mem (modLea_mem ..) h)

theorem dispatchPass_wf : ∀ {n : Nat} {s : State}, MemoryOk s → MemoryOk (State.dispatchPass n lea s)
  | 0, _, h => h
  | n + 1, s, h => by
    unfold State.dispatchPass
    split
    · rename_i hd
      exact dispatchPass_wf (dispatchOne_wf h hd)
    · exact h

theorem retestTokens_wf (h : MemoryOk s) : MemoryOk (s.retestTokens core) :=
  foldl_wf (fun _ _ h => ite_wf (retest_wf h) h) _ h

theorem retestLea_wf (h : MemoryOk s) : MemoryOk (s.retestLea lea) := by
  unfold State.retestLea
  split
  · exact foldl_wf (fun _ _ => retestTokens_wf) _ h
  · exact h

@[simp] theorem excludePage_mem (s : State) (core slot : Nat) : (s.excludePage core slot).mem = s.mem := by
  unfold State.excludePage
  split <;> rfl

@[simp] theorem clearWoken_mem (s : State) (g : Gang) : (s.clearWoken g).mem = s.mem := by
  refine foldl_mem (fun _ _ => ?_) _ _
  rfl

end
end Sys2Proof.Proofs

namespace Sys2Proof.Proofs

open Sys2Proof Sys2Proof.Machine Sys2Proof.Laws

section
variable {s : State} {core slot lea tid id i j n a c d k gid tree : Nat} {o : Out} {p : Part} {g : Gang} {m : DMember}

/-! ## Control registers and system instructions -/

theorem readCr_wf {i : BitVec 12} {d : Nat} {bits : Word} (h : MemoryOk s) : MemoryOk (s.readCr i d bits) := by
  refine withOperands_wf h (withCr_wf h ?_)
  split
  · exact raise_wf h
  · exact raise_wf h
  · exact setW_wf _ _ _ _ h

@[simp] theorem writeSeg_mem (s : State) (k : Nat) (g : Seg) (v : Word) : (s.writeSeg k g v).mem = s.mem := by
  unfold State.writeSeg
  dsimp only
  repeat' split
  all_goals simp

@[simp] theorem writeCr_mem (s : State) (i : Nat) (v : Word) : (s.writeCr i v).mem = s.mem := by
  unfold State.writeCr
  dsimp only
  split
  · exact writeSeg_mem ..
  · rw [issue_mem]
    split <;> simp

@[simp] theorem wakePort_mem (s : State) (core : Nat) : (s.wakePort core).mem = s.mem := rfl

@[simp] theorem wakeCopy_mem (s : State) (core : Nat) (tid held : Option Nat) : (s.wakeCopy core tid held).mem = s.mem := rfl

theorem excludePages_mem (core : Nat) (l : List Nat) (s : State) : (l.foldl (fun s k => s.excludePage core k) s).mem = s.mem :=
  foldl_mem (fun _ _ => excludePage_mem ..) _ _

@[simp] theorem wakeCore_mem (s : State) (lea frame core : Nat) : (s.wakeCore lea frame core).mem = s.mem := by
  simp [State.wakeCore, apply_ite State.mem, excludePages_mem]

theorem preempt_wf {bits : Word} {a d : Nat} (h : MemoryOk s) : MemoryOk (s.preempt bits a d) := by
  refine sup_wf h (withOperands_wf h (needClean_wf h (ite_wf (raise_wf h) (ite_wf (raise_wf h) (ite_wf h ?_)))))
  split
  · exact raise_wf h
  · exact h

theorem preemptDone_wf {core k issuer dst : Nat} {idx : Option Nat} (h : MemoryOk s) :
    MemoryOk (s.preemptDone core k issuer dst idx) := by
  have h1 : MemoryOk ((s.excludePage core k).takeOwed core k) := wf_of_mem (takeOwed_mem ..) (wf_of_mem (excludePage_mem ..) h)
  unfold State.preemptDone
  cases idx with
  | some i =>
    exact wf_of_mem (modSlot_mem ..) (fillFixed_wf (wf_of_mem (modSlot_mem ..) (wf_of_mem (modCore_mem ..) (writeBack_wf h1))))
  | none =>
    refine wf_of_mem (modSlot_mem ..) (fillFixed_wf (wf_of_mem (modSlot_mem ..) (wf_of_mem (leaveGang_mem ..) (dropHeld_wf ?_))))
    exact wf_of_mem (modCore_mem ..) (writeBack_wf h1)

@[simp] theorem dropGtb_mem (s : State) (lea die : Nat) (all : Bool) (va : Nat) : (s.dropGtb lea die all va).mem = s.mem := rfl

theorem ctxLoad_wf {bits : Word} {b a : Nat} (h : MemoryOk s) : MemoryOk (s.ctxLoad bits b a) := by
  refine sup_wf h (withOperands_wf h (needCleans_wf h ?_))
  dsimp only
  refine ite_wf (raise_wf h) (ite_wf ?_ ?_)
  · split
    · exact raise_wf h
    · refine ite_wf h (ite_wf (raise_wf h) (ite_wf (withPool_wf h ?_) ?_))
      · split
        · exact raise_wf h
        · exact h
      · split
        · exact raise_wf h
        · exact h
  · split
    · exact raise_wf h
    · exact ite_wf (raise_wf h) (ite_wf (raise_wf h) (ite_wf h (ite_wf (raise_wf h) (ite_wf (withPool_wf h h) h))))

theorem tlbInv_wf {bits : Word} {b a : Nat} (h : MemoryOk s) : MemoryOk (s.tlbInv bits b a) :=
  sup_wf h (withOperands_wf h (ite_wf h (needCleans_wf h (ite_wf (raise_wf h) (flushLea_wf h)))))

/-! ## Dorent contexts -/

@[simp] theorem workedOn_mem (s : State) (c : Nat) : (s.workedOn c).mem = s.mem := rfl

@[simp] theorem tearDown_mem (s : State) (core : Nat) (c : Circuit) : (s.tearDown core c).mem = s.mem := by
  unfold State.tearDown
  split <;> rfl

theorem wakeColl_wf (h : MemoryOk s) : MemoryOk (s.wakeColl core) := by
  refine foldl_wf (fun s k h => ?_) _ h
  split
  · exact ite_wf (fillWord_wf _ _ h) h
  · exact h

@[simp] theorem leaveCircuits_mem (s : State) (core : Nat) : (s.leaveCircuits core).mem = s.mem :=
  foldl_mem (fun _ _ => tearDown_mem ..) _ _

@[simp] theorem hush_mem (s : State) (core : Nat) (now : Bool) : (s.hush core now).mem = s.mem := rfl

@[simp] theorem dropRounds_mem (s : State) (core : Nat) : (s.dropRounds core).mem = s.mem := rfl

theorem loseBufs_wf {lost : DBuf → Bool} (h : MemoryOk s) : MemoryOk (s.loseBufs core lost) := by
  refine foldl_wf (fun s b h => ?_) _ h
  split
  · exact ite_wf (bufFree_wf _ _ _ _ h) h
  · exact h

theorem spoilTo_wf {a : Option Nat} (h : MemoryOk s) : MemoryOk (s.spoilTo core lea a n) := by
  unfold State.spoilTo
  split
  · exact spoil_wf _ _ _ _ h
  · exact h

theorem spoilPending_wf (h : MemoryOk s) : MemoryOk (s.spoilPending core) := by
  refine foldl_wf (fun s o h => ?_) _ h
  split
  · exact ite_wf (foldl_wf (fun _ _ => spoilTo_wf) _ h) h
  · exact spoilTo_wf h
  · exact h

theorem dStop_wf {st : DState} {err : BitVec 8} {pc : Nat} (h : MemoryOk s) : MemoryOk (s.dStop core st err pc) := by
  have h0 : MemoryOk (if st = .done then s else (s.flushLate core).spoilPending core) := ite_wf h (spoilPending_wf (flushLate_wf h))
  unfold State.dStop
  refine wakeColl_wf (s := State.modDor _ _ _) ?_
  exact loseBufs_wf (wf_of_mem (leaveCircuits_mem ..) h0)

theorem dFail_wf {err : BitVec 8} {pc : Nat} (h : MemoryOk s) : MemoryOk (s.dFail core err pc) := dStop_wf h

theorem colrun_wf {w : Nat → Word} (h : MemoryOk s) : MemoryOk (s.colrun w) := by
  unfold State.colrun
  dsimp only
  refine ite_wf (raise_wf h) ?_
  split
  · exact raise_wf h
  · refine ite_wf (raise_wf h) (ite_wf (raise_wf h) ?_)
    split
    · exact raise_wf h
    · refine ite_wf h ?_
      have hs : ∀ {f : Dorent → Dorent} {js : List Nat},
          MemoryOk ((((s.flushLate s.cur.1).modDor s.cur.1 f).workedOn s.cur.1).spoilAt s.cur.1 js) :=
        fun {f js} => spoilAt_wf (s := ((s.flushLate s.cur.1).modDor s.cur.1 f).workedOn s.cur.1) (flushLate_wf h)
      exact ite_wf (loseBufs_wf hs) hs

@[simp] theorem dNext_mem (s : State) (core : Nat) (f : Dorent → Dorent) : (s.dNext core f).mem = s.mem := rfl

@[simp] theorem dJump_mem (s : State) (core tgt : Nat) (f : Dorent → Dorent) : (s.dJump core tgt f).mem = s.mem := rfl

@[simp] theorem dAsk_mem (s : State) (core dst : Nat) (w : DWaiting) (f : Dorent → Dorent) : (s.dAsk core dst w f).mem = s.mem := by
  unfold State.dAsk
  split <;> rfl

theorem dMove_wf {send : Bool} {buf ch qo : Nat} {cnt : Option Nat} {len : Nat} (h : MemoryOk s) :
    MemoryOk (s.dMove send buf ch qo cnt len) := by
  refine withCtx_wf h fun c d r => ?_
  refine ite_wf h (ite_wf (dFail_wf h) ?_)
  split
  · exact dFail_wf h
  · exact ite_wf (dFail_wf h) h
  · exact ite_wf (dFail_wf h) (ite_wf (dFail_wf h) h)

theorem dSet_wf {qa : BitVec 4} {v : Dorent → Word} (h : MemoryOk s) : MemoryOk (s.dSet qa v) := withCtx_wf h fun _ _ _ => h

@[simp] theorem dUnjoin_mem (s : State) (c : Nat) (d : Dorent) (tree : Bool) (idx : Nat) : (s.dUnjoin c d tree idx).mem = s.mem := by
  unfold State.dUnjoin
  repeat' split
  all_goals simp

theorem dJoin_wf {send : Bool} {ch qp rate : Nat} (h : MemoryOk s) : MemoryOk (s.dJoin send ch qp rate) := by
  refine withCtx_wf h fun c d r => ?_
  refine ite_wf h (ite_wf (dFail_wf h) (ite_wf (ite_wf h ?_) (ite_wf (dFail_wf h)
    (ite_wf (wf_of_mem (dUnjoin_mem ..) h) (ite_wf h (wf_of_mem (dAsk_mem ..) h))))))
  refine wf_of_mem (dNext_mem ..) ?_
  split
  · exact wf_of_mem (foldl_mem (fun _ _ => tearDown_mem ..) _ _) h
  · exact h

end
end Sys2Proof.Proofs

namespace Sys2Proof.Proofs

open Sys2Proof Sys2Proof.Machine Sys2Proof.Laws

section
variable {s : State} {core slot lea tid id i j n a c d k gid tree : Nat} {o : Out} {p : Part} {g : Gang} {m : DMember} {l : Lea}

/-! ## Collectives -/

@[simp] theorem addRec_mem (s : State) (lea core : Nat) (r : DMember) : (s.addRec lea core r).mem = s.mem := by
  unfold State.addRec
  dsimp only
  split
  · rfl
  · split
    · rfl
    · exact modLea_mem ..

@[simp] theorem readyOne_mem (s : State) (id : Nat) : (s.readyOne id).mem = s.mem := by
  unfold State.readyOne
  dsimp only
  repeat' split
  all_goals rfl

@[simp] theorem readyAll_mem (s : State) : s.readyAll.mem = s.mem := foldl_mem (fun _ _ => readyOne_mem ..) _ _

@[simp] theorem askChannel_mem (s : State) (lea core : Nat) (d : Dorent) (m : DMember) (r : DReq) (start : Nat) :
    (s.askChannel lea core d m r start).mem = s.mem := by
  unfold State.askChannel
  dsimp only
  split <;> rfl

theorem askTree_wf {d : Dorent} {r : DReq} {start : Nat} (h : MemoryOk s) : MemoryOk (s.askTree lea core d m r start) := by
  refine ite_wf h (foldl_wf (fun s x h => ite_wf h ?_) _ ?_)
  · split
    · exact dFail_wf h
    · exact h
  · exact h

theorem failEnds_wf {err : BitVec 8} {c : Circuit} (h : MemoryOk s) : MemoryOk (s.failEnds err c) := by
  refine foldl_wf (fun s x h => ?_) _ h
  split
  · split
    · exact ite_wf (dFail_wf h) h
    · exact h
  · exact h

theorem failUnjoins_wf {c : Circuit} (h : MemoryOk s) : MemoryOk (s.failUnjoins c) := by
  refine foldl_wf (fun s x h => ?_) _ h
  split
  · split
    · exact ite_wf (dFail_wf h) h
    · exact h
  · exact h

theorem breakChange_wf {err : BitVec 8} {parts : List Circuit} (h : MemoryOk s) : MemoryOk (s.breakChange err parts) :=
  foldl_wf (fun _ _ => failEnds_wf) _ h

@[simp] theorem setPhase_mem (s : State) (parts : List Circuit) (p : CircPhase) (granted : Circuit → Bool) :
    (s.setPhase parts p granted).mem = s.mem := rfl

theorem endDown_wf {c : Circuit} {idx : Option Nat} (h : MemoryOk s) : MemoryOk (s.endDown c core idx) := by
  unfold State.endDown
  dsimp only
  split
  · split
    · exact h
    · split
      · exact h
      · split
        · exact dFail_wf h
        · exact h
  · exact h

theorem dropCircuit_wf {c : Circuit} (h : MemoryOk s) : MemoryOk (s.dropCircuit c) := by
  have h1 : MemoryOk { s with circuits := s.circuits.filter (fun x => x.id != c.id) } := h
  unfold State.dropCircuit
  dsimp only
  split
  · refine foldl_wf (fun s x h => ?_) _ (endDown_wf h1)
    split
    · exact endDown_wf h
    · exact h
  · exact endDown_wf (endDown_wf h1)

@[simp] theorem endUp_mem (s : State) (c : Circuit) (core : Nat) (idx : Option Nat) : (s.endUp c core idx).mem = s.mem := by
  unfold State.endUp
  repeat' split
  all_goals rfl

@[simp] theorem dDone_mem (s : State) (core num : Nat) : (s.dDone core num).mem = s.mem := rfl

@[simp] theorem modOp_mem (s : State) (core num : Nat) (f : DOp → DOp) : (s.modOp core num f).mem = s.mem := rfl

@[simp] theorem usePiece_mem (s : State) (core : Nat) (b : DBuf) (o n : Nat) (need : List Right) :
    (s.usePiece core b o n need).mem = s.mem := usePages_mem ..

theorem flushGroup_wf (h : MemoryOk s) : MemoryOk (s.flushGroup core) := foldl_wf (fun _ _ => flushLate_wf) _ h

theorem deliver_wf {b : DBuf} {l : List (Byte × Bool)} {last : Bool} (h : MemoryOk s) : MemoryOk (s.deliver core b n l last) :=
  ite_wf h (bufWrite_wf (s := { s with free := s.free + 1 }) h)

@[simp] theorem flowOn_mem (s : State) (lea : Nat) (f : DFlow) : (s.flowOn lea f).1.mem = s.mem := by
  unfold State.flowOn
  suffices ∀ (l : List Nat) (p : State × List Nat), (l.foldl (fun (p : State × List Nat) a =>
      if p.1.spareService lea (channelOf a) then (p.1.takeService (channelOf a), p.2) else (p.1, p.2 ++ [a])) p).1.mem = p.1.mem from
    this _ _
  intro l
  induction l with
  | nil => intro _; rfl
  | cons a t ih =>
    intro p
    refine (ih _).trans ?_
    dsimp only
    split <;> rfl

@[simp] theorem flowPiece_mem (s : State) (lea : Nat) (f : Option DFlow) (reads writes : List Nat) (a b : Nat) :
    (s.flowPiece lea f reads writes a b).1.mem = s.mem := by
  unfold State.flowPiece
  dsimp only
  repeat' split
  all_goals simp

theorem movePiece_wf {src xo into yo n : Nat} {x y : DBuf} {last : Bool} (h : MemoryOk s) :
    MemoryOk (s.movePiece src x xo into y yo n last) := by
  refine wf_of_mem (usePiece_mem ..) (wf_of_mem (usePiece_mem ..) (deliver_wf ?_))
  exact flushGroup_wf h

@[simp] theorem opMoved_mem (s : State) (core : Nat) (o : DOp) (n : Nat) : (s.opMoved core o n).mem = s.mem := by
  unfold State.opMoved
  split <;> rfl

theorem stepTransfer_wf {a b : Nat} {x y : DOp} (h : MemoryOk s) : MemoryOk (s.stepTransfer a x b y) := by
  refine ite_wf (dFail_wf (dFail_wf h)) ?_
  split
  · dsimp only
    refine ite_wf h (ite_wf ?_ ?_)
    · exact wf_of_mem (opMoved_mem ..) (wf_of_mem (opMoved_mem ..) (movePiece_wf (wf_of_mem (flowPiece_mem ..) h)))
    · exact wf_of_mem (flowPiece_mem ..) h
  · exact h

theorem stepCopy_wf {o : DOp} (h : MemoryOk s) : MemoryOk (s.stepCopy c o) := by
  unfold State.stepCopy
  split
  · dsimp only
    refine ite_wf h (ite_wf ?_ ?_)
    · exact wf_of_mem (opMoved_mem ..) (movePiece_wf (wf_of_mem (flowPiece_mem ..) h))
    · exact wf_of_mem (flowPiece_mem ..) h
  · exact h

theorem failRound_wf {seq : Nat} {err : BitVec 8} (h : MemoryOk s) : MemoryOk (s.failRound lea gid tree seq core m err) := by
  refine foldl_wf (fun s x h => ?_) _ h
  split
  · exact dFail_wf h
  · exact h

@[simp] theorem acceptKid_mem (s : State) (k : KidOffer) : (s.acceptKid k).mem = s.mem := by
  unfold State.acceptKid
  dsimp only
  repeat' split
  all_goals rfl

theorem nodeMove_wf {t : DTree} {o : DOp} {b : DBuf} {offers : List KidOffer} (h : MemoryOk s) :
    MemoryOk (s.nodeMove core m t o b offers n) := by
  have hs : ∀ (d : Dorent → Dorent) (f : Nat), MemoryOk ((offers.foldl State.acceptKid
      { s.flushGroup core with free := f }).modDor core d) :=
    fun _ _ => wf_of_mem (foldl_mem (fun _ _ => acceptKid_mem ..) _ _) (flushGroup_wf h)
  unfold State.nodeMove
  dsimp only
  refine ite_wf (wf_of_mem (usePiece_mem ..) (hs _ _)) (ite_wf ?_ ?_)
  · exact wf_of_mem (usePiece_mem ..) (deliver_wf (wf_of_mem (usePiece_mem ..) (hs _ _)))
  · exact wf_of_mem (usePiece_mem ..) (deliver_wf (wf_of_mem (usePiece_mem ..) (hs _ _)))

theorem nodePiece_wf {d : Dorent} {t : DTree} {o : DOp} {b : DBuf} (h : MemoryOk s) :
    MemoryOk (s.nodePiece lea core m d t o b) := by
  unfold State.nodePiece
  dsimp only
  refine ite_wf h (ite_wf (failRound_wf h) (ite_wf (failRound_wf h) (ite_wf h (ite_wf (nodeMove_wf ?_) ?_))))
  · exact wf_of_mem (flowPiece_mem ..) h
  · exact wf_of_mem (flowPiece_mem ..) h

theorem stepNode_wf {o : DOp} (h : MemoryOk s) : MemoryOk (s.stepNode core o) := by
  unfold State.stepNode
  split
  · split
    · exact ite_wf (nodePiece_wf h) h
    · exact h
  · exact h

theorem drainLate_wf (h : MemoryOk s) : MemoryOk (s.drainLate core) := ite_wf h (ite_wf (flushLate_wf h) h)

@[simp] theorem modDor_mem (s : State) (core : Nat) (f : Dorent → Dorent) : (s.modDor core f).mem = s.mem := rfl

@[simp] theorem install_mem (s : State) (core : Nat) (r : DMember) (f : Dorent → Dorent) : (s.install core r f).mem = s.mem :=
  leaveCircuits_mem ..

@[simp] theorem catchUp_mem (s : State) (core : Nat) (d : Dorent) (r : DMember) : (s.catchUp core d r).mem = s.mem := by
  unfold State.catchUp
  split <;> simp

/-! ## Control flow -/

theorem branch1_wf {n a : Nat} {tgt : Word} {taken : Word → Bool} (h : MemoryOk s) : MemoryOk (s.branch1 n a tgt taken) :=
  withOperands_wf h (needClean_wf h (ite_wf h h))

theorem branch2_wf {n a b : Nat} {tgt : Word} {taken : Word → Word → Bool} (h : MemoryOk s) :
    MemoryOk (s.branch2 n a b tgt taken) := withOperands_wf h (needCleans_wf h (ite_wf h h))

theorem openWindow_wf {f : Nat} {tgt : Word} (h : MemoryOk s) : MemoryOk (s.openWindow f tgt) :=
  ite_wf (raise_wf h) (fillWord_wf _ _ (fillWord_wf _ _ h))

theorem closeWindow_wf (h : MemoryOk s) : MemoryOk (s.closeWindow n) :=
  ite_wf (raise_wf h) (withOperands_wf h
    (ite_wf (raise_wf h) (ite_wf (raise_wf h) (ite_wf (raise_wf h) (ite_wf (raise_wf h) h)))))

/-! ## Handovers -/

@[simp] theorem excludeLea_mem (s : State) (lea : Nat) : (s.excludeLea lea).mem = s.mem := rfl

@[simp] theorem repause_mem (s : State) (lea : Nat) : (s.repause lea).mem = s.mem := by
  unfold State.repause
  dsimp only
  repeat' split
  all_goals simp

@[simp] theorem excludeCores_mem (s : State) (p : Nat → Bool) : (s.excludeCores p).mem = s.mem := rfl

@[simp] theorem requeue_mem (s : State) (core lea : Nat) (f : Out → Bool) : (s.requeue core lea f).mem = s.mem := rfl

theorem modSpot_wf {f : Memory → Nat → Memory} {g : RangeSave → Nat → RangeSave} {x : Spot} (h : MemoryOk s)
    (hf : ∀ a, (f s.mem a).wf = true) : MemoryOk (s.modSpot lea f g x) := by
  cases x with
  | mem a => exact hf a
  | saved c k o => exact h

theorem putSpot_wf {v : PWord} {x : Spot} (h : MemoryOk s) : MemoryOk (s.putSpot lea v x) := by
  have hn : MemoryOk (s.noteWrote lea (byteSet v.val.toNat 8)) := wf_of_mem (noteWrote_mem ..) h
  exact modSpot_wf hn fun _ => putWord_wf _ _ hn

/-- R380: a late word goes to memory, or to the lea's save area. The case split is taken where the place is a variable: the kernel
cannot compare two places by computing with their addresses. -/
theorem lateFill_ind {P : State → Prop} {v : PWord} (hm : ∀ b, P (s.fillWord b v))
    (hs : ∀ c f, P ((s.noteWrote lea (byteSet v.val.toNat 8)).modCore c f)) : P (s.lateFill core lea slot a v) := by
  suffices ∀ f, f = @State.lateFill → P (f s core lea slot a v) from this _ rfl
  intro f hf
  delta State.lateFill at hf
  subst hf
  beta_reduce
  cases s.spotOf core lea slot a with
  | mem b => exact hm _
  | saved c k o => exact hs _ _

theorem lateFill_wf {v : PWord} (h : MemoryOk s) : MemoryOk (s.lateFill core lea slot a v) :=
  lateFill_ind (P := MemoryOk) (fun _ => fillWord_wf _ _ h) (fun _ _ => wf_of_mem (modCore_mem ..) (wf_of_mem (noteWrote_mem ..) h))

theorem lateFills_wf : ∀ {l : List (Nat × PWord)} {s : State}, MemoryOk s → MemoryOk (s.lateFills core lea slot l)
  | [], _, h => h
  | (a, v) :: _, s, h => lateFills_wf (s := s.lateFill core lea slot a v) (lateFill_wf h)

@[simp] theorem modSaved_mem (s : State) (core lea slot : Nat) (f : Slot → Slot) : (s.modSaved core lea slot f).mem = s.mem := rfl

@[simp] theorem modSlotOf_mem (s : State) (core lea slot : Nat) (f : Slot → Slot) : (s.modSlotOf core lea slot f).mem = s.mem := by
  unfold State.modSlotOf
  split <;> rfl

theorem putSpots_wf : ∀ {l : List (Spot × PWord)} {s : State}, MemoryOk s → MemoryOk (s.putSpots lea l)
  | [], _, h => h
  | (x, v) :: _, s, h => putSpots_wf (s := s.putSpot lea v x) (putSpot_wf h)

theorem modDescOf_wf {f : Desc → Desc} (h : MemoryOk s) : MemoryOk (s.modDescOf core lea slot f) := by
  unfold State.modDescOf
  dsimp only
  split
  · refine putSpots_wf ?_
    exact h
  · exact h

theorem exactDesc_wf (h : MemoryOk s) : MemoryOk (s.exactDesc core slot) := by
  unfold State.exactDesc
  split
  · exact h
  · exact putDesc_wf h

/-- Giving up and scrubbing a range leaves memory canonical (R28). -/
theorem giveUp_wf {lea : Option Nat} (h : MemoryOk s) : MemoryOk (s.giveUp lea a n) := by
  rw [MemoryOk, giveUp_mem, memory_wf_iff]
  exact (memory_wf_iff s.mem).1 h

theorem scrubFor_wf {lea : Option Nat} (h : MemoryOk s) : MemoryOk (s.scrubFor lea a n) := scrub_wf _ _ (giveUp_wf h)

@[simp] theorem reissueOn_mem (s : State) (core slot lea : Nat) : (s.reissueOn core slot lea).mem = s.mem := by
  refine foldl_mem (fun s o => foldl_mem (fun s p => ?_) _ _) _ _
  split
  · split
    · exact wakeHeld_mem ..
    · rfl
  · rfl

theorem retestPool_wf (h : MemoryOk s) : MemoryOk (s.retestPool core) := foldl_wf (fun _ _ h => ite_wf (retest_wf h) h) _ h

theorem finishHandover_wf (h : MemoryOk s) : MemoryOk (s.finishHandover core) := by
  have h1 : MemoryOk (s.modCore core Core.endHandover) := h
  unfold State.finishHandover
  dsimp only
  split
  · exact wf_of_mem (excludeCores_mem ..) (retestPool_wf h1)
  · exact h1

theorem returnThread_wf {x : Slot} (h : MemoryOk s) : MemoryOk (s.returnThread core lea slot x) := by
  have h1 : MemoryOk { s with free := s.free + 32 } := h
  unfold State.returnThread
  dsimp only
  split
  · exact h
  · split
    · exact wf_of_mem (modSlot_mem ..) (putSpots_wf h1)
    · exact wf_of_mem (trapSlot_mem ..) (wf_of_mem (modSlot_mem ..) (putSpots_wf h1))

theorem poolCancel_wf (h : MemoryOk s) : MemoryOk (s.poolCancel core) := by
  unfold State.poolCancel
  dsimp only
  split
  · exact cancelActive_wf (s := s.modEngine core _) h
  · exact h

theorem loadMessage_wf (h : MemoryOk s) : MemoryOk (s.loadMessage core l) := by
  unfold State.loadMessage
  split
  · exact h
  · exact loadThread_wf (s := s.modCore core _) h

@[simp] theorem firstContext_mem (s : State) (core lea : Nat) : (s.firstContext core lea).mem = s.mem := modLea_mem ..

theorem wakeSavedColl_wf {v : Word} (h : MemoryOk s) : MemoryOk (s.wakeSavedColl core lea v) := by
  refine foldl_wf (fun s p h => ?_) _ h
  split
  · exact ite_wf (wf_of_mem (modSaved_mem ..) (lateFill_wf h)) h
  · exact h

/-- R380: the pieces of a saved image that a transfer leaves undefined change cores and the counter of free values alone. -/
theorem undefSaved_ind {P : State → Prop} {j : PortJob} (hf : ∀ (t : State) n c f, P t → P ({ t with free := n }.modCore c f))
    (h : P s) : P (s.undefSaved core j o) := by
  unfold State.undefSaved
  refine List.foldlRecOn _ _ h fun t ht p _ => ?_
  cases t.spotOf core o.lea o.slot (sliceAt core o.slot + j.addr + p.1) with
  | mem b => exact ht
  | saved c k x =>
    dsimp only
    split
    · exact ht
    · exact hf _ _ _ _ ht

@[simp] theorem undefSaved_mem (s : State) (core : Nat) (j : PortJob) (o : Out) : (s.undefSaved core j o).mem = s.mem :=
  undefSaved_ind (P := fun t => t.mem = s.mem) (fun _ _ _ _ e => e) rfl

theorem portLeave_wf (h : MemoryOk s) : MemoryOk (s.portLeave core) := by
  unfold State.portLeave
  split
  · exact h
  · split
    · exact portStop_wf h
    · dsimp only
      split
      · exact portFlush_wf h
      · exact portStop_wf (ite_wf (wf_of_mem (undefSaved_mem ..) (portFlush_wf h)) (portFlush_wf h))

theorem savePool_wf {hd : Handover} (h : MemoryOk s) : MemoryOk (s.savePool core hd) := by
  unfold State.savePool
  split
  · exact h
  · have h1 : MemoryOk ((((s.modCore core Core.semCycle).poolCancel core).portLeave core).flushLate core) :=
      flushLate_wf (portLeave_wf (poolCancel_wf (s := s.modCore core Core.semCycle) h))
    refine wf_of_mem (modCore_mem ..) (wf_of_mem (requeue_mem ..) (wakeSavedColl_wf ?_))
    exact ite_wf (dStop_wf h1) h1

theorem firstHold_wf (h : MemoryOk s) : MemoryOk (s.firstHold core l) :=
  loadMessage_wf (wf_of_mem (firstContext_mem ..) (s := s.modCore core _) h)

theorem restorePool_wf {p : PoolSave} (h : MemoryOk s) : MemoryOk (s.restorePool core lea p) := paste_wf (poolAt core) p.range h

theorem lateEnd_wf {vals : List PWord} {fl : Flags} (h : MemoryOk s) : MemoryOk (s.lateEnd o vals fl) := by
  have h1 : ∀ l, MemoryOk ({ s with free := s.free + vals.length }.lateFills o.core o.lea o.slot l) :=
    fun l => lateFills_wf (s := { s with free := s.free + vals.length }) h
  exact dropOut_wf (ite_wf (h1 _) (modDescOf_wf (h1 _)))

end
end Sys2Proof.Proofs

namespace Sys2Proof.Proofs

open Sys2Proof Sys2Proof.Machine Sys2Proof.Laws

section
variable {s : State} {core slot lea tid id i j n a c d k gid tree : Nat} {o : Out} {p : Part} {g : Gang} {m : DMember} {l : Lea}

/-! ## Headland, the host and recovery -/

@[simp] theorem reply_mem (s : State) (l : List Nat) : (s.reply l).mem = s.mem := rfl

@[simp] theorem headRecord_mem (s : State) (core : Nat) (lea : Option Nat) (slot : Nat) (u : RecUnit) (kind ilen : Nat)
    (cause : BitVec 8) (pc tval aux : Word) : (s.headRecord core lea slot u kind ilen cause pc tval aux).mem = s.mem := rfl

@[simp] theorem notice_mem (s : State) (core lea : Nat) (cause : BitVec 8) (tval : Nat) :
    (s.notice core lea cause tval).mem = s.mem := rfl

@[simp] theorem addSem_mem (s : State) (core lea k n : Nat) : (s.addSem core lea k n).mem = s.mem := rfl

@[simp] theorem debugWake_mem (s : State) : s.debugWake.mem = s.mem := rfl

@[simp] theorem debugLock_mem (s : State) : s.debugLock.mem = s.mem := rfl

@[simp] theorem debugSet_mem (s : State) (f : Debug → Debug) : (s.debugSet f).mem = s.mem := by
  unfold State.debugSet
  split <;> rfl

@[simp] theorem hostRead_mem (s : State) (lea : Nat) (as : List Nat) : (s.hostRead lea as).mem = s.mem := rfl

@[simp] theorem unwrap_mem (s : State) (l : Lea) (d : LeaDump) : (s.unwrap l d).mem = s.mem :=
  foldl_mem (fun s p => by split <;> rfl) _ _

@[simp] theorem commitSched_mem (s : State) (core : Nat) : (s.commitSched core).mem = s.mem := by
  unfold State.commitSched
  dsimp only
  split
  · exact foldl_mem (fun _ _ => modCore_mem ..) _ _
  · rfl

theorem logDiscards_wf {f : Nat → Nat} {as : List Nat} (h : MemoryOk s) :
    MemoryOk (as.foldl (fun s a => s.logDiscard (f a) lea (some a)) s) := foldl_wf (fun _ _ => wf_of_mem (logDiscard_mem ..)) _ h

theorem stateHostWrite_wf {as : List Nat} {bs : List Byte} (h : MemoryOk s) : MemoryOk (s.hostWrite lea as bs) :=
  logDiscards_wf (hostWrite_wf _ _ _ h)

theorem scrubCore_wf (h : MemoryOk s) : MemoryOk (s.scrubCore core) := scrubFor_wf h

theorem scrubBanks_wf {banks : List (Nat × List Nat)} (h : MemoryOk s) : MemoryOk (s.scrubBanks banks) :=
  foldl_wf (fun _ _ h => foldl_wf (fun _ _ => scrubFor_wf) _ h) _ h

theorem scrubOwned_wf (h : MemoryOk s) : MemoryOk (s.scrubOwned lea core) := by
  have h1 := foldl_wf (f := fun (t : State) k =>
    if (s.core core).sliceOwner k = some lea then t.scrubFor none (sliceAt core k) 0x8000 else t)
    (fun _ _ h => ite_wf (scrubFor_wf h) h) (List.range 16) h
  exact ite_wf (scrubFor_wf h1) h1

theorem giveCore_wf (h : MemoryOk s) : MemoryOk (s.giveCore core l) := by
  unfold State.giveCore
  dsimp only
  split
  · exact h
  · have h1 := scrubCore_wf (core := core) h
    split
    · exact wf_of_mem (modCore_mem ..) h1
    · exact loadMessage_wf (wf_of_mem (modCore_mem ..) h1)

theorem clearCore_wf (h : MemoryOk s) : MemoryOk (s.clearCore lea core) := by
  unfold State.clearCore
  dsimp only
  split
  · exact wf_of_mem (repause_mem ..) (wf_of_mem (modCore_mem ..) (wf_of_mem (setCore_mem ..) (scrubOwned_wf h)))
  · exact wf_of_mem (modCore_mem ..) (wf_of_mem (setCore_mem ..) (scrubOwned_wf h))

theorem loseCore_wf (h : MemoryOk s) : MemoryOk (s.loseCore core) := by
  have h1 := foldl_wf (f := fun (s : State) k =>
    let x := s.slot core k
    if x.run = .absent then s else s.leaveGang x.lea x.gang core k)
    (fun _ _ h => ite_wf h (wf_of_mem (leaveGang_mem ..) h)) (List.range 16) (flushLate_wf (core := core) h)
  unfold State.loseCore
  dsimp only at h1 ⊢
  split
  · exact dStop_wf h1
  · exact h1

theorem giveUpCore_wf (h : MemoryOk s) : MemoryOk (s.giveUpCore core) := by
  unfold State.giveUpCore
  dsimp only
  split
  · exact h
  · exact giveUp_wf (foldl_wf (fun _ _ => giveUp_wf) _ h)

theorem poisonDiscarded_wf {die : Nat} {l : List (Nat × Option Nat)} (h : MemoryOk s) : MemoryOk (s.poisonDiscarded die l) := by
  unfold State.poisonDiscarded
  dsimp only
  split
  · exact foldlMemory_wf (fun _ _ => poisonRange_wf _ _) _ h
  · refine foldlMemory_wf (fun m x h => ?_) _ h
    split
    · exact poisonRange_wf _ _ h
    · exact h

theorem debugWrite_wf {v : Word} {x : Spot} (h : MemoryOk s) : MemoryOk (s.debugWrite n v x) :=
  modSpot_wf (wf_of_mem (noteWrote_mem ..) h) fun _ => noteWriter_wf _ _ (putWord_wf _ _ (wf_of_mem (noteWrote_mem ..) h))

theorem debugDescWrite_wf {x : Slot} {v : Word} (h : MemoryOk s) : MemoryOk (s.debugDescWrite n core slot i x v) := by
  unfold State.debugDescWrite
  split
  · split
    · exact debugWrite_wf h
    · exact h
  · exact wf_of_mem (modSlot_mem ..) h

/-! ## Turns and ticks -/

@[simp] theorem endTurn_mem (s : State) (core : Nat) (given : Bool) : (s.endTurn core given).mem = s.mem := rfl

@[simp] theorem nextProbe_mem (s : State) (core : Nat) : (s.nextProbe core).mem = s.mem := by
  unfold State.nextProbe
  split <;> rfl

@[simp] theorem beginTurn_mem (s : State) (core : Nat) : (s.beginTurn core).mem = s.mem := by
  unfold State.beginTurn
  dsimp only
  split <;> rfl

theorem testHret_wf (h : MemoryOk s) : MemoryOk (s.testHret core k) := ite_wf (retest_wf h) h

theorem afterTurn_wf {u : State} (h : MemoryOk u) : MemoryOk (s.afterTurn u) := by
  unfold State.afterTurn
  dsimp only
  split
  · refine wf_of_mem (endTurn_mem ..) ?_
    split
    · exact ite_wf h h
    · exact h
  · exact wf_of_mem (nextProbe_mem ..) h

@[simp] theorem runCycle_mem (s : State) (island : Nat) : (s.runCycle island).mem = s.mem := by
  unfold State.runCycle
  split <;> rfl

@[simp] theorem excludeOn_mem (s : State) (core slot : Nat) : (s.excludeOn core slot).mem = s.mem := rfl

@[simp] theorem excludeWaits_mem (s : State) : s.excludeWaits.mem = s.mem := by
  unfold State.excludeWaits
  exact (foldl_mem (fun _ _ => excludeOn_mem ..) _ _).trans (foldl_mem (fun _ _ => excludeOn_mem ..) _ _)

@[simp] theorem tick_mem (s : State) : s.tick.mem = s.mem := by
  unfold State.tick
  dsimp only
  refine (excludeWaits_mem _).trans ?_
  split <;> rfl

end
end Sys2Proof.Proofs

namespace Sys2Proof.Proofs

open Sys2Proof Sys2Proof.Machine Sys2Proof.Laws

/-- An outcome whose next state, if it has one, has canonical memory. -/
def Lands : Out1 → Prop
  | .next t => MemoryOk t
  | _ => True

section
variable {s : State}

theorem markWord_wf {a : Nat} {x : FE} (h : MemoryOk s) : MemoryOk (s.markWord a x) := setFe_wf _ _ h

/-! ## Semaphores, fences and accesses -/

theorem semrd_lands (h : MemoryOk s) (k d) : Lands (execSemrd k d s) := withPool_wf h (alu0_wf _ _ _ h)

theorem semwait_lands (h : MemoryOk s) (k a) : Lands (execSemwait k a s) := semOp_wf h fun _ => ite_wf h h

theorem fence_lands (h : MemoryOk s) (k c) : Lands (execFence k c s) := ite_wf h (ite_wf h h)

theorem fenceb_lands (h : MemoryOk s) (c) : Lands (execFenceb c s) := ite_wf h h

theorem rsem_lands (h : MemoryOk s) (l k a d) : Lands (execRsem l k a d s) :=
  withOperands_wf h (withLimit_wf h (withExchange_wf h (needCleans_wf h (ite_wf (raise_wf h) (ite_wf (raise_wf h) h)))))

theorem nfill_lands (h : MemoryOk s) (b g a d) : Lands (execNfill b g a d s) :=
  withOperands_wf h (withSpace_wf h (needClean_wf h (needClean_wf h (memIssue_wf h fun _ =>
    ite_wf (raise_wf h) (sendCmd_wf h)))))

theorem namo_lands (h : MemoryOk s) (l b g a d) : Lands (execNamo l b g a d s) :=
  withOperands_wf h (withSpace_wf h (needClean_wf h (needClean_wf h (memIssue_wf h fun _ =>
    ite_wf (raise_wf h) (sendCmd_wf h)))))

theorem storeAcknowledge_lands (h : MemoryOk s) (id) : Lands (execStoreAcknowledge id s) := by
  refine wf_of_mem (?_ : State.mem _ = s.mem) h
  repeat' split
  all_goals simp

theorem remoteAccessArrive_lands (h : MemoryOk s) (id) : Lands (execRemoteAccessArrive id s) := by
  refine wf_of_mem (?_ : State.mem _ = s.mem) h
  repeat' split
  all_goals simp

theorem remoteComplete_lands (h : MemoryOk s) (id) : Lands (execRemoteComplete id s) := by
  change MemoryOk _
  split
  · exact h
  · split
    · split
      · exact h
      · dsimp only
        split
        · exact wf_of_mem (addSem_mem ..) (fillOut_wf h)
        · exact fillOut_wf h
    · split
      · exact ite_wf (dropOut_wf h) h
      · exact h
    · exact h

theorem rsemArrive_lands (h : MemoryOk s) (id) : Lands (execRsemArrive id s) := by
  refine wf_of_mem (?_ : State.mem _ = s.mem) h
  repeat' split
  all_goals simp

theorem exchangeInject_lands (h : MemoryOk s) (id) : Lands (execExchangeInject id s) := by
  refine wf_of_mem (?_ : State.mem _ = s.mem) h
  repeat' split
  all_goals rfl

theorem lea_lands (h : MemoryOk s) (k i a d) : Lands (execLea k i a d s) :=
  withOperands_wf h (needClean_wf h (ite_wf (raise_wf h) (ite_wf (raise_wf h) (setW_wf _ _ _ _ h))))

theorem mapr_lands (h : MemoryOk s) (k i a d) : Lands (execMapr k i a d s) :=
  withOperands_wf h (needClean_wf h (ite_wf (raise_wf h) (ite_wf (raise_wf h) (ite_wf (raise_wf h) (ite_wf (raise_wf h)
    (ite_wf (raise_wf h) (setW_wf _ _ _ _ h)))))))

theorem ldl_lands (h : MemoryOk s) (o l d) : Lands (execLdl o l d s) := by
  refine withOperands_wf h ?_
  dsimp only
  split
  · exact raise_wf h
  · split
    · exact wf_of_mem (missLine_mem ..) h
    · exact wf_of_mem (issue_mem ..) (markWord_wf h)

/-! ## Floating point and vectors -/

theorem fdiv_lands (h : MemoryOk s) (x l b a d) : Lands (execFdiv x l b a d s) := slow2_wf _ _ _ _ _ _ _ h

theorem fsqrt_lands (h : MemoryOk s) (x l a d) : Lands (execFsqrt x l a d s) := slow2_wf _ _ _ _ _ _ _ h

theorem fcvt_lands (h : MemoryOk s) (x r t m a d) : Lands (execFcvt x r t m a d s) := fp1_wf _ _ _ _ h

theorem fcvti_lands (h : MemoryOk s) (x r n a d) : Lands (execFcvti x r n a d s) := fp1_wf _ _ _ _ h

theorem vcvt_lands (h : MemoryOk s) (c l m a d) : Lands (execVcvt c l m a d s) := vissue_wf h (ite_wf h h)

theorem vquant_lands (h : MemoryOk s) (sx l m r t a d) : Lands (execVquant sx l m r t a d s) := vissue_wf h (ite_wf h h)

theorem vdeq_lands (h : MemoryOk s) (sx l m k a d) : Lands (execVdeq sx l m k a d s) := velem_wf h

theorem mpop_lands (h : MemoryOk s) (d l b) : Lands (execMpop d l b s) := vissue_wf h h

theorem vmov_lands (h : MemoryOk s) (l m z a d) : Lands (execVmov l m z a d s) := velem_wf h

theorem vbcast_lands (h : MemoryOk s) (a l m z d) : Lands (execVbcast a l m z d s) := vissue_wf h h

theorem vextr_lands (h : MemoryOk s) (w l e b) : Lands (execVextr w l e b s) := vissue_wf h h

theorem vins_lands (h : MemoryOk s) (w l e b) : Lands (execVins w l e b s) := vissue_wf h h

theorem vperm_lands (h : MemoryOk s) (z l m b a d) : Lands (execVperm z l m b a d s) := velem_wf h

theorem vslide_lands (h : MemoryOk s) (w l b d) : Lands (execVslide w l b d s) := vissue_wf h h

theorem vsel_lands (h : MemoryOk s) (z l m b a d) : Lands (execVsel z l m b a d s) := vissue_wf h h

theorem vectorFill_lands (h : MemoryOk s) (id) : Lands (execVectorFill id s) := by
  change MemoryOk _
  split
  · split
    · exact ite_wf (fillOut_wf h) h
    · exact h
  · exact h

/-! ## The matrix bay -/

theorem mcfg_lands (h : MemoryOk s) (l b t) : Lands (execMcfg l b t s) :=
  withOperands_wf h (withBay_wf h (needClean_wf h (ite_wf (raise_wf h) (bayEnqueue_wf h))))

theorem mstep_lands (h : MemoryOk s) (l m b v t) : Lands (execMstep l m b v t s) := by
  refine withOperands_wf h (withBay_wf h (needClean_wf h (ite_wf (raise_wf h) (ite_wf (raise_wf h) ?_))))
  exact wf_of_mem (modMe_mem ..) (bayEnqueue_wf (s := { s with free := s.free + 2 }) h)

theorem mdrain_lands (h : MemoryOk s) (l r f b v t) : Lands (execMdrain l r f b v t s) :=
  withOperands_wf h (withBay_wf h (needClean_wf h (ite_wf (raise_wf h) (bayEnqueue_wf h))))

theorem mflags_lands (h : MemoryOk s) (l b) : Lands (execMflags l b s) :=
  withOperands_wf h (withBay_wf h (bayEnqueue_wf (s := { s with free := s.free + 1 }) h))

theorem mload_lands (h : MemoryOk s) (l k b t) : Lands (execMload l k b t s) :=
  withOperands_wf h (withPort_wf h (portCheck_wf h fun _ => h))

theorem msave_lands (h : MemoryOk s) (l k b t) : Lands (execMsave l k b t s) :=
  withOperands_wf h (withPort_wf h (portCheck_wf h fun _ => bayEnqueue_wf h))

theorem mrest_lands (h : MemoryOk s) (l k b t) : Lands (execMrest l k b t s) :=
  withOperands_wf h (withPort_wf h (portCheck_wf h fun _ => h))

theorem bayEntryPerform_lands (h : MemoryOk s) (core) : Lands (execBayEntryPerform core s) := ite_wf h h

theorem bayEntryEffect_lands (h : MemoryOk s) (core) : Lands (execBayEntryEffect core s) := by
  change MemoryOk _
  dsimp only
  split
  · split
    · exact ite_wf (bayEffect_wf h) h
    · exact h
  · exact h

theorem portTransferDone_lands (h : MemoryOk s) (core) : Lands (execPortTransferDone core s) := by
  change MemoryOk _
  split
  · dsimp only
    split
    · exact ite_wf h (wf_of_mem (portBegin_mem ..) h)
    · exact portMove_wf h
  · exact h

theorem portTransferFault_lands (h : MemoryOk s) (core) : Lands (execPortTransferFault core s) := by
  refine wf_of_mem (?_ : State.mem _ = s.mem) h
  repeat' split
  all_goals simp

/-! ## The engine -/

theorem tfill_lands (h : MemoryOk s) (k c b a) : Lands (execTfill k c b a s) := by
  refine withOperands_wf h (withShadow_wf h (needClean_wf h (withMap_wf h fun _ _ => ?_)))
  dsimp only
  split
  · exact raise_wf h
  · split
    · exact raise_wf h
    · exact writeShadow_wf h

theorem ego_lands (h : MemoryOk s) : Lands (execEgo s) := by
  refine withPool_wf h ?_
  split
  · exact ite_wf h (raise_wf h)
  · exact raise_wf h

theorem ecan_lands (h : MemoryOk s) : Lands (execEcan s) := by
  refine withPool_wf h (wf_of_mem (issue_mem ..) ?_)
  dsimp only
  split
  · exact ite_wf (cancelActive_wf h) h
  · exact h

theorem engineWindowCommit_lands (h : MemoryOk s) (core) : Lands (execEngineWindowCommit core s) := by
  change MemoryOk _
  split
  · refine ite_wf h (ite_wf (wf_of_mem (commitWindow_mem ..) h) ?_)
    exact ite_wf (writeSome_wf h) (ite_wf h (wf_of_mem (windowBegin_mem ..) h))
  · exact h

theorem enginePark_lands (h : MemoryOk s) (core) : Lands (execEnginePark core s) := by
  change MemoryOk _
  split
  · dsimp only
    split
    · exact h
    · split
      · exact wf_of_mem (logPage_mem ..) (wf_of_mem (modEngine_mem ..) (moveSome_wf h))
      · exact wf_of_mem (logFault_mem ..) (wf_of_mem (headRecord_mem ..) (wf_of_mem (modEngine_mem ..) (moveSome_wf h)))
      · exact h
  · exact h

theorem engineRestart_lands (h : MemoryOk s) (core) : Lands (execEngineRestart core s) := by
  refine wf_of_mem (?_ : State.mem _ = s.mem) h
  repeat' split
  all_goals rfl

theorem engineInternalError_lands (h : MemoryOk s) (core) : Lands (execEngineInternalError core s) := by
  change MemoryOk _
  split
  · exact wf_of_mem (headRecord_mem ..) (cancelActive_wf h)
  · exact h

/-! ## Messages and handlers -/

theorem send_lands (h : MemoryOk s) (b a d) : Lands (execSend b a d s) :=
  withOperands_wf h (withExchange_wf h (needCleans_wf h (ite_wf (raise_wf h) (ite_wf (raise_wf h) (wf_of_mem (sendMsg_mem ..) h)))))

theorem depositArrive_lands (h : MemoryOk s) (id) : Lands (execDepositArrive id s) := by
  change MemoryOk _
  split
  · split
    · exact ite_wf h (wf_of_mem (answer_mem ..) (deposit_wf h))
    · exact h
  · exact h

theorem sendAck_lands (h : MemoryOk s) (id) : Lands (execSendAck id s) := by
  change MemoryOk _
  split
  · split
    · exact ite_wf (acked_wf h) h
    · exact h
  · exact h

theorem amJudge_wf {t : State} {m : Mail} {cls : Nat} {l : List PWord} {nsr r : Bool} {st : Option Word} (h : MemoryOk s)
    (e : s.amJudge m cls l nsr r = (t, st)) : MemoryOk t := by
  have hj : MemoryOk (s.amJudge m cls l nsr r).1 := wf_of_mem (amJudge_mem ..) h
  rwa [e] at hj

theorem sendamR_lands (h : MemoryOk s) (l b a d) : Lands (execSendamR l b a d s) :=
  amAddress_wf h fun _ _ => wf_of_mem (issue_mem ..) (markWord_wf (s := s.addOut _) h)

theorem amArrive_lands (h : MemoryOk s) (id) : Lands (execAmArrive id s) := by
  change MemoryOk _
  split
  · split
    · split
      · exact h
      · split
        · next e => exact wf_of_mem (answer_mem ..) (amJudge_wf h e)
        · next e => exact wf_of_mem (dropMail_mem ..) (amJudge_wf h e)
    · exact h
  · exact h

theorem sendamAck_lands (h : MemoryOk s) (id) : Lands (execSendamAck id s) := by
  change MemoryOk _
  split
  · split
    · refine ite_wf h ?_
      split
      · exact fillOut_wf (s := s.dropMail id) h
      · exact acked_wf h
    · exact h
  · exact h

theorem sendamReply_lands (h : MemoryOk s) (id) : Lands (execSendamReply id s) := by
  change MemoryOk _
  split
  · split
    · refine ite_wf h ?_
      split
      · exact fillOut_wf (s := s.dropMail id) h
      · exact h
    · exact h
  · exact h

theorem handlerStart_lands (h : MemoryOk s) (core) : Lands (execHandlerStart core s) := by
  change MemoryOk _
  dsimp only
  split
  · exact h
  · split
    · exact startHandler_wf h
    · split
      · exact startHandler_wf h
      · exact h

theorem hret_lands (h : MemoryOk s) : Lands (execHret s) := by
  refine ite_wf (raise_wf h) (withPool_wf h ?_)
  split
  · exact raise_wf h
  · refine withOperands_wf h (ite_wf h (ite_wf (raise_wf h) ?_))
    exact wf_of_mem (endHandler_mem ..) (wf_of_mem (issue_mem ..) (wf_of_mem (sendReply_mem ..) h))

theorem trapRecordDeliver_lands (h : MemoryOk s) (core place) : Lands (execTrapRecordDeliver core place s) := by
  refine wf_of_mem (?_ : State.mem _ = s.mem) h
  dsimp only
  repeat' split
  all_goals rfl

theorem slot15Fault_lands (h : MemoryOk s) (core) : Lands (execSlot15Fault core s) := by
  change MemoryOk _
  dsimp only
  split
  · exact h
  · have h1 : MemoryOk (s.dropHeld core ((s.core core).slot 15).tid false) := dropHeld_wf h
    refine ite_wf h1 (wf_of_mem (log15_mem ..) (wf_of_mem (modSlot_mem ..) (wf_of_mem (modCore_mem ..)
      (wf_of_mem (endHandler_mem ..) ?_))))
    split
    · exact wf_of_mem (sendReply_mem ..) h1
    · exact h1

end
end Sys2Proof.Proofs

namespace Sys2Proof.Proofs

open Sys2Proof Sys2Proof.Machine Sys2Proof.Laws

section
variable {s : State}

/-! ## Barriers and reductions of gangs -/

theorem backoff_lands (h : MemoryOk s) (d) : Lands (execBackoff d s) := withOperands_wf h (needClean_wf h h)

theorem backoffExpire_lands (h : MemoryOk s) (core slot) : Lands (execBackoffExpire core slot s) := by
  change MemoryOk _
  dsimp only
  split
  · exact ite_wf (wf_of_mem (modSlot_mem ..) (fillFixed_wf h)) h
  · exact h

theorem barar_lands (h : MemoryOk s) (k d) : Lands (execBarar k d s) :=
  no15_wf h (withOperands_wf h (withBarrier_wf h fun _ => setW_wf _ _ _ _ (wf_of_mem (arrive_mem ..) h)))

theorem barwt_lands (h : MemoryOk s) (k a) : Lands (execBarwt k a s) := by
  refine no15_wf h (withOperands_wf h ?_)
  split
  · exact raise_wf h
  · exact withLoose_wf h fun _ _ _ h => wf_of_mem (barWait_mem ..) h

theorem barrierArrival_lands (h : MemoryOk s) (lea gid k rank) : Lands (execBarrierArrival lea gid k rank s) := by
  change MemoryOk _
  split
  · exact h
  · split
    · exact wf_of_mem (atFirst_mem ..) h
    · exact h

theorem barrierComplete_lands (h : MemoryOk s) (lea gid k core) : Lands (execBarrierComplete lea gid k core s) := by
  change MemoryOk _
  split
  · exact h
  · dsimp only
    split <;> exact h

theorem gred_lands (h : MemoryOk s) (o a d) : Lands (execGred o a d s) := by
  refine no15_wf h (withOperands_wf h (ite_wf h (withExchange_wf h (needClean_wf h ?_))))
  split
  · exact raise_wf h
  · refine ite_wf (raise_wf h) (touched_wf _ (wf_of_mem (issue_mem ..) (wf_of_mem (modGang_mem ..) ?_)))
    exact markWord_wf (s := { s with nextId := s.nextId + 1 }.post _) h

theorem gredContributionArrive_lands (h : MemoryOk s) (lea gid round grank) :
    Lands (execGredContributionArrive lea gid round grank s) := by
  change MemoryOk _
  split
  · exact h
  · split
    · exact h
    · dsimp only
      split
      · exact h
      · split
        · exact wf_of_mem (gredSpread_mem ..) h
        · exact h

theorem gredResultDeliver_lands (h : MemoryOk s) (lea gid round rank) : Lands (execGredResultDeliver lea gid round rank s) := by
  change MemoryOk _
  split
  · exact h
  · have h1 (g : Gang) (q r) : MemoryOk (s.gredReach g q r) := wf_of_mem (gredReach_mem ..) h
    dsimp only
    split
    · exact h1 ..
    · split
      · split
        · split
          · exact h1 ..
          · exact gredGive_wf (h1 ..)
        · exact h1 ..
      · exact h1 ..

/-! ## Queues, tasks and gangs -/

theorem hostEnqueue_lands (h : MemoryOk s) (lea queue pkt) : Lands (execHostEnqueue lea queue pkt s) := by
  change MemoryOk _
  split
  · exact h
  · split
    · exact h
    · exact wf_of_mem (modLea_mem ..) h

theorem tqpush_lands (h : MemoryOk s) (k b a d) : Lands (execTqpush k b a d s) := by
  refine withOperands_wf h (withExchange_wf h (withSpace_wf h (needClean_wf h (withLoose_wf h fun _ _ _ h => ?_))))
  dsimp only
  split
  · exact raise_wf h
  · exact ite_wf (raise_wf h) (ite_wf (raise_wf h) (withBlock_wf h fun _ => wf_of_mem (sendMsg_mem ..) h))

theorem tqpushArrive_lands (h : MemoryOk s) (id) : Lands (execTqpushArrive id s) := by
  change MemoryOk _
  split
  · split
    · split
      · exact h
      · exact wf_of_mem (answer_mem ..) (wf_of_mem (modLea_mem ..) h)
    · exact h
  · exact h

theorem tqpushAck_lands (h : MemoryOk s) (id) : Lands (execTqpushAck id s) := by
  change MemoryOk _
  split
  · split
    · exact ite_wf (acked_wf h) h
    · exact h
  · exact h

theorem tqdone_lands (h : MemoryOk s) (a d) : Lands (execTqdone a d s) :=
  no15_wf h (withToken_wf h fun _ _ _ h => ite_wf (fillFixed_wf h) h)

theorem succok_lands (h : MemoryOk s) : Lands (execSuccok s) := by
  refine no15_wf h (wf_of_mem (issue_mem ..) ?_)
  split
  · exact wf_of_mem (modLea_mem ..) h
  · exact h

theorem yieldEnd_lands (h : MemoryOk s) (core slot) : Lands (execYieldEnd core slot s) := by
  change MemoryOk _
  split
  · exact ite_wf h h
  · exact h

theorem exitComplete_lands (h : MemoryOk s) (core slot) : Lands (execExitComplete core slot s) :=
  ite_wf h (wf_of_mem (leaveGang_mem ..) h)

theorem dispatchPass_lands (h : MemoryOk s) (lea) : Lands (execDispatchPass lea s) := by
  refine ite_wf h ?_
  split
  · exact dispatchPass_wf h
  · exact h

theorem taskRetire_lands (h : MemoryOk s) (lea gid) : Lands (execTaskRetire lea gid s) := by
  change MemoryOk _
  split
  · exact h
  · refine ite_wf h (ite_wf h (ite_wf h (retestLea_wf (wf_of_mem (modLea_mem ..) ?_))))
    split
    · exact foldl_wf (fun _ _ h => wf_of_mem (modCore_mem ..) h) _ h
    · exact h

theorem watchdogTide_lands (h : MemoryOk s) (lea gid) : Lands (execWatchdogTide lea gid s) := by
  change MemoryOk _
  split
  · exact h
  · exact ite_wf h (wf_of_mem (modGang_mem ..) (wf_of_mem (clearWoken_mem ..) h))

theorem watchdogExpire_lands (h : MemoryOk s) (lea gid) : Lands (execWatchdogExpire lea gid s) := by
  change MemoryOk _
  split
  · split <;> exact h
  · exact h

/-! ## Control registers and system instructions -/

theorem crdTime_lands (h : MemoryOk s) (d) : Lands (execCrdTime d s) := withOperands_wf h (ite_wf h (setW_wf _ _ _ _ h))

theorem cwrStat_lands (h : MemoryOk s) (a) : Lands (execCwrStat a s) := withOperands_wf h (ite_wf h (needClean_wf h h))

theorem cwrWp_lands (h : MemoryOk s) (a) : Lands (execCwrWp a s) := crWrite_wf h fun _ => ite_wf h (raise_wf h)

theorem cwrVp_lands (h : MemoryOk s) (a) : Lands (execCwrVp a s) := crWrite_wf h fun _ => ite_wf h (raise_wf h)

theorem gtoffApply_lands (h : MemoryOk s) (lea) : Lands (execGtoffApply lea s) := ite_wf h (wf_of_mem (modLea_mem ..) h)

theorem rotset_lands (h : MemoryOk s) (a) : Lands (execRotset a s) :=
  sup_wf h (withOperands_wf h (withPool_wf h (needClean_wf h (ite_wf h (raise_wf h)))))

theorem brk_lands (h : MemoryOk s) (c) : Lands (execBrk c s) := ite_wf h (raise_wf h)

theorem halt_lands (h : MemoryOk s) : Lands (execHalt s) := ite_wf (raise_wf h) h

theorem wfm_lands (h : MemoryOk s) (a) : Lands (execWfm a s) := no15_wf h (withOperands_wf h (needClean_wf h (ite_wf h h)))

theorem wfmExpire_lands (h : MemoryOk s) (core slot) : Lands (execWfmExpire core slot s) := by
  change MemoryOk _
  dsimp only
  split
  · exact ite_wf h h
  · exact h

theorem eret_lands (h : MemoryOk s) (b a) : Lands (execEret b a s) :=
  sup_wf h (withOperands_wf h (ite_wf h (needCleans_wf h (ite_wf (raise_wf h) (ite_wf (raise_wf h) (ite_wf (raise_wf h) h))))))

theorem wakeHelds_mem (l : List Nat) (s : State) : (l.foldl State.wakeHeld s).mem = s.mem := foldl_mem (fun _ _ => wakeHeld_mem ..) _ _

theorem resume_lands (h : MemoryOk s) (a) : Lands (execResume a s) := by
  refine sup_wf h (withOperands_wf h (needClean_wf h (ite_wf (raise_wf h) (wf_of_mem (issue_mem ..) ?_))))
  split
  · dsimp only
    split
    · exact h
    · exact wf_of_mem (wakeCopy_mem ..) (wf_of_mem (modSlot_mem ..) (wf_of_mem (wakeHelds_mem ..) h))
  all_goals exact ite_wf h h

theorem pageFaultWake_lands (h : MemoryOk s) (lea frame) : Lands (execPageFaultWake lea frame s) := by
  change MemoryOk _
  dsimp only
  split
  · exact h
  · split
    · refine foldl_wf (fun _ _ h => wf_of_mem (wakeCore_mem ..) h) _ ?_
      exact foldl_wf (fun _ _ h => wf_of_mem (excludeOn_mem ..) (wf_of_mem (wakeHeld_mem ..) h)) _ h
    · exact foldl_wf (fun _ _ h => wf_of_mem (excludeOn_mem ..) (wf_of_mem (wakeHeld_mem ..) h)) _ h

theorem cwrTdp_lands (h : MemoryOk s) (a) : Lands (execCwrTdp a s) := by
  refine crWrite_wf h fun _ => ?_
  split
  · exact raise_wf h
  · refine withDescs_wf h ?_
    dsimp only
    split
    · exact raise_wf h
    · exact h

theorem threadSwitch_lands (h : MemoryOk s) (core slot) : Lands (execThreadSwitch core slot s) := by
  change MemoryOk _
  dsimp only
  split
  · exact ite_wf h (loadFrom_wf (writeBack_wf (wf_of_mem (takeOwed_mem ..) h)))
  · exact h

theorem preemptSaveDone_lands (h : MemoryOk s) (core slot) : Lands (execPreemptSaveDone core slot s) := by
  change MemoryOk _
  dsimp only
  split
  · exact ite_wf h (wf_of_mem (modSlot_mem ..) (preemptDone_wf h))
  · exact h

theorem ctxldLoadDone_lands (h : MemoryOk s) (core slot) : Lands (execCtxldLoadDone core slot s) := by
  change MemoryOk _
  dsimp only
  split
  · exact h
  · refine ite_wf h (wf_of_mem (modSlot_mem ..) ?_)
    split
    · split
      · exact loadThread_wf (wf_of_mem (modSlot_mem ..) h)
      · exact h
    · exact loadFrom_wf (wf_of_mem (modSlot_mem ..) h)

theorem tlbinvComplete_lands (h : MemoryOk s) (core slot) : Lands (execTlbinvComplete core slot s) := by
  change MemoryOk _
  dsimp only
  split
  · exact ite_wf h h
  · exact h

theorem segld_lands (h : MemoryOk s) (b a k) : Lands (execSegld b a k s) :=
  sup_wf h (withOperands_wf h (needCleans_wf h (wf_of_mem (writeSeg_mem ..) h)))

/-! ## The instructions that launch and await a context -/

theorem colld_lands (h : MemoryOk s) (k b a) : Lands (execColld k b a s) := by
  refine withOperands_wf h (withPool_wf h (ite_wf h (needClean_wf h (withLoose_wf h fun _ _ _ h => ite_wf (raise_wf h) ?_))))
  split
  · exact raise_wf h
  · exact ite_wf (raise_wf h) (ite_wf (raise_wf h) h)

theorem colrun_lands (h : MemoryOk s) (k a) : Lands (execColrun k a s) := by
  change MemoryOk _
  split
  · exact withPool_wf h (colrun_wf h)
  · refine withOperands_wf h (withPool_wf h (needClean_wf h ?_))
    dsimp only
    split
    · exact raise_wf h
    · exact ite_wf (raise_wf h) (ite_wf (raise_wf h) (withBlock_wf h fun _ =>
        ite_wf (raise_wf h) (ite_wf (raise_wf h) (colrun_wf h))))

theorem colwt_lands (h : MemoryOk s) (d) : Lands (execColwt d s) :=
  withOperands_wf h (withPool_wf h (ite_wf h (setW_wf _ _ _ _ h)))

theorem colstAbort_lands (h : MemoryOk s) (d) : Lands (execColstAbort d s) :=
  withOperands_wf h (withPool_wf h (wf_of_mem (modDor_mem ..) (setW_wf _ _ _ _ h)))

/-! ## The words of a Dorent context -/

theorem dcopy_lands (h : MemoryOk s) (buf sbuf qo ce cnt qs len) : Lands (execDcopy buf sbuf qo ce cnt qs len s) :=
  withCtx_wf h fun _ _ _ => ite_wf h (ite_wf (dFail_wf h) (ite_wf (dFail_wf h) h))

theorem dred_lands (h : MemoryOk s) (buf tree qo ce cnt op len) : Lands (execDred buf tree qo ce cnt op len s) := by
  refine withCtx_wf h fun _ _ _ => ite_wf h (ite_wf (dFail_wf h) ?_)
  split
  · exact dFail_wf h
  · exact ite_wf (dFail_wf h) (ite_wf (dFail_wf h) h)

theorem dwait_lands (h : MemoryOk s) (n tgt tb tmo thr) : Lands (execDwait n tgt tb tmo thr s) :=
  withCtx_wf h fun _ _ _ => ite_wf h (ite_wf h h)

theorem dsig_lands (h : MemoryOk s) (n ch amt) : Lands (execDsig n ch amt s) := by
  refine withCtx_wf h fun _ _ _ => ite_wf h ?_
  split
  · exact dFail_wf h
  · exact ite_wf h (dFail_wf h)
  · exact ite_wf (dFail_wf h) (ite_wf (dFail_wf h) (ite_wf h h))

theorem dloop_lands (h : MemoryOk s) (qa tgt) : Lands (execDloop qa tgt s) := withCtx_wf h fun _ _ _ => ite_wf h h

theorem dnextMod_lands (h : MemoryOk s) (qa qb imm) : Lands (execDnextMod qa qb imm s) := dSet_wf h

theorem dnextRnk_lands (h : MemoryOk s) (qa imm) : Lands (execDnextRnk qa imm s) := by
  refine withCtx_wf h fun _ _ _ => ?_
  split
  · exact dFail_wf h
  · exact h

theorem djoinTree_lands (h : MemoryOk s) (tree qp qc mask rate) : Lands (execDjoinTree tree qp qc mask rate s) :=
  withCtx_wf h fun _ _ _ => ite_wf h (ite_wf (dFail_wf h) (ite_wf (wf_of_mem (dUnjoin_mem ..) h)
    (ite_wf h (wf_of_mem (dAsk_mem ..) h))))

theorem dverAgree_lands (h : MemoryOk s) (qa t) : Lands (execDverAgree qa t s) :=
  withCtx_wf h fun _ _ _ => ite_wf h (ite_wf (dFail_wf h) (wf_of_mem (dAsk_mem ..) h))

theorem dbar_lands (h : MemoryOk s) (tgt tb tmo) : Lands (execDbar tgt tb tmo s) :=
  withCtx_wf h fun _ _ _ => ite_wf h (wf_of_mem (dAsk_mem ..) h)

theorem dhalt_lands (h : MemoryOk s) (code) : Lands (execDhalt code s) :=
  withCtx_wf h fun _ _ _ => ite_wf h (ite_wf (dFail_wf h) (wf_of_mem (dAsk_mem ..) h))

end
end Sys2Proof.Proofs

namespace Sys2Proof.Proofs

open Sys2Proof Sys2Proof.Machine Sys2Proof.Laws

section
variable {s : State}

/-! ## Groups and circuits -/

theorem groupCreate_lands (h : MemoryOk s) (lea gid members candidates nsr) :
    Lands (execGroupCreate lea gid members candidates nsr s) := by
  change MemoryOk _
  split
  · exact h
  · exact ite_wf h (foldl_wf (fun _ _ h => wf_of_mem (addRec_mem ..) h) _ h)

theorem circuitRequestArrive_lands (h : MemoryOk s) (core) : Lands (execCircuitRequestArrive core s) := by
  change MemoryOk _
  split
  · exact h
  · refine ite_wf h ?_
    split
    · exact wf_of_mem (readyAll_mem _) (ite_wf (askTree_wf h) (wf_of_mem (askChannel_mem ..) h))
    · split
      · exact wf_of_mem (modDor_mem ..) (wf_of_mem (tearDown_mem ..) h)
      · exact h
    · exact h

theorem circuitDecide_lands (h : MemoryOk s) (id) : Lands (execCircuitDecide id s) := by
  change MemoryOk _
  split
  · exact h
  · dsimp only
    split
    · exact h
    · refine ite_wf h ?_
      split
      · exact wf_of_mem (setPhase_mem ..) h
      · refine ite_wf (breakChange_wf h) (ite_wf ?_ (wf_of_mem (setPhase_mem ..) h))
        exact foldl_wf (fun _ _ => failEnds_wf) _ (wf_of_mem (setPhase_mem ..) h)

theorem dropCircuits_wf {l : List Circuit} (h : MemoryOk s) : MemoryOk (l.foldl State.dropCircuit s) :=
  foldl_wf (fun _ _ => dropCircuit_wf) _ h

theorem circuitSwitch_lands (h : MemoryOk s) (id) : Lands (execCircuitSwitch id s) := by
  change MemoryOk _
  split
  · exact h
  · refine ite_wf h ?_
    split
    · refine ite_wf h (ite_wf (breakChange_wf h) (ite_wf (breakChange_wf h) (dropCircuits_wf ?_)))
      exact ite_wf (wf_of_mem (endUp_mem ..) h) (wf_of_mem (endUp_mem ..) (wf_of_mem (endUp_mem ..) h))
    · exact ite_wf h (ite_wf (failUnjoins_wf (wf_of_mem (setPhase_mem ..) h)) (dropCircuit_wf h))
    · exact ite_wf h h
    · exact h

theorem djoinTimeout_lands (h : MemoryOk s) (core) : Lands (execDjoinTimeout core s) := by
  change MemoryOk _
  split
  · exact h
  · split
    · exact ite_wf h (dFail_wf h)
    · exact h

/-! ## Operations of a context -/

theorem dorentOpComplete_lands (h : MemoryOk s) (core op) : Lands (execDorentOpComplete core op s) := by
  refine ite_wf (ite_wf (drainLate_wf h) h) ?_
  split
  · exact h
  · refine ite_wf h ?_
    split
    · exact h
    · split
      · exact stepCopy_wf h
      · exact ite_wf h (stepNode_wf h)
      · exact h
      · refine ite_wf h ?_
        split
        · exact stepTransfer_wf h
        · exact h

theorem reductionSlotCombine_lands (h : MemoryOk s) (core tree) : Lands (execReductionSlotCombine core tree s) := by
  change MemoryOk _
  split
  · exact h
  · refine ite_wf h ?_
    split
    · exact ite_wf (stepNode_wf h) h
    · exact h

theorem dsigArrive_lands (h : MemoryOk s) (core op) : Lands (execDsigArrive core op s) := by
  refine wf_of_mem (?_ : State.mem _ = s.mem) h
  repeat' split
  all_goals rfl

theorem dorentPark_lands (h : MemoryOk s) (core) : Lands (execDorentPark core s) := by
  refine wf_of_mem (?_ : State.mem _ = s.mem) h
  repeat' split
  all_goals simp

theorem dorentTimeout_lands (h : MemoryOk s) (core) : Lands (execDorentTimeout core s) := by
  have hd (d : Dorent) (start tmo : Nat) (jump : Option Nat) : MemoryOk (if tmo = 0 ∨ s.dElapsed d start < tmo then s
      else match jump with
        | some t => s.dJump core t (fun d => d)
        | none => s.dFail core 0x07 d.pc) := by
    refine ite_wf h ?_
    split
    · exact h
    · exact dFail_wf h
  change MemoryOk _
  split
  · exact h
  · dsimp only
    split
    · exact ite_wf h (hd ..)
    · exact hd ..
    · exact h

theorem dbarComplete_lands (h : MemoryOk s) (lea gid) : Lands (execDbarComplete lea gid s) := by
  refine foldl_wf (fun t p h => ?_) _ h
  split
  · exact ite_wf h h
  · exact h

theorem closingBarrierDone_lands (h : MemoryOk s) (lea gid) : Lands (execClosingBarrierDone lea gid s) := by
  refine foldl_wf (fun t p h => ?_) _ h
  split
  · exact ite_wf (dStop_wf h) h
  · exact h

theorem closingBarrierTimeout_lands (h : MemoryOk s) (core) : Lands (execClosingBarrierTimeout core s) := by
  change MemoryOk _
  split
  · exact h
  · split
    · exact ite_wf h (dFail_wf h)
    · exact h

theorem agreeVoteArrive_lands (h : MemoryOk s) (core) : Lands (execAgreeVoteArrive core s) := by
  refine wf_of_mem (?_ : State.mem _ = s.mem) h
  dsimp only
  repeat' split
  all_goals rfl

theorem dPost_mem (s : State) (core dst : Nat) (m : Msg) : (s.dPost core dst m).mem = s.mem := rfl

theorem agreeDeadline_lands (h : MemoryOk s) (core) : Lands (execAgreeDeadline core s) := by
  change MemoryOk _
  split
  · exact h
  · split
    · dsimp only
      split
      · exact h
      · exact ite_wf h (foldl_wf (fun _ _ h => wf_of_mem (dPost_mem ..) h) _ h)
    · exact h

theorem agreeDecisionArrive_lands (h : MemoryOk s) (core) : Lands (execAgreeDecisionArrive core s) := by
  change MemoryOk _
  split
  · exact h
  · split
    · split
      · exact h
      · exact ite_wf h (dStop_wf (wf_of_mem (modDor_mem ..) h))
    · exact h

theorem agreeInstall_lands (h : MemoryOk s) (core) : Lands (execAgreeInstall core s) := by
  refine wf_of_mem (?_ : State.mem _ = s.mem) h
  repeat' split
  all_goals simp

theorem agreeNoDecision_lands (h : MemoryOk s) (core) : Lands (execAgreeNoDecision core s) := by
  refine wf_of_mem (?_ : State.mem _ = s.mem) h
  repeat' split
  all_goals rfl

theorem catchUpRecord_lands (h : MemoryOk s) (core peer) : Lands (execCatchUpRecord core peer s) := by
  change MemoryOk _
  split
  · exact h
  · split
    · exact ite_wf h (ite_wf h (wf_of_mem (catchUp_mem ..) h))
    · split
      · exact ite_wf h h
      · exact h

theorem colldCopyDone_lands (h : MemoryOk s) (core) : Lands (execColldCopyDone core s) := by
  change MemoryOk _
  dsimp only
  split
  · refine ite_wf h ?_
    split
    · exact wf_of_mem (logPage_mem ..) h
    · exact wf_of_mem (logFault_mem ..) (wf_of_mem (parkRecord_mem ..) h)
    · have h1 : ∀ l f, MemoryOk (s.flowOn l f).1 := fun _ _ => wf_of_mem (flowOn_mem ..) h
      exact ite_wf (wf_of_mem (modDor_mem ..) (h1 ..)) (wf_of_mem (modCore_mem ..) (flushFor_wf (h1 ..)))
  · exact h

/-! ## Control transfer -/

theorem jmp_lands (h : MemoryOk s) (a) : Lands (execJmp a s) := withOperands_wf h (needClean_wf h (ite_wf (raise_wf h) h))

theorem callr_lands (h : MemoryOk s) (a f) : Lands (execCallr a f s) :=
  withOperands_wf h (needClean_wf h (ite_wf (raise_wf h) (openWindow_wf h)))

theorem loop_lands (h : MemoryOk s) (o a) : Lands (execLoop o a s) :=
  withOperands_wf h (needClean_wf h (ite_wf (fillWord_wf _ _ h) (fillWord_wf _ _ h)))

/-! ## Clocks, slices and handovers -/

theorem islandClockChange_lands (h : MemoryOk s) (island clock) : Lands (execIslandClockChange island clock s) := by
  refine wf_of_mem (?_ : State.mem _ = s.mem) h
  dsimp only
  repeat' split
  all_goals rfl

theorem debtAccrue_lands (h : MemoryOk s) (lea core) : Lands (execDebtAccrue lea core s) := by
  refine wf_of_mem (?_ : State.mem _ = s.mem) h
  repeat' split
  all_goals rfl

theorem sliceStart_lands (h : MemoryOk s) (core) : Lands (execSliceStart core s) := by
  refine wf_of_mem (?_ : State.mem _ = s.mem) h
  dsimp only
  repeat' split
  all_goals simp

theorem handoverStop_lands (h : MemoryOk s) (core slot) : Lands (execHandoverStop core slot s) := by
  refine wf_of_mem (?_ : State.mem _ = s.mem) h
  dsimp only
  repeat' split
  all_goals rfl

theorem settleEnd_lands (h : MemoryOk s) (core slot) : Lands (execSettleEnd core slot s) := by
  change MemoryOk _
  dsimp only
  split
  · exact ite_wf h (ite_wf h (wf_of_mem (modSlot_mem ..) (portFlush_wf h)))
  · exact h

theorem slotSaveDone_lands (h : MemoryOk s) (core slot) : Lands (execSlotSaveDone core slot s) := by
  change MemoryOk _
  dsimp only
  split
  · refine ite_wf h (wf_of_mem (modCore_mem ..) (scrubFor_wf ?_))
    split
    · exact wf_of_mem (modCore_mem ..) (wf_of_mem (requeue_mem ..) (exactDesc_wf h))
    · exact exactDesc_wf h
  · exact h

theorem slotRestoreDone_lands (h : MemoryOk s) (core slot) : Lands (execSlotRestoreDone core slot s) := by
  change MemoryOk _
  dsimp only
  split
  · refine ite_wf h (finishHandover_wf (retest_wf (wf_of_mem (reissueOn_mem ..) ?_)))
    split
    · next v _ =>
      exact wf_of_mem (modCore_mem ..) (returnThread_wf (wf_of_mem (modCore_mem ..)
        (s := { s with mem := s.mem.paste (sliceAt core slot) v.range }) (paste_wf _ _ h)))
    · exact ite_wf h h
  · exact h

theorem poolPhaseDone_lands (h : MemoryOk s) (core) : Lands (execPoolPhaseDone core s) := by
  change MemoryOk _
  dsimp only
  split
  · next hd _ =>
    have h1 : ∀ f, MemoryOk (((s.savePool core hd).scrubFor hd.out (poolAt core) 0x40000).modCore core f) :=
      fun _ => wf_of_mem (modCore_mem ..) (scrubFor_wf (savePool_wf h))
    refine ite_wf h (finishHandover_wf (retestCore_wf ?_))
    split
    · exact restorePool_wf (h1 _)
    · split
      · exact firstHold_wf (h1 _)
      · exact h1 _
  · exact h

end
end Sys2Proof.Proofs

namespace Sys2Proof.Proofs

open Sys2Proof Sys2Proof.Machine Sys2Proof.Laws

section
variable {s : State}

/-! ## Late results -/

theorem lateAnswer_wf {m : Mail} {id : Nat} {v : PWord} (h : MemoryOk s) : MemoryOk (match s.out id with
    | some o => (s.dropMail id).lateEnd o [v] Flags.none
    | none => ((s.dropMail id).lateFill m.dst m.lea m.srcSlot m.wd v).modSlotOf m.dst m.lea m.srcSlot (fun x =>
        if x.tid = m.srcTid ∧ x.hold = .ack id then x.release else x)) := by
  have h1 : MemoryOk (s.dropMail id) := wf_of_mem (dropMail_mem ..) h
  split
  · exact lateEnd_wf h1
  · exact wf_of_mem (modSlotOf_mem ..) (lateFill_wf h1)

theorem lateResultToSaveArea_lands (h : MemoryOk s) (id) : Lands (execLateResultToSaveArea id s) := by
  change MemoryOk _
  dsimp only
  split
  · refine ite_wf h ?_
    split
    · exact lateAnswer_wf h
    · exact lateAnswer_wf h
    · exact lateAnswer_wf h
    · exact lateAnswer_wf h
    · exact h
  · split
    · exact h
    · refine ite_wf h ?_
      split
      · exact ite_wf (lateEnd_wf h) h
      · refine ite_wf h ?_
        split
        · exact wf_of_mem (addSem_mem ..) (lateEnd_wf h)
        · exact lateEnd_wf h
      · exact h

/-! ## Headland's requests -/

theorem leaCreate_lands (h : MemoryOk s) (req) : Lands (execLeaCreate req s) := by
  change MemoryOk _
  dsimp only
  split
  · exact h
  · refine ite_wf h ?_
    split
    · refine ite_wf h (wf_of_mem (reply_mem ..) (wf_of_mem (repause_mem ..) ?_))
      have h1 : (∀ (l : List (Nat × Nat)), (l.foldl (fun m p => m.scrub (p.2 * frameBytes) frameBytes) s.mem).wf = true) :=
        fun l => foldlMemory_wf (fun _ _ => scrub_wf _ _) l h
      have h2 {t : State} {cores : List Nat} {l : Lea} {banks : List (Nat × List Nat)} (ht : MemoryOk t) :
          MemoryOk (cores.foldl (fun s c => s.giveCore c l) (t.scrubBanks banks)) :=
        foldl_wf (fun _ _ => giveCore_wf) _ (scrubBanks_wf ht)
      split
      · exact wf_of_mem (unwrap_mem ..) (h2 (h1 _))
      · exact h2 (h1 _)
    · exact h

theorem leaDestroy_lands (h : MemoryOk s) (lea) : Lands (execLeaDestroy lea s) := by
  change MemoryOk _
  split
  · exact h
  · refine wf_of_mem (reply_mem ..) ?_
    have h1 {t : State} {l : List Nat} {banks : List (Nat × List Nat)} (ht : MemoryOk t) :
        MemoryOk (l.foldl (fun s c => s.clearCore lea c) (t.scrubBanks banks)) :=
      foldl_wf (fun _ _ => clearCore_wf) _ (scrubBanks_wf ht)
    exact ite_wf (wf_of_mem (debugLock_mem _) (h1 h)) (h1 h)

theorem sliceScheduleSet_lands (h : MemoryOk s) (core sched) : Lands (execSliceScheduleSet core sched s) :=
  ite_wf (wf_of_mem (reply_mem ..) (wf_of_mem (commitSched_mem ..) h)) h

theorem dispatchTemplateInstall_lands (h : MemoryOk s) (lea slot tmpl) : Lands (execDispatchTemplateInstall lea slot tmpl s) := by
  refine ite_wf ?_ h
  split
  · exact wf_of_mem (reply_mem ..) (wf_of_mem (modLea_mem ..) h)
  · exact h

theorem wdlimSet_lands (h : MemoryOk s) (lea limit) : Lands (execWdlimSet lea limit s) :=
  ite_wf (wf_of_mem (reply_mem ..) (wf_of_mem (modLea_mem ..) h)) h

theorem queueDisable_lands (h : MemoryOk s) (lea queue off) : Lands (execQueueDisable lea queue off s) :=
  ite_wf (wf_of_mem (modLea_mem ..) h) h

theorem leaMigration_lands (h : MemoryOk s) (lea paused gtoff) : Lands (execLeaMigration lea paused gtoff s) := by
  change MemoryOk _
  split
  · exact ite_wf (wf_of_mem (reply_mem ..) (wf_of_mem (modLea_mem ..) h)) h
  · exact h

theorem stage2Change_lands (h : MemoryOk s) (lea frame entry) : Lands (execStage2Change lea frame entry s) := by
  change MemoryOk _
  split
  · exact h
  · refine ite_wf h ?_
    exact wf_of_mem (t := { State.modLea _ _ _ with cores := _ }) (modLea_mem ..) (flushLea_wf h)

theorem keyAssign_lands (h : MemoryOk s) (lea key) : Lands (execKeyAssign lea key s) :=
  ite_wf (wf_of_mem (reply_mem ..) (wf_of_mem (modLea_mem ..) (s := { s with head := _ }) h)) h

theorem keyIdentifierRemove_lands (h : MemoryOk s) (lea key) : Lands (execKeyIdentifierRemove lea key s) := by
  change MemoryOk _
  split
  · exact h
  · exact ite_wf (wf_of_mem (reply_mem ..) (wf_of_mem (modLea_mem ..) (s := { s with head := _ }) h)) h

theorem frameRebind_lands (h : MemoryOk s) (frame key) : Lands (execFrameRebind frame key s) := by
  refine ite_wf h (wf_of_mem (reply_mem ..) ?_)
  dsimp only
  have h1 : ∀ l, MemoryOk (s.giveUp l (frame * frameBytes) frameBytes) := fun _ => giveUp_wf h
  unfold MemoryOk
  dsimp only
  split
  · exact scrub_wf _ _ (h1 _)
  · exact h1 _

theorem hostMemoryAccess_lands (h : MemoryOk s) (lea gpa op) : Lands (execHostMemoryAccess lea gpa op s) := by
  change MemoryOk _
  split
  · split <;> exact h
  · split
    · exact ite_wf h h
    · exact h
  · split
    · exact wf_of_mem (hostRead_mem ..) h
    · exact h
  · split
    · exact wf_of_mem (reply_mem ..) (stateHostWrite_wf h)
    · exact h
  · split
    · exact ite_wf (hostWrite_wf _ _ _ h) h
    · exact h
  · exact ite_wf h h
  all_goals exact h

theorem linkReplay_lands (h : MemoryOk s) (link) : Lands (execLinkReplay link s) := h

theorem uncorrectableError_lands (h : MemoryOk s) (site) : Lands (execUncorrectableError site s) := by
  cases site with
  | corrected a => exact h
  | data a =>
    change Lands (if memoryHas a then .next { s with mem := s.mem.setBad a true } else .fault .noSuchAddress)
    split
    · exact setBad_wf _ _ h
    · trivial
  | stage2 lea frame => exact wf_of_mem (modLea_mem ..) h
  | slotState core slot => exact ite_wf h (wf_of_mem (trapSlot_mem ..) h)
  | plane core shadow d => exact ite_wf h h
  | tile core t d => exact ite_wf h h
  | mailbox core entry word => exact h
  | dieControl die => exact h
  | headland => exact h

theorem patrolScrub_lands (h : MemoryOk s) (addr) : Lands (execPatrolScrub addr s) := by
  change Lands (if memoryHas addr then .next s else .fault .noSuchAddress)
  split
  · exact h
  · trivial

/-! ## Dies -/

theorem dieReset_lands (h : MemoryOk s) (die) : Lands (execDieReset die s) := ite_wf h h

theorem loseCores_wf {l : List Nat} (h : MemoryOk s) : MemoryOk (l.foldl (fun s c => (s.loseCore c).giveUpCore c) s) :=
  foldl_wf (fun _ _ ht => giveUpCore_wf (loseCore_wf ht)) l h

theorem dieResetLogic_lands (h : MemoryOk s) (die) : Lands (execDieResetLogic die s) := by
  change MemoryOk _
  split
  · dsimp only
    obtain ⟨u, e, hu⟩ : ∃ u, (dieCores die).foldl (fun s c => (s.loseCore c).giveUpCore c) s = u ∧ MemoryOk u :=
      ⟨_, rfl, loseCores_wf h⟩
    rw [e]
    refine ite_wf h (dropCircuits_wf (foldl_wf (fun t o ht => ?_) _ ?_))
    · split
      · exact wf_of_mem (responder_mem ..) ht
      · exact ht
    · exact hu
  · exact h

theorem dieScrub_lands (h : MemoryOk s) (die) : Lands (execDieScrub die s) := by
  change MemoryOk _
  split
  · refine foldl_wf (fun t core ht => ?_) _ (scrub_wf _ _ (scrub_wf _ _ h))
    dsimp only
    split
    · exact loadMessage_wf ht
    · exact ht
  · exact h

theorem notices_wf {l : List Nat} {n die : Nat} {f : Nat → Option Nat} (h : MemoryOk s) :
    MemoryOk (l.foldl (fun s e => if e = die then s else match f e with
      | some c => s.notice c n 0x57 die
      | none => s) s) := by
  refine foldl_wf (fun t e ht => ite_wf ht ?_) _ h
  split
  · exact wf_of_mem (notice_mem ..) ht
  · exact ht

theorem dieRejoin_lands (h : MemoryOk s) (die) : Lands (execDieRejoin die s) := by
  change MemoryOk _
  split
  · split
    · refine ite_wf h (foldl_wf (fun t n ht => ?_) _ (poisonDiscarded_wf h))
      split
      · exact notices_wf ht
      · exact ht
    · exact h
  · exact h

theorem unitFence_lands (h : MemoryOk s) (unit) : Lands (execUnitFence unit s) := by
  refine foldl_wf (fun t n ht => ite_wf ?_ ht) _ h
  split
  · exact wf_of_mem (notice_mem ..) ht
  · exact ht

theorem fatalError_lands (h : MemoryOk s) (reason) : Lands (execFatalError reason s) := ite_wf h h

theorem moduleReset_lands : Lands (execModuleReset s) := reset_memory_wf

theorem secureBoot_lands (h : MemoryOk s) (img) : Lands (execSecureBoot img s) := ite_wf h h

/-! ## Sessions and debug -/

theorem spdmRequest_lands (h : MemoryOk s) (req) : Lands (execSpdmRequest req s) := by
  refine wf_of_mem (?_ : State.mem _ = s.mem) h
  dsimp only
  repeat' split
  all_goals rfl

theorem ideKm_lands (h : MemoryOk s) (stream req) : Lands (execIdeKm stream req s) := by
  refine wf_of_mem (?_ : State.mem _ = s.mem) h
  dsimp only
  repeat' split
  all_goals rfl

theorem debugUnlock_lands (h : MemoryOk s) (lea digest) : Lands (execDebugUnlock lea digest s) := by
  refine wf_of_mem (?_ : State.mem _ = s.mem) h
  repeat' split
  all_goals rfl

theorem debugAccess_lands (h : MemoryOk s) (acc) : Lands (execDebugAccess acc s) := by
  change MemoryOk _
  split
  · exact h
  · split
    · exact h
    · dsimp only
      split
      · exact h
      · exact ite_wf h h
      · split
        · exact ite_wf h h
        · exact h
      · split
        · exact ite_wf (wf_of_mem (reply_mem ..) (debugDescWrite_wf h)) h
        · exact h
      · split <;> exact h
      · split
        · exact wf_of_mem (reply_mem ..) (debugWrite_wf h)
        · exact h

theorem debugResume_lands (h : MemoryOk s) : Lands (execDebugResume s) :=
  ite_wf (wf_of_mem (debugWake_mem _) (wf_of_mem (debugSet_mem ..) h)) (wf_of_mem (debugSet_mem ..) h)

theorem debugAddressMatchSet_lands (h : MemoryOk s) (k addr valid) : Lands (execDebugAddressMatchSet k addr valid s) :=
  ite_wf h (wf_of_mem (debugSet_mem ..) h)

theorem addressMatchHalt_lands (h : MemoryOk s) : Lands (execAddressMatchHalt s) := ite_wf h h

theorem debugSessionEnd_lands (h : MemoryOk s) : Lands (execDebugSessionEnd s) := h

theorem instructionFetch_lands (h : MemoryOk s) : Lands (execInstructionFetch s) := by
  change MemoryOk _
  split
  · exact h
  · exact wf_of_mem (missLine_mem ..) h
  · exact raise_wf h

end
end Sys2Proof.Proofs

namespace Sys2Proof.Proofs

open Sys2Proof Sys2Proof.Machine Sys2Proof.Laws

section
variable {s : State}

/-! ## Every instruction -/

theorem vint_wf {t : BitVec 1} {l : BitVec 4} {m : BitVec 3} {b a d : BitVec 4} {lat : Nat}
    {g : (w : Nat) → BitVec w → BitVec w → BitVec w} (h : MemoryOk s) : MemoryOk (s.vint t l m b a d lat g) := by
  unfold State.vint
  exact velem_wf h

theorem vfp1_wf {t : BitVec 1} {l : BitVec 4} {m : BitVec 3} {a d : BitVec 4} {lat : Nat} {g : Fmt → Val → Nat × Flags}
    (h : MemoryOk s) : MemoryOk (s.vfp1 t l m a d lat g) := by
  unfold State.vfp1
  exact velem_wf h

theorem vfp2_wf {t : BitVec 1} {l : BitVec 4} {m : BitVec 3} {b a d : BitVec 4} {g : Fmt → VMode → Val → Val → Nat × Flags}
    (h : MemoryOk s) : MemoryOk (s.vfp2 t l m b a d g) := by
  unfold State.vfp2
  exact velem_wf h

theorem vfp3_wf {t : BitVec 1} {l : BitVec 4} {m : BitVec 3} {b a d : BitVec 4} {n : Bool}
    (h : MemoryOk s) : MemoryOk (s.vfp3 t l m b a d n) := by
  unfold State.vfp3
  exact velem_wf h

/-- Every instruction keeps memory canonical: the arms that share a form by the form's lemma, the others by their own. -/
theorem exec_lands (h : MemoryOk s) (i : Instr) : Lands (exec i s) := by
  cases i with
  | add | sub | mul | mulh | mulhu | and | or | xor | andn | orn | shl | shr | sra | ror | min | max | minu | maxu | cmpeq
    | cmplt | cmpltu | extr | add16 | sub16 | and16 | or16 =>
    exact alu2_wf _ _ _ _ _ h
  | div | divu | rem | remu =>
    exact slow2_wf _ _ _ _ _ _ _ h
  | sel | insb =>
    exact alu3_wf _ _ _ _ _ _ h
  | clz | ctz | popc | brev | bswap | addi | shli | shri | srai | cmpi | lih | addiMove16 | addi16 | shli16 | shri16 =>
    exact alu1_wf _ _ _ _ h
  | movi | addpc | sgrd | movi16 =>
    exact alu0_wf _ _ _ h
  | beq | bne | blt | bge | bltu | bgeu =>
    exact branch2_wf h
  | bz | bnz | bz16 | bnz16 =>
    exact branch1_wf h
  | br | nop | br16 | nop16 | engineCommandStart | rotApply =>
    exact h
  | ret | ret16 =>
    exact closeWindow_wf h
  | call =>
    exact withOperands_wf h (openWindow_wf h)
  | ldd16 | ldb | ldh | ldw | ldd | ldAcq | lduAcq | ldbu | ldhu | ldwu | lde | ldf | feq | ldbIdx | ldbuIdx | ldhIdx
    | ldhuIdx | ldwIdx | ldwuIdx | lddIdx | amoadd | amoand | amoor | amoxor | amomin | amomax | amoswp | amocas | amofaddS
    | amofaddD =>
    exact loadForm_wf _ _ _ _ _ _ _ h
  | std16 | stb | sth | stw | std | stRel | stf | stff | feclr | stbIdx | sthIdx | stwIdx | stdIdx =>
    exact storeForm_wf _ _ _ _ _ h
  | fadd | fsub | fmul | fmin | fmax | fcmpeq | fcmplt | fcmple | fsgnj =>
    exact fp2_wf _ _ _ _ _ h
  | fma | fms | fnma =>
    exact fp3_wf _ _ _ _ _ h
  | frsqe | frcpe | fclass | icvtf | fabs | fneg =>
    exact fp1_wf _ _ _ _ h
  | get | put | ramo =>
    exact remoteOp_wf h
  | nadd | nmax | nred | naxpy =>
    exact bankVec_wf h
  | vld | vlds | vgath | vst | vsts | vscat =>
    exact vmem_wf h
  | viadd | visub | vimul | vimin | vimax | vand | vor | vxor | vshl | vshr | vsra =>
    exact vint_wf h
  | vcmpeq | vcmplt | vcmple =>
    exact vcmp_wf h
  | vadd | vsub | vmul | vmin | vmax =>
    exact vfp2_wf h
  | vfma | vfms =>
    exact vfp3_wf h
  | vabs | vneg | vrsqe | vrcpe | vexp2e | vlog2e =>
    exact vfp1_wf h
  | mand | mor | mnot =>
    exact vmaskOp_wf h
  | vredsum | vredmax | vredmin =>
    exact vred_wf h
  | mswap | mzero =>
    exact withBay_wf h (bayEnqueue_wf h)
  | tcopy | tgath | tscat =>
    exact moveCmd_wf h
  | estat | mbxst | mbxstClr | colst =>
    exact withOperands_wf h (withPool_wf h (setW_wf _ _ _ _ h))
  | semadd | semset =>
    exact semOp_wf h fun _ => h
  | bar =>
    exact no15_wf h (withBarrier_wf h fun _ => wf_of_mem (barWait_mem ..) h)
  | sendam =>
    exact amAddress_wf h fun _ _ => wf_of_mem (sendMsg_mem ..) h
  | waitfAll | waitfAny =>
    exact waitf_wf h
  | tqdoneT =>
    exact withToken_wf h fun _ _ _ h => fillFixed_wf h
  | waitpred =>
    exact no15_wf h (ite_wf h h)
  | yield | exit =>
    exact no15_wf h h
  | crd =>
    exact readCr_wf h
  | crdStat =>
    exact withOperands_wf h (ite_wf h (setW_wf _ _ _ _ h))
  | cwr =>
    exact crWrite_wf h fun _ => wf_of_mem (writeCr_mem ..) h
  | cwrGtoff =>
    exact crWrite_wf h fun _ => wf_of_mem (modLea_mem ..) h
  | cwrRot =>
    exact crWrite_wf h fun _ => ite_wf h (raise_wf h)
  | trap | decodeTrap =>
    exact raise_wf h
  | preempt | preemptDrop =>
    exact preempt_wf h
  | ctxld | ctxldTdp =>
    exact ctxLoad_wf h
  | tlbinv | tlbinvAll =>
    exact tlbInv_wf h
  | dsend | drecv =>
    exact dMove_wf h
  | dsigLoc | dloopBz | dloopBnz =>
    exact withCtx_wf h fun _ _ _ => ite_wf h h
  | dloopJmp | dverRd =>
    exact withCtx_wf h fun _ _ _ => h
  | dnextAdd | dnextSet | dnextMov | dnextMul =>
    exact dSet_wf h
  | djoinSend | djoinRecv =>
    exact dJoin_wf h
  | resultFill =>
    exact resultFill_wf h
  | accessPerformedAtHome =>
    exact accessAtHome_wf h
  | flitInject =>
    exact wf_of_mem (flitInject_mem ..) h
  | hbmServiceStart =>
    exact wf_of_mem (hbmStart_mem ..) h
  | hbmServiceDone =>
    exact hbmDone_wf h
  | icacheFill =>
    exact wf_of_mem (icacheFill_mem ..) h
  | translationWalkDone =>
    exact wf_of_mem (walkDone_mem ..) h
  | vectorServe =>
    exact wf_of_mem (vectorServe_mem ..) h
  | bankCommandExecute =>
    exact bankExecute_wf h
  | debugStop | debugBrkcap =>
    exact wf_of_mem (debugSet_mem ..) h
  | dorentDecodeFault =>
    exact withCtx_wf h fun _ _ _ => dFail_wf h
  | lea => exact lea_lands h ..
  | mapr => exact mapr_lands h ..
  | ldl => exact ldl_lands h ..
  | callr => exact callr_lands h ..
  | jmp => exact jmp_lands h ..
  | loop => exact loop_lands h ..
  | hret => exact hret_lands h
  | fdiv => exact fdiv_lands h ..
  | fsqrt => exact fsqrt_lands h ..
  | fcvt => exact fcvt_lands h ..
  | fcvti => exact fcvti_lands h ..
  | rsem => exact rsem_lands h ..
  | nfill => exact nfill_lands h ..
  | namo => exact namo_lands h ..
  | fence => exact fence_lands h ..
  | fenceb => exact fenceb_lands h ..
  | vcvt => exact vcvt_lands h ..
  | vquant => exact vquant_lands h ..
  | vdeq => exact vdeq_lands h ..
  | mpop => exact mpop_lands h ..
  | vmov => exact vmov_lands h ..
  | vbcast => exact vbcast_lands h ..
  | vextr => exact vextr_lands h ..
  | vins => exact vins_lands h ..
  | vperm => exact vperm_lands h ..
  | vslide => exact vslide_lands h ..
  | vsel => exact vsel_lands h ..
  | mcfg => exact mcfg_lands h ..
  | mload => exact mload_lands h ..
  | mstep => exact mstep_lands h ..
  | mdrain => exact mdrain_lands h ..
  | mflags => exact mflags_lands h ..
  | msave => exact msave_lands h ..
  | mrest => exact mrest_lands h ..
  | tfill => exact tfill_lands h ..
  | ego => exact ego_lands h
  | ecan => exact ecan_lands h
  | semrd => exact semrd_lands h ..
  | semwait => exact semwait_lands h ..
  | barar => exact barar_lands h ..
  | barwt => exact barwt_lands h ..
  | gred => exact gred_lands h ..
  | send => exact send_lands h ..
  | sendamR => exact sendamR_lands h ..
  | backoff => exact backoff_lands h ..
  | tqpush => exact tqpush_lands h ..
  | tqdone => exact tqdone_lands h ..
  | succok => exact succok_lands h
  | colld => exact colld_lands h ..
  | colrun => exact colrun_lands h ..
  | colwt => exact colwt_lands h ..
  | colstAbort => exact colstAbort_lands h ..
  | crdTime => exact crdTime_lands h ..
  | cwrStat => exact cwrStat_lands h ..
  | cwrTdp => exact cwrTdp_lands h ..
  | cwrWp => exact cwrWp_lands h ..
  | cwrVp => exact cwrVp_lands h ..
  | brk => exact brk_lands h ..
  | halt => exact halt_lands h
  | wfm => exact wfm_lands h ..
  | eret => exact eret_lands h ..
  | resume => exact resume_lands h ..
  | segld => exact segld_lands h ..
  | rotset => exact rotset_lands h ..
  | dcopy => exact dcopy_lands h ..
  | dred => exact dred_lands h ..
  | dwait => exact dwait_lands h ..
  | dsig => exact dsig_lands h ..
  | dloop => exact dloop_lands h ..
  | dnextMod => exact dnextMod_lands h ..
  | dnextRnk => exact dnextRnk_lands h ..
  | djoinTree => exact djoinTree_lands h ..
  | dverAgree => exact dverAgree_lands h ..
  | dbar => exact dbar_lands h ..
  | dhalt => exact dhalt_lands h ..
  | storeAcknowledge => exact storeAcknowledge_lands h ..
  | exchangeInject => exact exchangeInject_lands h ..
  | pageFaultWake => exact pageFaultWake_lands h ..
  | vectorFill => exact vectorFill_lands h ..
  | bayEntryPerform => exact bayEntryPerform_lands h ..
  | bayEntryEffect => exact bayEntryEffect_lands h ..
  | portTransferDone => exact portTransferDone_lands h ..
  | portTransferFault => exact portTransferFault_lands h ..
  | engineWindowCommit => exact engineWindowCommit_lands h ..
  | enginePark => exact enginePark_lands h ..
  | engineRestart => exact engineRestart_lands h ..
  | engineInternalError => exact engineInternalError_lands h ..
  | remoteAccessArrive => exact remoteAccessArrive_lands h ..
  | remoteComplete => exact remoteComplete_lands h ..
  | rsemArrive => exact rsemArrive_lands h ..
  | depositArrive => exact depositArrive_lands h ..
  | sendAck => exact sendAck_lands h ..
  | amArrive => exact amArrive_lands h ..
  | sendamAck => exact sendamAck_lands h ..
  | sendamReply => exact sendamReply_lands h ..
  | handlerStart => exact handlerStart_lands h ..
  | trapRecordDeliver => exact trapRecordDeliver_lands h ..
  | slot15Fault => exact slot15Fault_lands h ..
  | barrierArrival => exact barrierArrival_lands h ..
  | barrierComplete => exact barrierComplete_lands h ..
  | gredContributionArrive => exact gredContributionArrive_lands h ..
  | gredResultDeliver => exact gredResultDeliver_lands h ..
  | threadSwitch => exact threadSwitch_lands h ..
  | preemptSaveDone => exact preemptSaveDone_lands h ..
  | ctxldLoadDone => exact ctxldLoadDone_lands h ..
  | exitComplete => exact exitComplete_lands h ..
  | tlbinvComplete => exact tlbinvComplete_lands h ..
  | yieldEnd => exact yieldEnd_lands h ..
  | backoffExpire => exact backoffExpire_lands h ..
  | wfmExpire => exact wfmExpire_lands h ..
  | hostEnqueue => exact hostEnqueue_lands h ..
  | tqpushArrive => exact tqpushArrive_lands h ..
  | tqpushAck => exact tqpushAck_lands h ..
  | dispatchPass => exact dispatchPass_lands h ..
  | taskRetire => exact taskRetire_lands h ..
  | watchdogTide => exact watchdogTide_lands h ..
  | watchdogExpire => exact watchdogExpire_lands h ..
  | gtoffApply => exact gtoffApply_lands h ..
  | islandClockChange => exact islandClockChange_lands h ..
  | debtAccrue => exact debtAccrue_lands h ..
  | sliceStart => exact sliceStart_lands h ..
  | handoverStop => exact handoverStop_lands h ..
  | settleEnd => exact settleEnd_lands h ..
  | slotSaveDone => exact slotSaveDone_lands h ..
  | slotRestoreDone => exact slotRestoreDone_lands h ..
  | poolPhaseDone => exact poolPhaseDone_lands h ..
  | lateResultToSaveArea => exact lateResultToSaveArea_lands h ..
  | circuitRequestArrive => exact circuitRequestArrive_lands h ..
  | circuitDecide => exact circuitDecide_lands h ..
  | circuitSwitch => exact circuitSwitch_lands h ..
  | dorentOpComplete => exact dorentOpComplete_lands h ..
  | dsigArrive => exact dsigArrive_lands h ..
  | reductionSlotCombine => exact reductionSlotCombine_lands h ..
  | dorentTimeout => exact dorentTimeout_lands h ..
  | djoinTimeout => exact djoinTimeout_lands h ..
  | dbarComplete => exact dbarComplete_lands h ..
  | closingBarrierDone => exact closingBarrierDone_lands h ..
  | closingBarrierTimeout => exact closingBarrierTimeout_lands h ..
  | colldCopyDone => exact colldCopyDone_lands h ..
  | dorentPark => exact dorentPark_lands h ..
  | agreeVoteArrive => exact agreeVoteArrive_lands h ..
  | agreeDeadline => exact agreeDeadline_lands h ..
  | agreeDecisionArrive => exact agreeDecisionArrive_lands h ..
  | agreeInstall => exact agreeInstall_lands h ..
  | agreeNoDecision => exact agreeNoDecision_lands h ..
  | catchUpRecord => exact catchUpRecord_lands h ..
  | linkReplay => exact linkReplay_lands h ..
  | uncorrectableError => exact uncorrectableError_lands h ..
  | patrolScrub => exact patrolScrub_lands h ..
  | dieReset => exact dieReset_lands h ..
  | dieResetLogic => exact dieResetLogic_lands h ..
  | dieScrub => exact dieScrub_lands h ..
  | dieRejoin => exact dieRejoin_lands h ..
  | unitFence => exact unitFence_lands h ..
  | fatalError => exact fatalError_lands h ..
  | moduleReset => exact moduleReset_lands
  | secureBoot => exact secureBoot_lands h ..
  | leaCreate => exact leaCreate_lands h ..
  | leaDestroy => exact leaDestroy_lands h ..
  | sliceScheduleSet => exact sliceScheduleSet_lands h ..
  | dispatchTemplateInstall => exact dispatchTemplateInstall_lands h ..
  | stage2Change => exact stage2Change_lands h ..
  | keyAssign => exact keyAssign_lands h ..
  | frameRebind => exact frameRebind_lands h ..
  | wdlimSet => exact wdlimSet_lands h ..
  | groupCreate => exact groupCreate_lands h ..
  | spdmRequest => exact spdmRequest_lands h ..
  | ideKm => exact ideKm_lands h ..
  | debugUnlock => exact debugUnlock_lands h ..
  | debugAccess => exact debugAccess_lands h ..
  | debugResume => exact debugResume_lands h
  | debugAddressMatchSet => exact debugAddressMatchSet_lands h ..
  | addressMatchHalt => exact addressMatchHalt_lands h
  | debugSessionEnd => exact debugSessionEnd_lands h
  | instructionFetch => exact instructionFetch_lands h
  | hostMemoryAccess => exact hostMemoryAccess_lands h ..
  | queueDisable => exact queueDisable_lands h ..
  | leaMigration => exact leaMigration_lands h ..
  | keyIdentifierRemove => exact keyIdentifierRemove_lands h ..

theorem exec_wf {i : Instr} {t : State} (h : MemoryOk s) (e : exec i s = .next t) : MemoryOk t := by
  simpa only [e, Lands] using exec_lands h i

/-! ## What moves next -/

/-- An aim whose state has canonical memory. -/
def AimOk : Aim → Prop
  | .pass t => MemoryOk t
  | .go _ _ t => MemoryOk t

theorem aimOk_ite {c : Prop} {_ : Decidable c} {a b : Aim} (ha : AimOk a) (hb : AimOk b) : AimOk (if c then a else b) := by
  split
  · exact ha
  · exact hb

theorem aimTurn_ok (h : MemoryOk s) (core : Nat) : AimOk (s.aimTurn core) := by
  have hb {k : Nat} : MemoryOk ((s.beginTurn core).testHret core k) := testHret_wf (wf_of_mem (beginTurn_mem ..) h)
  have hc {k : Nat} : MemoryOk { (s.beginTurn core).testHret core k with cur := (core, k) } := hb
  unfold State.aimTurn
  dsimp only
  refine aimOk_ite (show MemoryOk _ from h) (aimOk_ite (show MemoryOk _ from h) (aimOk_ite (show MemoryOk _ from hb) (aimOk_ite ?_ ?_)))
  · exact wf_of_mem (nextProbe_mem ..) (ite_wf hb hb)
  · split
    · exact wf_of_mem (nextProbe_mem ..) (wf_of_mem (modSlot_mem ..) hb)
    · refine aimOk_ite (wf_of_mem (endTurn_mem ..) (wf_of_mem (takeOwed_mem ..) hc) : MemoryOk _)
        (aimOk_ite (wf_of_mem (nextProbe_mem ..) (wf_of_mem (forfeit_mem ..) hc) : MemoryOk _) ?_)
      split
      · exact hc
      · exact wf_of_mem (nextProbe_mem ..) hc

theorem aimDorent_ok (h : MemoryOk s) (core : Nat) : AimOk (s.aimDorent core) := by
  have h1 : MemoryOk { s.popAct with cur := (core, 0) } := h
  unfold State.aimDorent
  dsimp only
  refine aimOk_ite h1 (aimOk_ite (dStop_wf h1 : MemoryOk _) (aimOk_ite h1 (aimOk_ite h1 ?_)))
  split
  all_goals exact h1

theorem aim_ok (h : MemoryOk s) : AimOk s.aim := by
  unfold State.aim
  split
  · exact ite_wf (wf_of_mem (tick_mem _) h) h
  · exact aimOk_ite h h
  · exact ite_wf (wf_of_mem (runCycle_mem ..) h) h
  · exact aimOk_ite (aimTurn_ok h _) h
  · exact aimOk_ite (aimDorent_ok h _) h
  · exact ite_wf (wf_of_mem (tick_mem _) h) h

theorem after_wf {turn : Bool} {u : State} (h : MemoryOk u) : MemoryOk (State.after turn s u) := ite_wf (afterTurn_wf h) h

theorem step_wf {t : State} (h : MemoryOk s) (e : step s = .next t) : MemoryOk t := by
  have ha := aim_ok h
  unfold step at e
  split at e
  · next u hu =>
    rw [hu] at ha
    cases e
    exact ha
  · next turn i u hu =>
    rw [hu] at ha
    split at e
    · next v hv =>
      cases e
      exact after_wf (exec_wf ha hv)
    · cases e
    · cases e

/-- Settles O51: memory after reset holds no cell at all. -/
theorem resetMemory : Obligations.ResetMemory := reset_memory_wf

/-- Settles O52: what moves next leaves memory canonical, and so does every instruction. -/
theorem stepKeepsMemory : Obligations.StepKeepsMemory := fun _ _ => step_wf

end
end Sys2Proof.Proofs

namespace Sys2Proof.Proofs

open Sys2Proof Sys2Proof.Machine Sys2Proof.Laws

/-! ## Segments and reset -/

theorem space_eq_zero_iff (g : Seg) : g.space = 0 ↔ g.attr.extractLsb' 0 3 = 0 := by
  rw [Seg.space, ← BitVec.toNat_inj]
  rfl

/-- Settles O60: the model's checks, in its order, are the statement's. -/
theorem segmentChecks : Obligations.SegmentChecks := by
  intro g ext off size need ok
  simp only [segFail, space_eq_zero_iff, List.any_cons, List.any_nil, Bool.or_false, Bool.not_eq_true', ← Bool.not_eq_true,
    List.contains_iff_mem]
  rfl

/-- The entries of a list of equal entries, and what stands for those beyond it where that is the same. -/
theorem getD_replicate_self {α : Type} (x : α) (n i : Nat) : (List.replicate n x).getD i x = x := by
  rw [List.getD_eq_getElem?_getD, List.getElem?_getD_replicate_default_eq]

theorem reset_core (c : Nat) : State.reset.core c = Core.reset := rfl

theorem reset_slot (c k : Nat) : State.reset.slot c k = Slot.reset := getD_replicate_self ..

/-- Settles O50: every core reads as the reset core, every slot as the reset slot, and every list of reset entries as the reset
entry, inside it and beyond. -/
theorem resetState : Obligations.ResetState := by
  refine ⟨fun c k => ?_, fun c => ?_, rfl, rfl, rfl, fun _ => ⟨rfl, rfl, rfl⟩⟩
  · rw [reset_slot]
    exact ⟨rfl, rfl, fun _ => getD_replicate_self ..⟩
  · rw [reset_core]
    exact ⟨rfl, rfl, rfl, rfl, fun _ => getD_replicate_self .., fun _ => getD_replicate_self ..,
      fun _ => getD_replicate_self .., rfl, rfl, fun _ => rfl⟩

end Sys2Proof.Proofs

namespace Sys2Proof.Proofs

open Sys2Proof Sys2Proof.Machine Sys2Proof.Laws

section
variable {s t : State} {c : Nat} {rest : List Act} {i : Instr}

/-! ## What a step runs -/

/-- A step whose aim has nothing to execute gives the aim's state. -/
theorem step_of_pass (h : s.aim = .pass t) : step s = .next t := by
  rw [step, h]

/-- A step outside a turn is the execution of its instruction. -/
theorem step_of_go (h : s.aim = .go false i t) : step s = exec i t := by
  rw [step, h]
  dsimp only
  cases exec i t <;> rfl

/-- A step in a turn is the execution of its instruction, and then what becomes of the turn. -/
theorem step_of_turn (h : s.aim = .go true i t) : step s = match exec i t with
    | .next u => .next (t.afterTurn u)
    | .fault f => .fault f
    | .refused r => .refused r := by
  rw [step, h]
  rfl

theorem aim_of_turn (hp : s.head.power = .running) (ha : s.agenda = .turn c :: rest) : s.aim = s.aimTurn c := by
  rw [State.aim, ha]
  exact if_pos hp

theorem aim_of_dorent (hp : s.head.power = .running) (ha : s.agenda = .dorent c :: rest) : s.aim = s.aimDorent c := by
  rw [State.aim, ha]
  exact if_pos hp

theorem aim_of_event (hp : s.head.power = .running) (ha : s.agenda = .event i :: rest) :
    s.aim = if isEvent i then .go false i { s with agenda := rest } else .pass { s with agenda := rest } := by
  have hm : s.mayAct i = isEvent i := by simp [State.mayAct, hp]
  rw [State.aim, ha]
  simp only [hm, State.popAct, ha, List.tail_cons]

theorem aimTurn_of_gated (ht : (s.core c).turned ≤ s.cycle c) (hg : s.gated c = true) : s.aimTurn c = .pass (s.endTurn c false) := by
  rw [State.aimTurn, if_neg (Nat.not_lt.2 ht), if_pos hg]

/-- R314: the candidate of a turn that may issue goes on to its next instruction. -/
theorem aimTurn_of_eligible (ht : (s.core c).turned ≤ s.cycle c) (hg : s.gated c = false) :
    let k := ((s.beginTurn c).core c).candidate (s.cycle c)
    let s1 := (s.beginTurn c).testHret c k
    let x := s1.core c
    let t : State := { s1 with cur := (c, k) }
    (x.slotLea (x.owner (s.cycle c))).isNone = false → s1.dieUp (dieOf c) = true → s1.eligible c k (x.probe == 0) = true →
    s1.heldWait c (x.slot k) = none → (x.slot k).owedTrap = none → t.windowsOpen = true → t.nextInstr = some i →
    s.aimTurn c = .go true i t := by
  intro k s1 x t hl hd he hw ho hv hn
  rw [State.aimTurn, if_neg (Nat.not_lt.2 ht), if_neg (by simp [hg])]
  dsimp only
  rw [if_neg (by rw [hl, hd]; decide), if_neg (by rw [he]; decide), hw]
  dsimp only
  rw [if_neg (by rw [ho]; decide), if_neg (by rw [hv]; decide), hn]

section
variable (hr : (s.dor c).state = .running) (hu : s.dieUp (dieOf c) = true) (hb : (s.dor c).abort = false)
  (hk : (s.dor c).park = none)
include hr hu hb hk

/-- A Running context with nothing in its way whose PC lies beyond its program. -/
theorem aimDorent_of_beyond (hl : (s.dor c).loaded ≤ (s.dor c).pc) :
    s.aimDorent c = .go false (.dorentDecodeFault 0x05) { s.popAct with cur := (c, 0) } := by
  have hd : State.dor { s.popAct with cur := (c, 0) } c = s.dor c := rfl
  have hu1 : State.dieUp { s.popAct with cur := (c, 0) } (dieOf c) = true := hu
  rw [State.aimDorent]
  dsimp only
  rw [hd, if_neg (by rw [hr, hu1]; decide), if_neg (by rw [hb]; decide), if_neg (by rw [hk]; decide), if_pos hl]

/-- A Running context with nothing in its way whose word decodes. -/
theorem aimDorent_of_ok (hl : (s.dor c).pc < (s.dor c).loaded) (hi : decodeDorent (keyGet 0 (s.dor c).store (s.dor c).pc) = .ok i) :
    s.aimDorent c = .go false i { s.popAct with cur := (c, 0) } := by
  have hd : State.dor { s.popAct with cur := (c, 0) } c = s.dor c := rfl
  have hu1 : State.dieUp { s.popAct with cur := (c, 0) } (dieOf c) = true := hu
  rw [State.aimDorent]
  dsimp only
  rw [hd, if_neg (by rw [hr, hu1]; decide), if_neg (by rw [hb]; decide), if_neg (by rw [hk]; decide),
    if_neg (Nat.not_le.2 hl), hi]

/-- A Running context with nothing in its way whose word does not decode. -/
theorem aimDorent_of_bad {e : BitVec 8} (hl : (s.dor c).pc < (s.dor c).loaded)
    (he : decodeDorent (keyGet 0 (s.dor c).store (s.dor c).pc) = .bad e) :
    s.aimDorent c = .go false (.dorentDecodeFault e) { s.popAct with cur := (c, 0) } := by
  have hd : State.dor { s.popAct with cur := (c, 0) } c = s.dor c := rfl
  have hu1 : State.dieUp { s.popAct with cur := (c, 0) } (dieOf c) = true := hu
  rw [State.aimDorent]
  dsimp only
  rw [hd, if_neg (by rw [hr, hu1]; decide), if_neg (by rw [hb]; decide), if_neg (by rw [hk]; decide),
    if_neg (Nat.not_le.2 hl), he]

end

theorem nextInstr_of_match (h : s.debugMatches = true) : s.nextInstr = some .addressMatchHalt := if_pos h

theorem nextInstr_of_ok {l : List (BitVec 16)} {n : Nat} (h : s.debugMatches = false) (hf : s.fetch = .halves l)
    (hd : decode s.priv l = .ok i n) : s.nextInstr = some i := by
  simp [State.nextInstr, h, hf, hd]

theorem nextInstr_of_bad {l : List (BitVec 16)} {e : BitVec 8} {b : Word} {n : Nat} (h : s.debugMatches = false)
    (hf : s.fetch = .halves l) (hd : decode s.priv l = .bad e b n) : s.nextInstr = some (.decodeTrap e b (BitVec.ofNat 2 n)) := by
  simp [State.nextInstr, h, hf, hd]

theorem nextInstr_of_miss {l n : Nat} (h : s.debugMatches = false) (hf : s.fetch = .miss l n) :
    s.nextInstr = some .instructionFetch := by
  simp [State.nextInstr, h, hf]

theorem nextInstr_of_trap {e : BitVec 8} {v : Word} {n : Nat} (h : s.debugMatches = false) (hf : s.fetch = .trap e v n) :
    s.nextInstr = some .instructionFetch := by
  simp [State.nextInstr, h, hf]

theorem fetch_of_wide {h0 h1 : BitVec 16} (e0 : s.fetchHalf s.pc.toNat = .half h0 false)
    (e1 : s.fetchHalf (s.pc.toNat + 2) = .half h1 false) (hw : h0.extractLsb' 0 2 = 3) : s.fetch = .halves [h0, h1] := by
  simp [State.fetch, State.fetchNext, e0, e1, hw]

end

/-- Settles O53: what each kind of act aims at, and what a step makes of its aim. -/
theorem stepRunsDecoded : Obligations.StepRunsDecoded := by
  refine ⟨fun c rest s hp ha ht hg => ?_, fun c rest s hp ha ht => ?_, fun i rest s hp ha => ⟨fun hi => ?_, fun hi => ?_⟩,
    ⟨rfl, rfl, rfl, rfl⟩, ?_, fun s h0 h1 e0 e1 hw => fetch_of_wide e0 e1 hw⟩
  · exact step_of_pass ((aim_of_turn hp ha).trans (aimTurn_of_gated ht hg))
  · intro now k s1 x t runs hg hl hd he hw ho hv
    have hruns {i : Instr} (hn : t.nextInstr = some i) : runs i :=
      step_of_turn ((aim_of_turn hp ha).trans (aimTurn_of_eligible ht hg hl hd he hw ho hv hn))
    exact ⟨fun hm => hruns (nextInstr_of_match hm), fun hm =>
      ⟨fun l hf => ⟨fun i n hi => hruns (nextInstr_of_ok hm hf hi), fun e b n hi => hruns (nextInstr_of_bad hm hf hi)⟩,
        fun l n hf => hruns (nextInstr_of_miss hm hf), fun e v n hf => hruns (nextInstr_of_trap hm hf)⟩⟩
  · exact step_of_go ((aim_of_event hp ha).trans (if_pos hi))
  · exact step_of_pass ((aim_of_event hp ha).trans (if_neg (by simp [hi])))
  · intro c rest s hp ha d t hr hu hb hk
    have ht : t = { s.popAct with cur := (c, 0) } := by simp [t, State.popAct, ha]
    have hm := aim_of_dorent hp ha
    refine ⟨fun hl => ?_, fun hl => ⟨fun i hi => ?_, fun e he => ?_⟩⟩
    · exact ht ▸ step_of_go (hm.trans (aimDorent_of_beyond hr hu hb hk hl))
    · exact ht ▸ step_of_go (hm.trans (aimDorent_of_ok hr hu hb hk hl hi))
    · exact ht ▸ step_of_go (hm.trans (aimDorent_of_bad hr hu hb hk hl he))

end Sys2Proof.Proofs

namespace Sys2Proof.Proofs

open Sys2Proof Sys2Proof.Machine Sys2Proof.Laws

section
variable {s : State} {a : Nat}

/-! ## Words marked pending -/

/-- Marking words changes memory alone. -/
theorem markPending_eq : ∀ (l : List Nat) (s : State), s.markPending l = { s with mem := (s.markPending l).mem }
  | [], _ => rfl
  | a :: t, s => markPending_eq t (s.markWord a .pending)

/-- Marking words changes no byte and no poison. -/
theorem markPending_bytes : ∀ (l : List Nat) (s : State),
    (s.markPending l).mem.cells = s.mem.cells ∧ (s.markPending l).mem.poison = s.mem.poison
  | [], _ => ⟨rfl, rfl⟩
  | a :: t, s => markPending_bytes t (s.markWord a .pending)

theorem feOf_setFe_same (m : Memory) (a : Nat) (x : FE) : (m.setFe a (some x)).feOf a = some x := keyFind_keySet_same ..

theorem feOf_setFe_other (m : Memory) {a b : Nat} (x : FE) (h : b ≠ a) : (m.setFe a (some x)).feOf b = m.feOf b :=
  keyFind_keySet_other _ h _

theorem feOf_markPending_other : ∀ {l : List Nat} {s : State}, a ∉ l → (s.markPending l).mem.feOf a = s.mem.feOf a
  | [], _, _ => rfl
  | b :: t, s, h => by
    obtain ⟨hb, ht⟩ : a ≠ b ∧ a ∉ t := by simpa using h
    exact (feOf_markPending_other (s := s.markWord b .pending) ht).trans (feOf_setFe_other _ _ hb)

theorem feOf_markPending : ∀ {l : List Nat} {s : State}, a ∈ l → (s.markPending l).mem.feOf a = some .pending
  | [], _, h => absurd h List.not_mem_nil
  | b :: t, s, h => by
    by_cases ht : a ∈ t
    · exact feOf_markPending (s := s.markWord b .pending) ht
    · obtain rfl : a = b := (List.mem_cons.1 h).resolve_right ht
      exact (feOf_markPending_other (s := s.markWord a .pending) ht).trans (feOf_setFe_same ..)

/-! ## An issue and the operands -/

theorem me_issue (n : Nat) (h : s.cur.2 < s.myCore.slots.length) :
    (s.issue n).me = { s.me.didIssue (s.cycle s.cur.1) with desc := { s.me.desc with pc := s.pc + BitVec.ofNat 64 n } } :=
  me_modMe s _ h

theorem slot_issue_other (n : Nat) {j : Nat} (h : j ≠ s.cur.2) : (s.issue n).slot s.cur.1 j = s.slot s.cur.1 j :=
  slot_modSlot_other _ _ (.inr h)

/-- The start of an access is an issue in a state with one more item of outstanding work and marked words. -/
theorem startAccess_eq (s : State) (n : Nat) (w : Bool) (look : Nat) (dst : List Nat) (x : Access) :
    let o := s.newOut n w look dst (.access x)
    s.startAccess n w look dst x =
      State.issue { s with outs := s.outs ++ [o], nextId := s.nextId + 1, mem := ((s.addOut o).markPending dst).mem } n := by
  intro o
  rw [State.startAccess, markPending_eq]
  rfl

/-- R381: where the registers lie in a pool that is away, an operand parks the thread. -/
theorem withOperands_away {src dst : List Nat} {f : State → State} (h : s.regsAway = true) (hn : src ++ dst ≠ []) :
    s.withOperands src dst f = s.park .pool := by
  rw [State.withOperands, if_pos (by simp [h, hn])]

/-- R105: the first source that is not full decides, where the registers are there. -/
theorem withOperands_notFull {dst : List Nat} {f : State → State} {x : FE} (h : s.regsAway = false) (ha : s.mem.feOf a = some x) :
    s.withOperands [a] dst f = match x with
      | .empty => s.park (.word a)
      | .pending => s.forfeit := by
  rw [State.withOperands, if_neg (by simp [h])]
  simp only [State.firstNotFull, ha]
  cases x <;> rfl

/-- R26, R65: a destination that is pending, or that an event of an earlier instruction with a lookahead names, makes the thread
forfeit. -/
theorem withOperands_waits {f : State → State} (h : s.regsAway = false)
    (hw : s.mem.isPending a = true ∨ s.writesWait [a] = true) : s.withOperands [] [a] f = s.forfeit := by
  rw [State.withOperands, if_neg (by simp [h])]
  simp only [State.firstNotFull]
  rw [if_pos]
  rcases hw with hp | hp
  · simp [hp]
  · simp [hp]

end

/-- Settles O58: an access is an issue with one more item of outstanding work, and issuing, forfeiting and parking change the acting
slot alone. -/
theorem issueFrames : Obligations.IssueFrames := by
  intro s n k size look op rx acq rel dst off data w h
  have hi (m : Memory) (l : List Out) (id : Nat) := me_issue (s := { s with mem := m, outs := l, nextId := id }) n h
  refine ⟨⟨_, rfl, ?_⟩, ⟨_, rfl, rfl, ?_, ?_⟩, rfl, by rw [me_issue n h], by rw [me_issue n h]; rfl, rfl, rfl, me_modMe s _ h, rfl, rfl,
    me_modMe s _ h, rfl, fun a f ha => ⟨withOperands_away ha (by simp), withOperands_away ha (by simp)⟩, fun a f ha => ⟨?_, ?_, ?_⟩⟩
  · rw [startAccess_eq]
    refine ⟨(markPending_bytes ..).1, (markPending_bytes ..).2, fun a ha => feOf_markPending_other ha, fun a ha => ?_, ?_, ?_,
      fun j hj => slot_issue_other _ hj⟩
    · exact beq_iff_eq.2 (feOf_markPending ha)
    · rw [hi]
      rfl
    · simp
  · rw [startAccess_eq, hi]
    rfl
  · rw [startAccess_eq]
    simp
  · exact withOperands_notFull ha
  · intro hp
    exact ⟨withOperands_notFull ha hp, withOperands_waits ha (.inl (beq_iff_eq.2 hp))⟩
  · intro o ho ht hw he
    refine withOperands_waits ha (.inr ?_)
    simp only [State.writesWait, State.myOuts, List.any_cons, List.any_nil, Bool.or_false, List.any_filter, List.any_eq_true]
    exact ⟨o, ho, by simp [ht, hw, he]⟩

end Sys2Proof.Proofs

namespace Sys2Proof.Proofs

open Sys2Proof Sys2Proof.Machine Sys2Proof.Laws

section
variable {s : State} {id : Nat} {o : Out} {x : Access} {m : Mail}

/-! ## The ends of accesses -/

theorem resultFill_of_access (ho : s.out id = some o) (hw : o.work = .access x) (hd : x.allDone = true)
    (hs : x.op.isStore = false) (hr : x.remote = false) (hl : s.isLate o = false) :
    exec (.resultFill id) s = .next (s.fillOut o (x.results o.old) Flags.none) := by
  change Host.Outcome.next (s.resultFill id) = _
  simp [State.resultFill, ho, hw, hd, hs, hr, hl]

theorem resultFill_of_compute {vals : List PWord} {fl : Option Flags} {due : Nat} (ho : s.out id = some o)
    (hw : o.work = .compute vals fl due) (hl : s.isLate o = false) : exec (.resultFill id) s =
      .next (if due ≤ s.cycle o.core then s.fillOut o vals (fl.getD Flags.none) else s) := by
  change Host.Outcome.next (s.resultFill id) = _
  simp [State.resultFill, ho, hw, hl]

theorem storeAcknowledge_of_done (ho : s.out id = some o) (hw : o.work = .access x) (hd : x.allDone = true)
    (hs : x.op.isStore = true) (hr : x.remote = false) : exec (.storeAcknowledge id) s = .next (s.dropOut id) := by
  change execStoreAcknowledge id s = _
  simp [execStoreAcknowledge, ho, Out.access, hw, hd, hs, hr]

theorem remoteComplete_of_done (ho : s.out id = some o) (hw : o.work = .access x) (hd : x.allDone = true)
    (hr : x.remote = true) (hl : s.isLate o = false) (hc : ∀ p ∈ x.parts, s.crossed p.since x.die (dieOf o.core) = true) :
    exec (.remoteComplete id) s =
      .next (match x.sem with
        | some k => (s.fillOut o (x.results o.old) Flags.none).addSem o.core o.lea k 8
        | none => s.fillOut o (x.results o.old) Flags.none) := by
  have hc : (x.parts.all fun p => s.crossed p.since x.die (dieOf o.core)) = true := List.all_eq_true.2 hc
  change execRemoteComplete id s = _
  simp only [execRemoteComplete, ho, hw, hd, hr, hl, hc]
  rfl

theorem remoteComplete_of_rsem (hm : s.mailOf id = some m) (ho : s.out id = some o) (hw : o.work = .rsem)
    (hg : m.msg = .rsemAck id) (ha : s.arrives m = true) : exec (.remoteComplete id) s = .next ((s.dropMail id).dropOut id) := by
  change execRemoteComplete id s = _
  simp [execRemoteComplete, ho, hw, hm, hg, ha]

/-! ## The word of a scalar load -/

theorem results_single {p : Part} (hp : x.parts = [p]) (old : PWord) : x.results [old] = [scalarResult x.op p] := by
  simp [Access.results, hp]

/-- R233: a load without sign gives the bytes read. -/
theorem scalarResult_zero {p : Part} (hs : p.size ∈ [1, 2, 4, 8]) (hr : p.res < 256 ^ p.size) :
    ∃ w : Word, scalarResult (.load false) p = ⟨w, p.bad⟩ ∧ w.toNat = p.res := by
  refine ⟨BitVec.ofNat 64 p.res, rfl, ?_⟩
  have h64 : 256 ^ p.size ≤ 2 ^ 64 := by
    simp only [List.mem_cons, List.not_mem_nil, or_false] at hs
    rcases hs with h | h | h | h <;> rw [h] <;> decide
  exact BitVec.toNat_ofNat .. ▸ Nat.mod_eq_of_lt (hr.trans_le h64)

/-- R233: a load with sign gives the bytes read as a signed number. -/
theorem scalarResult_sign {p : Part} (hs : p.size ∈ [1, 2, 4, 8]) (hr : p.res < 256 ^ p.size) :
    ∃ w : Word, scalarResult (.load true) p = ⟨w, p.bad⟩
      ∧ w.toInt = if 2 * p.res < 256 ^ p.size then (p.res : Int) else (p.res : Int) - 256 ^ p.size := by
  refine ⟨(BitVec.ofNat (8 * p.size) p.res).signExtend 64, rfl, ?_⟩
  have hle : 8 * p.size ≤ 64 := by
    simp only [List.mem_cons, List.not_mem_nil, or_false] at hs
    omega
  have hpow : 2 ^ (8 * p.size) = 256 ^ p.size := by rw [pow_mul]; norm_num
  rw [BitVec.toInt_signExtend_of_le hle, BitVec.toInt_eq_toNat_cond, BitVec.toNat_ofNat, hpow, Nat.mod_eq_of_lt hr]
  push_cast
  rfl

/-! ## Messages -/

/-- R324: no exchange opportunity lies in the first 16 slots of a tide. -/
theorem exchangeOpen_early {lea src dst : Nat} (h : s.tideSlot < 16) : s.exchangeOpen lea src dst = false := by
  unfold State.exchangeOpen
  split
  · next l _ =>
    refine List.any_eq_false.2 fun i _ hi => ?_
    have he := beq_iff_eq.1 hi
    have hm := congrArg (· % 4096) he
    simp only [Nat.mod_mul_right_mod, Lea.opportunity] at hm
    unfold State.tideSlot at h
    omega
  · simp [h]

theorem exchangeInject_of_open (hm : s.mailOf id = some m) (hu : m.sent = none) (he : s.exchangeOpen m.lea m.src m.dst = true)
    (hq : s.inExchangeQueue m = true) (hn : ∀ e ∈ s.mail, e.src = m.src → e.lea = m.lea → e.sent ≠ some s.now)
    (hg : s.mailMayGo m = true) : exec (.exchangeInject id) s =
      .next { s with mail := s.mail.map (fun e => if e.id = id then { e with sent := some s.now } else e) } := by
  have hn : (s.mail.any fun e => e.src == m.src && e.lea == m.lea && e.sent == some s.now) = false := by
    refine List.any_eq_false.2 fun e hm he => ?_
    simp only [Bool.and_eq_true, beq_iff_eq] at he
    exact hn e hm he.1.1 he.1.2 he.2
  change execExchangeInject id s = _
  simp [execExchangeInject, hm, hu, he, hq, hn, hg]

theorem exchangeInject_early (hm : s.mailOf id = some m) (h : s.tideSlot < 16) : exec (.exchangeInject id) s = .next s := by
  change execExchangeInject id s = _
  simp [execExchangeInject, hm, exchangeOpen_early h]

/-- A message that neither ends at Headland nor keeps an order arrives when it has crossed the links. -/
theorem arrives_of_sent {t : Nat} (hs : m.sent = some t) (hh : m.msg.toHead = false) (ho : m.msg.streamed = false) :
    s.arrives m = s.crossed t (dieOf m.src) (dieOf m.dst) := by
  simp [State.arrives, hs, hh, ho]

theorem rsemArrive_of_sent {k n t : Nat} (hm : s.mailOf id = some m) (hg : m.msg = .rsem k n) (hs : m.sent = some t)
    (hu : s.dieUp (dieOf m.dst) = true) : exec (.rsemArrive id) s = .next (if s.crossed t (dieOf m.src) (dieOf m.dst) then
      (s.addSem m.dst m.lea k n).answer m (.rsemAck id) else s) := by
  have ha := arrives_of_sent (s := s) hs (by rw [hg]; rfl) (by rw [hg]; rfl)
  change execRsemArrive id s = _
  simp only [execRsemArrive, hm, hg, ha, hu]
  cases s.crossed t (dieOf m.src) (dieOf m.dst) <;> rfl

end

/-- Settles O14: each event that ends an access, the word of a scalar load, and the way of an RSEM and its answer. -/
theorem accessCompletes : Obligations.AccessCompletes := by
  refine ⟨⟨fun s id o x ho hw hd => ⟨resultFill_of_access ho hw hd, storeAcknowledge_of_done ho hw hd, fun hr hl hc => ⟨?_, ?_⟩⟩,
    fun s id due o vals fl ho hw hl => ⟨fun h => ?_, fun h => ?_⟩⟩, fun x p old hp hs hr => ⟨fun h => ?_, fun h => ?_⟩,
    fun s id m hm => ⟨exchangeInject_of_open hm, exchangeInject_early hm, fun k n t hg hs hu => rsemArrive_of_sent hm hg hs hu,
      fun o t ho hw hg hs hc => remoteComplete_of_rsem hm ho hw hg ?_⟩⟩
  · intro h
    rw [remoteComplete_of_done ho hw hd hr hl hc, h]
  · intro k h
    rw [remoteComplete_of_done ho hw hd hr hl hc, h]
  · rw [resultFill_of_compute ho hw hl, if_pos h]
  · rw [resultFill_of_compute ho hw hl, if_neg (Nat.not_le.2 h)]
  · rw [results_single hp, h]
    simpa using scalarResult_zero hs hr
  · rw [results_single hp, h]
    simpa using scalarResult_sign hs hr
  · rwa [arrives_of_sent hs (by rw [hg]; rfl) (by rw [hg]; rfl)]

end Sys2Proof.Proofs

namespace Sys2Proof.Proofs

open Sys2Proof Sys2Proof.Machine Sys2Proof.Laws

section
variable {s : State} {l : Lea} {core spc ls off : Nat} {slots : List Nat}

/-! ## Where a gang fits -/

/-- The slots of a core that may take a thread of a dispatch, the lowest first (R318; log 26). -/
def openSlots (s : State) (l : Lea) (core : Nat) : List Nat :=
  (List.range 15).filter (fun k => s.slotFree l.num core k && (keyFind l.templates k).isSome)

theorem mem_openSlots {k : Nat} :
    k ∈ openSlots s l core ↔ k < 15 ∧ s.slotFree l.num core k = true ∧ (keyFind l.templates k).isSome = true := by
  simp [openSlots]

theorem openSlots_pairwise (s : State) (l : Lea) (core : Nat) : (openSlots s l core).Pairwise (· < ·) :=
  List.pairwise_lt_range.filter _

/-- The slots and the offset where a gang fits are the lowest open slots and the lowest free run, on a core that its lea holds. -/
theorem fitsCore_some (h : s.fitsCore l core spc ls = some (slots, off)) :
    s.holds core l.num = true ∧ s.head.fenced.contains core = false ∧ slots = (openSlots s l core).take spc
      ∧ slots.length = spc ∧ s.poolRun l core ls = some off := by
  unfold State.fitsCore at h
  split at h
  · cases h
  · next hh =>
    dsimp only at h
    split at h
    · cases h
    · next hn =>
      obtain ⟨o, ho, he⟩ := Option.map_eq_some_iff.1 h
      cases he
      simp only [Bool.or_eq_true, Bool.not_eq_true', not_or, Bool.not_eq_false, Bool.not_eq_true] at hh
      exact ⟨hh.1, hh.2, rfl, le_antisymm (List.length_take_le ..) (Nat.not_lt.1 hn), ho⟩

/-- In a list in rising order, what lies below an entry of the beginning lies in the beginning. -/
theorem mem_take_of_lt {l : List Nat} {n k j : Nat} (hp : l.Pairwise (· < ·)) (hk : k ∈ l) (hj : j ∈ l.take n) (h : k < j) :
    k ∈ l.take n := by
  rw [← List.take_append_drop n l] at hk hp
  rcases List.mem_append.1 hk with ht | hd
  · exact ht
  · exact absurd ((List.pairwise_append.1 hp).2.2 j hj k hd) (by omega)

theorem poolRun_zero : s.poolRun l core 0 = some 0 := rfl

/-- A free run of the pool lies in it, at a multiple of 4 KiB. -/
theorem poolRun_some (h : s.poolRun l core ls = some off) (hl : 0 < ls) :
    off % 4 = 0 ∧ off + ls ≤ 256 ∧ s.runFree l core off ls = true := by
  rw [State.poolRun, if_neg (by omega)] at h
  have hm := List.mem_of_find?_eq_some h
  have hf := List.find?_some h
  simp only [List.mem_map, Bool.and_eq_true, decide_eq_true_eq] at hm hf
  obtain ⟨i, -, rfl⟩ := hm
  exact ⟨by omega, hf⟩

/-- No reservation of a gang of the lea on the core, and no descriptor of a template, meets a free run. -/
theorem runFree_apart (h : s.runFree l core off ls = true) :
    (∀ g ∈ s.gangs, g.lea = l.num → ∀ r ∈ g.resv, r.1 = core → off + ls ≤ r.2.1 ∨ r.2.1 + r.2.2 ≤ off)
      ∧ ∀ t ∈ l.poolDescs, 1024 * (off + ls) ≤ t ∨ t + 256 ≤ 1024 * off := by
  simp only [State.runFree, Bool.and_eq_true, Bool.not_eq_true', List.any_eq_false, beq_iff_eq, decide_eq_true_eq, not_and,
    List.any_eq_true, not_exists] at h
  obtain ⟨hg, ht⟩ := h
  refine ⟨fun g hm hl r hr hc => ?_, fun t hm => ?_⟩
  · by_cases hlt : off < r.2.1 + r.2.2
    · exact .inl (Nat.not_lt.1 (hg g hm hl r hr hc hlt))
    · exact .inr (Nat.not_lt.1 hlt)
  · by_cases hlt : t < 1024 * (off + ls)
    · exact .inr (Nat.not_lt.1 (ht t hm hlt))
    · exact .inl (Nat.not_lt.1 hlt)

end

/-- Settles O36: a gang takes the lowest open slots and the lowest free run. -/
theorem placement : Obligations.Placement := by
  intro s l core spc ls slots off h
  obtain ⟨hh, hf, hs, hn, ho⟩ := fitsCore_some h
  refine ⟨hh, hf, hn, ?_, fun k hk => ?_, fun k h15 hfree ht hj => ?_, fun hz => ?_, fun hl => ?_⟩
  · rw [hs]
    exact (openSlots_pairwise ..).sublist (List.take_sublist ..)
  · rw [hs] at hk
    exact mem_openSlots.1 (List.mem_of_mem_take hk)
  · obtain ⟨j, hj, hlt⟩ := hj
    rw [hs] at hj ⊢
    exact mem_take_of_lt (openSlots_pairwise ..) (mem_openSlots.2 ⟨h15, hfree, ht⟩) hj hlt
  · rw [hz, poolRun_zero] at ho
    exact (Option.some.inj ho).symm
  · obtain ⟨h4, h256, hr⟩ := poolRun_some ho hl
    exact ⟨h4, h256, runFree_apart hr⟩

end Sys2Proof.Proofs

namespace Sys2Proof.Proofs

open Sys2Proof Sys2Proof.Machine Sys2Proof.Laws

section
variable {s : State} {i : BitVec 12} {a b d : BitVec 5}

/-! ## Control registers -/

/-- A register of the core's pool, which only the pool's lea reaches (R343, R378; log 27). -/
abbrev pooledCr (i : Nat) : Prop := i = 0x050 ∨ i = 0x060

theorem withCr_go {n : Nat} {f : State → State} (h : pooledCr n → s.myCore.lea = s.me.lea) : s.withCr n f = f s := by
  unfold State.withCr State.withPool
  split
  · next hp => exact if_pos (h hp)
  · rfl

theorem withCr_away {n : Nat} {f : State → State} (hp : pooledCr n) (h : s.myCore.lea ≠ s.me.lea) : s.withCr n f = s.park .pool :=
  (if_pos hp).trans (if_neg h)

theorem crd_away (h : s.Reads [] [d.toNat]) (hp : pooledCr i.toNat) (hl : s.myCore.lea ≠ s.me.lea) :
    exec (.crd i d) s = .next (s.park .pool) := by
  change Host.Outcome.next (s.readCr i d.toNat (crdBits i d)) = _
  rw [State.readCr, withOperands_go (by exact h), withCr_away hp hl]

section
variable (h : s.Reads [] [d.toNat])
include h

theorem crd_unassigned (hp : ¬ pooledCr i.toNat) (hu : crUse s.priv i.toNat = .unassigned) :
    exec (.crd i d) s = .next (s.raise 4 0x01 (crdBits i d)) := by
  change Host.Outcome.next (s.readCr i d.toNat (crdBits i d)) = _
  rw [State.readCr, withOperands_go (by exact h), withCr_go (fun q => absurd q hp), hu]

theorem crd_hidden (hp : pooledCr i.toNat → s.myCore.lea = s.me.lea) (hu : crUse s.priv i.toNat = .hidden) :
    exec (.crd i d) s = .next (s.raise 4 0x04 (crdBits i d)) := by
  change Host.Outcome.next (s.readCr i d.toNat (crdBits i d)) = _
  rw [State.readCr, withOperands_go (by exact h), withCr_go hp, hu]

/-- A read of a register with the value that it has. -/
theorem crd_value {w : Word} (hp : pooledCr i.toNat → s.myCore.lea = s.me.lea)
    (hu : crUse s.priv i.toNat = .readOnly ∨ crUse s.priv i.toNat = .readWrite) (hv : s.crValue i.toNat = w) :
    exec (.crd i d) s = .next (s.setW 4 d.toNat false w) := by
  subst hv
  change Host.Outcome.next (s.readCr i d.toNat (crdBits i d)) = _
  rw [State.readCr, withOperands_go (by exact h), withCr_go hp]
  rcases hu with hu | hu <;> rw [hu]

end

theorem crWrite_away {f : State → Word → State} (h : s.Reads [a.toNat] []) (hp : pooledCr i.toNat)
    (hl : s.myCore.lea ≠ s.me.lea) : s.crWrite i a f = s.park .pool := by
  rw [State.crWrite, withOperands_go (by exact h), withCr_away hp hl]

section
variable {f : State → Word → State} (h : s.Reads [a.toNat] []) (hb : (s.w a.toNat).bad = false)
include h hb

theorem crWrite_readWrite (hp : pooledCr i.toNat → s.myCore.lea = s.me.lea) (hu : crUse s.priv i.toNat = .readWrite) :
    s.crWrite i a f = f s (s.w a.toNat).val := by
  rw [State.crWrite, withOperands_go (by exact h), withCr_go hp, needClean_go hb, hu]

theorem crWrite_readOnly (hp : ¬ pooledCr i.toNat) (hu : crUse s.priv i.toNat = .readOnly) : s.crWrite i a f = s.issue 4 := by
  rw [State.crWrite, withOperands_go (by exact h), withCr_go (fun q => absurd q hp), needClean_go hb, hu]

theorem crWrite_hidden (hp : ¬ pooledCr i.toNat) (hu : crUse s.priv i.toNat = .hidden) :
    s.crWrite i a f = s.raise 4 0x04 (cwrBits i a) := by
  rw [State.crWrite, withOperands_go (by exact h), withCr_go (fun q => absurd q hp), needClean_go hb, hu]

theorem crWrite_unassigned (hp : ¬ pooledCr i.toNat) (hu : crUse s.priv i.toNat = .unassigned) :
    s.crWrite i a f = s.raise 4 0x01 (cwrBits i a) := by
  rw [State.crWrite, withOperands_go (by exact h), withCr_go (fun q => absurd q hp), needClean_go hb, hu]

end

/-! ## The uses of the registers (R408) -/

theorem crUse_beyond {p : Bool} {n : Nat} (h : 0x100 ≤ n) : crUse p n = .unassigned := if_pos h

theorem crUse_capability {p : Bool} {n : Nat} (h : 0x070 ≤ n) (hn : n < 0x100) : crUse p n = .readOnly := by
  simp [crUse, h, Nat.not_le.2 hn]

theorem crUse_segment {p : Bool} {n : Nat} (h : 0x010 ≤ n) (hn : n ≤ 0x027) :
    crUse p n = if p then .readWrite else .hidden := by
  unfold crUse
  dsimp only
  rw [if_neg (by omega), if_neg (by omega), if_neg (by omega), if_neg (by omega), if_pos (.inl ⟨h, hn⟩)]

/-- The indices below the capability words that name no register. -/
theorem crUse_stray {p : Bool} {n : Nat} (h : n < 0x070) (h6 : ¬ n ≤ 0x006) (hs : ¬ (0x010 ≤ n ∧ n ≤ 0x027))
    (hl : n ∉ [0x030, 0x031, 0x040, 0x041, 0x042, 0x043, 0x044, 0x045, 0x050, 0x051, 0x052, 0x053, 0x060]) :
    ¬ pooledCr n ∧ crUse p n = .unassigned := by
  simp only [List.mem_cons, List.not_mem_nil, or_false, not_or] at hl
  refine ⟨by unfold pooledCr; omega, ?_⟩
  unfold crUse
  dsimp only
  rw [if_neg (by omega), if_neg (by omega), if_neg (by omega), if_neg (by omega), if_neg (by omega), if_neg (by omega)]

theorem not_pooledCr_of_ge {n : Nat} (h : 0x070 ≤ n) : ¬ pooledCr n := by
  unfold pooledCr
  omega

theorem not_pooledCr_of_le {n : Nat} (h : n ≤ 0x027) : ¬ pooledCr n := by
  unfold pooledCr
  omega

/-! ## Values and writes -/

theorem crValue_capability {n : Nat} (h : 0x070 ≤ n) : s.crValue n = s.capability n := if_pos h

theorem capability_beyond {n : Nat} (h : 0x075 ≤ n) : s.capability n = 0 := by
  unfold State.capability
  split
  case h_6 => rfl
  all_goals omega

theorem crValue_segment {n : Nat} (h : 0x010 ≤ n) (hn : n ≤ 0x027) : s.crValue n =
    let g := s.seg ((n - 16) / 3)
    match (n - 16) % 3 with
    | 0 => g.base.setWidth 64
    | 1 => g.limit.setWidth 64
    | _ => g.attr.setWidth 64 := by
  have hm : (BitVec.ofNat 2 ((n - 16) % 3)).toNat = (n - 16) % 3 := by
    rw [BitVec.toNat_ofNat]
    omega
  unfold State.crValue
  dsimp only
  rw [if_neg (by omega), if_pos ⟨h, hn⟩, segField, hm]
  rfl

/-- Two changes of a slot that agree on the slot it has are the same change. -/
theorem modSlot_congr {c k : Nat} {f g : Slot → Slot} (h : f (s.slot c k) = g (s.slot c k)) : s.modSlot c k f = s.modSlot c k g := by
  have hl : listMod (s.core c).slots k f = listMod (s.core c).slots k g := by
    refine List.ext_getElem? fun j => ?_
    simp only [listMod, List.getElem?_modify]
    split
    · next hj =>
      subst hj
      cases hx : (s.core c).slots[k]? with
      | none => rfl
      | some x =>
        have : s.slot c k = x := by simp [State.slot, Core.slot, hx]
        simpa [this] using h
    · rfl
  simp only [State.modSlot, State.modCore, Core.modSlot, hl]

theorem modDesc_congr {f g : Desc → Desc} (h : f s.desc = g s.desc) : s.modDesc f = s.modDesc g :=
  modSlot_congr (f := fun x => { x with desc := f x.desc }) (g := fun x => { x with desc := g x.desc })
    (congrArg (fun e => { s.me with desc := e }) h)

/-- R418: a pair of doublewords written to a segment other than the window's and the code's. -/
theorem writeSeg_inner {k : Nat} (g : Seg) (v : Word) (h0 : 0 < k) (h7 : k < 7) :
    s.writeSeg k g v = (s.modDesc (fun d => { d with segs := d.segs.set k g })).issue 4 := by
  unfold State.writeSeg
  dsimp only
  rw [if_neg (by omega)]
  dsimp only
  rw [if_neg (by omega)]
  exact congrArg (State.issue · 4) (modDesc_congr rfl)

end
end Sys2Proof.Proofs

namespace Sys2Proof.Proofs

open Sys2Proof Sys2Proof.Machine Sys2Proof.Laws

section
variable {s : State} {a b d : BitVec 5}

/-- What the registers without a condition of their own read as, by their index. -/
def plainCrs (s : State) : List (BitVec 12 × Word) :=
  [(0x001#12, s.desc.fmtd), (0x002, s.desc.scla), (0x003, s.desc.sclb), (0x004, s.me.tdp), (0x005, s.desc.wp),
    (0x006, s.desc.vp), (0x040, s.me.gangReg), (0x042, s.me.slotReg), (0x051, s.desc.tcause), (0x052, s.desc.tpc),
    (0x053, s.desc.tval), (0x041, if s.priv then s.me.coreReg else s.me.coreReg &&& 0xFFFFFFFF)]

theorem plainCrs_value : ∀ p ∈ plainCrs s, s.crValue p.1.toNat = p.2 := by
  simp only [plainCrs, List.forall_mem_cons]
  exact ⟨rfl, rfl, rfl, rfl, rfl, rfl, rfl, rfl, rfl, rfl, rfl, rfl, by simp⟩

theorem plainCrs_use : ∀ p ∈ plainCrs s, ¬ pooledCr p.1.toNat ∧
    (crUse s.priv p.1.toNat = .readOnly ∨ crUse s.priv p.1.toNat = .readWrite) := by
  simp only [plainCrs, List.forall_mem_cons]
  cases s.priv <;> simp [pooledCr, crUse]

theorem crUse_user_hidden : ∀ j ∈ [0x031#12, 0x045, 0x050, 0x060], crUse false j.toNat = .hidden := by
  simp only [List.forall_mem_cons]
  exact ⟨rfl, rfl, rfl, rfl, List.forall_mem_nil _⟩

theorem crUse_user_readOnly :
    ∀ c ∈ [0x001#12, 0x002, 0x003, 0x051, 0x052, 0x053], ¬ pooledCr c.toNat ∧ crUse false c.toNat = .readOnly := by
  simp only [List.forall_mem_cons]
  decide

theorem crUse_fixed :
    ∀ c ∈ [0x040#12, 0x042, 0x043, 0x044, 0x070, 0x073], ¬ pooledCr c.toNat ∧ ∀ p, crUse p c.toNat = .readOnly := by
  simp only [List.forall_mem_cons]
  decide

/-- What the registers of a lea read as (R42, R43, R418). -/
theorem crValue_ofLea {l : Lea} (hm : s.myLea = some l) :
    s.crValue 0x031 = l.gtoff ∧ s.crValue 0x043 = BitVec.ofNat 64 l.leab ∧ s.crValue 0x044 = BitVec.ofNat 64 l.cores.length
      ∧ s.crValue 0x045 = keyGet 0 l.s1root (dieOf s.cur.1)
      ∧ s.crValue 0x072 = BitVec.ofNat 64 (l.perPair % 2 ^ 16 + Nat.log2 l.xp * 2 ^ 16)
      ∧ s.crValue 0x074 = BitVec.ofNat 64 l.bulk := by
  simp [State.crValue, State.capability, State.leal, Lea.leal, Lea.exchangeCap, hm]

theorem crdTime_go (h : s.Reads [] [d.toNat]) (ha : (s.myOuts.all (fun o => match o.work with
    | .access x => !x.acq || x.allDone
    | _ => true)) = true) : exec (.crdTime d) s = .next (s.setW 4 d.toNat false (s.guestTime s.me.lea)) := by
  have hn : ¬ (s.myOuts.any fun o => match o.work with
      | .access x => x.acq && !x.allDone
      | _ => false) = true := by
    rw [List.any_eq_true]
    rintro ⟨o, ho, he⟩
    have hq := List.all_eq_true.1 ha o ho
    split at he
    · next x hx =>
      rw [hx] at hq
      cases hacq : x.acq <;> cases hd : x.allDone <;> simp [hacq, hd] at he hq
    · cases he
  change execCrdTime d s = _
  rw [execCrdTime, withOperands_go (by exact h)]
  exact congrArg _ (if_neg hn)

theorem crdStat_eq (h : s.Reads [] [d.toNat]) : exec (.crdStat d) s =
    .next (if s.flagsOwed then s.forfeit else s.setW 4 d.toNat false s.desc.stat) := by
  change execCrdStat d s = _
  rw [execCrdStat, withOperands_go (by exact h)]

theorem cwr_readWrite {i : BitVec 12} {t : State} (h : s.Reads [a.toNat] []) (hb : (s.w a.toNat).bad = false)
    (hp : pooledCr i.toNat → s.myCore.lea = s.me.lea) (hu : crUse s.priv i.toNat = .readWrite)
    (ht : s.writeCr i.toNat (s.w a.toNat).val = t) : exec (.cwr i a) s = .next t :=
  congrArg _ ((crWrite_readWrite h hb hp hu).trans ht)

/-- R408: what a supervisor's write of the thread's registers and of the root changes. -/
theorem cwr_supervisor (h : s.Reads [a.toNat] []) (hb : (s.w a.toNat).bad = false) (hp : s.priv = true) :
    let v := (s.w a.toNat).val
    let keep (f : Desc → Desc) : Out1 := .next ((s.modDesc f).issue 4)
    exec (.cwr 0x001 a) s = keep (fun d => { d with fmtd := v })
      ∧ exec (.cwr 0x002 a) s = keep (fun d => { d with scla := v })
      ∧ exec (.cwr 0x003 a) s = keep (fun d => { d with sclb := v })
      ∧ exec (.cwr 0x051 a) s = keep (fun d => { d with tcause := v })
      ∧ exec (.cwr 0x052 a) s = keep (fun d => { d with tpc := v })
      ∧ exec (.cwr 0x053 a) s = keep (fun d => { d with tval := v })
      ∧ exec (.cwr 0x045 a) s = .next ((s.modLea (s.me.lea.getD 0) (fun l =>
          { l with s1root := keySet l.s1root (dieOf s.cur.1) (v &&& 0x0000FFFFFFFF0000#64) })).issue 4) := by
  intro v keep
  have hw {i : BitVec 12} {t : State} (hn : ¬ pooledCr i.toNat) (hu : crUse true i.toNat = .readWrite)
      (ht : s.writeCr i.toNat v = t) : exec (.cwr i a) s = .next t :=
    cwr_readWrite h hb (fun q => absurd q hn) (hp ▸ hu) ht
  exact ⟨hw (by decide) rfl rfl, hw (by decide) rfl rfl, hw (by decide) rfl rfl, hw (by decide) rfl rfl,
    hw (by decide) rfl rfl, hw (by decide) rfl rfl, hw (by decide) rfl rfl⟩

theorem cwr_trapv (h : s.Reads [a.toNat] []) (hb : (s.w a.toNat).bad = false) (hp : s.priv = true) (hl : s.myCore.lea = s.me.lea) :
    exec (.cwr 0x050 a) s =
      .next ((s.modMyCore (fun c => { c with trapv := (s.w a.toNat).val &&& 0x0000FFFFFFFFFFFE#64 })).issue 4) :=
  cwr_readWrite h hb (fun _ => hl) (hp ▸ rfl) rfl

theorem cwrGtoff_supervisor (h : s.Reads [a.toNat] []) (hb : (s.w a.toNat).bad = false) (hp : s.priv = true) :
    exec (.cwrGtoff a) s =
      .next ((s.modLea (s.me.lea.getD 0) (fun l => { l with gtoffNext := some ((s.w a.toNat).val, s.now) })).issue 4) :=
  congrArg _ (crWrite_readWrite (i := 0x031) h hb (fun q => absurd q (by decide)) (hp ▸ rfl))

/-- R20, R39, R408: a write of WP or of VP is of a whole window that the segment holds. -/
theorem cwrWp_eq (h : s.Reads [a.toNat] []) (hb : (s.w a.toNat).bad = false) :
    let w := (s.w a.toNat).val &&& ~~~7#64
    exec (.cwrWp a) s = if windowOk (s.seg 0) w.toNat 256 then .next ((s.modDesc (fun d => { d with wp := w })).issue 4)
      else .next (s.raise 4 0x23 w) :=
  (congrArg _ (crWrite_readWrite (i := 0x005) h hb (fun q => absurd q (by decide)) rfl)).trans (apply_ite ..)

theorem cwrVp_eq (h : s.Reads [a.toNat] []) (hb : (s.w a.toNat).bad = false) :
    let w := (s.w a.toNat).val &&& ~~~255#64
    exec (.cwrVp a) s = if windowOk (s.seg 0) w.toNat 4224 then .next ((s.modDesc (fun d => { d with vp := w })).issue 4)
      else .next (s.raise 4 0x23 w) :=
  (congrArg _ (crWrite_readWrite (i := 0x006) h hb (fun q => absurd q (by decide)) rfl)).trans (apply_ite ..)

theorem cwrRot_eq (h : s.Reads [a.toNat] []) (hb : (s.w a.toNat).bad = false) (hp : s.priv = true)
    (hl : s.myCore.lea = s.me.lea) : let v := (s.w a.toNat).val
    exec (.cwrRot a) s = if rotOk v then .next ((s.modMyCore (fun c => { c with rotNext := some v })).issue 4)
      else .next (s.raise 4 0x51 v) :=
  (congrArg _ (crWrite_readWrite (i := 0x060) h hb (fun _ => hl) (hp ▸ rfl))).trans (apply_ite ..)

theorem cwrStat_go (h : s.Reads [a.toNat] []) (hb : (s.w a.toNat).bad = false) (hf : s.flagsOwed = false) :
    exec (.cwrStat a) s = .next ((s.modDesc (fun d => { d with
      stat := (d.stat &&& 0x200#64) ||| ((s.w a.toNat).val &&& 0x1FF#64) })).issue 4) := by
  change execCwrStat a s = _
  rw [execCwrStat, withOperands_go (by exact h)]
  rw [if_neg (by simp [hf]), needClean_go hb]
  rfl

theorem segld_inner {k : BitVec 3} (hp : s.priv = true) (h : s.Reads [a.toNat, b.toNat] []) (ha : (s.w a.toNat).bad = false)
    (hb : (s.w b.toNat).bad = false) (h0 : 0 < k.toNat) (h7 : k.toNat < 7) : exec (.segld b a k) s =
      .next ((s.modDesc (fun d => { d with
        segs := d.segs.set k.toNat (segOf (s.w a.toNat).val (s.w b.toNat).val) })).issue 4) := by
  change execSegld b a k s = _
  rw [execSegld, State.sup, if_pos hp, withOperands_go (by exact h), needCleans_go (by simp [ha, hb]), writeSeg_inner _ _ h0 h7]

end

/-- Settles O40: each register by its use at the thread's level, and the value that it has or takes. -/
theorem controlRegisters : Obligations.ControlRegisters := by
  intro i a b d k s v keep stray
  have hstray (hs : stray) : ¬ pooledCr i.toNat ∧ crUse s.priv i.toNat = .unassigned := by
    obtain ⟨h70, h6, hseg, hlist⟩ := hs
    exact crUse_stray h70 h6 hseg hlist
  have hbeyond (hi : 0x100 ≤ i.toNat) : ¬ pooledCr i.toNat := not_pooledCr_of_ge (by omega)
  refine ⟨fun h => ⟨fun hs => ?_, fun hu hl j hj => ?_, fun hl => ⟨crd_away h (.inl rfl) hl, crd_away h (.inr rfl) hl⟩,
      fun hp hl => ⟨?_, ?_⟩, fun l hm => ?_, fun hi => ?_, fun h1 h2 => ⟨fun hu => ?_, fun hp => ?_⟩, fun p hp => ?_, fun hf => ?_,
      fun hf => ?_, crdTime_go h⟩,
    fun h hb => ⟨fun hi => ?_, fun hs => ?_, fun h1 h2 => ?_, fun hl => ⟨?_, ?_⟩, fun c hc => ?_,
      fun hu => ⟨fun h1 h2 => ?_, fun c hc => ?_, ?_, ?_, ?_⟩, fun hp => ?_, cwrStat_go h hb, ?_, ?_,
      fun hp hl => ⟨fun hr => ?_, fun hr => ?_⟩⟩,
    fun hp h ha hb h0 h7 => segld_inner hp h ha hb h0 h7⟩
  · exact crd_unassigned h (hstray hs).1 (hstray hs).2
  · exact crd_hidden h (fun _ => hl) (hu ▸ crUse_user_hidden j hj)
  · exact crd_value h (fun _ => hl) (.inr (hp ▸ rfl)) rfl
  · exact crd_value h (fun _ => hl) (.inr (hp ▸ rfl)) rfl
  · intro reads
    obtain ⟨hgt, hb, hn, hroot, hex, hbulk⟩ := crValue_ofLea hm
    have hread {j : BitVec 12} {w : Word} (hp : ¬ pooledCr j.toNat)
        (hu : crUse s.priv j.toNat = .readOnly ∨ crUse s.priv j.toNat = .readWrite) (hv : s.crValue j.toNat = w) : reads j w :=
      crd_value h (fun q => absurd q hp) hu hv
    have hcap {j : BitVec 12} {w : Word} (h70 : 0x070 ≤ j.toNat) (h100 : j.toNat < 0x100) (hv : s.crValue j.toNat = w) :
        reads j w := hread (not_pooledCr_of_ge h70) (.inl (crUse_capability h70 h100)) hv
    exact ⟨hread (by decide) (.inl rfl) hb, hread (by decide) (.inl rfl) hn, hcap (by decide) (by decide) hex,
      hcap (by decide) (by decide) hbulk, hcap (by decide) (by decide) rfl, hcap (by decide) (by decide) rfl,
      hcap (by decide) (by decide) rfl,
      fun h75 h100 => hcap (by omega) h100 ((crValue_capability (by omega)).trans (capability_beyond h75)),
      fun hp => ⟨hread (by decide) (.inr (hp ▸ rfl)) hgt, hread (by decide) (.inr (hp ▸ rfl)) hroot⟩⟩
  · exact crd_unassigned h (hbeyond hi) (crUse_beyond hi)
  · exact crd_hidden h (fun q => absurd q (not_pooledCr_of_le h2)) (by rw [crUse_segment h1 h2, hu]; rfl)
  · exact crd_value h (fun q => absurd q (not_pooledCr_of_le h2)) (.inr (by rw [crUse_segment h1 h2, hp]; rfl)) (crValue_segment h1 h2)
  · exact crd_value h (fun q => absurd q (plainCrs_use p hp).1) (plainCrs_use p hp).2 (plainCrs_value p hp)
  · rw [crdStat_eq h, if_neg (by simp [hf])]
  · rw [crdStat_eq h, if_pos hf]
  · exact congrArg _ (crWrite_unassigned h hb (hbeyond hi) (crUse_beyond hi))
  · exact congrArg _ (crWrite_unassigned h hb (hstray hs).1 (hstray hs).2)
  · exact congrArg _ (crWrite_readOnly h hb (not_pooledCr_of_ge h1) (crUse_capability h1 h2))
  · exact congrArg _ (crWrite_away h (.inl rfl) hl)
  · exact congrArg _ (crWrite_away h (.inr rfl) hl)
  · obtain ⟨hn, hr⟩ := crUse_fixed c hc
    exact congrArg _ (crWrite_readOnly h hb hn (hr _))
  · exact congrArg _ (crWrite_hidden h hb (not_pooledCr_of_le h2) (by rw [crUse_segment h1 h2, hu]; rfl))
  · obtain ⟨hn, hr⟩ := crUse_user_readOnly c hc
    exact congrArg _ (crWrite_readOnly h hb hn (hu ▸ hr))
  · exact congrArg _ (crWrite_readOnly h hb (by decide) (hu ▸ rfl))
  · exact congrArg _ (crWrite_hidden h hb (by decide) (hu ▸ rfl))
  · exact congrArg _ (crWrite_hidden h hb (by decide) (hu ▸ rfl))
  · obtain ⟨h1, h2, h3, h51, h52, h53, h45⟩ := cwr_supervisor h hb hp
    exact ⟨h1, h2, h3, h51, h52, h53, h45, cwr_trapv h hb hp, cwrGtoff_supervisor h hb hp⟩
  · exact cwrWp_eq h hb
  · exact cwrVp_eq h hb
  · exact (cwrRot_eq h hb hp hl).trans (if_pos hr)
  · exact (cwrRot_eq h hb hp hl).trans (if_neg (by simp [v, hr]))

end Sys2Proof.Proofs

namespace Sys2Proof.Proofs

open Sys2Proof Sys2Proof.Machine Sys2Proof.Laws

section
variable {s : State} {a b d : BitVec 5}

/-! ## System instructions -/

theorem fieldAt_zero (w : Word) (n : Nat) : fieldAt w 0 n = w.toNat % 2 ^ n := by
  rw [fieldAt, pow_zero, Nat.div_one]

/-- Operands that may be read and written may be read alone. -/
theorem operands_sources {src dst : List Nat} (h : s.Operands src dst) : s.Operands src [] := by
  obtain ⟨hf, -, hr, hw, -⟩ := h
  refine ⟨hf, by simp [State.Unowed], fun ha => ?_, hw, rfl⟩
  simpa using (List.append_eq_nil_iff.1 (hr ha)).1

theorem reads_sources {src dst : List Nat} (h : s.Reads src dst) : s.Reads src [] := operands_sources h

theorem sup_user {bits : Word} {f : State → State} (h : s.priv = false) : s.sup bits f = s.raise 4 0x04 bits := if_neg (by simp [h])

theorem sup_go {bits : Word} {f : State → State} (h : s.priv = true) : s.sup bits f = f s := if_pos h

theorem no15_go {bits : Word} {f : State → State} (h : s.cur.2 ≠ 15) : s.no15 bits f = f s := if_neg (by simp [State.in15, h])

theorem no15_trap {bits : Word} {f : State → State} (h : s.cur.2 = 15) : s.no15 bits f = s.raise 4 0x42 bits :=
  if_pos (by simp [State.in15, h])

theorem brk_plain {c : BitVec 10} (h : s.dbg.brkcap = false ∨ s.dbg.lea = none ∨ s.dbg.lea ≠ s.me.lea) :
    exec (.brk c) s = .next (s.raise 4 0x09 (c.setWidth 64)) := by
  refine congrArg _ (if_neg fun hc => ?_)
  simp only [Bool.and_eq_true, beq_iff_eq] at hc
  obtain ⟨⟨hb, hs⟩, hl⟩ := hc
  rcases h with h | h | h
  · simp [h] at hb
  · simp [h] at hs
  · exact h hl

theorem brk_captured {c : BitVec 10} (hb : s.dbg.brkcap = true) (hs : s.dbg.lea ≠ none) (hl : s.dbg.lea = s.me.lea) :
    exec (.brk c) s = .next { s.modMe Slot.debugStop with
      dbg := { s.dbg with log := s.dbg.log ++ [(0x09, 16 * s.cur.1 + s.cur.2, s.pc.toNat, c.toNat)] } } := by
  refine congrArg _ (if_pos ?_)
  simp only [Bool.and_eq_true, beq_iff_eq]
  exact ⟨⟨hb, Option.isSome_iff_ne_none.2 hs⟩, hl⟩

theorem wfm_go (h15 : s.cur.2 ≠ 15) (h : s.Reads [a.toNat] []) (hb : (s.w a.toNat).bad = false) : exec (.wfm a) s = .next
    (if (s.w a.toNat).val.toNat ≤ (s.guestTime s.me.lea).toNat then s.issue 4
      else (s.issue 4).park (.time (s.w a.toNat).val.toNat)) := by
  change execWfm a s = _
  rw [execWfm, no15_go h15, withOperands_go (by exact h), needClean_go hb]

/-! ## ERET -/

/-- ERET once it may go on, by the slot that it names and the PC that it gives (R411). -/
theorem eret_go (hp : s.priv = true) (h : s.Reads [a.toNat, b.toNat] []) (ha : (s.w a.toNat).bad = false)
    (hb : (s.w b.toNat).bad = false) (hd : s.accessesDone false = true) {v : Word} {k : Nat} (hv : (s.w a.toNat).val = v)
    (hk : v.toNat % 16 = k) :
    let x := s.slot s.cur.1 k
    let pc := if v.getLsbD 9 then (s.w b.toNat).val else x.desc.tpc
    exec (.eret b a) s = .next (
      if (v &&& ~~~0x30F#64) != 0 || k == 15 then s.raise 4 0x06 v
      else if x.run ≠ .halted ∨ x.lea ≠ s.me.lea ∨ x.debugHalt.isSome
          ∨ x.wait = .exit ∨ x.recordWaits (s.myCore.trapFile.any (fun r => r.place == k)) then s.raise 4 0x50 v
      else if v.getLsbD 9 && pc.getLsbD 0 then s.raise 4 0x05 pc
      else (s.issue 4).modSlot s.cur.1 k (fun x => x.restart pc (v.getLsbD 8))) := by
  obtain rfl : fieldAt v 0 4 = k := (fieldAt_zero ..).trans hk
  subst hv
  change execEret b a s = _
  rw [execEret, sup_go hp, withOperands_go (by exact h), if_neg (by simp [hd]), needCleans_go (by simp [ha, hb])]

/-- R411: a Halted slot of the lea, with nothing in its way, restarts. -/
theorem eret_restarts (hp : s.priv = true) (h : s.Reads [a.toNat, b.toNat] []) (ha : (s.w a.toNat).bad = false)
    (hb : (s.w b.toNat).bad = false) (hd : s.accessesDone false = true) {v : Word} {k : Nat} (hv : (s.w a.toNat).val = v)
    (hk : v.toNat % 16 = k) :
    let w := (s.w b.toNat).val
    let x := s.slot s.cur.1 k
    v &&& ~~~0x30F#64 = 0 → k ≠ 15 → x.run = .halted → x.lea = s.me.lea → x.debugHalt = none → x.wait ≠ .exit →
    x.recordWaits (s.myCore.trapFile.any (fun r => r.place == k)) = false → w.getLsbD 0 = false →
    exec (.eret b a) s = .next ((s.issue 4).modSlot s.cur.1 k (fun y =>
      y.restart (if v.getLsbD 9 then w else x.desc.tpc) (v.getLsbD 8))) := by
  intro w x hm h15 hr hl hh hw hc hz
  rw [eret_go hp h ha hb hd hv hk, if_neg (by rw [hm]; simp [h15]), if_neg, if_neg]
  · cases h9 : v.getLsbD 9
    · simp
    · rw [if_pos rfl]
      exact ne_of_eq_of_ne hz Bool.false_ne_true
  · simp [x, hr, hl, hh, hw, hc]

/-- R411: a slot whose record waits is not restarted. -/
theorem eret_waits (hp : s.priv = true) (h : s.Reads [a.toNat, b.toNat] []) (ha : (s.w a.toNat).bad = false)
    (hb : (s.w b.toNat).bad = false) (hd : s.accessesDone false = true) {v : Word} {k : Nat} (hv : (s.w a.toNat).val = v)
    (hk : v.toNat % 16 = k) (hm : v &&& ~~~0x30F#64 = 0) (h15 : k ≠ 15)
    (hc : (s.slot s.cur.1 k).recordWaits (s.myCore.trapFile.any (fun r => r.place == k)) = true) :
    exec (.eret b a) s = .next (s.raise 4 0x50 v) := by
  rw [eret_go hp h ha hb hd hv hk, if_neg (by rw [hm]; simp [h15]), if_pos (.inr (.inr (.inr (.inr hc))))]

/-! ## TLBINV -/

/-- R416: translations dropped, once the accesses of the thread are done; the thread waits for those in use. -/
theorem tlbInv_go {bits : Word} {v : Word} (hp : s.priv = true) (h : s.Reads [a.toNat, b.toNat] [])
    (ha : (s.w a.toNat).bad = false) (hb : (s.w b.toNat).bad = false) (hd : s.accessesDone true = true)
    (hv : (s.w b.toNat).val = v) (hm : v &&& ~~~0x107#64 = 0) :
    let die := v.toNat % 8
    let all := v.getLsbD 8
    let va := (s.w a.toNat).val.toNat
    s.tlbInv bits b.toNat a.toNat =
      ((((s.flushLea (s.me.lea.getD 0)).dropGtb (s.me.lea.getD 0) die all va).issue 4).modMe (fun y =>
        { y with run := .forfeiting, hold := .tlb die all va })) := by
  subst hv
  have hf : fieldAt (s.w b.toNat).val 0 3 = (s.w b.toNat).val.toNat % 8 := fieldAt_zero ..
  rw [State.tlbInv, sup_go hp, withOperands_go (by exact h), if_neg (by simp [hd]), needCleans_go (by simp [ha, hb])]
  dsimp only
  rw [if_neg (by rw [hm]; decide), hf]
  rfl

/-! ## CTXLD -/

/-- The load of a slot begun: its slot waits for it, and the thread that asked is Parked (R415). -/
def beginLoad (s : State) (k tdp : Nat) (i : Option Nat) : State :=
  ((s.issue 4).modSlot s.cur.1 k (fun x => { x with loading := some (s.cur.2, tdp, i) })).park .ctxld

/-- What a load of a slot comes to before it looks at its source (R375, R381, R415). -/
def loadReady (s : State) (v : Word) (k tdp : Nat) (f : State → State) : State :=
  let x := s.slot s.cur.1 k
  if (s.myCore.sliceOwner k != s.me.lea) = true then s.park .pool
  else if (x.run != .absent || x.claimed.isSome || x.loading.isSome) = true then s.raise 4 0x50 v
  else if inPool tdp then s.withPool f else f s

/-- CTXLD from a descriptor, once its operands are there. -/
theorem ctxLoad_tdp {bits : Word} {v w : Word} {k : Nat} (hp : s.priv = true) (h : s.Reads [a.toNat, b.toNat] [])
    (ha : (s.w a.toNat).bad = false) (hb : (s.w b.toNat).bad = false) (hv : (s.w a.toNat).val = v) (hw : (s.w b.toNat).val = w)
    (hk : v.toNat % 16 = k) (hm : v &&& ~~~0x10F#64 = 0) (h8 : v.getLsbD 8 = true) (ht : tdpFail k w.toNat = none) :
    s.ctxLoad bits b.toNat a.toNat = loadReady s v k w.toNat (fun s =>
      match if (s.descPoison s.cur.1 w.toNat).isSome then none else (descOf (s.descWord s.cur.1 w.toNat)).windowFail with
      | some w => s.raise 4 0x23 w
      | none => beginLoad s k w.toNat none) := by
  obtain rfl : fieldAt v 0 4 = k := (fieldAt_zero ..).trans hk
  subst hv hw
  rw [State.ctxLoad, sup_go hp, withOperands_go (by exact h), needCleans_go (by simp [ha, hb])]
  dsimp only
  rw [if_neg (by rw [hm]; decide), if_pos h8, ht]
  rfl

theorem loadReady_away {v : Word} {k tdp : Nat} {f : State → State} (h : s.myCore.sliceOwner k ≠ s.me.lea) :
    loadReady s v k tdp f = s.park .pool := if_pos (bne_iff_ne.2 h)

theorem loadReady_closed {v : Word} {k tdp : Nat} {f : State → State} (h : s.myCore.sliceOwner k = s.me.lea)
    (hx : (s.slot s.cur.1 k).run ≠ .absent ∨ (s.slot s.cur.1 k).claimed ≠ none ∨ (s.slot s.cur.1 k).loading ≠ none) :
    loadReady s v k tdp f = s.raise 4 0x50 v := by
  rw [loadReady, if_neg (by simp [h]), if_pos]
  simpa [Option.isSome_iff_ne_none, or_assoc] using hx

/-- An Absent slot of the thread's lea that nothing claims or loads. -/
def OpenSlot (s : State) (k : Nat) : Prop :=
  s.myCore.sliceOwner k = s.me.lea ∧ (s.slot s.cur.1 k).run = .absent ∧ (s.slot s.cur.1 k).claimed = none
    ∧ (s.slot s.cur.1 k).loading = none

theorem loadReady_open {v : Word} {k tdp : Nat} {f : State → State} (h : OpenSlot s k) :
    loadReady s v k tdp f = if inPool tdp then s.withPool f else f s := by
  obtain ⟨ho, hr, hc, hl⟩ := h
  rw [loadReady, if_neg (by simp [ho]), if_neg (by simp [hr, hc, hl])]

theorem loadReady_go {v : Word} {k tdp : Nat} {f : State → State} (h : OpenSlot s k)
    (hp : 0x80000 ≤ tdp → s.myCore.lea = s.me.lea) : loadReady s v k tdp f = f s := by
  rw [loadReady_open h]
  split
  · next hi => exact if_pos (hp (of_decide_eq_true hi))
  · rfl

theorem loadReady_pool {v : Word} {k tdp : Nat} {f : State → State} (h : OpenSlot s k) (hp : 0x80000 ≤ tdp)
    (hl : s.myCore.lea ≠ s.me.lea) : loadReady s v k tdp f = s.park .pool := by
  rw [loadReady_open h]
  exact (if_pos (decide_eq_true hp)).trans (if_neg hl)

/-- CTXLD from the context area, once its operands are there (R375, R415). -/
theorem ctxLoad_ctx {bits : Word} {v w : Word} {k : Nat} (hp : s.priv = true) (h : s.Reads [a.toNat, b.toNat] [])
    (ha : (s.w a.toNat).bad = false) (hb : (s.w b.toNat).bad = false) (hv : (s.w a.toNat).val = v) (hw : (s.w b.toNat).val = w)
    (hk : v.toNat % 16 = k) (hm : v &&& ~~~0x10F#64 = 0) (h8 : v.getLsbD 8 = false) :
    let key := (s.me.lea.getD 0, w.toNat % 2048)
    let gen := (s.myCore.ctxGen.find? (fun e => e.1 == key)).elim 0 (fun e => e.2)
    s.ctxLoad bits b.toNat a.toNat = match s.myCore.ctx.find? (fun e => e.1 == key) with
      | none => s.raise 4 0x53 (w &&& 0xFFFF#64)
      | some (_, e) =>
        if w.getLsbD 11 || w.toNat / 4096 % 16 != gen then s.raise 4 0x53 (w &&& 0xFFFF#64)
        else if e.slot ≠ k then s.raise 4 0x50 v
        else loadReady s v k e.tdp.toNat (fun s => beginLoad s k e.tdp.toNat (some (w.toNat % 2048))) := by
  obtain rfl : fieldAt v 0 4 = k := (fieldAt_zero ..).trans hk
  subst hv hw
  have hi : fieldAt (s.w b.toNat).val 0 11 = (s.w b.toNat).val.toNat % 2048 := fieldAt_zero ..
  rw [State.ctxLoad, sup_go hp, withOperands_go (by exact h), needCleans_go (by simp [ha, hb])]
  dsimp only
  rw [if_neg (by rw [hm]; decide), if_neg (by rw [h8]; decide), hi]
  rfl

/-! ## PREEMPT -/

/-- A slot claimed for its thread to be saved, with the context entry that takes it; the thread that claims is Forfeiting (R414). -/
def claimSlot (s : State) (k dst : Nat) (i : Option Nat) : State :=
  ((s.issue 4).modSlot s.cur.1 k (fun y => { y with claimed := some (s.cur.2, dst, i) })).modMe (fun y =>
    { y with run := .forfeiting, hold := .preempting k })

section
variable {bits : Word} {v : Word} {k : Nat} (hp : s.priv = true) (h : s.Reads [a.toNat] [d.toNat]) (ha : (s.w a.toNat).bad = false)
  (hv : (s.w a.toNat).val = v) (hk : v.toNat % 16 = k) (hm : v &&& ~~~0x10F#64 = 0) (h15 : k ≠ 15) (hc : k ≠ s.cur.2)
  (hr : (s.slot s.cur.1 k).run ≠ .absent) (hl : (s.slot s.cur.1 k).lea = s.me.lea) (hn : (s.slot s.cur.1 k).claimed = none)
  (ho : (s.slot s.cur.1 k).loading = none)
include hp h ha hv hk hm h15 hc hr hl hn ho

/-- R414: another slot of the lea is claimed, and what it holds dropped. -/
theorem preempt_drops (h8 : v.getLsbD 8 = true) : s.preempt bits a.toNat d.toNat = claimSlot s k (s.wAddr d.toNat) none := by
  obtain rfl : fieldAt v 0 4 = k := (fieldAt_zero ..).trans hk
  subst hv
  rw [State.preempt, sup_go hp, withOperands_go (by exact h), needClean_go ha]
  dsimp only
  rw [if_neg (by rw [hm]; decide), if_neg (by simp [h15, hc, hr, hl, hn, ho]), if_pos h8]
  rfl

/-- R414: another slot of the lea is claimed, for a free context entry. -/
theorem preempt_saves {i : Nat} (h8 : v.getLsbD 8 = false) (hi : s.myCore.freeCtx (s.me.lea.getD 0) = some i) :
    s.preempt bits a.toNat d.toNat = claimSlot s k (s.wAddr d.toNat) (some i) := by
  obtain rfl : fieldAt v 0 4 = k := (fieldAt_zero ..).trans hk
  subst hv
  rw [State.preempt, sup_go hp, withOperands_go (by exact h), needClean_go ha]
  dsimp only
  rw [if_neg (by rw [hm]; decide), if_neg (by simp [h15, hc, hr, hl, hn, ho]), if_neg (by rw [h8]; decide), hi]
  rfl

end

/-! ## ROTSET and the switch of descriptors -/

theorem rotset_go (hp : s.priv = true) (h : s.Reads [a.toNat] [d.toNat]) (ha : (s.w a.toNat).bad = false)
    (hl : s.myCore.lea = s.me.lea) (hr : rotOk (s.w a.toNat).val = true) : exec (.rotset a) s =
      .next (((s.modMyCore (fun c => { c with rotNext := some (s.w a.toNat).val })).issue 4).modMe (fun y =>
        { y with run := .forfeiting, hold := .rot })) := by
  change execRotset a s = _
  rw [execRotset, sup_go hp, withOperands_go (by exact reads_sources h), State.withPool, if_pos hl, needClean_go ha]
  exact congrArg _ (if_pos hr)

theorem withDescs_away {old new : Nat} {f : State → State} (hi : 0x80000 ≤ new ∨ 0x80000 ≤ old)
    (hl : s.myCore.lea ≠ s.me.lea) : s.withDescs old new f = s.park .pool := by
  rw [State.withDescs, if_pos (by simpa [inPool, or_comm] using hi)]
  exact if_neg hl

theorem withDescs_go {old new : Nat} {f : State → State}
    (h : ¬ ((0x80000 ≤ new ∨ 0x80000 ≤ old) ∧ s.myCore.lea ≠ s.me.lea)) : s.withDescs old new f = f s := by
  unfold State.withDescs
  split
  · next hi =>
    refine if_pos (not_not.1 fun hl => h ⟨?_, hl⟩)
    simpa [inPool, or_comm] using hi
  · rfl

section
variable {v : Word} (hp : s.priv = true) (h : s.Reads [a.toNat] [d.toNat]) (ha : (s.w a.toNat).bad = false)
  (hv : (s.w a.toNat).val = v) (ht : tdpFail s.cur.2 v.toNat = none)
include hp h ha hv ht

/-- R381, R417: a supervisor's write of TDP while a descriptor of it lies in a pool that is away. -/
theorem cwrTdp_away (hi : 0x80000 ≤ v.toNat ∨ 0x80000 ≤ s.me.tdp.toNat) (hl : s.myCore.lea ≠ s.me.lea) :
    exec (.cwrTdp a) s = .next (s.park .pool) := by
  subst hv
  refine congrArg Host.Outcome.next ((crWrite_readWrite (i := 0x004) (reads_sources h) ha (fun q => absurd q (by decide))
    (hp ▸ rfl)).trans ?_)
  rw [ht]
  exact withDescs_away hi hl

/-- R417: a supervisor's write of TDP checks the window of the descriptor that it names, and then waits for the switch. -/
theorem cwrTdp_go {o : Option Word} (hl : ¬ ((0x80000 ≤ v.toNat ∨ 0x80000 ≤ s.me.tdp.toNat) ∧ s.myCore.lea ≠ s.me.lea))
    (ho : (if v = s.me.tdp ∨ (s.descPoison s.cur.1 v.toNat).isSome then none
      else (descOf (s.descWord s.cur.1 v.toNat)).windowFail) = o) : exec (.cwrTdp a) s =
      .next (o.elim ((s.issue 4).modMe (fun y => { y with run := .forfeiting, hold := .switching v.toNat }))
        (fun w => s.raise 4 0x23 w)) := by
  subst hv
  refine congrArg Host.Outcome.next ((crWrite_readWrite (i := 0x004) (reads_sources h) ha (fun q => absurd q (by decide))
    (hp ▸ rfl)).trans ?_)
  rw [ht]
  dsimp only
  rw [withDescs_go hl, ho]
  cases o <;> rfl

end

end
end Sys2Proof.Proofs

namespace Sys2Proof.Proofs

open Sys2Proof Sys2Proof.Machine Sys2Proof.Laws

section
variable {s t : State} {a d : BitVec 5} {c k : Nat}

/-! ## RESUME -/

/-- A change of a slot that leaves the slot it has as it is leaves every slot as it is. -/
theorem slot_modSlot_eq {f : Slot → Slot} {c d k j : Nat} (h : f (s.slot d j) = s.slot d j) :
    (s.modSlot d j f).slot c k = s.slot c k := by
  rw [modSlot_congr (g := id) h]
  by_cases hc : c = d
  · subst hc
    simp [State.slot, State.modSlot, Core.slot, Core.modSlot, listMod]
  · exact slot_modSlot_other _ _ (.inl hc)

/-- What the wake of a held access leaves of a core: everything but its slots. -/
theorem wakeHeld_dorent (s : State) (id c : Nat) : ((s.wakeHeld id).core c).dorent = (s.core c).dorent := by
  unfold State.wakeHeld
  split
  · rfl
  · split
    · rfl
    · next o _ _ =>
      by_cases hc : c = o.core
      · subst hc
        rw [State.modSlot, core_modCore]
        rfl
      · rw [State.modSlot, core_modCore_other _ _ hc]

/-- A slot that waits for no access is not woken with one. -/
theorem wakeHeld_slot (h : ∀ id, (s.slot c k).wait ≠ .access id) (id : Nat) : (s.wakeHeld id).slot c k = s.slot c k := by
  unfold State.wakeHeld
  split
  · rfl
  · split
    · rfl
    · next o _ _ =>
      by_cases hc : c = o.core ∧ k = o.slot
      · obtain ⟨rfl, rfl⟩ := hc
        exact slot_modSlot_eq (if_neg fun e => h id e.2)
      · exact slot_modSlot_other _ _ (by omega)

theorem wakeHelds_dorent (l : List Nat) (s : State) (c : Nat) : ((l.foldl State.wakeHeld s).core c).dorent = (s.core c).dorent :=
  List.foldlRecOn (motive := fun (t : State) => (t.core c).dorent = (s.core c).dorent) l _ rfl fun t ht id _ =>
    (wakeHeld_dorent t id c).trans ht

theorem wakeHelds_slot (h : ∀ id, (s.slot c k).wait ≠ .access id) (l : List Nat) :
    (l.foldl State.wakeHeld s).slot c k = s.slot c k :=
  List.foldlRecOn (motive := fun (t : State) => t.slot c k = s.slot c k) l _ rfl fun _ ht id _ =>
    (wakeHeld_slot (ht ▸ h) id).trans ht

theorem wakeHeld_outs (s : State) (id : Nat) : (s.wakeHeld id).outs = s.outs := by
  unfold State.wakeHeld
  repeat' split
  all_goals rfl

theorem wakeHeld_cur (s : State) (id : Nat) : (s.wakeHeld id).cur = s.cur := by
  unfold State.wakeHeld
  repeat' split
  all_goals rfl

theorem wakeHelds_outs (l : List Nat) (s : State) : (l.foldl State.wakeHeld s).outs = s.outs :=
  List.foldlRecOn (motive := fun (t : State) => t.outs = s.outs) l _ rfl fun t ht id _ => (wakeHeld_outs t id).trans ht

theorem wakeHelds_cur (l : List Nat) (s : State) : (l.foldl State.wakeHeld s).cur = s.cur :=
  List.foldlRecOn (motive := fun (t : State) => t.cur = s.cur) l _ rfl fun t ht id _ => (wakeHeld_cur t id).trans ht

/-- The parts of a thread's accesses that a translation fault holds go back to the port (R413). -/
def reissueOuts (s : State) (tid : Nat) : State :=
  { s with outs := s.outs.map (fun o => if o.tid = tid then o.mapParts Part.reissue else o) }

/-- The accesses that a translation fault holds are issued again, and what waits for them wakes (R413). -/
def resumeOuts (s : State) (tid : Nat) : State :=
  ((s.outs.filter (fun o => o.tid == tid && o.held)).map (fun o => o.id)).foldl State.wakeHeld (reissueOuts s tid)

/-- R413: what an existing slot of the lea holds goes on: its accesses, its fetch and its copy of COLLD. -/
def resumeSlot (s : State) (k : Nat) : State :=
  let x := s.slot s.cur.1 k
  ((resumeOuts s x.tid).modSlot s.cur.1 k (Slot.wakeFetch (.fetch none))).wakeCopy s.cur.1 (some x.tid) none

theorem resumeSlot_mem (s : State) (k : Nat) : (resumeSlot s k).mem = s.mem :=
  (wakeCopy_mem ..).trans ((modSlot_mem ..).trans (wakeHelds_mem ..))

theorem resumeSlot_outs (s : State) (k : Nat) : (resumeSlot s k).outs =
    s.outs.map (fun o => if o.tid = (s.slot s.cur.1 k).tid then o.mapParts Part.reissue else o) :=
  wakeHelds_outs ..

theorem resumeSlot_cur (s : State) (k : Nat) : (resumeSlot s k).cur = s.cur := wakeHelds_cur ..

/-- A slot that is no slot of a core reads as Absent, so one that is not Absent is one of its slots. -/
theorem slot_lt (h : (s.slot c k).run ≠ .absent) : k < (s.core c).slots.length := by
  by_contra hk
  refine h ?_
  rw [State.slot, Core.slot, List.getD_eq_default _ _ (Nat.le_of_not_lt hk)]
  rfl

theorem wakeCopy_slot (s : State) (core : Nat) (tid held : Option Nat) : (s.wakeCopy core tid held).slot core k = s.slot core k := by
  rw [State.slot, State.wakeCopy, core_modCore]
  rfl

/-- R413: a thread whose fetch a translation fault holds goes on. -/
theorem resumeSlot_fetch (hw : (s.slot s.cur.1 k).wait = .fetch none) (hr : (s.slot s.cur.1 k).run = .parked) :
    (resumeSlot s k).slot s.cur.1 k = (s.slot s.cur.1 k).wake := by
  have hl : (resumeOuts s (s.slot s.cur.1 k).tid).slot s.cur.1 k = s.slot s.cur.1 k :=
    wakeHelds_slot (s := reissueOuts s _) (fun id e => Wait.noConfusion (hw.symm.trans e)) _
  rw [resumeSlot, wakeCopy_slot, slot_modSlot _ _ _ _ (slot_lt (by simp [hl, hr])), hl]
  exact if_pos hw

/-- R413: a copy of COLLD that a translation fault holds goes on. -/
theorem resumeSlot_copy {y : DCopy} (hy : s.myCore.dorent.copy = some y) (ht : y.tid = (s.slot s.cur.1 k).tid)
    (hp : y.parked = some none) : ((resumeSlot s k).core s.cur.1).dorent.copy = some { y with parked := none } := by
  have hc : ((resumeOuts s (s.slot s.cur.1 k).tid).core s.cur.1).dorent.copy = some y := by
    rw [resumeOuts, wakeHelds_dorent]
    exact hy
  rw [resumeSlot, State.wakeCopy, core_modCore, State.modSlot, core_modCore]
  simp [Core.modSlot, hc, hp, ht]

/-- What RESUME does before it issues, by the unit that it names (R413). -/
def resumeUnit (s : State) (k : Nat) : Nat → State
  | 0 => if (s.slot s.cur.1 k).run = .absent ∨ (s.slot s.cur.1 k).lea ≠ s.me.lea then s else resumeSlot s k
  | 1 => if s.myCore.lea = s.me.lea then s.modEngine s.cur.1 (fun e => { e with active := e.active.map (fun a =>
      if a.parked = some none then { a with parked := none } else a) }) else s
  | 2 => if s.myCore.lea = s.me.lea ∧ s.myCore.bay.port.any (fun j => j.parked == some none) then s.wakePort s.cur.1 else s
  | _ => if s.myCore.lea = s.me.lea then s.modCore s.cur.1 (fun x => { x with dorent := { x.dorent with
      park := if x.dorent.park = some none then none else x.dorent.park } }) else s

section
variable {v : Word} {unit : Nat} (hp : s.priv = true) (h : s.Reads [a.toNat] []) (ha : (s.w a.toNat).bad = false)
  (hv : (s.w a.toNat).val = v) (hk : v.toNat % 16 = k) (hu : v.toNat / 16 % 8 = unit)
include hp h ha hv hk hu

/-- RESUME of what is no unit (R413). -/
theorem resume_bad (hm : v &&& ~~~0x7F#64 ≠ 0 ∨ 4 ≤ unit ∨ (unit ≠ 0 ∧ k ≠ 0)) : exec (.resume a) s = .next (s.raise 4 0x06 v) := by
  obtain rfl : fieldAt v 0 4 = k := (fieldAt_zero ..).trans hk
  obtain rfl : fieldAt v 4 3 = unit := hu
  subst hv
  change execResume a s = _
  rw [execResume, sup_go hp, withOperands_go (by exact h), needClean_go ha]
  exact congrArg Host.Outcome.next (if_pos (by simpa [or_assoc] using hm))

/-- RESUME of a unit (R413). -/
theorem resume_go (hm : v &&& ~~~0x7F#64 = 0) (h4 : unit < 4) (h0 : unit = 0 ∨ k = 0) :
    exec (.resume a) s = .next ((resumeUnit s k unit).issue 4) := by
  obtain rfl : fieldAt v 0 4 = k := (fieldAt_zero ..).trans hk
  obtain rfl : fieldAt v 4 3 = unit := hu
  subst hv
  change execResume a s = _
  rw [execResume, sup_go hp, withOperands_go (by exact h), needClean_go ha]
  refine congrArg Host.Outcome.next ((if_neg ?_).trans rfl)
  rw [hm]
  simpa [imp_iff_not_or, Nat.not_le] using ⟨h4, h0⟩

end

end
end Sys2Proof.Proofs

namespace Sys2Proof.Proofs

open Sys2Proof Sys2Proof.Machine Sys2Proof.Laws

section
variable {s : State} {a b d : BitVec 5} {k : Nat}

/-! ## RESUME of each unit -/

theorem issue_dorent (s : State) (n c : Nat) : ((s.issue n).core c).dorent = (s.core c).dorent := by
  by_cases hc : c = s.cur.1
  · subst hc
    exact (congrArg Core.dorent (core_modCore s s.cur.1 _)).trans rfl
  · exact congrArg Core.dorent (core_modCore_other _ _ hc)

/-- A change of the bay that leaves the bay it has as it is changes nothing. -/
theorem modBay_congr {c : Nat} {f g : Bay → Bay} (h : f (s.core c).bay = g (s.core c).bay) : s.modBay c f = s.modBay c g :=
  congrArg (fun b => s.setCore c { s.core c with bay := b }) h

section
variable {v : Word} {unit : Nat} (hp : s.priv = true) (h : s.Reads [a.toNat] []) (ha : (s.w a.toNat).bad = false)
  (hv : (s.w a.toNat).val = v) (hk : v.toNat % 16 = k) (hu : v.toNat / 16 % 8 = unit) (hm : v &&& ~~~0x7F#64 = 0)
include hp h ha hv hk hu hm

theorem resume_eq {t : State} (h4 : unit < 4) (h0 : unit = 0 ∨ k = 0) (ht : resumeUnit s k unit = t) :
    exec (.resume a) s = .next (t.issue 4) := ht ▸ resume_go hp h ha hv hk hu hm h4 h0

/-- RESUME of a slot that is Absent or another lea's. -/
theorem resume_noSlot (h0 : unit = 0) (hx : (s.slot s.cur.1 k).run = .absent ∨ (s.slot s.cur.1 k).lea ≠ s.me.lea) :
    exec (.resume a) s = .next (s.issue 4) := by
  subst h0
  exact resume_eq hp h ha hv hk hu hm (by decide) (.inl rfl) (if_pos hx)

/-- RESUME of a slot of the lea (R413). -/
theorem resume_slot (h0 : unit = 0) (hr : (s.slot s.cur.1 k).run ≠ .absent) (hl : (s.slot s.cur.1 k).lea = s.me.lea) :
    let x := s.slot s.cur.1 k
    ∃ t, exec (.resume a) s = .next t ∧ t.mem = s.mem
      ∧ t.outs = s.outs.map (fun o => if o.tid = x.tid then o.mapParts Part.reissue else o)
      ∧ (x.wait = .fetch none → x.run = .parked → k ≠ s.cur.2 →
          (t.slot s.cur.1 k).run = x.hold.run ∧ (t.slot s.cur.1 k).wait = .none)
      ∧ (∀ y, s.myCore.dorent.copy = some y → y.tid = x.tid → y.parked = some none →
          t.myCore.dorent.copy = some { y with parked := none }) := by
  subst h0
  have hc := resumeSlot_cur s k
  refine ⟨(resumeSlot s k).issue 4, ?_, resumeSlot_mem s k, resumeSlot_outs s k, fun hw hq hn => ?_, fun y hy ht hy' => ?_⟩
  · exact resume_eq hp h ha hv hk hu hm (by decide) (.inl rfl) (if_neg (by simp [hr, hl]))
  · have he : ((resumeSlot s k).issue 4).slot s.cur.1 k = (s.slot s.cur.1 k).wake := by
      rw [← resumeSlot_fetch hw hq, ← hc]
      exact slot_issue_other 4 (by rwa [hc])
    rw [he, Slot.wake, if_pos hq]
    exact ⟨rfl, rfl⟩
  · rw [State.myCore, issue_cur, hc, issue_dorent]
    exact resumeSlot_copy hy ht hy'

/-- RESUME of a unit of a core that another lea holds. -/
theorem resume_away (h1 : 1 ≤ unit) (h4 : unit < 4) (h0 : k = 0) (hl : s.myCore.lea ≠ s.me.lea) :
    exec (.resume a) s = .next (s.issue 4) := by
  refine resume_eq hp h ha hv hk hu hm h4 (.inr h0) ?_
  obtain rfl | rfl | rfl : unit = 1 ∨ unit = 2 ∨ unit = 3 := by omega
  · exact if_neg hl
  · exact if_neg fun q => hl q.1
  · exact if_neg hl

theorem resume_noPort (h0 : k = 0) (h2 : unit = 2) (hj : ∀ j, s.myCore.bay.port = some j → j.parked ≠ some none) :
    exec (.resume a) s = .next (s.issue 4) := by
  subst h2
  refine resume_eq hp h ha hv hk hu hm (by decide) (.inr h0) (if_neg ?_)
  rintro ⟨-, hq⟩
  obtain ⟨j, hs, he⟩ := (Option.any_eq_true _ _).1 hq
  exact hj j hs (beq_iff_eq.1 he)

section
variable (h0 : k = 0) (hl : s.myCore.lea = s.me.lea)
include h0 hl

theorem resume_engine (h1 : unit = 1) : exec (.resume a) s = .next ((s.modEngine s.cur.1 (fun y => { y with
    active := y.active.map (fun z => if z.parked = some none then { z with parked := none } else z) })).issue 4) := by
  subst h1
  exact resume_eq hp h ha hv hk hu hm (by decide) (.inr h0) (if_pos hl)

theorem resume_port {j : PortJob} (h2 : unit = 2) (hj : s.myCore.bay.port = some j) (hp' : j.parked = some none) :
    exec (.resume a) s = .next ((s.modBay s.cur.1 (fun y => { y with port := some { j with parked := none } })).issue 4) := by
  subst h2
  refine resume_eq hp h ha hv hk hu hm (by decide) (.inr h0) ((if_pos ⟨hl, by simp [hj, hp']⟩).trans (modBay_congr ?_))
  exact congrArg (fun p => { s.myCore.bay with port := p }) (congrArg (Option.map _) hj)

theorem resume_dorent (h3 : unit = 3) : exec (.resume a) s = .next ((s.modCore s.cur.1 (fun y => { y with dorent := { y.dorent with
    park := if y.dorent.park = some none then none else y.dorent.park } })).issue 4) := by
  subst h3
  exact resume_eq hp h ha hv hk hu hm (by decide) (.inr h0) (if_pos hl)

end
end

end
end Sys2Proof.Proofs

namespace Sys2Proof.Proofs

open Sys2Proof Sys2Proof.Machine Sys2Proof.Laws

section
variable {s : State} {a b d : BitVec 5} {k : Nat} {v w : Word}

/-! ## The clauses of ERET, TLBINV and CTXLD -/

/-- Every privileged instruction traps at user level (R31, R411-R417). -/
theorem privileged_traps (h : s.priv = false) :
    exec (.eret b a) s = .next (s.raise 4 0x04 (rrBits 0x1B 0 0 0 b a 0))
    ∧ exec (.resume a) s = .next (s.raise 4 0x04 (rrBits 0x1B 0 0 1 0 a 0))
    ∧ exec (.preempt a d) s = .next (s.raise 4 0x04 (rrBits 0x1B 0 0 2 0 a d))
    ∧ exec (.ctxld b a) s = .next (s.raise 4 0x04 (rrBits 0x1B 0 0 3 b a 0))
    ∧ exec (.tlbinv b a) s = .next (s.raise 4 0x04 (rrBits 0x1B 0 0 4 b a 0))
    ∧ exec (.segld b a 0) s = .next (s.raise 4 0x04 (rrBits 0x1B 0 0 5 b a 0))
    ∧ exec (.rotset a) s = .next (s.raise 4 0x04 (rrBits 0x1B 0 0 6 0 a 0)) :=
  ⟨congrArg _ (sup_user h), congrArg _ (sup_user h), congrArg _ (sup_user h), congrArg _ (sup_user h), congrArg _ (sup_user h),
    congrArg _ (sup_user h), congrArg _ (sup_user h)⟩

section
variable {bits : Word} (hp : s.priv = true) (h : s.Reads [a.toNat, b.toNat] []) (ha : (s.w a.toNat).bad = false)
  (hb : (s.w b.toNat).bad = false) (hv : (s.w a.toNat).val = v) (hw : (s.w b.toNat).val = w) (hk : v.toNat % 16 = k)
  (hm : v &&& ~~~0x10F#64 = 0) (hx : OpenSlot s k)
include hp h ha hb hv hw hk hm hx

section
variable (h8 : v.getLsbD 8 = true) (ht : tdpFail k w.toNat = none) (hi : 0x80000 ≤ w.toNat → s.myCore.lea = s.me.lea)
include h8 ht hi

/-- CTXLD from a descriptor that is poisoned or whose window is right. -/
theorem ctxLoad_begins (hg : (s.descPoison s.cur.1 w.toNat).isSome = true ∨ (descOf (s.descWord s.cur.1 w.toNat)).windowFail = none) :
    s.ctxLoad bits b.toNat a.toNat = beginLoad s k w.toNat none := by
  have hn : (if (s.descPoison s.cur.1 w.toNat).isSome then none else (descOf (s.descWord s.cur.1 w.toNat)).windowFail) = none := by
    rcases hg with hg | hg
    · exact if_pos hg
    · rw [hg, ite_self]
  rw [ctxLoad_tdp hp h ha hb hv hw hk hm h8 ht, loadReady_go hx hi, hn]

/-- CTXLD from a descriptor whose window is wrong. -/
theorem ctxLoad_window {u : Word} (hq : (s.descPoison s.cur.1 w.toNat).isSome = false)
    (hg : (descOf (s.descWord s.cur.1 w.toNat)).windowFail = some u) : s.ctxLoad bits b.toNat a.toNat = s.raise 4 0x23 u := by
  have hn : (if (s.descPoison s.cur.1 w.toNat).isSome then none else (descOf (s.descWord s.cur.1 w.toNat)).windowFail) = some u := by
    rw [hq, hg]
    rfl
  rw [ctxLoad_tdp hp h ha hb hv hw hk hm h8 ht, loadReady_go hx hi, hn]

end

/-- CTXLD from the context area: its entry with its generation, for the slot it was saved from (R375, R415). -/
theorem ctxLoad_entry (h8 : v.getLsbD 8 = false) :
    let key := (s.me.lea.getD 0, w.toNat % 2048)
    let gen := (s.myCore.ctxGen.find? (fun p => p.1 == key)).elim 0 (fun p => p.2)
    (∀ e, s.myCore.ctx.find? (fun p => p.1 == key) = some (key, e) → w.getLsbD 11 = false → w.toNat / 4096 % 16 = gen →
      (e.slot = k → (0x80000 ≤ e.tdp.toNat → s.myCore.lea = s.me.lea) → s.ctxLoad bits b.toNat a.toNat =
        beginLoad s k e.tdp.toNat (some (w.toNat % 2048)))
      ∧ (e.slot ≠ k → s.ctxLoad bits b.toNat a.toNat = s.raise 4 0x50 v))
    ∧ ((s.myCore.ctx.find? (fun p => p.1 == key) = none ∨ w.getLsbD 11 = true ∨ w.toNat / 4096 % 16 ≠ gen) →
      s.ctxLoad bits b.toNat a.toNat = s.raise 4 0x53 (w &&& 0xFFFF#64)) := by
  intro key gen
  rw [ctxLoad_ctx hp h ha hb hv hw hk hm h8]
  refine ⟨fun e he h11 hg => ?_, fun hf => ?_⟩
  · rw [he]
    dsimp only
    rw [if_neg (by rw [h11]; simp [hg, gen, key])]
    exact ⟨fun hs hi => (if_neg (not_not.2 hs)).trans (loadReady_go hx hi), fun hs => if_pos hs⟩
  · cases hc : s.myCore.ctx.find? (fun p => p.1 == key) with
    | none => rfl
    | some p =>
      obtain ⟨q, e⟩ := p
      dsimp only
      exact if_pos (by simpa [hc, gen, key] using hf)

end

/-- A supervisor's write of TDP: to its own descriptor, or one that is poisoned or whose window is right (R417). -/
theorem cwrTdp_switches (hp : s.priv = true) (h : s.Reads [a.toNat] [d.toNat]) (ha : (s.w a.toNat).bad = false)
    (hv : (s.w a.toNat).val = v) (ht : tdpFail s.cur.2 v.toNat = none)
    (hl : ¬ ((0x80000 ≤ v.toNat ∨ 0x80000 ≤ s.me.tdp.toNat) ∧ s.myCore.lea ≠ s.me.lea))
    (hg : v = s.me.tdp ∨ (s.descPoison s.cur.1 v.toNat).isSome = true ∨ (descOf (s.descWord s.cur.1 v.toNat)).windowFail = none) :
    exec (.cwrTdp a) s =
      .next ((s.issue 4).modMe (fun y => { y with run := .forfeiting, hold := .switching v.toNat })) := by
  refine cwrTdp_go (o := none) hp h ha hv ht hl ?_
  rw [← or_assoc] at hg
  rcases hg with hg | hg
  · exact if_pos hg
  · rw [hg, ite_self]

end

/-! ## Settling O41 -/

/-- Settles O41: each instruction by the lemma that says what it does once its operands are there. -/
theorem systemInstructions : Obligations.SystemInstructions := by
  unfold Obligations.SystemInstructions
  intro c a b d s va vb k x trap hold away window poisoned gone
  have hk : va.toNat % 16 = k := rfl
  refine ⟨rfl, brk_plain, brk_captured, rfl, wfm_go, fun h => congrArg _ (no15_trap h), privileged_traps, ?_, ?_⟩
  · intro hp h ha hb
    refine ⟨fun hd => eret_restarts hp h ha hb hd rfl hk, fun hd => eret_waits hp h ha hb hd rfl hk,
      fun hd hm => ⟨fun h8 => ?_, fun h8 => ?_⟩, fun hm h8 ht => ⟨fun ho => ?_, fun ho hx => ?_, fun ho hr hc hl hi hn => ?_⟩, ?_⟩
    · refine congrArg Host.Outcome.next ((tlbInv_go hp h ha hb hd rfl hm).trans ?_)
      rw [h8]
    · refine congrArg Host.Outcome.next ((tlbInv_go hp h ha hb hd rfl hm).trans ?_)
      rw [h8]
    · exact congrArg Host.Outcome.next ((ctxLoad_tdp hp h ha hb rfl rfl hk hm h8 ht).trans (loadReady_away ho))
    · exact congrArg Host.Outcome.next ((ctxLoad_tdp hp h ha hb rfl rfl hk hm h8 ht).trans (loadReady_closed ho hx))
    · exact congrArg Host.Outcome.next ((ctxLoad_tdp hp h ha hb rfl rfl hk hm h8 ht).trans
        (loadReady_pool ⟨ho, hr, hc, hl⟩ hi hn))
    · intro hm hr hc hl ho
      have hx : OpenSlot s k := ⟨ho, hr, hc, hl⟩
      refine ⟨fun h8 ht hi => ⟨fun hg => ?_, fun w hq hg => ?_⟩, fun h8 => ?_⟩
      · exact congrArg _ (ctxLoad_begins hp h ha hb rfl rfl hk hm hx h8 ht hi hg)
      · exact congrArg _ (ctxLoad_window hp h ha hb rfl rfl hk hm hx h8 ht hi hq hg)
      · have he := ctxLoad_entry (bits := rrBits 0x1B 0 0 3 b a 0) hp h ha hb rfl rfl hk hm hx h8
        exact ⟨fun e hf h11 hg => ⟨fun hs hi => congrArg _ ((he.1 e hf h11 hg).1 hs hi), fun hs => congrArg _ ((he.1 e hf h11 hg).2 hs)⟩,
          fun hf => congrArg _ (he.2 hf)⟩
  · intro hp h ha
    have h' := reads_sources h
    refine ⟨fun hl hr => rotset_go hp h ha hl hr,
      ⟨resume_bad hp h' ha rfl hk rfl,
        fun hm hu => resume_noSlot hp h' ha rfl hk rfl hm hu,
        fun hm hu => resume_slot hp h' ha rfl hk rfl hm hu,
        fun hm h1 h4 h0 => resume_away hp h' ha rfl hk rfl hm h1 h4 h0,
        fun hm h0 hl => ⟨resume_engine hp h' ha rfl hk rfl hm h0 hl, fun j => resume_port hp h' ha rfl hk rfl hm h0 hl,
          resume_noPort hp h' ha rfl hk rfl hm h0, resume_dorent hp h' ha rfl hk rfl hm h0 hl⟩⟩,
      fun ht => ⟨fun hw => ?_, fun hw => ⟨fun hg => ?_, fun w hn hq hg => ?_⟩⟩, ?_⟩
    · exact cwrTdp_away hp h ha rfl ht hw.1 hw.2
    · exact cwrTdp_switches hp h ha rfl ht hw hg
    · exact cwrTdp_go (o := some w) hp h ha rfl ht hw ((if_neg (not_or.2 ⟨hn, Bool.not_eq_true _ ▸ hq⟩)).trans hg)
    · intro hm h15 hc hr hl hn ho
      exact ⟨fun h8 => congrArg _ (preempt_drops hp h ha rfl hk hm h15 hc hr hl hn ho h8),
        fun i h8 hi => congrArg _ (preempt_saves hp h ha rfl hk hm h15 hc hr hl hn ho h8 hi)⟩

end Sys2Proof.Proofs

namespace Sys2Proof.Proofs

open Sys2Proof Sys2Proof.Machine Sys2Proof.Laws

section
variable {s : State} {c k l f : Nat}

/-! ## The threads that wait for a system instruction -/

theorem wfmExpire_go {due : Nat} (hw : (s.slot c k).wait = .time due) (hr : (s.slot c k).run = .parked) :
    exec (.wfmExpire c k) s =
      .next (if due ≤ (s.guestTime (s.slot c k).lea).toNat then s.modSlot c k Slot.wake else s) := by
  change execWfmExpire c k s = _
  simp [execWfmExpire, hw, hr, Slot.waiting]

section
variable {tdp : Nat} (hh : (s.slot c k).hold = .switching tdp)
include hh

/-- R31: a switch of descriptors whose thread may leave, with the pool where one of them lies there. -/
theorem threadSwitch_go (hc : (s.slot c k).claimed = none) (ht : (s.slot c k).stopped = none)
    (hd : 0x80000 ≤ tdp ∨ 0x80000 ≤ (s.slot c k).tdp.toNat → (s.core c).lea = (s.slot c k).lea)
    (hr : s.leaveReady (s.slot c k) = true) : exec (.threadSwitch c k) s =
      .next (((s.takeOwed c k).writeBack c k).loadFrom c k ((s.slot c k).lea.getD 0) tdp) := by
  change execThreadSwitch c k s = _
  simp only [execThreadSwitch, hh]
  refine congrArg _ (if_neg ?_)
  simpa [hc, ht, hr, inPool, or_comm] using hd

theorem threadSwitch_waits (hn : ¬ (0x80000 ≤ tdp ∨ 0x80000 ≤ (s.slot c k).tdp.toNat → (s.core c).lea = (s.slot c k).lea)
    ∨ s.leaveReady (s.slot c k) = false) : exec (.threadSwitch c k) s = .next s := by
  change execThreadSwitch c k s = _
  simp only [execThreadSwitch, hh]
  refine congrArg _ (if_pos ?_)
  rcases hn with hn | hn
  · rw [Classical.not_imp] at hn
    simp [inPool, hn.1.symm, hn.2]
  · simp [hn]

end

theorem tlbinvComplete_go {die va : Nat} {all : Bool} (hh : (s.slot c k).hold = .tlb die all va) :
    exec (.tlbinvComplete c k) s = .next (if s.outs.any (fun o => o.usesDropped ((s.slot c k).lea.getD 0) die all va)
        || s.fillsBegun ((s.slot c k).lea.getD 0) (fun d a => d == die && (all || a / 2 ^ 21 == va / 2 ^ 21)) then s
      else s.modSlot c k Slot.release) := by
  change execTlbinvComplete c k s = _
  simp only [execTlbinvComplete, hh]

/-- R31, R414: the save of a claimed slot that has stopped, outside a handover. -/
theorem preemptSaveDone_go {issuer dst cyc : Nat} {i : Option Nat} (hc : (s.slot c k).claimed = some (issuer, dst, i))
    (hs : (s.slot c k).stopped = some cyc) (hh : ∀ t, (s.slot c k).hold ≠ .switching t) (hr : s.leaveReady (s.slot c k) = true)
    (hn : (s.core c).handover = none) : exec (.preemptSaveDone c k) s =
      .next ((s.preemptDone c k issuer dst i).modSlot c k (fun y => { y with stopped := none })) := by
  change execPreemptSaveDone c k s = _
  simp only [execPreemptSaveDone, hc]
  refine congrArg _ (if_neg ?_)
  simp only [hs, hr, hn]
  cases hx : (s.slot c k).hold with
  | switching t => exact absurd hx (hh t)
  | _ => simp

theorem preemptSaveDone_waits {issuer dst : Nat} {i : Option Nat} (hc : (s.slot c k).claimed = some (issuer, dst, i))
    (hr : s.leaveReady (s.slot c k) = false) : exec (.preemptSaveDone c k) s = .next s := by
  change execPreemptSaveDone c k s = _
  simp only [execPreemptSaveDone, hc]
  exact congrArg _ (if_pos (by simp [hr]))

/-! ## The load of CTXLD -/

/-- Whether a handover leaves a load of CTXLD what it needs: its slot, its issuer's, and the pool where its descriptor lies there. -/
def LoadPresent (s : State) (c k issuer tdp : Nat) : Prop :=
  ∀ h, (s.core c).handover = some h → k ∈ h.restored ∧ issuer ∈ h.restored ∧ (0x80000 ≤ tdp → (s.core c).lea = some h.into)

theorem ctxldLoadDone_waits {issuer tdp : Nat} {src : Option Nat} {h : Handover}
    (hl : (s.slot c k).loading = some (issuer, tdp, src)) (hh : (s.core c).handover = some h)
    (hn : k ∉ h.restored ∨ issuer ∉ h.restored ∨ (0x80000 ≤ tdp ∧ (s.core c).lea ≠ some h.into)) :
    exec (.ctxldLoadDone c k) s = .next s := by
  change execCtxldLoadDone c k s = _
  simp only [execCtxldLoadDone, hl]
  exact congrArg _ (if_pos (by simpa [hh, inPool, or_assoc] using hn))

/-- The handover's test of a load that has what it needs. -/
theorem loadPresent_any {issuer tdp : Nat} (h : LoadPresent s c k issuer tdp) : ¬ ((s.core c).handover.any (fun h =>
    !h.restored.contains k || !h.restored.contains issuer || (inPool tdp && (s.core c).lea != some h.into)) = true) := by
  cases hh : (s.core c).handover with
  | none => simp
  | some q =>
    obtain ⟨hk, hi, ht⟩ := h q hh
    simpa [hk, hi, inPool] using ht

theorem ctxldLoadDone_tdp {issuer tdp : Nat} (hl : (s.slot c k).loading = some (issuer, tdp, none))
    (hp : LoadPresent s c k issuer tdp) : exec (.ctxldLoadDone c k) s = .next
      ((((s.modSlot c k (fun y => { y with loading := none })).modSlot c k (fun y => { y with
        gang := none, gangReg := 0, coreReg := coreWord c 0 (s.logicalOf ((s.slot c issuer).lea.getD 0) c),
        slotReg := slotWord 0 k })).loadFrom c k ((s.slot c issuer).lea.getD 0) tdp).modSlot c issuer (fun y =>
          if y.wait = .ctxld then y.wake else y)) := by
  change execCtxldLoadDone c k s = _
  simp only [execCtxldLoadDone, hl]
  exact congrArg _ (if_neg (loadPresent_any hp))

theorem ctxldLoadDone_ctx {issuer tdp i : Nat} {e : CtxEntry} (hl : (s.slot c k).loading = some (issuer, tdp, some i))
    (hp : LoadPresent s c k issuer tdp) :
    let key := ((s.slot c issuer).lea.getD 0, i)
    (s.core c).ctx.find? (fun p => p.1 == key) = some (key, e) →
    exec (.ctxldLoadDone c k) s = .next (((((s.modSlot c k (fun y => { y with loading := none })).modCore c (fun y =>
      y.freeEntryOf key.1 i)).modSlot c k (fun y => { y with
        gang := e.gang, gangReg := e.gangReg, coreReg := e.coreReg, slotReg := e.slotReg })).loadThread c k key.1 tdp e.desc
        (some e.kept)).modSlot c issuer (fun y => if y.wait = .ctxld then y.wake else y)) := by
  intro key he
  change execCtxldLoadDone c k s = _
  simp only [execCtxldLoadDone, hl]
  refine congrArg _ ((if_neg (loadPresent_any hp)).trans ?_)
  simp only [key] at he
  simp only [he, key]

/-! ## ROT and GTOFF -/

theorem applyRot_passed {x : Core} {n : Nat} (h : n < x.turned) : x.applyRot n = x := by
  unfold Core.applyRot
  split
  · exact if_neg (by omega)
  · rfl

/-- R17: a rotation that waits takes effect at a turn 0 that is still to come, where its core may rotate. -/
theorem applyRot_go {x : Core} {n : Nat} {v : Word} (h : x.rotNext = some v) (hn : n % 16 = 0) (ht : x.turned ≤ n)
    (hm : x.mayRotate = true) : x.applyRot n =
      { x with rot := v, rotNext := none, slots := x.slots.map (fun y => if y.hold = .rot then y.release else y) } := by
  rw [Core.applyRot, hm, h]
  exact if_pos ⟨hn, ht⟩

theorem applyRot_held {x : Core} {n : Nat} (hm : x.mayRotate = false) : x.applyRot n = x := by
  rw [Core.applyRot, hm]
  rfl

theorem mayRotate_handover {x : Core} {h : Handover} (hh : x.handover = some h) (hr : h.rot ≠ none) (hl : x.lea ≠ some h.into) :
    x.mayRotate = false := by
  rw [Core.mayRotate, hh]
  simp [hl, Option.isSome_iff_ne_none.2 hr]

/-- A change of a lea that exists is what it comes to for that lea. -/
theorem modLea_eq {y : Lea} (h : s.lea l = some y) (g : Lea → Lea) : s.modLea l g = { s with leas := keySet s.leas l (g y) } := by
  rw [State.modLea, h]

/-! ## The wake of a frame -/

@[simp] theorem excludePage_outs (s : State) (c k : Nat) : (s.excludePage c k).outs = s.outs := by
  unfold State.excludePage
  split <;> rfl

theorem excludePages_outs (c : Nat) (ks : List Nat) (s : State) : (ks.foldl (fun s k => s.excludePage c k) s).outs = s.outs :=
  List.foldlRecOn (motive := fun (t : State) => t.outs = s.outs) ks _ rfl fun t ht k _ => (excludePage_outs t c k).trans ht

theorem wakeCore_outs (s : State) (l f c : Nat) : (s.wakeCore l f c).outs = s.outs := by
  simp [State.wakeCore, apply_ite State.outs, excludePages_outs, State.wakePort, State.wakeCopy, State.modBay]

theorem wakeCores_outs (cs : List Nat) (s : State) : (cs.foldl (fun s c => s.wakeCore l f c) s).outs = s.outs :=
  List.foldlRecOn (motive := fun (t : State) => t.outs = s.outs) cs _ rfl fun t ht c _ => (wakeCore_outs t l f c).trans ht

theorem wakeCores_mem (cs : List Nat) (s : State) : (cs.foldl (fun s c => s.wakeCore l f c) s).mem = s.mem :=
  foldl_mem (fun _ _ => wakeCore_mem ..) _ _

/-- The accesses that a frame held, each with its thread and the watchdog's mark of its gang (R328, R405). -/
def wakeItems (s : State) (os : List Out) : State := os.foldl (fun s o => (s.wakeHeld o.id).excludeOn o.core o.slot) s

theorem wakeItems_outs (os : List Out) (s : State) : (wakeItems s os).outs = s.outs :=
  List.foldlRecOn (motive := fun (t : State) => t.outs = s.outs) os _ rfl fun t ht o _ => (wakeHeld_outs t o.id).trans ht

theorem wakeItems_mem (os : List Out) (s : State) : (wakeItems s os).mem = s.mem :=
  foldl_mem (fun _ _ => (excludeOn_mem ..).trans (wakeHeld_mem ..)) _ _

theorem stage_woken (p : Part) (f : Nat) : (p.woken f).stage ≠ .pageFault f := by
  unfold Part.woken
  split
  · split
    · exact Stage.noConfusion
    · next g hs hg => simp [hs, hg]
  · next hn => exact hn f

theorem parts_mapParts (o : Out) (g : Part → Part) : (o.mapParts g).parts = o.parts.map g := by
  cases h : o.work <;> simp [Out.mapParts, Out.parts, h]

/-- An item whose events on a frame have gone back to the port waits on the frame no more. -/
theorem onFrame_mapParts_woken (o : Out) (f : Nat) : (o.mapParts (Part.woken f)).onFrame f = false := by
  simp [Out.onFrame, parts_mapParts, stage_woken]

theorem pageFaultWake_none (h : s.resident l f = false) : exec (.pageFaultWake l f) s = .next s :=
  congrArg _ (if_pos (by simp [h]))

/-- What waits on a frame of a lea goes back to the port, but what is owed to a save area (R405). -/
def wokenOuts (s : State) (l f : Nat) : List Out :=
  s.outs.map (fun o => if o.lea = l ∧ !s.isLate o then o.mapParts (Part.woken f) else o)

theorem wokenOuts_onFrame {o : Out} (h : o ∈ wokenOuts s l f) (hl : o.lea = l) (hn : s.isLate o = false) : o.onFrame f = false := by
  obtain ⟨q, -, rfl⟩ := List.mem_map.1 h
  split
  · exact onFrame_mapParts_woken q f
  · next hq =>
    rw [if_neg hq] at hl hn
    exact absurd ⟨hl, by simp [hn]⟩ hq

/-- R405: a resident frame wakes what waits on it, and changes no memory. -/
theorem pageFaultWake_go (h : s.resident l f = true) :
    ∃ t, exec (.pageFaultWake l f) s = .next t ∧ t.mem = s.mem ∧ t.outs = wokenOuts s l f := by
  have hi := wakeItems_outs (s.outs.filter (fun o => o.lea == l && o.onFrame f && !s.isLate o)) { s with outs := wokenOuts s l f }
  have hm := wakeItems_mem (s.outs.filter (fun o => o.lea == l && o.onFrame f && !s.isLate o)) { s with outs := wokenOuts s l f }
  refine ⟨_, congrArg Host.Outcome.next (if_neg (by simp [h])), ?_⟩
  dsimp only
  split
  · exact ⟨(wakeCores_mem ..).trans hm, (wakeCores_outs ..).trans hi⟩
  · exact ⟨hm, hi⟩

end
end Sys2Proof.Proofs

namespace Sys2Proof.Proofs

open Sys2Proof Sys2Proof.Machine Sys2Proof.Laws

section
variable {s : State} {c l : Nat}

/-! ## ROT_APPLY and GTOFF_APPLY -/

theorem rotApply_passed (h : s.cycle c < (s.core c).turned) : ∃ t, exec (.rotApply c) s = .next t ∧ t.core c = s.core c :=
  ⟨_, rfl, (core_modCore ..).trans (applyRot_passed h)⟩

/-- R17: at a turn 0 that is still to come, a rotation takes effect but in a handover. -/
theorem rotApply_turn0 {v : Word} (h : (s.core c).rotNext = some v) (hn : s.cycle c % 16 = 0) (ht : (s.core c).turned ≤ s.cycle c) :
    ∃ t, exec (.rotApply c) s = .next t ∧ t.mem = s.mem
      ∧ ((s.core c).mayRotate = true → (t.core c).rot = v ∧ (t.core c).rotNext = none)
      ∧ ((s.core c).mayRotate = false → (t.core c).rot = (s.core c).rot ∧ (t.core c).rotNext = some v) := by
  refine ⟨_, rfl, rfl, fun hm => ?_, fun hm => ?_⟩
  · rw [core_modCore, applyRot_go h hn ht hm]
    exact ⟨rfl, rfl⟩
  · rw [core_modCore, applyRot_held hm]
    exact ⟨rfl, h⟩

section
variable {y : Lea} {v : Word} {n : Nat} (hy : s.lea l = some y) (hg : y.gtoffNext = some (v, n)) (ht : s.tideSlot = 0)
include hy hg ht

theorem gtoffApply_due (hn : n < s.now) :
    exec (.gtoffApply l) s = .next (s.modLea l (fun z => { z with gtoff := v, gtoffNext := none })) := by
  refine congrArg Host.Outcome.next ((if_neg (not_not.2 ht)).trans ?_)
  rw [modLea_eq hy, modLea_eq hy, hg]
  exact congrArg (fun z => { s with leas := keySet s.leas l z }) (if_pos hn)

theorem gtoffApply_early (hn : s.now ≤ n) : ∃ t, exec (.gtoffApply l) s = .next t ∧ t.lea l = some y := by
  refine ⟨_, congrArg Host.Outcome.next (if_neg (not_not.2 ht)), ?_⟩
  rw [modLea_eq hy, hg]
  exact (keyFind_keySet_same ..).trans (congrArg some (if_neg (Nat.not_lt.2 hn)))

end

end

/-! ## Settling O42 -/

/-- Settles O42: each event by the lemmas that say what it does where its condition holds and where it does not. -/
theorem systemEvents : Obligations.SystemEvents := by
  unfold Obligations.SystemEvents
  intro c k f l s hk x present
  refine ⟨fun due hw hr => wfmExpire_go hw hr,
    fun tdp hh hc ht => ⟨fun hd hr => threadSwitch_go hh hc ht hd hr, fun hn => threadSwitch_waits hh hn⟩,
    fun die all va hh => tlbinvComplete_go hh,
    fun issuer dst i cyc hc hs hh => ⟨fun hr hn => preemptSaveDone_go hc hs hh hr hn, fun hr => preemptSaveDone_waits hc hr⟩,
    fun issuer tdp src h hl hh hn => ctxldLoadDone_waits hl hh hn,
    fun issuer tdp hl hp => ⟨_, _, ctxldLoadDone_tdp hl hp, rfl, rfl⟩,
    fun issuer tdp i e hl hp => ctxldLoadDone_ctx hl hp,
    rotApply_passed,
    fun v h hn ht => rotApply_turn0 h hn ht,
    fun h hh hr hl => mayRotate_handover hh hr hl,
    fun y v n hy hg => ⟨fun ht hn => gtoffApply_due hy hg ht hn, fun ht hn => gtoffApply_early hy hg ht hn,
      fun ht => congrArg _ (if_pos ht)⟩,
    pageFaultWake_none, fun h => ?_, rfl⟩
  obtain ⟨t, he, hm, ho⟩ := pageFaultWake_go h
  exact ⟨t, he, hm, fun o hq hl hn => wokenOuts_onFrame (ho ▸ hq) hl hn⟩

end Sys2Proof.Proofs

namespace Sys2Proof.Proofs

open Sys2Proof

/-- Settles O54: the decoder evaluates each word. -/
theorem decodeWords : Obligations.DecodeWords := by
  refine ⟨?_, ?_, ?_, ?_, ?_, ?_, ?_, ?_, ?_, ?_, ?_⟩
  all_goals decide

section
variable {m n s l : Nat}

/-! ## Fields of a word that is a row of fields

The width of a row is left out of the index, for it stands in a code as a numeral. -/

@[simp] theorem extractLsb'_append_low {x : BitVec m} {y : BitVec n} (h : s + l ≤ n) :
    @BitVec.extractLsb' (no_index (m + n)) s l (@HAppend.hAppend _ _ (BitVec (no_index (m + n))) _ x y) = y.extractLsb' s l :=
  BitVec.extractLsb'_append_eq_of_add_le h

@[simp] theorem extractLsb'_append_high {x : BitVec m} {y : BitVec n} (h : n ≤ s) :
    @BitVec.extractLsb' (no_index (m + n)) s l (@HAppend.hAppend _ _ (BitVec (no_index (m + n))) _ x y) =
      x.extractLsb' (s - n) l :=
  BitVec.extractLsb'_append_eq_of_le h

/-- A field in two parts (R54). -/
@[simp] theorem extractLsb'_parts {x : BitVec (no_index (m + n))} :
    @HAppend.hAppend _ _ (BitVec (no_index (m + n))) _ (x.extractLsb' n m) (x.extractLsb' 0 n) = x :=
  BitVec.extractLsb'_append_extractLsb'

end

section
variable {i j : Instr} {s : BitVec 3} {h : BitVec 16} {c : BitVec 32}

/-! ## What the decoder reads from the halfwords of a code -/

theorem chk_of_wellFormed (hw : i.wellFormed = true) : chk true i = .ok i := by
  rw [chk, hw]
  rfl

theorem decode_half (hl : h.extractLsb' 0 2 ≠ 3#2) (hd : decode16 h = .ok i) (l : List (BitVec 16)) :
    decode true ((Code.half h).halves ++ l) = .ok i 1 := by
  simp [Code.halves, decode, hl, hd]

theorem decode_word (hl : c.extractLsb' 0 2 = 3#2) (hd : decode32 true c = .ok i) (l : List (BitVec 16)) :
    decode true ((Code.word c).halves ++ l) = .ok i 2 := by
  simp [Code.halves, decode, hl, hd]

theorem lowBits_rxHalf (s : BitVec 3) : (rxHalf s).extractLsb' 0 2 = 2 := by
  simp [rxHalf]

/-- R66, R244: the halfword of RX with a scope that it may name. -/
theorem decode16_rxHalf : ∀ s : BitVec 3, scopeFenceOk s = true → decode16 (rxHalf s) = .rx s := by
  decide

theorem decode_rx_half (hs : scopeFenceOk s = true) (hl : h.extractLsb' 0 2 ≠ 3#2) (hd : decode16 h = .ok i)
    (hx : withRx s i = some j) (l : List (BitVec 16)) : decode true (rxHalf s :: (Code.half h).halves ++ l) = .ok j 2 := by
  simp [Code.halves, decode, joinRx, lowBits_rxHalf, decode16_rxHalf s hs, hl, hd, hx]

theorem decode_rx_word (hs : scopeFenceOk s = true) (hl : c.extractLsb' 0 2 = 3#2) (hd : decode32 true c = .ok i)
    (hx : withRx s i = some j) (l : List (BitVec 16)) : decode true (rxHalf s :: (Code.word c).halves ++ l) = .ok j 3 := by
  simp [Code.halves, decode, joinRx, lowBits_rxHalf, decode16_rxHalf s hs, hl, hd, hx]

theorem wellFormed_of_decodable (hi : i.decodable = true) : i.wellFormed = true := by
  unfold Instr.decodable at hi
  split at hi
  · cases hi
  · cases hi
  · cases hi
  · split at hi
    · cases hi
    · cases hi
    · exact hi

end

/-! ## Instructions that the decoder gives back -/

/-- The decoder gives an instruction back from its own code, where it is one that it may give. -/
def GivenBack (i : Instr) : Prop :=
  i.decodable = true → ∀ l : List (BitVec 16), decode true (encode i ++ l) = .ok i (encode i).length

namespace GivenBack

/-! A code is a row of fields. The decoder selects the major by one field and the instruction by others, and the rest are operands or
reserved: `simp`, with the two selections, reads each field off the row. Where an operand also decides between instructions (CMPI,
CALL, CRD, CWR), its admissible values leave only one. -/

section
variable {i : Instr} {h : BitVec 16} {c : BitVec 32}

/-- No instruction that a thread issues, or a second name of one. -/
theorem of_not_decodable (hi : i.decodable = false) : GivenBack i := fun h => absurd (hi.symm.trans h) Bool.false_ne_true

theorem of_half (hc : codeOf i = .half h) (hr : rxOf i = none) (hl : h.extractLsb' 0 2 ≠ 3#2) (hd : decode16 h = chk true i) :
    GivenBack i := by
  intro hi l
  simp only [encode, hr, hc]
  exact decode_half hl (hd.trans (chk_of_wellFormed (wellFormed_of_decodable hi))) l

/-- An instruction whose word the decoder tells from others by what its fields may hold. -/
theorem of_wellFormed_word (hc : codeOf i = .word c) (hr : rxOf i = none) (hl : c.extractLsb' 0 2 = 3#2)
    (hd : i.wellFormed = true → decode32 true c = chk true i) : GivenBack i := by
  intro hi l
  have hw := wellFormed_of_decodable hi
  simp only [encode, hr, hc]
  exact decode_word hl ((hd hw).trans (chk_of_wellFormed hw)) l

theorem of_word (hc : codeOf i = .word c) (hr : rxOf i = none) (hl : c.extractLsb' 0 2 = 3#2)
    (hd : decode32 true c = chk true i) : GivenBack i := of_wellFormed_word hc hr hl fun _ => hd

end

/-- An access as a function of the scope that RX gives it, which is no part of its own code (R66). -/
def OfRx (f : Option (BitVec 3) → Instr) (c : Code) : Prop :=
  ∀ rx, codeOf (f rx) = c ∧ rxOf (f rx) = rx ∧ (f rx).wellFormed = rxOk rx ∧ ∀ s, withRx s (f rx) = some (f (some s))

section
variable {f : Option (BitVec 3) → Instr} {h : BitVec 16} {c : BitVec 32} {rx : Option (BitVec 3)}

/-- R66: a compact access, with or without RX before it. -/
theorem of_access_half (hf : OfRx f (.half h)) (hl : h.extractLsb' 0 2 ≠ 3#2) (hd : decode16 h = chk true (f none)) :
    GivenBack (f rx) := by
  intro hi l
  obtain ⟨hc, hr, hw, -⟩ := hf rx
  obtain ⟨-, -, hw0, hx⟩ := hf none
  have hd : decode16 h = .ok (f none) := hd.trans (chk_of_wellFormed hw0)
  have hs := hw.symm.trans (wellFormed_of_decodable hi)
  simp only [encode, hr, hc]
  cases rx with
  | none => exact decode_half hl hd l
  | some s => exact decode_rx_half hs hl hd (hx s) l

/-- R66: an access, with or without RX before it. -/
theorem of_access (hf : OfRx f (.word c)) (hl : c.extractLsb' 0 2 = 3#2) (hd : decode32 true c = chk true (f none)) :
    GivenBack (f rx) := by
  intro hi l
  obtain ⟨hc, hr, hw, -⟩ := hf rx
  obtain ⟨-, -, hw0, hx⟩ := hf none
  have hd : decode32 true c = .ok (f none) := hd.trans (chk_of_wellFormed hw0)
  have hs := hw.symm.trans (wellFormed_of_decodable hi)
  simp only [encode, hr, hc]
  cases rx with
  | none => exact decode_word hl hd l
  | some s => exact decode_rx_word hs hl hd (hx s) l

end

/-- A halfword that selects a row of R50 is not zero. -/
theorem half_ne_zero {h : BitVec 16} (hf : h.extractLsb' 0 2 ≠ 0 ∨ h.extractLsb' 13 3 ≠ 0) : h ≠ 0#16 := by
  rintro rfl
  simp at hf

/-! ## Compact instructions (R50-R53) -/

theorem ldd16 {rx g l b d} : GivenBack (.ldd16 rx g l b d) :=
  of_access_half (f := (.ldd16 · g l b d)) (fun _ => ⟨rfl, rfl, rfl, fun _ => rfl⟩) (by simp)
    (by simp [decode16, half_ne_zero])
theorem std16 {rx g k b d} : GivenBack (.std16 rx g k b d) :=
  of_access_half (f := (.std16 · g k b d)) (fun _ => ⟨rfl, rfl, rfl, fun _ => rfl⟩) (by simp)
    (by simp [decode16, half_ne_zero])
theorem addiMove16 {d a} : GivenBack (.addiMove16 d a) := of_half rfl rfl (by simp) (by simp [decode16, half_ne_zero])
theorem addi16 {d i} : GivenBack (.addi16 d i) := of_half rfl rfl (by simp) (by simp [decode16, half_ne_zero])
theorem movi16 {d i} : GivenBack (.movi16 d i) := of_half rfl rfl (by simp) (by simp [decode16, half_ne_zero])
theorem shli16 {d n} : GivenBack (.shli16 d n) := of_half rfl rfl (by simp) (by simp [decode16, half_ne_zero])
theorem shri16 {d n} : GivenBack (.shri16 d n) := of_half rfl rfl (by simp) (by simp [decode16, half_ne_zero])
theorem add16 {d a} : GivenBack (.add16 d a) := of_half rfl rfl (by simp) (by simp [decode16, half_ne_zero])
theorem sub16 {d a} : GivenBack (.sub16 d a) := of_half rfl rfl (by simp) (by simp [decode16, half_ne_zero])
theorem and16 {d a} : GivenBack (.and16 d a) := of_half rfl rfl (by simp) (by simp [decode16, half_ne_zero])
theorem or16 {d a} : GivenBack (.or16 d a) := of_half rfl rfl (by simp) (by simp [decode16, half_ne_zero])
theorem bz16 {a o} : GivenBack (.bz16 a o) := of_half rfl rfl (by simp) (by simp [decode16, half_ne_zero])
theorem bnz16 {a o} : GivenBack (.bnz16 a o) := of_half rfl rfl (by simp) (by simp [decode16, half_ne_zero])
theorem br16 {o} : GivenBack (.br16 o) := of_half rfl rfl (by simp) (by simp [decode16, half_ne_zero])
theorem hret : GivenBack (.hret) := of_half rfl rfl (by simp) (by simp [decode16])
theorem ret16 : GivenBack (.ret16) := of_half rfl rfl (by simp) (by simp [decode16])
theorem nop16 : GivenBack (.nop16) := of_half rfl rfl (by simp) (by simp [decode16])

/-! ## Major 0x00: integer register-register -/

theorem add {b a d} : GivenBack (.add b a d) := of_word rfl rfl (by simp) (by simp [decode32, maj00])
theorem sub {b a d} : GivenBack (.sub b a d) := of_word rfl rfl (by simp) (by simp [decode32, maj00])
theorem mul {b a d} : GivenBack (.mul b a d) := of_word rfl rfl (by simp) (by simp [decode32, maj00])
theorem mulh {b a d} : GivenBack (.mulh b a d) := of_word rfl rfl (by simp) (by simp [decode32, maj00])
theorem mulhu {b a d} : GivenBack (.mulhu b a d) := of_word rfl rfl (by simp) (by simp [decode32, maj00])
theorem div {l b a d} : GivenBack (.div l b a d) := of_word rfl rfl (by simp) (by simp [decode32, maj00])
theorem divu {l b a d} : GivenBack (.divu l b a d) := of_word rfl rfl (by simp) (by simp [decode32, maj00])
theorem rem {l b a d} : GivenBack (.rem l b a d) := of_word rfl rfl (by simp) (by simp [decode32, maj00])
theorem remu {l b a d} : GivenBack (.remu l b a d) := of_word rfl rfl (by simp) (by simp [decode32, maj00])
theorem and {b a d} : GivenBack (.and b a d) := of_word rfl rfl (by simp) (by simp [decode32, maj00])
theorem or {b a d} : GivenBack (.or b a d) := of_word rfl rfl (by simp) (by simp [decode32, maj00])
theorem xor {b a d} : GivenBack (.xor b a d) := of_word rfl rfl (by simp) (by simp [decode32, maj00])
theorem andn {b a d} : GivenBack (.andn b a d) := of_word rfl rfl (by simp) (by simp [decode32, maj00])
theorem orn {b a d} : GivenBack (.orn b a d) := of_word rfl rfl (by simp) (by simp [decode32, maj00])
theorem shl {b a d} : GivenBack (.shl b a d) := of_word rfl rfl (by simp) (by simp [decode32, maj00])
theorem shr {b a d} : GivenBack (.shr b a d) := of_word rfl rfl (by simp) (by simp [decode32, maj00])
theorem sra {b a d} : GivenBack (.sra b a d) := of_word rfl rfl (by simp) (by simp [decode32, maj00])
theorem ror {b a d} : GivenBack (.ror b a d) := of_word rfl rfl (by simp) (by simp [decode32, maj00])
theorem min {b a d} : GivenBack (.min b a d) := of_word rfl rfl (by simp) (by simp [decode32, maj00])
theorem max {b a d} : GivenBack (.max b a d) := of_word rfl rfl (by simp) (by simp [decode32, maj00])
theorem minu {b a d} : GivenBack (.minu b a d) := of_word rfl rfl (by simp) (by simp [decode32, maj00])
theorem maxu {b a d} : GivenBack (.maxu b a d) := of_word rfl rfl (by simp) (by simp [decode32, maj00])
theorem cmpeq {b a d} : GivenBack (.cmpeq b a d) := of_word rfl rfl (by simp) (by simp [decode32, maj00])
theorem cmplt {b a d} : GivenBack (.cmplt b a d) := of_word rfl rfl (by simp) (by simp [decode32, maj00])
theorem cmpltu {b a d} : GivenBack (.cmpltu b a d) := of_word rfl rfl (by simp) (by simp [decode32, maj00])
theorem sel {c b a d} : GivenBack (.sel c b a d) := of_word rfl rfl (by simp) (by simp [decode32, maj00])
theorem extr {b a d} : GivenBack (.extr b a d) := of_word rfl rfl (by simp) (by simp [decode32, maj00])
theorem insb {b a d} : GivenBack (.insb b a d) := of_word rfl rfl (by simp) (by simp [decode32, maj00])
theorem clz {a d} : GivenBack (.clz a d) := of_word rfl rfl (by simp) (by simp [decode32, maj00])
theorem ctz {a d} : GivenBack (.ctz a d) := of_word rfl rfl (by simp) (by simp [decode32, maj00])
theorem popc {a d} : GivenBack (.popc a d) := of_word rfl rfl (by simp) (by simp [decode32, maj00])
theorem brev {a d} : GivenBack (.brev a d) := of_word rfl rfl (by simp) (by simp [decode32, maj00])
theorem bswap {a d} : GivenBack (.bswap a d) := of_word rfl rfl (by simp) (by simp [decode32, maj00])

/-! ## Major 0x01: integer immediate -/

theorem addi {i a d} : GivenBack (.addi i a d) := of_word rfl rfl (by simp) (by simp [decode32, maj01])
theorem movi {i d} : GivenBack (.movi i d) := of_word rfl rfl (by simp) (by simp [decode32, maj01])
theorem shli {n a d} : GivenBack (.shli n a d) := of_word rfl rfl (by simp) (by simp [decode32, maj01])
theorem shri {n a d} : GivenBack (.shri n a d) := of_word rfl rfl (by simp) (by simp [decode32, maj01])
theorem srai {n a d} : GivenBack (.srai n a d) := of_word rfl rfl (by simp) (by simp [decode32, maj01])
theorem cmpi {c i a d} : GivenBack (.cmpi c i a d) := by
  refine of_wellFormed_word rfl rfl (by simp) fun hw => ?_
  have hc : ∀ c : BitVec 3, c.toNat < 6 → c.extractLsb' 1 2 ≠ 3#2 := by decide
  simp [decode32, maj01, hc c (of_decide_eq_true hw)]

/-! ## Major 0x02: address and immediate -/

theorem lih {i d} : GivenBack (.lih i d) := of_word rfl rfl (by simp) (by simp [decode32, maj02])
theorem lea {k n a d} : GivenBack (.lea k n a d) := of_word rfl rfl (by simp) (by simp [decode32, maj02])
theorem mapr {k n a d} : GivenBack (.mapr k n a d) := of_word rfl rfl (by simp) (by simp [decode32, maj02])
theorem addpc {i d} : GivenBack (.addpc i d) := of_word rfl rfl (by simp) (by simp [decode32, maj02])
theorem sgrd {f k d} : GivenBack (.sgrd f k d) := of_word rfl rfl (by simp) (by simp [decode32, maj02])

/-! ## Major 0x03: scalar FP -/

theorem fadd {x r b a d} : GivenBack (.fadd x r b a d) := of_word rfl rfl (by simp) (by simp [decode32, maj03])
theorem fsub {x r b a d} : GivenBack (.fsub x r b a d) := of_word rfl rfl (by simp) (by simp [decode32, maj03])
theorem fmul {x r b a d} : GivenBack (.fmul x r b a d) := of_word rfl rfl (by simp) (by simp [decode32, maj03])
theorem fma {x r b a d} : GivenBack (.fma x r b a d) := of_word rfl rfl (by simp) (by simp [decode32, maj03])
theorem fms {x r b a d} : GivenBack (.fms x r b a d) := of_word rfl rfl (by simp) (by simp [decode32, maj03])
theorem fnma {x r b a d} : GivenBack (.fnma x r b a d) := of_word rfl rfl (by simp) (by simp [decode32, maj03])
theorem fdiv {x l b a d} : GivenBack (.fdiv x l b a d) := of_word rfl rfl (by simp) (by simp [decode32, maj03])
theorem fsqrt {x l a d} : GivenBack (.fsqrt x l a d) := of_word rfl rfl (by simp) (by simp [decode32, maj03])
theorem frsqe {x r a d} : GivenBack (.frsqe x r a d) := of_word rfl rfl (by simp) (by simp [decode32, maj03])
theorem frcpe {x r a d} : GivenBack (.frcpe x r a d) := of_word rfl rfl (by simp) (by simp [decode32, maj03])
theorem fmin {x b a d} : GivenBack (.fmin x b a d) := of_word rfl rfl (by simp) (by simp [decode32, maj03])
theorem fmax {x b a d} : GivenBack (.fmax x b a d) := of_word rfl rfl (by simp) (by simp [decode32, maj03])
theorem fcmpeq {x b a d} : GivenBack (.fcmpeq x b a d) := of_word rfl rfl (by simp) (by simp [decode32, maj03])
theorem fcmplt {x b a d} : GivenBack (.fcmplt x b a d) := of_word rfl rfl (by simp) (by simp [decode32, maj03])
theorem fcmple {x b a d} : GivenBack (.fcmple x b a d) := of_word rfl rfl (by simp) (by simp [decode32, maj03])
theorem fclass {x a d} : GivenBack (.fclass x a d) := of_word rfl rfl (by simp) (by simp [decode32, maj03])
theorem fcvt {x r t m a d} : GivenBack (.fcvt x r t m a d) := of_word rfl rfl (by simp) (by simp [decode32, maj03])
theorem fcvti {x r n a d} : GivenBack (.fcvti x r n a d) := of_word rfl rfl (by simp) (by simp [decode32, maj03])
theorem icvtf {x r n a d} : GivenBack (.icvtf x r n a d) := of_word rfl rfl (by simp) (by simp [decode32, maj03])
theorem fabs {x a d} : GivenBack (.fabs x a d) := of_word rfl rfl (by simp) (by simp [decode32, maj03])
theorem fneg {x a d} : GivenBack (.fneg x a d) := of_word rfl rfl (by simp) (by simp [decode32, maj03])
theorem fsgnj {x b a d} : GivenBack (.fsgnj x b a d) := of_word rfl rfl (by simp) (by simp [decode32, maj03])

/-! ## Major 0x04: loads -/

theorem ldb {rx p l g b d} : GivenBack (.ldb rx p l g b d) :=
  of_access (f := (.ldb · p l g b d)) (fun _ => ⟨rfl, rfl, rfl, fun _ => rfl⟩) (by simp) (by simp [decode32, maj04])
theorem ldh {rx p l g b d} : GivenBack (.ldh rx p l g b d) :=
  of_access (f := (.ldh · p l g b d)) (fun _ => ⟨rfl, rfl, rfl, fun _ => rfl⟩) (by simp) (by simp [decode32, maj04])
theorem ldw {rx p l g b d} : GivenBack (.ldw rx p l g b d) :=
  of_access (f := (.ldw · p l g b d)) (fun _ => ⟨rfl, rfl, rfl, fun _ => rfl⟩) (by simp) (by simp [decode32, maj04])
theorem ldd {rx p l g b d} : GivenBack (.ldd rx p l g b d) :=
  of_access (f := (.ldd · p l g b d)) (fun _ => ⟨rfl, rfl, rfl, fun _ => rfl⟩) (by simp) (by simp [decode32, maj04])

/-! ## Major 0x05: stores -/

theorem stb {rx p g b d} : GivenBack (.stb rx p g b d) :=
  of_access (f := (.stb · p g b d)) (fun _ => ⟨rfl, rfl, rfl, fun _ => rfl⟩) (by simp) (by simp [decode32, maj05])
theorem sth {rx p g b d} : GivenBack (.sth rx p g b d) :=
  of_access (f := (.sth · p g b d)) (fun _ => ⟨rfl, rfl, rfl, fun _ => rfl⟩) (by simp) (by simp [decode32, maj05])
theorem stw {rx p g b d} : GivenBack (.stw rx p g b d) :=
  of_access (f := (.stw · p g b d)) (fun _ => ⟨rfl, rfl, rfl, fun _ => rfl⟩) (by simp) (by simp [decode32, maj05])
theorem std {rx p g b d} : GivenBack (.std rx p g b d) :=
  of_access (f := (.std · p g b d)) (fun _ => ⟨rfl, rfl, rfl, fun _ => rfl⟩) (by simp) (by simp [decode32, maj05])

/-! ## Major 0x06: full/empty, literal and indexed forms -/

theorem ldl {o l d} : GivenBack (.ldl o l d) := of_word rfl rfl (by simp) (by simp [decode32, maj06])
theorem ldAcq {l z g b d} : GivenBack (.ldAcq l z g b d) := of_word rfl rfl (by simp) (by simp [decode32, maj06])
theorem lduAcq {l z g b d} : GivenBack (.lduAcq l z g b d) := of_word rfl rfl (by simp) (by simp [decode32, maj06])
theorem stRel {z g b d} : GivenBack (.stRel z g b d) := of_word rfl rfl (by simp) (by simp [decode32, maj06])
theorem ldbu {rx l g b d} : GivenBack (.ldbu rx l g b d) :=
  of_access (f := (.ldbu · l g b d)) (fun _ => ⟨rfl, rfl, rfl, fun _ => rfl⟩) (by simp) (by simp [decode32, maj06])
theorem ldhu {rx l g b d} : GivenBack (.ldhu rx l g b d) :=
  of_access (f := (.ldhu · l g b d)) (fun _ => ⟨rfl, rfl, rfl, fun _ => rfl⟩) (by simp) (by simp [decode32, maj06])
theorem ldwu {rx l g b d} : GivenBack (.ldwu rx l g b d) :=
  of_access (f := (.ldwu · l g b d)) (fun _ => ⟨rfl, rfl, rfl, fun _ => rfl⟩) (by simp) (by simp [decode32, maj06])
theorem lde {l g b d} : GivenBack (.lde l g b d) := of_word rfl rfl (by simp) (by simp [decode32, maj06])
theorem ldf {l g b d} : GivenBack (.ldf l g b d) := of_word rfl rfl (by simp) (by simp [decode32, maj06])
theorem stf {g b d} : GivenBack (.stf g b d) := of_word rfl rfl (by simp) (by simp [decode32, maj06])
theorem stff {g b d} : GivenBack (.stff g b d) := of_word rfl rfl (by simp) (by simp [decode32, maj06])
theorem feq {l g b d} : GivenBack (.feq l g b d) := of_word rfl rfl (by simp) (by simp [decode32, maj06])
theorem feclr {g b} : GivenBack (.feclr g b) := of_word rfl rfl (by simp) (by simp [decode32, maj06])
theorem ldbIdx {rx i l g b d} : GivenBack (.ldbIdx rx i l g b d) :=
  of_access (f := (.ldbIdx · i l g b d)) (fun _ => ⟨rfl, rfl, rfl, fun _ => rfl⟩) (by simp) (by simp [decode32, maj06])
theorem ldbuIdx {rx i l g b d} : GivenBack (.ldbuIdx rx i l g b d) :=
  of_access (f := (.ldbuIdx · i l g b d)) (fun _ => ⟨rfl, rfl, rfl, fun _ => rfl⟩) (by simp) (by simp [decode32, maj06])
theorem ldhIdx {rx i l g b d} : GivenBack (.ldhIdx rx i l g b d) :=
  of_access (f := (.ldhIdx · i l g b d)) (fun _ => ⟨rfl, rfl, rfl, fun _ => rfl⟩) (by simp) (by simp [decode32, maj06])
theorem ldhuIdx {rx i l g b d} : GivenBack (.ldhuIdx rx i l g b d) :=
  of_access (f := (.ldhuIdx · i l g b d)) (fun _ => ⟨rfl, rfl, rfl, fun _ => rfl⟩) (by simp) (by simp [decode32, maj06])
theorem ldwIdx {rx i l g b d} : GivenBack (.ldwIdx rx i l g b d) :=
  of_access (f := (.ldwIdx · i l g b d)) (fun _ => ⟨rfl, rfl, rfl, fun _ => rfl⟩) (by simp) (by simp [decode32, maj06])
theorem ldwuIdx {rx i l g b d} : GivenBack (.ldwuIdx rx i l g b d) :=
  of_access (f := (.ldwuIdx · i l g b d)) (fun _ => ⟨rfl, rfl, rfl, fun _ => rfl⟩) (by simp) (by simp [decode32, maj06])
theorem lddIdx {rx i l g b d} : GivenBack (.lddIdx rx i l g b d) :=
  of_access (f := (.lddIdx · i l g b d)) (fun _ => ⟨rfl, rfl, rfl, fun _ => rfl⟩) (by simp) (by simp [decode32, maj06])
theorem stbIdx {rx i g b d} : GivenBack (.stbIdx rx i g b d) :=
  of_access (f := (.stbIdx · i g b d)) (fun _ => ⟨rfl, rfl, rfl, fun _ => rfl⟩) (by simp) (by simp [decode32, maj06])
theorem sthIdx {rx i g b d} : GivenBack (.sthIdx rx i g b d) :=
  of_access (f := (.sthIdx · i g b d)) (fun _ => ⟨rfl, rfl, rfl, fun _ => rfl⟩) (by simp) (by simp [decode32, maj06])
theorem stwIdx {rx i g b d} : GivenBack (.stwIdx rx i g b d) :=
  of_access (f := (.stwIdx · i g b d)) (fun _ => ⟨rfl, rfl, rfl, fun _ => rfl⟩) (by simp) (by simp [decode32, maj06])
theorem stdIdx {rx i g b d} : GivenBack (.stdIdx rx i g b d) :=
  of_access (f := (.stdIdx · i g b d)) (fun _ => ⟨rfl, rfl, rfl, fun _ => rfl⟩) (by simp) (by simp [decode32, maj06])

/-! ## Major 0x07: atomics -/

theorem amoadd {rx l b g a d} : GivenBack (.amoadd rx l b g a d) :=
  of_access (f := (.amoadd · l b g a d)) (fun _ => ⟨rfl, rfl, rfl, fun _ => rfl⟩) (by simp) (by simp [decode32, maj07])
theorem amoand {rx l b g a d} : GivenBack (.amoand rx l b g a d) :=
  of_access (f := (.amoand · l b g a d)) (fun _ => ⟨rfl, rfl, rfl, fun _ => rfl⟩) (by simp) (by simp [decode32, maj07])
theorem amoor {rx l b g a d} : GivenBack (.amoor rx l b g a d) :=
  of_access (f := (.amoor · l b g a d)) (fun _ => ⟨rfl, rfl, rfl, fun _ => rfl⟩) (by simp) (by simp [decode32, maj07])
theorem amoxor {rx l b g a d} : GivenBack (.amoxor rx l b g a d) :=
  of_access (f := (.amoxor · l b g a d)) (fun _ => ⟨rfl, rfl, rfl, fun _ => rfl⟩) (by simp) (by simp [decode32, maj07])
theorem amomin {rx l b g a d} : GivenBack (.amomin rx l b g a d) :=
  of_access (f := (.amomin · l b g a d)) (fun _ => ⟨rfl, rfl, rfl, fun _ => rfl⟩) (by simp) (by simp [decode32, maj07])
theorem amomax {rx l b g a d} : GivenBack (.amomax rx l b g a d) :=
  of_access (f := (.amomax · l b g a d)) (fun _ => ⟨rfl, rfl, rfl, fun _ => rfl⟩) (by simp) (by simp [decode32, maj07])
theorem amoswp {rx l b g a d} : GivenBack (.amoswp rx l b g a d) :=
  of_access (f := (.amoswp · l b g a d)) (fun _ => ⟨rfl, rfl, rfl, fun _ => rfl⟩) (by simp) (by simp [decode32, maj07])
theorem amocas {rx l b g a d} : GivenBack (.amocas rx l b g a d) :=
  of_access (f := (.amocas · l b g a d)) (fun _ => ⟨rfl, rfl, rfl, fun _ => rfl⟩) (by simp) (by simp [decode32, maj07])
theorem amofaddS {rx l b g a d} : GivenBack (.amofaddS rx l b g a d) :=
  of_access (f := (.amofaddS · l b g a d)) (fun _ => ⟨rfl, rfl, rfl, fun _ => rfl⟩) (by simp) (by simp [decode32, maj07])
theorem amofaddD {rx l b g a d} : GivenBack (.amofaddD rx l b g a d) :=
  of_access (f := (.amofaddD · l b g a d)) (fun _ => ⟨rfl, rfl, rfl, fun _ => rfl⟩) (by simp) (by simp [decode32, maj07])

/-! ## Major 0x08: remote -/

theorem get {l e k g a d} : GivenBack (.get l e k g a d) := of_word rfl rfl (by simp) (by simp [decode32, maj08])
theorem put {l e k g a d} : GivenBack (.put l e k g a d) := of_word rfl rfl (by simp) (by simp [decode32, maj08])
theorem ramo {l o g a d} : GivenBack (.ramo l o g a d) := of_word rfl rfl (by simp) (by simp [decode32, maj08])
theorem rsem {l k a d} : GivenBack (.rsem l k a d) := of_word rfl rfl (by simp) (by simp [decode32, maj08])

/-! ## Major 0x09: bank-agent commands -/

theorem nadd {v g a d} : GivenBack (.nadd v g a d) := of_word rfl rfl (by simp) (by simp [decode32, maj09])
theorem nmax {v g a d} : GivenBack (.nmax v g a d) := of_word rfl rfl (by simp) (by simp [decode32, maj09])
theorem nred {v g a d} : GivenBack (.nred v g a d) := of_word rfl rfl (by simp) (by simp [decode32, maj09])
theorem naxpy {v g a d} : GivenBack (.naxpy v g a d) := of_word rfl rfl (by simp) (by simp [decode32, maj09])
theorem nfill {b g a d} : GivenBack (.nfill b g a d) := of_word rfl rfl (by simp) (by simp [decode32, maj09])
theorem namo {l b g a d} : GivenBack (.namo l b g a d) := of_word rfl rfl (by simp) (by simp [decode32, maj09])

/-! ## Major 0x0A: fences -/

theorem fence {k s} : GivenBack (.fence k s) := of_word rfl rfl (by simp) (by simp [decode32, maj0A])
theorem fenceb {s} : GivenBack (.fenceb s) := of_word rfl rfl (by simp) (by simp [decode32, maj0A])

/-! ## Major 0x0B: conditional branches -/

theorem beq {o b a} : GivenBack (.beq o b a) := of_word rfl rfl (by simp) (by simp [decode32, maj0B])
theorem bne {o b a} : GivenBack (.bne o b a) := of_word rfl rfl (by simp) (by simp [decode32, maj0B])
theorem blt {o b a} : GivenBack (.blt o b a) := of_word rfl rfl (by simp) (by simp [decode32, maj0B])
theorem bge {o b a} : GivenBack (.bge o b a) := of_word rfl rfl (by simp) (by simp [decode32, maj0B])
theorem bltu {o b a} : GivenBack (.bltu o b a) := of_word rfl rfl (by simp) (by simp [decode32, maj0B])
theorem bgeu {o b a} : GivenBack (.bgeu o b a) := of_word rfl rfl (by simp) (by simp [decode32, maj0B])
theorem bz {o a} : GivenBack (.bz o a) := of_word rfl rfl (by simp) (by simp [decode32, maj0B])
theorem bnz {o a} : GivenBack (.bnz o a) := of_word rfl rfl (by simp) (by simp [decode32, maj0B])

/-! ## Major 0x0C: jumps, calls, returns, loops -/

theorem br {o} : GivenBack (.br o) := of_word rfl rfl (by simp) (by simp [decode32, maj0C])
theorem callr {a f} : GivenBack (.callr a f) := of_word rfl rfl (by simp) (by simp [decode32, maj0C])
theorem ret : GivenBack (.ret) := of_word rfl rfl (by simp) (by simp [decode32, maj0C])
theorem jmp {a} : GivenBack (.jmp a) := of_word rfl rfl (by simp) (by simp [decode32, maj0C])
theorem loop {o a} : GivenBack (.loop o a) := of_word rfl rfl (by simp) (by simp [decode32, maj0C])
theorem nop : GivenBack (.nop) := of_word rfl rfl (by simp) (by simp [decode32, maj0C])
/-- R127: F is at least 8, where the other instructions of the major have numbers below 6. -/
theorem call {o f} : GivenBack (.call o f) := by
  refine of_wellFormed_word rfl rfl (by simp) fun hw => ?_
  have hf : 8 ≤ f.toNat ∧ f.toNat ≤ 24 := of_decide_eq_true hw
  simp only [decode32, maj0C, extractLsb'_append_low, extractLsb'_append_high, BitVec.extractLsb'_eq_self, BitVec.reduceExtractLsb',
    BitVec.reduceToNat, Nat.reduceAdd, Nat.reduceSub, Nat.reduceLeDiff, Nat.sub_self, Nat.le_refl, Nat.zero_add]
  split
  any_goals omega
  exact if_pos hf

/-! ## Major 0x0D: vector integer -/

theorem viadd {t l m b a d} : GivenBack (.viadd t l m b a d) := of_word rfl rfl (by simp) (by simp [decode32, maj0D])
theorem visub {t l m b a d} : GivenBack (.visub t l m b a d) := of_word rfl rfl (by simp) (by simp [decode32, maj0D])
theorem vimul {t l m b a d} : GivenBack (.vimul t l m b a d) := of_word rfl rfl (by simp) (by simp [decode32, maj0D])
theorem vimin {t l m b a d} : GivenBack (.vimin t l m b a d) := of_word rfl rfl (by simp) (by simp [decode32, maj0D])
theorem vimax {t l m b a d} : GivenBack (.vimax t l m b a d) := of_word rfl rfl (by simp) (by simp [decode32, maj0D])
theorem vand {t l m b a d} : GivenBack (.vand t l m b a d) := of_word rfl rfl (by simp) (by simp [decode32, maj0D])
theorem vor {t l m b a d} : GivenBack (.vor t l m b a d) := of_word rfl rfl (by simp) (by simp [decode32, maj0D])
theorem vxor {t l m b a d} : GivenBack (.vxor t l m b a d) := of_word rfl rfl (by simp) (by simp [decode32, maj0D])
theorem vshl {t l m b a d} : GivenBack (.vshl t l m b a d) := of_word rfl rfl (by simp) (by simp [decode32, maj0D])
theorem vshr {t l m b a d} : GivenBack (.vshr t l m b a d) := of_word rfl rfl (by simp) (by simp [decode32, maj0D])
theorem vsra {t l m b a d} : GivenBack (.vsra t l m b a d) := of_word rfl rfl (by simp) (by simp [decode32, maj0D])
theorem vcmpeq {t l m b a d} : GivenBack (.vcmpeq t l m b a d) := of_word rfl rfl (by simp) (by simp [decode32, maj0D])
theorem vcmplt {t l m b a d} : GivenBack (.vcmplt t l m b a d) := of_word rfl rfl (by simp) (by simp [decode32, maj0D])
theorem vcmple {t l m b a d} : GivenBack (.vcmple t l m b a d) := of_word rfl rfl (by simp) (by simp [decode32, maj0D])

/-! ## Major 0x0E: vector FP -/

theorem vadd {t l m b a d} : GivenBack (.vadd t l m b a d) := of_word rfl rfl (by simp) (by simp [decode32, maj0E])
theorem vsub {t l m b a d} : GivenBack (.vsub t l m b a d) := of_word rfl rfl (by simp) (by simp [decode32, maj0E])
theorem vmul {t l m b a d} : GivenBack (.vmul t l m b a d) := of_word rfl rfl (by simp) (by simp [decode32, maj0E])
theorem vfma {t l m b a d} : GivenBack (.vfma t l m b a d) := of_word rfl rfl (by simp) (by simp [decode32, maj0E])
theorem vfms {t l m b a d} : GivenBack (.vfms t l m b a d) := of_word rfl rfl (by simp) (by simp [decode32, maj0E])
theorem vmin {t l m b a d} : GivenBack (.vmin t l m b a d) := of_word rfl rfl (by simp) (by simp [decode32, maj0E])
theorem vmax {t l m b a d} : GivenBack (.vmax t l m b a d) := of_word rfl rfl (by simp) (by simp [decode32, maj0E])
theorem vabs {t l m a d} : GivenBack (.vabs t l m a d) := of_word rfl rfl (by simp) (by simp [decode32, maj0E])
theorem vneg {t l m a d} : GivenBack (.vneg t l m a d) := of_word rfl rfl (by simp) (by simp [decode32, maj0E])
theorem vrsqe {t l m a d} : GivenBack (.vrsqe t l m a d) := of_word rfl rfl (by simp) (by simp [decode32, maj0E])
theorem vrcpe {t l m a d} : GivenBack (.vrcpe t l m a d) := of_word rfl rfl (by simp) (by simp [decode32, maj0E])
theorem vexp2e {t l m a d} : GivenBack (.vexp2e t l m a d) := of_word rfl rfl (by simp) (by simp [decode32, maj0E])
theorem vlog2e {t l m a d} : GivenBack (.vlog2e t l m a d) := of_word rfl rfl (by simp) (by simp [decode32, maj0E])

/-! ## Major 0x0F: vector conversion and quantisation -/

theorem vcvt {c l m a d} : GivenBack (.vcvt c l m a d) := of_word rfl rfl (by simp) (by simp [decode32, maj0F])
theorem vquant {s l m r t a d} : GivenBack (.vquant s l m r t a d) := of_word rfl rfl (by simp) (by simp [decode32, maj0F])
theorem vdeq {s l m h a d} : GivenBack (.vdeq s l m h a d) := of_word rfl rfl (by simp) (by simp [decode32, maj0F])

/-! ## Major 0x10: vector permute, mask and reduce -/

theorem mand {l b a d} : GivenBack (.mand l b a d) := of_word rfl rfl (by simp) (by simp [decode32, maj10])
theorem mor {l b a d} : GivenBack (.mor l b a d) := of_word rfl rfl (by simp) (by simp [decode32, maj10])
theorem mnot {l a d} : GivenBack (.mnot l a d) := of_word rfl rfl (by simp) (by simp [decode32, maj10])
theorem mpop {d l b} : GivenBack (.mpop d l b) := of_word rfl rfl (by simp) (by simp [decode32, maj10])
theorem vmov {l m z a d} : GivenBack (.vmov l m z a d) := of_word rfl rfl (by simp) (by simp [decode32, maj10])
theorem vbcast {a l m z d} : GivenBack (.vbcast a l m z d) := of_word rfl rfl (by simp) (by simp [decode32, maj10])
theorem vextr {w l e b} : GivenBack (.vextr w l e b) := of_word rfl rfl (by simp) (by simp [decode32, maj10])
theorem vins {w l e b} : GivenBack (.vins w l e b) := of_word rfl rfl (by simp) (by simp [decode32, maj10])
theorem vperm {z l m b a d} : GivenBack (.vperm z l m b a d) := of_word rfl rfl (by simp) (by simp [decode32, maj10])
theorem vslide {w l b d} : GivenBack (.vslide w l b d) := of_word rfl rfl (by simp) (by simp [decode32, maj10])
theorem vsel {z l m b a d} : GivenBack (.vsel z l m b a d) := of_word rfl rfl (by simp) (by simp [decode32, maj10])
theorem vredsum {w l m b t} : GivenBack (.vredsum w l m b t) := of_word rfl rfl (by simp) (by simp [decode32, maj10])
theorem vredmax {w l m b t} : GivenBack (.vredmax w l m b t) := of_word rfl rfl (by simp) (by simp [decode32, maj10])
theorem vredmin {w l m b t} : GivenBack (.vredmin w l m b t) := of_word rfl rfl (by simp) (by simp [decode32, maj10])

/-! ## Major 0x11: vector memory -/

theorem vld {rx l m g a d} : GivenBack (.vld rx l m g a d) :=
  of_access (f := (.vld · l m g a d)) (fun _ => ⟨rfl, rfl, rfl, fun _ => rfl⟩) (by simp) (by simp [decode32, maj11])
theorem vlds {rx l i m g a d} : GivenBack (.vlds rx l i m g a d) :=
  of_access (f := (.vlds · l i m g a d)) (fun _ => ⟨rfl, rfl, rfl, fun _ => rfl⟩) (by simp) (by simp [decode32, maj11])
theorem vgath {rx l i m g a d} : GivenBack (.vgath rx l i m g a d) :=
  of_access (f := (.vgath · l i m g a d)) (fun _ => ⟨rfl, rfl, rfl, fun _ => rfl⟩) (by simp) (by simp [decode32, maj11])
theorem vst {rx m g a d} : GivenBack (.vst rx m g a d) :=
  of_access (f := (.vst · m g a d)) (fun _ => ⟨rfl, rfl, rfl, fun _ => rfl⟩) (by simp) (by simp [decode32, maj11])
theorem vsts {rx i m g a d} : GivenBack (.vsts rx i m g a d) :=
  of_access (f := (.vsts · i m g a d)) (fun _ => ⟨rfl, rfl, rfl, fun _ => rfl⟩) (by simp) (by simp [decode32, maj11])
theorem vscat {rx i m g a d} : GivenBack (.vscat rx i m g a d) :=
  of_access (f := (.vscat · i m g a d)) (fun _ => ⟨rfl, rfl, rfl, fun _ => rfl⟩) (by simp) (by simp [decode32, maj11])

/-! ## Major 0x12: matrix -/

theorem mcfg {l b t} : GivenBack (.mcfg l b t) := of_word rfl rfl (by simp) (by simp [decode32, maj12])
theorem mload {l k b t} : GivenBack (.mload l k b t) := of_word rfl rfl (by simp) (by simp [decode32, maj12])
theorem mswap {l} : GivenBack (.mswap l) := of_word rfl rfl (by simp) (by simp [decode32, maj12])
theorem mstep {l m b v t} : GivenBack (.mstep l m b v t) := of_word rfl rfl (by simp) (by simp [decode32, maj12])
theorem mzero {l t} : GivenBack (.mzero l t) := of_word rfl rfl (by simp) (by simp [decode32, maj12])
theorem mdrain {l r f b v t} : GivenBack (.mdrain l r f b v t) := of_word rfl rfl (by simp) (by simp [decode32, maj12])
theorem mflags {l b} : GivenBack (.mflags l b) := of_word rfl rfl (by simp) (by simp [decode32, maj12])
theorem msave {l k b t} : GivenBack (.msave l k b t) := of_word rfl rfl (by simp) (by simp [decode32, maj12])
theorem mrest {l k b t} : GivenBack (.mrest l k b t) := of_word rfl rfl (by simp) (by simp [decode32, maj12])

/-! ## Major 0x13: transfer engine -/

theorem tcopy {k c b a} : GivenBack (.tcopy k c b a) := of_word rfl rfl (by simp) (by simp [decode32, maj13])
theorem tgath {k c b a} : GivenBack (.tgath k c b a) := of_word rfl rfl (by simp) (by simp [decode32, maj13])
theorem tscat {k c b a} : GivenBack (.tscat k c b a) := of_word rfl rfl (by simp) (by simp [decode32, maj13])
theorem tfill {k c b a} : GivenBack (.tfill k c b a) := of_word rfl rfl (by simp) (by simp [decode32, maj13])
theorem ego : GivenBack (.ego) := of_word rfl rfl (by simp) (by simp [decode32, maj13])
theorem estat {d} : GivenBack (.estat d) := of_word rfl rfl (by simp) (by simp [decode32, maj13])
theorem ecan : GivenBack (.ecan) := of_word rfl rfl (by simp) (by simp [decode32, maj13])

/-! ## Major 0x14: semaphores -/

theorem semadd {k a} : GivenBack (.semadd k a) := of_word rfl rfl (by simp) (by simp [decode32, maj14])
theorem semset {k a} : GivenBack (.semset k a) := of_word rfl rfl (by simp) (by simp [decode32, maj14])
theorem semrd {k d} : GivenBack (.semrd k d) := of_word rfl rfl (by simp) (by simp [decode32, maj14])
theorem semwait {k a} : GivenBack (.semwait k a) := of_word rfl rfl (by simp) (by simp [decode32, maj14])

/-! ## Major 0x15: barriers and group reduction -/

theorem bar {k} : GivenBack (.bar k) := of_word rfl rfl (by simp) (by simp [decode32, maj15])
theorem barar {k d} : GivenBack (.barar k d) := of_word rfl rfl (by simp) (by simp [decode32, maj15])
theorem barwt {k a} : GivenBack (.barwt k a) := of_word rfl rfl (by simp) (by simp [decode32, maj15])
theorem gred {o a d} : GivenBack (.gred o a d) := of_word rfl rfl (by simp) (by simp [decode32, maj15])

/-! ## Major 0x16: messaging -/

theorem send {b a d} : GivenBack (.send b a d) := of_word rfl rfl (by simp) (by simp [decode32, maj16])
theorem sendam {b a d} : GivenBack (.sendam b a d) := of_word rfl rfl (by simp) (by simp [decode32, maj16])
theorem sendamR {l b a d} : GivenBack (.sendamR l b a d) := of_word rfl rfl (by simp) (by simp [decode32, maj16])
theorem mbxst {d} : GivenBack (.mbxst d) := of_word rfl rfl (by simp) (by simp [decode32, maj16])
theorem mbxstClr {d} : GivenBack (.mbxstClr d) := of_word rfl rfl (by simp) (by simp [decode32, maj16])
theorem waitfAll {b d} : GivenBack (.waitfAll b d) := of_word rfl rfl (by simp) (by simp [decode32, maj16])
theorem waitfAny {b d} : GivenBack (.waitfAny b d) := of_word rfl rfl (by simp) (by simp [decode32, maj16])
theorem backoff {d} : GivenBack (.backoff d) := of_word rfl rfl (by simp) (by simp [decode32, maj16])

/-! ## Major 0x17: task and queue -/

theorem tqpush {k b a d} : GivenBack (.tqpush k b a d) := of_word rfl rfl (by simp) (by simp [decode32, maj17])
theorem tqdone {a d} : GivenBack (.tqdone a d) := of_word rfl rfl (by simp) (by simp [decode32, maj17])
theorem tqdoneT {a d} : GivenBack (.tqdoneT a d) := of_word rfl rfl (by simp) (by simp [decode32, maj17])
theorem succok : GivenBack (.succok) := of_word rfl rfl (by simp) (by simp [decode32, maj17])
theorem waitpred : GivenBack (.waitpred) := of_word rfl rfl (by simp) (by simp [decode32, maj17])
theorem yield : GivenBack (.yield) := of_word rfl rfl (by simp) (by simp [decode32, maj17])
theorem exit : GivenBack (.exit) := of_word rfl rfl (by simp) (by simp [decode32, maj17])

/-! ## Major 0x18: collective launch -/

theorem colld {k b a} : GivenBack (.colld k b a) := of_word rfl rfl (by simp) (by simp [decode32, maj18])
theorem colrun {k a} : GivenBack (.colrun k a) := of_word rfl rfl (by simp) (by simp [decode32, maj18])
theorem colwt {d} : GivenBack (.colwt d) := of_word rfl rfl (by simp) (by simp [decode32, maj18])
theorem colst {d} : GivenBack (.colst d) := of_word rfl rfl (by simp) (by simp [decode32, maj18])
theorem colstAbort {d} : GivenBack (.colstAbort d) := of_word rfl rfl (by simp) (by simp [decode32, maj18])

/-! ## Major 0x19: control registers -/

theorem crd {i d} : GivenBack (.crd i d) := by
  refine of_wellFormed_word rfl rfl (by simp) fun hw => ?_
  have hi : i.toNat ≠ 0 ∧ i.toNat ≠ 0x030 := by simpa [Instr.wellFormed, ← BitVec.toNat_inj] using hw
  simp only [decode32, maj19, extractLsb'_append_low, extractLsb'_append_high, BitVec.extractLsb'_eq_self, BitVec.reduceExtractLsb',
    BitVec.reduceToNat, Nat.reduceAdd, Nat.reduceSub, Nat.reduceLeDiff, Nat.sub_self, Nat.le_refl, Nat.zero_add]
  split
  any_goals omega
  rfl
theorem crdStat {d} : GivenBack (.crdStat d) := of_word rfl rfl (by simp) (by simp [decode32, maj19])
theorem crdTime {d} : GivenBack (.crdTime d) := of_word rfl rfl (by simp) (by simp [decode32, maj19])
theorem cwr {i a} : GivenBack (.cwr i a) := by
  refine of_wellFormed_word rfl rfl (by simp) fun hw => ?_
  have hi : ((((i.toNat ≠ 0 ∧ i.toNat ≠ 0x004) ∧ i.toNat ≠ 0x005) ∧ i.toNat ≠ 0x006) ∧ i.toNat ≠ 0x031)
      ∧ i.toNat ≠ 0x060 := by
    simpa [Instr.wellFormed, ← BitVec.toNat_inj] using hw
  simp only [decode32, maj19, extractLsb'_append_low, extractLsb'_append_high, BitVec.extractLsb'_eq_self, BitVec.reduceExtractLsb',
    BitVec.reduceToNat, Nat.reduceAdd, Nat.reduceSub, Nat.reduceLeDiff, Nat.sub_self, Nat.le_refl, Nat.zero_add]
  split
  any_goals omega
  rfl
theorem cwrStat {a} : GivenBack (.cwrStat a) := of_word rfl rfl (by simp) (by simp [decode32, maj19])
theorem cwrTdp {a} : GivenBack (.cwrTdp a) := of_word rfl rfl (by simp) (by simp [decode32, maj19])
theorem cwrWp {a} : GivenBack (.cwrWp a) := of_word rfl rfl (by simp) (by simp [decode32, maj19])
theorem cwrVp {a} : GivenBack (.cwrVp a) := of_word rfl rfl (by simp) (by simp [decode32, maj19])
theorem cwrGtoff {a} : GivenBack (.cwrGtoff a) := of_word rfl rfl (by simp) (by simp [decode32, maj19])
theorem cwrRot {a} : GivenBack (.cwrRot a) := of_word rfl rfl (by simp) (by simp [decode32, maj19])

/-! ## Major 0x1A: traps and system -/

theorem trap {c} : GivenBack (.trap c) := of_word rfl rfl (by simp) (by simp [decode32, maj1A])
theorem brk {c} : GivenBack (.brk c) := of_word rfl rfl (by simp) (by simp [decode32, maj1A])
theorem halt : GivenBack (.halt) := of_word rfl rfl (by simp) (by simp [decode32, maj1A])
theorem wfm {a} : GivenBack (.wfm a) := of_word rfl rfl (by simp) (by simp [decode32, maj1A])

/-! ## Major 0x1B: privileged system -/

theorem eret {b a} : GivenBack (.eret b a) := of_word rfl rfl (by simp) (by simp [decode32, maj1B])
theorem resume {a} : GivenBack (.resume a) := of_word rfl rfl (by simp) (by simp [decode32, maj1B])
theorem preempt {a d} : GivenBack (.preempt a d) := of_word rfl rfl (by simp) (by simp [decode32, maj1B])
theorem ctxld {b a} : GivenBack (.ctxld b a) := of_word rfl rfl (by simp) (by simp [decode32, maj1B])
theorem tlbinv {b a} : GivenBack (.tlbinv b a) := of_word rfl rfl (by simp) (by simp [decode32, maj1B])
theorem segld {b a k} : GivenBack (.segld b a k) := of_word rfl rfl (by simp) (by simp [decode32, maj1B])
theorem rotset {a} : GivenBack (.rotset a) := of_word rfl rfl (by simp) (by simp [decode32, maj1B])

end GivenBack

theorem givenBack (i : Instr) : GivenBack i := by
  cases i with
  | add => exact .add | sub => exact .sub | mul => exact .mul | mulh => exact .mulh
  | mulhu => exact .mulhu | div => exact .div | divu => exact .divu | rem => exact .rem
  | remu => exact .remu | and => exact .and | or => exact .or | xor => exact .xor
  | andn => exact .andn | orn => exact .orn | shl => exact .shl | shr => exact .shr
  | sra => exact .sra | ror => exact .ror | min => exact .min | max => exact .max
  | minu => exact .minu | maxu => exact .maxu | cmpeq => exact .cmpeq | cmplt => exact .cmplt
  | cmpltu => exact .cmpltu | sel => exact .sel | extr => exact .extr | insb => exact .insb
  | clz => exact .clz | ctz => exact .ctz | popc => exact .popc | brev => exact .brev
  | bswap => exact .bswap | addi => exact .addi | movi => exact .movi | shli => exact .shli
  | shri => exact .shri | srai => exact .srai | cmpi => exact .cmpi | lih => exact .lih
  | lea => exact .lea | mapr => exact .mapr | addpc => exact .addpc | sgrd => exact .sgrd
  | ldl => exact .ldl | beq => exact .beq | bne => exact .bne | blt => exact .blt
  | bge => exact .bge | bltu => exact .bltu | bgeu => exact .bgeu | bz => exact .bz
  | bnz => exact .bnz | br => exact .br | callr => exact .callr | ret => exact .ret
  | jmp => exact .jmp | loop => exact .loop | nop => exact .nop | call => exact .call
  | ldd16 => exact .ldd16 | std16 => exact .std16 | addiMove16 => exact .addiMove16 | addi16 => exact .addi16
  | movi16 => exact .movi16 | shli16 => exact .shli16 | shri16 => exact .shri16 | add16 => exact .add16
  | sub16 => exact .sub16 | and16 => exact .and16 | or16 => exact .or16 | bz16 => exact .bz16
  | bnz16 => exact .bnz16 | br16 => exact .br16 | hret => exact .hret | ret16 => exact .ret16
  | nop16 => exact .nop16 | fadd => exact .fadd | fsub => exact .fsub | fmul => exact .fmul
  | fma => exact .fma | fms => exact .fms | fnma => exact .fnma | fdiv => exact .fdiv
  | fsqrt => exact .fsqrt | frsqe => exact .frsqe | frcpe => exact .frcpe | fmin => exact .fmin
  | fmax => exact .fmax | fcmpeq => exact .fcmpeq | fcmplt => exact .fcmplt | fcmple => exact .fcmple
  | fclass => exact .fclass | fcvt => exact .fcvt | fcvti => exact .fcvti | icvtf => exact .icvtf
  | fabs => exact .fabs | fneg => exact .fneg | fsgnj => exact .fsgnj | ldb => exact .ldb
  | ldh => exact .ldh | ldw => exact .ldw | ldd => exact .ldd | stb => exact .stb
  | sth => exact .sth | stw => exact .stw | std => exact .std | ldAcq => exact .ldAcq
  | lduAcq => exact .lduAcq | stRel => exact .stRel | ldbu => exact .ldbu | ldhu => exact .ldhu
  | ldwu => exact .ldwu | lde => exact .lde | ldf => exact .ldf | stf => exact .stf
  | stff => exact .stff | feq => exact .feq | feclr => exact .feclr | ldbIdx => exact .ldbIdx
  | ldbuIdx => exact .ldbuIdx | ldhIdx => exact .ldhIdx | ldhuIdx => exact .ldhuIdx | ldwIdx => exact .ldwIdx
  | ldwuIdx => exact .ldwuIdx | lddIdx => exact .lddIdx | stbIdx => exact .stbIdx | sthIdx => exact .sthIdx
  | stwIdx => exact .stwIdx | stdIdx => exact .stdIdx | amoadd => exact .amoadd | amoand => exact .amoand
  | amoor => exact .amoor | amoxor => exact .amoxor | amomin => exact .amomin | amomax => exact .amomax
  | amoswp => exact .amoswp | amocas => exact .amocas | amofaddS => exact .amofaddS | amofaddD => exact .amofaddD
  | get => exact .get | put => exact .put | ramo => exact .ramo | rsem => exact .rsem
  | nadd => exact .nadd | nmax => exact .nmax | nred => exact .nred | naxpy => exact .naxpy
  | nfill => exact .nfill | namo => exact .namo | fence => exact .fence | fenceb => exact .fenceb
  | vld => exact .vld | vlds => exact .vlds | vgath => exact .vgath | vst => exact .vst
  | vsts => exact .vsts | vscat => exact .vscat | viadd => exact .viadd | visub => exact .visub
  | vimul => exact .vimul | vimin => exact .vimin | vimax => exact .vimax | vand => exact .vand
  | vor => exact .vor | vxor => exact .vxor | vshl => exact .vshl | vshr => exact .vshr
  | vsra => exact .vsra | vcmpeq => exact .vcmpeq | vcmplt => exact .vcmplt | vcmple => exact .vcmple
  | vadd => exact .vadd | vsub => exact .vsub | vmul => exact .vmul | vfma => exact .vfma
  | vfms => exact .vfms | vmin => exact .vmin | vmax => exact .vmax | vabs => exact .vabs
  | vneg => exact .vneg | vrsqe => exact .vrsqe | vrcpe => exact .vrcpe | vexp2e => exact .vexp2e
  | vlog2e => exact .vlog2e | vcvt => exact .vcvt | vquant => exact .vquant | vdeq => exact .vdeq
  | mand => exact .mand | mor => exact .mor | mnot => exact .mnot | mpop => exact .mpop
  | vmov => exact .vmov | vbcast => exact .vbcast | vextr => exact .vextr | vins => exact .vins
  | vperm => exact .vperm | vslide => exact .vslide | vsel => exact .vsel | vredsum => exact .vredsum
  | vredmax => exact .vredmax | vredmin => exact .vredmin | mcfg => exact .mcfg | mload => exact .mload
  | mswap => exact .mswap | mstep => exact .mstep | mzero => exact .mzero | mdrain => exact .mdrain
  | mflags => exact .mflags | msave => exact .msave | mrest => exact .mrest | tcopy => exact .tcopy
  | tgath => exact .tgath | tscat => exact .tscat | tfill => exact .tfill | ego => exact .ego
  | estat => exact .estat | ecan => exact .ecan | semadd => exact .semadd | semset => exact .semset
  | semrd => exact .semrd | semwait => exact .semwait | bar => exact .bar | barar => exact .barar
  | barwt => exact .barwt | gred => exact .gred | send => exact .send | sendam => exact .sendam
  | sendamR => exact .sendamR | mbxst => exact .mbxst | mbxstClr => exact .mbxstClr | waitfAll => exact .waitfAll
  | waitfAny => exact .waitfAny | backoff => exact .backoff | tqpush => exact .tqpush | tqdone => exact .tqdone
  | tqdoneT => exact .tqdoneT | succok => exact .succok | waitpred => exact .waitpred | yield => exact .yield
  | exit => exact .exit | colld => exact .colld | colrun => exact .colrun | colwt => exact .colwt
  | colst => exact .colst | colstAbort => exact .colstAbort | crd => exact .crd | crdStat => exact .crdStat
  | crdTime => exact .crdTime | cwr => exact .cwr | cwrStat => exact .cwrStat | cwrTdp => exact .cwrTdp
  | cwrWp => exact .cwrWp | cwrVp => exact .cwrVp | cwrGtoff => exact .cwrGtoff | cwrRot => exact .cwrRot
  | trap => exact .trap | brk => exact .brk | halt => exact .halt | wfm => exact .wfm
  | eret => exact .eret | resume => exact .resume | preempt => exact .preempt | ctxld => exact .ctxld
  | tlbinv => exact .tlbinv | segld => exact .segld | rotset => exact .rotset
  | _ => exact .of_not_decodable rfl

/-- Settles O55: the decoder reads each field of a code where the encoder put it, and finds the reserved ones zero. -/
theorem decodeEncode : Obligations.DecodeEncode := fun i l hi => givenBack i hi l

end Sys2Proof.Proofs

namespace Sys2Proof.Proofs

open Sys2Proof Sys2Proof.Machine Sys2Proof.Laws

/-! ## Scalar accesses -/

/-- Settles O6: every scalar load is a load form, and each of its addressing modes is an exact offset. -/
theorem scalarLoadsIssue : Obligations.ScalarLoadsIssue := by
  refine ⟨?_, ?_, ?_⟩
  · intro rx l g b d s x ok go
    have disp (p : BitVec 6) (n : Nat) (h : ok n (x + p.toInt * n) [b.toNat]) :
        Host.Outcome.next (s.loadDisp rx p l g b d n) = go n true (x + p.toInt * n) :=
      loadForm_go (m := loadOf rx g.toNat n true) h
    have zero (n : Nat) (h : ok n x [b.toNat]) : Host.Outcome.next (s.loadZero rx l g b d n) = go n false x :=
      loadForm_go (m := loadOf rx g.toNat n false) h
    have idx (i : BitVec 4) (n : Nat) (sg : Bool) (h : ok n (offIdx b.toNat i.toNat n s) [b.toNat, i.toNat]) :
        Host.Outcome.next (s.loadIdx rx i l g b d n sg) = go n sg (offIdx b.toNat i.toNat n s) :=
      loadForm_go (m := loadOf rx g.toNat n sg) h
    exact ⟨fun p => ⟨disp p 1, disp p 2, disp p 4, disp p 8⟩, zero 1, zero 2, zero 4, fun i =>
      ⟨fun h => ⟨idx i 1 true h, idx i 1 false h⟩, fun h => ⟨idx i 2 true h, idx i 2 false h⟩,
        fun h => ⟨idx i 4 true h, idx i 4 false h⟩, idx i 8 true⟩⟩
  · intro rx g l b d s k x h
    exact loadForm_go (m := { loadOf rx (compactSeg g) 8 true with ilen := withPrefix rx 2 }) h
  · intro l z g b d s x n h
    have acq (sg : Bool) := loadForm_go (m := { loadOf none g.toNat (sizeOfCode z) sg with acq := true }) (look := l.toNat)
      (off := offBase b.toNat) (data := noData) h
    exact ⟨acq true, acq false⟩

/-- R343: a store through the message window that does not reach the class table traps with cause 0x22. -/
theorem storeForm_trap {s : State} {m : MemForm} {regs srcs : List Nat} {off : State → Int} {data : State → PWord}
    (h : s.MayAccess m.rx m.seg m.size m.rights m.spaces regs srcs [] (off s)) (hs : ¬ s.TableOnly m.seg (off s)) :
    s.storeForm m regs srcs off data = s.raise m.ilen 0x22 (wordOfInt (off s)) := by
  obtain ⟨h1, h2, h3, h4, h5, h6, h7, h8⟩ := h
  have h8' : s.overlaps (s.seg m.seg).space ((s.seg m.seg).base.toNat + (off s).toNat) m.size [] = false := h8
  have hw : (s.seg m.seg).space = 6 ∧ (!s.priv ∨ (s.seg m.seg).base.toNat + (off s).toNat < 0x400) := by
    obtain ⟨hsp, hn⟩ := Classical.not_imp.1 hs
    refine ⟨hsp, ?_⟩
    by_cases hp : s.priv = true
    · exact .inr (Nat.not_le.1 fun ha => hn ⟨hp, ha⟩)
    · exact .inl (by simpa using hp)
  rw [State.storeForm, withOperands_go (by exact h1), State.withLimit, if_pos h2, withSpace_go h3, needCleans_go h4,
    memIssue_go h5 h6 h7 h8', if_pos hw]

/-- Settles O7: every scalar store is a store form; one through the message window reaches the class table or traps. -/
theorem scalarStoresIssue : Obligations.ScalarStoresIssue := by
  refine ⟨?_, ?_, ?_⟩
  · intro rx g b d s x ok go
    have disp (p : BitVec 6) (n : Nat) (h : ok n (x + p.toInt * n) [b.toNat]) :
        Host.Outcome.next (s.storeDisp rx p g b d n) = go n (x + p.toInt * n) :=
      storeForm_go (m := storeOf rx g.toNat n) h.1 h.2
    have idx (i : BitVec 4) (n : Nat) (h : ok n (offIdx b.toNat i.toNat n s) [b.toNat, i.toNat]) :
        Host.Outcome.next (s.storeIdx rx i g b d n) = go n (offIdx b.toNat i.toNat n s) :=
      storeForm_go (m := storeOf rx g.toNat n) h.1 h.2
    exact ⟨fun p => ⟨disp p 1, disp p 2, disp p 4, disp p 8⟩, fun i => ⟨idx i 1, idx i 2, idx i 4, idx i 8⟩, fun z h ht =>
      storeForm_go (m := { storeOf none g.toNat (sizeOfCode z) with rel := true }) h ht⟩
  · intro rx g k b d s j off h ht
    exact storeForm_go (m := { storeOf rx (compactSeg g) 8 with ilen := withPrefix rx 2 })
      (off := fun s => offBase b.toNat s + 8 * k.toNat) h ht
  · intro g p b d s off h ht
    exact congrArg Host.Outcome.next (storeForm_trap (m := storeOf none g.toNat 8) (off := offDisp b.toNat p 8) h ht)

end Sys2Proof.Proofs

namespace Sys2Proof.Proofs

open Sys2Proof Sys2Proof.Machine Sys2Proof.Laws

section
variable {s : State}

/-! ## Semaphore instructions -/

theorem withPool_go {f : State → State} (h : s.myCore.lea = s.me.lea) : s.withPool f = f s := if_pos h

/-- What a semaphore instruction comes to once its register may be read: it waits for the thread's accesses, traps on an amount
that is too large, or runs on. -/
theorem semOp_eq {a : Nat} {release : Bool} {f : State → Nat → State} (hp : s.myCore.lea = s.me.lea) (ho : s.Reads [a] [])
    (hb : (s.w a).bad = false) :
    s.semOp a release f = if release && !s.accessesDone false then s.forfeit
      else if 2 ^ 48 ≤ (s.w a).val.toNat then s.raise 4 0x06 (s.w a).val else f s (s.w a).val.toNat := by
  rw [State.semOp, withOperands_go (by exact ho), withPool_go hp, needClean_go hb]

theorem semOp_forfeit {a : Nat} {f : State → Nat → State} (hp : s.myCore.lea = s.me.lea) (ho : s.Reads [a] [])
    (hb : (s.w a).bad = false) (hd : s.accessesDone false = false) :
    Host.Outcome.next (s.semOp a true f) = (.next s.forfeit : Out1) := by
  rw [semOp_eq hp ho hb, hd]
  rfl

theorem semOp_trap {a : Nat} {release : Bool} {f : State → Nat → State} (hp : s.myCore.lea = s.me.lea) (ho : s.Reads [a] [])
    (hb : (s.w a).bad = false) (hd : s.accessesDone false = true) (hn : 2 ^ 48 ≤ (s.w a).val.toNat) :
    Host.Outcome.next (s.semOp a release f) = (.next (s.raise 4 0x06 (s.w a).val) : Out1) := by
  rw [semOp_eq hp ho hb, hd, if_neg (by simp), if_pos hn]

theorem semOp_go {a : Nat} {release : Bool} {f : State → Nat → State} (hp : s.myCore.lea = s.me.lea) (ho : s.Reads [a] [])
    (hb : (s.w a).bad = false) (hd : release = true → s.accessesDone false = true) (hn : (s.w a).val.toNat < 2 ^ 48) :
    Host.Outcome.next (s.semOp a release f) = (.next (f s (s.w a).val.toNat) : Out1) := by
  rw [semOp_eq hp ho hb, if_neg, if_neg (Nat.not_le.2 hn)]
  cases release with
  | false => simp
  | true => simp [hd rfl]

/-- R269: the count of a semaphore in bits 47 to 0 of SEMRD's result, its wrap flag in bit 63. -/
theorem semrd_word (w : Bool) (c : BitVec 48) :
    (BitVec.ofBool w ++ 0#15 ++ c : Word) = BitVec.ofNat 64 (c.toNat + (if w then 2 ^ 63 else 0)) := by
  have hc := c.isLt
  have hw : (BitVec.ofBool w ++ 0#15).toNat = if w then 2 ^ 15 else 0 := by cases w <;> rfl
  apply BitVec.eq_of_toNat_eq
  rw [BitVec.toNat_append, ← Nat.shiftLeft_add_eq_or_of_lt hc, Nat.shiftLeft_eq, hw, BitVec.toNat_ofNat]
  split <;> omega

end

section
variable {c : Core} {k n : Nat}

/-! ## Counts of a core -/

theorem sem_addNow_same : (c.addNow k n).sem k = (c.sem k).add n := keyGet_keySet_same ..

theorem sem_addNow_other {i : Nat} (h : i ≠ k) : (c.addNow k n).sem i = c.sem i := keyGet_keySet_other _ _ h _

theorem sem_setNow_same : (c.setNow k n).sem k =
    (c.semAdds.filter (fun p => p.1 == k)).foldl (fun x p => x.add p.2) ⟨BitVec.ofNat 48 n, false, []⟩ := keyGet_keySet_same ..

theorem sem_setNow_other {i : Nat} (h : i ≠ k) : (c.setNow k n).sem i = c.sem i := keyGet_keySet_other _ _ h _

/-- A setting where nothing has been added in the cycle. -/
theorem sem_setNow_alone (h : ∀ e ∈ c.semAdds, e.1 ≠ k) : (c.setNow k n).sem k = ⟨BitVec.ofNat 48 n, false, []⟩ := by
  have hf : c.semAdds.filter (fun p => p.1 == k) = [] := by simpa [List.filter_eq_nil_iff] using h
  rw [sem_setNow_same, hf]
  rfl

/-- R270: a setting comes before an addition of the same cycle, whichever was performed first. -/
theorem sem_setNow_addNow (m : Nat) : ((c.setNow k n).addNow k m).sem k = ((c.addNow k m).setNow k n).sem k := by
  have ha : ((c.addNow k m).semAdds.filter (fun p => p.1 == k)) = c.semAdds.filter (fun p => p.1 == k) ++ [(k, m)] := by
    simp [Core.addNow]
  rw [sem_addNow_same, sem_setNow_same, sem_setNow_same, ha, List.foldl_append]
  rfl

end

section
variable {x : Sem}

/-! ## Additions seen early (log 50) -/

theorem settled_of_noneEarly (h : x.early = []) : x.settled = x.count.toNat := by
  have hc := x.count.isLt
  rw [Sem.settled, h, List.length_nil]
  omega

theorem count_addEarly (id : Nat) : (x.addEarly id).count = x.count + 1 := by
  apply BitVec.eq_of_toNat_eq
  simp [Sem.addEarly, Sem.add]

theorem settled_addEarly (id : Nat) : (x.addEarly id).settled = x.settled := by
  have he : (x.addEarly id).early.length = x.early.length + 1 := rfl
  have hc : (x.count + 1).toNat = (x.count.toNat + 1) % 2 ^ 48 := BitVec.toNat_add ..
  rw [Sem.settled, Sem.settled, count_addEarly, he, hc]
  omega

theorem settled_endEarly {id : Nat} (h : id ∉ x.early) : ((x.addEarly id).endEarly id).settled = (x.add 1).settled := by
  have hf : x.early.filter (fun i => i != id) = x.early := List.filter_eq_self.2 fun i hi => by
    simpa using fun e : i = id => h (e ▸ hi)
  simp [Sem.settled, Sem.addEarly, Sem.endEarly, Sem.add, hf]

end

section
variable {c : Core} {x : Slot} {j k t : Nat}

/-! ## The wakes of a cycle -/

theorem slot_semCycle (hj : j < c.slots.length) (hc : c.semSets ≠ [] ∨ c.semAdds ≠ []) :
    c.semCycle.slot j = (c.slot j).wakeSem c.lea c.sems := by
  have hn : ¬ (c.semSets.isEmpty && c.semAdds.isEmpty) = true := by simpa [imp_iff_not_or] using hc
  rw [Core.semCycle, if_neg hn]
  simp [Core.slot, List.getD_eq_getElem?_getD, hj]

/-- A parked waiter of the pool's lea whose threshold is met. -/
theorem wakeSem_met {lea : Option Nat} {sems : List (Nat × Sem)} (hl : x.lea = lea) (hr : x.run = .parked) (hw : x.wait = .sem k t)
    (ht : t ≤ (keyGet Sem.reset sems k).settled) :
    x.wakeSem lea sems = { x with run := x.hold.run, wait := .none, woken := true, fresh := true } := by
  simp [Slot.wakeSem, hw, hl, ht, Slot.wake, hr, Wait.completes]

theorem wakeSem_unmet {lea : Option Nat} {sems : List (Nat × Sem)} (hw : x.wait = .sem k t)
    (h : x.lea ≠ lea ∨ (keyGet Sem.reset sems k).settled < t) : x.wakeSem lea sems = x := by
  rw [Slot.wakeSem, hw]
  exact if_neg fun ⟨hl, ht⟩ => h.elim (· hl) (Nat.not_lt.2 ht)

theorem wakeSem_other {lea : Option Nat} {sems : List (Nat × Sem)} (h : ∀ i t, x.wait ≠ .sem i t) :
    x.wakeSem lea sems = x := by
  rw [Slot.wakeSem]
  split
  · next hw => exact absurd hw (h _ _)
  · rfl

end

/-- Settles O16: the semaphore instructions by what their operand allows, the counts and wakes of a core's cycle, and the fences by
what they wait for. -/
theorem semaphoresAndFences : Obligations.SemaphoresAndFences := by
  refine ⟨fun k a s hp => ⟨fun ho hb hn => ⟨fun hd => ?_, fun hd => ?_, ?_⟩, fun ho hb hn hd => ?_, fun ho => ?_⟩,
    fun c k n => ⟨sem_addNow_same, sem_setNow_alone, sem_setNow_addNow 1,
      fun i hi => ⟨sem_addNow_other hi, sem_setNow_other hi⟩, rfl, rfl⟩,
    fun x id => ⟨settled_of_noneEarly, count_addEarly id, settled_addEarly id, settled_endEarly⟩,
    fun c j k x hj hx hc => ?_, fun c s => ?_⟩
  · exact ⟨semOp_go hp ho hb (fun _ => hd) hn, semOp_go hp ho hb (fun _ => hd) hn⟩
  · exact ⟨semOp_forfeit hp ho hb hd, semOp_forfeit hp ho hb hd⟩
  · exact semOp_go hp ho hb nofun hn
  · exact ⟨semOp_trap hp ho hb hd hn, semOp_trap hp ho hb hd hn, semOp_trap hp ho hb hd hn⟩
  · exact congrArg Host.Outcome.next ((withPool_go hp).trans ((withOperands_go ho).trans (by rw [semrd_word])))
  · rw [slot_semCycle hj hc, hx]
    exact ⟨fun t hl hr hw ht => wakeSem_met hl hr hw ht, fun t hw h => wakeSem_unmet hw h, wakeSem_other⟩
  · intro remote waits
    refine ⟨fun k hw => congrArg Host.Outcome.next (if_pos hw), fun k hw hk => congrArg Host.Outcome.next ?_, fun hw hc =>
      congrArg Host.Outcome.next ?_, rfl⟩
    · exact (if_neg (ne_true_of_eq_false hw)).trans (if_neg fun h => hk.elim (· h.1) h.2)
    · exact (if_neg (ne_true_of_eq_false hw)).trans (if_pos ⟨rfl, hc⟩)

end Sys2Proof.Proofs

namespace Sys2Proof.Proofs

open Sys2Proof Sys2Proof.Machine Sys2Proof.Laws

section
variable {rm : Rm} {neg s t : Bool} {m n : Nat} {e g q : Int} {f : Fmt} {fz : Bool}

/-! ## A magnitude rounded to a multiple of a power of two (R88, R91) -/

theorem roundsUp_zero (rm : Rm) (neg : Bool) (a k : Nat) : roundsUp rm neg a 0 k = false := if_pos rfl

/-- A remainder and its divisor both scaled round alike. -/
theorem roundsUp_scale (rm : Rm) (neg : Bool) (a r k i : Nat) : roundsUp rm neg a (r * 2 ^ i) (k + i) = roundsUp rm neg a r k := by
  have hi : 0 < 2 ^ i := Nat.two_pow_pos i
  have hz : r * 2 ^ i = 0 ↔ r = 0 := by simp
  cases rm with
  | rne =>
    have hlt : 2 ^ (k + i) < 2 * (r * 2 ^ i) ↔ 2 ^ k < 2 * r := by
      rw [Nat.pow_add, ← Nat.mul_assoc, Nat.mul_lt_mul_right hi]
    have heq : 2 * (r * 2 ^ i) = 2 ^ (k + i) ↔ 2 * r = 2 ^ k := by
      rw [Nat.pow_add, ← Nat.mul_assoc, Nat.mul_left_inj hi.ne']
    simp only [roundsUp, hz, hlt, beq_eq_decide, heq]
  | rtz | rup | rdn => simp only [roundsUp, hz]
  | rsr u =>
    have hd : r * 2 ^ i * 2 ^ 32 / 2 ^ (k + i) = r * 2 ^ 32 / 2 ^ k := by
      rw [Nat.pow_add, Nat.mul_right_comm, Nat.mul_div_mul_right _ _ hi]
    simp only [roundsUp, hz, hd]

theorem roundAt_of_le (h : q ≤ e) : roundAt rm neg m e q = (m * 2 ^ (e - q).toNat, true) := if_pos h

/-- What is rounded to a multiple of 2^k of its unit. -/
theorem roundAt_add {k : Nat} (h : 0 < k) : roundAt rm neg m e (e + k) =
    (if roundsUp rm neg (m / 2 ^ k) (m % 2 ^ k) k then m / 2 ^ k + 1 else m / 2 ^ k, m % 2 ^ k == 0) := by
  have hk : (e + (k : Int) - e).toNat = k := by omega
  simp only [roundAt, hk, if_neg (show ¬ e + (k : Int) ≤ e by omega)]

/-- How a magnitude is written does not change its rounding. -/
theorem roundAt_scale (k : Nat) : roundAt rm neg (m * 2 ^ k) (e - k) q = roundAt rm neg m e q := by
  rcases le_or_gt q e with hq | hq
  · rw [roundAt_of_le hq]
    rcases le_or_gt q (e - k) with hk | hk
    · have he : (e - q).toNat = k + (e - k - q).toNat := by omega
      rw [roundAt_of_le hk, he, Nat.pow_add, Nat.mul_assoc]
    · obtain ⟨j, rfl⟩ : ∃ j : Nat, q = e - k + j := ⟨(q - (e - k)).toNat, by omega⟩
      obtain ⟨i, rfl⟩ : ∃ i : Nat, k = i + j := ⟨k - j, by omega⟩
      have he : (e - (e - ((i + j : Nat) : Int) + j)).toNat = i := by omega
      have hj : m * 2 ^ (i + j) = m * 2 ^ i * 2 ^ j := by rw [Nat.pow_add, Nat.mul_assoc]
      rw [roundAt_add (by omega), he, hj, Nat.mul_mod_left, Nat.mul_div_cancel _ (Nat.two_pow_pos j), roundsUp_zero]
      rfl
  · obtain ⟨j, rfl⟩ : ∃ j : Nat, q = e + j := ⟨(q - e).toNat, by omega⟩
    have hq' : e + (j : Int) = e - k + ((j + k : Nat) : Int) := by omega
    rw [roundAt_add (by omega), hq', roundAt_add (by omega), Nat.pow_add, Nat.mul_mod_mul_right, Nat.mul_div_mul_right _ _ (Nat.two_pow_pos k),
      roundsUp_scale]
    simp

theorem log2_mul_two_pow (h : m ≠ 0) (k : Nat) : (m * 2 ^ k).log2 = m.log2 + k := by
  obtain ⟨h1, h2⟩ := (Nat.log2_eq_iff h).1 rfl
  refine (Nat.log2_eq_iff (by simp [h])).2 ⟨?_, ?_⟩
  · rw [Nat.pow_add]; exact Nat.mul_le_mul_right _ h1
  · rw [Nat.add_right_comm, Nat.pow_add]; exact Nat.mul_lt_mul_of_pos_right h2 (Nat.two_pow_pos k)

/-! ## A value rounded to a format (R88, R92) -/

theorem roundFin_zero (f : Fmt) (nsr fz : Bool) (rm : Rm) (neg : Bool) (e : Int) :
    roundFin f nsr fz rm neg 0 e = ⟨f.signBit neg, Flags.none⟩ := if_pos rfl

theorem roundFin_scale (f : Fmt) (nsr fz : Bool) (rm : Rm) (neg : Bool) (m k : Nat) (e : Int) :
    roundFin f nsr fz rm neg (m * 2 ^ k) (e - k) = roundFin f nsr fz rm neg m e := by
  by_cases hm : m = 0
  · rw [hm, Nat.zero_mul, roundFin_zero, roundFin_zero]
  · have hk : m * 2 ^ k ≠ 0 := by simp [hm]
    have hb : e - k + ((m.log2 + k : Nat) : Int) = e + (m.log2 : Int) := by omega
    simp only [roundFin, if_neg hm, if_neg hk, log2_mul_two_pow hm, hb, roundAt_scale]

/-- A magnitude of a unit that the format has is its own code. -/
theorem roundFin_of_exact {nsr : Bool} (hm : m ≠ 0) (hq : max (e + (m.log2 : Int)) (1 - f.bias) - (f.mb : Int) = e)
    (hc : (e - f.qmin).toNat * 2 ^ f.mb + m ≤ f.maxCode nsr) :
    roundFin f nsr false rm neg m e = ⟨f.signBit neg + ((e - f.qmin).toNat * 2 ^ f.mb + m), Flags.none⟩ := by
  have ha : roundAt rm neg m e e = (m, true) := by simp [roundAt_of_le]
  simp only [roundFin, if_neg hm, hq, ha, if_neg (Nat.not_lt.2 hc)]
  simp

/-! ## Exact operations (R134, R135) -/

/-- An exact sum of finite values rounded once: the sign of a zero sum is that of both operands or the mode's. -/
theorem fpAdd_fin {v : Int} (hq : q = min e g) (hv : v = signed s (m * 2 ^ (e - q).toNat) + signed t (n * 2 ^ (g - q).toNat)) :
    (v ≠ 0 → fpAdd f fz rm (.fin s m e) (.fin t n g) = roundFin f true fz rm (decide (v < 0)) v.natAbs q)
    ∧ (v = 0 → fpAdd f fz rm (.fin s m e) (.fin t n g)
        = ⟨f.signBit (if m = 0 ∧ n = 0 ∧ s = t then s else decide (rm = .rdn)), Flags.none⟩) := by
  have hd : zeroSign rm = decide (rm = .rdn) := by cases rm <;> rfl
  by_cases h0 : m = 0 ∧ n = 0
  · obtain ⟨rfl, rfl⟩ := h0
    have hv0 : v = 0 := by cases s <;> cases t <;> simp [hv, signed]
    refine ⟨fun h => absurd hv0 h, fun _ => ?_⟩
    by_cases hst : s = t <;> simp [fpAdd, Val.add, Fmt.enc, roundFin_zero, ivIf, Flags.none, hst, hd]
  · have h3 : ¬ (m = 0 ∧ n = 0 ∧ s = t) := fun h => h0 ⟨h.1, h.2.1⟩
    subst hq
    refine ⟨fun h => ?_, fun h => ?_⟩
    · rw [hv] at h
      simp [fpAdd, Val.add, Fmt.enc, if_neg h0, if_neg h, hv, ivIf, Flags.none]
    · rw [hv] at h
      simp [fpAdd, Val.add, Fmt.enc, if_neg h0, if_pos h, if_neg h3, roundFin_zero, hd, ivIf, Flags.none]

theorem fpMul_fin : fpMul f fz rm (.fin s m e) (.fin t n g) = roundFin f true fz rm (s != t) (m * n) (e + g) := by
  simp [fpMul, Val.mul, Fmt.enc, ivIf, Flags.none]

/-- A product with an addend is the sum of the exact product and the addend. -/
theorem fpFma_fin (z : Val) : fpFma f fz rm (.fin s m e) (.fin t n g) z = fpAdd f fz rm (.fin (s != t) (m * n) (e + g)) z := by
  simp [fpFma, fpAdd, Val.mul]

@[simp] theorem add_nan_left (y : Val) : Val.add rm .nan y = (.nan, false) := by cases y <;> rfl

@[simp] theorem add_nan_right (x : Val) : Val.add rm x .nan = (.nan, false) := by cases x <;> rfl

@[simp] theorem mul_nan_left (y : Val) : Val.mul .nan y = (.nan, false) := by cases y <;> rfl

@[simp] theorem mul_nan_right (x : Val) : Val.mul x .nan = (.nan, false) := by cases x <;> rfl

section
variable {x y : Val} {iv : Bool}

/-- The rounding of every operation reads the top exponent as infinity and NaN (R88). -/
theorem enc_nan : f.enc true fz rm .nan = ⟨f.cnan, Flags.none⟩ := if_pos (by simp [Fmt.special])

theorem enc_inf : f.enc true fz rm (.inf s) = ⟨f.signBit s + f.infCode, Flags.none⟩ := if_pos (by simp [Fmt.special])

theorem fpAdd_nan (h : Val.add rm x y = (.nan, iv)) : fpAdd f fz rm x y = ⟨f.cnan, ivIf iv⟩ := by
  simp [fpAdd, h, enc_nan, Flags.none]

theorem fpAdd_inf (h : Val.add rm x y = (.inf s, false)) : fpAdd f fz rm x y = ⟨f.signBit s + f.infCode, Flags.none⟩ := by
  simp [fpAdd, h, enc_inf, Flags.none, ivIf]

theorem fpMul_nan (h : Val.mul x y = (.nan, iv)) : fpMul f fz rm x y = ⟨f.cnan, ivIf iv⟩ := by
  simp [fpMul, h, enc_nan, Flags.none]

theorem fpMul_inf (h : Val.mul x y = (.inf s, false)) : fpMul f fz rm x y = ⟨f.signBit s + f.infCode, Flags.none⟩ := by
  simp [fpMul, h, enc_inf, Flags.none, ivIf]

/-- A product that is NaN decides a product with an addend, its IV too. -/
theorem fpFma_mul_nan (z : Val) (h : Val.mul x y = (.nan, iv)) : fpFma f fz rm x y z = ⟨f.cnan, ivIf iv⟩ := by
  simp [fpFma, h, enc_nan, Flags.none]

theorem fpFma_add_nan {p z : Val} (h : Val.mul x y = (p, false)) (ha : Val.add rm p z = (.nan, iv)) :
    fpFma f fz rm x y z = ⟨f.cnan, ivIf iv⟩ := by
  simp [fpFma, h, ha, enc_nan, Flags.none]

theorem fpFma_nan_right : (fpFma f fz rm x y .nan).bits = f.cnan := by
  simp [fpFma, enc_nan]

end

/-! ## The neighbours between which a magnitude is rounded -/

theorem roundsUp_rne {a r k : Nat} : roundsUp .rne neg a r k = true ↔ 2 ^ k < 2 * r ∨ (2 * r = 2 ^ k ∧ a % 2 = 1) := by
  have hk : 0 < 2 ^ k := Nat.two_pow_pos k
  by_cases hr : r = 0
  · simp [roundsUp, hr]; omega
  · simp [roundsUp, hr]

/-- Nearest-even: no multiple is nearer, and of two equally near the even one is taken. -/
theorem roundAt_rne_nearest {k : Nat} (hk : 0 < k) :
    2 * (((roundAt .rne neg m e (e + k)).1 : Int) * 2 ^ k - m).natAbs ≤ 2 ^ k
    ∧ (2 * (m % 2 ^ k) = 2 ^ k → (roundAt .rne neg m e (e + k)).1 % 2 = 0) := by
  have hm : 2 ^ k * (m / 2 ^ k) + m % 2 ^ k = m := Nat.div_add_mod m _
  have hr : m % 2 ^ k < 2 ^ k := Nat.mod_lt _ (Nat.two_pow_pos k)
  have hc : ((2 ^ k : Nat) : Int) = 2 ^ k := by push_cast; rfl
  simp only [roundAt_add hk, roundsUp_rne, ← hc]
  generalize 2 ^ k = p at *
  generalize m % p = r at *
  generalize m / p = lo at *
  split
  · have hd : (((lo + 1 : Nat) : Int)) * p - m = p - r := by rw [← hm]; push_cast; ring
    rw [hd]
    omega
  · have hd : (lo : Int) * p - m = -r := by rw [← hm]; push_cast; ring
    rw [hd]
    omega

theorem roundAt_add_exact {k : Nat} (hk : 0 < k) (hr : m % 2 ^ k = 0) : (roundAt rm neg m e (e + k)).1 = m / 2 ^ k := by
  rw [roundAt_add hk, hr, roundsUp_zero]
  rfl

theorem roundAt_add_inexact {k : Nat} (hk : 0 < k) : (roundAt rm neg m e (e + k)).1 =
    if roundsUp rm neg (m / 2 ^ k) (m % 2 ^ k) k then m / 2 ^ k + 1 else m / 2 ^ k := by
  rw [roundAt_add hk]

end

/-- Settles O11: how a magnitude is rounded, that a sum, a product and a product with an addend are the exact one rounded once, and
that a value's rounding does not depend on how it is written. -/
theorem roundingModes : Obligations.RoundingModes := by
  unfold Obligations.RoundingModes
  refine ⟨?_, ?_, ?_⟩
  · intro f fz rm s t u m n k e g h
    refine ⟨fun q hq => fpAdd_fin hq rfl, fpMul_fin, fun q hq => ?_, roundFin_scale ..⟩
    obtain ⟨h1, h2⟩ := fpAdd_fin (f := f) (fz := fz) (rm := rm) (s := s != t) (t := u) (m := m * n) (n := k) hq rfl
    exact ⟨fun hv => (fpFma_fin _).trans (h1 hv), fun hv => ((fpFma_fin _).trans (h2 hv)).trans
      (congrArg (fun b => (⟨f.signBit b, Flags.none⟩ : Res)) (ite_congr rfl (fun hz => hz.2.2) fun _ => rfl))⟩
  · intro f fz rm x y s t m e _
    refine ⟨fpAdd_nan (add_nan_left y), fpAdd_nan (add_nan_right x), fpMul_nan (mul_nan_left y), fpMul_nan (mul_nan_right x),
      fpFma_mul_nan y (mul_nan_left x), fpFma_mul_nan y (mul_nan_right x), fpFma_nan_right, ?_, fpAdd_inf rfl,
      fpAdd_inf rfl, fpMul_inf rfl, ?_, ?_, fpFma_mul_nan (iv := true) y rfl, fun hm => ?_⟩
    · split
      · next h => exact fpAdd_inf (if_pos h)
      · next h => exact fpAdd_nan (iv := true) (if_neg h)
    · split
      · next h => exact fpMul_nan (iv := true) (if_pos h)
      · next h => exact fpMul_inf (if_neg h)
    · split
      · next h => exact fpMul_nan (iv := true) (if_pos h)
      · next h => exact fpMul_inf (if_neg h)
    · exact fpFma_add_nan (iv := true) (if_neg hm) (if_neg (by cases s <;> cases t <;> decide))
  · intro neg m k e hk
    refine ⟨fun rm => ?_, fun rm => roundAt_add_exact hk, fun rm => ?_, roundAt_rne_nearest hk, ?_, fun hr => ?_, fun hr => ?_,
      fun u hr => ?_⟩
    · simp [roundAt_add hk, beq_eq_decide]
    · rw [roundAt_add_inexact hk]
      split <;> omega
    · simp [roundAt_add_inexact hk, roundsUp]
    · cases neg <;> simp [roundAt_add_inexact hk, roundsUp, hr.ne']
    · simp [roundAt_add_inexact hk, roundsUp, hr.ne']
    · simp [roundAt_add_inexact hk, roundsUp, hr.ne']

end Sys2Proof.Proofs

namespace Sys2Proof.Proofs

open Sys2Proof Sys2Proof.Machine Sys2Proof.Laws

section
variable {f : Fmt} {n : Nat}

/-! ## The fields of a code (R80, R81) -/

/-- A code is its sign, its exponent field and its mantissa side by side. -/
theorem code_fields (hn : n < 2 ^ (1 + f.eb + f.mb)) :
    f.signBit (n / 2 ^ (f.eb + f.mb) % 2 == 1) + (n / 2 ^ f.mb % 2 ^ f.eb * 2 ^ f.mb + n % 2 ^ f.mb) = n := by
  have hlow : n % 2 ^ (f.eb + f.mb) = n % 2 ^ f.mb + 2 ^ f.mb * (n / 2 ^ f.mb % 2 ^ f.eb) := by
    rw [Nat.add_comm, Nat.pow_add, Nat.mod_mul]
  have hdiv := Nat.div_add_mod n (2 ^ (f.eb + f.mb))
  have hs : n / 2 ^ (f.eb + f.mb) < 2 := by
    rw [Nat.div_lt_iff_lt_mul (Nat.two_pow_pos _), ← Nat.pow_succ']
    exact hn.trans_le (Nat.pow_le_pow_right (by omega) (by omega))
  have hb : f.signBit (n / 2 ^ (f.eb + f.mb) % 2 == 1) = 2 ^ (f.eb + f.mb) * (n / 2 ^ (f.eb + f.mb)) := by
    rcases Nat.lt_succ_iff_lt_or_eq.1 hs with h | h
    · simp [Fmt.signBit, Nat.lt_one_iff.1 h]
    · simp [Fmt.signBit, h]
  rw [hb, Nat.mul_comm (n / 2 ^ f.mb % 2 ^ f.eb)]
  omega

/-- The codes up to an exponent field that is not the special one lie within the largest (R81). -/
theorem field_le_maxCode {nsr : Bool} {e m : Nat} (he : e ≤ f.top) (hs : f.special nsr = true → e < f.top) (hm : m < 2 ^ f.mb) :
    e * 2 ^ f.mb + m ≤ f.maxCode nsr := by
  have key : ∀ k, e < k → e * 2 ^ f.mb + m ≤ k * 2 ^ f.mb - 1 := fun k hk => by
    have := Nat.mul_le_mul_right (2 ^ f.mb) (Nat.succ_le_of_lt hk)
    rw [Nat.succ_mul] at this
    omega
  unfold Fmt.maxCode
  split
  · next h => exact key _ (hs h)
  · exact key _ (Nat.lt_succ_of_le he)

/-! ## The three kinds of code -/

/-- A zero or a subnormal is rounded to its own mantissa. -/
theorem roundFin_subnormal {nsr s : Bool} {rm : Rm} {m : Nat} (ht : 0 < f.top) (hm : m < 2 ^ f.mb) :
    roundFin f nsr false rm s m f.qmin = ⟨f.signBit s + m, Flags.none⟩ := by
  by_cases h0 : m = 0
  · rw [h0, roundFin_zero, Nat.add_zero]
  · have hl : m.log2 < f.mb := (Nat.log2_lt h0).2 hm
    have hc := field_le_maxCode (nsr := nsr) (Nat.zero_le f.top) (fun _ => ht) hm
    have hq : max (f.qmin + (m.log2 : Int)) (1 - f.bias) - (f.mb : Int) = f.qmin := by unfold Fmt.qmin; omega
    simpa using roundFin_of_exact (rm := rm) (neg := s) h0 hq (by simpa using hc)

/-- A normal number is rounded to its own exponent field and mantissa. -/
theorem roundFin_normal {nsr s : Bool} {rm : Rm} {e m : Nat} (he : 0 < e) (ht : e ≤ f.top) (hs : f.special nsr = true → e < f.top)
    (hm : m < 2 ^ f.mb) : roundFin f nsr false rm s (2 ^ f.mb + m) (f.qmin + ((e - 1 : Nat) : Int))
      = ⟨f.signBit s + (e * 2 ^ f.mb + m), Flags.none⟩ := by
  have h0 : 2 ^ f.mb + m ≠ 0 := by have := Nat.two_pow_pos f.mb; omega
  have hl : (2 ^ f.mb + m).log2 = f.mb := (Nat.log2_eq_iff h0).2 ⟨Nat.le_add_right .., by rw [Nat.pow_succ]; omega⟩
  have hq : max (f.qmin + ((e - 1 : Nat) : Int) + ((2 ^ f.mb + m).log2 : Int)) (1 - f.bias) - (f.mb : Int)
      = f.qmin + ((e - 1 : Nat) : Int) := by rw [hl]; unfold Fmt.qmin; omega
  have hk : (f.qmin + ((e - 1 : Nat) : Int) - f.qmin).toNat = e - 1 := by omega
  have hc : (e - 1) * 2 ^ f.mb + (2 ^ f.mb + m) = e * 2 ^ f.mb + m := by
    rw [← Nat.add_assoc, ← Nat.succ_mul, Nat.succ_eq_add_one, Nat.sub_add_cancel he]
  have hmax := field_le_maxCode (nsr := nsr) ht hs hm
  rw [roundFin_of_exact h0 hq (by rw [hk, hc]; exact hmax), hk, hc]

/-- A code decoded and rounded again: the canonical NaN of a NaN, and every other code itself. -/
theorem enc_dec {nsr : Bool} {rm : Rm} (ht : 0 < f.top) (hn : n < 2 ^ (1 + f.eb + f.mb)) :
    (f.dec nsr false n = .nan → f.enc nsr false rm (f.dec nsr false n) = ⟨f.cnan, 0⟩)
    ∧ (f.dec nsr false n ≠ .nan → f.enc nsr false rm (f.dec nsr false n) = ⟨n, 0⟩) := by
  have hf := code_fields hn
  have hm : n % 2 ^ f.mb < 2 ^ f.mb := Nat.mod_lt _ (Nat.two_pow_pos _)
  have he : n / 2 ^ f.mb % 2 ^ f.eb ≤ f.top := Nat.le_sub_one_of_lt (Nat.mod_lt _ (Nat.two_pow_pos _))
  by_cases h0 : n / 2 ^ f.mb % 2 ^ f.eb = 0
  · have hd : f.dec nsr false n = .fin (n / 2 ^ (f.eb + f.mb) % 2 == 1) (n % 2 ^ f.mb) f.qmin := by simp [Fmt.dec, h0]
    rw [h0, Nat.zero_mul, Nat.zero_add] at hf
    exact ⟨fun h => by simp [hd] at h, fun _ => by rw [hd, Fmt.enc, roundFin_subnormal ht hm, hf]; rfl⟩
  · by_cases hs : n / 2 ^ f.mb % 2 ^ f.eb = f.top ∧ f.special nsr = true
    · by_cases hz : n % 2 ^ f.mb = 0
      · have hd : f.dec nsr false n = .inf (n / 2 ^ (f.eb + f.mb) % 2 == 1) := by simp [Fmt.dec, hs, hz, ht.ne']
        rw [hz, hs.1, Nat.add_zero] at hf
        exact ⟨fun h => by simp [hd] at h, fun _ => by rw [hd, Fmt.enc, if_pos hs.2, Fmt.infCode, hf]; rfl⟩
      · have hd : f.dec nsr false n = .nan := by simp [Fmt.dec, hs, hz, ht.ne']
        exact ⟨fun _ => by rw [hd, Fmt.enc, if_pos hs.2]; rfl, fun h => absurd hd h⟩
    · have hd : f.dec nsr false n = .fin (n / 2 ^ (f.eb + f.mb) % 2 == 1) (2 ^ f.mb + n % 2 ^ f.mb)
          (f.qmin + ((n / 2 ^ f.mb % 2 ^ f.eb - 1 : Nat) : Int)) := by simp [Fmt.dec, h0, hs]
      exact ⟨fun h => by simp [hd] at h, fun _ => by
        rw [hd, Fmt.enc, roundFin_normal (Nat.pos_of_ne_zero h0) he (fun h => lt_of_le_of_ne he fun e => hs ⟨e, h⟩) hm, hf]; rfl⟩

end

/-- Settles O12: every format has a top exponent field above 0, so that a code is one of a zero or subnormal, a normal number, an
infinity and a NaN. -/
theorem formatRoundTrip : Obligations.FormatRoundTrip := by
  intro f hf nsr rm n hn
  have ht : 0 < f.top := by
    have : ∀ g ∈ [fp64, fp32, fp16, bf16, e5m2, e4m3, e3m2, e2m3], 0 < g.top := by decide
    exact this f hf
  exact enc_dec ht hn

end Sys2Proof.Proofs

namespace Sys2Proof.Proofs

open Sys2Proof Sys2Proof.Machine Sys2Proof.Laws

section
variable {s : State} {w : BitVec 1} {n a b d : Nat}

/-! ## The operand forms of scalar floating point (R94, R107, R132) -/

theorem fp1_go {f : State → Word → FpOut} (h : s.Reads [a] [d]) (ha : (s.w a).bad = false) :
    s.fp1 n a d f = s.fpDone n d false (f s (s.w a).val) :=
  (withOperands_go h).trans (by rw [ha])

theorem fp2_go {f : State → Word → Word → FpOut} (h : s.Reads [a, b] [d]) (ha : (s.w a).bad = false)
    (hb : (s.w b).bad = false) : s.fp2 n a b d f = s.fpDone n d false (f s (s.w a).val (s.w b).val) :=
  (withOperands_go h).trans (by rw [ha, hb, Bool.or_false])

theorem fp3_go {f : State → Word → Word → Word → FpOut} (h : s.Reads [a, b, d] [d]) (ha : (s.w a).bad = false)
    (hb : (s.w b).bad = false) (hd : (s.w d).bad = false) :
    s.fp3 n a b d f = s.fpDone n d false (f s (s.w a).val (s.w b).val (s.w d).val) :=
  (withOperands_go h).trans (by rw [ha, hb, hd, Bool.or_false, Bool.or_false])

/-- Whether reading a word as an operand of a width costs the normaliser (R94). -/
def slowWord (s : State) (w : BitVec 1) (u : Word) : Bool := s.slowNum (widthFmt w) (widthBits w u)

/-- A result of a width written, its flags raised, and the normaliser paid for the operands and for the result. -/
theorem fpDone_fpOut (ops : List Word) (r : Res) : s.fpDone n d false (s.fpOut w ops r) =
    ((s.setW n d false (BitVec.ofNat 64 r.bits)).raiseFlags r.flags).owe (ops.any (slowWord s w) || s.slowNum (widthFmt w) r.bits) := rfl

/-- A result that is no number of a width: the normaliser is paid for the operands alone. -/
theorem fpDone_fpPred (ops : List Word) (v : Word) (fl : Flags) : s.fpDone n d false (s.fpPred w ops v fl) =
    ((s.setW n d false v).raiseFlags fl).owe (ops.any (slowWord s w)) := rfl

theorem any_one (p : Word → Bool) (u : Word) : [u].any p = p u := by simp

theorem any_two (p : Word → Bool) (u v : Word) : [u, v].any p = (p u || p v) := by simp

theorem any_three (p : Word → Bool) (u v x : Word) : [u, v, x].any p = (p u || (p v || p x)) := by simp

theorem fp1_out {g : State → Word → Res} (h : s.Reads [a] [d]) (ha : (s.w a).bad = false) :
    s.fp1 4 a d (fun s u => s.fpOut w [u] (g s u)) =
      ((s.setW 4 d false (BitVec.ofNat 64 (g s (s.w a).val).bits)).raiseFlags (g s (s.w a).val).flags).owe
        (slowWord s w (s.w a).val || s.slowNum (widthFmt w) (g s (s.w a).val).bits) := by
  rw [fp1_go h ha, fpDone_fpOut, any_one]

theorem fp1_pred {g : State → Word → Word × Flags} (h : s.Reads [a] [d]) (ha : (s.w a).bad = false) :
    s.fp1 4 a d (fun s u => s.fpPred w [u] (g s u).1 (g s u).2) =
      ((s.setW 4 d false (g s (s.w a).val).1).raiseFlags (g s (s.w a).val).2).owe (slowWord s w (s.w a).val) := by
  rw [fp1_go h ha, fpDone_fpPred, any_one]

theorem fp2_out {g : State → Word → Word → Res} (h : s.Reads [a, b] [d]) (ha : (s.w a).bad = false) (hb : (s.w b).bad = false) :
    s.fp2 4 a b d (fun s u v => s.fpOut w [u, v] (g s u v)) =
      ((s.setW 4 d false (BitVec.ofNat 64 (g s (s.w a).val (s.w b).val).bits)).raiseFlags (g s (s.w a).val (s.w b).val).flags).owe
        ((slowWord s w (s.w a).val || slowWord s w (s.w b).val) || s.slowNum (widthFmt w) (g s (s.w a).val (s.w b).val).bits) := by
  rw [fp2_go h ha hb, fpDone_fpOut, any_two]

/-- A comparison writes 1 where it holds and 0 elsewhere, and raises no flag (R139). -/
theorem fp2_said {g : State → Word → Word → Bool} {p : Prop} [Decidable p] (h : s.Reads [a, b] [d]) (ha : (s.w a).bad = false)
    (hb : (s.w b).bad = false) (hp : g s (s.w a).val (s.w b).val = true ↔ p) :
    s.fp2 4 a b d (fun s u v => s.fpPred w [u, v] (boolWord (g s u v)) Flags.none) =
      ((s.setW 4 d false (if p then 1 else 0)).raiseFlags 0).owe (slowWord s w (s.w a).val || slowWord s w (s.w b).val) := by
  rw [fp2_go h ha hb, fpDone_fpPred, any_two, boolWord]
  simp only [hp]
  rfl

theorem fp3_out {g : State → Word → Word → Word → Res} (h : s.Reads [a, b, d] [d]) (ha : (s.w a).bad = false)
    (hb : (s.w b).bad = false) (hd : (s.w d).bad = false) :
    s.fp3 4 a b d (fun s u v x => s.fpOut w [u, v, x] (g s u v x)) =
      ((s.setW 4 d false (BitVec.ofNat 64 (g s (s.w a).val (s.w b).val (s.w d).val).bits)).raiseFlags
        (g s (s.w a).val (s.w b).val (s.w d).val).flags).owe
        ((slowWord s w (s.w a).val || (slowWord s w (s.w b).val || slowWord s w (s.w d).val))
          || s.slowNum (widthFmt w) (g s (s.w a).val (s.w b).val (s.w d).val).bits) := by
  rw [fp3_go h ha hb hd, fpDone_fpOut, any_three]

/-- FCVTI writes the number rounded and saturated to its code's range (R97, R142). -/
theorem fcvti_eq {r n : BitVec 3} {a d : BitVec 5} (h : s.Reads [a.toNat] [d.toNat]) (ha : (s.w a.toNat).bad = false) :
    let v := (s.fpIn w (s.w a.toNat).val).toInt (s.roundMode r) (intRange n).1 (intRange n).2
    exec (.fcvti w r n a d) s = .next (((s.setW 4 d.toNat false (BitVec.ofInt 64 v.1)).raiseFlags v.2).owe
      (slowWord s w (s.w a.toNat).val)) :=
  congrArg Host.Outcome.next (fp1_pred (g := fun s u =>
    let v := (s.fpIn w u).toInt (s.roundMode r) (intRange n).1 (intRange n).2
    (BitVec.ofInt 64 v.1, v.2)) h ha)

/-- ICVTF writes the integer that its code reads, rounded once (R97, R142). -/
theorem icvtf_eq {r n : BitVec 3} {a d : BitVec 5} {v : Int} (h : s.Reads [a.toNat] [d.toNat]) (ha : (s.w a.toNat).bad = false)
    (hv : intOf n (s.w a.toNat).val = v) :
    let e := (widthFmt w).enc true s.fz (s.roundMode r) (Val.ofInt v)
    exec (.icvtf w r n a d) s = .next (((s.setW 4 d.toNat false (BitVec.ofNat 64 e.bits)).raiseFlags e.flags).owe
      (s.slowNum (widthFmt w) e.bits)) := by
  subst hv
  exact congrArg Host.Outcome.next (fp1_go h ha)

end

/-- Settles O10: each instruction is one of the operand forms, with its own exact operation rounded once. -/
theorem scalarFpResults : Obligations.ScalarFpResults := by
  unfold Obligations.ScalarFpResults
  refine ⟨?_, ?_⟩
  · intro w r b a d s
    refine ⟨fun h ha hb => ?_, fun h ha hb hd => ?_, fun h ha => ?_⟩
    · exact ⟨congrArg Host.Outcome.next (fp2_out h ha hb), congrArg Host.Outcome.next (fp2_out h ha hb),
        congrArg Host.Outcome.next (fp2_out h ha hb), congrArg Host.Outcome.next (fp2_out h ha hb),
        congrArg Host.Outcome.next (fp2_out h ha hb), congrArg Host.Outcome.next (fp2_out h ha hb),
        congrArg Host.Outcome.next (fp2_said h ha hb Iff.rfl), congrArg Host.Outcome.next (fp2_said h ha hb Iff.rfl),
        congrArg Host.Outcome.next (fp2_said h ha hb Bool.or_eq_true_iff)⟩
    · exact ⟨congrArg Host.Outcome.next (fp3_out h ha hb hd), congrArg Host.Outcome.next (fp3_out h ha hb hd),
        congrArg Host.Outcome.next (fp3_out h ha hb hd)⟩
    · exact ⟨congrArg Host.Outcome.next (fp1_out h ha), congrArg Host.Outcome.next (fp1_out h ha),
        congrArg Host.Outcome.next (fp1_out h ha), congrArg Host.Outcome.next (fp1_out h ha),
        congrArg Host.Outcome.next (fp1_pred (g := fun s u => (_, _)) h ha)⟩
  · intro w r m a d s h ha
    have go (f : State → Word → FpOut) : (.next (s.fp1 4 a.toNat d.toNat f) : Out1)
        = .next (s.fpDone 4 d.toNat false (f s (s.w a.toNat).val)) := congrArg Host.Outcome.next (fp1_go h ha)
    have range (n : BitVec 3) := fcvti_eq (w := w) (r := r) (n := n) h ha
    exact ⟨go _, go _, range 0, range 1, range 2, range 3, icvtf_eq h ha rfl, icvtf_eq h ha rfl, icvtf_eq h ha rfl,
      icvtf_eq h ha rfl⟩

end Sys2Proof.Proofs

namespace Sys2Proof.Proofs

open Sys2Proof Sys2Proof.Machine Sys2Proof.Laws

/-! ## Digits of a number -/

/-- The digits that a number is made of are read back. -/
theorem ofDigits_div_mod {b : Nat} (hb : 0 < b) : ∀ {l : List Nat}, (∀ x ∈ l, x < b) → ∀ i,
    Nat.ofDigits b l / b ^ i % b = l.getD i 0
  | [], _, i => by simp
  | x :: t, hl, 0 => by simp [Nat.ofDigits_cons, Nat.mod_eq_of_lt (hl x (by simp))]
  | x :: t, hl, i + 1 => by
    have hx : x < b := hl x (by simp)
    rw [Nat.ofDigits_cons, Nat.pow_succ', ← Nat.div_div_eq_div_mul, Nat.add_mul_div_left _ _ hb,
      Nat.div_eq_of_lt hx, Nat.zero_add]
    exact ofDigits_div_mod hb (fun y hy => hl y (List.mem_cons_of_mem _ hy)) i

/-- The first k digits of a number make it up to its k-th power. -/
theorem ofDigits_range (b x : Nat) : ∀ k, Nat.ofDigits b ((List.range k).map fun j => x / b ^ j % b) = x % b ^ k
  | 0 => by simp [Nat.mod_one]
  | k + 1 => by
    have ih := ofDigits_range b (x / b) k
    have hs : ((List.range k).map fun j => x / b ^ (j + 1) % b) = (List.range k).map fun j => x / b / b ^ j % b := by
      simp only [Nat.div_div_eq_div_mul, Nat.pow_succ']
    rw [List.range_succ_eq_map, List.map_cons, List.map_map, Nat.ofDigits_cons]
    simp only [Function.comp_def, Nat.succ_eq_add_one, hs, ih, Nat.pow_zero, Nat.div_one]
    rw [Nat.pow_succ', Nat.mod_mul]

/-! ## Elements side by side (R80, R148) -/

theorem packEls_eq_ofDigits (w : Nat) : ∀ es : List El, packEls w es = Nat.ofDigits (2 ^ w) (es.map fun e => e.val % 2 ^ w)
  | [] => rfl
  | e :: t => by rw [packEls, packEls_eq_ofDigits w t, List.map_cons, Nat.ofDigits_cons]

theorem packEls_lt {w : Nat} (hw : 0 < w) (es : List El) : packEls w es < 2 ^ (w * es.length) := by
  have h := Nat.ofDigits_lt_base_pow_length (b := 2 ^ w) (l := es.map fun e => e.val % 2 ^ w) (Nat.one_lt_two_pow hw.ne')
    (by simpa using fun _ _ => Nat.mod_lt _ (Nat.two_pow_pos w))
  rwa [List.length_map, ← Nat.pow_mul, ← packEls_eq_ofDigits] at h

theorem packEls_el {w : Nat} (es : List El) {i : Nat} (h : i < es.length) :
    packEls w es / 2 ^ (w * i) % 2 ^ w = es[i].val % 2 ^ w := by
  rw [packEls_eq_ofDigits, Nat.pow_mul, ofDigits_div_mod (Nat.two_pow_pos w) (by simpa using fun _ _ => Nat.mod_lt _ (Nat.two_pow_pos w))]
  simp [h]

/-- A doubleword holds bits of a poisoned element, among those from number n on. -/
theorem badAt_iff {w j : Nat} : ∀ {es : List El} {n : Nat}, badAt w j n es = true ↔
    ∃ i, ∃ h : i < es.length, es[i].bad = true ∧ w * (n + i) < 64 * (j + 1) ∧ 64 * j < w * (n + i) + w
  | [], n => by simp [badAt]
  | e :: t, n => by
    have ih := badAt_iff (w := w) (j := j) (es := t) (n := n + 1)
    rw [badAt, Bool.or_eq_true, ih]
    constructor
    · rintro (h | ⟨i, hi, hb, h1, h2⟩)
      · simp only [Bool.and_eq_true, decide_eq_true_eq] at h
        exact ⟨0, by simp, h.1.1, h.1.2, h.2⟩
      · exact ⟨i + 1, by simpa using hi, hb, by rwa [Nat.add_right_comm] at h1, by rwa [Nat.add_right_comm] at h2⟩
    · rintro ⟨_ | i, hi, hb, h1, h2⟩
      · left
        simp only [Bool.and_eq_true, decide_eq_true_eq]
        exact ⟨⟨hb, h1⟩, h2⟩
      · exact .inr ⟨i, by simpa using hi, hb, by rwa [Nat.add_right_comm], by rwa [Nat.add_right_comm]⟩

/-- The doublewords of elements make the number that the elements make. -/
theorem wordsOf_number {k w : Nat} {es : List El} (hw : 0 < w) (hk : es.length * w ≤ 64 * k) :
    (wordsOf k w es).foldr (fun x r => x.val.toNat + 2 ^ 64 * r) 0 = packEls w es := by
  have hd : (wordsOf k w es).map (fun x => x.val.toNat) = (List.range k).map fun j => packEls w es / (2 ^ 64) ^ j % 2 ^ 64 := by
    simp only [wordsOf, List.map_map, Function.comp_def, BitVec.toNat_ofNat, Nat.pow_mul]
  have hlt : packEls w es < (2 ^ 64) ^ k := by
    rw [← Nat.pow_mul]
    exact (packEls_lt hw es).trans_le (Nat.pow_le_pow_right (by omega) (by rw [Nat.mul_comm]; exact hk))
  have h := ofDigits_range (2 ^ 64) (packEls w es) k
  rw [← hd, Nat.ofDigits_eq_foldr, List.foldr_map, Nat.mod_eq_of_lt hlt] at h
  simpa using h

/-- Settles O23: the doublewords make the elements' number, and each takes the poison of the elements that it holds bits of. -/
theorem elementPlaces : Obligations.ElementPlaces := by
  intro k w es hw hk ws v
  have hv : v = packEls w es := wordsOf_number hw hk
  refine ⟨by simp [ws, wordsOf], hv ▸ packEls_lt hw es, fun i h => hv ▸ packEls_el es h, fun j h => ?_⟩
  have hb : ws[j].bad = badAt w j 0 es := by simp [ws, wordsOf]
  rw [hb, badAt_iff]
  simp

end Sys2Proof.Proofs

namespace Sys2Proof.Proofs

open Sys2Proof Sys2Proof.Machine Sys2Proof.Laws

section
variable {s : State} {lea gid round : Nat} {g : Gang} {q : GredRound}

/-! ## Gangs and rounds after an update (R350) -/

/-- The gang that an update names is the updated one, where the update keeps what names it. -/
theorem gang_modGang {f : Gang → Gang} (h : s.gang lea gid = some g) (hf : ∀ g, (f g).lea = g.lea ∧ (f g).gid = g.gid) :
    (s.modGang lea gid f).gang lea gid = some (f g) := by
  have hg := List.find?_some h
  simp only [Bool.and_eq_true, beq_iff_eq] at hg
  have hp : (fun x : Gang => x.lea == lea && x.gid == gid) ∘ (fun x => if x.lea = lea ∧ x.gid = gid then f x else x)
      = fun x : Gang => x.lea == lea && x.gid == gid := by
    funext x
    simp only [Function.comp]
    split
    · rw [(hf x).1, (hf x).2]
    · rfl
  unfold State.gang State.modGang
  rw [List.find?_map, hp]
  unfold State.gang at h
  rw [h, Option.map_some, if_pos hg]

theorem gang_gid (h : s.gang lea gid = some g) : g.gid = gid := by
  have hg := List.find?_some h
  simp only [Bool.and_eq_true, beq_iff_eq] at hg
  exact hg.2

theorem round_num (h : g.round round = some q) : q.num = round := by
  have hq := List.find?_some h
  exact beq_iff_eq.1 hq

theorem modRound_name (g : Gang) (n : Nat) (f : GredRound → GredRound) : (g.modRound n f).lea = g.lea ∧ (g.modRound n f).gid = g.gid := by
  unfold Gang.modRound
  split <;> exact ⟨rfl, rfl⟩

/-- The round that an update names is the updated one, where the update keeps its number. -/
theorem round_modRound {f : GredRound → GredRound} (h : g.round round = some q) (hf : ∀ q, (f q).num = q.num) :
    (g.modRound round f).round round = some (f q) := by
  have hp : (fun x : GredRound => x.num == round) ∘ (fun x => if x.num = round then f x else x) = fun x => x.num == round := by
    funext x
    simp only [Function.comp]
    split
    · rw [hf x]
    · rfl
  have ha : g.rounds.any (fun r => r.num == round) = true :=
    List.any_eq_true.2 ⟨q, List.mem_of_find?_eq_some h, beq_iff_eq.2 (round_num h)⟩
  unfold Gang.round at h
  simp only [Gang.round, Gang.modRound, ha, if_true, List.find?_map, hp, h, Option.map_some, if_pos (round_num h)]

/-! ## Messages of units -/

theorem unitPost_keeps {e : Mail} (src dst : Nat) (m : Msg) (h : e ∈ s.mail) : e ∈ (s.unitPost lea src dst m).mail :=
  List.mem_append_left _ h

theorem unitPost_posts (s : State) (lea src dst : Nat) (m : Msg) : ∃ e ∈ (s.unitPost lea src dst m).mail, e.msg = m ∧ e.dst = dst :=
  ⟨_, List.mem_append_right _ (List.mem_singleton_self _), rfl, rfl⟩

@[simp] theorem unitPosts_gangs (lea src : Nat) : ∀ (l : List (Nat × Msg)) (s : State), (s.unitPosts lea src l).gangs = s.gangs
  | [], _ => rfl
  | (dst, m) :: t, s => unitPosts_gangs lea src t (s.unitPost lea src dst m)

theorem unitPosts_keeps (lea src : Nat) {e : Mail} : ∀ (l : List (Nat × Msg)) {s : State}, e ∈ s.mail → e ∈ (s.unitPosts lea src l).mail
  | [], _, h => h
  | (dst, m) :: t, _, h => unitPosts_keeps lea src t (unitPost_keeps src dst m h)

/-- Every message of a list is posted. -/
theorem unitPosts_posts (lea src : Nat) {dst : Nat} {m : Msg} {l : List (Nat × Msg)} {s : State} (h : (dst, m) ∈ l) :
    ∃ e ∈ (s.unitPosts lea src l).mail, e.msg = m ∧ e.dst = dst := by
  induction l generalizing s with
  | nil => exact absurd h List.not_mem_nil
  | cons p t ih =>
    obtain ⟨d, n⟩ := p
    rcases List.mem_cons.1 h with hp | ht
    · obtain ⟨e, he, hm, hd⟩ := unitPost_posts s lea src d n
      injection hp with h1 h2
      exact ⟨e, unitPosts_keeps lea src t he, hm.trans h2.symm, hd.trans h1.symm⟩
    · exact ih (s := s.unitPost lea src d n) ht

/-! ## GRED (R333, R349) -/

theorem withExchange_go {f : State → State} (h : s.exchangeFlits s.cur.1 s.me.lea < 16) : s.withExchange f = f s :=
  if_neg (by omega)

section
variable {o : BitVec 4} {a d : BitVec 5} (h15 : s.cur.2 ≠ 15) (hr : s.Reads [a.toNat] [d.toNat])
include h15 hr

/-- A thread whose last result is still to be delivered waits for it. -/
theorem gred_awaits {m : Member} (hg : s.myGang = some g) (hm : g.member (g.rankOf s.cur.1 s.cur.2) = some m) (hd : m.gredDst ≠ none) :
    exec (.gred o a d) s = .next s.forfeit := by
  refine congrArg Host.Outcome.next ((no15_go h15).trans ((withOperands_go hr).trans (if_pos ?_)))
  simpa [hg, hm, Option.isSome_iff_ne_none] using hd

variable (hx : s.exchangeFlits s.cur.1 s.me.lea < 16) (hb : (s.w a.toNat).bad = false)
include hx hb

theorem gred_noGang (hg : s.myGang = none) : exec (.gred o a d) s = .next (s.raise 4 0x47 0) := by
  refine congrArg Host.Outcome.next ((no15_go h15).trans ((withOperands_go hr).trans ((if_neg ?_).trans
    ((withExchange_go hx).trans ((needClean_go hb).trans ?_)))))
  · simp [hg]
  · simp only [hg]

theorem gred_noTree {m : Member} (hg : s.myGang = some g) (hm : g.member (g.rankOf s.cur.1 s.cur.2) = some m) (hd : m.gredDst = none)
    (ht : g.tree = none) : exec (.gred o a d) s = .next (s.raise 4 0x47 0) := by
  refine congrArg Host.Outcome.next ((no15_go h15).trans ((withOperands_go hr).trans ((if_neg ?_).trans
    ((withExchange_go hx).trans ((needClean_go hb).trans ?_)))))
  · simp [hg, hm, hd]
  · simp only [hg, ht, Option.isNone_none, if_true]

/-- A contribution is on its way, in the round that the thread begins, and its destination is empty. -/
theorem gred_sends {m : Member} (hg : s.myGang = some g) (hm : g.member (g.rankOf s.cur.1 s.cur.2) = some m) (hd : m.gredDst = none)
    (ht : g.tree ≠ none) : exec (.gred o a d) s = .next ((((({ s with nextId := s.nextId + 1 }.post
      (s.newMail s.nextId s.cur.1 0 (.gredIn g.gid m.gredRound (g.rankOf s.cur.1 s.cur.2)))).markWord (s.wAddr d.toNat) .empty).modGang
      g.lea g.gid (fun h => (h.modMember (g.rankOf s.cur.1 s.cur.2) (fun y =>
        { y with gredRound := m.gredRound + 1, gredDst := some (m.gredRound, s.wAddr d.toNat) })).modRound m.gredRound (fun q =>
        { q with given := keySet q.given (g.rankOf s.cur.1 s.cur.2) ⟨o.toNat, s.w a.toNat, s.nsr, s.me.tid, s.nextId⟩ }))).issue 4).touched
      (s.wAddr d.toNat)) := by
  refine congrArg Host.Outcome.next ((no15_go h15).trans ((withOperands_go hr).trans ((if_neg ?_).trans
    ((withExchange_go hx).trans ((needClean_go hb).trans ?_)))))
  · simp [hg, hm, hd]
  · simp only [hg, hm, Option.isNone_iff_eq_none, ht, if_false]

end

/-! ## A node combines (R350) -/

/-- The operator of a round: that of its contribution of the lowest rank. -/
def gredOp (q : GredRound) : Nat := (q.given.head?.map (fun e => e.2.op)).getD 0

/-- The ranks of a node. -/
def nodeRanks (g : Gang) (n : Nat) : List Nat := (List.range g.spc).map (fun r => n * g.spc + r)

/-- The value of a node: its ranks' contributions in order and then its children's values. -/
def nodeValue (g : Gang) (q : GredRound) (n : Nat) : Option PWord :=
  gredFold (gredOp q) ((nodeRanks g n).filterMap (fun r => (keyFind q.given r).map (fun x => x.val)) ++
    (g.kids n).filterMap (fun c => keyGet none q.nodes c))

/-- The result that the root makes of its value. -/
def rootValue (s : State) (lea : Nat) (g : Gang) (q : GredRound) (n : Nat) : Option PWord :=
  (nodeValue g q n).map (fun x =>
    ⟨if q.given.all (fun e => e.2.op == gredOp q) && !x.bad then (if 9 ≤ gredOp q then x.val &&& 0xFFFFFFFF#64 else x.val)
      else s.undef (some lea) s.free, x.bad⟩)

/-- The round once a node has combined. -/
def nodeCombined (s : State) (lea : Nat) (g : Gang) (q : GredRound) (n : Nat) (p : GredRound) : GredRound :=
  { p with
    nodes := keySet p.nodes n (nodeValue g q n)
    result := if n = 0 then rootValue s lea g q n else p.result
    reached := if n = 0 then [0] else p.reached }

/-- The state once a node has combined what came to it, before it sends its value on. -/
def afterCombine (s : State) (lea gid round n : Nat) (g : Gang) (q : GredRound) : State :=
  { s with
    free := s.free + 1
    mail := s.mail.filter (fun m => !(m.lea == lea && m.msg.toNode gid round (nodeRanks g n) (g.kids n))) }.modGang lea gid
      (fun h => h.modRound round (nodeCombined s lea g q n))

section
variable {n : Nat} (hg : s.gang lea gid = some g) (hq : g.round round = some q)
include hg hq

theorem gredContributionArrive_early
    (h : (∃ r ∈ nodeRanks g n, s.gredIn g q r = false) ∨ ∃ c ∈ g.kids n, s.gredUp g q n c = false) :
    exec (.gredContributionArrive lea gid round n) s = .next s := by
  refine congrArg Host.Outcome.next ?_
  simp only [hg, hq]
  refine if_pos ?_
  rcases h with ⟨r, hr, hf⟩ | ⟨c, hc, hf⟩
  · have ha : (nodeRanks g n).all (s.gredIn g q) = false := List.all_eq_false.2 ⟨r, hr, by simp [hf]⟩
    unfold nodeRanks at ha
    simp [ha]
  · have ha : (g.kids n).all (s.gredUp g q n) = false := List.all_eq_false.2 ⟨c, hc, by simp [hf]⟩
    simp [ha]

/-- A node that has all that it combines sends its value down the tree from the root, and to its parent from elsewhere. -/
theorem gredContributionArrive_combines (hn : n < g.ncore) (hk : keyFind q.nodes n = none)
    (hr : ∀ r ∈ nodeRanks g n, s.gredIn g q r = true) (hc : ∀ c ∈ g.kids n, s.gredUp g q n c = true) :
    exec (.gredContributionArrive lea gid round n) s = .next (
      if n = 0 then (afterCombine s lea gid round n g q).gredSpread g round 0
      else (afterCombine s lea gid round n g q).unitPost lea (g.coreOf n) (g.coreOf ((n - 1) / 4)) (.gredUp gid round n)) := by
  refine congrArg Host.Outcome.next ?_
  simp only [hg, hq]
  refine (if_neg ?_).trans ?_
  · have ha : (nodeRanks g n).all (s.gredIn g q) = true := List.all_eq_true.2 hr
    have hb : (g.kids n).all (s.gredUp g q n) = true := List.all_eq_true.2 hc
    unfold nodeRanks at ha
    simp [ha, hb, hk, hn]
  · unfold afterCombine nodeCombined rootValue nodeValue gredOp
    cases q.given <;> rfl

end

theorem afterCombine_gang {n : Nat} (hg : s.gang lea gid = some g) :
    (afterCombine s lea gid round n g q).gang lea gid = some (g.modRound round (nodeCombined s lea g q n)) :=
  gang_modGang (s := { s with free := _, mail := _ }) hg fun h => modRound_name h _ _

theorem nodeCombined_round {n : Nat} (hq : g.round round = some q) :
    (g.modRound round (nodeCombined s lea g q n)).round round = some (nodeCombined s lea g q n q) :=
  round_modRound hq fun _ => rfl

theorem nodeCombined_value (n : Nat) : keyGet none (nodeCombined s lea g q n q).nodes n = nodeValue g q n := keyGet_keySet_same ..

theorem gang_of_gangs {t : State} (h : t.gangs = s.gangs) : t.gang lea gid = s.gang lea gid := by unfold State.gang; rw [h]

/-- The state after a node combined and sent its value keeps memory, and its round has the node's value. -/
theorem gredContributionArrive_state {n : Nat} {t : State} (hg : s.gang lea gid = some g) (hq : g.round round = some q)
    (hm : t.mem = (afterCombine s lea gid round n g q).mem) (ht : t.gangs = (afterCombine s lea gid round n g q).gangs) :
    t.mem = s.mem ∧ t.gang lea gid = some (g.modRound round (nodeCombined s lea g q n))
      ∧ (g.modRound round (nodeCombined s lea g q n)).round round = some (nodeCombined s lea g q n q)
      ∧ keyGet none (nodeCombined s lea g q n q).nodes n = nodeValue g q n :=
  ⟨hm, (gang_of_gangs ht).trans (afterCombine_gang hg), nodeCombined_round hq, nodeCombined_value n⟩

/-! ## A result delivered (R33, R350) -/

section
variable {rank dst : Nat} {m : Member} {v : PWord}

/-- A result that lies at a member's core is given to the member. -/
theorem gredResultDeliver_gives (hg : s.gang lea gid = some g) (hq : g.round round = some q) (hm : g.member rank = some m)
    (hd : q.delivered.contains rank = false) (hr : q.reached.contains (rank / g.spc) = true) (hl : s.gredLate g m = false)
    (hu : s.unitMail g.lea (g.coreOf (rank / g.spc)) (.gredDown g.gid round (rank / g.spc)) = none) (hv : q.result = some v) :
    exec (.gredResultDeliver lea gid round rank) s = .next (s.gredGive g q m rank v) := by
  refine congrArg Host.Outcome.next ?_
  have hs : s.gredReach g round (rank / g.spc) = s := by simp only [State.gredReach, hu]
  simp only [hg, hs, hq, hm, hv, hd, hr, hl]
  rfl

theorem gredGive_eq (hn : m.gredDst = some (q.num, dst)) : ∃ f, s.gredGive g q m rank v = (s.gredDeposit g m dst v (g.nsrOf q)).modGang g.lea g.gid f := by
  unfold State.gredGive
  simp only [hn, if_true]
  exact ⟨_, rfl⟩

variable {nsr : Bool} (hh : s.memberHere g m = true)
include hh

/-- A result whose NSR is the member's goes to its destination where that is still empty. -/
theorem gredDeposit_same (hs : (s.slot m.core m.slot).desc.stat.getLsbD 3 = nsr) :
    s.gredDeposit g m dst v nsr = if s.mem.feOf dst = some .empty then s.fillExt dst v else s :=
  (if_neg (by simp [hh])).trans (if_neg (by rw [hs]; simp))

/-- A member whose NSR differs owes a trap in place of the result. -/
theorem gredDeposit_differs (hs : (s.slot m.core m.slot).desc.stat.getLsbD 3 ≠ nsr) : s.gredDeposit g m dst v nsr =
    s.modSlot m.core m.slot (fun x => { x with owedTrap := some (0x4A, s.gangSender g) }) :=
  (if_neg (by simp [hh])).trans (if_pos (bne_iff_ne.2 hs))

end

end

/-- Settles O29: GRED at issue, a node that combines, and a result that is delivered. -/
theorem groupReduction : Obligations.GroupReduction := by
  unfold Obligations.GroupReduction
  refine ⟨?_, ?_, ?_⟩
  · intro o a d s
    refine ⟨fun h => congrArg Host.Outcome.next (no15_trap (by simpa [State.in15] using h)), fun h hr => ?_⟩
    have h15 : s.cur.2 ≠ 15 := by simpa [State.in15] using h
    exact ⟨fun hg hx hb => gred_noGang h15 hr hx hb hg, fun g m hg hm => ⟨gred_awaits h15 hr hg hm, fun hd hx hb =>
      ⟨gred_noTree h15 hr hx hb hg hm hd, gred_sends h15 hr hx hb hg hm hd⟩⟩⟩
  · intro s lea gid round n g q hg hq hn hk
    refine ⟨gredContributionArrive_early hg hq, fun hr hc => ?_⟩
    by_cases h0 : n = 0
    · subst h0
      obtain ⟨hm, ht, hp, hv⟩ := gredContributionArrive_state (t := (afterCombine s lea gid round 0 g q).gredSpread g round 0) hg hq
        (gredSpread_mem ..) (unitPosts_gangs ..)
      refine ⟨_, _, _, (gredContributionArrive_combines hg hq hn hk hr hc).trans (congrArg Host.Outcome.next (if_pos rfl)), hm, ht, hp, hv,
        fun _ => ⟨rfl, fun c hc => unitPosts_posts _ _ ?_⟩, fun h => absurd rfl h⟩
      rw [gang_gid hg]
      exact List.mem_map_of_mem hc
    · obtain ⟨hm, ht, hp, hv⟩ := gredContributionArrive_state (t := (afterCombine s lea gid round n g q).unitPost lea (g.coreOf n)
        (g.coreOf ((n - 1) / 4)) (.gredUp gid round n)) hg hq rfl rfl
      exact ⟨_, _, _, (gredContributionArrive_combines hg hq hn hk hr hc).trans (congrArg Host.Outcome.next (if_neg h0)), hm, ht, hp, hv,
        fun h => absurd h h0, fun _ => ⟨if_neg h0, unitPost_posts ..⟩⟩
  · intro s lea gid round rank g m q v dst hg hq hm hd hr hl hu hv hn hh nsr
    have hgive := gredResultDeliver_gives hg hq hm hd hr hl hu hv
    obtain ⟨f, hf⟩ := gredGive_eq (s := s) (g := g) (q := q) (rank := rank) (v := v) ((round_num hq).symm ▸ hn)
    rw [hf] at hgive
    refine ⟨fun hs => ⟨_, hgive, ?_⟩, fun hs => ?_⟩
    · rw [modGang_mem, gredDeposit_same (nsr := g.nsrOf q) hh hs]
      split <;> rfl
    · rw [gredDeposit_differs (nsr := g.nsrOf q) hh hs] at hgive
      exact ⟨_, hgive, rfl, fun hk => congrArg Slot.owedTrap (slot_modSlot s _ _ _ hk)⟩

end Sys2Proof.Proofs

namespace Sys2Proof.Proofs

open Sys2Proof Sys2Proof.Machine Sys2Proof.Laws

section
variable {s : State} {core : Nat} {e : BayEntry} {rest : List BayEntry}

/-! ## An array cycle (R174, R177) -/

theorem bayEntryPerform_idle (h : s.cycle core % 4 ≠ core % 4 ∨ s.cycle core < (s.core core).arrayed ∨ (s.core core).turned ≤ s.cycle core) :
    exec (.bayEntryPerform core) s = .next s := by
  refine congrArg Host.Outcome.next (if_pos ?_)
  simpa [State.turnOver] using h

/-- An array cycle performs the entry at the head, where it issued before. -/
theorem bayEntryPerform_head (hc : s.cycle core % 4 = core % 4) (ha : (s.core core).arrayed ≤ s.cycle core)
    (ht : s.cycle core < (s.core core).turned) (hq : (s.core core).bay.queue = e :: rest) (hd : e.done = none)
    (hi : e.issuedAt < s.cycle core) : exec (.bayEntryPerform core) s = .next (s.modCore core (fun c =>
      { c with bay := { c.bay with queue := { e with done := some (s.cycle core) } :: rest }, arrayed := s.cycle core + 1 })) := by
  have hp : performFirst (s.cycle core) (e :: rest) = { e with done := some (s.cycle core) } :: rest := by simp [performFirst, hd, hi]
  refine congrArg Host.Outcome.next ((if_neg ?_).trans ?_)
  · simp only [State.turnOver, ht]
    simp
    omega
  · unfold State.modCore
    simp only [hq, hp]

/-! ## The end of cycle t + 4 (R177) -/

theorem bayEntryEffect_early {t : Nat} (hq : (s.core core).bay.queue = e :: rest) (hd : e.done = some t) (h : s.cycle core ≤ t + 4) :
    exec (.bayEntryEffect core) s = .next s := by
  refine congrArg Host.Outcome.next ?_
  simp only [hq, hd]
  exact if_neg (by omega)

theorem bayEntryEffect_due {t : Nat} (hq : (s.core core).bay.queue = e :: rest) (hd : e.done = some t) (h : t + 4 < s.cycle core) :
    exec (.bayEntryEffect core) s = .next (s.bayEffect core e) := by
  refine congrArg Host.Outcome.next ?_
  simp only [hq, hd]
  exact if_pos h

theorem core_dropOut (s : State) (id c : Nat) : (s.dropOut id).core c = s.core c := by
  unfold State.core
  rw [dropOut_cores]

/-! ## What an entry does (R187-R196) -/

/-- The state without the entry at the head of a bay's queue. -/
def popped (s : State) (core : Nat) : State := s.modBay core (fun b => { b with queue := b.queue.drop 1 })

theorem popped_core (s : State) (core : Nat) : ((popped s core).core core) =
    { s.core core with bay := { (s.core core).bay with queue := (s.core core).bay.queue.drop 1 } } := core_modCore ..

/-- A tile is configured. -/
theorem bayEffect_mcfg {k : Nat} {v : BitVec 10} (he : e.op = .mcfg k v) :
    s.bayEffect core e = ((popped s core).modBay core (fun b => b.modTile k (fun x => x.configure v))).dropOut e.outId := by
  simp only [State.bayEffect, he]
  rfl

/-- A tile is zeroed. -/
theorem bayEffect_mzero {k : Nat} (he : e.op = .mzero k) : s.bayEffect core e =
    ((popped s core).modBay core (fun b => b.modTile k (fun x => { x with data := [], bad := [] }))).dropOut e.outId := by
  simp only [State.bayEffect, he]
  rfl

/-- The planes change places. -/
theorem bayEffect_mswap (he : e.op = .mswap) : s.bayEffect core e =
    ((popped s core).modBay core (fun b => { b with active := b.shadow, shadow := b.active })).dropOut e.outId := by
  simp only [State.bayEffect, he]
  rfl

/-- A step leaves its thread Ready and its bay as the step makes it. -/
theorem bayEffect_mstep {k row : Nat} {a : VReg} {bad : List Nat} {m : MReg} {nsr fz : Bool} {o : Out} {x : Slot}
    (he : e.op = .mstep k row a bad m nsr fz) (ho : s.out e.outId = some o) (hx : (s.core core).slots[o.slot]? = some x)
    (ht : x.tid = o.tid) (hr : x.run = .matrixStep) :
    ((s.bayEffect core e).core core).slots[o.slot]? = some { x with run := .ready }
    ∧ ((s.bayEffect core e).core core).bay = ((popped s core).core core).bay.step
        (fun i => (popped s core).undef (s.core core).lea (s.free + i)) k row a bad m nsr fz
    ∧ (s.bayEffect core e).mem = s.mem := by
  have hs : s.bayEffect core e = ((({ popped s core with free := s.free + 128 }.modBay core (fun b =>
      b.step (fun i => (popped s core).undef ((popped s core).core core).lea (s.free + i)) k row a bad m nsr fz)).modSlot core o.slot
        (fun x => if x.tid = o.tid then x.stepDone else x)).dropOut e.outId) := by
    have hp : (popped s core).out e.outId = some o := ho
    unfold popped at hp
    simp only [State.bayEffect, he, hp]
    rfl
  have hd : x.stepDone = { x with run := .ready } := if_pos hr
  have hc : (s.bayEffect core e).core core = Core.modSlot { (popped s core).core core with
      bay := ((popped s core).core core).bay.step (fun i => (popped s core).undef ((popped s core).core core).lea (s.free + i))
        k row a bad m nsr fz } o.slot (fun x => if x.tid = o.tid then x.stepDone else x) := by
    rw [hs, core_dropOut, State.modSlot, core_modCore, State.modBay, core_modCore]
    rfl
  have hl : ((popped s core).core core).lea = (s.core core).lea := by rw [popped_core]
  refine ⟨?_, ?_, ?_⟩
  · rw [hc, popped_core]
    simp [Core.modSlot, listMod, hx, ht, hd]
  · rw [hc, hl]
    rfl
  · rw [hs, dropOut_mem]
    rfl

/-- The flags are read as they stand before they are cleared, and fill the instruction's destination. -/
theorem bayEffect_mflags {m : BitVec 32} {o : Out} (he : e.op = .mflags m) (ho : (popped s core).out e.outId = some o) :
    s.bayEffect core e = ((popped s core).modBay core (fun b => b.clearFlags m)).fillOut o
      [⟨((popped s core).core core).bay.flagsWord, false⟩] Flags.none := by
  unfold popped at ho
  simp only [State.bayEffect, he, ho]
  rfl

theorem bayEffect_mdrain {k start f : Nat} {rm : BitVec 2} {nsr fz : Bool} {o : Out} (he : e.op = .mdrain k start f rm nsr fz)
    (ho : s.out e.outId = some o) : s.bayEffect core e =
      (if ((s.core core).bay.tile k |>.drain start f (Rm.ofRM rm) nsr fz).2.2 then
        (popped s core).modBay core (fun b => b.modTile k (fun x => { x with flags := x.flags ||| 4 })) else popped s core).fillOut o
        (((s.core core).bay.tile k).drain start f (Rm.ofRM rm) nsr fz).1
        (((s.core core).bay.tile k).drain start f (Rm.ofRM rm) nsr fz).2.1 := by
  have hp : (popped s core).out e.outId = some o := ho
  have hb : ((popped s core).core core).bay.tile k = (s.core core).bay.tile k := by rw [popped_core]; rfl
  unfold popped at hp hb
  simp only [State.bayEffect, he, hp, hb]
  rfl

/-- A save copies the tile's image into the port. -/
theorem bayEffect_msave {k sg space die a off : Nat} (he : e.op = .msave k sg space die a off) : s.bayEffect core e =
    (popped s core).modBay core (fun b => { b with
      port := some { outId := e.outId, kind := 1, tile := k, space := space, die := die, addr := a, sgOff := off, size := 16448,
                     left := portPieces a 16448, image := ((s.core core).bay.tile k).image.1,
                     bad := ((s.core core).bay.tile k).image.2, flow := [], parked := none, stalled := none } }) := by
  have hb : ((popped s core).core core).bay.tile k = (s.core core).bay.tile k := by rw [popped_core]; rfl
  unfold popped at hb
  simp only [State.bayEffect, he, hb]
  rfl

/-! ## The elements that a drain delivers (R192, R201) -/

theorem getD_drainFmt {f : Nat} (h0 : f ≠ 0) (h : f < 5) : [fp32, bf16, fp16, e4m3, e5m2].getD f fp32 = drainFmt f := by
  interval_cases f
  · exact absurd rfl h0
  all_goals rfl

/-- Element i that a drain of a clean tile delivers. -/
def drained (t : Tile) (start f : Nat) (rm : Rm) (nsr fz : Bool) (i : Nat) : El :=
  let r := (drainFmt f).enc nsr fz rm (fp32.dec true fz (t.data.read (4 * (start + i)) 4))
  if f = 0 then ⟨t.data.read (4 * (start + i)) 4, 0, false⟩ else ⟨r.bits, r.flags, false⟩

theorem drain_clean {t : Tile} {start f : Nat} {rm : Rm} {nsr fz : Bool} (h : t.bad = []) :
    t.drain start f rm nsr fz =
      (wordsOf 32 (if f = 0 then 32 else (drainFmt f).bits) ((List.range (drainCount f)).map (drained t start f rm nsr fz)),
       flagsOf ((List.range (drainCount f)).map (drained t start f rm nsr fz)),
       f != 0 && (List.range 128).any (fun i => (drained t start f rm nsr fz i).flags.getLsbD 2
         && (drained t start f rm nsr fz i).val % 2 ^ ((drainFmt f).eb + (drainFmt f).mb) == (drainFmt f).maxCode nsr)) := by
  have hes : ((List.range (drainCount f)).map (fun i =>
      (drainEl f rm nsr fz (t.data.read (4 * (start + i)) 4), t.bad.contains ((start + i) / 2)))).map
      (fun x => (⟨x.1.1, x.1.2.1, x.2⟩ : El)) = (List.range (drainCount f)).map (drained t start f rm nsr fz) := by
    rw [List.map_map]
    refine List.map_congr_left fun i _ => ?_
    by_cases hf : f = 0 <;> simp [drainEl, drained, hf, h, Flags.none]
  unfold Tile.drain
  simp only [hes]
  by_cases hf : f = 0 <;> simp [drainEl, drained, drainCount, hf, h, List.any_map, Function.comp_def]

theorem bayEffect_mdrain_clean {k start f : Nat} {rm : BitVec 2} {nsr fz : Bool} {o : Out} (he : e.op = .mdrain k start f rm nsr fz)
    (hf : f < 5) (ho : s.out e.outId = some o) (hb : ((s.core core).bay.tile k).bad = []) :
    let g := [fp32, bf16, fp16, e4m3, e5m2].getD f fp32
    let code (i : Nat) : Nat := ((s.core core).bay.tile k).data.read (4 * (start + i)) 4
    let r (i : Nat) : Res := g.enc nsr fz (Rm.ofRM rm) (fp32.dec true fz (code i))
    let els : List El := (List.range (if f = 0 then 64 else 128)).map (fun i =>
      if f = 0 then ⟨code i, 0, false⟩ else ⟨(r i).bits, (r i).flags, false⟩)
    let cut : Bool := f != 0 && (List.range 128).any (fun i =>
      (r i).flags.getLsbD 2 && (r i).bits % 2 ^ (g.eb + g.mb) == g.maxCode nsr)
    s.bayEffect core e = (if cut then (popped s core).modBay core (fun b => b.modTile k (fun x => { x with flags := x.flags ||| 4 }))
      else popped s core).fillOut o (wordsOf 32 g.bits els) (flagsOf els) := by
  intro g code r els cut
  rw [bayEffect_mdrain he ho, drain_clean hb]
  by_cases h0 : f = 0
  · subst h0
    rfl
  · have hg : drainFmt f = g := (getD_drainFmt h0 hf).symm
    have hels : (List.range (drainCount f)).map (drained ((s.core core).bay.tile k) start f (Rm.ofRM rm) nsr fz) = els :=
      List.map_congr_left fun i _ => by simp only [drained, hg, h0, if_false]; rfl
    have hcut : (f != 0 && (List.range 128).any (fun i =>
        (drained ((s.core core).bay.tile k) start f (Rm.ofRM rm) nsr fz i).flags.getLsbD 2
          && (drained ((s.core core).bay.tile k) start f (Rm.ofRM rm) nsr fz i).val % 2 ^ ((drainFmt f).eb + (drainFmt f).mb)
            == (drainFmt f).maxCode nsr)) = cut := by
      simp only [drained, hg, h0, if_false]
      rfl
    simp only [hels, hcut, h0, if_false]
    rw [hg]

end

end Sys2Proof.Proofs

namespace Sys2Proof.Proofs

open Sys2Proof Sys2Proof.Machine Sys2Proof.Laws

/-! ## Bytes of a number (R80) -/

section
variable {c : Cells}

/-- Two lists of bytes that agree on a range are read alike there. -/
theorem read_congr {d : Cells} : ∀ (n : Nat) {a : Nat}, (∀ i, a ≤ i → i < a + n → c.get i = d.get i) → c.read a n = d.read a n
  | 0, _, _ => rfl
  | n + 1, a, h => by
    rw [Cells.read, Cells.read, h a le_rfl (by omega), read_congr n fun i h1 h2 => h i (by omega) (by omega)]

theorem read_lt (c : Cells) : ∀ (n a : Nat), c.read a n < 256 ^ n
  | 0, _ => by simp [Cells.read]
  | n + 1, a => by
    have h1 : (c.get a).toNat < 256 := (c.get a).isLt
    have h2 := read_lt c n (a + 1)
    rw [Cells.read, Nat.pow_succ']
    omega

/-- A range is read as its first part and the rest. -/
theorem read_add (c : Cells) : ∀ (m n a : Nat), c.read a (m + n) = c.read a m + 256 ^ m * c.read (a + m) n
  | 0, n, a => by simp [Cells.read]
  | m + 1, n, a => by
    rw [Nat.add_right_comm, Cells.read, Cells.read, read_add c m n (a + 1), Nat.pow_succ', Nat.add_right_comm a 1 m, Nat.add_assoc a m 1]
    ring

/-- A part of a range is read from the range's number. -/
theorem read_div_mod (c : Cells) {n i m : Nat} (a : Nat) (h : i + m ≤ n) : c.read a n / 256 ^ i % 256 ^ m = c.read (a + i) m := by
  obtain ⟨k, rfl⟩ : ∃ k, n = i + (m + k) := ⟨n - i - m, by omega⟩
  rw [read_add, read_add, Nat.add_mul_div_left _ _ (by positivity), Nat.div_eq_of_lt (read_lt c i a), Nat.zero_add,
    Nat.add_mul_mod_self_left, Nat.mod_eq_of_lt (read_lt c m (a + i))]

/-- A part of what was written is read back. -/
theorem read_write_part {n i m : Nat} (a v : Nat) (hc : c.wf = true) (h : i + m ≤ n) :
    (c.write a n v).read (a + i) m = v / 256 ^ i % 256 ^ m := by
  obtain ⟨k, rfl⟩ : ∃ k, n = i + (m + k) := ⟨n - i - m, by omega⟩
  rw [← read_div_mod _ a h, read_write _ a v hc, Nat.pow_add 256 i, Nat.mod_mul_right_div_self, Nat.pow_add, Nat.mod_mul_right_mod]

theorem get_cons (k : Nat) (v : Byte) (t : Cells) (a : Nat) : Cells.get ((k, v) :: t) a = if a = k then v else t.get a := rfl

/-- An address that no cell names holds zero. -/
theorem get_of_absent {a : Nat} : ∀ {c : Cells}, (∀ p ∈ c, p.1 ≠ a) → c.get a = 0
  | [], _ => rfl
  | (k, v) :: t, h => by
    rw [get_cons, if_neg fun e => h (k, v) (by simp) e.symm]
    exact get_of_absent fun p hp => h p (List.mem_cons_of_mem _ hp)

theorem read_of_zero : ∀ (n : Nat) {a : Nat}, (∀ i, a ≤ i → i < a + n → c.get i = 0) → c.read a n = 0
  | 0, _, _ => rfl
  | n + 1, a, h => by
    rw [Cells.read, h a le_rfl (by omega), read_of_zero n fun i h1 h2 => h i (by omega) (by omega)]
    rfl

theorem num_cons (k : Nat) (v : Byte) (t : Cells) : Cells.num ((k, v) :: t) = t.num + v.toNat * 256 ^ k := rfl

/-- The cells of a rising list within a range make up the number that the range is read as. -/
theorem num_eq_read : ∀ {c : Cells}, c.Pairwise (fun p q => p.1 < q.1) → ∀ {b n : Nat}, (∀ p ∈ c, b ≤ p.1 ∧ p.1 < b + n) →
    c.num = 256 ^ b * c.read b n
  | [], _, b, n, _ => by rw [read_of_zero n fun _ _ _ => rfl]; rfl
  | (k, v) :: t, hp, b, n, h => by
    obtain ⟨hk, ht⟩ := List.pairwise_cons.1 hp
    have hb : b ≤ k ∧ k < b + n := h (k, v) (by simp)
    obtain ⟨i, rfl⟩ : ∃ i, k = b + i := ⟨k - b, by omega⟩
    obtain ⟨r, rfl⟩ : ∃ r, n = i + (r + 1) := ⟨n - i - 1, by omega⟩
    have hlow : Cells.read ((b + i, v) :: t) b i = 0 := read_of_zero i fun j _ h2 => get_of_absent fun p hp => by
      rcases List.mem_cons.1 hp with rfl | hp
      · exact (show b + i ≠ j by omega)
      · have := hk p hp
        omega
    have hhigh : Cells.read ((b + i, v) :: t) (b + i + 1) r = Cells.read t (b + i + 1) r := read_congr r fun j h1 _ => by
      rw [get_cons, if_neg (by omega)]
    have ih := num_eq_read ht (b := b + i + 1) (n := r) fun p hp => by
      have h1 := hk p hp
      have h2 := (h p (List.mem_cons_of_mem _ hp)).2
      omega
    rw [num_cons, ih, read_add, hlow, Cells.read, get_cons, if_pos rfl, hhigh, Nat.pow_succ, Nat.pow_add]
    ring

/-- A range is read from the number that all cells make up. -/
theorem num_div_mod (hc : c.wf = true) (n a : Nat) : c.num / 256 ^ a % 256 ^ n = c.read a n := by
  obtain ⟨N, hN⟩ : ∃ N, ∀ p ∈ c, p.1 < N := ⟨(c.map (·.1)).foldr max 0 + 1, fun p hp => Nat.lt_succ_of_le
    (List.le_max_of_le (List.mem_map_of_mem hp) le_rfl)⟩
  have h := num_eq_read ((cells_wf_iff c).1 hc).1 (b := 0) (n := N + (a + n)) fun p hp => ⟨Nat.zero_le _, by have := hN p hp; omega⟩
  rw [h, Nat.pow_zero, Nat.one_mul, read_div_mod c 0 (by omega), Nat.zero_add]

end

end Sys2Proof.Proofs

namespace Sys2Proof.Proofs

open Sys2Proof Sys2Proof.Machine Sys2Proof.Laws

/-! ## The size of a rounded code (R81, R88) -/

section
variable {f : Fmt} {fz : Bool} {rm : Rm}

theorem signBit_add_lt {neg : Bool} {x : Nat} (h : x < 2 ^ (f.eb + f.mb)) : f.signBit neg + x < 2 ^ (1 + f.eb + f.mb) := by
  have h2 : 2 ^ (1 + f.eb + f.mb) = 2 * 2 ^ (f.eb + f.mb) := by rw [Nat.add_assoc, Nat.pow_add]
  unfold Fmt.signBit
  split <;> omega

theorem top_mul_lt {x : Nat} (h : x < 2 ^ f.mb) : f.top * 2 ^ f.mb + x < 2 ^ (f.eb + f.mb) := by
  have h1 : f.top + 1 = 2 ^ f.eb := Nat.sub_add_cancel (Nat.one_le_two_pow)
  have h2 : 2 ^ (f.eb + f.mb) = f.top * 2 ^ f.mb + 2 ^ f.mb := by rw [Nat.pow_add, ← h1, Nat.succ_mul]
  omega

theorem maxCode_lt : f.maxCode true < 2 ^ (f.eb + f.mb) := by
  have h := top_mul_lt (f := f) (x := 0) (Nat.two_pow_pos _)
  have hs : f.special true = true := by simp [Fmt.special]
  rw [Fmt.maxCode, if_pos hs]
  omega

/-- A rounded finite value is a code of its format. -/
theorem roundFin_lt {neg : Bool} {m : Nat} {e : Int} : (roundFin f true fz rm neg m e).bits < 2 ^ (1 + f.eb + f.mb) := by
  have hmax := maxCode_lt (f := f)
  have hpos : f.signBit neg + 0 < 2 ^ (1 + f.eb + f.mb) := signBit_add_lt (Nat.two_pow_pos _)
  unfold roundFin
  split
  · exact hpos
  · dsimp only
    split
    · have hover (b : Bool) : (if b then f.infCode else f.maxCode true) < 2 ^ (f.eb + f.mb) := by
        split
        · exact top_mul_lt (Nat.two_pow_pos _)
        · exact hmax
      exact signBit_add_lt (hover _)
    · next hc =>
      split
      · exact hpos
      · exact signBit_add_lt (by omega)

theorem enc_lt (hm : 0 < f.mb) (v : Val) : (f.enc true fz rm v).bits < 2 ^ (1 + f.eb + f.mb) := by
  cases v with
  | nan =>
    rw [enc_nan]
    have h := top_mul_lt (f := f) (x := 2 ^ (f.mb - 1)) (Nat.pow_lt_pow_right (by omega) (by omega))
    exact h.trans_le (Nat.pow_le_pow_right (by omega) (by omega))
  | inf s =>
    rw [enc_inf]
    exact signBit_add_lt (top_mul_lt (Nat.two_pow_pos _))
  | fin s m e => exact roundFin_lt

end

/-! ## The elements of a step's operands (R185, R191) -/

/-- Bits within a part of a number are bits of the number. -/
theorem part_div_mod (x a : Nat) {b c d : Nat} (h : c + d ≤ b) : x / 2 ^ a % 2 ^ b / 2 ^ c % 2 ^ d = x / 2 ^ (a + c) % 2 ^ d := by
  refine Nat.eq_of_testBit_eq fun j => ?_
  simp only [Nat.testBit_mod_two_pow, Nat.testBit_div_two_pow]
  by_cases hj : j < d
  · simp [hj, show c + j < b by omega, Nat.add_comm, Nat.add_left_comm]
  · simp [hj]

/-- An element of a source with no poison. -/
theorem el_clean {x : VSrc} (h : x.bad = []) (w i : Nat) : x.el w i = ⟨x.v / 2 ^ (w * i) % 2 ^ w, Flags.none, false⟩ := by
  simp [VSrc.el, h]

/-- K of a configuration as its base times the multiple of the shape (R183). -/
def confK (c : BitVec 10) : Nat :=
  (if cfgAF c = 6 ∧ cfgWF c = 6 then 128 else if cfgAF c = 5 ∧ cfgWF c = 5 then 32 else 64) * 2 ^ cfgSHP c

/-- The length of a run of a configuration (R183). -/
def confL (c : BitVec 10) : Nat := if cfgAF c = 5 ∧ cfgWF c = 5 then 8 else 32

/-- A column's bytes in the plane of a configuration (R185). -/
def confP (c : BitVec 10) : Nat := confK c * matBits (cfgWF c) / 8

theorem extract_setWidth (c : BitVec 10) : (c.setWidth 64).extractLsb' 0 10 = c := by
  ext i hi
  simp [hi, show i < 64 by omega]

theorem shp_of_ok {c : BitVec 10} (h : cfgBad (c.setWidth 64) = false) : cfgSHP c < 3 := by
  have h4 : cfgSHP c < 4 := (c.extractLsb' 8 2).isLt
  have h3 : cfgSHP c ≠ 3 := by
    simp only [cfgBad, extract_setWidth, Bool.or_eq_false_iff] at h
    simpa using h.1.1.2
  omega

theorem confK_eq {c : BitVec 10} (h : cfgSHP c < 3) : cfgK c = confK c := by
  have hs : 128 / shpN (cfgSHP c) = 2 ^ cfgSHP c := by
    generalize cfgSHP c = n at *
    interval_cases n <;> rfl
  unfold cfgK confK matClass
  rw [hs]
  split
  · rfl
  · split <;> rfl

theorem confL_eq (c : BitVec 10) : runLen (matClass (cfgAF c) (cfgWF c)) = confL c := by
  unfold confL matClass
  split
  · next h => rw [if_neg (by omega)]; rfl
  · split <;> rfl

/-- A column's bits fill whole bytes. -/
theorem confP_mul (c : BitVec 10) : confP c * 8 = confK c * matBits (cfgWF c) := by
  have h : 8 ∣ confK c := by
    unfold confK
    refine Dvd.dvd.mul_right ?_ _
    split
    · decide
    · split <;> decide
  exact Nat.div_mul_cancel (h.mul_right _)

theorem matBits_pos (f : Nat) : 0 < matBits f := by
  unfold matBits
  split <;> decide

/-- The value of activation element i (R191). -/
def actVal (c : BitVec 10) (a : VReg) (mask : MReg) (nsr fz : Bool) (i : Nat) : Val :=
  if mask.getLsbD (if 128 < confK c then i * 128 / confK c else i) then
    matDec (cfgAF c) nsr fz (if cfgAF c = 6 then a.toNat / 2 ^ (8 * (128 + i / 32)) % 2 ^ 8 else 0)
      (a.toNat / 2 ^ (matBits (cfgAF c) * i) % 2 ^ matBits (cfgAF c))
  else .fin false 0 0

/-- The value of weight element i of a column (R185). -/
def weightVal (c : BitVec 10) (d : Cells) (nsr fz : Bool) (col i : Nat) : Val :=
  matDec (cfgWF c) nsr fz
    (if cfgWF c = 6 then d.read (128 / 2 ^ cfgSHP c * confP c + col * (confK c / 32) + i / 32) 1 else 0)
    (d.read (col * confP c) (confP c) / 2 ^ (matBits (cfgWF c) * i) % 2 ^ matBits (cfgWF c))

section
variable {c : BitVec 10} {a : VReg} {mask : MReg} {nsr fz : Bool} {d : Cells}

/-- What a column reads of clean operands. -/
def cleanIn (c : BitVec 10) (a : VReg) (mask : MReg) (nsr fz : Bool) (d : Cells) : StepIn :=
  { cfg := c, act := ⟨a.toNat, []⟩, plane := ⟨d.num, []⟩, mask := mask, nsr := nsr, fz := fz }

theorem actEl_clean (hs : cfgSHP c < 3) (i : Nat) : (cleanIn c a mask nsr fz d).actEl i = (actVal c a mask nsr fz i, false) := by
  simp only [StepIn.actEl, cleanIn, confK_eq hs, actVal, el_clean]
  generalize (if 128 < confK c then i * 128 / confK c else i) = bit
  cases hm : mask.getLsbD bit
  · simp
  · by_cases h6 : cfgAF c = 6 <;> simp [h6]

theorem weightEl_clean (hs : cfgSHP c < 3) (hd : d.wf = true) {col i : Nat} (hi : i < confK c) :
    (cleanIn c a mask nsr fz d).weightEl col i = (weightVal c d nsr fz col i, false) := by
  have hw := matBits_pos (cfgWF c)
  have hp : cfgP c = confP c := by rw [cfgP, confK_eq hs]; rfl
  have hcol : col * confP c * 8 / matBits (cfgWF c) = col * confK c := by
    rw [Nat.mul_assoc, confP_mul, ← Nat.mul_assoc, Nat.mul_div_cancel _ hw]
  have hcode : d.num / 2 ^ (matBits (cfgWF c) * (col * confK c + i)) % 2 ^ matBits (cfgWF c)
      = d.read (col * confP c) (confP c) / 2 ^ (matBits (cfgWF c) * i) % 2 ^ matBits (cfgWF c) := by
    have h256 (n : Nat) : 256 ^ n = 2 ^ (8 * n) := by rw [Nat.pow_mul]
    have hin : matBits (cfgWF c) * i + matBits (cfgWF c) ≤ 8 * confP c := by
      rw [Nat.mul_comm 8, confP_mul, Nat.mul_comm (confK c), ← Nat.mul_succ]
      exact Nat.mul_le_mul_left _ hi
    have hpos : 8 * (col * confP c) = matBits (cfgWF c) * (col * confK c) := by
      rw [Nat.mul_comm 8, Nat.mul_assoc, confP_mul]; ring
    rw [← num_div_mod hd, h256, h256, part_div_mod _ _ hin, hpos, Nat.mul_add]
  have hscale (x : Nat) : d.num / 2 ^ (8 * x) % 2 ^ 8 = d.read x 1 := by
    rw [← num_div_mod hd, ← Nat.pow_mul 2 8 x]; rfl
  simp only [StepIn.weightEl, cleanIn, hp, hcol, el_clean, hcode, confK_eq hs, weightVal]
  by_cases h6 : cfgWF c = 6
  · simp only [h6, if_true, hscale, shpN, Bool.or_self]
  · simp [h6]

/-! ## Runs and columns (R100, R101) -/

/-- An exact sum with one more term. -/
def addTerm (s : Option Val) (x : Val) : Option Val :=
  some (match s with | none => x | some v => (Val.add .rne v x).1)

theorem add_clean {r : RunSum} {x w : Val} (h : r.bad = false) :
    r.add x w false = ⟨addTerm r.val (Val.mul x w).1, r.nan || (x == .nan || w == .nan), false⟩ := by
  rw [← Bool.or_assoc]
  exact congrArg (RunSum.mk _ _) (by rw [h]; rfl)

/-- The exact sum of the products of run j, and whether an operand of it is NaN. -/
def runVal (act wgt : Nat → Val) (l j : Nat) : Val × Bool :=
  let is := (List.range l).map (fun i => l * j + i)
  (((is.map (fun i => (Val.mul (act i) (wgt i)).1)).foldl addTerm none).getD (.fin false 0 0),
    is.any (fun i => act i == .nan || wgt i == .nan))

/-- An accumulator element and its flags after one run. -/
def accStep (r : Nat × BitVec 4) (s : Val × Bool) : Nat × BitVec 4 :=
  let old := fp32.dec true false r.1
  let x := fpAdd fp32 false .rne old s.1
  let iv : Bool := (s.1 == .nan && !s.2) || (fp32.dec true false x.bits == .nan && old != .nan && s.1 != .nan)
  (x.bits, r.2 ||| (if iv then 1 else 0) ||| (if x.flags.getLsbD 2 then 2 else 0) ||| (if x.flags.getLsbD 4 then 8 else 0))

/-- A column's accumulator element and flags after its runs in ascending order. -/
def columnVal (c : BitVec 10) (a : VReg) (mask : MReg) (nsr fz : Bool) (d : Cells) (start col : Nat) : Nat × BitVec 4 :=
  (List.range (confK c / confL c)).foldl
    (fun r j => accStep r (runVal (actVal c a mask nsr fz) (weightVal c d nsr fz col) (confL c) j)) (start, 0)

/-- Products of clean elements added to a run. -/
theorem foldl_add_clean {act wgt : Nat → Val} : ∀ {is : List Nat} {r : RunSum}, r.bad = false →
    is.foldl (fun r i => r.add (act i) (wgt i) false) r =
      ⟨(is.map (fun i => (Val.mul (act i) (wgt i)).1)).foldl addTerm r.val,
        r.nan || is.any (fun i => act i == .nan || wgt i == .nan), false⟩
  | [], ⟨_, _, _⟩, h => by simpa using h
  | i :: t, r, h => by
    rw [List.foldl_cons, add_clean h, foldl_add_clean rfl]
    simp [Bool.or_assoc]

theorem run_clean (hs : cfgSHP c < 3) (hd : d.wf = true) {col j : Nat} (hj : j < confK c / confL c) :
    let r := (cleanIn c a mask nsr fz d).run col j
    (r.val.getD (.fin false 0 0), r.nan) = runVal (actVal c a mask nsr fz) (weightVal c d nsr fz col) (confL c) j ∧ r.bad = false := by
  have hrun : (cleanIn c a mask nsr fz d).run col j = ((List.range (confL c)).map (fun i => confL c * j + i)).foldl
      (fun r i => r.add (actVal c a mask nsr fz i) (weightVal c d nsr fz col i) false) ⟨none, false, false⟩ := by
    rw [List.foldl_map, StepIn.run, show (cleanIn c a mask nsr fz d).cfg = c from rfl, confL_eq]
    refine List.foldl_ext _ _ _ fun r i hi => ?_
    have hlt : confL c * j + i < confK c := by
      have h1 := Nat.mul_le_mul_left (confL c) (Nat.succ_le_of_lt hj)
      have h2 := Nat.mul_div_le (confK c) (confL c)
      have h3 := List.mem_range.1 hi
      rw [Nat.mul_succ] at h1
      omega
    rw [Nat.mul_comm j, actEl_clean hs, weightEl_clean hs hd hlt]
    rfl
  rw [hrun, foldl_add_clean rfl]
  exact ⟨by simp [runVal], rfl⟩

theorem accum_clean {r : RunSum} (v : Nat) (f : BitVec 4) (h : r.bad = false) : AccEl.accum ⟨v, f, false⟩ r =
    ⟨(accStep (v, f) (r.val.getD (.fin false 0 0), r.nan)).1, (accStep (v, f) (r.val.getD (.fin false 0 0), r.nan)).2, false⟩ := by
  unfold AccEl.accum accStep
  simp only [h, Bool.or_self, Bool.false_eq_true, if_false, BitVec.or_assoc]

/-- A column of clean operands is its accumulator element after its runs. -/
theorem column_clean (hs : cfgSHP c < 3) (hd : d.wf = true) (col start : Nat) : (cleanIn c a mask nsr fz d).column col start false =
    ⟨(columnVal c a mask nsr fz d start col).1, (columnVal c a mask nsr fz d start col).2, false⟩ := by
  have key : ∀ (l : List Nat), (∀ j ∈ l, j < confK c / confL c) → ∀ (v : Nat) (f : BitVec 4),
      l.foldl (fun (e : AccEl) j => e.accum ((cleanIn c a mask nsr fz d).run col j)) ⟨v, f, false⟩ =
        AccEl.mk (l.foldl (fun r j => accStep r (runVal (actVal c a mask nsr fz) (weightVal c d nsr fz col) (confL c) j)) (v, f)).1
          (l.foldl (fun r j => accStep r (runVal (actVal c a mask nsr fz) (weightVal c d nsr fz col) (confL c) j)) (v, f)).2 false := by
    intro l
    induction l with
    | nil => intros; rfl
    | cons j t ih =>
      intro hl v f
      obtain ⟨hval, hbad⟩ := run_clean (a := a) (mask := mask) (nsr := nsr) (fz := fz) hs hd (col := col) (hl j (by simp))
      rw [List.foldl_cons, List.foldl_cons, accum_clean v f hbad, hval, ih fun i hi => hl i (List.mem_cons_of_mem _ hi)]
  have h := key (List.range (confK c / confL c)) (fun j hj => List.mem_range.1 hj) start 0
  rw [StepIn.column, show (cleanIn c a mask nsr fz d).cfg = c from rfl, confL_eq, confK_eq hs]
  exact h

/-- A column's element is a code of FP32. -/
theorem columnVal_lt {start : Nat} (col : Nat) (h : start < 2 ^ 32) : (columnVal c a mask nsr fz d start col).1 < 2 ^ 32 := by
  unfold columnVal
  refine List.foldlRecOn (motive := fun r : Nat × BitVec 4 => r.1 < 2 ^ 32) _ _ h fun r _ j _ => ?_
  exact enc_lt (f := fp32) (by decide) _

end

/-! ## A step on a bay (R191) -/

/-- The elements of a row as a number, where none is poisoned. -/
theorem zipIdx_foldr_clean {fresh : Nat → Word} : ∀ {l : List AccEl} (k : Nat), (∀ e ∈ l, e.bad = false) →
    (l.zipIdx k).foldr (fun e acc => (if e.1.bad then ((fresh e.2).extractLsb' 0 32).toNat else e.1.val) + 2 ^ 32 * acc) 0
      = Nat.ofDigits (2 ^ 32) (l.map AccEl.val)
  | [], _, _ => rfl
  | e :: t, k, h => by
    rw [List.zipIdx_cons, List.foldr_cons, zipIdx_foldr_clean (k + 1) fun x hx => h x (List.mem_cons_of_mem _ hx), List.map_cons,
      Nat.ofDigits_cons, h e (by simp)]
    rfl

theorem getElem?_bad_clean {l : List AccEl} (h : ∀ e ∈ l, e.bad = false) (i : Nat) : (l[i]?.map (fun e => e.bad)).getD false = false := by
  cases hi : l[i]? with
  | none => rfl
  | some e => exact h e (List.mem_of_getElem? hi)

theorem setBads_nil {a n : Nat} {f : Nat → Bool} (h : ∀ i, f i = false) : setBads [] a n f = [] := by
  unfold setBads
  refine List.foldlRecOn (motive := fun l : List Nat => l = []) _ _ rfl fun l hl i _ => ?_
  rw [hl, h i]
  rfl

theorem tile_modTile {b : Bay} {t : Nat} {f : Tile → Tile} (h : t < b.tiles.length) : (b.modTile t f).tile t = f (b.tile t) := by
  simp [Bay.tile, Bay.modTile, listMod, List.getD_eq_getElem?_getD, h]

theorem tile_modTile_other {b : Bay} {t i : Nat} {f : Tile → Tile} (h : i ≠ t) : (b.modTile t f).tile i = b.tile i := by
  simp [Bay.tile, Bay.modTile, listMod, List.getD_eq_getElem?_getD, h.symm]

section
variable {b : Bay} {t row : Nat} {a : VReg} {mask : MReg} {nsr fz : Bool}

/-- The element of a column of a row after a step, and its flags. -/
def stepVal (b : Bay) (t row : Nat) (a : VReg) (mask : MReg) (nsr fz : Bool) (col : Nat) : Nat × BitVec 4 :=
  columnVal (b.tile t).cfg a mask nsr fz b.active.data
    ((b.tile t).data.read (4 * (row * (128 / 2 ^ cfgSHP (b.tile t).cfg) + col)) 4) col

/-- That element as a column of the step leaves it. -/
def stepEl (b : Bay) (t row : Nat) (a : VReg) (mask : MReg) (nsr fz : Bool) (col : Nat) : AccEl :=
  ⟨(stepVal b t row a mask nsr fz col).1, (stepVal b t row a mask nsr fz col).2, false⟩

/-- The tile after a step of clean operands. -/
theorem step_clean (fresh : Nat → Word) (hc : cfgBad ((b.tile t).cfg.setWidth 64) = false) (hb : (b.tile t).bad = [])
    (hw : b.active.data.wf = true) (ha : b.active.bad = []) : b.step fresh t row a [] mask nsr fz = b.modTile t (fun tl =>
      { tl with
        data := tl.data.write (4 * row * (128 / 2 ^ cfgSHP (b.tile t).cfg)) (4 * (128 / 2 ^ cfgSHP (b.tile t).cfg))
          (Nat.ofDigits (2 ^ 32) ((List.range (128 / 2 ^ cfgSHP (b.tile t).cfg)).map fun c => (stepVal b t row a mask nsr fz c).1))
        bad := setBads tl.bad (row * (128 / 2 ^ cfgSHP (b.tile t).cfg) / 2) (128 / 2 ^ cfgSHP (b.tile t).cfg / 2) (fun _ => false)
        flags := (List.range (128 / 2 ^ cfgSHP (b.tile t).cfg)).foldl (fun f c => f ||| (stepVal b t row a mask nsr fz c).2) tl.flags }) := by
  have hs := shp_of_ok hc
  have hels : (List.range (128 / 2 ^ cfgSHP (b.tile t).cfg)).map (fun i =>
      (cleanIn (b.tile t).cfg a mask nsr fz b.active.data).column i
        ((b.tile t).data.read (4 * (row * (128 / 2 ^ cfgSHP (b.tile t).cfg) + i)) 4) false) =
      (List.range (128 / 2 ^ cfgSHP (b.tile t).cfg)).map (stepEl b t row a mask nsr fz) :=
    List.map_congr_left fun i _ => column_clean hs hw i _
  have hgood : ∀ e ∈ (List.range (128 / 2 ^ cfgSHP (b.tile t).cfg)).map (stepEl b t row a mask nsr fz), e.bad = false := by
    simp [stepEl]
  unfold Bay.step
  simp only [hb, ha, List.contains_nil, shpN]
  unfold cleanIn at hels
  simp only [hels]
  simp only [List.foldl_map, zipIdx_foldr_clean 0 hgood, getElem?_bad_clean hgood, Bool.or_self, List.map_map]
  rfl

/-- The step writes each column's element. -/
theorem step_read (fresh : Nat → Word) (ht : t < b.tiles.length) (hc : cfgBad ((b.tile t).cfg.setWidth 64) = false)
    (hd : (b.tile t).data.wf = true) (hb : (b.tile t).bad = []) (hw : b.active.data.wf = true) (ha : b.active.bad = []) {c : Nat}
    (h : c < 128 / 2 ^ cfgSHP (b.tile t).cfg) :
    ((b.step fresh t row a [] mask nsr fz).tile t).data.read (4 * (row * (128 / 2 ^ cfgSHP (b.tile t).cfg) + c)) 4
      = (stepVal b t row a mask nsr fz c).1 := by
  have hpos : 4 * (row * (128 / 2 ^ cfgSHP (b.tile t).cfg) + c) = 4 * row * (128 / 2 ^ cfgSHP (b.tile t).cfg) + 4 * c := by ring
  have hdig : ∀ x ∈ (List.range (128 / 2 ^ cfgSHP (b.tile t).cfg)).map (fun c => (stepVal b t row a mask nsr fz c).1), x < 2 ^ 32 := by
    intro x hx
    obtain ⟨i, -, rfl⟩ := List.mem_map.1 hx
    exact columnVal_lt i (read_lt _ 4 _)
  rw [step_clean fresh hc hb hw ha, tile_modTile ht, hpos, read_write_part _ _ hd (by omega), Nat.pow_mul]
  exact (ofDigits_div_mod (by decide) hdig c).trans (by simp [h])

/-- Every byte outside the row stays. -/
theorem step_get (fresh : Nat → Word) (ht : t < b.tiles.length) (hc : cfgBad ((b.tile t).cfg.setWidth 64) = false)
    (hd : (b.tile t).data.wf = true) (hb : (b.tile t).bad = []) (hw : b.active.data.wf = true) (ha : b.active.bad = []) {i : Nat}
    (h : i < 4 * row * (128 / 2 ^ cfgSHP (b.tile t).cfg)
      ∨ 4 * (row * (128 / 2 ^ cfgSHP (b.tile t).cfg) + 128 / 2 ^ cfgSHP (b.tile t).cfg) ≤ i) :
    ((b.step fresh t row a [] mask nsr fz).tile t).data.get i = (b.tile t).data.get i := by
  rw [step_clean fresh hc hb hw ha, tile_modTile ht]
  refine get_write_other _ _ _ _ hd ?_
  rw [Nat.mul_add, ← Nat.mul_assoc] at h
  exact h

end

end Sys2Proof.Proofs

namespace Sys2Proof.Proofs

open Sys2Proof Sys2Proof.Machine Sys2Proof.Laws

/-! ## Bytes of a list in two parts -/

section
variable {c d : Cells} {a : Nat}

theorem get_append_left (h : ∀ p ∈ d, p.1 ≠ a) : Cells.get (c ++ d) a = c.get a := by
  induction c with
  | nil => exact get_of_absent h
  | cons p t ih => rw [List.cons_append, get_cons, get_cons, ih]

theorem get_append_right (h : ∀ p ∈ c, p.1 ≠ a) : Cells.get (c ++ d) a = d.get a := by
  induction c with
  | nil => rfl
  | cons p t ih =>
    rw [List.cons_append, get_cons, if_neg fun e => h p (by simp) e.symm]
    exact ih fun q hq => h q (List.mem_cons_of_mem _ hq)

theorem get_shift (k i : Nat) : Cells.get (d.map (fun p => (p.1 + k, p.2))) (k + i) = d.get i := by
  induction d with
  | nil => rfl
  | cons p t ih =>
    rw [List.map_cons, get_cons, get_cons, ih]
    exact if_congr (by omega) rfl rfl

/-- A written list names the addresses that it named and those of the range. -/
theorem key_of_mem_write {p : Nat × Byte} : ∀ (n : Nat) {c : Cells} (a v : Nat), p ∈ c.write a n v →
    p ∈ c ∨ a ≤ p.1 ∧ p.1 < a + n
  | 0, _, _, _, h => .inl h
  | n + 1, c, a, v, h => by
    rcases key_of_mem_write n (a + 1) _ h with h | h
    · unfold Cells.set at h
      split at h
      · exact .inl (mem_keyDel _ _ _ h)
      · rcases mem_keySet _ _ _ _ h with h | h
        · exact .inr (by rw [h]; exact ⟨le_rfl, by simp⟩)
        · exact .inl h
    · exact .inr (by omega)

end

/-! ## A tile's image (R195) -/

/-- The CFG and FLAGS words at the head of a tile's image. -/
def imageHead (t : Tile) : Cells := Cells.write (Cells.write [] 0 8 t.cfg.toNat) 8 8 t.flags.toNat

theorem imageHead_key {t : Tile} {p : Nat × Byte} (h : p ∈ imageHead t) : p.1 < 16 := by
  rcases key_of_mem_write 8 _ _ h with h | h
  · rcases key_of_mem_write 8 _ _ h with h | h
    · cases h
    · omega
  · omega

theorem image_fst (t : Tile) : t.image.1 = imageHead t ++ t.data.map (fun p => (p.1 + 64, p.2)) := rfl

/-- Below its data an image is its head. -/
theorem image_get_low {t : Tile} {i : Nat} (h : i < 64) : t.image.1.get i = (imageHead t).get i := by
  refine get_append_left fun p hp => ?_
  obtain ⟨q, -, rfl⟩ := List.mem_map.1 hp
  exact (show q.1 + 64 ≠ i by omega)

theorem image_get_data (t : Tile) (i : Nat) : t.image.1.get (64 + i) = t.data.get i := by
  rw [image_fst, get_append_right fun p hp => by have := imageHead_key hp; omega, get_shift]

theorem image_get_gap {t : Tile} {i : Nat} (h1 : 16 ≤ i) (h2 : i < 64) : t.image.1.get i = 0 := by
  rw [image_get_low h2]
  exact get_of_absent fun p hp => by have := imageHead_key hp; omega

theorem image_cfg (t : Tile) : t.image.1.read 0 8 = t.cfg.toNat := by
  have hw : Cells.wf (Cells.write [] 0 8 t.cfg.toNat) = true := cells_write_wf 8 0 _ rfl
  rw [read_congr (d := Cells.write [] 0 8 t.cfg.toNat) 8 fun i _ hi => by
    rw [image_get_low (by omega), imageHead, get_write_other _ _ _ _ hw (.inl (by omega))], read_write 8 0 _ rfl]
  exact Nat.mod_eq_of_lt (t.cfg.isLt.trans (by decide))

theorem image_flags (t : Tile) : t.image.1.read 8 8 = t.flags.toNat := by
  have hw : Cells.wf (Cells.write [] 0 8 t.cfg.toNat) = true := cells_write_wf 8 0 _ rfl
  rw [read_congr (d := imageHead t) 8 fun i _ hi => image_get_low (by omega), imageHead, read_write 8 8 _ hw]
  exact Nat.mod_eq_of_lt (t.flags.isLt.trans (by decide))

/-- The data part of an image is the tile's data. -/
theorem image_slice {t : Tile} (h : ∀ p ∈ t.data, p.1 < 16384) : Cells.slice t.image.1 64 16384 = t.data := by
  have hhead : (imageHead t).filter (fun p => decide (64 ≤ p.1 ∧ p.1 < 64 + 16384)) = [] := by
    simp only [List.filter_eq_nil_iff, decide_eq_true_eq]
    intro p hp
    have := imageHead_key hp
    omega
  have hdata : (t.data.map (fun p => (p.1 + 64, p.2))).filter (fun p => decide (64 ≤ p.1 ∧ p.1 < 64 + 16384))
      = t.data.map (fun p => (p.1 + 64, p.2)) := by
    simp only [List.filter_eq_self, List.mem_map, decide_eq_true_eq]
    rintro p ⟨q, hq, rfl⟩
    have := h q hq
    exact ⟨by simp, by simp; omega⟩
  rw [image_fst, Cells.slice, List.filter_append, hhead, hdata, List.nil_append, List.map_map]
  simp [Function.comp_def]

/-! ## The tile that an image gives (R197) -/

section
variable {old t : Tile} {img : Cells} {fresh : Nat → Word}

theorem restored_malformed (h : cfgBad (BitVec.ofNat 64 (img.read 0 8)) = true
    ∨ (BitVec.ofNat 64 (img.read 8 8)).extractLsb' 4 60 ≠ 0) :
    old.restored img [] fresh = ⟨[], [], 0, 1, old.hist ||| old.flags⟩ := by
  refine if_pos ?_
  simpa using h

theorem restored_wellFormed {bad : List Nat} (h0 : bad.contains 0 = false) (h1 : bad.contains 1 = false)
    (hc : cfgBad (BitVec.ofNat 64 (img.read 0 8)) = false) (hf : (BitVec.ofNat 64 (img.read 8 8)).extractLsb' 4 60 = 0) :
    old.restored img bad fresh =
      ⟨img.slice 64 16384, (bad.filter (fun i => decide (8 ≤ i))).map (fun i => i - 8),
        (BitVec.ofNat 64 (img.read 0 8)).extractLsb' 0 10, (BitVec.ofNat 64 (img.read 8 8)).extractLsb' 0 4,
        old.hist ||| (old.flags &&& ~~~(BitVec.ofNat 64 (img.read 8 8)).extractLsb' 0 4)⟩ := by
  unfold Tile.restored
  simp only [h0, h1, Bool.false_eq_true, if_false, hc, hf]
  rfl

/-- A save restored is as it was. -/
theorem restored_image (hd : ∀ p ∈ t.data, p.1 < 16384) (hc : cfgBad (t.cfg.setWidth 64) = false) :
    old.restored t.image.1 t.image.2 fresh = { t with hist := old.hist ||| (old.flags &&& ~~~t.flags) } := by
  have hb : t.image.2 = t.bad.map (fun i => i + 8) := rfl
  have hbad : ((t.bad.map (fun i => i + 8)).filter (fun i => decide (8 ≤ i))).map (fun i => i - 8) = t.bad := by
    rw [List.filter_eq_self.2 (by simp), List.map_map]
    simp [Function.comp_def]
  have hcfg : BitVec.ofNat 64 (t.image.1.read 0 8) = t.cfg.setWidth 64 := by rw [image_cfg, BitVec.ofNat_toNat]
  have hfl : BitVec.ofNat 64 (t.image.1.read 8 8) = t.flags.setWidth 64 := by rw [image_flags, BitVec.ofNat_toNat]
  have hlow : (t.flags.setWidth 64).extractLsb' 0 4 = t.flags := by
    ext i hi
    simp [hi, show i < 64 by omega]
  have hhigh : (t.flags.setWidth 64).extractLsb' 4 60 = 0 := by
    ext i hi
    simp
  rw [restored_wellFormed (by simp [hb]) (by simp [hb]) (hcfg ▸ hc) (hfl ▸ hhigh), hcfg, hfl, extract_setWidth, hlow, hb, hbad,
    image_slice hd]

end

end Sys2Proof.Proofs

namespace Sys2Proof.Proofs

open Sys2Proof Sys2Proof.Machine Sys2Proof.Laws

/-! ## Service slots that a unit takes (R326) -/

section
variable {s : State} {lea : Nat}

/-- A service slot that is spare while more are taken was spare before. -/
theorem spareService_of_served {sv : List Nat} {ch : Nat} (hs : s.served ⊆ sv)
    (h : { s with served := sv }.spareService lea ch = true) : s.spareService lea ch = true := by
  unfold State.spareService State.serviceFree State.serviceTaken at h ⊢
  simp only [Bool.and_eq_true, Bool.not_eq_true', ← Bool.not_eq_true, List.contains_iff_mem] at h ⊢
  obtain ⟨⟨hslot, hfree⟩, hqueue⟩ := h
  exact ⟨⟨hslot, fun hc => hfree (hs hc)⟩, hqueue⟩

/-- What accesses begun leave: a state with more service slots taken, and each access begun in a spare one. -/
theorem beginUnits_spec : ∀ (l : List Nat) (s : State) (flow : List (Nat × Nat)), ∃ sv,
    (s.beginUnits lea flow l).1 = { s with served := sv } ∧ s.served ⊆ sv ∧ flow ⊆ (s.beginUnits lea flow l).2
    ∧ ∀ e ∈ (s.beginUnits lea flow l).2, e ∈ flow
      ∨ (e.2 = s.now ∧ s.spareService lea (channelOf e.1) = true ∧ channelOf e.1 ∈ sv ∧ e.1 ∈ l)
  | [], s, flow => ⟨s.served, rfl, List.Subset.refl _, List.Subset.refl _, fun _ he => .inl he⟩
  | a :: l, s, flow => by
    have hcons : s.beginUnits lea flow (a :: l) = (s.beginUnit lea flow a).1.beginUnits lea (s.beginUnit lea flow a).2 l := rfl
    by_cases h : (flow.any (fun f => f.1 == a) || !s.spareService lea (channelOf a)) = true
    · have hstay : s.beginUnit lea flow a = (s, flow) := if_pos h
      obtain ⟨sv, h1, h2, h3, h4⟩ := beginUnits_spec l s flow
      rw [hcons, hstay]
      exact ⟨sv, h1, h2, h3, fun e he => (h4 e he).imp_right fun ⟨ht, hs, hc, hl⟩ => ⟨ht, hs, hc, List.mem_cons_of_mem _ hl⟩⟩
    · have hbegin : s.beginUnit lea flow a = (s.takeService (channelOf a), (a, s.now) :: flow) := if_neg h
      have hspare : s.spareService lea (channelOf a) = true := by
        rw [Bool.or_eq_true, not_or] at h
        simpa using h.2
      obtain ⟨sv, h1, h2, h3, h4⟩ := beginUnits_spec l (s.takeService (channelOf a)) ((a, s.now) :: flow)
      rw [hcons, hbegin]
      obtain ⟨hch, hsub⟩ := List.cons_subset.1 h2
      refine ⟨sv, h1, hsub, List.Subset.trans (List.subset_cons_self _ _) h3, fun e he => ?_⟩
      rcases h4 e he with h5 | ⟨ht, hs, hc, hl⟩
      · rcases List.mem_cons.1 h5 with rfl | h5
        · exact .inr ⟨rfl, hspare, hch, by simp⟩
        · exact .inl h5
      · exact .inr ⟨ht, spareService_of_served (List.subset_cons_self _ _) hs, hc, List.mem_cons_of_mem _ hl⟩

theorem hbmUnits_local {a n : Nat} (h : lsOrigin ≤ a) : hbmUnits a n = [] := if_pos (.inl h)

theorem mem_hbmUnits {a n i : Nat} (ha : a < 2 ^ 44) (hi : i < n) : 64 * ((a + i) / 64) ∈ hbmUnits a n := by
  have hl : ¬(lsOrigin ≤ a ∨ n = 0) := by
    have : lsOrigin = 2 ^ 44 := by decide
    omega
  rw [hbmUnits, if_neg hl]
  exact List.mem_map.2 ⟨(a + i) / 64 - a / 64, List.mem_range.2 (by omega), by omega⟩

/-- Some members are picked where there are any. -/
theorem pickSome_ne_nil {α : Type} {l : List α} (h : l ≠ []) : s.pickSome l ≠ [] := by
  have hk : Config.freeNat s.free % l.length < l.length := Nat.mod_lt _ (List.length_pos_iff.2 h)
  refine List.ne_nil_of_mem (a := l[Config.freeNat s.free % l.length])
    (List.mem_filterMap.2 ⟨(l[Config.freeNat s.free % l.length], Config.freeNat s.free % l.length), ?_, ?_⟩)
  · exact List.mk_mem_zipIdx_iff_getElem?.2 (List.getElem?_eq_getElem hk)
  · simp

theorem mem_of_mem_pickSome {α : Type} {l : List α} {x : α} (h : x ∈ s.pickSome l) : x ∈ l := by
  obtain ⟨⟨y, i⟩, hy, hx⟩ := List.mem_filterMap.1 h
  have hyl : y ∈ l := List.mem_of_getElem? (List.mk_mem_zipIdx_iff_getElem?.1 hy)
  dsimp only at hx
  split at hx
  · cases hx
    exact hyl
  · cases hx

end

/-! ## The events of a transfer (R189, R205, R326) -/

section
variable {s : State} {core : Nat} {j : PortJob} {o : Out} {ps : List (Nat × Nat × Nat)} {h : Option (Nat × Place)}

theorem portTransferDone_eq (hv : s.portView core = some (j, o, ps, h)) : exec (.portTransferDone core) s = .next (
    if (s.portServed j (s.portReady o j ps)).isEmpty then
      if (s.portReady o j ps).isEmpty then s else s.portBegin core j o (s.portReady o j ps)
    else { s with free := s.free + (s.portServed j (s.portReady o j ps)).length }.portMove core j o
      (s.pickSome (s.portServed j (s.portReady o j ps)))) := by
  refine congrArg Host.Outcome.next ?_
  simp only [hv]

theorem portTransferDone_idle (hv : s.portView core = some (j, o, ps, h)) (hr : s.portReady o j ps = []) :
    exec (.portTransferDone core) s = .next s := by
  rw [portTransferDone_eq hv, hr]
  rfl

theorem portTransferDone_begins (hv : s.portView core = some (j, o, ps, h)) (hr : s.portReady o j ps ≠ [])
    (hs : s.portServed j (s.portReady o j ps) = []) :
    exec (.portTransferDone core) s = .next (s.portBegin core j o (s.portReady o j ps)) := by
  rw [portTransferDone_eq hv, if_pos (by simp [hs]), if_neg (by simpa using hr)]

theorem portTransferDone_moves (hv : s.portView core = some (j, o, ps, h)) (hs : s.portServed j (s.portReady o j ps) ≠ []) :
    exec (.portTransferDone core) s = .next ({ s with free := s.free + (s.portServed j (s.portReady o j ps)).length }.portMove core j o
      (s.pickSome (s.portServed j (s.portReady o j ps)))) := by
  rw [portTransferDone_eq hv, if_neg (by simpa using hs)]

/-- Accesses of HBM begun for a transfer. -/
theorem portBegin_spec (l : List (Nat × Nat × Nat)) : ∃ flow, (s.portBegin core j o l).mem = s.mem
    ∧ ((s.portBegin core j o l).core core).bay = { (s.core core).bay with port := some { j with flow := flow } } ∧ j.flow ⊆ flow
    ∧ ∀ e ∈ flow, e ∈ j.flow ∨ (e.2 = s.now ∧ s.spareService o.lea (channelOf e.1) = true
        ∧ channelOf e.1 ∈ (s.portBegin core j o l).served ∧ ∃ p ∈ l, e.1 ∈ hbmUnits p.2.2 p.2.1) := by
  obtain ⟨sv, hstate, -, hflow, hnew⟩ := beginUnits_spec (lea := o.lea) (l.flatMap fun p => hbmUnits p.2.2 p.2.1) s j.flow
  have hserved : (s.portBegin core j o l).served = sv :=
    (show _ = (s.beginUnits o.lea j.flow (l.flatMap fun p => hbmUnits p.2.2 p.2.1)).1.served from rfl).trans (by rw [hstate])
  refine ⟨_, portBegin_mem .., ?_, hflow, fun e he => (hnew e he).imp_right fun ⟨ht, hs, hc, hl⟩ =>
    ⟨ht, hs, hserved ▸ hc, List.mem_flatMap.1 hl⟩⟩
  unfold State.portBegin State.modBay
  simp only [core_modCore, hstate]
  rfl

/-- A transfer whose first piece left meets a page fault parks. -/
theorem portTransferFault_page {off frame : Nat} (hv : s.portView core = some (j, o, [], some (off, .page frame))) :
    ∃ u, exec (.portTransferFault core) s = .next u ∧ u.mem = s.mem
      ∧ (u.core core).bay.port = some { j with parked := some (some frame), stalled := some (off, s.nextId) } := by
  show ∃ u, execPortTransferFault core s = .next u ∧ _
  unfold execPortTransferFault
  simp only [hv]
  refine ⟨_, rfl, rfl, ?_⟩
  show (((_ : State).modSlot core o.slot _).core core).bay.port = _
  rw [State.modSlot, core_modCore, State.modBay, core_modCore]
  rfl

end

end Sys2Proof.Proofs

namespace Sys2Proof.Proofs

open Sys2Proof Sys2Proof.Machine Sys2Proof.Laws

/-! ## What leaves the bays as they are -/

/-- What a change of a core does not touch, in every core. -/
theorem view_modCore {α : Type} {g : Core → α} {f : Core → Core} (hf : ∀ x, g (f x) = g x) (s : State) (k c : Nat) :
    g ((s.modCore k f).core c) = g (s.core c) := by
  by_cases h : c = k
  · rw [h, core_modCore, hf]
  · rw [core_modCore_other s f h]

/-- Every core has the bay that it had. -/
structure BaysKept (s t : State) : Prop where
  bay : ∀ c, (t.core c).bay = (s.core c).bay

section
variable {s t u : State}

theorem BaysKept.refl (s : State) : BaysKept s s := ⟨fun _ => rfl⟩

theorem BaysKept.trans (h1 : BaysKept s t) (h2 : BaysKept t u) : BaysKept s u := ⟨fun c => (h2.bay c).trans (h1.bay c)⟩

theorem baysKept_of_cores (h : t.cores = s.cores) : BaysKept s t := ⟨fun c => by rw [State.core, h]; rfl⟩

theorem baysKept_modCore (k : Nat) (f : Core → Core) (hf : ∀ x, (f x).bay = x.bay) : BaysKept s (s.modCore k f) :=
  ⟨view_modCore (g := Core.bay) hf s k⟩

theorem baysKept_modSlot (k n : Nat) (f : Slot → Slot) : BaysKept s (s.modSlot k n f) :=
  baysKept_modCore k (fun x => x.modSlot n f) fun _ => rfl

theorem baysKept_modDor (k : Nat) (f : Dorent → Dorent) : BaysKept s (s.modDor k f) :=
  baysKept_modCore k (fun x => { x with dorent := f x.dorent }) fun _ => rfl

theorem baysKept_foldl {α : Type} {f : State → α → State} (hf : ∀ s a, BaysKept s (f s a)) :
    ∀ (l : List α) (s : State), BaysKept s (l.foldl f s)
  | [], s => .refl s
  | a :: l, s => (hf s a).trans (baysKept_foldl hf l (f s a))

theorem baysKept_bufFree (core : Nat) (b : DBuf) (o n : Nat) : BaysKept s (s.bufFree core b o n) := by
  refine baysKept_foldl (fun s i => ?_) _ s
  split
  · exact baysKept_of_cores rfl
  · exact .refl s

theorem baysKept_spoilAt (core : Nat) (js : List Nat) : BaysKept s (s.spoilAt core js) := by
  refine baysKept_foldl (fun s j => ?_) js s
  split
  · exact (baysKept_modDor ..).trans (baysKept_bufFree ..)
  · exact .refl s

theorem baysKept_spoil (core lea a n : Nat) : BaysKept s (s.spoil core lea a n) := by
  unfold State.spoil
  dsimp only
  split
  · exact .refl s
  · split
    · exact .refl s
    · exact baysKept_foldl (fun _ _ => baysKept_spoilAt ..) _ s

theorem baysKept_spoilPieces (o : Out) (l : List (Nat × Nat × Nat)) : BaysKept s (s.spoilPieces o l) :=
  baysKept_foldl (fun _ _ => baysKept_spoil ..) l s

theorem baysKept_wakeReaders (a : Nat) : BaysKept s (s.wakeReaders a) := by
  unfold State.wakeReaders
  split
  · exact baysKept_modCore _ _ fun _ => rfl
  · exact .refl s

theorem baysKept_tryPart {id i : Nat} (h : s.tryPart id i = some t) : BaysKept s t := by
  unfold State.tryPart at h
  split at h
  · cases h
  next o _ =>
  split at h
  · cases h
  next x _ =>
  split at h
  · cases h
  next p _ =>
  split at h
  · cases h
  next a _ =>
  split at h
  · cases h
  next m r _ =>
  cases h
  have hslot : BaysKept (s.modOut id _) ((s.modOut id (fun o => o.modPart i (fun p => { p.done r with since := s.now }))).wakeHome o) :=
    baysKept_modSlot ..
  have hdone : BaysKept s ((s.modOut id (fun o => o.modPart i (fun p => { p.done r with since := s.now }))).wakeHome o) :=
    ⟨fun c => hslot.bay c⟩
  dsimp only
  split
  · refine BaysKept.trans ?_ (baysKept_spoil ..)
    exact ⟨fun c => hdone.bay c⟩
  · exact ⟨fun c => hdone.bay c⟩

theorem baysKept_retryFirst : ∀ {l : List (Nat × Nat × Nat)}, s.retryFirst l = some t → BaysKept s t
  | [], h => by cases h
  | (_, id, i) :: l, h => by
    rw [State.retryFirst] at h
    split at h
    next u hu =>
      cases h
      exact baysKept_tryPart hu
    · exact baysKept_retryFirst h

theorem baysKept_settle : ∀ (n : Nat) (ws : List Nat) (s : State), BaysKept s (State.settle n ws s)
  | 0, _, s => .refl s
  | _ + 1, [], s => .refl s
  | n + 1, w :: ws, s => by
    rw [State.settle]
    refine (baysKept_wakeReaders w).trans ?_
    dsimp only
    split
    · refine BaysKept.trans ?_ (baysKept_settle n _ _)
      refine BaysKept.trans ?_ (baysKept_modSlot ..)
      exact baysKept_of_cores rfl
    · split
      next u hu => exact (baysKept_retryFirst hu).trans (baysKept_settle n _ u)
      · exact baysKept_settle n ws _

theorem baysKept_unitStore (a n v : Nat) (bad : Bool) : BaysKept s (s.unitStore a n v bad) := by
  unfold State.unitStore
  dsimp only
  split
  · refine BaysKept.trans ?_ (baysKept_settle _ _ _)
    exact baysKept_of_cores rfl
  · exact baysKept_of_cores rfl

theorem baysKept_writeImage (j : PortJob) : ∀ (l : List (Nat × Nat × Nat)) (s : State), BaysKept s (s.writeImage j l)
  | [], s => .refl s
  | (_, _, _) :: l, _ => (baysKept_unitStore ..).trans (baysKept_writeImage j l _)

/-! ## What a transfer's use of pages leaves (R200, R389) -/

/-- What neither the translation buffer nor the slots are part of is as it was. -/
theorem view_usePages {α : Type} {g : Core → α} (hg : ∀ x e, g (Core.gtbUse x e) = g x) (k lea space die : Nat) (need : List Right)
    (l : List Nat) (c : Nat) : g ((s.usePages k lea space die need l).core c) = g (s.core c) := by
  have hpage (s : State) (a : Nat) : g ((s.usePage k lea die need a).core c) = g (s.core c) := by
    unfold State.usePage
    split
    · exact view_modCore (fun x => hg x _) ..
    · rfl
  unfold State.usePages
  split
  · exact List.foldlRecOn (motive := fun t : State => g (t.core c) = g (s.core c)) l _ rfl fun t ht a _ => (hpage t a).trans ht
  · rfl

/-- The state in which the pieces of a transfer are moved. -/
def moving (s : State) (core : Nat) (j : PortJob) (o : Out) (l : List (Nat × Nat × Nat)) : State :=
  (s.usePages core o.lea j.space j.die j.needs (l.map (fun p => j.addr + p.1))).portGoes o

variable {core : Nat} {j : PortJob} {o : Out} {l : List (Nat × Nat × Nat)}

theorem moving_mem : (moving s core j o l).mem = s.mem := usePages_mem ..

theorem view_moving {α : Type} {g : Core → α} (hg : ∀ x e, g (Core.gtbUse x e) = g x) (hs : ∀ x k f, g (Core.modSlot x k f) = g x)
    (c : Nat) : g ((moving s core j o l).core c) = g (s.core c) :=
  (view_modCore (fun x => hs x _ _) ..).trans (view_usePages hg ..)

theorem baysKept_moving : BaysKept s (moving s core j o l) :=
  ⟨view_moving (g := Core.bay) (fun _ _ => rfl) (fun _ _ _ => rfl)⟩

/-! ## A save's pieces written where every word is full (R205, R206) -/

theorem setBad_fe (m : Memory) (a : Nat) (b : Bool) : (m.setBad a b).fe = m.fe := by
  unfold Memory.setBad
  split <;> rfl

theorem store_fe (m : Memory) (a n v : Nat) (bad : Bool) : (m.store a n v bad).fe = m.fe := by
  unfold Memory.store
  split
  · exact setBad_fe ..
  · split
    · exact setBad_fe ..
    · rfl

theorem noteWriter_fe (m : Memory) (t : Option Nat) (w : Nat) : (m.noteWriter t w).fe = m.fe := by
  unfold Memory.noteWriter
  split <;> rfl

/-- Memory after pieces of an image were stored. -/
def pieceStore (j : PortJob) (m : Memory) (p : Nat × Nat × Nat) : Memory :=
  (m.store p.2.2 p.2.1 (j.image.read p.1 p.2.1) ((imageWords p.1 p.2.1).any j.bad.contains)).noteWriter none (dwordOf p.2.2)

theorem pieceStore_isFull (m : Memory) (p : Nat × Nat × Nat) (a : Nat) : (pieceStore j m p).isFull a = m.isFull a := by
  unfold Memory.isFull Memory.feOf pieceStore
  rw [noteWriter_fe, store_fe]

theorem unitStore_full {a n v : Nat} {bad : Bool} (h : s.mem.isFull (dwordOf a) = true) :
    s.unitStore a n v bad = { s with mem := (s.mem.store a n v bad).noteWriter none (dwordOf a) } := by
  refine if_neg ?_
  simp [h]

theorem writeImage_full : ∀ {l : List (Nat × Nat × Nat)} {s : State}, (∀ p ∈ l, s.mem.isFull (dwordOf p.2.2) = true) →
    s.writeImage j l = { s with mem := l.foldl (pieceStore j) s.mem }
  | [], _, _ => rfl
  | p :: l, s, h => by
    obtain ⟨hp, hl⟩ := List.forall_mem_cons.1 h
    rw [State.writeImage, unitStore_full hp]
    exact writeImage_full (s := { s with mem := pieceStore j s.mem p }) fun q hq => (pieceStore_isFull ..).trans (hl q hq)

theorem spoilPieces_idle (h : (s.core o.core).lea ≠ some o.lea ∨ (s.dor o.core).state ≠ .running) : s.spoilPieces o l = s := by
  have hs (p : Nat × Nat × Nat) : s.spoil o.core o.lea p.2.2 p.2.1 = s := if_pos h
  unfold State.spoilPieces
  induction l with
  | nil => rfl
  | cons p l ih => rw [List.foldl_cons, hs, ih]

/-! ## Pieces read without poison (R201) -/

theorem readImage_clean {m : Memory} {bad : List Nat} : ∀ {l : List (Nat × Nat × Nat)} {img : Cells}, (∀ p ∈ l, m.isBad p.2.2 = false) →
    readImage m img bad l = (l.foldl (fun c p => c.write p.1 p.2.1 (m.read p.2.2 p.2.1)) img, bad)
  | [], _, _ => rfl
  | p :: l, img, h => by
    obtain ⟨hp, hl⟩ := List.forall_mem_cons.1 h
    rw [readImage, hp]
    exact readImage_clean hl

/-! ## A transfer's end (R189, R196, R197) -/

theorem portFinish_out {img : Cells} {bad : List Nat} : (s.portFinish core j img bad).out j.outId = none := by
  unfold State.portFinish State.out
  rw [dropOut_outs, List.find?_eq_none]
  intro x hx
  simpa using (List.mem_filter.1 hx).2

/-- The bay after a transfer's end. -/
def finished (b : Bay) (j : PortJob) (img : Cells) (bad : List Nat) (fresh : Nat → Word) : Bay :=
  match j.kind with
  | 0 => { b with port := none, shadow := { b.shadow with data := img, bad := bad } }
  | 1 => { b with port := none }
  | _ => { b with port := none }.modTile j.tile (fun t => t.restored img bad fresh)

section
variable {b : Bay} {img : Cells} {bad : List Nat} {fresh : Nat → Word}

theorem finished_load (h : j.kind = 0) :
    finished b j img bad fresh = { b with port := none, shadow := { b.shadow with data := img, bad := bad } } := by
  unfold finished
  rw [h]
  rfl

theorem finished_save (h : j.kind = 1) : finished b j img bad fresh = { b with port := none } := by
  unfold finished
  rw [h]
  rfl

/-- The tile that a clean image gives takes no undefined word. -/
theorem finished_restore (h : j.kind = 2) (hb : bad = []) (g : Nat → Word) :
    finished b j img bad fresh = { b with port := none }.modTile j.tile (fun t => t.restored img [] g) := by
  unfold finished
  rw [h, hb]
  rfl

end

theorem portFinish_bay {img : Cells} {bad : List Nat} : ((s.portFinish core j img bad).core core).bay =
    finished (s.core core).bay j img bad (fun i => s.undef (s.core core).lea (s.free + i)) := by
  unfold State.portFinish
  rw [core_dropOut]
  exact congrArg Core.bay (core_modCore ..)

/-- Memory is as it stands where no engine holds bytes that it delivered. -/
theorem flushFor_idle {lea : Nat} (h : ∀ e ∈ s.cores, e.2.dorent.late = []) : s.flushFor core lea = s := by
  unfold State.flushFor
  rw [List.filter_eq_nil_iff.2 fun e he => by simp [h e he]]
  rfl

/-! ## Events of a transfer performed (R205) -/

/-- The state after the pieces moved, but for the port. -/
def moved (s : State) (core : Nat) (j : PortJob) (o : Out) (l : List (Nat × Nat × Nat)) : State :=
  if j.kind = 1 then ((moving s core j o l).writeImage j l).spoilPieces o l else moving s core j o l

theorem moved_bay : BaysKept s (moved s core j o l) := by
  unfold moved
  split
  · exact baysKept_moving.trans ((baysKept_writeImage ..).trans (baysKept_spoilPieces ..))
  · exact baysKept_moving

theorem moved_mem (h : j.kind ≠ 1) : (moved s core j o l).mem = s.mem := by
  rw [moved, if_neg h, moving_mem]

/-- A save's pieces are stored, where nothing waits for their words and no collective names them. -/
theorem moved_mem_save (h : j.kind = 1) (hf : ∀ p ∈ l, s.mem.isFull (dwordOf p.2.2) = true)
    (hn : (s.core o.core).lea ≠ some o.lea ∨ (s.dor o.core).state ≠ .running) :
    (moved s core j o l).mem = l.foldl (pieceStore j) s.mem := by
  have hlea : ((moving s core j o l).core o.core).lea = (s.core o.core).lea :=
    view_moving (g := Core.lea) (fun _ _ => rfl) (fun _ _ _ => rfl) _
  have hdor : (moving s core j o l).dor o.core = s.dor o.core := view_moving (g := Core.dorent) (fun _ _ => rfl) (fun _ _ _ => rfl) _
  rw [moved, if_pos h, writeImage_full (by rwa [moving_mem]), moving_mem, spoilPieces_idle]
  exact hlea ▸ hdor ▸ hn

/-- The pieces of a transfer that are left. -/
def leftOf (j : PortJob) (l : List (Nat × Nat × Nat)) : List (Nat × Nat) := j.left.filter (fun p => !l.any (fun q => q.1 == p.1))

/-- What a transfer's image is after pieces moved. -/
def imageAfter (s : State) (j : PortJob) (l : List (Nat × Nat × Nat)) : Cells × List Nat :=
  if j.kind = 1 then (j.image, j.bad) else readImage s.mem j.image j.bad l

theorem portMove_eq : s.portMove core j o l =
    if (leftOf j l).isEmpty then (moved (s.flushFor core o.lea) core j o l).portFinish core j (imageAfter (s.flushFor core o.lea) j l).1
      (imageAfter (s.flushFor core o.lea) j l).2
    else (moved (s.flushFor core o.lea) core j o l).modBay core (fun b => { b with
      port := some { j with left := leftOf j l, image := (imageAfter (s.flushFor core o.lea) j l).1,
                            bad := (imageAfter (s.flushFor core o.lea) j l).2, stalled := none } }) := rfl

theorem portMove_mem : (s.portMove core j o l).mem = (moved (s.flushFor core o.lea) core j o l).mem := by
  rw [portMove_eq]
  split
  · exact portFinish_mem ..
  · rfl

/-- Where pieces are left the port holds what has moved. -/
theorem portMove_bay_left (h : leftOf j l ≠ []) : ((s.portMove core j o l).core core).bay =
    { ((s.flushFor core o.lea).core core).bay with
      port := some { j with left := leftOf j l, image := (imageAfter (s.flushFor core o.lea) j l).1,
                            bad := (imageAfter (s.flushFor core o.lea) j l).2, stalled := none } } := by
  have hbay := (moved_bay (s := s.flushFor core o.lea) (core := core) (j := j) (o := o) (l := l)).bay core
  rw [portMove_eq, if_neg (by simpa using h), ← hbay, State.modBay, core_modCore]

/-- With the last piece the transfer ends. -/
theorem portMove_done (h : leftOf j l = []) : s.portMove core j o l =
    (moved (s.flushFor core o.lea) core j o l).portFinish core j (imageAfter (s.flushFor core o.lea) j l).1
      (imageAfter (s.flushFor core o.lea) j l).2 := by
  rw [portMove_eq, h]
  rfl

theorem portMove_out_done (h : leftOf j l = []) : (s.portMove core j o l).out j.outId = none := by
  rw [portMove_done h]
  exact portFinish_out

theorem portMove_bay_done (h : leftOf j l = []) : ∃ fresh, ((s.portMove core j o l).core core).bay =
    finished ((s.flushFor core o.lea).core core).bay j (imageAfter (s.flushFor core o.lea) j l).1
      (imageAfter (s.flushFor core o.lea) j l).2 fresh := by
  rw [portMove_done h, portFinish_bay, moved_bay.bay]
  exact ⟨_, rfl⟩

end

end Sys2Proof.Proofs

namespace Sys2Proof.Proofs

open Sys2Proof Sys2Proof.Machine Sys2Proof.Laws

/-- Settles O25: each entry's effect by the entry's kind; a step by its columns, whose operands are clean; an image by its head and its
data; a transfer's events by the service slots that its accesses take and by what no piece moved changes, every core's bay. -/
theorem matrixEffects : Obligations.MatrixEffects := by
  unfold Obligations.MatrixEffects
  refine ⟨?entries, ?step, fun t old img fresh => ⟨restored_malformed, restored_wellFormed rfl rfl, fun _ hd hc =>
    ⟨image_cfg t, image_flags t, image_get_data t, fun _ => image_get_gap, rfl, restored_image hd hc⟩⟩, ?events, ?moves⟩
  case entries =>
    intro s core c now popped
    refine ⟨bayEntryPerform_idle, fun e rest hc ha ht hq hd hi => ⟨_, bayEntryPerform_head hc ha ht hq hd hi, ?_, ?_, rfl⟩,
      fun e rest t hq hd => ⟨bayEntryEffect_early hq hd, fun ht => ?_⟩⟩
    · rw [core_modCore]
    · rw [core_modCore]
    · rw [bayEntryEffect_due hq hd ht]
      refine ⟨fun k v he => congrArg Host.Outcome.next (bayEffect_mcfg he), fun k he => congrArg Host.Outcome.next (bayEffect_mzero he),
        fun he => congrArg Host.Outcome.next (bayEffect_mswap he), fun k row a bad m nsr fz o x he ho hx hxt hxr => ⟨_, rfl, ?_⟩,
        fun m o he ho => congrArg Host.Outcome.next (bayEffect_mflags he ho),
        fun k start f rm nsr fz o he hf ho hb => congrArg Host.Outcome.next (bayEffect_mdrain_clean he hf ho hb),
        fun k sg space die a off he => congrArg Host.Outcome.next (bayEffect_msave he)⟩
      obtain ⟨hslot, hbay, hmem⟩ := bayEffect_mstep he ho hx hxt hxr
      rw [popped_core, hq] at hbay
      exact ⟨hslot, hbay, hmem⟩
  case step =>
    intro b fresh t row a mask nsr fz tl af wf shp n k l p bitsOf act wgt sum acc u ht hc hd hb hw ha
    have hu : u = _ := step_clean fresh hc hb hw ha
    refine ⟨fun c h => step_read fresh ht hc hd hb hw ha h, fun i h => step_get fresh ht hc hd hb hw ha h, ?_, ?_, ?_, ?_,
      fun i hi => ?_, ?_⟩
    · rw [hu, tile_modTile ht]
      rfl
    · rw [hu, tile_modTile ht, hb]
      exact setBads_nil fun _ => rfl
    · rw [hu, tile_modTile ht]
    · rw [hu, tile_modTile ht]
    · rw [hu, tile_modTile_other hi]
    · rw [hu]
      exact ⟨rfl, rfl, rfl, rfl⟩
  case events =>
    intro s core j o ps h hv ready served
    refine ⟨portTransferDone_idle hv, fun hr hs => ?_, fun hs => ⟨pickSome_ne_nil hs, fun p => mem_of_mem_pickSome,
      portTransferDone_moves hv hs⟩, fun a n => hbmUnits_local, fun a n i => mem_hbmUnits, ?_⟩
    · obtain ⟨flow, hmem, hbay, hkept, hnew⟩ := portBegin_spec (s := s) (core := core) (j := j) (o := o) ready
      exact ⟨_, flow, portTransferDone_begins hv hr hs, hmem, hbay, fun e he => hkept he, hnew⟩
    · rintro off frame rfl rfl
      exact portTransferFault_page hv
  case moves =>
    intro s core j o l left u f y r
    have himage (h : j.kind ≠ 1) : imageAfter f j l = r := if_neg h
    have hsave (h : j.kind = 1) : imageAfter f j l = (j.image, j.bad) := if_pos h
    have hmem (h : j.kind ≠ 1) : u.mem = f.mem := portMove_mem.trans (moved_mem h)
    refine ⟨fun hl hk => ⟨hmem hk, ?_⟩, fun hl hk => ?_, fun hl => ?_,
      fun hk hfull hn => portMove_mem.trans (moved_mem_save hk hfull hn), readImage_clean, flushFor_idle⟩
    · rw [← himage hk]
      exact portMove_bay_left hl
    · have h := portMove_bay_left (s := s) (core := core) (o := o) hl
      rw [hsave hk] at h
      exact h
    · obtain ⟨fresh, h⟩ := portMove_bay_done (s := s) (core := core) (o := o) hl
      refine ⟨portMove_out_done hl, fun hk => ⟨hmem (by omega), ?_⟩, fun hk => ?_, fun hk hr => ⟨hmem (by omega), fun fresh' => ?_⟩⟩
      · rw [← himage (by omega)]
        exact h.trans (finished_load hk)
      · exact h.trans (finished_save hk)
      · rw [← himage (by omega)] at hr ⊢
        exact h.trans (finished_restore hk hr fresh')

end Sys2Proof.Proofs

namespace Sys2Proof.Proofs

open Sys2Proof Sys2Proof.Machine Sys2Proof.Laws

section
variable {s : State} {n a b c d : Nat}

/-! ## The operand forms of integer instructions (R105, R106) -/

theorem alu0_go {v : Word} (h : s.Reads [] [d]) : s.alu0 n d v = s.setW n d false v := withOperands_go h

theorem alu1_go {f : Word → Word} (h : s.Reads [a] [d]) : s.alu1 n a d f = s.setW n d (s.w a).bad (f (s.w a).val) :=
  withOperands_go h

theorem alu2_go {f : Word → Word → Word} (h : s.Reads [a, b] [d]) :
    s.alu2 n a b d f = s.setW n d ((s.w a).bad || (s.w b).bad) (f (s.w a).val (s.w b).val) :=
  withOperands_go h

theorem alu3_go {f : Word → Word → Word → Word} (h : s.Reads [a, b, c] [d]) :
    s.alu3 n a b c d f = s.setW n d ((s.w a).bad || (s.w b).bad || (s.w c).bad) (f (s.w a).val (s.w b).val (s.w c).val) :=
  withOperands_go h

end

section
variable (x y : Word)

/-! ## Products and comparisons (R111) -/

/-- The high half of the signed product is that of the product of the sign-extended words. -/
theorem mulhWord_eq : mulhWord x y = (x.signExtend 128 * y.signExtend 128).extractLsb' 64 64 := by
  rw [mulhWord, BitVec.ofInt_mul]
  rfl

/-- The high half of the unsigned product is that of the product of the zero-extended words. -/
theorem mulhuWord_eq : mulhuWord x y = (x.setWidth 128 * y.setWidth 128).extractLsb' 64 64 := by
  have hx := x.isLt
  have hy := y.isLt
  have hp : x.toNat * y.toNat < 2 ^ 128 := by nlinarith
  apply BitVec.eq_of_toNat_eq
  simp only [mulhuWord, BitVec.toNat_ofNat, BitVec.extractLsb'_toNat, BitVec.toNat_mul, BitVec.toNat_setWidth,
    Nat.shiftRight_eq_div_pow, Nat.mod_eq_of_lt (hx.trans (by decide : 2 ^ 64 < 2 ^ 128)),
    Nat.mod_eq_of_lt (hy.trans (by decide : 2 ^ 64 < 2 ^ 128)), Nat.mod_eq_of_lt hp]

theorem boolWord_eq {q : Bool} {p : Prop} [Decidable p] (h : q = true ↔ p) : boolWord q = if p then 1 else 0 := by
  simp only [boolWord, h]

end

/-- Settles O1: each instruction is the two-register form with its own function of the words. -/
theorem integerTwoRegisterResults : Obligations.IntegerTwoRegisterResults := by
  refine ⟨by decide, fun b a d s h => ?_⟩
  intro x y put
  have go (f : Word → Word → Word) {v : Word} (hv : f x y = v) :
      (.next (s.alu2 4 a.toNat b.toNat d.toNat f) : Out1) = put v :=
    hv ▸ congrArg Host.Outcome.next (alu2_go h)
  have choose {q : Bool} {p : Prop} [Decidable p] (h : q = true ↔ p) (u v : Word) :
      (if q then u else v) = if p then u else v := by
    simp only [h]
  exact ⟨go _ rfl, go _ rfl, go _ rfl, go _ (mulhWord_eq x y), go _ (mulhuWord_eq x y), go _ rfl, go _ rfl, go _ rfl, go _ rfl,
    go _ rfl, go _ rfl, go _ rfl, go _ rfl, go _ rfl, go _ (choose BitVec.slt_iff_toInt_lt _ _),
    go _ (choose BitVec.slt_iff_toInt_lt _ _), go _ (choose BitVec.ult_iff_lt _ _), go _ (choose BitVec.ult_iff_lt _ _),
    go _ (boolWord_eq beq_iff_eq), go _ (boolWord_eq BitVec.slt_iff_toInt_lt), go _ (boolWord_eq BitVec.ult_iff_lt)⟩

end Sys2Proof.Proofs

namespace Sys2Proof.Proofs

open Sys2Proof Sys2Proof.Machine Sys2Proof.Laws

section
variable {x y z : Word} {i : Nat}

/-! ## Bit counts (R113) -/

/-- CLZ counts the zeros above the highest set bit. -/
theorem clzWord_spec (x : Word) : ∃ n, n ≤ 64 ∧ clzWord x = BitVec.ofNat 64 n ∧ (∀ i, 64 - n ≤ i → x.getLsbD i = false)
    ∧ (n < 64 → x.getLsbD (63 - n) = true) := by
  by_cases hx : x = 0
  · exact ⟨64, le_rfl, if_pos hx, fun i _ => by simp [hx], fun h => absurd h (by omega)⟩
  · have h0 : x.toNat ≠ 0 := BitVec.toNat_ne_iff_ne.2 hx
    have hl : x.toNat.log2 < 64 := (Nat.log2_lt h0).2 x.isLt
    refine ⟨63 - x.toNat.log2, by omega, if_neg hx, fun i hi => ?_, fun _ => ?_⟩
    · exact Nat.testBit_lt_two_pow ((Nat.log2_lt h0).1 (by omega))
    · rw [show 63 - (63 - x.toNat.log2) = x.toNat.log2 by omega]
      exact Nat.testBit_log2 h0

/-- A word and its negative have its lowest set bit in common, and no other. -/
theorem and_neg_eq {k : Nat} (hk : x.getLsbD k = true) (hlow : ∀ i, i < k → x.getLsbD i = false) :
    x &&& -x = BitVec.twoPow 64 k := by
  have hw : k < 64 := BitVec.lt_of_getLsbD hk
  apply BitVec.eq_of_getLsbD_eq
  intro i hi
  rw [BitVec.getLsbD_and, BitVec.getLsbD_neg, BitVec.getLsbD_twoPow]
  rcases lt_trichotomy i k with h | rfl | h
  · simp [hlow i h, h.ne']
  · have : ¬ ∃ j < i, x.getLsbD j = true := fun ⟨j, hj, e⟩ => by simp [hlow j hj] at e
    simp [hk, this, hw]
  · have : ∃ j < i, x.getLsbD j = true := ⟨k, h, hk⟩
    simp [this, hi, h.ne]

theorem exists_lowest (h : x ≠ 0) : ∃ k, k < 64 ∧ x.getLsbD k = true ∧ ∀ i, i < k → x.getLsbD i = false := by
  have hb : ∃ k, x.getLsbD k = true := ⟨_, Nat.testBit_log2 (BitVec.toNat_ne_iff_ne.2 h)⟩
  exact ⟨Nat.find hb, BitVec.lt_of_getLsbD (Nat.find_spec hb), Nat.find_spec hb, fun i hi => by simpa using Nat.find_min hb hi⟩

/-- CTZ counts the zeros below the lowest set bit. -/
theorem ctzWord_spec (x : Word) : ∃ n, n ≤ 64 ∧ ctzWord x = BitVec.ofNat 64 n ∧ (∀ i, i < n → x.getLsbD i = false)
    ∧ (n < 64 → x.getLsbD n = true) := by
  by_cases hx : x = 0
  · exact ⟨64, le_rfl, if_pos hx, fun i _ => by simp [hx], fun h => absurd h (by omega)⟩
  · obtain ⟨k, hw, hk, hlow⟩ := exists_lowest hx
    refine ⟨k, hw.le, ?_, hlow, fun _ => hk⟩
    rw [ctzWord, if_neg hx, and_neg_eq hk hlow, BitVec.toNat_twoPow_of_lt hw, Nat.log2_two_pow]

/-- The number of set bits is the number of positions that hold one. -/
theorem popNat_eq : ∀ n x : Nat, popNat n x = ((List.range n).filter fun i => x.testBit i).length
  | 0, _ => rfl
  | n + 1, x => by
    have h0 : x % 2 = if x.testBit 0 then 1 else 0 := by
      rw [Nat.testBit_zero]
      rcases Nat.mod_two_eq_zero_or_one x with h | h <;> simp [h]
    rw [popNat, popNat_eq n, List.range_succ_eq_map, List.filter_cons, List.filter_map, h0]
    simp only [Function.comp_def, Nat.succ_eq_add_one, ← Nat.testBit_div_two]
    split <;> simp [Nat.add_comm]

theorem popWord_eq (x : Word) : popWord x = BitVec.ofNat 64 ((List.range 64).filter fun i => x.getLsbD i).length := by
  rw [popWord, popNat_eq]
  simp only [BitVec.getLsbD]

/-! ## Reversals (R113) -/

/-- The bits of a reversal of n digits of w bits above an accumulator: those of the digits from the top, then the accumulator's. -/
def ReversesAbove (w n x acc v : Nat) : Prop := ∀ k i, i < w →
  v.testBit (w * k + i) = if k < n then x.testBit (w * (n - 1 - k) + i) else acc.testBit (w * (k - n) + i)

/-- A digit moved from the end of a number to the end of the accumulator. -/
theorem ReversesAbove.step {w n x acc v : Nat} (h : ReversesAbove w n (x / 2 ^ w) (2 ^ w * acc + x % 2 ^ w) v) :
    ReversesAbove w (n + 1) x acc v := by
  intro k i hi
  rw [h k i hi]
  have hd : x % 2 ^ w < 2 ^ w := Nat.mod_lt _ (Nat.two_pow_pos w)
  rcases lt_trichotomy k n with hk | rfl | hk
  · rw [if_pos hk, if_pos (by omega), Nat.testBit_div_two_pow, show n + 1 - 1 - k = n - 1 - k + 1 by omega, Nat.mul_add_one,
      Nat.add_right_comm]
  · rw [if_neg (by omega), if_pos (by omega), Nat.testBit_two_pow_mul_add _ hd]
    simp [hi]
  · obtain ⟨j, rfl⟩ : ∃ j, k = n + 1 + j := ⟨k - (n + 1), by omega⟩
    have hj : w * (n + 1 + j - n) + i = w * j + i + w := by
      rw [show n + 1 + j - n = j + 1 by omega, Nat.mul_add_one, Nat.add_right_comm]
    rw [if_neg (by omega), if_neg (by omega), Nat.testBit_two_pow_mul_add _ hd, hj, if_neg (by omega), Nat.add_sub_cancel,
      Nat.add_sub_cancel_left]

theorem revNat_reverses : ∀ n x acc, ReversesAbove 1 n x acc (revNat n x acc)
  | 0, _, _ => fun k i _ => by simp [revNat]
  | n + 1, x, acc => (revNat_reverses n (x / 2) (2 * acc + x % 2)).step

theorem swapNat_reverses : ∀ n x acc, ReversesAbove 8 n x acc (swapNat n x acc)
  | 0, _, _ => fun k i _ => by simp [swapNat]
  | n + 1, x, acc => (swapNat_reverses n (x / 256) (256 * acc + x % 256)).step

theorem getLsbD_brevWord (hi : i < 64) : (brevWord x).getLsbD i = x.getLsbD (63 - i) := by
  have h := revNat_reverses 64 x.toNat 0 i 0 one_pos
  rw [if_pos hi] at h
  rw [one_mul, Nat.add_zero, one_mul, Nat.add_zero] at h
  rw [brevWord, BitVec.getLsbD_ofNat, h, decide_eq_true hi]
  rfl

theorem getLsbD_bswapWord {k : Nat} (hk : k < 8) (hi : i < 8) :
    (bswapWord x).getLsbD (8 * k + i) = x.getLsbD (8 * (7 - k) + i) := by
  have h := swapNat_reverses 8 x.toNat 0 k i hi
  rw [if_pos hk] at h
  rw [bswapWord, BitVec.getLsbD_ofNat, h, decide_eq_true (by omega)]
  rfl

/-! ## Fields (R115) -/

theorem getLsbD_extrWord (hi : i < 64) :
    (extrWord x y).getLsbD i = (decide (i < fieldLen y) && x.getLsbD (fieldPos y + i)) := by
  rw [extrWord, BitVec.getLsbD_ofNat, Nat.testBit_mod_two_pow, Nat.testBit_div_two_pow, decide_eq_true hi, Nat.add_comm]
  rfl

theorem testBit_ones_mul (l p i : Nat) : ((2 ^ l - 1) * 2 ^ p).testBit i = decide (p ≤ i ∧ i < p + l) := by
  rw [Nat.testBit_mul_two_pow, Nat.testBit_two_pow_sub_one]
  by_cases h : p ≤ i
  · simp only [h, decide_true, Bool.true_and, true_and, decide_eq_decide]
    omega
  · simp [h]

theorem getLsbD_insbWord (hi : i < 64) : (insbWord x y z).getLsbD i =
    if fieldPos y ≤ i ∧ i < fieldPos y + fieldLen y then x.getLsbD (i - fieldPos y) else z.getLsbD i := by
  have hm : (BitVec.ofNat 64 ((2 ^ fieldLen y - 1) * 2 ^ fieldPos y)).getLsbD i =
      decide (fieldPos y ≤ i ∧ i < fieldPos y + fieldLen y) := by
    rw [BitVec.getLsbD_ofNat, testBit_ones_mul, decide_eq_true hi, Bool.true_and]
  simp only [insbWord, BitVec.getLsbD_or, BitVec.getLsbD_and, BitVec.getLsbD_not, BitVec.getLsbD_shiftLeft, hm, hi]
  split
  · next h => simp [h]
  · next h => simp [h]

end

/-- Settles O2: the words that the operand forms write, bit by bit. -/
theorem bitAndFieldResults : Obligations.BitAndFieldResults := by
  refine ⟨fun a d s h => ?_, fun c b a d s => ?_⟩
  · intro x put
    have go (f : Word → Word) : (.next (s.alu1 4 a.toNat d.toNat f) : Out1) = put (f x) := congrArg Host.Outcome.next (alu1_go h)
    obtain ⟨m, hm, hclz, hmz, hmo⟩ := clzWord_spec x
    obtain ⟨n, hn, hctz, hnz, hno⟩ := ctzWord_spec x
    exact ⟨⟨m, hm, (go _).trans (congrArg put hclz), hmz, hmo⟩, ⟨n, hn, (go _).trans (congrArg put hctz), hnz, hno⟩,
      (go _).trans (congrArg put (popWord_eq x)), ⟨brevWord x, go _, fun i => getLsbD_brevWord⟩, bswapWord x, go _,
      fun k i => getLsbD_bswapWord⟩
  · intro x y pos len
    refine ⟨fun h => ?_, fun h => ⟨extrWord x y, congrArg Host.Outcome.next (alu2_go h), fun i => getLsbD_extrWord⟩,
      fun h => ⟨insbWord x y (s.w d.toNat).val, congrArg Host.Outcome.next (alu3_go h), fun i => getLsbD_insbWord⟩⟩
    have hc : (if ((s.w c.toNat).val != 0) = true then x else y) = if (s.w c.toNat).val = 0 then y else x := by
      by_cases hz : (s.w c.toNat).val = 0 <;> simp [hz]
    rw [← hc]
    exact congrArg Host.Outcome.next (alu3_go h)

end Sys2Proof.Proofs

namespace Sys2Proof.Proofs

open Sys2Proof Sys2Proof.Machine Sys2Proof.Laws

/-- R58, R116: what each condition code of CMPI asks of the register's word and the immediate's. -/
theorem condHolds_iff (x y : Word) : (condHolds 0 x y = true ↔ x = y) ∧ (condHolds 1 x y = true ↔ x ≠ y)
    ∧ (condHolds 2 x y = true ↔ x.toInt < y.toInt) ∧ (condHolds 3 x y = true ↔ y.toInt ≤ x.toInt)
    ∧ (condHolds 4 x y = true ↔ x.toNat < y.toNat) ∧ (condHolds 5 x y = true ↔ y.toNat ≤ x.toNat) := by
  simp [condHolds, BitVec.slt, BitVec.ult]

/-! ## Address forms (R69, R120-R124) -/

section
variable {s : State} {k : BitVec 3} {i : BitVec 9} {a d : BitVec 5} {o : Int}

/-- R120: LEA, once its register is read, checks its offset against LIMIT. -/
theorem lea_go (h : s.Reads [a.toNat] [d.toNat]) (hb : (s.w a.toNat).bad = false)
    (ho : ((s.w a.toNat).val.toNat : Int) + i.toInt = o) :
    exec (.lea k i a d) s = .next (if (s.seg k.toNat).space = 0 then s.raise 4 0x20 (BitVec.ofInt 64 o)
      else if o < 0 ∨ ((s.seg k.toNat).limit.toNat : Int) < o then s.raise 4 0x21 (BitVec.ofInt 64 o)
      else s.setW 4 d.toNat false (BitVec.ofInt 64 o)) := by
  subst ho
  exact congrArg Host.Outcome.next ((withOperands_go h).trans (needClean_go hb))

/-- R121: MAPR of a row of 64 bytes within its segment writes a map reference. -/
theorem mapr_go (h : s.Reads [a.toNat] [d.toNat]) (hb : (s.w a.toNat).bad = false)
    (ho : ((s.w a.toNat).val.toNat : Int) + 64 * i.toInt = o) (hs : (s.seg k.toNat).space = 1 ∨ (s.seg k.toNat).space = 2)
    (hr : (s.seg k.toNat).has .r = true) (h0 : 0 ≤ o) (hl : o + 64 ≤ (s.seg k.toNat).limit.toNat) (h64 : o % 64 = 0) :
    exec (.mapr k i a d) s = .next (s.setW 4 d.toNat false (BitVec.ofInt 64 o ||| k.setWidth 64)) := by
  subst ho
  refine congrArg Host.Outcome.next ((withOperands_go h).trans ((needClean_go hb).trans ?_))
  dsimp only
  rw [if_neg (by omega), if_neg (by omega), hr, if_neg (by decide), if_neg (by omega), if_neg (not_not.2 h64)]
  rfl

/-- R124: LDL of a literal that its segment holds and the instruction cache has. -/
theorem ldl_go {o : BitVec 11} {l : BitVec 4} {v : Nat} {bad : Bool} (h : s.Reads [] [d.toNat]) :
    let off := (s.pc &&& ~~~7#64) + 8 * o.signExtend 64
    segFail (s.seg 7) (s.extent (s.seg 7).space) off.toNat 8 [.x] [7] = none →
    s.codeRead ((s.seg 7).base.toNat + off.toNat) 8 = .ok (v, bad) →
    exec (.ldl o l d) s = .next (((s.addOut (s.newOut 4 true l.toNat [s.wAddr d.toNat]
      (.compute [⟨BitVec.ofNat 64 v, bad⟩] none (s.cycle s.cur.1)))).markWord (s.wAddr d.toNat) .pending).issue 4) := by
  intro off hs hc
  refine congrArg Host.Outcome.next ((withOperands_go h).trans ?_)
  dsimp only
  rw [hs, hc]

end

/-- Settles O3: the integer forms with their own functions of the words, and the address forms once their checks are passed or
one fails. -/
theorem immediateAndAddressResults : Obligations.ImmediateAndAddressResults := by
  refine ⟨fun a d s => ?_, fun k a d s => ?_⟩
  · intro x z put own two
    refine ⟨fun h => ?_, fun h => ?_, fun h => ?_, fun h => ?_⟩
    · have go (n : Nat) (f : Word → Word) {v : Word} (hv : f x = v) : (.next (s.alu1 n a.toNat d.toNat f) : Out1) = put n v :=
        hv ▸ congrArg Host.Outcome.next (alu1_go h)
      have cmp (c : BitVec 3) (i : BitVec 9) {p : Prop} [Decidable p] (hp : condHolds c x (i.signExtend 64) = true ↔ p) :
          exec (.cmpi c i a d) s = put 4 (if p then 1 else 0) := go 4 _ (boolWord_eq hp)
      refine ⟨fun i => go 4 _ rfl, fun k => ⟨go 4 _ rfl, go 4 _ rfl, go 4 _ rfl⟩, fun i => ?_, go 2 _ rfl⟩
      obtain ⟨heq, hne, hlt, hge, hltu, hgeu⟩ := condHolds_iff x (i.signExtend 64)
      rw [BitVec.toInt_signExtend_of_le (by decide)] at hlt hge
      exact ⟨cmp 0 i heq, cmp 1 i hne, cmp 2 i hlt, cmp 3 i hge, cmp 4 i hltu, cmp 5 i hgeu⟩
    · have go (n : Nat) (v : Word) : (.next (s.alu0 n d.toNat v) : Out1) = .next (s.setW n d.toNat false v) :=
        congrArg Host.Outcome.next (alu0_go h)
      exact ⟨fun i => go 4 _, fun i => go 2 _⟩
    · have go (n : Nat) (f : Word → Word) : (.next (s.alu1 n d.toNat d.toNat f) : Out1) = own n (f z) :=
        congrArg Host.Outcome.next (alu1_go h)
      exact ⟨fun i => go 4 _, fun i => go 2 _, fun k => ⟨go 2 _, go 2 _⟩⟩
    · have go (f : Word → Word → Word) : (.next (s.alu2 2 d.toNat a.toNat d.toNat f) : Out1) = two (f z x) :=
        congrArg Host.Outcome.next (alu2_go h)
      exact ⟨go _, go _, go _, go _⟩
  · intro g
    refine ⟨fun h hb i => ?_, fun h hb i => mapr_go h hb rfl, fun h => ?_⟩
    · intro o
      have ho := lea_go (k := k) (i := i) (o := o) h hb rfl
      refine ⟨fun hs h0 hl => ?_, fun hs => ?_, fun hs hl => ?_⟩
      · rw [ho, if_neg hs, if_neg (not_or.2 ⟨not_lt.2 h0, not_lt.2 hl⟩)]
      · rw [ho, if_pos hs]
      · rw [ho, if_neg hs, if_pos hl]
    · have go (v : Word) : (.next (s.alu0 4 d.toNat v) : Out1) = .next (s.setW 4 d.toNat false v) :=
        congrArg Host.Outcome.next (alu0_go h)
      exact ⟨fun i => go _, go _, go _, go _, fun o l v bad => ldl_go h⟩

end Sys2Proof.Proofs

namespace Sys2Proof.Proofs

open Sys2Proof Sys2Proof.Machine Sys2Proof.Laws

section
variable (x y : Word)

/-! ## Quotients and remainders (R112) -/

theorem ofInt_neg_one : wordOfInt (-1) = BitVec.allOnes 64 := by decide

/-- The quotient of words is the integers' quotient as a word: of −2^63 by −1 too, where that is −2^63 again. -/
theorem sdiv_eq_ofInt : x.sdiv y = BitVec.ofInt 64 (x.toInt.tdiv y.toInt) := by
  rw [← BitVec.toInt_inj, BitVec.toInt_sdiv, BitVec.toInt_ofInt]

theorem srem_eq_ofInt : x.srem y = BitVec.ofInt 64 (x.toInt.tmod y.toInt) := by
  rw [← BitVec.toInt_srem, BitVec.ofInt_toInt]

theorem divWord_eq : divWord x y = if y = 0 then BitVec.allOnes 64 else x.sdiv y := by
  rw [divWord, ofInt_neg_one, sdiv_eq_ofInt]
  split
  · rfl
  · split
    · next h =>
      obtain ⟨hx, hy⟩ := h
      rw [← BitVec.toInt_inj, hx, hy]
      decide
    · rfl

theorem divuWord_eq : divuWord x y = if y = 0 then BitVec.allOnes 64 else x / y := by
  rw [divuWord, BitVec.udiv_def]

theorem remWord_eq : remWord x y = if y = 0 then x else x.srem y := by
  rw [remWord, srem_eq_ofInt]
  split
  · rfl
  · split
    · next h =>
      obtain ⟨hx, hy⟩ := h
      rw [hx, hy]
      decide
    · rw [Int.tmod_def]
      rfl

theorem remuWord_eq : remuWord x y = x % y := by
  rw [remuWord, BitVec.umod_def]
  split
  · next h => simp [h]
  · rfl

end

section
variable {s : State} {n a b d lat : Nat} {look : BitVec 4}

/-! ## Results owed (R26, R62) -/

/-- The sources of an instruction that names a register twice. -/
theorem reads_twice (h : s.Reads [a] [d]) : s.Reads [a, a] [d] := by
  obtain ⟨hf, hu, hr, hw, hd⟩ := h
  refine ⟨by simpa [State.Full] using hf, hu, fun q => absurd (hr q) (by simp), ?_, hd⟩
  simpa [State.readsWait] using hw

theorem owe_false (t : State) : t.owe false = t := rfl

/-- A long-latency instruction with clean sources: its destination is pending, and its word and flags are due. -/
theorem slow2_go {f : State → Word → Word → Word × Option Flags × Bool} (h : s.Reads [a, b] [d]) (ha : (s.w a).bad = false)
    (hb : (s.w b).bad = false) :
    let r := f s (s.w a).val (s.w b).val
    s.slow2 n a b d look lat f = (((s.addOut (s.newOut n true look.toNat [s.wAddr d]
      (.compute [⟨r.1, false⟩] r.2.1 (s.cycle s.cur.1 + lat)))).markWord (s.wAddr d) .pending).issue n).owe r.2.2 := by
  refine (withOperands_go h).trans ?_
  dsimp only
  rw [ha, hb, if_neg (by decide)]

end

/-- Settles O4: the long-latency form with the quotients and remainders of words, and with the quotient and square root of
numbers. -/
theorem longLatencyIssue : Obligations.LongLatencyIssue := by
  refine ⟨fun l b a d s h ha hb => ?_, fun w l b a d s => ?_⟩
  · intro x y goes
    have go (f : Word → Word → Word) {i : Instr} {v : Word} (hv : f x y = v) (hi : exec i s =
        .next (s.slow2 4 a.toNat b.toNat d.toNat l 66 (fun _ x y => (f x y, none, false)))) : goes i v :=
      hv ▸ hi.trans (congrArg Host.Outcome.next ((slow2_go h ha hb).trans (owe_false _)))
    exact ⟨go _ (divWord_eq x y) rfl, go _ (divuWord_eq x y) rfl, go _ (remWord_eq x y) rfl, go _ (remuWord_eq x y) rfl⟩
  · intro f x y slow goes
    refine ⟨fun h ha hb => congrArg Host.Outcome.next ?_, fun h ha => congrArg Host.Outcome.next ?_⟩
    · have ops := any_two (slowWord s w) (s.w a.toNat).val (s.w b.toNat).val
      exact (slow2_go h ha hb).trans
        (congrArg (State.owe _) (congrArg (· || s.slowNum f (fpDiv f s.fz s.rm x y).bits) ops))
    · have ops := any_one (slowWord s w) (s.w a.toNat).val
      exact (slow2_go (reads_twice h) ha ha).trans
        (congrArg (State.owe _) (congrArg (· || s.slowNum f (fpSqrt f s.fz s.rm x).bits) ops))

end Sys2Proof.Proofs

namespace Sys2Proof.Proofs

open Sys2Proof Sys2Proof.Machine Sys2Proof.Laws

section
variable {s : State} {n a b : Nat} {tgt : Word} {p : Prop} [Decidable p]

/-! ## Branches (R126) -/

theorem branch1_go {taken : Word → Bool} (h : s.Reads [a] []) (ha : (s.w a).bad = false) (hp : taken (s.w a).val = true ↔ p) :
    s.branch1 n a tgt taken = if p then s.issueTo tgt else s.issue n := by
  rw [State.branch1, withOperands_go (by exact h), needClean_go ha]
  simp only [hp]

theorem branch2_go {taken : Word → Word → Bool} (h : s.Reads [a, b] []) (ha : (s.w a).bad = false) (hb : (s.w b).bad = false)
    (hp : taken (s.w a).val (s.w b).val = true ↔ p) :
    s.branch2 n a b tgt taken = if p then s.issueTo tgt else s.issue n := by
  rw [State.branch2, withOperands_go (by exact h), needCleans_go (by simp [ha, hb])]
  simp only [hp]

end

section
variable {s : State} {a f : BitVec 5}

/-! ## Jumps, loops and windows (R24, R128-R130) -/

theorem jmp_go (h : s.Reads [a.toNat] []) (ha : (s.w a.toNat).bad = false) :
    exec (.jmp a) s = .next (if (s.w a.toNat).val.getLsbD 0 then s.raise 4 0x05 (s.w a.toNat).val
      else s.issueTo (s.w a.toNat).val) :=
  congrArg Host.Outcome.next ((withOperands_go h).trans (needClean_go ha))

theorem loop_go {o : BitVec 10} (h : s.Reads [a.toNat] [a.toNat]) (ha : (s.w a.toNat).bad = false) :
    let v := (s.w a.toNat).val - 1
    let s1 := s.fillWord (s.wAddr a.toNat) ⟨v, false⟩
    exec (.loop o a) s = .next (if v = 0 then s1.issue 4 else s1.issueTo (s.pc + 2 * o.signExtend 64)) := by
  intro v s1
  refine congrArg Host.Outcome.next ((withOperands_go h).trans ((needClean_go ha).trans ?_))
  by_cases hv : v = 0
  · exact (if_neg fun e => bne_iff_ne.1 e hv).trans (if_pos hv).symm
  · exact (if_pos (bne_iff_ne.2 hv)).trans (if_neg hv).symm

/-- R129: CALLR of a clean register with bit 0 clear opens the window at its word. -/
theorem callr_go (h : s.Reads [a.toNat] [f.toNat - 1, f.toNat - 2]) (ha : (s.w a.toNat).bad = false)
    (h0 : (s.w a.toNat).val.getLsbD 0 = false) : exec (.callr a f) s = .next (s.openWindow f.toNat (s.w a.toNat).val) :=
  congrArg Host.Outcome.next ((withOperands_go h).trans ((needClean_go ha).trans (if_neg (ne_true_of_eq_false h0))))

/-- R129: the window is closed where the words before it are clean and name a place and a window. -/
theorem closeWindow_go {n : Nat} {r p : PWord} (h16 : 16 ≤ s.desc.wp.toNat)
    (h : s.Operands [s.work (s.desc.wp.toNat - 8), s.work (s.desc.wp.toNat - 16)] [])
    (hr : s.mem.word (s.work (s.desc.wp.toNat - 8)) = r) (hp : s.mem.word (s.work (s.desc.wp.toNat - 16)) = p)
    (hrb : r.bad = false) (hpb : p.bad = false) (h0 : r.val.getLsbD 0 = false) (hw : wpOk (s.seg 0) p.val.toNat = true) :
    s.closeWindow n = (s.modDesc (fun d => { d with wp := p.val })).issueTo r.val := by
  rw [State.closeWindow, if_neg (Nat.not_lt.2 h16), withOperands_go h]
  dsimp only
  rw [hr, hp, hrb, hpb, h0, hw]
  rfl

end

/-- Settles O5: each branch by its own comparison, and the windows that calls open and returns close. -/
theorem branchesAndCalls : Obligations.BranchesAndCalls := by
  refine ⟨fun a b s => ?_, fun f s => ?_⟩
  · intro x y go
    have br1 (h : s.Reads [a.toNat] []) (ha : (s.w a.toNat).bad = false) (n : Nat) {t : Word} (taken : Word → Bool) {p : Prop}
        [Decidable p] (hp : taken x = true ↔ p) : (.next (s.branch1 n a.toNat t taken) : Out1) = go n p t :=
      congrArg Host.Outcome.next (branch1_go h ha hp)
    refine ⟨fun h ha hb o => ?_, fun h ha => ⟨fun o => ?_, fun o => ?_, fun h0 => ?_, fun h0 => ?_⟩, fun h ha o => loop_go h ha,
      fun o => rfl, fun o => rfl, rfl, rfl⟩
    · intro t
      have br (taken : Word → Word → Bool) {p : Prop} [Decidable p] (hp : taken x y = true ↔ p) :
          (.next (s.branch2 4 a.toNat b.toNat t taken) : Out1) = go 4 p t := congrArg Host.Outcome.next (branch2_go h ha hb hp)
      exact ⟨br _ beq_iff_eq, br _ bne_iff_ne, br _ BitVec.slt_iff_toInt_lt, br _ (by simp [BitVec.slt]), br _ BitVec.ult_iff_lt,
        br _ (by simp [BitVec.ult])⟩
    · exact ⟨br1 h ha 4 _ beq_iff_eq, br1 h ha 4 _ bne_iff_ne⟩
    · exact ⟨br1 h ha 2 _ beq_iff_eq, br1 h ha 2 _ bne_iff_ne⟩
    · exact (jmp_go h ha).trans (congrArg Host.Outcome.next (if_neg (ne_true_of_eq_false h0)))
    · exact (jmp_go h ha).trans (congrArg Host.Outcome.next (if_pos h0))
  · intro wp
    refine ⟨fun hw => ?_, fun h16 h => ?_⟩
    · intro opened
      have opens (t : Word) : (.next (s.openWindow f.toNat t) : Out1) = opened t := by
        rw [State.openWindow, hw]
        rfl
      exact ⟨fun h o => (congrArg Host.Outcome.next (withOperands_go h)).trans (opens _),
        fun a h ha h0 => (callr_go h ha h0).trans (opens _)⟩
    · intro r p hr hp h0 hw
      exact ⟨congrArg Host.Outcome.next (closeWindow_go h16 h rfl rfl hr hp h0 hw),
        congrArg Host.Outcome.next (closeWindow_go h16 h rfl rfl hr hp h0 hw)⟩

end Sys2Proof.Proofs

namespace Sys2Proof.Proofs

open Sys2Proof Sys2Proof.Machine Sys2Proof.Laws

/-- A map operand that may be read: register r names, with no other bit set, a row of 64 bytes in local store at flat address x,
within its segment, with no store of the thread to it in flight and no poison (R121, R262). -/
def MapRead (s : State) (r x : Nat) : Prop :=
  let v := (s.w r).val
  let g := s.seg (v.toNat % 8)
  let off := v.toNat / 64 * 64
  v.extractLsb' 3 3 = 0 ∧ segFail g (s.extent g.space) off 64 [.r] [1, 2] = none
  ∧ s.flat s.cur.1 s.cur.2 s.me.lea g.space (g.base.toNat + off) = some x ∧ s.ownStorePending x 64 = false
  ∧ s.Clean ((List.range 8).map (fun i => x + 8 * i))

/-- The doublewords of the map at a flat address. -/
def mapWords (s : State) (x i : Nat) : Word := BitVec.ofNat 64 (s.mem.read (x + 8 * i) 8)

/-- The map at a flat address (R257). -/
abbrev mapAt (s : State) (x : Nat) : TMap := mapOf (mapWords s x)

/-- A command written into the shadow set of the acting slot, and the instruction issued (R263). -/
def shadowed (s : State) (c : TCmd) : State :=
  (s.modMyCore (fun x => { x with engine := { x.engine with shadow := some ⟨s.cur.2, none, c⟩ } })).issue 4

section
variable {s : State} {r x k off n : Nat} {bits : Word}

theorem withBlock_go {c : BitVec 8} {f : State → (Nat → Word) → State}
    (hs : segFail (s.seg k) (s.extent (s.seg k).space) off n [.r] [1, 2] = none)
    (hx : s.flat s.cur.1 s.cur.2 s.me.lea (s.seg k).space ((s.seg k).base.toNat + off) = some x)
    (hp : s.ownStorePending x n = false) (hc : s.Clean ((List.range (n / 8)).map (fun i => x + 8 * i))) :
    s.withBlock k off n c f = f s (mapWords s x) := by
  have hf : (List.range (n / 8)).find? (fun i => s.mem.isBad (x + 8 * i)) = none :=
    List.find?_eq_none.2 fun i hi => ne_true_of_eq_false (hc _ (List.mem_map_of_mem hi))
  rw [State.withBlock, hs]
  simp only [hx, hp, hf]
  rfl

theorem withMap_go {f : State → (Nat → Word) → Nat → State} (h : MapRead s r x) :
    s.withMap bits r f = f s (mapWords s x) ((s.w r).val.toNat / 64 * 64) := by
  obtain ⟨hv, hs, hx, hp, hc⟩ := h
  rw [State.withMap]
  dsimp only
  rw [hv, if_neg (by decide), withBlock_go hs hx hp hc]

theorem withShadow_go {f : State → State} (hl : s.myCore.lea = s.me.lea) (he : s.myCore.engine.shadow = none) :
    s.withShadow f = f s := by
  rw [State.withShadow, withPool_go hl, he]

theorem writeShadow_go {c : TCmd} (he : s.myCore.engine.shadow = none) : s.writeShadow bits c = shadowed s c := by
  rw [State.writeShadow, he]
  rfl

/-- What a command asks of the maps at two addresses, whose dimension 1 an index list replaces where they are indexed (R262). -/
structure MapsAgree (s : State) (p q : Nat) (mi ni : Bool) : Prop where
  srcRes : mapRes (mapWords s p) = false
  srcGood : (mapAt s p).bad false = false
  dstRes : mapRes (mapWords s q) = false
  dstGood : (mapAt s q).bad true = false
  srcHull : s.hullFail (mapAt s p) mi .r = none
  dstHull : s.hullFail (mapAt s q) ni .w = none
  apart : s.hullsMeet (mapAt s p) (mapAt s q) mi ni = false
  esz : (mapAt s p).esz = (mapAt s q).esz
  extents : ∀ j ∈ List.range 5, (mapAt s p).extent j = (mapAt s q).extent j

/-- R262: TCOPY, TGATH or TSCAT of two maps that may be read and agree, whose index list lies within its segment. -/
theorem moveCmd_go {kind p q : Nat} {fn : BitVec 5} {k : BitVec 6} {c : BitVec 1} {b a : BitVec 5}
    (h : s.Reads [a.toNat, b.toNat] []) (hl : s.myCore.lea = s.me.lea) (he : s.myCore.engine.shadow = none)
    (ha : (s.w a.toNat).bad = false) (hb : (s.w b.toNat).bad = false) (hp : MapRead s a.toNat p) (hq : MapRead s b.toNat q)
    (hm : MapsAgree s p q (kind == 1) (kind == 2))
    (hi : kind ≠ 0 → s.indexFail (if kind == 2 then mapAt s q else mapAt s p) = none) :
    s.moveCmd kind fn k c b a = shadowed s (s.newCmd13 kind (mapAt s p) (mapAt s q) ⟨0, false⟩ k c) := by
  have hi' : (if kind = 0 then none else s.indexFail (if kind == 2 then mapAt s q else mapAt s p)) = none := by
    split
    · rfl
    · next h0 => exact hi h0
  obtain ⟨hsr, hsb, hdr, hdb, hsh, hdh, ho, hz, hx⟩ := hm
  have hd : ¬ ((mapAt s p).esz ≠ (mapAt s q).esz ∨ (List.range 5).any
      (fun j => (mapAt s p).extent j != (mapAt s q).extent j) = true) := by
    simpa [hz] using hx
  rw [State.moveCmd]
  dsimp only
  rw [withOperands_go (by exact h), withShadow_go hl he, needCleans_go (by simp [ha, hb]), withMap_go hp, withMap_go hq,
    hsr, hsb, hdr, hdb, if_neg (by decide), if_neg (by decide), hsh, hdh]
  dsimp only
  rw [hi']
  dsimp only
  rw [ho, if_neg (by decide), if_neg hd, writeShadow_go he]

/-- R262: TFILL of a map that may be read, with a value that may be poisoned. -/
theorem tfill_go {q : Nat} {k : BitVec 6} {c : BitVec 1} {b a : BitVec 5}
    (h : s.Reads [a.toNat, b.toNat] []) (hl : s.myCore.lea = s.me.lea) (he : s.myCore.engine.shadow = none)
    (hb : (s.w b.toNat).bad = false) (hq : MapRead s b.toNat q) (hr : mapRes (mapWords s q) = false)
    (hn : (mapAt s q).bad true = false) (hh : s.hullFail (mapAt s q) false .w = none) :
    exec (.tfill k c b a) s = .next (shadowed s (s.newCmd13 3 (mapAt s q) (mapAt s q) (s.w a.toNat) k c)) := by
  refine congrArg Host.Outcome.next ((withOperands_go h).trans ((withShadow_go hl he).trans ((needClean_go hb).trans
    ((withMap_go hq).trans ?_))))
  dsimp only
  rw [hr, hn, if_neg (by decide), hh]
  exact writeShadow_go he

end

/-- Settles O26: the commands of two maps are one form, and TFILL is the form of one map. -/
theorem engineCommandsIssue : Obligations.EngineCommandsIssue := by
  intro k c b a s p q reads words m n kind goes ok listed h hl he
  refine ⟨fun ha hb => ?_, fun hb hq hr hn hh => tfill_go h hl he hb hq hr hn hh⟩
  have go (j : Nat) (fn : BitVec 5) (hok : ok (j == 1) (j == 2)) (hi : j ≠ 0 → listed (if j == 2 then n else m)) :
      (.next (s.moveCmd j fn k c b a) : Out1) = goes j m ⟨0, false⟩ := by
    obtain ⟨hp, hq, hmr, hmb, hnr, hnb, hmh, hnh, ho, hz, hx⟩ := hok
    exact congrArg Host.Outcome.next (moveCmd_go h hl he ha hb hp hq ⟨hmr, hmb, hnr, hnb, hmh, hnh, ho, hz, hx⟩ hi)
  exact ⟨fun hok => go 0 0 hok (absurd rfl), fun hok hi => go 1 1 hok fun _ => hi, fun hok hi => go 2 2 hok fun _ => hi⟩

end Sys2Proof.Proofs

namespace Sys2Proof.Proofs

open Sys2Proof Sys2Proof.Machine Sys2Proof.Laws

section
variable {m : Memory} {a b : Nat} {v : PWord}

/-! ## A word written (R421, R422) -/

/-- A number deleted from a rising list is gone, and every other member stays. -/
theorem mem_natDel_iff : ∀ {l : List Nat}, l.Pairwise (· < ·) → (b ∈ natDel l a ↔ b ≠ a ∧ b ∈ l)
  | [], _ => by simp [natDel]
  | k :: t, h => by
    obtain ⟨hk, ht⟩ := List.pairwise_cons.1 h
    have ih := mem_natDel_iff ht
    rw [natDel]
    split
    · next e =>
      subst e
      have hne (hb : b ∈ t) : b ≠ a := (hk b hb).ne'
      rw [List.mem_cons]
      tauto
    · next e =>
      have hne (hb : b = k) : b ≠ a := hb ▸ Ne.symm e
      rw [List.mem_cons, ih, List.mem_cons]
      tauto

/-- A word written has the poison of what is written, and no other word's poison changes. -/
theorem isBad_putWord (h : m.wf = true) : (m.putWord a v).isBad b = if dwordOf b = dwordOf a then v.bad else m.isBad b := by
  obtain ⟨-, -, hs, -⟩ := (memory_wf_iff m).1 h
  rw [Bool.eq_iff_iff]
  cases hv : v.bad with
  | true =>
    simp only [Memory.putWord, Memory.setBad, hv, if_true, Memory.isBad, Memory.write, List.contains_iff_mem, mem_natIns]
    split <;> simp [*]
  | false =>
    simp only [Memory.putWord, Memory.setBad, hv, Memory.isBad, Memory.write, List.contains_iff_mem, Bool.false_eq_true, if_false,
      mem_natDel_iff hs]
    split <;> simp [*]

theorem putWord_cells : (m.putWord a v).cells = m.cells.write a 8 v.val.toNat := by
  unfold Memory.putWord Memory.setBad
  split <;> rfl

/-- A byte of a word written is a byte of what is written. -/
theorem putWord_byte (h : m.wf = true) {i : Nat} (hi : i < 8) :
    (m.putWord a v).read (a + i) 1 = v.val.toNat / 256 ^ i % 256 := by
  rw [Memory.read, putWord_cells, read_write_part a _ ((memory_wf_iff m).1 h).1 hi, Nat.pow_one]

theorem putWord_fe : (m.putWord a v).fe = m.fe := setBad_fe ..

end

/-! ## The values that bytes have been given (R7, R9; log 7) -/

/-- A value is of a set that entries add to where it was, or where an entry has it. -/
theorem getLsbD_foldl_or {k : Nat} : ∀ {l : List (Nat × BitVec 256)} {v : BitVec 256},
    (l.foldl (fun v p => v ||| p.2) v).getLsbD k = true ↔ v.getLsbD k = true ∨ ∃ p ∈ l, p.2.getLsbD k = true
  | [], v => by simp
  | p :: t, v => by
    rw [List.foldl_cons, getLsbD_foldl_or, BitVec.getLsbD_or, Bool.or_eq_true, List.exists_mem_cons_iff, or_assoc]

/-- A set of bytes has each byte of the number that it is made from. -/
theorem getLsbD_byteSet : ∀ {k i : Nat} (v : Nat), i < k → (byteSet v k).getLsbD (v / 256 ^ i % 256) = true
  | k + 1, 0, v, _ => by
    have := Nat.mod_lt v (by decide : 0 < 256)
    simp [byteSet, this]
  | k + 1, i + 1, v, h => by
    have ih := getLsbD_byteSet (v / 256) (Nat.lt_of_succ_lt_succ h)
    rw [Nat.div_div_eq_div_mul, ← Nat.pow_succ'] at ih
    rw [byteSet, BitVec.getLsbD_or, ih, Bool.or_true]

/-- A byte, or zero where it is not of a set. -/
def boundByte (set : BitVec 256) (b : Nat) : Nat := if set.getLsbD b then b else 0

theorem boundByte_mem (set : BitVec 256) (b : Nat) : boundByte set b = 0 ∨ set.getLsbD (boundByte set b) = true := by
  unfold boundByte
  split
  · next h => exact .inr h
  · exact .inl rfl

/-- The bytes of a word, each bound to a set. -/
def boundBytes (set : BitVec 256) (w : Word) : List Nat := (List.range 8).map fun i => boundByte set (w.extractLsb' (8 * i) 8).toNat

theorem boundBytes_lt {set : BitVec 256} {w : Word} : ∀ x ∈ boundBytes set w, x < 256 := by
  intro x hx
  obtain ⟨i, -, rfl⟩ := List.mem_map.1 hx
  have := (w.extractLsb' (8 * i) 8).isLt
  unfold boundByte
  split <;> omega

theorem boundWord_toNat (set : BitVec 256) (w : Word) : (boundWord set w).toNat = Nat.ofDigits 256 (boundBytes set w) := by
  have hf (l : List Nat) : Nat.ofDigits 256 (l.map fun i => boundByte set (w.extractLsb' (8 * i) 8).toNat) =
      l.foldr (fun i acc => 256 * acc + boundByte set (w.extractLsb' (8 * i) 8).toNat) 0 := by
    simp only [Nat.ofDigits_eq_foldr, List.foldr_map, Nat.cast_id, Nat.add_comm]
  have hl : Nat.ofDigits 256 (boundBytes set w) < 256 ^ (boundBytes set w).length :=
    Nat.ofDigits_lt_base_pow_length (by decide) boundBytes_lt
  have h8 : (boundBytes set w).length = 8 := by rw [boundBytes, List.length_map, List.length_range]
  rw [h8] at hl
  rw [boundWord, BitVec.toNat_ofNat]
  simp only [boundByte] at hf
  rw [← hf]
  exact Nat.mod_eq_of_lt hl

/-- Every byte of a bound word is zero or of the set. -/
theorem boundWord_byte (set : BitVec 256) (w : Word) (i : Nat) :
    let b := (boundWord set w).toNat / 256 ^ i % 256
    b = 0 ∨ set.getLsbD b = true := by
  intro b
  have hb : b = (boundBytes set w).getD i 0 := by
    rw [← ofDigits_div_mod (by decide) boundBytes_lt, ← boundWord_toNat]
  rw [hb]
  by_cases h : i < 8
  · simpa [boundBytes, h] using boundByte_mem set _
  · exact .inl (by simp [boundBytes, h])

section
variable {s : State} {n d lea k : Nat} {v : Word}

/-- What a lea has written counts the entries of memory whose regions it holds (R7). -/
theorem wrote_of_past {l : Lea} {p : Nat × BitVec 256} (hl : s.lea lea = some l) (hp : p ∈ s.mem.past)
    (ho : s.ownsRegion lea l p.1 = true) (hk : p.2.getLsbD k = true) : (s.wrote (some lea)).getLsbD k = true := by
  simp only [State.wrote, hl]
  exact getLsbD_foldl_or.2 (.inr ⟨p, List.mem_filter.2 ⟨hp, ho⟩, hk⟩)

/-- A write notes the values of its bytes at its region (R7). -/
theorem past_write (m : Memory) (a k w : Nat) {i : Nat} (h : i < k) :
    (keyGet 0 (m.write a k w).past (regionOf a)).getLsbD (w / 256 ^ i % 256) = true := by
  have e : (m.write a k w).past = m.noted a k w := rfl
  rw [e, Memory.noted, keyGet_keySet_same, BitVec.getLsbD_or, getLsbD_byteSet w h, Bool.or_true]

/-- A range forgotten has no past (R28). -/
theorem pastOf_forget (m : Memory) (a n : Nat) : (m.forget a n).pastOf a n = 0 := by
  have e : (m.forget a n).past.filter (fun p => decide (regionOf a ≤ p.1 ∧ p.1 < regionOf (a + n))) = [] := by
    simp only [Memory.forget, List.filter_filter, List.filter_eq_nil_iff, Bool.and_eq_true, decide_eq_true_eq]
    omega
  rw [Memory.pastOf, e]
  rfl

/-! ## A result written to a full register (R106) -/

theorem setW_clean (h : s.mem.isFull (s.wAddr d) = true) :
    s.setW n d false v = State.issue { s with mem := (s.mem.putWord (s.wAddr d) ⟨v, false⟩).setExt (s.wAddr d) none } n :=
  congrArg (State.issue · n) (fillWord_full h)

theorem setW_poisoned_mem (h : s.mem.isFull (s.wAddr d) = true) :
    (s.setW n d true v).mem = (s.mem.putWord (s.wAddr d) ⟨s.undef s.me.lea s.free, true⟩).setExt (s.wAddr d) none :=
  congrArg State.mem (fillWord_full (s := s.takePoison.2) h)

theorem issue_core_slots (s : State) (n c : Nat) : { (s.issue n).core c with slots := (s.core c).slots } = s.core c := by
  by_cases hc : c = s.cur.1
  · subst hc
    rw [State.issue, State.issueTo, State.modMe, State.modSlot, core_modCore]
    rfl
  · rw [State.issue, State.issueTo, State.modMe, State.modSlot, core_modCore_other _ _ hc]

theorem issue_slot_other {c j : Nat} (h : (c, j) ≠ s.cur) : (s.issue n).slot c j = s.slot c j :=
  slot_modSlot_other _ _ (by
    by_contra hn
    obtain ⟨hc, hj⟩ := not_or.1 hn
    exact h (Prod.ext (not_not.1 hc) (not_not.1 hj)))

end

/-- Settles O57: a result written is an issue in a state with one word of memory written, and a poisoned one's bytes are bound to
what the lea has written. -/
theorem resultFrame : Obligations.ResultFrame := by
  intro s n d v hm hf hs
  have me := me_issue (s := { s with mem := (s.mem.putWord (s.wAddr d) ⟨v, false⟩).setExt (s.wAddr d) none }) n hs
  refine ⟨_, setW_clean hf, putWord_read hm _ ⟨v, false⟩, fun a ha => putWord_other hm _ a _ ha,
    fun a ha => (isBad_putWord hm).trans (if_neg ha), (isBad_putWord hm).trans (if_pos rfl), putWord_fe, ?_, ?_,
    fun c k h => issue_slot_other h, rfl, fun c => issue_core_slots _ n c, ?_, fun lea k i => ?_,
    fun lea k l p => wrote_of_past, fun a k w i => past_write _ a k w, fun lea a k => ?_⟩
  · rw [me]
    rfl
  · rw [me]
    rfl
  · intro u
    have hu := setW_poisoned_mem (n := n) (v := v) hf
    refine ⟨?_, fun i hi => ?_⟩
    · rw [hu]
      exact (isBad_putWord hm).trans (if_pos rfl)
    · have hb : u.mem.read (s.wAddr d + i) 1 = (s.undef s.me.lea s.free).toNat / 256 ^ i % 256 := by
        rw [hu]
        exact putWord_byte hm hi
      rw [hb]
      exact boundWord_byte _ _ i
  · have hb : ((s.undef lea k).extractLsb' (8 * i) 8).toNat = (s.undef lea k).toNat / 256 ^ i % 256 := by
      rw [BitVec.extractLsb'_toNat, Nat.shiftRight_eq_div_pow, Nat.pow_mul]
    rw [hb]
    exact boundWord_byte _ _ i
  · rw [giveUp_mem]
    exact pastOf_forget ..

end Sys2Proof.Proofs

namespace Sys2Proof.Proofs

open Sys2Proof Sys2Proof.Machine Sys2Proof.Laws

/-! ## Numbers of several doublewords (R20, R80) -/

section
variable {s : State} {l : List Nat}

/-- The number of doublewords has their numbers as its digits. -/
theorem wide_eq_ofDigits (s : State) : ∀ l : List Nat, s.wide l = Nat.ofDigits (2 ^ 64) (l.map (s.mem.read · 8))
  | [] => rfl
  | a :: t => by rw [State.wide, wide_eq_ofDigits s t, List.map_cons, Nat.ofDigits_cons]

theorem memory_read_lt (m : Memory) (a : Nat) : m.read a 8 < 2 ^ 64 := read_lt m.cells 8 a

theorem wide_lt (s : State) (l : List Nat) : s.wide l < 2 ^ (64 * l.length) := by
  have h := Nat.ofDigits_lt_base_pow_length (b := 2 ^ 64) (l := l.map (s.mem.read · 8)) (by decide)
    (by simpa using fun a _ => memory_read_lt s.mem a)
  rwa [List.length_map, ← Nat.pow_mul, ← wide_eq_ofDigits] at h

/-- Doubleword i of the number is the doubleword at address i of the list. -/
theorem wide_div_mod {i : Nat} (h : i < l.length) : s.wide l / 2 ^ (64 * i) % 2 ^ 64 = s.mem.read (l.getD i 0) 8 := by
  rw [wide_eq_ofDigits, Nat.pow_mul, ofDigits_div_mod (by decide) (by simpa using fun a _ => memory_read_lt s.mem a)]
  simp [List.getD_eq_getElem?_getD, h]

/-- Bits of an element that lies in one doubleword. -/
theorem elemIn_word {w i : Nat} (hi : w * i / 64 < l.length) (hw : w * i % 64 + w ≤ 64) :
    s.elemIn l w i = s.mem.read (l.getD (w * i / 64) 0) 8 / 2 ^ (w * i % 64) % 2 ^ w := by
  rw [← wide_div_mod hi, part_div_mod _ _ hw, Nat.div_add_mod, State.elemIn]

theorem elemIn_one (i : Nat) : (s.elemIn l 1 i == 1) = (s.wide l).testBit i := by
  rw [State.elemIn, Nat.one_mul, Nat.testBit, Nat.shiftRight_eq_div_pow, Nat.one_and_eq_mod_two, Nat.pow_one]
  rcases Nat.mod_two_eq_zero_or_one (s.wide l / 2 ^ i) with h | h <;> rw [h] <;> rfl

theorem badList_clean (h : s.Clean l) : s.badList l = [] :=
  List.filter_eq_nil_iff.2 fun i hi => by
    rw [List.getD_eq_getElem _ _ (List.mem_range.1 hi), h _ (List.getElem_mem _)]
    decide

theorem vsrc_el_clean (h : s.Clean l) (w i : Nat) : (s.vsrc l).el w i = ⟨s.elemIn l w i, 0, false⟩ :=
  el_clean (badList_clean h) w i

/-! ## Governing masks (R149) -/

theorem maskAddrs_eq (s : State) (m : BitVec 3) : s.maskAddrs m = if m = 0 then [] else s.mAddrs m.toNat := rfl

variable {m : BitVec 3}

/-- A mask without poison is the number of its two doublewords. -/
theorem maskVal_ne_zero (hm : m ≠ 0) (h : s.Clean (s.mAddrs m.toNat)) :
    s.maskVal m.toNat = (s.wide (s.mAddrs m.toNat), false) := by
  have h0 : m.toNat ≠ 0 := fun e => hm (BitVec.eq_of_toNat_eq e)
  have hb : ∀ i < 2, s.mem.isBad ((s.mAddrs m.toNat).getD i 0) = false := fun i hi => h _ (by
    rw [List.getD_eq_getElem _ _ (by simpa [State.mAddrs] using hi)]
    exact List.getElem_mem _)
  have ha : s.anyBad (s.mAddrs m.toNat) = false := List.any_eq_false.2 fun a ha => by rw [h a ha]; decide
  rw [State.maskVal, if_neg h0]
  simp only [hb 0 (by decide), hb 1 (by decide), ha]
  rfl

theorem maskVal_clean (h : s.Clean (s.maskAddrs m)) : (s.maskVal m.toNat).2 = false := by
  by_cases hm : m = 0
  · subst hm
    rfl
  · rw [maskAddrs_eq, if_neg hm] at h
    rw [maskVal_ne_zero hm h]

/-- The active elements are those of set mask bits, for as many elements as a register can have. -/
theorem testBit_maskVal (h : s.Clean (s.maskAddrs m)) {i : Nat} (hi : i < 256) :
    (s.maskVal m.toNat).1.testBit i = s.active m i := by
  by_cases hm : m = 0
  · subst hm
    exact (Nat.testBit_two_pow_sub_one 256 i).trans (decide_eq_true hi)
  · rw [maskAddrs_eq, if_neg hm] at h
    rw [maskVal_ne_zero hm h, State.active, elemIn_one, beq_false_of_ne hm, Bool.false_or]

end

end Sys2Proof.Proofs

namespace Sys2Proof.Proofs

open Sys2Proof Sys2Proof.Machine Sys2Proof.Laws

/-! ## Instructions of the vector queue (R144, R150) -/

section
variable {s : State} {l : BitVec 4} {m : BitVec 3} {lat : Nat}

/-- A vector instruction that may issue queues what it computes. -/
theorem vissue_go {src dst : List Nat} {f : State → State × List PWord × Flags} {s1 : State} {vals : List PWord} {fl : Flags}
    (h : s.MayQueue src dst) (hf : f s = (s1, vals, fl)) :
    (.next (s.vissue src dst l lat f) : Out1) = s1.queued dst l lat vals fl := by
  obtain ⟨ho, -, hq⟩ := h
  rw [State.vissue, withOperands_go ho, if_neg (by omega), hf]
  rfl

/-- The sources of a vector instruction that may issue hold no poison. -/
theorem source_clean {src dst : List Nat} (h : s.MayQueue src dst) {x : Nat} (hx : x ∈ src) : s.mem.isBad x = false := by
  obtain ⟨-, hc, -⟩ := h
  exact hc x hx

/-- The state whose free words for the two doublewords of a governing mask are used (R149; log 12). -/
abbrev maskRead (s : State) : State := { s with free := s.free + 2 }

/-- n elements of w bits under mask m: results where it is active, the elements of a register elsewhere (R149, R150). -/
def liveEls (s : State) (m : BitVec 3) (old : List Nat) (n w : Nat) (r : Nat → Nat × Flags) : List El :=
  (List.range n).map fun i => if s.active m i then ⟨(r i).1, (r i).2, false⟩ else ⟨s.elemIn old w i, 0, false⟩

theorem maskedEls_clean {old : List Nat} {n w : Nat} {f : Nat → El} {r : Nat → Nat × Flags} (hn : n ≤ 256)
    (hm : s.Clean (s.maskAddrs m)) (ho : s.Clean old) (hf : ∀ i < n, f i = ⟨(r i).1, (r i).2, false⟩) :
    maskedEls n w (s.maskVal m.toNat).1 (s.maskVal m.toNat).2 (s.vsrc old) f = liveEls s m old n w r := by
  refine List.map_congr_left fun i hi => ?_
  have hi : i < n := List.mem_range.1 hi
  simp only [testBit_maskVal hm (hi.trans_le hn), maskVal_clean hm, vsrc_el_clean ho, Bool.or_false, hf i hi]

/-- Elements that raise no flags raise none together. -/
theorem flagsOf_none : ∀ {es : List El}, (∀ e ∈ es, e.flags = 0) → flagsOf es = 0 := fun {es} h =>
  List.foldlRecOn (motive := fun f : Flags => f = 0) _ _ rfl fun f hf e he => by
    rw [hf, h e he]
    exact ite_self _

theorem flagsOf_liveEls_none {old : List Nat} {n w : Nat} {r : Nat → Nat × Flags} (h : ∀ i, (r i).2 = 0) :
    flagsOf (liveEls s m old n w r) = 0 := flagsOf_none fun e he => by
  obtain ⟨i, -, rfl⟩ := List.mem_map.1 he
  split
  · exact h i
  · rfl

/-- An entry of the vector queue that writes elements of s into vd under a mask, issued in s1. -/
def queuedEls (s s1 : State) (m : BitVec 3) (d l : BitVec 4) (lat n w : Nat) (r : Nat → Nat × Flags) : Out1 :=
  s1.queued (s.vAddrs d.toNat) l lat (wordsOf 32 w (liveEls s m (s.vAddrs d.toNat) n w r))
    (flagsOf (liveEls s m (s.vAddrs d.toNat) n w r))

/-- The element-wise form, for clean sources, a clean mask and a clean old register. -/
theorem velem_go {d : BitVec 4} {srcs src : List Nat} {readD : Bool} {n w : Nat} {f : VMode → List VSrc → VSrc → Nat → El}
    {r : Nat → Nat × Flags} (hn : n ≤ 256) (h : s.MayQueue src (s.vAddrs d.toNat))
    (hsrc : src = srcs.flatMap s.vAddrs ++ s.maskAddrs m ++ (if readD || m != 0 then s.vAddrs d.toNat else []))
    (hd : s.Clean (s.vAddrs d.toNat))
    (hf : ∀ i < n, f s.vmode (srcs.map (fun k => s.vsrc (s.vAddrs k))) (s.vsrc (s.vAddrs d.toNat)) i =
      ⟨(r i).1, (r i).2, false⟩) :
    (.next (s.velem l m d srcs readD lat n w f) : Out1) = queuedEls s (maskRead s) m d l lat n w r := by
  have hm : s.Clean (s.maskAddrs m) := fun a ha => source_clean h (by simp [hsrc, ha])
  rw [State.velem, ← hsrc]
  refine vissue_go h ?_
  simp only [maskedEls_clean hn hm hd hf]

end

/-! ## The sources of element-wise instructions (R150) -/

section
variable {s : State} {m : BitVec 3} {a b d : BitVec 4}

/-- The operands of an instruction of two vector registers. -/
abbrev binarySrcs (s : State) (m : BitVec 3) (a b d : BitVec 4) : List Nat :=
  s.vAddrs a.toNat ++ s.vAddrs b.toNat ++ s.maskAddrs m ++ (if m = 0 then [] else s.vAddrs d.toNat)

/-- The operands of an instruction of one vector register. -/
abbrev unarySrcs (s : State) (m : BitVec 3) (a d : BitVec 4) : List Nat :=
  s.vAddrs a.toNat ++ s.maskAddrs m ++ (if m = 0 then [] else s.vAddrs d.toNat)

theorem binarySrcs_eq : binarySrcs s m a b d =
    [a.toNat, b.toNat].flatMap s.vAddrs ++ s.maskAddrs m ++ (if false || m != 0 then s.vAddrs d.toNat else []) := by
  simp [binarySrcs]

theorem unarySrcs_eq : unarySrcs s m a d =
    [a.toNat].flatMap s.vAddrs ++ s.maskAddrs m ++ (if false || m != 0 then s.vAddrs d.toNat else []) := by
  simp [unarySrcs]

end

/-! ## Elements of clean sources (R150, R156-R158) -/

section
variable {s : State} {w i : Nat} {x y : List Nat} {md : VMode} {old : VSrc}

theorem unEl_clean {g : VMode → Nat → Nat × Flags} (hx : s.Clean x) :
    unEl w g md [s.vsrc x] old i = ⟨(g md (s.elemIn x w i)).1, (g md (s.elemIn x w i)).2, false⟩ := by
  simp only [unEl, nthSrc, List.getD_cons_zero, vsrc_el_clean hx]

theorem binEl_clean {g : VMode → Nat → Nat → Nat × Flags} (hx : s.Clean x) (hy : s.Clean y) :
    binEl w g md [s.vsrc x, s.vsrc y] old i =
      ⟨(g md (s.elemIn x w i) (s.elemIn y w i)).1, (g md (s.elemIn x w i) (s.elemIn y w i)).2, false⟩ := by
  simp only [binEl, nthSrc, List.getD_cons_zero, List.getD_cons_succ, vsrc_el_clean hx, vsrc_el_clean hy, Bool.or_self]

end

/-! ## The element-wise forms (R156-R161) -/

section
variable {s : State} {t : BitVec 1} {l : BitVec 4} {m : BitVec 3} {b a d : BitVec 4} {lat : Nat}

theorem intCount_le (t : BitVec 1) : 2048 / intWidth t ≤ 256 := by
  unfold intWidth
  split <;> decide

theorem vint_go {g : (w : Nat) → BitVec w → BitVec w → BitVec w} (h : s.MayQueue (binarySrcs s m a b d) (s.vAddrs d.toNat))
    (hd : s.Clean (s.vAddrs d.toNat)) : (.next (s.vint t l m b a d lat g) : Out1) =
      queuedEls s (maskRead s) m d l lat (2048 / intWidth t) (intWidth t) fun i =>
        ((g (intWidth t) (BitVec.ofNat _ (s.elemIn (s.vAddrs a.toNat) (intWidth t) i))
          (BitVec.ofNat _ (s.elemIn (s.vAddrs b.toNat) (intWidth t) i))).toNat, 0) :=
  velem_go (intCount_le t) h binarySrcs_eq hd fun i _ =>
    binEl_clean (fun x hx => source_clean h (by simp [hx])) (fun x hx => source_clean h (by simp [hx]))

theorem ite_slt {w : Nat} (x y u v : BitVec w) : (if x.slt y then u else v) = if x.toInt < y.toInt then u else v := by
  simp only [BitVec.slt, decide_eq_true_eq]

theorem laneCount_le (t : BitVec 1) : 2048 / laneWidth t ≤ 256 := by
  unfold laneWidth
  split <;> decide

theorem vfp1_go {g : Fmt → Val → Nat × Flags} (h : s.MayQueue (unarySrcs s m a d) (s.vAddrs d.toNat))
    (hd : s.Clean (s.vAddrs d.toNat)) : (.next (s.vfp1 t l m a d lat g) : Out1) =
      queuedEls s (maskRead s) m d l lat (2048 / laneWidth t) (laneWidth t) fun i =>
        g (laneFmt t) ((laneFmt t).dec true s.fz (s.elemIn (s.vAddrs a.toNat) (laneWidth t) i)) :=
  velem_go (laneCount_le t) h unarySrcs_eq hd fun i _ => unEl_clean (fun x hx => source_clean h (by simp [hx]))

theorem vfp2_go {g : Fmt → VMode → Val → Val → Nat × Flags} (h : s.MayQueue (binarySrcs s m a b d) (s.vAddrs d.toNat))
    (hd : s.Clean (s.vAddrs d.toNat)) : (.next (s.vfp2 t l m b a d g) : Out1) =
      queuedEls s (maskRead s) m d l 6 (2048 / laneWidth t) (laneWidth t) fun i =>
        g (laneFmt t) s.vmode ((laneFmt t).dec true s.fz (s.elemIn (s.vAddrs a.toNat) (laneWidth t) i))
          ((laneFmt t).dec true s.fz (s.elemIn (s.vAddrs b.toNat) (laneWidth t) i)) :=
  velem_go (laneCount_le t) h binarySrcs_eq hd fun i _ =>
    binEl_clean (fun x hx => source_clean h (by simp [hx])) (fun x hx => source_clean h (by simp [hx]))

theorem vfp3_go {negD : Bool}
    (h : s.MayQueue (s.vAddrs a.toNat ++ s.vAddrs b.toNat ++ s.maskAddrs m ++ s.vAddrs d.toNat) (s.vAddrs d.toNat)) :
    (.next (s.vfp3 t l m b a d negD) : Out1) = queuedEls s (maskRead s) m d l 6 (2048 / laneWidth t) (laneWidth t) fun i =>
      let z := (laneFmt t).dec true s.fz (s.elemIn (s.vAddrs d.toNat) (laneWidth t) i)
      (fpFma (laneFmt t) s.fz s.rm ((laneFmt t).dec true s.fz (s.elemIn (s.vAddrs a.toNat) (laneWidth t) i))
        ((laneFmt t).dec true s.fz (s.elemIn (s.vAddrs b.toNat) (laneWidth t) i)) (if negD then z.neg else z)).pair := by
  have ha : s.Clean (s.vAddrs a.toNat) := fun x hx => source_clean h (by simp [hx])
  have hb : s.Clean (s.vAddrs b.toNat) := fun x hx => source_clean h (by simp [hx])
  have hd : s.Clean (s.vAddrs d.toNat) := fun x hx => source_clean h (by simp [hx])
  rw [State.vfp3]
  refine velem_go (laneCount_le t) h (by simp) hd fun i _ => ?_
  simp only [List.map_cons, nthSrc, List.getD_cons_zero, List.getD_cons_succ, vsrc_el_clean ha, vsrc_el_clean hb,
    vsrc_el_clean hd, Bool.or_self]
  rfl

end

/-- Settles O18: each instruction is an element-wise form with its own function of the elements. -/
theorem vectorElementResults : Obligations.VectorElementResults := by
  intro t l m b a d s va vb vd mk els goes iw x y int f fw u v z fp code p
  refine ⟨fun h hd => ?_, fun h => ⟨vfp3_go h, vfp3_go h⟩, fun h hd => ?_⟩
  · exact ⟨vint_go h hd, vint_go h hd, vint_go h hd, (vint_go h hd).trans (by simp only [ite_slt]; rfl),
      (vint_go h hd).trans (by simp only [ite_slt]; rfl), vint_go h hd, vint_go h hd, vint_go h hd, vint_go h hd, vint_go h hd,
      vint_go h hd, vfp2_go h hd, vfp2_go h hd, vfp2_go h hd, vfp2_go h hd, vfp2_go h hd⟩
  · exact ⟨vfp1_go h hd, vfp1_go h hd, vfp1_go h hd, vfp1_go h hd, vfp1_go h hd, vfp1_go h hd⟩

end Sys2Proof.Proofs

namespace Sys2Proof.Proofs

open Sys2Proof Sys2Proof.Machine Sys2Proof.Laws

/-! ## Compares and moves (R157, R166, R168, R170-R172) -/

section
variable {s : State} {l : BitVec 4} {m n : BitVec 3} {b a d : BitVec 4} {c : BitVec 2}

theorem cmpCount_le (c : BitVec 2) : 2048 / cmpWidth c ≤ 256 := by
  unfold cmpWidth
  split <;> decide

theorem vcmp_go {g : Bool × Bool → Bool}
    (h : s.MayQueue (s.vAddrs a.toNat ++ s.vAddrs b.toNat ++ s.maskAddrs m) (s.mAddrs n.toNat)) :
    (.next (s.vcmp c l m b a n g) : Out1) = (maskRead s).queued (s.mAddrs n.toNat) l 6
      (wordsOf 2 1 ((List.range (2048 / cmpWidth c)).map fun i => ⟨if s.active m i && g (cmpEl c s.vmode
        (s.elemIn (s.vAddrs a.toNat) (cmpWidth c) i) (s.elemIn (s.vAddrs b.toNat) (cmpWidth c) i)) then 1 else 0, 0, false⟩)) 0 := by
  have ha : s.Clean (s.vAddrs a.toNat) := fun x hx => source_clean h (by simp [hx])
  have hb : s.Clean (s.vAddrs b.toNat) := fun x hx => source_clean h (by simp [hx])
  have hm : s.Clean (s.maskAddrs m) := fun x hx => source_clean h (by simp [hx])
  have hes : ∀ i ∈ List.range (2048 / cmpWidth c), (s.maskVal m.toNat).1.testBit i = s.active m i := fun i hi =>
    testBit_maskVal hm ((List.mem_range.1 hi).trans_le (cmpCount_le c))
  rw [State.vcmp]
  refine vissue_go h ?_
  simp only [vsrc_el_clean ha, vsrc_el_clean hb, maskVal_clean hm, Bool.or_self, Bool.and_false]
  rw [List.map_congr_left fun i hi => by rw [hes i hi]]
  rfl

theorem scCount_le (c : BitVec 2) : 2048 / scBits c ≤ 256 := by
  unfold scBits
  split <;> decide

theorem zCount_le (z : BitVec 1) : 2048 / zBits z ≤ 256 := by
  unfold zBits
  split <;> decide

theorem vmov_go (h : s.MayQueue (unarySrcs s m a d) (s.vAddrs d.toNat)) (hd : s.Clean (s.vAddrs d.toNat)) :
    execVmov l m c a d s = queuedEls s (maskRead s) m d l 4 (2048 / scBits c) (scBits c) fun i =>
      (s.elemIn (s.vAddrs a.toNat) (scBits c) i, 0) :=
  velem_go (scCount_le c) h unarySrcs_eq hd fun i _ => unEl_clean fun x hx => source_clean h (by simp [hx])

theorem vdeq_go {t hi : BitVec 1} (h : s.MayQueue (unarySrcs s m a d) (s.vAddrs d.toNat)) (hd : s.Clean (s.vAddrs d.toNat)) :
    execVdeq t l m hi a d s = queuedEls s (maskRead s) m d l 6 (2048 / laneWidth t) (laneWidth t) fun i =>
      let j := if hi = 1 then i + 64 else i
      let e := s.elemIn (s.vAddrs a.toNat) 8 (128 + j / 32)
      (((laneFmt t).enc true false .rne (blockDec s.nsr (e / 64) (e % 64) (s.elemIn (s.vAddrs a.toNat) 4 j))).bits, 0) := by
  have ha : s.Clean (s.vAddrs a.toNat) := fun x hx => source_clean h (by simp [hx])
  rw [execVdeq]
  refine velem_go (laneCount_le t) h unarySrcs_eq hd fun i _ => ?_
  simp only [List.map_cons, nthSrc, List.getD_cons_zero, vsrc_el_clean ha]
  rfl

theorem vperm_go {z : BitVec 1} (h : s.MayQueue (binarySrcs s m a b d) (s.vAddrs d.toNat)) (hd : s.Clean (s.vAddrs d.toNat)) :
    execVperm z l m b a d s = queuedEls s (maskRead s) m d l 4 (2048 / zBits z) (zBits z) fun i =>
      let j := s.elemIn (s.vAddrs b.toNat) (zBits z) i
      (if j < 2048 / zBits z then s.elemIn (s.vAddrs a.toNat) (zBits z) j else 0, 0) := by
  have ha : s.Clean (s.vAddrs a.toNat) := fun x hx => source_clean h (by simp [hx])
  have hb : s.Clean (s.vAddrs b.toNat) := fun x hx => source_clean h (by simp [hx])
  rw [execVperm]
  refine velem_go (zCount_le z) h binarySrcs_eq hd fun i _ => ?_
  simp only [List.map_cons, nthSrc, List.getD_cons_zero, List.getD_cons_succ, vsrc_el_clean ha, vsrc_el_clean hb, Bool.or_self]
  split <;> rfl

theorem maskAddrs_subset : s.maskAddrs m ⊆ s.mAddrs m.toNat := by
  rw [maskAddrs_eq]
  split
  · exact List.nil_subset _
  · exact List.Subset.refl _

theorem vsel_go {z : BitVec 1} (h : s.MayQueue (s.vAddrs a.toNat ++ s.vAddrs b.toNat ++ s.mAddrs m.toNat) (s.vAddrs d.toNat)) :
    execVsel z l m b a d s = (maskRead s).queued (s.vAddrs d.toNat) l 4
      (wordsOf 32 (zBits z) ((List.range (2048 / zBits z)).map fun i =>
        ⟨if s.active m i then s.elemIn (s.vAddrs a.toNat) (zBits z) i else s.elemIn (s.vAddrs b.toNat) (zBits z) i,
          0, false⟩)) 0 := by
  have ha : s.Clean (s.vAddrs a.toNat) := fun x hx => source_clean h (by simp [hx])
  have hb : s.Clean (s.vAddrs b.toNat) := fun x hx => source_clean h (by simp [hx])
  have hm : s.Clean (s.maskAddrs m) := fun x hx => source_clean h (by simp [maskAddrs_subset hx])
  have hes : liveEls s m (s.vAddrs b.toNat) (2048 / zBits z) (zBits z) (fun i => (s.elemIn (s.vAddrs a.toNat) (zBits z) i, 0)) =
      (List.range (2048 / zBits z)).map fun i =>
        ⟨if s.active m i then s.elemIn (s.vAddrs a.toNat) (zBits z) i else s.elemIn (s.vAddrs b.toNat) (zBits z) i, 0, false⟩ :=
    List.map_congr_left fun i _ => by split <;> rfl
  rw [execVsel]
  refine vissue_go h ?_
  simp only [maskedEls_clean (zCount_le z) hm hb (r := fun i => (s.elemIn (s.vAddrs a.toNat) (zBits z) i, 0)) fun i _ =>
    vsrc_el_clean ha _ i, hes]
  rfl

theorem vbcast_go {k : BitVec 5} (h : s.MayQueue ([s.wAddr k.toNat] ++ s.maskAddrs m ++ (if m = 0 then [] else s.vAddrs d.toNat))
    (s.vAddrs d.toNat)) (hd : s.Clean (s.vAddrs d.toNat)) :
    execVbcast k l m c d s = queuedEls s (maskRead s) m d l 4 (2048 / scBits c) (scBits c) fun _ =>
      ((s.w k.toNat).val.toNat % 2 ^ scBits c, 0) := by
  have hk : (s.w k.toNat).bad = false := source_clean h (by simp)
  have hm : s.Clean (s.maskAddrs m) := fun x hx => source_clean h (by simp [hx])
  rw [execVbcast, queuedEls, flagsOf_liveEls_none fun _ => rfl]
  refine vissue_go h ?_
  have hes := maskedEls_clean (w := scBits c) (f := fun _ => ⟨(s.w k.toNat).val.toNat % 2 ^ scBits c, Flags.none, false⟩)
    (r := fun _ => ((s.w k.toNat).val.toNat % 2 ^ scBits c, 0)) (scCount_le c) hm hd fun _ _ => rfl
  simp only [hk, hes]
  rfl

theorem vslide_go {k : BitVec 5} (h : s.MayQueue ([s.wAddr k.toNat] ++ s.vAddrs b.toNat) (s.vAddrs d.toNat)) :
    execVslide k l b d s = s.queued (s.vAddrs d.toNat) l 4 (wordsOf 32 8 ((List.range 256).map fun j =>
      let i : Int := (j : Int) + (s.w k.toNat).val.toInt
      ⟨if 0 ≤ i ∧ i < 256 then s.elemIn (s.vAddrs b.toNat) 8 i.toNat else 0, 0, false⟩)) 0 := by
  have hk : (s.w k.toNat).bad = false := source_clean h (by simp)
  have hb : s.Clean (s.vAddrs b.toNat) := fun x hx => source_clean h (by simp [hx])
  have hel (i : Int) :
      (if 0 ≤ i ∧ i < 256 then (⟨s.elemIn (s.vAddrs b.toNat) 8 i.toNat, 0, false⟩ : El) else ⟨0, Flags.none, false⟩) =
      ⟨if 0 ≤ i ∧ i < 256 then s.elemIn (s.vAddrs b.toNat) 8 i.toNat else 0, 0, false⟩ := by
    split <;> rfl
  rw [execVslide]
  refine vissue_go h ?_
  simp only [hk, vsrc_el_clean hb, Bool.or_false, hel]
  rfl

end

/-! ## Conversions (R90, R162, R163) -/

section

/-- Value i of a generator's steps is what step i + 1 returns. -/
theorem srList_getD : ∀ {n i : Nat} (g : Word), i < n → (srList n g).getD i 0 = (srStep (srSteps i g)).2
  | _ + 1, 0, _, _ => rfl
  | n + 1, i + 1, g, h => srList_getD (n := n) (srStep g).1 (by omega)

variable {s : State} {k : BitVec 5} {l : BitVec 4} {m : BitVec 3} {a d : BitVec 4} {kd : CvtKind}

/-- The rounding mode with which a conversion narrows element i: that of step i + 1 of SRGEN where it is stochastic (R90). -/
def cvtRm (s : State) (sr : Bool) (i : Nat) : Rm := if sr then .rsr (srStep (srSteps i s.desc.srgen)).2 else s.rm

/-- What a conversion makes of element i (R162). -/
def cvtEl (s : State) (kd : CvtKind) (narrow sr : Bool) (v : List Nat) (i : Nat) : Nat × Flags :=
  if narrow then narrowEl kd s.vmode (cvtRm s sr i) (s.elemIn v 32 i) else widenEl kd s.vmode (s.elemIn v kd.bits i)

/-- The state in which a conversion issues: SRGEN is 64 steps on where it is stochastic (R90). -/
def cvtState (s : State) (sr : Bool) : State :=
  if sr then (maskRead s).modDesc fun e => { e with srgen := srSteps 64 e.srgen } else maskRead s

theorem vcvt_go {narrow sr : Bool} (h : s.MayQueue (unarySrcs s m a d) (s.vAddrs d.toNat)) (hd : s.Clean (s.vAddrs d.toNat))
    (hk : cvtCode k = (kd, narrow, sr)) : execVcvt k l m a d s =
      queuedEls s (cvtState s sr) m d l 6 64 (if narrow then kd.bits else 32) fun i =>
        cvtEl s kd narrow sr (s.vAddrs a.toNat) i := by
  have ha : s.Clean (s.vAddrs a.toNat) := fun x hx => source_clean h (by simp [hx])
  have hm : s.Clean (s.maskAddrs m) := fun x hx => source_clean h (by simp [hx])
  rw [execVcvt, hk]
  refine vissue_go h ?_
  simp only [vsrc_el_clean ha]
  rw [maskedEls_clean (by decide) hm hd fun i hi => ?_]
  · rfl
  · rw [cvtEl, cvtRm]
    cases narrow <;> cases sr <;> simp only [if_true, Bool.false_eq_true, if_false, srList_getD _ hi]

theorem vcvt_narrow (h : s.MayQueue (unarySrcs s m a d) (s.vAddrs d.toNat)) (hd : s.Clean (s.vAddrs d.toNat))
    (hk : cvtCode k = (kd, true, false)) : execVcvt k l m a d s = queuedEls s (maskRead s) m d l 6 64 kd.bits fun i =>
      narrowEl kd s.vmode s.rm (s.elemIn (s.vAddrs a.toNat) 32 i) := by
  simpa only [cvtState, cvtEl, cvtRm, if_true, Bool.false_eq_true, if_false] using vcvt_go h hd hk

theorem vcvt_stochastic (h : s.MayQueue (unarySrcs s m a d) (s.vAddrs d.toNat)) (hd : s.Clean (s.vAddrs d.toNat))
    (hk : cvtCode k = (kd, true, true)) : execVcvt k l m a d s =
      queuedEls s ((maskRead s).modDesc fun e => { e with srgen := srSteps 64 e.srgen }) m d l 6 64 kd.bits fun i =>
        narrowEl kd s.vmode (.rsr (srStep (srSteps i s.desc.srgen)).2) (s.elemIn (s.vAddrs a.toNat) 32 i) := by
  simpa only [cvtState, cvtEl, cvtRm, if_true] using vcvt_go h hd hk

theorem vcvt_widen (h : s.MayQueue (unarySrcs s m a d) (s.vAddrs d.toNat)) (hd : s.Clean (s.vAddrs d.toNat))
    (hk : cvtCode k = (kd, false, false)) : execVcvt k l m a d s = queuedEls s (maskRead s) m d l 6 64 32 fun i =>
      widenEl kd s.vmode (s.elemIn (s.vAddrs a.toNat) kd.bits i) := by
  simpa only [cvtState, cvtEl, Bool.false_eq_true, if_false] using vcvt_go h hd hk

/-- The codes of floating formats: narrowing, widening, and narrowing with stochastic rounding. -/
theorem cvtCode_fp : ∀ k : BitVec 5, (k < 6 → cvtCode k = (.fp (cvtFmt 0 (k.setWidth 3)), true, false))
    ∧ (8 ≤ k → k < 14 → cvtCode k = (.fp (cvtFmt 0 (k.setWidth 3)), false, false))
    ∧ (16 ≤ k → k < 22 → cvtCode k = (.fp (cvtFmt 0 (k.setWidth 3)), true, true)) := by decide

/-- The codes of integers. -/
theorem cvtCode_int : ∀ w ∈ [(8 : Nat), 16, 32],
    cvtCode (if w = 32 then 6 else if w = 8 then 7 else 0x18) = (.int w, true, false)
    ∧ cvtCode (if w = 32 then 22 else if w = 8 then 23 else 0x1A) = (.int w, true, true)
    ∧ cvtCode (if w = 32 then 14 else if w = 8 then 15 else 0x19) = (.int w, false, false) := by decide

end

/-- Settles O19: each comparison, conversion and move is its own form of the vector queue. -/
theorem vectorMoveResults : Obligations.VectorMoveResults := by
  intro t h c k l m n b a d s va vb vd mk s1 els goes cw bits cmp f fw zw sw
  refine ⟨fun hq => ⟨vcmp_go hq, vcmp_go hq, vcmp_go hq⟩, fun hq hd => ?_, fun hq hd => vperm_go hq hd, fun hq => vsel_go hq,
    fun hq hd => vbcast_go hq hd, fun hq => vslide_go hq⟩
  obtain ⟨hnarrow, hwiden, hstochastic⟩ := cvtCode_fp k
  refine ⟨vmov_go hq hd, vdeq_go hq hd, fun hk => vcvt_narrow (kd := .fp _) hq hd (hnarrow hk),
    fun h8 hk => vcvt_widen (kd := .fp _) hq hd (hwiden h8 hk),
    fun h16 hk => vcvt_stochastic (kd := .fp _) hq hd (hstochastic h16 hk), fun w hw => ?_⟩
  obtain ⟨hnarrow, hstochastic, hwiden⟩ := cvtCode_int w hw
  exact ⟨fun hk => vcvt_narrow (kd := .int w) hq hd (hk ▸ hnarrow),
    fun hk => vcvt_stochastic (kd := .int w) hq hd (hk ▸ hstochastic),
    fun hk => vcvt_widen (kd := .int w) hq hd (hk ▸ hwiden)⟩

end Sys2Proof.Proofs

namespace Sys2Proof.Proofs

open Sys2Proof Sys2Proof.Machine Sys2Proof.Laws

/-! ## Masks (R167) -/

section
variable {s : State} {l : BitVec 4} {m p q : BitVec 3} {k : BitVec 5}

theorem mAddrs_length (s : State) (j : Nat) : (s.mAddrs j).length = 2 := by simp [State.mAddrs]

theorem wide_mAddrs_lt (s : State) (j : Nat) : s.wide (s.mAddrs j) < 2 ^ 128 := by
  have h := wide_lt s (s.mAddrs j)
  rwa [mAddrs_length] at h

/-- An instruction on whole mask registers writes the two doublewords of its result. -/
theorem vmaskOp_go {srcs : List Nat} {g : Nat → Nat → Nat} (h : s.MayQueue (srcs.flatMap s.mAddrs) (s.mAddrs m.toNat)) :
    (.next (s.vmaskOp l srcs m g) : Out1) =
      let v := g (nthSrc (srcs.map fun k => s.vsrc (s.mAddrs k)) 0).v (nthSrc (srcs.map fun k => s.vsrc (s.mAddrs k)) 1).v
      s.queued (s.mAddrs m.toNat) l 4 [⟨BitVec.ofNat 64 v, false⟩, ⟨BitVec.ofNat 64 (v / 2 ^ 64), false⟩] 0 := by
  have hbad (k : Nat) : (nthSrc (srcs.map fun k => s.vsrc (s.mAddrs k)) k).bad = [] := by
    rw [nthSrc, List.getD_eq_getElem?_getD, List.getElem?_map]
    cases hk : srcs[k]? with
    | none => rfl
    | some j => exact badList_clean fun x hx => source_clean h (List.mem_flatMap.2 ⟨j, List.mem_of_getElem? hk, hx⟩)
  rw [State.vmaskOp]
  refine vissue_go h ?_
  simp only [hbad, List.contains_nil, Bool.or_self]
  simp [List.range_succ, Flags.none]

theorem mnot_go (h : s.MayQueue (s.mAddrs p.toNat) (s.mAddrs m.toNat)) : execMnot l p m s =
    s.queued (s.mAddrs m.toNat) l 4 [⟨BitVec.ofNat 64 (2 ^ 128 - 1 - s.wide (s.mAddrs p.toNat)), false⟩,
      ⟨BitVec.ofNat 64 ((2 ^ 128 - 1 - s.wide (s.mAddrs p.toNat)) / 2 ^ 64), false⟩] 0 := by
  refine (vmaskOp_go (srcs := [p.toNat]) (by simpa using h)).trans ?_
  simp only [List.map_cons, nthSrc, List.getD_cons_zero, State.vsrc, Nat.mod_eq_of_lt (wide_mAddrs_lt s p.toNat)]

theorem mpop_go (h : s.MayQueue (s.mAddrs p.toNat) [s.wAddr k.toNat]) : execMpop k l p s = s.queued [s.wAddr k.toNat] l 4
    [⟨BitVec.ofNat 64 ((List.range 128).filter fun i => (s.wide (s.mAddrs p.toNat)).testBit i).length, false⟩] 0 := by
  rw [execMpop]
  refine vissue_go h ?_
  simp only [State.vsrc, badList_clean fun _ hx => source_clean h hx, popNat_eq]
  rfl

end

/-! ## Single elements (R169) -/

section
variable {s : State} {l : BitVec 4} {k : BitVec 5} {e : BitVec 7} {b : BitVec 4}

theorem vAddrs_length (s : State) (j : Nat) : (s.vAddrs j).length = 32 := by simp [State.vAddrs]

theorem wide_singleton (s : State) (a : Nat) : s.wide [a] = s.mem.read a 8 := by simp [State.wide]

theorem elemSel_32 (h : e < 64) : elemSel e = (32, e.toNat) := if_pos h

theorem toNat_mod_64 (h1 : 64 ≤ e) (h2 : e < 96) : (e % 64).toNat = e.toNat - 64 ∧ e.toNat - 64 < 32 ∧ 64 ≤ e.toNat := by
  have h1 : 64 ≤ e.toNat := h1
  have h2 : e.toNat < 96 := h2
  have h : (e % 64).toNat = e.toNat % 64 := BitVec.toNat_umod
  omega

theorem elemSel_64 (h1 : 64 ≤ e) (h2 : e < 96) : elemSel e = (64, (e % 64).toNat) := by
  obtain ⟨hlo, hlt, hle⟩ := toNat_mod_64 h1 h2
  rw [elemSel, if_neg (by omega), hlo]
  exact congrArg (Prod.mk 64) (by omega)

/-- An element of half or all of a doubleword is read from that doubleword alone. -/
theorem elemIn_singleton {n i : Nat} (hn : n = 32 ∨ n = 64) (hi : n * i < 2048) :
    s.elemIn [(s.vAddrs b.toNat).getD (n * i / 64) 0] n (n * i % 64 / n) = s.elemIn (s.vAddrs b.toNat) n i := by
  have hlen : n * i / 64 < (s.vAddrs b.toNat).length := by
    rw [vAddrs_length]
    omega
  have hpart : n * i % 64 + n ≤ 64 ∧ n * (n * i % 64 / n) = n * i % 64 := by
    rcases hn with rfl | rfl <;> omega
  rw [elemIn_word hlen hpart.1, State.elemIn, wide_singleton, hpart.2]

theorem vextr_go {n i : Nat} (he : elemSel e = (n, i)) (hn : n = 32 ∨ n = 64) (hi : n * i < 2048)
    (h : s.MayQueue [(s.vAddrs b.toNat).getD (n * i / 64) 0] [s.wAddr k.toNat]) : execVextr k l e b s =
      s.queued [s.wAddr k.toNat] l 4 [⟨BitVec.ofNat 64 (s.elemIn (s.vAddrs b.toNat) n i), false⟩] 0 := by
  rw [execVextr, he]
  refine vissue_go h ?_
  simp only [vsrc_el_clean fun _ hx => source_clean h hx, elemIn_singleton hn hi]
  rfl

/-- A half of a doubleword replaced: the lower one at an even element number, else the upper one. -/
theorem putBytes_half (y x : Word) (i : Nat) : putBytes y (4 * i) 4 x.toNat =
    if i % 2 = 0 then y.extractLsb' 32 32 ++ x.extractLsb' 0 32 else x.extractLsb' 0 32 ++ y.extractLsb' 0 32 := by
  have hmask : 256 ^ 4 - 1 = 2 ^ 32 - 1 := rfl
  have hdata : x.toNat % 256 ^ 4 = x.toNat % 2 ^ 32 := rfl
  have hplace : 8 * (4 * i % 8) = if i % 2 = 0 then 0 else 32 := by
    split <;> omega
  apply BitVec.eq_of_getLsbD_eq
  intro j hj
  rw [putBytes, hplace, hmask, hdata]
  simp only [BitVec.getLsbD_or, BitVec.getLsbD_and, BitVec.getLsbD_not, BitVec.getLsbD_ofNat, Nat.testBit_mul_two_pow,
    Nat.testBit_two_pow_sub_one, Nat.testBit_mod_two_pow, BitVec.testBit_toNat]
  have hhalf : (j < 32 ∧ ¬ 32 ≤ j) ∨ (¬ j < 32 ∧ 32 ≤ j ∧ j - 32 < 32 ∧ 32 + (j - 32) = j) := by omega
  by_cases h : i % 2 = 0
  · simp only [h, if_true, BitVec.getLsbD_append, BitVec.getLsbD_extractLsb']
    rcases hhalf with ⟨hlow, hlt⟩ | ⟨hlow, hle, hsub, hadd⟩
    · simp [hj, hlow]
    · simp [hj, hlow, hsub, hadd]
  · simp only [h, if_false, BitVec.getLsbD_append, BitVec.getLsbD_extractLsb']
    rcases hhalf with ⟨hlow, hlt⟩ | ⟨hlow, hle, hsub, hadd⟩
    · simp [hj, hlow, hlt]
    · simp [hj, hlow, hle, hsub]

theorem vins_64 {i : Nat} (he : elemSel e = (64, i))
    (h : s.MayQueue [s.wAddr k.toNat, (s.vAddrs b.toNat).getD i 0] [(s.vAddrs b.toNat).getD i 0]) : execVins k l e b s =
      s.queued [(s.vAddrs b.toNat).getD i 0] l 4 [s.w k.toNat] 0 := by
  have hi : 64 * i / 64 = i := by omega
  rw [execVins, he]
  simp only [hi]
  exact vissue_go h rfl

theorem vins_32 {i : Nat} (he : elemSel e = (32, i))
    (h : s.MayQueue [s.wAddr k.toNat, (s.vAddrs b.toNat).getD (i / 2) 0] [(s.vAddrs b.toNat).getD (i / 2) 0]) :
    execVins k l e b s = s.queued [(s.vAddrs b.toNat).getD (i / 2) 0] l 4
      [⟨putBytes (s.mem.word ((s.vAddrs b.toNat).getD (i / 2) 0)).val (4 * i) 4 (s.w k.toNat).val.toNat, false⟩] 0 := by
  have hi : 32 * i / 64 = i / 2 := by omega
  have hx : (s.w k.toNat).bad = false := source_clean h (by simp)
  have hy : (s.mem.word ((s.vAddrs b.toNat).getD (i / 2) 0)).bad = false := source_clean h (by simp)
  rw [execVins, he]
  simp only [hi]
  refine vissue_go h ?_
  simp only [hx, hy]
  rfl

end

/-! ## Reductions (R102, R173) -/

section
variable {s : State} {l z : BitVec 4} {m : BitVec 3} {k : BitVec 5} {b : BitVec 4}

/-- The leaf of a reduction tree that element i of a register gives. -/
def redLeaf (s : State) (m : BitVec 3) (f : Fmt) (v : List Nat) (idle i : Nat) : El :=
  ⟨if s.active m i then (fp32.enc true false .rne (f.dec true s.fz (s.elemIn v f.bits i))).bits else idle, 0, false⟩

/-- A node of a reduction tree: its operation on what its two sides hold, with the flags and the poison of both. -/
def redNode (fz : Bool) (g : Val → Val → Res) (x y : El) : El :=
  let r := g (fp32.dec true fz x.val) (fp32.dec true fz y.val)
  ⟨r.bits, r.flags ||| x.flags ||| y.flags, x.bad || y.bad⟩

theorem vred_go {idle n levels : Nat} {f : Fmt} {g : VMode → Val → Val → Nat × Flags} {op : Val → Val → Res}
    (hf : redFmt z = f) (hn : 2048 / f.bits = n) (hn' : n ≤ 256) (hl : (if n = 64 then 6 else 7) = levels)
    (hg : ∀ x y, g s.vmode x y = (op x y).pair) (h : s.MayQueue (s.vAddrs b.toNat ++ s.maskAddrs m) [s.wAddr k.toNat]) :
    (.next (s.vred k l m b z idle g) : Out1) =
      let r := treeRoot (redNode s.fz op) levels ((List.range n).map (redLeaf s m f (s.vAddrs b.toNat) idle))
      (maskRead s).queued [s.wAddr k.toNat] l 12 [⟨BitVec.ofNat 64 r.val, r.bad⟩] (if r.bad then 0 else r.flags) := by
  subst hf hn hl
  have hb : s.Clean (s.vAddrs b.toNat) := fun x hx => source_clean h (by simp [hx])
  have hm : s.Clean (s.maskAddrs m) := fun x hx => source_clean h (by simp [hx])
  have hleaf : ((List.range (2048 / (redFmt z).bits)).map fun i =>
      if (s.maskVal m.toNat).1.testBit i then
        (⟨(fp32.enc true false .rne ((redFmt z).dec true s.vmode.fz (s.elemIn (s.vAddrs b.toNat) (redFmt z).bits i))).bits,
          Flags.none, false⟩ : El)
      else ⟨idle, Flags.none, false⟩) =
      (List.range (2048 / (redFmt z).bits)).map (redLeaf s m (redFmt z) (s.vAddrs b.toNat) idle) :=
    List.map_congr_left fun i hi => by
      rw [testBit_maskVal hm ((List.mem_range.1 hi).trans_le hn'), redLeaf]
      split <;> rfl
  rw [State.vred]
  refine vissue_go h ?_
  simp only [vsrc_el_clean hb, maskVal_clean hm, Bool.or_self, hg, hleaf]
  rfl

/-- The types of a reduction: format, elements and tree levels (R154). -/
theorem redFmt_eq : ∀ z : BitVec 4, z < 3 → redFmt z = (if z = 0 then fp32 else if z = 1 then bf16 else fp16)
    ∧ 2048 / (if z = 0 then fp32 else if z = 1 then bf16 else fp16).bits = (if z = 0 then 64 else 128)
    ∧ (if z = 0 then 64 else 128) ≤ 256
    ∧ (if (if z = 0 then 64 else 128) = 64 then 6 else 7) = (if z = 0 then 6 else 7) := by decide

end

/-! ## Quantisation (R90, R165) -/

section
variable {s : State} {t r : BitVec 1} {l : BitVec 4} {m : BitVec 3} {c : BitVec 2} {a d : BitVec 4}

theorem quantBlocks_eq (f : Fmt) (md : VMode) (ty : Nat) (els : List (El × Bool × Rm)) : ∀ n, quantBlocks f md ty els n =
    (List.range n).map fun j => quantBlock f md ty ((els.drop (32 * j)).take 32)
  | 0 => rfl
  | n + 1 => by rw [quantBlocks, quantBlocks_eq f md ty els n, List.range_succ, List.map_append, List.map_singleton]

/-- Part of a list that is made of numbers. -/
theorem take_drop_map_range {α : Type} {n i k : Nat} (f : Nat → α) (h : i + k ≤ n) :
    (((List.range n).map f).drop i).take k = (List.range k).map fun j => f (i + j) := by
  refine List.ext_getElem (by simp; omega) fun j h1 h2 => by simp

/-- Element i of a register with its activity and its rounding mode, as a quantisation takes it. -/
def quantIn (s : State) (m : BitVec 3) (v : List Nat) (w : Nat) (r : BitVec 1) (i : Nat) : El × Bool × Rm :=
  (⟨s.elemIn v w i, 0, false⟩, s.active m i, if r = 1 then .rsr (srStep (srSteps i s.desc.srgen)).2 else s.rm)

/-- The blocks of a register's quantisation, 32 elements each. -/
def quantised (s : State) (m : BitVec 3) (v : List Nat) (f : Fmt) (w ty : Nat) (r : BitVec 1) : List (List El × El) :=
  (List.range (2048 / w / 32)).map fun j => quantBlock f s.vmode ty ((List.range 32).map fun i => quantIn s m v w r (32 * j + i))

theorem vquant_go (h : s.MayQueue (s.vAddrs a.toNat ++ s.maskAddrs m) (s.vAddrs d.toNat)) :
    execVquant t l m r c a d s =
      let bs := quantised s m (s.vAddrs a.toNat) (laneFmt t) (laneWidth t) c.toNat r
      let s1 := if r = 1 then (maskRead s).modDesc (fun e => { e with srgen := srSteps (2048 / laneWidth t) e.srgen }) else maskRead s
      s1.queued (s.vAddrs d.toNat) l 10
        (wordsOf 16 4 (bs.flatMap Prod.fst) ++ wordsOf 16 8 (bs.map Prod.snd)) (flagsOf (bs.flatMap Prod.fst)) := by
  have ha : s.Clean (s.vAddrs a.toNat) := fun x hx => source_clean h (by simp [hx])
  have hm : s.Clean (s.maskAddrs m) := fun x hx => source_clean h (by simp [hx])
  have hin : ((List.range (2048 / laneWidth t)).map fun i => ((⟨s.elemIn (s.vAddrs a.toNat) (laneWidth t) i, 0, false⟩ : El),
      (s.maskVal m.toNat).1.testBit i,
      if r = 1 then Rm.rsr ((if r = 1 then srList (2048 / laneWidth t) s.desc.srgen else []).getD i 0) else s.rm)) =
      (List.range (2048 / laneWidth t)).map (quantIn s m (s.vAddrs a.toNat) (laneWidth t) r) :=
    List.map_congr_left fun i hi => by
      have hi := List.mem_range.1 hi
      rw [testBit_maskVal hm (hi.trans_le (laneCount_le t)), quantIn]
      by_cases hr : r = 1
      · simp only [hr, if_true, srList_getD _ hi]
      · simp only [hr, if_false]
  have hblocks : quantBlocks (laneFmt t) s.vmode c.toNat ((List.range (2048 / laneWidth t)).map
      (quantIn s m (s.vAddrs a.toNat) (laneWidth t) r)) (2048 / laneWidth t / 32) =
      quantised s m (s.vAddrs a.toNat) (laneFmt t) (laneWidth t) c.toNat r := by
    rw [quantBlocks_eq]
    refine List.map_congr_left fun j hj => ?_
    have hj := List.mem_range.1 hj
    rw [take_drop_map_range _ (by omega)]
  rw [execVquant]
  refine vissue_go h ?_
  simp only [vsrc_el_clean ha, maskVal_clean hm, Bool.or_false, hin, hblocks, List.map_id']

end

/-- Settles O20: mask logic, single elements, reductions and quantisation are each their own form of the vector queue. -/
theorem vectorMaskAndReductionResults : Obligations.VectorMaskAndReductionResults := by
  intro k l e m p q b a d z c t r s vb mask put word lo
  refine ⟨fun h => ?_, fun h => mnot_go h, fun h => mpop_go h, fun he h => ?_, fun h1 h2 h => ?_, fun h1 h2 h => ?_,
    fun he h => ?_, fun hz h => ?_, fun h => vquant_go h⟩
  · have h : s.MayQueue ([p.toNat, q.toNat].flatMap s.mAddrs) (s.mAddrs m.toNat) := by simpa using h
    exact ⟨vmaskOp_go h, vmaskOp_go h⟩
  · have hi : 32 * e.toNat / 64 = e.toNat / 2 := by omega
    have he' : e.toNat < 64 := he
    exact vextr_go (elemSel_32 he) (.inl rfl) (by omega) (by rwa [hi])
  · have hi : 64 * lo.toNat / 64 = lo.toNat := by omega
    obtain ⟨hlo, hlt, -⟩ := toNat_mod_64 h1 h2
    exact vextr_go (elemSel_64 h1 h2) (.inr rfl) (by rw [hlo]; omega) (by rwa [hi])
  · exact vins_64 (elemSel_64 h1 h2) h
  · intro x y
    rw [← putBytes_half y x e.toNat]
    exact vins_32 (elemSel_32 he) h
  · obtain ⟨hf, hn, hn', hl⟩ := redFmt_eq z hz
    have go {idle : Nat} {g : VMode → Val → Val → Nat × Flags} (op : Val → Val → Res)
        (hg : ∀ x y, g s.vmode x y = (op x y).pair) :=
      vred_go (l := l) (idle := idle) hf hn hn' hl hg h
    exact ⟨go (fun x y => fpAdd fp32 s.fz s.rm x y) fun _ _ => rfl,
      go (fun x y => ⟨(fp32.enc true false .rne (x.maxOf y)).bits, 0⟩) fun _ _ => rfl,
      go (fun x y => ⟨(fp32.enc true false .rne (x.minOf y)).bits, 0⟩) fun _ _ => rfl⟩

end Sys2Proof.Proofs

namespace Sys2Proof.Proofs

open Sys2Proof Sys2Proof.Machine Sys2Proof.Laws

/-! ## The conditions of R178 -/

section
variable {s : State} {l : BitVec 4} {b : BitVec 5} {t : BitVec 2}

/-- The acting core's bay serves its thread: its lea holds the pool, and no restore runs. -/
abbrev BayServes (s : State) : Prop := s.myCore.lea = s.me.lea ∧ s.myCore.bay.busyWith 2 = false

/-- A matrix instruction whose own conditions hold runs on. -/
theorem withBay_go {cond : Bay → Bool} {f : State → State} (h : BayServes s) (hc : cond s.myCore.bay = true) :
    s.withBay cond f = f s := by
  obtain ⟨hp, hb⟩ := h
  rw [State.withBay, withPool_go hp, hc, hb]
  rfl

/-- An instruction of the bay queue that consumes a register runs on to its own checks where its operands may be read, the
register is clean and the queue has room. -/
theorem bayWord_go {src dst : List Nat} {k : Nat} {c : BitVec 8} {f : State → State} (h : BayServes s)
    (hr : s.myCore.bay.hasRoom = true) (ho : s.Operands src dst) (hk : (s.w k).bad = false) :
    s.withOperands src dst (fun s => s.withBay Bay.hasRoom fun s => s.needClean 4 c k f) = f s := by
  rw [withOperands_go ho, withBay_go h hr, needClean_go hk]

/-! ## The bay queue (R187-R194) -/

theorem mcfg_go (h : BayServes s) (hr : s.myCore.bay.hasRoom = true) (ho : s.Reads [b.toNat] []) (hb : (s.w b.toNat).bad = false) :
    exec (.mcfg l b t) s = .next (if cfgBad (s.w b.toNat).val then s.raise 4 0x06 (s.w b.toNat).val
      else s.bayEnqueue true l [] .bay (.mcfg t.toNat ((s.w b.toNat).val.extractLsb' 0 10))) :=
  congrArg Host.Outcome.next (bayWord_go h hr ho hb)

theorem mzero_go (h : BayServes s) (hr : s.myCore.bay.hasRoom = true) :
    exec (.mzero l t) s = .next (s.bayEnqueue true l [] .bay (.mzero t.toNat)) :=
  congrArg Host.Outcome.next (withBay_go h hr)

/-- The planes do not change places while a load fills one (R190). -/
theorem mswap_go (h : BayServes s) (hr : s.myCore.bay.hasRoom = true) (hl : s.myCore.bay.busyWith 0 = false) :
    exec (.mswap l) s = .next (s.bayEnqueue true l [] .bay .mswap) :=
  congrArg Host.Outcome.next (withBay_go h (by rw [hr, hl]; rfl))

theorem drainCount_eq : ∀ f : BitVec 3, drainCount f.toNat = if f = 0 then 64 else 128 := by decide

/-- A drain that runs on traps on a start at no multiple of its elements or too near the tile's end, else it is queued (R192). -/
theorem mdrain_eq {r f : BitVec 3} {v : BitVec 4} (h : BayServes s) (hr : s.myCore.bay.hasRoom = true)
    (ho : s.Operands [s.wAddr b.toNat] (s.vAddrs v.toNat)) (hb : (s.w b.toNat).bad = false) :
    exec (.mdrain l r f b v t) s = .next (if (s.w b.toNat).val.toNat % (if f = 0 then 64 else 128) ≠ 0
        ∨ 4096 < (s.w b.toNat).val.toNat + (if f = 0 then 64 else 128) then s.raise 4 0x06 (s.w b.toNat).val
      else s.bayEnqueue true l (s.vAddrs v.toNat) .bay (.mdrain t.toNat (s.w b.toNat).val.toNat f.toNat
        (if r = 0 then s.desc.stat.extractLsb' 0 2 else r.extractLsb' 0 2) s.nsr s.fz)) := by
  rw [← drainCount_eq]
  exact congrArg Host.Outcome.next (bayWord_go h hr ho hb)

theorem mflags_go (h : BayServes s) (hr : s.myCore.bay.hasRoom = true) (ho : s.Reads [b.toNat] [b.toNat])
    (hb : (s.w b.toNat).bad = false) :
    exec (.mflags l b) s = .next ({ s with free := s.free + 1 }.bayEnqueue true l [s.wAddr b.toNat] .bay
      (.mflags ((s.w b.toNat).val.extractLsb' 0 32))) := by
  refine congrArg Host.Outcome.next ((withOperands_go ho).trans ((withBay_go h hr).trans ?_))
  simp only [hb]
  rfl

/-! ## A step of the array (R191) -/

/-- The low n bits of a number, summed. -/
theorem sum_testBit (x : Nat) : ∀ n, ((List.range n).map fun i => if x.testBit i then 2 ^ i else 0).sum = x % 2 ^ n
  | 0 => (Nat.mod_one x).symm
  | n + 1 => by
    rw [List.range_succ, List.map_append, List.sum_append, sum_testBit x n, Nat.mod_pow_succ]
    rcases Nat.mod_two_eq_zero_or_one (x / 2 ^ n) with h | h <;>
      simp [Nat.testBit_eq_decide_div_mod_eq, h]

variable {m : BitVec 3} {v : BitVec 4}

/-- The mask that a step takes: a bit for each of the 128 elements that may be active (R149). -/
def stepMask (s : State) (m : BitVec 3) : MReg :=
  BitVec.ofNat 128 ((List.range 128).map fun i => if s.active m i then 2 ^ i else 0).sum

theorem stepMask_eq (h : s.Clean (s.maskAddrs m)) : stepMask s m = BitVec.ofNat 128 (s.maskVal m.toNat).1 := by
  have hbits : ((List.range 128).map fun i => if s.active m i then 2 ^ i else 0) =
      (List.range 128).map fun i => if (s.maskVal m.toNat).1.testBit i then 2 ^ i else 0 :=
    List.map_congr_left fun i hi => by rw [testBit_maskVal h ((List.mem_range.1 hi).trans (by decide))]
  rw [stepMask, hbits, sum_testBit]
  exact BitVec.eq_of_toNat_eq (by simp)

/-- What a step reads at issue: its row, its activation with the poisoned doublewords, its mask and its modes. -/
def stepOp (s : State) (m : BitVec 3) (b : BitVec 5) (v : BitVec 4) (t : BitVec 2) : BayOp :=
  .mstep t.toNat (s.w b.toNat).val.toNat (s.v v.toNat) (s.badList (s.vAddrs v.toNat)) (stepMask s m) s.nsr s.fz

/-- A step that runs on traps on a row beyond its configuration's or on a plane of another format or shape, else it is queued and
its thread waits for it (R179, R180, R191). -/
theorem mstep_eq (h : BayServes s) (hr : s.myCore.bay.hasRoom = true)
    (ho : s.Operands (s.vAddrs v.toNat ++ s.maskAddrs m ++ [s.wAddr b.toNat]) [])
    (hc : s.Clean (s.maskAddrs m ++ [s.wAddr b.toNat])) :
    exec (.mstep l m b v t) s = .next (
      if cfgRows (s.myCore.bay.viewCfg t.toNat) ≤ (s.w b.toNat).val.toNat then s.raise 4 0x06 (s.w b.toNat).val
      else if s.myCore.bay.viewPlane ≠ ((s.myCore.bay.viewCfg t.toNat).extractLsb' 4 4, (s.myCore.bay.viewCfg t.toNat).extractLsb' 8 2)
        then s.raise 4 0x07 ((s.myCore.bay.viewCfg t.toNat).setWidth 64)
      else (({ s with free := s.free + 2 } : State).bayEnqueue false l [] .bay (stepOp s m b v t)).modMe
        (fun x => { x with run := .matrixStep })) := by
  have hm : s.Clean (s.maskAddrs m) := fun a ha => hc a (List.mem_append_left _ ha)
  have hb : (s.w b.toNat).bad = false := hc _ (by simp)
  refine congrArg Host.Outcome.next ((bayWord_go h hr ho hb).trans ?_)
  simp only [stepOp, stepMask_eq hm, maskVal_clean hm]
  rfl

end

/-! ## The port (R178, R189, R196, R197, R231) -/

section
variable {s : State} {l : BitVec 4} {k : BitVec 3} {b : BitVec 5} {t : BitVec 2} {n : Nat} {right : Right}

/-- A transfer of n bytes may issue: the bay serves its thread, its port is idle, its thread may have one more relaxed access, and
its register, segment and alignment pass their checks. -/
abbrev MayTransfer (s : State) (k : BitVec 3) (b : BitVec 5) (n : Nat) (need : Right) : Prop :=
  let off := (s.w b.toNat).val.toNat
  s.Reads [b.toNat] [] ∧ (s.w b.toNat).bad = false ∧ s.myCore.lea = s.me.lea ∧ s.myCore.bay.portIdle = true
  ∧ s.myCore.bay.busyWith 2 = false ∧ s.count .relaxed < 8
  ∧ segFail (s.seg k.toNat) (s.extent (s.seg k.toNat).space) off n [need] dataSpaces = none ∧ off % 64 = 0

/-- The address where the thread's transfer begins. -/
def portAddr (s : State) (k : BitVec 3) (b : BitVec 5) : Nat := (s.seg k.toNat).base.toNat + (s.w b.toNat).val.toNat

/-- A port instruction whose own conditions and those of R178 and R231 hold goes on with its address. -/
theorem portForm_go {cond : Bay → Bool} {size : State → Nat} {f : State → State → Nat → State}
    (h : MayTransfer s k b (size s) right) (hc : cond s.myCore.bay = true) :
    s.withOperands [s.wAddr b.toNat] [] (fun s => s.withPort cond fun s => s.portCheck k b.toNat (size s) right (f s)) =
      f s s (portAddr s k b) := by
  obtain ⟨ho, hb, hp, hidle, hbusy, hcount, hseg, halign⟩ := h
  have hcond : (cond s.myCore.bay && s.myCore.bay.portIdle) = true := by rw [hc, hidle]; rfl
  refine (withOperands_go ho).trans ?_
  rw [State.withPort, withBay_go ⟨hp, hbusy⟩ hcond, State.withLimit, if_pos (show _ < Kind.limit .relaxed from hcount),
    State.portCheck, needClean_go hb]
  simp only [hseg, halign]
  rfl

/-- The item of outstanding work of a transfer. -/
abbrev portOut (s : State) (l : BitVec 4) : Out := s.newOut 4 true l.toNat [] .port

/-- A load records the format and the shape of its tile in the shadow plane (R189). -/
theorem mload_go (h : MayTransfer s k b (planeSize (s.myCore.bay.viewCfg t.toNat)) .r)
    (hc : s.myCore.bay.queue.any (fun e => e.op == .mswap) = false) :
    exec (.mload l k b t) s = .next (((s.addOut (portOut s l)).modBay s.cur.1 (fun y =>
      { y with port := some (s.newJob s.nextId 0 t.toNat (portAddr s k b) (planeSize (s.myCore.bay.viewCfg t.toNat)) k b.toNat),
               shadow := { y.shadow with wf := (s.myCore.bay.viewCfg t.toNat).extractLsb' 4 4,
                                         shp := (s.myCore.bay.viewCfg t.toNat).extractLsb' 8 2 } })).issue 4) :=
  congrArg Host.Outcome.next (portForm_go h (congrArg Bool.not hc))

theorem mrest_go (h : MayTransfer s k b 16448 .r) (hc : s.myCore.bay.isEmpty = true) :
    exec (.mrest l k b t) s = .next (((s.addOut (portOut s l)).modBay s.cur.1 (fun y =>
      { y with port := some (s.newJob s.nextId 2 t.toNat (portAddr s k b) 16448 k b.toNat) })).issue 4) :=
  congrArg Host.Outcome.next (portForm_go h hc)

theorem msave_go (h : MayTransfer s k b 16448 .w) (hc : s.myCore.bay.hasRoom = true) :
    exec (.msave l k b t) s = .next (s.bayEnqueue true l [] .port
      (.msave t.toNat k.toNat (s.seg k.toNat).space (dieOf s.cur.1) (portAddr s k b) (s.w b.toNat).val.toNat)) :=
  congrArg Host.Outcome.next (portForm_go h hc)

end

/-- Settles O24: the instructions of the bay queue and of the port are each their own form under the conditions of R178. -/
theorem matrixIssue : Obligations.MatrixIssue := by
  refine ⟨fun l r f m b v t s => ?_, fun l k b t s => ⟨mload_go, mrest_go, msave_go⟩⟩
  intro bay w vd mk cfg free entry d ⟨hp, hr, hb⟩
  have h : BayServes s := ⟨hp, hb⟩
  refine ⟨mcfg_go h hr, mzero_go h hr, mswap_go h hr, fun ho hc => ?_, fun ho hw => ?_, mflags_go h hr⟩
  · have step := mstep_eq (l := l) (t := t) h hr ho hc
    refine ⟨fun hrow => step.trans ?_, fun hrow hplane => step.trans ?_, fun hrow hplane => step.trans ?_⟩
    · rw [if_pos hrow]
    · rw [if_neg (Nat.not_le.2 hrow), if_pos hplane]
    · rw [if_neg (Nat.not_le.2 hrow), if_neg (not_not.2 hplane)]
      rfl
  · have drain := mdrain_eq (l := l) (r := r) (f := f) (t := t) h hr ho hw
    refine ⟨fun hmul hend => drain.trans ?_, fun hbad => drain.trans ?_⟩
    · rw [if_neg (not_or.2 ⟨not_not.2 hmul, Nat.not_lt.2 hend⟩)]
      rfl
    · rw [if_pos hbad]

end Sys2Proof.Proofs

namespace Sys2Proof.Proofs

open Sys2Proof Sys2Proof.Machine Sys2Proof.Laws

/-! ## Items of outstanding work that share a number -/

/-- The event of a remote access that has left its core, and the row of a bank command. -/
def sharedPart : Part :=
  { addr := 0, pa := some 0, size := 8, off := 0, data := 0, dataBad := false, dst := 0, stage := .sent, res := 0, bad := false, since := 0,
    after := 0, walked := 0, root := 0 }

/-- A remote access of one event. -/
def sharedAccess : Access :=
  { op := .load false, seg := 0, space := 5, die := 0, off := 0, parts := [sharedPart], relaxed := none, acq := false, rel := false,
    remote := true, sem := none, nsr := false, taint := false }

/-- A bank command of one row. -/
def sharedCmd : BankCmd :=
  { fn := 0, fmt := 0, size := 8, space := 3, die := 0, bank := 0, parts := [sharedPart], src := 0, srcBad := [], val := ⟨0, false⟩, alpha := 0,
    sem := none, nsr := false, op := 0, inQueue := false, units := 1, left := [], early := false }

/-- An item numbered 0 with a given work. -/
def sharedItem (w : Work) : Out :=
  { id := 0, tid := 0, core := 0, slot := 0, lea := 0, pc := 0, ilen := 0, windowed := false, look := 0, born := 0, dst := [], old := [],
    work := w, left := none }

/-- A state whose remote access and bank command have the same number. -/
def sharedState : State := { State.reset with outs := [sharedItem (.access sharedAccess), sharedItem (.bank sharedCmd)] }

/-- The arrival of the access leaves the command's row as it is: it changes events of accesses alone. -/
theorem sharedState_arrive : exec (.remoteAccessArrive 0) sharedState = .next (sharedState.modOut 0 fun o =>
    o.modPart 0 fun p => { p with stage := .arrived, since := sharedState.now }) := rfl

/-- Refutes O13: it gives the arrival of a remote access (as it does the start of an HBM access) as a change of every item with the
access's number, bank commands among them, where the model changes accesses alone; and it does not ask that numbers differ. In a state
where a command has the number of an access that arrives, the command's row would arrive with it. -/
theorem not_accessToHome : ¬ Obligations.AccessToHome := by
  rintro ⟨h, -⟩
  obtain ⟨-, -, -, -, arrive⟩ := h sharedState 0 0 (sharedItem (.access sharedAccess)) sharedAccess sharedPart rfl rfl rfl
  have claimed := arrive 0 rfl rfl rfl rfl rfl
  rw [sharedState_arrive, if_pos (by decide)] at claimed
  have rows := congrArg (fun t : State => t.outs.map Out.parts) (Host.Outcome.next.inj claimed)
  exact absurd rows (by decide)

end Sys2Proof.Proofs

namespace Sys2Proof.Proofs

open Sys2Proof Sys2Proof.Machine Sys2Proof.Laws

/-! ## What leaves the leas as they are -/

/-- What no step of a fold changes is as it was before the fold. -/
theorem foldl_keeps {α β : Type} {g : State → β} {f : State → α → State} (hf : ∀ s a, g (f s a) = g s) (l : List α) (s : State) :
    g (l.foldl f s) = g s :=
  List.foldlRecOn (motive := fun t => g t = g s) l f rfl fun t ht a _ => (hf t a).trans ht

section
variable {s t : State}

theorem bufFree_leas (core : Nat) (b : DBuf) (o n : Nat) (s : State) : (s.bufFree core b o n).leas = s.leas := by
  refine foldl_keeps (fun s i => ?_) _ s
  split <;> rfl

theorem spoilAt_leas (core : Nat) (js : List Nat) (s : State) : (s.spoilAt core js).leas = s.leas := by
  refine foldl_keeps (fun s j => ?_) js s
  split
  · exact bufFree_leas ..
  · rfl

theorem spoil_leas (core lea a n : Nat) (s : State) : (s.spoil core lea a n).leas = s.leas := by
  unfold State.spoil
  dsimp only
  split
  · rfl
  · split
    · rfl
    · exact foldl_keeps (fun s p => spoilAt_leas _ _ s) _ s

theorem wakeReaders_leas (a : Nat) (s : State) : (s.wakeReaders a).leas = s.leas := by
  unfold State.wakeReaders
  split <;> rfl

theorem tryPart_leas {id i : Nat} (h : s.tryPart id i = some t) : t.leas = s.leas := by
  unfold State.tryPart at h
  repeat' split at h
  all_goals cases h
  · exact spoil_leas ..
  · rfl

theorem retryFirst_leas : ∀ {l : List (Nat × Nat × Nat)}, s.retryFirst l = some t → t.leas = s.leas
  | [], h => by cases h
  | (_, id, i) :: l, h => by
    rw [State.retryFirst] at h
    split at h
    next u hu =>
      cases h
      exact tryPart_leas hu
    · exact retryFirst_leas h

theorem settle_leas : ∀ (n : Nat) (ws : List Nat) (s : State), (State.settle n ws s).leas = s.leas
  | 0, _, _ => rfl
  | _ + 1, [], _ => rfl
  | n + 1, w :: ws, s => by
    rw [State.settle]
    refine Eq.trans ?_ (wakeReaders_leas w s)
    dsimp only
    split
    · exact settle_leas n _ _
    · split
      next u hu => exact (settle_leas n _ u).trans (retryFirst_leas hu)
      · exact settle_leas n ws _

theorem fillWord_leas (a : Nat) (v : PWord) (s : State) : (s.fillWord a v).leas = s.leas := by
  unfold State.fillWord
  dsimp only
  split
  · rfl
  · exact settle_leas ..

theorem unitStore_leas (a n v : Nat) (bad : Bool) (s : State) : (s.unitStore a n v bad).leas = s.leas := by
  unfold State.unitStore
  dsimp only
  split
  · exact settle_leas ..
  · rfl

theorem unitWrites_leas : ∀ (n : Nat) (l : List (Nat × Byte × Bool)) (s : State), (s.unitWrites n l).leas = s.leas
  | 0, _, _ => rfl
  | _ + 1, [], _ => rfl
  | n + 1, (x, v) :: l, s => by
    unfold State.unitWrites
    dsimp only
    split
    · exact (unitWrites_leas n _ _).trans (unitStore_leas ..)
    · exact (unitWrites_leas n _ _).trans (unitStore_leas ..)

theorem flushLate_leas (core : Nat) (s : State) : (s.flushLate core).leas = s.leas := by
  unfold State.flushLate
  dsimp only
  split
  · rfl
  · exact unitWrites_leas ..

theorem flushLea_leas (n : Nat) (s : State) : (s.flushLea n).leas = s.leas := by
  unfold State.flushLea
  split
  · exact foldl_keeps (fun s c => flushLate_leas c s) _ s
  · rfl

theorem retest_leas (core slot : Nat) (s : State) : (s.retest core slot).leas = s.leas := by
  unfold State.retest
  dsimp only
  repeat' split
  all_goals simp [fillWord_leas]

theorem loadMessage_leas (core : Nat) (l : Lea) (s : State) : (s.loadMessage core l).leas = s.leas := by
  unfold State.loadMessage
  split
  · rfl
  · exact retest_leas ..

/-- Memory alone may differ. -/
def MemoryOnly (s t : State) : Prop := ∃ m, t = { s with mem := m }

theorem MemoryOnly.foldl {α : Type} {f : State → α → State} (hf : ∀ s a, MemoryOnly s (f s a)) :
    ∀ (l : List α) (s : State), MemoryOnly s (l.foldl f s)
  | [], s => ⟨s.mem, rfl⟩
  | a :: l, s => by
    obtain ⟨m, hm⟩ := hf s a
    obtain ⟨w, hw⟩ := MemoryOnly.foldl hf l (f s a)
    exact ⟨w, by rw [List.foldl_cons, hw, hm]⟩

theorem scrubFor_memoryOnly (a n : Nat) (s : State) : MemoryOnly s (s.scrubFor none a n) := ⟨_, rfl⟩

theorem scrubBanks_memoryOnly (banks : List (Nat × List Nat)) (s : State) : MemoryOnly s (s.scrubBanks banks) := by
  refine .foldl (fun s p => ?_) banks s
  exact .foldl (fun s b => scrubFor_memoryOnly _ _ s) p.2 s

theorem scrubOwned_memoryOnly (lea core : Nat) (s : State) : MemoryOnly s (s.scrubOwned lea core) := by
  have slices := MemoryOnly.foldl (f := fun t k => if (s.core core).sliceOwner k = some lea then t.scrubFor none (sliceAt core k) 0x8000 else t)
    (fun t k => by
      split
      · exact scrubFor_memoryOnly _ _ t
      · exact ⟨t.mem, rfl⟩) (List.range 16) s
  unfold State.scrubOwned
  dsimp only
  split
  · obtain ⟨m, hm⟩ := slices
    rw [hm]
    exact ⟨_, rfl⟩
  · exact slices

theorem scrubBanks_leas (banks : List (Nat × List Nat)) (s : State) : (s.scrubBanks banks).leas = s.leas := by
  obtain ⟨m, hm⟩ := scrubBanks_memoryOnly banks s
  rw [hm]

theorem giveCore_leas (core : Nat) (l : Lea) (s : State) : (s.giveCore core l).leas = s.leas := by
  unfold State.giveCore
  dsimp only
  split
  · rfl
  · split
    · rfl
    · exact loadMessage_leas ..

theorem unwrap_leas (l : Lea) (d : LeaDump) (s : State) : (s.unwrap l d).leas = s.leas := by
  refine foldl_keeps (fun s p => ?_) _ s
  split <;> rfl

/-! ## Leas changed -/

variable {n k : Nat} {y : Lea}

theorem lea_modLea (h : s.lea n = some y) (g : Lea → Lea) : (s.modLea n g).lea n = some (g y) := by
  rw [modLea_eq h]
  exact keyFind_keySet_same ..

theorem lea_of_leas (h : t.leas = s.leas) (n : Nat) : t.lea n = s.lea n := by rw [State.lea, h]; rfl

/-- Whether its cores are its own changes a lea's count of paused slots alone (R227). -/
theorem repause_lea (h : s.lea n = some y) :
    ∃ b p g, (s.repause n).lea n = some { y with isPaused := b, paused := p, lastGuest := g } := by
  unfold State.repause
  rw [h]
  dsimp only
  split
  · exact ⟨_, _, _, lea_modLea (s := s.excludeLea n) h _⟩
  · split
    · exact ⟨_, _, _, lea_modLea (s := s.excludeLea n) h _⟩
    · exact ⟨_, _, _, h⟩

/-! ## LEA_CREATE (R370, R382, R440) -/

section
variable {req : LeaRequest} {m : MsgTemplate}

theorem leaCreate_badTemplate {c : BitVec 8} (h : req.msg.elim (some 0x06) msgTemplateFail = some c) :
    exec (.leaCreate req) s = .next (s.refuseTemplate req.lea c) := by
  refine congrArg Host.Outcome.next ?_
  dsimp only
  rw [h]

theorem leaCreate_refused (hm : req.msg = some m) (ht : msgTemplateFail m = none) (hr : s.requestOk req = false) :
    exec (.leaCreate req) s = .next (s.refuseRequest req.lea) := by
  have h : req.msg.elim (some 0x06) msgTemplateFail = none := by rw [hm]; exact ht
  refine congrArg Host.Outcome.next ?_
  dsimp only
  rw [h, hr]
  rfl

/-- A request that is met makes its lea, reports the items, and changes no other lea. -/
theorem leaCreate_go {banks ways svc : List (Nat × List Nat)} {areas : List (Nat × Nat)} (hm : req.msg = some m)
    (ht : msgTemplateFail m = none) (hr : s.requestOk req = true)
    (hb : chooseAll (fun d r => chooseItems 0 512 (s.taken Lea.banks d) r) req.banks = some banks)
    (hw : chooseAll (fun d r => chooseItems 0 16 (s.taken Lea.ways d) r) req.ways = some ways)
    (hs : chooseAll (fun c r => chooseSlots (s.taken Lea.svc c) r) req.svc = some svc)
    (ha : s.chooseAreas ((s.coreList.drop req.leab).take req.leal) [] = some areas) (hq : s.queuesFit svc = true) :
    ∃ u : State, exec (.leaCreate req) s = .next ((u.repause req.lea).reply (0 :: (banks ++ ways ++ svc).flatMap (fun p => p.1 :: p.2)))
      ∧ u.leas = keySet s.leas req.lea (newLea req ((s.coreList.drop req.leab).take req.leal) banks ways svc areas
          (s.head.dump.find? (fun d => d.digest == req.digest))) := by
  have h : req.msg.elim (some 0x06) msgTemplateFail = none := by rw [hm]; exact ht
  simp only [exec, execLeaCreate, h, hr, hb, hw, hs, ha, hq, Bool.not_true, Bool.false_eq_true, if_false]
  refine ⟨_, rfl, ?_⟩
  have hcores (t : State) (l : Lea) (cs : List Nat) : (cs.foldl (fun s c => s.giveCore c l) (t.scrubBanks banks)).leas = t.leas :=
    (foldl_keeps (fun s c => giveCore_leas c l s) cs _).trans (scrubBanks_leas banks t)
  split
  · exact (unwrap_leas ..).trans (hcores ..)
  · exact hcores ..

end

/-! ## LEA_DESTROY (R370, R391) -/

/-- Nothing is added to outstanding work, gangs or Headland's tables. -/
structure ItemsKept (s t : State) : Prop where
  outs : t.outs = s.outs
  head : t.head = s.head
  gangs : t.gangs.map Gang.lea = s.gangs.map Gang.lea

theorem ItemsKept.trans {u : State} (h : ItemsKept s t) (k : ItemsKept t u) : ItemsKept s u :=
  ⟨k.outs.trans h.outs, k.head.trans h.head, k.gangs.trans h.gangs⟩

theorem MemoryOnly.itemsKept (h : MemoryOnly s t) : ItemsKept s t := by
  obtain ⟨m, rfl⟩ := h
  exact ⟨rfl, rfl, rfl⟩

theorem excludeLea_itemsKept (n : Nat) (s : State) : ItemsKept s (s.excludeLea n) := by
  refine ⟨rfl, rfl, ?_⟩
  rw [State.excludeLea, List.map_map]
  refine List.map_congr_left fun g _ => ?_
  dsimp only [Function.comp]
  split <;> rfl

theorem modLea_itemsKept (n : Nat) (g : Lea → Lea) (s : State) : ItemsKept s (s.modLea n g) :=
  ⟨modLea_outs .., modLea_head .., congrArg (List.map Gang.lea) (modLea_gangs ..)⟩

theorem repause_itemsKept (n : Nat) (s : State) : ItemsKept s (s.repause n) := by
  unfold State.repause
  split
  · exact ⟨rfl, rfl, rfl⟩
  · dsimp only
    split
    · exact (excludeLea_itemsKept n s).trans (modLea_itemsKept ..)
    · split
      · exact (excludeLea_itemsKept n s).trans (modLea_itemsKept ..)
      · exact ⟨rfl, rfl, rfl⟩

theorem clearCore_itemsKept (lea core : Nat) (s : State) : ItemsKept s (s.clearCore lea core) := by
  have h := (scrubOwned_memoryOnly lea core s).itemsKept
  have hcores {u : State} {cs : List (Nat × Core)} (k : ItemsKept s u) : ItemsKept s { u with cores := cs } := ⟨k.outs, k.head, k.gangs⟩
  unfold State.clearCore
  dsimp only
  split
  · exact (hcores (hcores h)).trans (repause_itemsKept ..)
  · exact hcores (hcores h)

theorem turnHandover_none {c : Core} (h : c.handover = none) (lea : Nat) : c.turnHandover lea = c := by rw [Core.turnHandover, h]

/-- A core that does not change hands is cleared without a change of a lea, and no core begins to change hands. -/
theorem clearCore_idle {core : Nat} (h : (s.core core).handover = none) (lea : Nat) :
    (s.clearCore lea core).leas = s.leas
    ∧ ∀ c, (s.core c).handover = none → ((s.clearCore lea core).core c).handover = none := by
  obtain ⟨m, hm⟩ := scrubOwned_memoryOnly lea core s
  unfold State.clearCore
  dsimp only
  rw [hm]
  generalize hx : (if (s.core core).lea = some lea then _ else _ : Core) = x
  have hidle : x.handover = none := by
    rw [← hx, apply_ite Core.handover]
    exact (ite_self _).trans h
  have hturn : ((({ s with mem := m } : State).setCore core x).modCore core fun c => c.turnHandover lea).core core = x := by
    rw [core_modCore, core_setCore, turnHandover_none hidle]
  rw [hturn, hidle]
  refine ⟨rfl, fun c hc => ?_⟩
  by_cases e : c = core
  · subst e
    rw [hturn, hidle]
  · rw [core_modCore_other _ _ e, core_setCore_other _ _ e]
    exact hc

theorem clearCores_idle {lea : Nat} : ∀ (cs : List Nat) (s : State), (∀ c ∈ cs, (s.core c).handover = none) →
    (cs.foldl (fun s c => s.clearCore lea c) s).leas = s.leas
  | [], _, _ => rfl
  | c :: cs, s, h => by
    obtain ⟨hl, hk⟩ := clearCore_idle (h c List.mem_cons_self) lea
    exact (clearCores_idle cs _ fun d hd => hk d (h d (List.mem_cons_of_mem _ hd))).trans hl

theorem clearCores_itemsKept (lea : Nat) : ∀ (cs : List Nat) (s : State), ItemsKept s (cs.foldl (fun s c => s.clearCore lea c) s)
  | [], _ => ⟨rfl, rfl, rfl⟩
  | c :: cs, s => (clearCore_itemsKept lea c s).trans (clearCores_itemsKept lea cs _)

theorem leaDestroy_none (h : s.lea n = none) : exec (.leaDestroy n) s = .next (s.reply [1]) := by
  refine congrArg Host.Outcome.next ?_
  dsimp only
  rw [h]

/-- A lea destroyed leaves no work, no gang and no key, and the other leas as they are where none of its cores changes hands. -/
theorem leaDestroy_go (h : s.lea n = some y) : ∃ t, exec (.leaDestroy n) s = .next t ∧ t.host.answer = [0] ∧ (∀ o ∈ t.outs, o.lea ≠ n)
    ∧ (∀ g ∈ t.gangs, g.lea ≠ n) ∧ (∀ p ∈ t.head.keys, p.2 ≠ n)
    ∧ ((∀ c ∈ y.cores, (s.core c).handover = none) → t.leas = keyDel s.leas n) := by
  have kept (u : State) : ItemsKept u (y.cores.foldl (fun s c => s.clearCore n c) (u.scrubBanks y.banks)) :=
    (scrubBanks_memoryOnly y.banks u).itemsKept.trans (clearCores_itemsKept ..)
  have leas (u : State) (hu : ∀ c ∈ y.cores, (u.core c).handover = none) :
      (y.cores.foldl (fun s c => s.clearCore n c) (u.scrubBanks y.banks)).leas = u.leas := by
    obtain ⟨m, hm⟩ := scrubBanks_memoryOnly y.banks u
    rw [hm]
    exact clearCores_idle y.cores _ hu
  have members {l : List Gang} (e : l.map Gang.lea = (s.gangs.filter fun g => g.lea != n).map Gang.lea) : ∀ g ∈ l, g.lea ≠ n := by
    intro g hg
    obtain ⟨x, hx, hl⟩ := List.mem_map.1 (e ▸ List.mem_map_of_mem hg : g.lea ∈ (s.gangs.filter fun g => g.lea != n).map Gang.lea)
    exact hl ▸ (by simpa using (List.mem_filter.1 hx).2)
  have locked (u : State) : ItemsKept u (if s.dbg.lea = some n then u.debugLock else u) := by
    split <;> exact ⟨rfl, rfl, rfl⟩
  have lockedLeas (u : State) : (if s.dbg.lea = some n then u.debugLock else u).leas = u.leas := by
    split <;> rfl
  simp only [exec, execLeaDestroy, h]
  refine ⟨_, rfl, rfl, ?_⟩
  dsimp only [State.reply]
  obtain ⟨houts, hhead, hgangs⟩ := (kept _).trans (locked _)
  rw [houts, hhead, lockedLeas]
  refine ⟨fun o ho => ?_, members hgangs, fun p hp => ?_, fun hidle => leas _ hidle⟩
  · simpa using (List.mem_filter.1 ho).2
  · simpa using (List.mem_filter.1 hp).2

end

end Sys2Proof.Proofs

namespace Sys2Proof.Proofs

open Sys2Proof Sys2Proof.Machine Sys2Proof.Laws

section
variable {s t : State} {n k : Nat} {y : Lea}

/-! ## SLICE_SCHEDULE_SET (R377) -/

section
variable {sched : List (Nat × Nat)}

theorem leasJoined_congr (h : t.leas = s.leas) : ∀ (n : Nat) (l : List Nat), t.leasJoined n l = s.leasJoined n l
  | 0, _ => rfl
  | n + 1, l => by
    simp only [State.leasJoined, lea_of_leas h, h]
    split
    · rfl
    · exact leasJoined_congr h n _

/-- The cores whose schedules depend on each other are a matter of the leas alone (R377). -/
theorem schedCores_congr (h : t.leas = s.leas) (c : Nat) : t.schedCores c = s.schedCores c := by
  simp only [State.schedCores, lea_of_leas h, h, leasJoined_congr h]

theorem mem_leasJoined {i : Nat} : ∀ (n : Nat) {l : List Nat}, i ∈ l → i ∈ s.leasJoined n l
  | 0, _, h => h
  | n + 1, l, h => by
    rw [State.leasJoined]
    split
    · exact h
    · exact mem_leasJoined n (List.mem_append_left _ h)

theorem mem_foldl_natIns {c : Nat} : ∀ (l : List Nat) {acc : List Nat}, c ∈ l.foldl natIns acc ↔ c ∈ l ∨ c ∈ acc
  | [], _ => by simp
  | a :: l, acc => by
    rw [List.foldl_cons, mem_foldl_natIns l, mem_natIns, List.mem_cons, or_left_comm, or_assoc]

theorem mem_of_keyFind {α : Type} {a : Nat} {x : α} : ∀ {l : List (Nat × α)}, keyFind l a = some x → (a, x) ∈ l
  | (b, z) :: l, h => by
    rw [keyFind] at h
    split at h
    next e =>
      cases h
      exact e ▸ List.mem_cons_self
    · exact List.mem_cons_of_mem _ (mem_of_keyFind h)

/-- A core that a lea has is among those that depend on it. -/
theorem mem_schedCores (h : s.lea n = some y) (hk : k ∈ y.cores) : k ∈ s.schedCores k := by
  have hfirst : n ∈ (s.leas.filter fun p => p.2.cores.contains k).map fun p => p.1 :=
    List.mem_map.2 ⟨(n, y), List.mem_filter.2 ⟨mem_of_keyFind h, List.contains_iff_mem.2 hk⟩, rfl⟩
  refine (mem_foldl_natIns _).2 (.inl (List.mem_flatMap.2 ⟨n, mem_leasJoined _ hfirst, ?_⟩))
  rw [h]
  exact hk

/-- A well-formed schedule has an entry, and each entry's lea has the core. -/
theorem schedOk_mem (h : s.schedOk k sched = true) : sched ≠ [] ∧ k ∈ s.schedCores k := by
  obtain ⟨⟨hne, -⟩, hall⟩ : (sched.isEmpty = false ∧ sched.length ≤ 16) ∧ _ := by
    simpa only [State.schedOk, Bool.and_eq_true, Bool.not_eq_true', decide_eq_true_eq] using h
  obtain ⟨e, rest, rfl⟩ := List.exists_cons_of_ne_nil (by simpa using hne : sched ≠ [])
  have he := List.all_eq_true.1 hall e List.mem_cons_self
  split at he
  · simp at he
  next l hl => exact ⟨List.cons_ne_nil _ _, mem_schedCores hl (by simp_all)⟩

/-- A core with a schedule in force, its first slice due at the next tide boundary. -/
structure InForce (sched : List (Nat × Nat)) (now : Nat) (c : Core) : Prop where
  sched : c.sched = sched
  schedNext : c.schedNext = none
  sliceEnd : c.sliceEnd = now

/-- The schedule that a core wants put in force. -/
def putInForce (now : Nat) (c : Core) : Core := match c.schedWanted with
  | [] => c
  | l => { c with sched := l, schedNext := none, slice := l.length - 1, sliceEnd := now, lag := 0 }

theorem putInForce_inForce {c : Core} (h : c.schedWanted = sched) (hne : sched ≠ []) (now : Nat) : InForce sched now (putInForce now c) := by
  obtain ⟨e, rest, rfl⟩ := List.exists_cons_of_ne_nil hne
  rw [putInForce, h]
  exact ⟨rfl, rfl, rfl⟩

theorem InForce.schedWanted {c : Core} {now : Nat} (h : InForce sched now c) : c.schedWanted = sched := by
  rw [Core.schedWanted, h.schedNext, h.sched]
  rfl

/-- Schedules put in force on some cores are in force on each of them. -/
theorem putInForce_foldl (hne : sched ≠ []) : ∀ (cs : List Nat) (s : State), (s.core k).schedWanted = sched →
    (k ∈ cs ∨ InForce sched s.now (s.core k)) → InForce sched s.now ((cs.foldl (fun s c => s.modCore c (putInForce s.now)) s).core k)
  | [], _, _, h => h.resolve_left List.not_mem_nil
  | c :: cs, s, hw, h => by
    by_cases e : k = c
    · subst e
      have here : InForce sched s.now ((s.modCore k (putInForce s.now)).core k) := by
        rw [core_modCore]
        exact putInForce_inForce hw hne s.now
      exact putInForce_foldl hne cs _ here.schedWanted (.inr here)
    · have same := core_modCore_other s (putInForce s.now) e
      refine putInForce_foldl hne cs (s.modCore c (putInForce s.now)) (same ▸ hw) ?_
      rw [same]
      exact h.imp_left fun hk => (List.mem_cons.1 hk).resolve_left e

/-- The schedules that some cores want agree for every lea of theirs. -/
abbrev SchedsAgree (s : State) (k : Nat) (u : State) : Prop :=
  ∀ p ∈ s.leas, (∀ c ∈ p.2.cores, c ∉ s.schedCores k) ∨ u.schedAgrees p.1 p.2 = true

theorem commitSched_eq (u : State) (k : Nat) : u.commitSched k =
    if SchedsAgree u k u then (u.schedCores k).foldl (fun s c => s.modCore c (putInForce s.now)) u else u := by
  unfold State.commitSched
  dsimp only
  refine if_congr ?_ rfl rfl
  simp [List.all_eq_true, SchedsAgree]

theorem sliceScheduleSet_ok (hok : s.schedOk k sched = true) (hj : s.schedJoins k sched = true)
    (hh : ∀ c ∈ s.schedCores k, (s.core c).handover = none) :
    let u := s.modCore k fun c => { c with schedNext := some sched }
    ∃ t, exec (.sliceScheduleSet k sched) s = .next t ∧ t.mem = s.mem
      ∧ (SchedsAgree s k u → t.host.answer = [0] ∧ (t.core k).sched = sched ∧ (t.core k).schedNext = none ∧ (t.core k).sliceEnd = s.now)
      ∧ (¬ SchedsAgree s k u → t.host.answer = [2] ∧ (t.core k).sched = (s.core k).sched ∧ (t.core k).schedNext = some sched) := by
  intro u
  obtain ⟨hne, hk⟩ := schedOk_mem hok
  have hidle : (s.schedCores k).all (fun c => (s.core c).handover.isNone) = true :=
    List.all_eq_true.2 fun c hc => by simp [hh c hc]
  have hagree : SchedsAgree u k u ↔ SchedsAgree s k u := by
    rw [SchedsAgree, schedCores_congr (s := s) (t := u) rfl]
    exact Iff.rfl
  have hku : k ∈ u.schedCores k := (schedCores_congr (s := s) (t := u) rfl k).symm ▸ hk
  simp only [exec, execSliceScheduleSet, hok, hj, hidle, Bool.and_self, if_true]
  refine ⟨_, rfl, commitSched_mem .., fun h => ?_, fun h => ?_⟩
  · have force : InForce sched s.now ((u.commitSched k).core k) := by
      rw [commitSched_eq, if_pos (hagree.2 h)]
      exact putInForce_foldl hne _ u (by rw [core_modCore]; rfl) (.inl hku)
    exact ⟨congrArg (fun l : Option (List (Nat × Nat)) => [if l.isSome then 2 else 0]) force.schedNext, force.sched, force.schedNext,
      force.sliceEnd⟩
  · have hcore : (u.commitSched k).core k = u.core k := by rw [commitSched_eq, if_neg (mt hagree.1 h)]
    have hnext : ((u.commitSched k).core k).schedNext = some sched := by rw [hcore, core_modCore]
    have hsched : ((u.commitSched k).core k).sched = (s.core k).sched := by rw [hcore, core_modCore]
    exact ⟨congrArg (fun l : Option (List (Nat × Nat)) => [if l.isSome then 2 else 0]) hnext, hsched, hnext⟩

theorem sliceScheduleSet_refused
    (h : ¬ (s.schedOk k sched = true ∧ s.schedJoins k sched = true ∧ ∀ c ∈ s.schedCores k, (s.core c).handover = none)) :
    exec (.sliceScheduleSet k sched) s = .next (s.refuseRequest k) := by
  refine congrArg Host.Outcome.next (if_neg ?_)
  simpa [List.all_eq_true, and_assoc] using h

end
/-! ## Templates, limits, queues and migration (R227, R319, R328, R334) -/

section
variable {m : Template}

theorem dispatchTemplateInstall_go (h : s.lea n = some y) (hk : k < 15) (ht : templateFail k m = none) :
    exec (.dispatchTemplateInstall n k m) s =
      .next ((s.modLea n fun l => { l with templates := keySet l.templates k m }).reply [0]) := by
  simp [exec, execDispatchTemplateInstall, h, hk, ht]

theorem dispatchTemplateInstall_bad {c : BitVec 8} (h : s.lea n = some y) (hk : k < 15) (ht : templateFail k m = some c) :
    exec (.dispatchTemplateInstall n k m) s = .next (s.refuseTemplate n c) := by
  simp [exec, execDispatchTemplateInstall, h, hk, ht]

theorem dispatchTemplateInstall_refused (h : s.lea n = none ∨ 15 ≤ k) :
    exec (.dispatchTemplateInstall n k m) s = .next (s.refuseRequest n) := by
  refine congrArg Host.Outcome.next (if_neg ?_)
  rcases h with h | h <;> simp [h]

end

theorem leaMigration_eq (h : s.lea n = some y) (v : Word) : exec (.leaMigration n k v) s = .next (
    if y.isPaused = true ∧ k ≤ s.now ∧ BitVec.ofNat 64 (s.now - k) + v = s.guestTime (some n) then
      (s.modLea n fun l => { l with paused := k, gtoff := v, lastGuest := s.now - k }).reply [0]
    else s.reply [1]) := by
  refine congrArg Host.Outcome.next ?_
  rw [h]

/-! ## STAGE2_CHANGE (R389) -/

/-- What a change of a stage-2 entry waits for: the entry is none of the lea's, an access or a fill uses a translation, or a frame that
the entry names is a save area. -/
abbrev Stage2Waits (s : State) (n k : Nat) (v : Word) (y : Lea) : Prop :=
  y.s2len ≤ k ∨ (∃ o ∈ s.outs, o.translated n = true) ∨ (∃ e ∈ s.cores, ∃ z ∈ e.2.fills, z.lea = n ∧ z.began.isSome = true)
    ∨ (v.getLsbD 0 = true ∧ ∃ p ∈ s.leas, p.2.savesIn (s2Frame v) = true)

/-- Every translation of a lea dropped (R389). -/
def dropTranslations (s : State) (n : Nat) : State :=
  { s with cores := s.cores.map fun p => (p.1, { p.2 with gtb := p.2.gtb.filter fun e => e.lea != n }) }

theorem keyGet_map {α : Type} {f : α → α} {d : α} (hd : f d = d) (a : Nat) : ∀ l : List (Nat × α),
    keyGet d (l.map fun p => (p.1, f p.2)) a = f (keyGet d l a)
  | [] => hd.symm
  | (b, z) :: l => by
    rw [List.map_cons, keyGet, keyGet, keyGet_map hd a l]
    exact (apply_ite f ..).symm

theorem dropTranslations_gtb {c : Nat} {e : Gtb} (h : e ∈ ((dropTranslations s n).core c).gtb) : e.lea ≠ n := by
  have hc : (dropTranslations s n).core c = { s.core c with gtb := (s.core c).gtb.filter fun e => e.lea != n } :=
    keyGet_map (f := fun x : Core => { x with gtb := x.gtb.filter fun e => e.lea != n }) rfl c s.cores
  rw [hc] at h
  simpa using (List.mem_filter.1 h).2

/-- The state with an entry of a lea's stage 2 changed. -/
abbrev stage2Changed (s : State) (n k : Nat) (v : Word) : State :=
  (s.flushLea n).modLea n fun l => { l with s2 := if v = 0 then keyDel l.s2 k else keySet l.s2 k v, s2bad := natDel l.s2bad k }

theorem stage2Change_eq (h : s.lea n = some y) (v : Word) :
    exec (.stage2Change n k v) s = .next (if Stage2Waits s n k v y then s else dropTranslations (stage2Changed s n k v) n) := by
  refine congrArg Host.Outcome.next ?_
  rw [h]
  refine if_congr ?_ rfl rfl
  simp [Stage2Waits, State.fillsBegun]

theorem stage2Change_go {v : Word} (h : s.lea n = some y) (hw : ¬ Stage2Waits s n k v y) : ∃ t z, exec (.stage2Change n k v) s = .next t
    ∧ t.lea n = some z ∧ z.s2 = (if v = 0 then keyDel y.s2 k else keySet y.s2 k v) ∧ ∀ c e, e ∈ (t.core c).gtb → e.lea ≠ n := by
  have hl : (s.flushLea n).lea n = some y := (lea_of_leas (flushLea_leas n s) n).trans h
  refine ⟨_, _, (stage2Change_eq h v).trans (congrArg _ (if_neg hw)), lea_modLea hl _, rfl, fun c e => dropTranslations_gtb⟩

/-! ## Keys and frames (R391) -/

/-- The state with Headland's table of keys changed. -/
abbrev withKeys (s : State) (keys : List (Nat × Nat)) : State := { s with head := { s.head with keys := keys } }

/-- A key is assigned to a lea that exists, where it is in range and no lea has it. -/
abbrev KeyFree (s : State) (n k : Nat) : Prop := (s.lea n).isSome = true ∧ (1 ≤ k ∧ k < 4096) ∧ keyFind s.head.keys k = none

theorem keyAssign_eq : exec (.keyAssign n k) s = .next (if KeyFree s n k then
    ((withKeys s (keySet s.head.keys k n)).modLea n fun l => { l with keys := l.keys ++ [k] }).reply [0]
    else s.reply [1]) := by
  refine congrArg Host.Outcome.next (if_congr ?_ rfl rfl)
  simp [KeyFree, and_assoc]

theorem keyAssign_go (h : s.lea n = some y) (hf : KeyFree s n k) : ∃ t z, exec (.keyAssign n k) s = .next t
    ∧ t.lea n = some z ∧ z.keys = y.keys ++ [k] ∧ keyFind t.head.keys k = some n := by
  have hl : (withKeys s (keySet s.head.keys k n)).lea n = some y := h
  refine ⟨_, _, keyAssign_eq.trans (congrArg _ (if_pos hf)), lea_modLea hl _, rfl, ?_⟩
  dsimp only [State.reply]
  rw [modLea_head]
  exact keyFind_keySet_same ..

/-- A key may be removed that the lea has, that is not its first, and to which no frame is bound. -/
abbrev KeyRemovable (s : State) (k : Nat) (y : Lea) : Prop :=
  y.keys.contains k = true ∧ y.keys.head? ≠ some k ∧ s.head.frames.any (fun p => p.2 == k) = false

theorem keyIdentifierRemove_eq (h : s.lea n = some y) : exec (.keyIdentifierRemove n k) s = .next (if KeyRemovable s k y then
    ((withKeys s (keyDel s.head.keys k)).modLea n fun l => { l with keys := natDel l.keys k }).reply [0]
    else s.reply [1]) := by
  refine congrArg Host.Outcome.next ?_
  rw [h]
  refine if_congr ?_ rfl rfl
  simp [KeyRemovable, and_assoc]

theorem keyIdentifierRemove_go (h : s.lea n = some y) (hr : KeyRemovable s k y) : ∃ t z, exec (.keyIdentifierRemove n k) s = .next t
    ∧ t.head.keys = keyDel s.head.keys k ∧ t.lea n = some z ∧ z.keys = natDel y.keys k := by
  have hl : (withKeys s (keyDel s.head.keys k)).lea n = some y := h
  refine ⟨_, _, (keyIdentifierRemove_eq h).trans (congrArg _ (if_pos hr)), ?_, lea_modLea hl _, rfl⟩
  dsimp only [State.reply]
  rw [modLea_head]

section
variable {f : Nat} {key : Option Nat}

/-- A frame may be bound that exists and that no stage-2 entry and no save area names, to a key that is 0 or a lea's. -/
abbrev Rebindable (s : State) (f : Nat) (key : Option Nat) : Prop :=
  s.frameThere f = true ∧ s.leas.any (fun l => l.2.namesFrame f || l.2.savesIn f) = false
  ∧ ∀ i, key = some i → i = 0 ∨ (keyFind s.head.keys i).isSome = true

/-- The frame, which a lea gives up, under its new key, or under none. -/
def rebound (s : State) (f : Nat) (key : Option Nat) : State :=
  let u := s.giveUp ((keyFind s.head.frames f).bind (keyFind s.head.keys)) (f * frameBytes) frameBytes
  { u with head := { u.head with frames := key.elim (keyDel s.head.frames f) (keySet s.head.frames f) }
           mem := if key.isSome then u.mem.scrub (f * frameBytes) frameBytes else u.mem }

theorem frameRebind_eq : exec (.frameRebind f key) s = .next (if Rebindable s f key then (rebound s f key).reply [0] else s.reply [1]) := by
  have hr : (!s.frameThere f || s.leas.any (fun l => l.2.namesFrame f || l.2.savesIn f)
      || key.any fun k => k != 0 && (keyFind s.head.keys k).isNone) = true ↔ ¬ Rebindable s f key := by
    cases key <;> simp [Rebindable, or_assoc, imp_iff_not_or]
  refine congrArg Host.Outcome.next ?_
  by_cases h : Rebindable s f key
  · rw [if_pos h, if_neg (fun hn => hr.1 hn h)]
    cases key <;> rfl
  · rw [if_neg h, if_pos (hr.2 h)]

theorem rebound_mem : (rebound s f key).mem =
    if key.isSome then (s.mem.forget (f * frameBytes) frameBytes).scrub (f * frameBytes) frameBytes
    else s.mem.forget (f * frameBytes) frameBytes := by
  rw [rebound, giveUp_mem]

theorem frameRebind_go (h : Rebindable s f key) : ∃ t, exec (.frameRebind f key) s = .next t
    ∧ (∀ i, key = some i → keyFind t.head.frames f = some i
      ∧ t.mem = (s.mem.forget (f * frameBytes) frameBytes).scrub (f * frameBytes) frameBytes)
    ∧ (key = none → t.mem = s.mem.forget (f * frameBytes) frameBytes ∧ t.head.frames = keyDel s.head.frames f) := by
  refine ⟨_, frameRebind_eq.trans (congrArg _ (if_pos h)), fun i hi => ?_, fun hi => ?_⟩
  · subst hi
    exact ⟨keyFind_keySet_same .., (rebound_mem (key := some i)).trans (if_pos rfl)⟩
  · subst hi
    exact ⟨(rebound_mem (key := none)).trans (if_neg Bool.false_ne_true), rfl⟩

end

/-! ## Host access (R304, R393, R398, R430) -/

section
variable {f : Nat}

theorem hostRead_answer {l : List Nat} (h : ∀ a ∈ l, s.dieUp (hbmDie a) = true ∧ s.mem.isBad a = false) :
    (s.hostRead n l).host.answer = 0 :: l.map fun a => (s.mem.cells.get a).toNat := by
  have hclean : l.any (fun a => s.mem.isBad a || !s.dieUp (hbmDie a)) = false :=
    List.any_eq_false.2 fun a ha => by simp [h a ha]
  have hbytes : (List.range l.length).map (fun i => if (!s.dieUp (hbmDie (l.getD i 0))) = true
      then (s.undef (some n) (s.free + i)).toNat % 256 else (s.mem.cells.get (l.getD i 0)).toNat) =
      l.map fun a => (s.mem.cells.get a).toNat := by
    refine List.ext_getElem (by simp) fun i hi hj => ?_
    have hl : i < l.length := by simpa using hj
    simp [hl, h _ (List.getElem_mem hl)]
  dsimp only [State.hostRead, State.reply]
  rw [hclean, hbytes]
  rfl

theorem hostRead_go {l : List Nat} (h : s.lea n = some y) (hl : s.hostRange y f k 1 = some l) :
    exec (.hostMemoryAccess n f (.read k)) s = .next (s.hostRead n l) := by
  simp only [exec, execHostMemoryAccess, h, hl]

/-- One byte is written as a byte. -/
theorem hostWrite_one (m : Memory) (x : Nat) (b : Byte) : m.hostWrite 1 [x] [b] = m.store x 1 b.toNat false := by
  simp [Memory.hostWrite]

theorem stateHostWrite_one {x : Nat} (b : Byte) (h : s.dieUp (hbmDie x) = true) :
    s.hostWrite n [x] [b] = { s with mem := s.mem.store x 1 b.toNat false } := by
  simp [State.hostWrite, h, hostWrite_one]

theorem hostWrite_go {x : Nat} (b : Byte) (h : s.lea n = some y) (hl : s.hostRange y f 1 2 = some [x]) (hd : s.dieUp (hbmDie x) = true) :
    exec (.hostMemoryAccess n f (.write [b])) s = .next (State.reply { s with mem := s.mem.store x 1 b.toNat false } [0]) := by
  simp only [exec, execHostMemoryAccess, h, List.length_singleton, hl, stateHostWrite_one b hd]

theorem commonsWrite_go {x : Nat} (b : Byte) (h : s.lea n = some y) (hl : y.commonsRange k f 1 = some [x]) (hd : s.dieUp k = true) :
    exec (.hostMemoryAccess n f (.commonsWrite k [b])) s = .next (State.reply { s with mem := s.mem.store x 1 b.toNat false } [0]) := by
  simp only [exec, execHostMemoryAccess, h, List.length_singleton, hl, hd, hostWrite_one, if_true]

end
end

/-- Settles O48: each request by what it changes where it is met, and by its refusal where it is not. -/
theorem headlandRequests : Obligations.HeadlandRequests := by
  intro s n k f v y done no
  refine ⟨fun req c h => ⟨_, leaCreate_badTemplate h, rfl, rfl, rfl⟩,
    fun req m hm ht hr => ⟨_, leaCreate_refused hm ht hr, rfl, rfl, rfl⟩, ?_, leaDestroy_none, leaDestroy_go, ?_,
    fun m => dispatchTemplateInstall_go, fun m c h hk ht => ⟨_, dispatchTemplateInstall_bad h hk ht, rfl, rfl⟩,
    fun m h => ⟨_, dispatchTemplateInstall_refused h, rfl, rfl⟩,
    apply_ite Host.Outcome.next .., fun off => rfl, fun h => ?_, fun h => ?_, ?_, ?_, fun h => ?_, fun key => ?_, fun h => ?_, ?_, ?_, ?_⟩
  · intro req m banks ways svc areas cores hm ht hr hb hw hs ha hq
    obtain ⟨u, he, hu⟩ := leaCreate_go hm ht hr hb hw hs ha hq
    have hnew : u.lea req.lea = some _ := (congrArg (keyFind · req.lea) hu).trans (keyFind_keySet_same ..)
    obtain ⟨b, p, g, hx⟩ := repause_lea hnew
    exact ⟨_, _, he, hx, rfl, rfl, rfl, rfl, rfl, rfl, rfl, rfl, rfl⟩
  · intro sched ok u agree
    refine ⟨fun ⟨hok, hj, hh⟩ => sliceScheduleSet_ok hok hj hh, fun h => ⟨_, sliceScheduleSet_refused h, rfl, rfl⟩⟩
  · exact ⟨fun hg => (leaMigration_eq h v).trans (congrArg _ (if_pos hg)),
      fun hg => (leaMigration_eq h v).trans (congrArg _ (if_neg hg))⟩
  · exact ⟨fun hw => (stage2Change_eq h v).trans (congrArg _ (if_pos hw)), stage2Change_go h⟩
  · exact fun h h1 h2 hk => keyAssign_go h ⟨by rw [h]; rfl, ⟨h1, h2⟩, hk⟩
  · refine fun h => keyAssign_eq.trans (congrArg _ (if_neg fun ⟨hl, hr, hk⟩ => ?_))
    rcases h with h | h | h | h
    · simp [h] at hl
    · omega
    · omega
    · simp [hk] at h
  · exact ⟨fun hr => (keyIdentifierRemove_eq h).trans (congrArg _ (if_neg hr)), keyIdentifierRemove_go h⟩
  · exact ⟨fun hr => frameRebind_eq.trans (congrArg _ (if_neg hr)), frameRebind_go⟩
  · refine ⟨fun l hl ha => ⟨_, hostRead_go h hl, rfl, hostRead_answer ha⟩, fun hl => ?_, fun bs hl => ?_,
      fun b x hl hd => hostWrite_go b h hl hd, fun b x hl hd => commonsWrite_go b h hl hd, ?_, ?_, ?_⟩
    · simp only [exec, execHostMemoryAccess, h, hl]
      rfl
    · simp only [exec, execHostMemoryAccess, h, hl]
      rfl
    · simp only [exec, execHostMemoryAccess, h]
      exact apply_ite Host.Outcome.next ..
    · simp only [exec, execHostMemoryAccess, h]
      rfl
    · simp only [exec, execHostMemoryAccess, h]
      rfl
  · intro i hi
    simp only [exec, execHostMemoryAccess, if_true, hi]
    rfl
  · intro fn hfn
    simp only [exec, execHostMemoryAccess, if_neg hfn]
    rfl
  · intro d hd
    simp only [exec, execHostMemoryAccess, hd]
    exact apply_ite Host.Outcome.next ..

end Sys2Proof.Proofs

namespace Sys2Proof.Proofs

open Sys2Proof Sys2Proof.Machine Sys2Proof.Laws

/-! ## Full/empty operations and atomics: issue (R235, R241, R242) -/

/-- A segment that passes the checks of R39 is in a space that the operation is allowed in. -/
theorem space_mem_of_segFail {g : Seg} {ext off size : Nat} {rights : List Right} {ok : List Nat}
    (h : segFail g ext off size rights ok = none) : g.space ∈ ok := by
  unfold segFail at h
  split at h
  · cases h
  · split at h
    · cases h
    next hok => simpa using hok

/-- A store that the message window does not allow meets no condition of the window (R343). -/
theorem tableOnly_of_spaces {s : State} {rx : Option (BitVec 3)} {k n : Nat} {rights : List Right} {spaces regs srcs dst : List Nat}
    {off : Int} (h : s.MayAccess rx k n rights spaces regs srcs dst off) (h6 : 6 ∉ spaces) : s.TableOnly k off := by
  intro hk
  obtain ⟨-, -, -, -, -, hseg, -⟩ := h
  exact absurd (hk ▸ space_mem_of_segFail hseg) h6

/-- Settles O8: the full/empty operations and the atomics are load and store forms of their own rights and spaces. -/
theorem atomicAndFullEmptyIssue : Obligations.AtomicAndFullEmptyIssue := by
  refine ⟨?_, ?_⟩
  · intro l g b d s x load store goL goS
    have goesL (r : List Right) (op : MemOp) (h : load r) :
        Host.Outcome.next (s.loadForm (feForm g r op) [b.toNat] [] d.toNat l.toNat (offBase b.toNat) noData) = goL op :=
      loadForm_go (m := feForm g r op) h
    have goesS (src : List Nat) (op : MemOp) (data : State → PWord) (h : store [.f, .w] src) :
        Host.Outcome.next (s.storeForm (feForm g [.f, .w] op) [b.toNat] src (offBase b.toNat) data) = goS op (data s) :=
      storeForm_go (m := feForm g [.f, .w] op) h (tableOnly_of_spaces h (by decide))
    exact ⟨goesL _ .lde, fun h => ⟨goesL _ .ldf h, goesL _ .feq h⟩,
      fun h => ⟨goesS _ .stf (·.w d.toNat) h, goesS _ .stff (·.w d.toNat) h⟩, goesS _ .feclr noData⟩
  · intro rx l b g a d s x ok go bb
    have goes (op n : Nat) (h : ok n (if op = 7 then [b.toNat, d.toNat] else [b.toNat])) :
        Host.Outcome.next (s.atomic rx l b g a d op n) = go op n (bb || (op == 7 && (s.w d.toNat).bad)) :=
      loadForm_go (m := { loadOf rx g.toNat n false with rights := [.r, .w], spaces := dataSpaces, op := .amo op (s.w d.toNat).val }) h
    have plain (op n : Nat) (hop : op ≠ 7) (h : ok n [b.toNat]) :
        Host.Outcome.next (s.atomic rx l b g a d op n) = go op n bb := by
      rw [goes op n (by rwa [if_neg hop]), beq_false_of_ne hop, Bool.false_and, Bool.or_false]
    exact ⟨fun h => ⟨plain 0 8 (by decide) h, plain 1 8 (by decide) h, plain 2 8 (by decide) h, plain 3 8 (by decide) h,
      plain 4 8 (by decide) h, plain 5 8 (by decide) h, plain 6 8 (by decide) h, plain 9 8 (by decide) h⟩,
      goes 7 8, plain 8 4 (by decide)⟩

end Sys2Proof.Proofs

namespace Sys2Proof.Proofs

open Sys2Proof Sys2Proof.Machine Sys2Proof.Laws

/-! ## Words and their states (R25, R26, R422) -/

section
variable {m : Memory} {a n v : Nat} {bad : Bool}

theorem dwordOf_of_aligned (h : a % 8 = 0) : dwordOf a = a := by
  unfold dwordOf
  omega

/-- A key deleted from a rising list is gone, and every other key is found as before. -/
theorem keyFind_keyDel {α : Type} (a b : Nat) : ∀ {l : List (Nat × α)}, l.Pairwise (fun p q => p.1 < q.1) →
    keyFind (keyDel l a) b = if b = a then none else keyFind l b
  | [], _ => by simp [keyDel, keyFind]
  | (k, x) :: t, h => by
    obtain ⟨hk, ht⟩ := List.pairwise_cons.1 h
    have ih := keyFind_keyDel a b ht
    have gone : ∀ {t : List (Nat × α)}, (∀ q ∈ t, k < q.1) → keyFind t k = none := fun {t} => by
      induction t with
      | nil => exact fun _ => rfl
      | cons q t ih =>
        intro hq
        rw [keyFind, if_neg (hq q (by simp)).ne, ih fun r hr => hq r (List.mem_cons_of_mem _ hr)]
    rw [keyDel, keyFind]
    split
    next hak =>
      subst hak
      by_cases hb : b = a
      · rw [if_pos hb, hb, gone hk]
      · rw [if_neg hb, if_neg hb]
    next hak =>
      rw [keyFind, ih]
      by_cases hb : b = k
      · rw [if_pos hb, if_pos hb, if_neg (hb ▸ Ne.symm hak)]
      · rw [if_neg hb, if_neg hb]

/-- A word marked full is full, and every other word's state is as it was. -/
theorem feOf_setFe_none (h : m.wf = true) (w : Nat) : (m.setFe a none).feOf w = if w = a then none else m.feOf w := by
  obtain ⟨-, hs, -⟩ := (memory_wf_iff m).1 h
  exact keyFind_keyDel a w hs

/-- What a store writes is read back. -/
theorem store_read (h : m.wf = true) : (m.store a n v bad).read a n = v % 256 ^ n := by
  obtain ⟨hc, -⟩ := (memory_wf_iff m).1 h
  have hw : (m.write a n v).read a n = v % 256 ^ n := read_write n a v hc
  unfold Memory.store
  split
  next h8 =>
    rw [h8, putWord_read h]
    exact BitVec.toNat_ofNat v 64
  · split
    · exact hw
    · exact hw

/-- A store leaves every byte outside it. -/
theorem store_other (h : m.wf = true) {b : Nat} (hb : b < a ∨ a + n ≤ b) : (m.store a n v bad).cells.get b = m.cells.get b := by
  obtain ⟨hc, -⟩ := (memory_wf_iff m).1 h
  have hw : (m.write a n v).cells.get b = m.cells.get b := get_write_other n a v b hc hb
  unfold Memory.store
  split
  next h8 => exact putWord_other h a b _ (h8 ▸ hb)
  · split
    · exact hw
    · exact hw

/-- Poisoned data poison the word; clean data clear its poison where they are the whole doubleword (R422). -/
theorem isBad_store (h : m.wf = true) (w : Nat) : (m.store a n v bad).isBad w =
    if dwordOf w ≠ dwordOf a then m.isBad w else if bad then true else if n = 8 then false else m.isBad w := by
  unfold Memory.store
  split
  next h8 =>
    rw [isBad_putWord h, ite_not]
    cases bad <;> rfl
  next h8 =>
    cases bad with
    | true =>
      have hset : ((m.write a n v).setBad a true).isBad w = (decide (dwordOf w = dwordOf a) || m.isBad w) := by
        rw [Bool.eq_iff_iff, Bool.or_eq_true, decide_eq_true_iff]
        simp only [Memory.setBad, if_true, Memory.isBad, Memory.write, List.contains_iff_mem, mem_natIns]
      rw [if_pos rfl, hset]
      by_cases hw : dwordOf w = dwordOf a <;> simp [hw]
    | false =>
      exact (ite_self _).symm

end

/-! ## Operations at the home of their word (R26, R230, R235, R241, R422) -/

section
variable {m : Memory} {fresh c : Word} {f a : Nat} {p : Part}

/-- An atomic with a clean operand leaves its value in a clean word, and returns the old one. -/
theorem homeOp_amo_clean (hp : m.isPending (dwordOf a) = false) (hm : m.isBad a = false) (hd : p.dataBad = false) :
    homeOp m false fresh (.amo f c) a p = some (m.store a p.size (amoNew f (m.read a p.size) (p.data % 256 ^ p.size) c.toNat) false,
      ⟨BitVec.ofNat 64 (m.read a p.size), false⟩) := by
  simp [homeOp, hp, hm, hd]

/-- An atomic that reads poison leaves its word (R422). -/
theorem homeOp_amo_bad {reg : Bool} (hp : m.isPending (dwordOf a) = false) (hm : m.isBad a = true) :
    homeOp m reg fresh (.amo f c) a p = some (m, ⟨BitVec.ofNat 64 (m.read a p.size), true⟩) := by
  simp [homeOp, hp, hm]

/-- The integer atomics on words. -/
theorem ofNat_amoNew (m v c : Word) :
    let new (op : Nat) : Word := BitVec.ofNat 64 (amoNew op m.toNat v.toNat c.toNat)
    new 0 = m + v ∧ new 1 = m &&& v ∧ new 2 = m ||| v ∧ new 3 = m ^^^ v
    ∧ new 4 = (if v.toInt < m.toInt then v else m) ∧ new 5 = (if m.toInt < v.toInt then v else m)
    ∧ new 6 = v ∧ new 7 = if m = c then v else m := by
  have hself (x : Word) : BitVec.ofNat 64 x.toNat = x := BitVec.ofNat_toNat 64 x |>.trans (BitVec.setWidth_eq x)
  have hite {q : Prop} [Decidable q] (x y : Word) : BitVec.ofNat 64 (if q then x.toNat else y.toNat) = if q then x else y := by
    rw [apply_ite (BitVec.ofNat 64), hself, hself]
  refine ⟨?_, ?_, ?_, ?_, ?_, ?_, hself v, ?_⟩
  · exact BitVec.eq_of_toNat_eq (by simp [amoNew])
  · exact hself (m &&& v)
  · exact hself (m ||| v)
  · exact hself (m ^^^ v)
  · simp only [amoNew, hself, hite, ite_slt]
  · simp only [amoNew, hself, hite, ite_slt]
  · simp only [amoNew, hite, BitVec.toNat_inj]

/-- An integer atomic of a clean doubleword with a clean operand. -/
theorem homeOp_amo_word {w : Word} (ha : a % 8 = 0) (hs : p.size = 8) (hd : p.dataBad = false) (hp : m.isPending a = false)
    (hm : m.isBad a = false)
    (hw : BitVec.ofNat 64 (amoNew f (BitVec.ofNat 64 (m.read a 8)).toNat (BitVec.ofNat 64 p.data).toNat c.toNat) = w) :
    homeOp m false fresh (.amo f c) a p = some (m.putWord a ⟨w, false⟩, ⟨BitVec.ofNat 64 (m.read a 8), false⟩) := by
  rw [BitVec.toNat_ofNat, BitVec.toNat_ofNat, Nat.mod_eq_of_lt (memory_read_lt m a)] at hw
  rw [homeOp_amo_clean (by rwa [dwordOf_of_aligned ha]) hm hd, hs, Memory.store, if_pos rfl, ← hw]
  rfl

/-- A plain store to a word that owes no result (R26, R230). -/
theorem homeOp_store {reg : Bool} (hp : m.isPending (dwordOf a) = false) : homeOp m reg fresh .store a p = some (
    if reg then (m.store a p.size p.data p.dataBad).setFe (dwordOf a) none else m.store a p.size p.data p.dataBad,
    ⟨BitVec.ofNat 64 p.data, p.dataBad⟩) := by
  simp [homeOp, hp]

end

/-- Settles O9: each operation by its own case at the home of its word; a store by the bytes, the state and the poison that it leaves. -/
theorem atomicAndFullEmptyAtHome : Obligations.AtomicAndFullEmptyAtHome := by
  refine ⟨?_, ?_, ?_, ?_⟩
  · intro m reg v a p ha hp word
    have hw : dwordOf a = a := dwordOf_of_aligned ha
    simp only [homeOp, hw, word, and_self]
  · intro m v c a p ha hs hd hp old x gives
    have word (op : Nat) (w : Word) (hm : m.isBad a = false) (hw : BitVec.ofNat 64 (amoNew op old.toNat x.toNat c.toNat) = w) :
        gives op w := homeOp_amo_word ha hs hd hp hm hw
    refine ⟨fun hm => ?_, fun hm op => ?_⟩
    · obtain ⟨h0, h1, h2, h3, h4, h5, h6, h7⟩ := ofNat_amoNew old x c
      exact ⟨word 0 _ hm h0, word 1 _ hm h1, word 2 _ hm h2, word 3 _ hm h3, word 4 _ hm h4, word 5 _ hm h5, word 6 _ hm h6,
        word 7 _ hm h7⟩
    · rw [homeOp_amo_bad (by rwa [dwordOf_of_aligned ha]) hm, hs]
  · intro m v c a p op f hop ha hlt hd hp hm old
    rw [homeOp_amo_clean hp hm hd, Nat.mod_eq_of_lt hlt]
    simp only [List.mem_cons, Prod.mk.injEq, List.not_mem_nil, or_false] at hop
    obtain ⟨rfl, rfl, -⟩ | ⟨rfl, rfl, -⟩ := hop
    · rfl
    · rfl
  · intro m reg v a p hwf hs ha
    refine ⟨fun sg => rfl, fun hp => ?_, fun hp => ⟨_, _, homeOp_store hp, ?_⟩⟩
    · simp [homeOp, hp]
    have hwf1 : (m.store a p.size p.data p.dataBad).wf = true := store_wf _ _ _ _ hwf
    have hfe (w : Nat) : (m.store a p.size p.data p.dataBad).feOf w = m.feOf w := by rw [Memory.feOf, store_fe]; rfl
    cases reg with
    | false => exact ⟨store_read hwf, fun b hb => store_other hwf hb, hfe, isBad_store hwf⟩
    | true =>
      refine ⟨store_read hwf, fun b hb => store_other hwf hb, fun w => ?_, isBad_store hwf⟩
      rw [if_pos rfl, feOf_setFe_none hwf1, hfe]
      simp

end Sys2Proof.Proofs

namespace Sys2Proof.Proofs

open Sys2Proof Sys2Proof.Machine Sys2Proof.Laws

/-! ## Remote operations (R245-R247) -/

section
variable {s : State} {l : BitVec 4} {g : BitVec 3} {a n : Nat} {src dst : List Nat} {rights : List Right}

theorem withLimit_go {k : Kind} {f : State → State} (h : s.count k < k.limit) : s.withLimit k f = f s := if_pos h

/-- The destination of an access to another space than local store is no part of what it accesses (R228). -/
theorem overlaps_of_space {sp x : Nat} {dsts : List Nat} (h : 3 ≤ sp) : s.overlaps sp x n dsts = false := if_neg (by omega)

/-- The conditions under which a remote operation of n bytes reaches the check of its target die (R228, R246). -/
abbrev MayReach (s : State) (g : BitVec 3) (a n : Nat) (rights : List Right) (src dst : List Nat) : Prop :=
  let sg := s.seg g.toNat
  let off := (s.w a).val.toNat
  s.Reads (a :: src) dst ∧ s.count .remote < 16 ∧ s.PathOpen sg.space ∧ (s.w a).bad = false
  ∧ segFail sg (s.extent sg.space) off n rights [5] = none ∧ (sg.base.toNat + off) % n = 0

/-- The remote access of one event that the segment and the offset of a register name (R246). -/
def remoteAccess (s : State) (g : BitVec 3) (a n : Nat) (op : MemOp) (sem : Option Nat) (v : PWord) : Access :=
  let off := (s.w a).val.toNat
  { s.newAccess g.toNat off op [s.newPart (s.seg g.toNat) ((s.seg g.toNat).base.toNat + off) off n v 0] none with
    remote := true, sem := sem }

/-- A remote operation within its segment issues where its die can be used, else it traps with cause 0x2A. -/
theorem remoteOp_eq {op : MemOp} {sem : Option Nat} {data : State → PWord} (h : MayReach s g a n rights src dst) :
    s.remoteOp l g a src (dst.map s.wAddr) n rights op sem data = if s.dieUsable (s.seg g.toNat).die then
      s.startAccess 4 true l.toNat (dst.map s.wAddr) (remoteAccess s g a n op sem (data s))
    else s.raise 4 0x2A (BitVec.ofNat 64 (s.seg g.toNat).die) := by
  obtain ⟨ho, hc, hp, hb, hs, ha⟩ := h
  have h5 : (s.seg g.toNat).space = 5 := List.mem_singleton.1 (space_mem_of_segFail hs)
  have h0 : 0 ≤ offBase a s := Int.natCast_nonneg _
  rw [State.remoteOp, withOperands_go (by exact ho), withLimit_go hc, withSpace_go hp, needClean_go hb,
    memIssue_go h0 hs ha (overlaps_of_space (by omega))]
  dsimp only
  cases hd : s.dieUsable (s.seg g.toNat).die with
  | true => rfl
  | false => rfl

/-- RSEM where its operands may be read and its message finds room: by the core that it names and the amount (R247). -/
theorem rsem_eq {k : BitVec 6} {a d : BitVec 5} (h : s.Reads [a.toNat, d.toNat] []) (hc : s.count .remote < 16)
    (hx : s.exchangeFlits s.cur.1 s.me.lea < 16) (ha : (s.w a.toNat).bad = false) (hd : (s.w d.toNat).bad = false) :
    exec (.rsem l k a d) s = .next (
      if s.leal ≤ (s.w a.toNat).val.toNat then s.raise 4 0x40 (s.w a.toNat).val
      else if 2 ^ 48 ≤ (s.w d.toNat).val.toNat then s.raise 4 0x06 (s.w d.toNat).val
      else (((s.addOut (s.newOut 4 true l.toNat [] .rsem)).post
        (s.newMail s.nextId (s.physOf (s.w a.toNat).val.toNat) 0 (.rsem k.toNat (s.w d.toNat).val.toNat))).issue 4)) :=
  congrArg Host.Outcome.next ((withOperands_go (by exact h)).trans ((withLimit_go hc).trans ((withExchange_go hx).trans
    (needCleans_go (by simp [ha, hd])))))

end

/-! ## Bank commands (R250-R255) -/

section
variable {s : State} {g : BitVec 3} {a d : BitVec 5} {v : BitVec 4} {src dst : List Nat} {n : Nat}

/-- The address of the destination row that a command names (R252). -/
abbrev rowAt (s : State) (g : BitVec 3) (a : BitVec 5) : Nat := (s.seg g.toNat).base.toNat + (s.w a.toNat).val.toNat

/-- The conditions under which a bank command of n bytes issues, its control word apart (R228, R253). -/
abbrev MayCommand (s : State) (g : BitVec 3) (a d : BitVec 5) (src dst : List Nat) (n : Nat) : Prop :=
  let sg := s.seg g.toNat
  s.Operands (s.wAddr a.toNat :: src) dst ∧ s.PathOpen sg.space ∧ s.count .bank < 32
  ∧ (s.w a.toNat).bad = false ∧ (s.w d.toNat).bad = false
  ∧ segFail sg (s.extent sg.space) (s.w a.toNat).val.toNat n [.b] [3, 4] = none ∧ rowAt s g a % n = 0

/-- A command sent, which is outstanding from then on (R231, R253). -/
def commanded (s : State) (win : Bool) (look : Nat) (dst : List Nat) (c : BankCmd) : State :=
  ((s.addOut (s.newOut 4 win look dst (.bank c))).markPending dst).issue 4

theorem sendCmd_go {win : Bool} {look : Nat} {c : BankCmd} (h : s.count .bank < 32) :
    s.sendCmd win look dst c = commanded s win look dst c := withLimit_go h

/-- A command whose operands and path are as they should be comes to the checks of its row. -/
theorem commandOperands_go {f : State → State} (h : MayCommand s g a d src dst n) :
    (s.withOperands (s.wAddr a.toNat :: src) dst fun s => s.withSpace (s.seg g.toNat).space fun s =>
      s.needClean 4 0x10 a.toNat fun s => s.needClean 4 0x13 d.toNat f) = f s := by
  obtain ⟨ho, hp, -, ha, hd, -⟩ := h
  rw [withOperands_go ho, withSpace_go hp, needClean_go ha, needClean_go hd]

/-- A command whose row passes the checks of R228 goes on with the row's address. -/
theorem commandRow_go {dsts : List Nat} {f : State → Nat → State} (h : MayCommand s g a d src dst n) :
    s.memIssue 4 g.toNat (s.w a.toNat).val.toNat n n [.b] [3, 4] dsts f = f s (rowAt s g a) := by
  obtain ⟨-, -, -, -, -, hs, hn⟩ := h
  have hsp : (s.seg g.toNat).space = 3 ∨ (s.seg g.toNat).space = 4 := by simpa using space_mem_of_segFail hs
  exact memIssue_go (Int.natCast_nonneg _) hs hn (overlaps_of_space (by omega))

theorem command_room (h : MayCommand s g a d src dst n) : s.count .bank < 32 := by
  obtain ⟨-, -, hc, -⟩ := h
  exact hc

/-- NADD, NMAX and NAXPY (R250, R253). -/
theorem bankVec_go {fn : Nat} (hfn : fn ≠ 2)
    (h : MayCommand s g a d (s.vAddrs v.toNat ++ [s.wAddr d.toNat]) [] (rowBytes (s.w d.toNat).val))
    (hc : ctlBad fn (s.w d.toNat).val = false) :
    s.bankVec fn v g a d = commanded s false 0 [] (s.newCmd fn g.toNat (rowAt s g a) (s.w a.toNat).val.toNat
      (rowBytes (s.w d.toNat).val) (s.w d.toNat).val [] (s.v v.toNat) (s.badList (s.vAddrs v.toNat)) ⟨0, false⟩) := by
  refine (commandOperands_go h).trans ((commandRow_go h).trans ?_)
  rw [hc, if_neg (by decide), if_pos hfn, sendCmd_go (command_room h)]

/-- One row of an NRED within its segment and in the destination's bank (R252, R253). -/
theorem nredRows_one {k rs bank : Nat} {x : VReg} {f : State → List Part → State}
    (hs : segFail (s.seg k) (s.extent (s.seg k).space) (rowOffset (s.seg k).space (vBytes x 0 8) rs (vBytes x 8 4)) rs [.r] [3, 4] = none)
    (hb : s.myBank (s.seg k).space ((s.seg k).base.toNat + rowOffset (s.seg k).space (vBytes x 0 8) rs (vBytes x 8 4)) = bank) :
    s.nredRows k x rs bank [0] [] f = f s [s.newPart (s.seg k) ((s.seg k).base.toNat +
      rowOffset (s.seg k).space (vBytes x 0 8) rs (vBytes x 8 4))
      (rowOffset (s.seg k).space (vBytes x 0 8) rs (vBytes x 8 4)) rs ⟨0, false⟩ 0] := by
  rw [State.nredRows]
  dsimp only
  rw [hs]
  exact if_neg (not_not.2 hb)

theorem rowBytes_dvd (w : Word) : rowBytes w ∣ 512 :=
  Nat.mul_dvd_mul_left 64 (Nat.pow_dvd_pow 2 (Nat.le_of_lt_succ (w.extractLsb' 4 2).isLt) : _ ∣ 2 ^ 3)

/-- NRED of one row, its vector register clean and its table aligned (R250, R252, R253). -/
theorem nred_go (h : MayCommand s g a d (s.vAddrs v.toNat ++ [s.wAddr d.toNat]) [] (rowBytes (s.w d.toNat).val))
    (hc : ctlBad 2 (s.w d.toNat).val = false) (hv : s.Clean (s.vAddrs v.toNat)) (ht : vBytes (s.v v.toNat) 0 8 % 512 = 0)
    (h1 : (s.w d.toNat).val.extractLsb' 8 3 = 0) {o : Nat}
    (hr : o = rowOffset (s.seg g.toNat).space (vBytes (s.v v.toNat) 0 8) (rowBytes (s.w d.toNat).val) (vBytes (s.v v.toNat) 8 4))
    (hs : segFail (s.seg g.toNat) (s.extent (s.seg g.toNat).space) o (rowBytes (s.w d.toNat).val) [.r] [3, 4] = none)
    (hb : s.myBank (s.seg g.toNat).space ((s.seg g.toNat).base.toNat + o) = s.myBank (s.seg g.toNat).space (rowAt s g a)) :
    s.bankVec 2 v g a d = commanded s false 0 [] (s.newCmd 2 g.toNat (rowAt s g a) (s.w a.toNat).val.toNat
      (rowBytes (s.w d.toNat).val) (s.w d.toNat).val
      [s.newPart (s.seg g.toNat) ((s.seg g.toNat).base.toNat + o) o (rowBytes (s.w d.toNat).val) ⟨0, false⟩ 0]
      (s.v v.toNat) [] ⟨0, false⟩) := by
  subst hr
  have hm : vBytes (s.v v.toNat) 0 8 % (if (s.seg g.toNat).space = 3 then rowBytes (s.w d.toNat).val else 512) = 0 := by
    split
    · exact Nat.mod_eq_zero_of_dvd ((rowBytes_dvd _).trans (Nat.dvd_of_mod_eq_zero ht))
    · exact ht
  refine (commandOperands_go h).trans ((commandRow_go h).trans ?_)
  rw [hc, if_neg (by decide), if_neg (by decide), badList_clean hv]
  dsimp only [List.find?_nil]
  rw [if_neg (not_not.2 hm), h1]
  exact (nredRows_one hs hb).trans (sendCmd_go (command_room h))

/-- NFILL (R250, R253). -/
theorem nfill_go {b : BitVec 5} (h : MayCommand s g a d [s.wAddr b.toNat, s.wAddr d.toNat] [] (rowBytes (s.w d.toNat).val))
    (hc : ctlBad 4 (s.w d.toNat).val = false) :
    exec (.nfill b g a d) s = .next (commanded s false 0 [] (s.newCmd 4 g.toNat (rowAt s g a) (s.w a.toNat).val.toNat
      (rowBytes (s.w d.toNat).val) (s.w d.toNat).val [] 0 [] (s.w b.toNat))) := by
  refine congrArg Host.Outcome.next ((commandOperands_go h).trans ((commandRow_go h).trans ?_))
  rw [hc, if_neg (by decide), sendCmd_go (command_room h)]

/-- NAMO, whose result is owed to its destination (R255). -/
theorem namo_go {l : BitVec 4} {b : BitVec 5}
    (h : MayCommand s g a d [s.wAddr b.toNat, s.wAddr d.toNat] [s.wAddr d.toNat] (if (s.w d.toNat).val.extractLsb' 0 4 = 8 then 4 else 8))
    (hc : namoBad (s.w d.toNat).val = false) :
    exec (.namo l b g a d) s = .next (commanded s true l.toNat [s.wAddr d.toNat] (s.newCmd 5 g.toNat (rowAt s g a)
      (s.w a.toNat).val.toNat (if (s.w d.toNat).val.extractLsb' 0 4 = 8 then 4 else 8) (s.w d.toNat).val [] 0 [] (s.w b.toNat))) := by
  refine congrArg Host.Outcome.next ((commandOperands_go h).trans ((commandRow_go h).trans ?_))
  rw [hc, if_neg (by decide), sendCmd_go (command_room h)]

end

/-- Settles O17: remote operations are one form, RSEM goes by its core and amount, and the bank commands share their checks. -/
theorem remoteAndBankIssue : Obligations.RemoteAndBankIssue := by
  refine ⟨?_, ?_, ?_⟩
  · intro l k e g a d s sg off at_ ok go sem
    have reach (n : Nat) (r : List Right) (src dst : List Nat) (h : ok n r src dst) : MayReach s g a.toNat n r src dst := h
    refine ⟨fun h => ⟨fun hd => ?_, fun hd => ?_⟩, fun h hd => ?_, fun h hd => ?_⟩
    · exact congrArg Host.Outcome.next ((remoteOp_eq (reach _ _ _ _ h)).trans (if_pos hd))
    · exact congrArg Host.Outcome.next ((remoteOp_eq (reach _ _ _ _ h)).trans (if_neg (ne_true_of_eq_false hd)))
    · exact congrArg Host.Outcome.next ((remoteOp_eq (reach _ _ _ _ h)).trans (if_pos hd))
    · exact congrArg Host.Outcome.next ((remoteOp_eq (reach _ _ _ _ h)).trans (if_pos hd))
  · intro l k a d s c n h hc hx ha hd
    rw [rsem_eq h hc hx ha hd]
    exact ⟨fun hcore hn => by rw [if_neg hcore.not_ge, if_neg hn.not_ge], fun hcore => by rw [if_pos hcore],
      fun hcore hn => by rw [if_neg hcore.not_ge, if_pos hn]⟩
  · intro l v g b a d s sg w off at_ va ready sends vec
    refine ⟨fun h => ⟨fun hc => ?_, fun hc => ?_, fun hc => ?_, fun hc hv ht h1 hs hb => ?_⟩, nfill_go, namo_go⟩
    · exact congrArg Host.Outcome.next (bankVec_go (by decide) h hc)
    · exact congrArg Host.Outcome.next (bankVec_go (by decide) h hc)
    · exact congrArg Host.Outcome.next (bankVec_go (by decide) h hc)
    · exact congrArg Host.Outcome.next (nred_go h hc hv ht h1 rfl hs hb)

end Sys2Proof.Proofs

namespace Sys2Proof.Proofs

open Sys2Proof Sys2Proof.Machine Sys2Proof.Laws

/-! ## Vector loads and stores: issue (R238-R240, R322) -/

section
variable {s : State} {m g : BitVec 3} {a : BitVec 5} {d : BitVec 4} {f : VForm} {store : Bool} {rx : Option (BitVec 3)} {look : Nat}

theorem v_toNat (s : State) (k : Nat) : (s.v k).toNat = s.wide (s.vAddrs k) := by
  have hl : 64 * (s.vAddrs k).length = 2048 := by rw [State.vAddrs, List.length_map, List.length_range]
  exact (BitVec.toNat_ofNat _ _).trans (Nat.mod_eq_of_lt (hl ▸ wide_lt s (s.vAddrs k)))

/-- An element of four bytes of a vector register. -/
theorem vBytes_v (s : State) (k e : Nat) : vBytes (s.v k) (4 * e) 4 = s.elemIn (s.vAddrs k) 32 e := by
  have hpow (n : Nat) : (256 : Nat) ^ n = 2 ^ (8 * n) := Nat.pow_mul 2 8 n |>.symm
  rw [vBytes, v_toNat, State.elemIn, hpow, hpow, ← Nat.mul_assoc]

/-- The events of a vector access depend on the mask of its own elements alone. -/
theorem vParts_congr {sg : Seg} {pair : Bool} {off : Nat → Nat} {act live : Nat → Bool} {val : VReg} {bad : Nat → Bool}
    (h : ∀ i < 65, act i = live i) : s.vParts sg pair off act val bad = s.vParts sg pair off live val bad := by
  refine List.flatMap_congr fun e he => ?_
  have he : e < 64 := List.mem_range.1 he
  simp only [h e (by omega), h (e - 1) (by omega), h (e + 1) (by omega)]

/-- Elements whose checks all pass (R239). -/
theorem vCheck_none {sg : Seg} {ext : Nat} {right : Right} {off : Nat → Int} : ∀ {l : List Nat},
    (∀ e ∈ l, 0 ≤ off e ∧ segFail sg ext (off e).toNat 4 [right] dataSpaces = none ∧ (sg.base.toNat + (off e).toNat) % 4 = 0) →
    vCheck sg ext right off l = none
  | [], _ => rfl
  | e :: l, h => by
    obtain ⟨⟨h0, hs, ha⟩, hl⟩ := List.forall_mem_cons.1 h
    rw [vCheck, if_neg h0.not_gt, hs, ha]
    exact vCheck_none hl

theorem vformBad_clean (h : s.Clean (s.vformAddrs f)) : s.vformBad f = none := by
  cases f with
  | unit => rfl
  | strided i => exact if_neg (ne_true_of_eq_false (h _ (List.mem_singleton.2 rfl)))
  | indexed v => exact if_neg (ne_true_of_eq_false (List.any_eq_false.2 fun x hx => ne_true_of_eq_false (h x hx)))

/-- The flits of a vector access: for the doublewords that hold an active element, or for the active elements (R239, R322). -/
def liveFlits (s : State) (m : BitVec 3) (f : VForm) : Nat :=
  if f = .unit then ((List.range 32).filter (fun j => s.active m (2 * j) || s.active m (2 * j + 1))).length
  else ((List.range 64).filter (s.active m)).length

theorem vFlits_clean (h : s.Clean (s.maskAddrs m)) : s.vFlits m.toNat f = liveFlits s m f := by
  have hpairs : (List.range 32).filter (fun i => maskBit (s.maskVal m.toNat).1 (2 * i) || maskBit (s.maskVal m.toNat).1 (2 * i + 1)) =
      (List.range 32).filter (fun j => s.active m (2 * j) || s.active m (2 * j + 1)) :=
    List.filter_congr fun j hj => by
      have hj : j < 32 := List.mem_range.1 hj
      rw [maskBit, maskBit, testBit_maskVal h (by omega), testBit_maskVal h (by omega)]
  have hels : (List.range 64).filter (maskBit (s.maskVal m.toNat).1) = (List.range 64).filter (s.active m) :=
    List.filter_congr fun j hj => by
      have hj : j < 64 := List.mem_range.1 hj
      rw [maskBit, testBit_maskVal h (by omega)]
  rw [State.vFlits, liveFlits, hels, hpairs]

theorem withFlits_go {sp n : Nat} {k : State → State} (h : (sp = 3 ∨ sp = 4 ∨ sp = 5) →
    s.requestFlits s.cur.1 s.me.lea (Config.requestPlane s.nextId) + min n 16 ≤ 16) : s.withFlits sp n k = k s :=
  if_neg fun ⟨hsp, hn⟩ => absurd (h hsp) hn.not_ge

/-- The conditions under which a vector load or store issues: those of its operands and its path, and those of R228 and R239 for each
active element. -/
structure MayMove (s : State) (rx : Option (BitVec 3)) (store : Bool) (m g : BitVec 3) (a : BitVec 5) (d : BitVec 4) (f : VForm) :
    Prop where
  operands : s.Operands ([s.wAddr a.toNat] ++ s.vformAddrs f ++ s.maskAddrs m ++ (if store ∨ m ≠ 0 then s.vAddrs d.toNat else []))
    (if store then [] else s.vAddrs d.toNat)
  clean : s.Clean ([s.wAddr a.toNat] ++ s.vformAddrs f ++ s.maskAddrs m)
  limit : s.count (kindOf rx) < (kindOf rx).limit
  path : s.PathOpen (s.seg g.toNat).space
  room : ((s.seg g.toNat).space = 3 ∨ (s.seg g.toNat).space = 4 ∨ (s.seg g.toNat).space = 5) →
    s.requestFlits s.cur.1 s.me.lea (Config.requestPlane s.nextId) + min (liveFlits s m f) 16 ≤ 16
  aligned : f = .unit → (s.w a.toNat).val.toNat % 8 = 0
  elements : ∀ e < 64, s.active m e = true → 0 ≤ s.vOffset a.toNat f e
    ∧ segFail (s.seg g.toNat) (s.extent (s.seg g.toNat).space) (s.vOffset a.toNat f e).toNat 4 [if store then .w else .r] dataSpaces = none
    ∧ ((s.seg g.toNat).base.toNat + (s.vOffset a.toNat f e).toNat) % 4 = 0
    ∧ s.overlaps (s.seg g.toNat).space ((s.seg g.toNat).base.toNat + (s.vOffset a.toNat f e).toNat) 4
        (if store then [] else s.vAddrs d.toNat) = false

/-- A vector load or store issued: one access with an event for each active element or doubleword of two (R239). -/
def vMoved (s : State) (rx : Option (BitVec 3)) (store : Bool) (look : Nat) (m g : BitVec 3) (a : BitVec 5) (d : BitVec 4)
    (pair : Bool) (off : Nat → Int) : State :=
  let n := withPrefix rx 4
  let vd := s.vAddrs d.toNat
  let dst := if store then [] else vd
  let parts := s.vParts (s.seg g.toNat) pair (fun e => (off e).toNat) (s.active m) (s.v d.toNat) (fun j => s.mem.isBad (vd.getD j 0))
  let s1 : State := { s with free := s.free + 2 }
  let x := s1.newAccess g.toNat (s.w a.toNat).val.toNat (if store then .store else .load false) parts (scopeOf rx)
  ((s1.addOut (s1.newOut n (!store) look dst (.access x))).markPending dst).issue n

theorem vmem_go (h : MayMove s rx store m g a d f) :
    s.vmem rx store look m g a d f = vMoved s rx store look m g a d (f == .unit) (s.vOffset a.toNat f) := by
  have hclean : s.Clean (s.vformAddrs f) := fun x hx => h.clean x (by simp [hx])
  have hmask : s.Clean (s.maskAddrs m) := fun x hx => h.clean x (by simp [hx])
  have hbase : (s.w a.toNat).bad = false := h.clean _ (by simp)
  have hact (i : Nat) (hi : i < 256) : maskBit (s.maskVal m.toNat).1 i = s.active m i := testBit_maskVal hmask hi
  have hels : ∀ e ∈ (List.range 64).filter (maskBit (s.maskVal m.toNat).1), e < 64 ∧ s.active m e = true := fun e he => by
    obtain ⟨he, hm⟩ := List.mem_filter.1 he
    have he : e < 64 := List.mem_range.1 he
    exact ⟨he, hact e (by omega) ▸ hm⟩
  have hcheck : vCheck (s.seg g.toNat) (s.extent (s.seg g.toNat).space) (if store then .w else .r) (s.vOffset a.toNat f)
      ((List.range 64).filter (maskBit (s.maskVal m.toNat).1)) = none := vCheck_none fun e he => by
    obtain ⟨he, hm⟩ := hels e he
    obtain ⟨h0, hs, ha, -⟩ := h.elements e he hm
    exact ⟨h0, hs, ha⟩
  have hover : ((List.range 64).filter (maskBit (s.maskVal m.toNat).1)).find? (fun e => s.overlaps (s.seg g.toNat).space
      ((s.seg g.toNat).base.toNat + (s.vOffset a.toNat f e).toNat) 4 (if store then [] else s.vAddrs d.toNat)) = none :=
    List.find?_eq_none.2 fun e he => by
      obtain ⟨he, hm⟩ := hels e he
      obtain ⟨-, -, -, ho⟩ := h.elements e he hm
      exact ne_true_of_eq_false ho
  have hparts : s.vParts (s.seg g.toNat) (f == .unit) (fun e => (s.vOffset a.toNat f e).toNat) (maskBit (s.maskVal m.toNat).1)
      (s.v d.toNat) (fun j => s.mem.isBad ((s.vAddrs d.toNat).getD j 0)) = s.vParts (s.seg g.toNat) (f == .unit)
      (fun e => (s.vOffset a.toNat f e).toNat) (s.active m) (s.v d.toNat) (fun j => s.mem.isBad ((s.vAddrs d.toNat).getD j 0)) :=
    vParts_congr fun i hi => hact i (by omega)
  have hbad := maskVal_clean hmask
  have hroom := h.room
  rw [← vFlits_clean hmask] at hroom
  rw [vMoved, ← hparts]
  rw [State.vmem]
  dsimp only
  rw [withOperands_go (by exact h.operands), withLimit_go h.limit, withSpace_go h.path, withFlits_go hroom, needClean_go hbase]
  rcases hmv : s.maskVal m.toNat with ⟨mv, mbad⟩
  rw [hmv] at hcheck hover hbad
  rw [vformBad_clean hclean]
  dsimp only at hcheck hover hbad ⊢
  subst hbad
  rw [hcheck]
  dsimp only
  rw [if_neg fun ⟨hf, hn⟩ => hn (h.aligned hf), hover]
  rfl

theorem withPrefix_four (rx : Option (BitVec 3)) : withPrefix rx 4 = if rx = none then 4 else 6 := by
  cases rx <;> rfl

end

/-- Settles O21: each vector load and store is the one form with its own offsets. -/
theorem vectorMemoryIssue : Obligations.VectorMemoryIssue := by
  intro rx l i m g a d s sg n vd base mk unit strided indexed flits room ok goes
  have hn : n = withPrefix rx 4 := (withPrefix_four rx).symm
  have hindexed : s.vOffset a.toNat (.indexed i.toNat) = indexed := funext fun e => by
    rw [State.vOffset, vBytes_v]
  have may (store : Bool) (f : VForm) (off : Nat → Int) (hoff : s.vOffset a.toNat f = off)
      (h : ok store (f == .unit) (s.vformAddrs f) off) : MayMove s rx store m g a d f := by
    obtain ⟨ho, hc, hl, hp, hr, ha, he⟩ := h
    refine ⟨ho, hc, hl, hp, fun hsp => ?_, fun hf => ha (by rw [hf]; rfl), fun e h64 hm => ?_⟩
    · cases f <;> exact hr hsp
    · rw [hoff]
      exact he e (List.mem_range.2 h64) hm
  have issues (store : Bool) (f : VForm) (off : Nat → Int) (hoff : s.vOffset a.toNat f = off)
      (h : ok store (f == .unit) (s.vformAddrs f) off) :
      Host.Outcome.next (s.vmem rx store (if store then 0 else l.toNat) m g a d f) = goes store (f == .unit) off := by
    rw [vmem_go (may store f off hoff h), hoff]
    show Host.Outcome.next _ = Host.Outcome.next _
    rw [hn]
    rfl
  exact ⟨issues false .unit _ rfl, issues false (.strided i.toNat) _ rfl, issues false (.indexed i.toNat) _ hindexed,
    issues true .unit _ rfl, issues true (.strided i.toNat) _ rfl, issues true (.indexed i.toNat) _ hindexed⟩

end Sys2Proof.Proofs

namespace Sys2Proof.Proofs

open Sys2Proof Sys2Proof.Machine Sys2Proof.Laws

/-! ## The events of a vector access (R239) -/

section
variable {s : State} {g : Seg} {off : Nat → Nat} {act : Nat → Bool} {val : VReg} {bad : Nat → Bool} {p : Part} {e n : Nat}

/-- The event of n bytes that begins at element e. -/
def vPart (s : State) (g : Seg) (off : Nat → Nat) (val : VReg) (bad : Nat → Bool) (e n : Nat) : Part :=
  s.newPart g (g.base.toNat + off e) (off e) n ⟨BitVec.ofNat 64 (vBytes val (4 * e) n), bad (e / 2)⟩ (4 * e)

theorem vPart_data (hn : n ≤ 8) : (vPart s g off val bad e n).data = vBytes val (4 * e) n := by
  have h1 : vBytes val (4 * e) n < 256 ^ n := Nat.mod_lt _ (by positivity)
  have h2 : 256 ^ n ≤ 256 ^ 8 := Nat.pow_le_pow_right (by decide) hn
  exact Nat.mod_eq_of_lt (h1.trans_le h2)

/-- An access whose elements stand apart has one event for each active element. -/
theorem mem_vParts_single : p ∈ s.vParts g false off act val bad ↔ ∃ e, e < 64 ∧ act e = true ∧ p = vPart s g off val bad e 4 := by
  rw [State.vParts, List.mem_flatMap]
  refine exists_congr fun e => and_congr List.mem_range ?_
  cases act e <;> simp [vPart]

/-- Whether the odd element e is part of the event of the element before it. -/
def joined (g : Seg) (off : Nat → Nat) (act : Nat → Bool) (e : Nat) : Prop :=
  e % 2 = 1 ∧ act (e - 1) = true ∧ (g.base.toNat + off e - 4) % 8 = 0

/-- Whether the even element e and the next one are one event of 8 bytes. -/
def leads (g : Seg) (off : Nat → Nat) (act : Nat → Bool) (e : Nat) : Prop :=
  e % 2 = 0 ∧ act (e + 1) = true ∧ (g.base.toNat + off e) % 8 = 0

/-- VLD and VST have one event for each doubleword whose elements are both active, and one for each other active element. -/
theorem mem_vParts_pair : p ∈ s.vParts g true off act val bad ↔ ∃ e, e < 64 ∧ act e = true ∧ ¬ joined g off act e
    ∧ (p = vPart s g off val bad e 8 ∧ leads g off act e ∨ p = vPart s g off val bad e 4 ∧ ¬ leads g off act e) := by
  rw [State.vParts, List.mem_flatMap]
  refine exists_congr fun e => and_congr List.mem_range ?_
  dsimp only
  cases h : act e with
  | false => simp
  | true =>
    by_cases hj : joined g off act e
    · have hj' := hj
      simp [joined] at hj'
      simp [hj, hj']
    · by_cases hl : leads g off act e
      · have hl' := hl
        simp [leads] at hl'
        simp [hj, hl, hl', vPart]
      · have hj' := hj
        have hl' := hl
        simp only [joined, leads] at hj' hl'
        simp only [Bool.not_true, Bool.false_eq_true, if_false, Bool.true_and, Bool.and_eq_true, beq_iff_eq, and_assoc, if_neg hj',
          if_neg hl', List.mem_singleton, hj, hl, not_false_eq_true, true_and, and_true, and_false, false_or, vPart]

/-- The event that covers an active element of VLD or VST at consecutive offsets. -/
theorem vParts_pair_covers {b : Nat} (he : e < 64) (ha : act e = true) :
    ∃ p ∈ s.vParts g true (fun e => b + 4 * e) act val bad, p.dst ≤ 4 * e ∧ 4 * e + 4 ≤ p.dst + p.size := by
  by_cases hj : joined g (fun e => b + 4 * e) act e
  · obtain ⟨hodd, hprev, haddr⟩ := hj
    obtain ⟨k, rfl⟩ : ∃ k, e = k + 1 := ⟨e - 1, by omega⟩
    have haddr : (g.base.toNat + (b + 4 * (k + 1)) - 4) % 8 = 0 := haddr
    have hword : (g.base.toNat + (b + 4 * k)) % 8 = 0 := by omega
    have hlead : leads g (fun e => b + 4 * e) act k := ⟨by omega, ha, hword⟩
    have hfirst : ¬ joined g (fun e => b + 4 * e) act k := fun h => by
      obtain ⟨h1, -⟩ := h
      omega
    refine ⟨_, mem_vParts_pair.2 ⟨k, by omega, hprev, hfirst, .inl ⟨rfl, hlead⟩⟩, ?_⟩
    show 4 * k ≤ 4 * (k + 1) ∧ 4 * (k + 1) + 4 ≤ 4 * k + 8
    omega
  · by_cases hl : leads g (fun e => b + 4 * e) act e
    · refine ⟨_, mem_vParts_pair.2 ⟨e, he, ha, hj, .inl ⟨rfl, hl⟩⟩, ?_⟩
      show 4 * e ≤ 4 * e ∧ 4 * e + 4 ≤ 4 * e + 8
      omega
    · exact ⟨_, mem_vParts_pair.2 ⟨e, he, ha, hj, .inr ⟨rfl, hl⟩⟩, le_rfl, le_rfl⟩

end

/-! ## A doubleword from two events (R239, R422) -/

section
variable {w : PWord} {p q : Part}

theorem patchWord_bad (hp : p.size = 4) : (patchWord w p).bad = (w.bad || p.bad) := by
  rw [patchWord, hp, if_neg (by decide)]

theorem patchWord_low (hp : p.size = 4) (hd : p.dst % 8 = 0) :
    (patchWord w p).val = (w.val &&& ~~~(0xFFFFFFFF#64)) ||| (BitVec.ofNat 32 p.res).setWidth 64 := by
  have hm : BitVec.ofNat 64 ((256 ^ 4 - 1) * 2 ^ (8 * 0)) = 0xFFFFFFFF#64 := by decide
  have hr : BitVec.ofNat 64 (p.res % 256 ^ 4 * 2 ^ (8 * 0)) = (BitVec.ofNat 32 p.res).setWidth 64 := BitVec.eq_of_toNat_eq (by simp)
  rw [patchWord, hp, if_neg (by decide), hd, ← hm, ← hr]

theorem patchWord_high (hp : p.size = 4) (hd : p.dst % 8 = 4) :
    (patchWord w p).val = (w.val &&& 0xFFFFFFFF#64) ||| (BitVec.ofNat 32 p.res).setWidth 64 <<< 32 := by
  have hm : ~~~(BitVec.ofNat 64 ((256 ^ 4 - 1) * 2 ^ (8 * 4))) = 0xFFFFFFFF#64 := by decide
  have hr : BitVec.ofNat 64 (p.res % 256 ^ 4 * 2 ^ (8 * 4)) = (BitVec.ofNat 32 p.res).setWidth 64 <<< 32 :=
    BitVec.eq_of_toNat_eq (by simp [Nat.shiftLeft_eq])
  rw [patchWord, hp, if_neg (by decide), hd, ← hm, ← hr]

/-- The low half of one number and the high half of another make up the doubleword of two. -/
theorem halves_eq_append (w : Word) (x y : BitVec 32) :
    (((w &&& ~~~(0xFFFFFFFF#64)) ||| x.setWidth 64) &&& 0xFFFFFFFF#64) ||| y.setWidth 64 <<< 32 = y ++ x := by
  have hmask (i : Nat) : (0xFFFFFFFF#64).getLsbD i = decide (i < 32) := by
    rw [show 0xFFFFFFFF#64 = (BitVec.allOnes 32).setWidth 64 by decide, BitVec.getLsbD_setWidth, BitVec.getLsbD_allOnes]
    by_cases h : i < 32
    · simp [h, h.trans (by decide : 32 < 64)]
    · simp [h]
  refine BitVec.eq_of_getLsbD_eq fun i hi => ?_
  simp only [BitVec.getLsbD_or, BitVec.getLsbD_and, BitVec.getLsbD_not, BitVec.getLsbD_setWidth, BitVec.getLsbD_shiftLeft,
    BitVec.getLsbD_append, hmask]
  by_cases h : i < 32
  · simp [h, hi]
  · simp [h, hi]
    omega

theorem patchAll_pair (hp : p.size = 4) (hq : q.size = 4) :
    patchAll w [p, q] = patchWord (patchWord ⟨w.val, false⟩ p) q := by
  simp [patchAll, hp, hq]

theorem patchAll_single (hp : p.size = 4) : patchAll w [p] = patchWord w p := by
  simp [patchAll, hp]

/-- A doubleword both of whose halves are read is what they read. -/
theorem patchAll_pair_val (hp : p.size = 4) (hq : q.size = 4) (hlow : p.dst % 8 = 0) (hhigh : q.dst % 8 = 4) :
    (patchAll w [p, q]).val.toNat = p.res % 2 ^ 32 + 2 ^ 32 * (q.res % 2 ^ 32) := by
  rw [patchAll_pair hp hq, patchWord_high hq hhigh, patchWord_low hp hlow, halves_eq_append, BitVec.toNat_append,
    ← Nat.shiftLeft_add_eq_or_of_lt (BitVec.isLt _), Nat.shiftLeft_eq, BitVec.toNat_ofNat, BitVec.toNat_ofNat]
  omega

end

/-! ## The lanes (R143-R146) -/

section
variable {s : State} {core : Nat}

theorem vectorServe_idle (h : s.cycle core % 4 ≠ core % 4 ∨ s.cycle core < (s.core core).laned ∨ (s.core core).turned ≤ s.cycle core) :
    s.vectorServe core = s :=
  if_pos (h.imp_right (Or.imp_right fun ht => by simpa [State.turnOver] using ht))

theorem vectorServe_go {k id : Nat} (hc : s.cycle core % 4 = core % 4) (hl : (s.core core).laned ≤ s.cycle core)
    (ht : s.cycle core < (s.core core).turned) (hk : s.laneSlot core = some k) (hid : s.vHead core k = some id) :
    s.vectorServe core = (s.modCore core (fun c => { c with laned := s.cycle core + 1 })).modOut id (fun o => match o.work with
      | .vector v f d _ => { o with work := .vector v f d (some (s.cycle core)) }
      | _ => o) := by
  have hgo : ¬(s.cycle core % 4 ≠ core % 4 ∨ s.cycle core < (s.core core).laned ∨ (!s.turnOver core) = true) := by
    simp [State.turnOver, hc, hl.not_gt, ht]
  rw [State.vectorServe, if_neg hgo, hk]
  simp only [hid] <;> rfl

/-- The owner of a lane cycle is served first (R145). -/
theorem laneSlot_owner (h : (s.vHead core (s.cycle core / 4 % 16)).isSome = true) :
    s.laneSlot core = some (s.cycle core / 4 % 16) := by
  have h0 : (s.cycle core / 4 % 16 + 0) % 16 = s.cycle core / 4 % 16 := Nat.mod_mod _ _
  rw [State.laneSlot, show List.range 16 = 0 :: (List.range 15).map Nat.succ from List.range_succ_eq_map, List.findSome?_cons,
    h0, if_pos ⟨h, .inl rfl⟩]

theorem vectorFill_eq {id d t : Nat} {o : Out} {vals : List PWord} {fl : Flags} (ho : s.out id = some o)
    (hw : o.work = .vector vals fl d (some t)) :
    exec (.vectorFill id) s = .next (if t + d < s.cycle o.core then s.fillOut o vals fl else s) := by
  refine congrArg Host.Outcome.next ?_
  simp only [ho, hw]

theorem vectorFill_unserved {id d : Nat} {o : Out} {vals : List PWord} {fl : Flags} (ho : s.out id = some o)
    (hw : o.work = .vector vals fl d none) : exec (.vectorFill id) s = .next s := by
  refine congrArg Host.Outcome.next ?_
  simp only [ho, hw]

end

/-- Settles O22: the events by the elements that they begin at, a doubleword by its halves, and a lane cycle by its conditions. -/
theorem vectorEvents : Obligations.VectorEvents := by
  refine ⟨fun s g off act val bad b => ⟨⟨fun p hp => ?_, fun e he ha => ?_⟩, fun p hp => ?_, fun e => vParts_pair_covers⟩,
    fun w p q hp hq hlow hhigh => ⟨?_, ?_, patchAll_pair_val hp hq hlow hhigh⟩,
    fun s => ⟨fun core k id hc hl ht hk hid => ?_, fun core h => ?_, fun core => laneSlot_owner,
      fun id o vals fl d t => vectorFill_eq, fun id o vals fl d => vectorFill_unserved⟩⟩
  · obtain ⟨e, he, ha, rfl⟩ := mem_vParts_single.1 hp
    exact ⟨e, he, ha, rfl, rfl, rfl, vPart_data (by decide), rfl⟩
  · exact ⟨_, mem_vParts_single.2 ⟨e, he, ha, rfl⟩, rfl, rfl⟩
  · obtain ⟨e, he, ha, -, ⟨rfl, heven, hnext, haddr⟩ | ⟨rfl, -⟩⟩ := mem_vParts_pair.1 hp
    · exact ⟨e, he, ha, rfl, (Nat.add_assoc ..).symm, vPart_data le_rfl, .inr ⟨rfl, heven, hnext, haddr⟩⟩
    · exact ⟨e, he, ha, rfl, (Nat.add_assoc ..).symm, vPart_data (by decide), .inl rfl⟩
  · rw [patchAll_pair hp hq, patchWord_bad hq, patchWord_bad hp, Bool.false_or]
  · rw [patchAll_single hp, patchWord_bad hp]
  · exact congrArg Host.Outcome.next (vectorServe_go hc hl ht hk hid)
  · exact congrArg Host.Outcome.next (vectorServe_idle h)

end Sys2Proof.Proofs

namespace Sys2Proof.Proofs

open Sys2Proof Sys2Proof.Machine Sys2Proof.Laws

/-! ## Bank agents (R215, R254, R326) -/

/-- The number by which an item of outstanding work is found is its own. -/
theorem id_of_out {s : State} {id : Nat} {o : Out} (h : s.out id = some o) : o.id = id := by
  simpa using List.find?_some h

section
variable {s : State} {q : Nat} {rest : List Nat} {o : Out} {c : BankCmd} {k : Nat}

/-- Whether the agent of a command's bank may make its next access now (R326; log 48). -/
def BankOpen (s : State) (o : Out) (c : BankCmd) : Prop := 4096 ≤ c.bank → s.spareService o.lea (c.bank - 4096) = true

theorem spareService_iff {lea ch : Nat} : s.spareService lea ch = true ↔
    s.serviceSlot lea ch = true ∧ s.serviceTaken ch = false ∧ s.channelQueue lea ch = [] := by
  simp [State.spareService, State.serviceFree, and_assoc]

theorem bankOpen_iff : BankOpen s o c ↔ c.bank < 4096 ∨ (s.serviceSlot o.lea (c.bank - 4096) = true
    ∧ s.serviceTaken (c.bank - 4096) = false ∧ s.channelQueue o.lea (c.bank - 4096) = []) := by
  rw [BankOpen, spareService_iff, imp_iff_not_or, Nat.not_le]

/-- The state in which a command makes its next access: a free bit is used where it names a semaphore, and a service slot at a
pseudo-channel. -/
def servedFrom (s : State) (c : BankCmd) : State :=
  let b : State := if c.sem.isSome then { s with free := s.free + 1 } else s
  if 4096 ≤ c.bank then b.takeService (c.bank - 4096) else b

theorem servedFrom_cores : (servedFrom s c).cores = s.cores := by
  unfold servedFrom
  dsimp only
  split <;> split <;> rfl

theorem servedFrom_leas : (servedFrom s c).leas = s.leas := by
  unfold servedFrom
  dsimp only
  split <;> split <;> rfl

/-- The queue of a bank after its head has performed its last access. -/
def advanced (s : State) (q : Nat) (rest : List Nat) (o : Out) (c : BankCmd) : State :=
  let s1 := (servedFrom s c).bankServe o c
  { s1 with banks := keySet s1.banks q rest }

/-- The command c of item o stands at the head of queue q, and the agent's die works. -/
structure AtHead (s : State) (q : Nat) (rest : List Nat) (o : Out) (c : BankCmd) : Prop where
  queue : keyGet [] s.banks q = o.id :: rest
  item : s.out o.id = some o
  work : o.work = .bank c
  up : s.dieUp (dieOf o.core) = true

theorem bankExecute_closed (h : AtHead s q rest o c) (hc : ¬ BankOpen s o c) : s.bankExecute q = s := by
  have hb : (!s.dieUp (dieOf o.core) || (decide (4096 ≤ c.bank) && !s.spareService o.lea (c.bank - 4096))) = true := by
    simpa [h.up, BankOpen] using hc
  simp only [State.bankExecute, h.queue, h.item, h.work, hb, if_true]

theorem gate_of_open (h : AtHead s q rest o c) (hc : BankOpen s o c) :
    (!s.dieUp (dieOf o.core) || (decide (4096 ≤ c.bank) && !s.spareService o.lea (c.bank - 4096))) = false := by
  simpa [h.up, BankOpen] using hc

theorem bankExecute_early (h : AtHead s q rest o c) (hc : BankOpen s o c) (he : s.earlyDue o c = some k) :
    s.bankExecute q = s.seeEarly o c k := by
  simp only [State.bankExecute, h.queue, h.item, h.work, gate_of_open h hc, he, Bool.false_eq_true, if_false]

theorem bankExecute_more (h : AtHead s q rest o c) (hc : BankOpen s o c) (he : s.earlyDue o c = none) (hu : 1 < c.units) :
    s.bankExecute q = (servedFrom s c).bankServe o c := by
  simp only [State.bankExecute, h.queue, h.item, h.work, gate_of_open h hc, he, Bool.false_eq_true, if_false, hu, if_true]
  rfl

theorem bankExecute_last (h : AtHead s q rest o c) (hc : BankOpen s o c) (he : s.earlyDue o c = none) (hu : c.units ≤ 1)
    (hf : c.fn ≠ 5) : s.bankExecute q = ((advanced s q rest o c).dropOut o.id).bankAdd o c := by
  simp only [State.bankExecute, h.queue, h.item, h.work, gate_of_open h hc, he, Bool.false_eq_true, if_false, hu.not_gt, hf]
  rfl

/-- What NAMO returns is the same for every lea: only a poisoned word's new bytes are bound to one. -/
theorem namoRun_result (l₁ l₂ : Nat) {t : State} {pa : Nat} : (t.namoRun l₁ c pa).2 = (t.namoRun l₂ c pa).2 := by
  unfold State.namoRun
  dsimp only [homeOp]
  by_cases hp : t.mem.isPending (dwordOf pa) = true
  · simp only [hp, if_true]
  · by_cases hb : t.mem.isBad pa = true
    · simp only [hp, hb, if_true, if_false, Bool.false_eq_true]
    · simp only [hp, hb, if_false, Bool.false_eq_true]

theorem bankExecute_namo (h : AtHead s q rest o c) (hc : BankOpen s o c) (he : s.earlyDue o c = none) (hu : c.units ≤ 1)
    (hf : c.fn = 5) {pa : Nat} (hpa : pa = (c.parts.filterMap (fun p : Part => p.pa)).headD 0) :
    s.bankExecute q = ((((advanced s q rest o c).namoRun o.lea c pa).1.spoil o.core o.lea pa c.size).modOut o.id
      (fun x => { x with work := .compute [((advanced s q rest o c).namoRun x.lea c pa).2] none (s.cycle x.core) })) := by
  subst hpa
  simp only [State.bankExecute, h.queue, h.item, h.work, gate_of_open h hc, he, Bool.false_eq_true, if_false, hu.not_gt, if_pos hf]
  refine congrArg (State.modOut _ o.id) (funext fun x => ?_)
  rw [namoRun_result x.lea o.lea]
  rfl

/-- A free bit shows the addition of a command before its last element (R217, R312; log 50). -/
def ShowsEarly (s : State) (o : Out) (c : BankCmd) : Prop :=
  c.early = false ∧ (s.core o.core).lea = some o.lea ∧ (Config.freeWord s.free).getLsbD 0 = true

theorem earlyDue_some (hk : c.sem = some k) (h : ShowsEarly s o c) : s.earlyDue o c = some k := by
  obtain ⟨he, hl, hf⟩ := h
  simp [State.earlyDue, hk, he, hl, hf]

theorem earlyDue_none (h : c.sem = none ∨ ¬ ShowsEarly s o c) : s.earlyDue o c = none := by
  cases hk : c.sem with
  | none => simp [State.earlyDue, hk]
  | some k =>
    have hn : ¬ ShowsEarly s o c := h.resolve_left (by simp [hk])
    simpa [State.earlyDue, hk, ShowsEarly] using hn

end

/-! ## What a command leaves in memory (R220, R254) -/

section
variable {s t : State} {core lea : Nat}

theorem groupCores_congr (hl : t.leas = s.leas) (hc : t.cores = s.cores) (gid : Nat) : t.groupCores lea gid = s.groupCores lea gid := by
  have hcore (k : Nat) : t.core k = s.core k := by rw [State.core, hc]; rfl
  unfold State.groupCores State.running State.dor
  simp only [hcore, lea_of_leas hl]

/-- A write of a thread whose context is in no run leaves every buffer as it was (R220). -/
theorem spoil_alone {a n : Nat} (h : s.groupCores lea (s.core core).dorent.gid = []) : s.spoil core lea a n = s := by
  unfold State.spoil State.dor
  dsimp only
  rw [h]
  exact ite_self _

theorem bankElemStep_leas (c : BankCmd) (pa : Nat) (rows : List Nat) (s : State) (i : Nat) :
    (s.bankElemStep lea c pa rows i).leas = s.leas := by
  unfold State.bankElemStep
  dsimp only
  split <;> rfl

theorem bankElemStep_cores (c : BankCmd) (pa : Nat) (rows : List Nat) (s : State) (i : Nat) :
    (s.bankElemStep lea c pa rows i).cores = s.cores := by
  unfold State.bankElemStep
  dsimp only
  split <;> rfl

theorem bankRun_leas (c : BankCmd) (pa : Nat) (rows els : List Nat) (s : State) : (s.bankRun lea c pa rows els).leas = s.leas :=
  foldl_keeps (fun s i => bankElemStep_leas c pa rows s i) els s

theorem bankRun_cores (c : BankCmd) (pa : Nat) (rows els : List Nat) (s : State) : (s.bankRun lea c pa rows els).cores = s.cores :=
  foldl_keeps (fun s i => bankElemStep_cores c pa rows s i) els s

/-- The last access of a command performs every element left, where no context of its group runs. -/
theorem bankServe_last_mem {o : Out} {c : BankCmd} (hu : c.units ≤ 1) (hf : c.fn ≠ 5)
    (hg : s.groupCores o.lea (s.core o.core).dorent.gid = []) (hl : ∀ e ∈ s.cores, e.2.dorent.late = []) :
    (s.bankServe o c).mem = ({ s with free := s.free + c.left.length }.bankRun o.lea c
      ((c.parts.filterMap (fun p : Part => p.pa)).headD 0) (c.parts.filterMap (fun p : Part => p.pa)).tail c.left).mem := by
  generalize hrun : { s with free := s.free + c.left.length }.bankRun o.lea c ((c.parts.filterMap (fun p : Part => p.pa)).headD 0)
    (c.parts.filterMap (fun p : Part => p.pa)).tail c.left = t
  have hcores : t.cores = s.cores := hrun ▸ bankRun_cores ..
  have hleas : t.leas = s.leas := hrun ▸ bankRun_leas ..
  have hgt : t.groupCores o.lea (t.core o.core).dorent.gid = [] := by
    rw [show t.core o.core = s.core o.core by rw [State.core, hcores]; rfl, groupCores_congr hleas hcores, hg]
  unfold State.bankServe
  dsimp only
  rw [flushFor_idle hl, if_pos hu, if_neg hf, hrun, List.foldl_fixed' fun i => spoil_alone hgt]
  rfl

end

/-! ## The elements of bank commands (R103, R254) -/

section
variable {s : State} {c : BankCmd} {lea pa i : Nat} {rows : List Nat}

/-- Whether nothing that a command reads for element i is poisoned. -/
structure CleanElem (s : State) (c : BankCmd) (pa : Nat) (rows : List Nat) (i : Nat) : Prop where
  dest : s.mem.isBad (pa + bankElem c.fmt * i) = false
  src : c.srcBad.contains (bankElem c.fmt * i / 8) = false
  rows : ∀ r ∈ rows, s.mem.isBad (r + bankElem c.fmt * i) = false
  val : c.val.bad = false

/-- The element that a command leaves where nothing that it reads is poisoned. -/
theorem bankRun_one (h : CleanElem s c pa rows i) : (s.bankRun lea c pa rows [i]).mem =
    s.mem.store (pa + bankElem c.fmt * i) (bankElem c.fmt) (bankElemNew c (s.mem.read (pa + bankElem c.fmt * i) (bankElem c.fmt))
      (vBytes c.src (bankElem c.fmt * i) (bankElem c.fmt))
      (rows.map (fun r => s.mem.read (r + bankElem c.fmt * i) (bankElem c.fmt)))) false := by
  have hrows : rows.any (fun r => s.mem.isBad (r + bankElem c.fmt * i)) = false := by simpa using h.rows
  show (s.bankElemStep lea c pa rows i).mem = _
  unfold State.bankElemStep
  simp only [h.dest, h.src, hrows, h.val, Bool.and_false, Bool.or_false, Bool.false_eq_true, and_false, if_false]

/-- The format of a floating-point command's elements. -/
theorem bankFmt_eq (fmt : Nat) : [fp32, bf16, fp16, fp64].getD fmt fp64 = bankFmt fmt := by
  match fmt with
  | 0 | 1 | 2 | 3 => rfl
  | n + 4 => rfl

/-- A value of a format widened exactly to FP32, or in its own format where that is at least as wide (R103). -/
def widened (f : Fmt) (b : Nat) : Nat :=
  if f = fp32 ∨ f = fp64 then b else (fp32.enc true false .rne (f.dec true false b)).bits

theorem bankWiden_eq {fmt : Nat} (h : fmt < 4) (b : Nat) : bankWiden fmt b = widened (bankFmt fmt) b := by
  interval_cases fmt <;> rfl

theorem bankWide_eq {fmt : Nat} (h : fmt < 4) : (if fmt = 3 then fp64 else fp32) = if bankFmt fmt = fp64 then fp64 else fp32 := by
  interval_cases fmt <;> rfl

/-- NRED's sum of a destination and rows of a floating-point format, in the format in which it is accumulated (R103). -/
def bankSum (f : Fmt) (dest : Nat) (rows : List Nat) : Nat :=
  let g := if f = fp64 then fp64 else fp32
  rows.foldl (fun a y => (fpAdd g false .rne (g.dec true false a) (g.dec true false (widened f y))).bits) (widened f dest)

theorem nredElem_float {fmt dest : Nat} {rows : List Nat} (h : fmt < 4) : nredElem fmt dest rows =
    if fmt = 1 ∨ fmt = 2 then ((bankFmt fmt).enc true false .rne (fp32.dec true false (bankSum (bankFmt fmt) dest rows))).bits
    else bankSum (bankFmt fmt) dest rows := by
  rw [nredElem, if_neg h.not_ge, bankSum]
  simp only [bankWide_eq h, bankWiden_eq h]

end

/-! ### The element that each command leaves -/

section
variable {c : BankCmd} {f : Fmt} {m x : Nat} {ys : List Nat}

theorem bankElemNew_add_int (hc : c.fn = 0) (h : 4 ≤ c.fmt) : bankElemNew c m x ys = (m + x) % 256 ^ bankElem c.fmt := by
  simp only [bankElemNew, hc, if_pos h]

theorem bankElemNew_max_int (hc : c.fn = 1) (h : 4 ≤ c.fmt) : bankElemNew c m x ys =
    if (BitVec.ofNat (8 * bankElem c.fmt) m).toInt < (BitVec.ofNat (8 * bankElem c.fmt) x).toInt then x else m := by
  simp only [bankElemNew, hc, if_pos h, BitVec.slt, decide_eq_true_eq]

theorem bankElemNew_add_float (hf : f = bankFmt c.fmt) (hc : c.fn = 0) (h : c.fmt < 4) :
    bankElemNew c m x ys = (fpAdd f false .rne (f.dec true false m) (f.dec true false x)).bits := by
  simp only [bankElemNew, hf, hc, if_neg h.not_ge]

theorem bankElemNew_max_float (hf : f = bankFmt c.fmt) (hc : c.fn = 1) (h : c.fmt < 4) :
    bankElemNew c m x ys = (f.enc true false .rne ((f.dec true false m).maxOf (f.dec true false x))).bits := by
  simp only [bankElemNew, hf, hc, if_neg h.not_ge]

theorem bankElemNew_axpy (hf : f = bankFmt c.fmt) (hc : c.fn = 3) : bankElemNew c m x ys =
    (fpFma f false .rne (fp32.dec true false c.alpha.toNat) (f.dec true false x) (f.dec true false m)).bits := by
  simp only [bankElemNew, hf, hc]

theorem bankElemNew_red_int (hc : c.fn = 2) (h : 4 ≤ c.fmt) : bankElemNew c m x ys = (m + ys.sum) % 256 ^ bankElem c.fmt := by
  simp only [bankElemNew, hc, nredElem, if_pos h]

/-- A format at least as wide as the accumulator: the sum itself. -/
theorem bankElemNew_red_wide (hf : f = bankFmt c.fmt) (hc : c.fn = 2) (h : c.fmt = 0 ∨ c.fmt = 3) :
    bankElemNew c m x ys = bankSum f m ys := by
  simp only [bankElemNew, hc, nredElem_float (show c.fmt < 4 by omega), if_neg (show ¬(c.fmt = 1 ∨ c.fmt = 2) by omega), hf]

/-- A narrower format: the sum rounded once. -/
theorem bankElemNew_red_narrow (hf : f = bankFmt c.fmt) (hc : c.fn = 2) (h : c.fmt = 1 ∨ c.fmt = 2) :
    bankElemNew c m x ys = (f.enc true false .rne (fp32.dec true false (bankSum f m ys))).bits := by
  simp only [bankElemNew, hc, nredElem_float (show c.fmt < 4 by omega), if_pos h, hf]

theorem bankElemNew_fill (hc : c.fn = 4) : bankElemNew c m x ys = c.val.val.toNat % 256 ^ bankElem c.fmt := by
  simp only [bankElemNew, hc]

end

/-! ## NAMO (R241, R255) -/

/-- NAMO leaves what the atomic of its code leaves, and returns what it returns. -/
theorem namoRun_eq {s : State} {lea pa : Nat} {c : BankCmd} {p : Part} {m : Memory} {r : PWord} (hs : p.size = c.size)
    (hd : p.data = c.val.val.toNat) (hb : p.dataBad = c.val.bad)
    (h : homeOp s.mem false (s.undef (some lea) s.free) (.amo c.op 0) pa p = some (m, r)) :
    (s.namoRun lea c pa).1.mem = m ∧ (s.namoRun lea c pa).2 = r := by
  unfold State.namoRun
  simp only [homeOp, hs, hd, hb] at h ⊢
  rw [h]
  exact ⟨rfl, rfl⟩

/-! ## Fills of the instruction cache (R69, R437) -/

section
variable {s : State} {core : Nat} {f : Fill} {rest : List Fill}

/-- Fills of one lea go as that lea's first. -/
theorem icacheFill_first (hf : (s.core core).fills = f :: rest) (hl : ∀ g ∈ rest, g.lea = f.lea) (hu : s.dieUp (dieOf core) = true) :
    s.icacheFill core = s.fillStep core f := by
  have hleas : ((s.core core).fills.map (fun f => f.lea)).dedup = [f.lea] := by
    have hrep : rest.map (fun f => f.lea) = List.replicate rest.length f.lea :=
      List.eq_replicate_of_mem (by simpa using hl) |>.trans (by rw [List.length_map])
    rw [hf, List.map_cons, hrep, ← List.replicate_succ, List.replicate_dedup (Nat.succ_ne_zero _)]
  have hfind : (s.core core).fills.find? (fun g => g.lea == f.lea) = some f := by
    rw [hf]
    exact List.find?_cons_of_pos (by simp)
  unfold State.icacheFill
  rw [hu, hleas]
  simp only [Bool.not_true, Bool.false_eq_true, if_false, List.foldl_cons, List.foldl_nil, hfind]

/-- A fill that has not begun, whose line is translated: it takes a service slot of its lea where it may. -/
theorem fillStep_begins {e : Gtb} (hf : (s.core core).fills = f :: rest) (hn : f ∉ rest) (hb : f.began = none)
    (he : s.lookUp core f.lea (dieOf core) (64 * f.line) [.x] = .ok e) :
    s.fillStep core f =
      if s.mayServe f.lea (channelOf (e.host (64 * f.line))) (f.since, s.nextId + core, 0) then
        (s.takeService (channelOf (e.host (64 * f.line)))).modCore core (fun c =>
          { c.gtbUse e with fills := { f with began := some (s.now, e.host (64 * f.line)) } :: rest })
      else s := by
  have hmap : (s.core core).fills.map (fun g => if g = f then { f with began := some (s.now, e.host (64 * f.line)) } else g) =
      { f with began := some (s.now, e.host (64 * f.line)) } :: rest := by
    rw [hf, List.map_cons, if_pos rfl]
    refine congrArg _ ((List.map_congr_left fun g hg => ?_).trans (List.map_id _))
    exact if_neg fun (h : g = f) => hn (h ▸ hg)
  unfold State.fillStep
  simp only [hb, he]
  refine if_congr Iff.rfl ?_ rfl
  refine congrArg (State.setCore _ core) ?_
  exact congrArg (fun l : List Fill => { (s.core core).gtbUse e with fills := l }) hmap

/-- The fills that wait behind one that is over. -/
def filled : Nat → List Fill → List Fill
  | _, [] => []
  | now, g :: u => { g with since := now } :: u

theorem dropFill_fills {c : Core} {now : Nat} (hf : c.fills = f :: rest) (hl : ∀ g ∈ rest, g.lea = f.lea) :
    (c.dropFill f now).fills = filled now rest := by
  show nextFill f.lea now (c.fills.erase f) = _
  rw [hf, List.erase_cons_head]
  cases rest with
  | nil => rfl
  | cons g u => exact if_pos (hl g (by simp))

theorem fillStep_waits {b a : Nat} (hb : f.began = some (b, a)) (h : s.now < b + 96) : s.fillStep core f = s := by
  unfold State.fillStep
  simp only [hb, if_neg h.not_ge]

/-- The state after a fill's line is cached. -/
def cached (s : State) (core : Nat) (f : Fill) (a : Nat) : State :=
  (s.modCore core (fun c => c.dropFill f s.now)).modCore core (fun c => c.fillLine (s.readLine f.lea f.line a f.view))

theorem fillStep_ends {b a : Nat} (hb : f.began = some (b, a)) (h : b + 96 ≤ s.now) : s.fillStep core f = cached s core f a := by
  unfold State.fillStep
  simp only [hb, if_pos h]
  rfl

theorem cached_core (a : Nat) : (cached s core f a).core core =
    ((s.core core).dropFill f s.now).fillLine (s.readLine f.lea f.line a f.view) := by
  rw [cached, core_modCore, core_modCore]

/-- No write comes between a view and itself. -/
theorem changed_self (m : Memory) (a n view : Nat) : m.changed a n view view = false := by
  simp [Memory.changed, Memory.logBetween]

/-- The line just cached is what the thread that asked for it reads. -/
theorem codeLine_cached (a : Nat) : (cached s core f a).codeLine core f.lea f.view f.line = some (s.readLine f.lea f.line a f.view) := by
  rw [State.codeLine, cached_core]
  refine List.find?_cons_of_pos ?_
  simp [State.readLine, changed_self]

/-- Any other line is read as before. -/
theorem codeLine_cached_other {a lea view n : Nat} (h : lea ≠ f.lea ∨ n ≠ f.line) :
    (cached s core f a).codeLine core lea view n = s.codeLine core lea view n := by
  have hnot (x : ILine) (hl : x.line = f.line) (hx : x.lea = f.lea) (b : Bool) : (x.line == n && x.lea == lea && b) = false := by
    rcases h with h | h
    · simp [hx, h.symm]
    · simp [hl, h.symm]
  rw [State.codeLine, cached_core]
  show List.find? _ (_ :: List.filter _ (s.core core).icache) = _
  rw [List.find?_cons_of_neg (by rw [hnot _ rfl rfl]; decide), List.find?_filter, State.codeLine]
  refine congrArg (fun p => List.find? p (s.core core).icache) (funext fun x => ?_)
  show decide ((!(x.line == f.line && x.lea == f.lea && x.view == f.view)) = true ∧
    (x.line == n && x.lea == lea && !s.mem.changed x.host 64 (min view x.view) (max view x.view)) = true) = _
  by_cases hx : x.line = f.line ∧ x.lea = f.lea
  · obtain ⟨hl, ha⟩ := hx
    rw [hnot x hl ha]
    simp
  · have hkeep : (x.line == f.line && x.lea == f.lea && x.view == f.view) = false := by
      rw [Bool.and_eq_false_iff]
      exact .inl (by simpa using hx)
    simp only [hkeep, Bool.not_false, true_and, Bool.decide_eq_true]

end

/-! ## What a thread sees of memory's past (R69; log 10) -/

section
variable {m : Memory} {a b n v : Nat} {bad : Bool}

theorem wordAt_now : m.wordAt m.log.length b = m.word (dwordOf b) := by
  simp [Memory.wordAt, Memory.logBetween]

theorem setBad_log : (m.setBad a bad).log = m.log := by
  unfold Memory.setBad
  split <;> rfl

theorem store_log : (m.store a n v bad).log = m.logged a n := by
  unfold Memory.store
  split
  next h => subst h; exact setBad_log
  · split
    · exact setBad_log
    · rfl

/-- A write within one doubleword of HBM logs what the doubleword held. -/
theorem logged_one (ha : a < 2 ^ 44) (hn : 0 < n) (h8 : a % 8 + n ≤ 8) : m.logged a n = (dwordOf a, m.word (dwordOf a)) :: m.log := by
  have hone : (a + n - 1) / 8 - a / 8 + 1 = 1 := by omega
  have hls : ¬ lsOrigin ≤ a := by
    have : lsOrigin = 2 ^ 44 := rfl
    omega
  rw [Memory.logged, if_neg hls, hone]
  rfl

/-- A store within one doubleword leaves every other doubleword. -/
theorem word_store_other (hw : m.wf = true) (h8 : a % 8 + n ≤ 8) (hb : dwordOf b ≠ dwordOf a) :
    (m.store a n v bad).word (dwordOf b) = m.word (dwordOf b) := by
  have hd : dwordOf (dwordOf b) = dwordOf b := by unfold dwordOf; omega
  have hread : (m.store a n v bad).read (dwordOf b) 8 = m.read (dwordOf b) 8 :=
    read_congr 8 fun i h1 h2 => store_other hw (by unfold dwordOf at h1 h2 hb; omega)
  have hbad : (m.store a n v bad).isBad (dwordOf b) = m.isBad (dwordOf b) := by rw [isBad_store hw, hd, if_pos hb]
  rw [Memory.word, hread, hbad]
  rfl

/-- A thread that does not see the last store sees each doubleword as it was before it. -/
theorem wordAt_before_store (hw : m.wf = true) (ha : a < 2 ^ 44) (hn : 0 < n) (h8 : a % 8 + n ≤ 8) :
    (m.store a n v bad).wordAt m.log.length b = m.word (dwordOf b) := by
  have hlog : (m.store a n v bad).logBetween m.log.length (m.store a n v bad).log.length = [(dwordOf a, m.word (dwordOf a))] := by
    rw [Memory.logBetween, store_log, logged_one ha hn h8]
    simp
  rw [Memory.wordAt, hlog]
  by_cases hb : dwordOf b = dwordOf a
  · simp [hb]
  · simpa [Ne.symm hb] using word_store_other hw h8 hb

end

/-- Settles O15: the agent's turns by the conditions at the head of its queue, each element by its command, a fill by its two slots. -/
theorem bankCommandsAndFills : Obligations.BankCommandsAndFills := by
  refine ⟨?agent, ?elements, ?fills, fun m a b n v bad hw ha hn h8 => ⟨wordAt_now, wordAt_before_store hw ha hn h8⟩⟩
  case agent =>
    intro s q id rest o c hq ho hw hup ch pa rows b u s1 s2 open_ shows turn
    obtain rfl := id_of_out ho
    have h : AtHead s q rest o c := ⟨hq, ho, hw, hup⟩
    have next {t : State} (e : s.bankExecute q = t) : exec (.bankCommandExecute q) s = .next t := congrArg Host.Outcome.next e
    have hopen : open_ → BankOpen s o c := bankOpen_iff.2
    have last (ht : turn) (hu : c.units ≤ 1) (hf : c.fn ≠ 5) : s.bankExecute q = (s2.dropOut o.id).bankAdd o c :=
      bankExecute_last h (hopen ht.1) (earlyDue_none ht.2) hu hf
    refine ⟨fun hc => next (bankExecute_closed h (mt bankOpen_iff.1 hc)),
      fun k hc hk hs => next (bankExecute_early h (hopen hc) (earlyDue_some hk hs)),
      fun ⟨hc, he⟩ hu => next (bankExecute_more h (hopen hc) (earlyDue_none he) hu),
      fun ht hu => ⟨fun hf hs => ?_, fun k hf hs => ?_, fun hf => ?_, fun hf hg hl => ?_⟩⟩
    · refine next ((last ht hu hf).trans ?_)
      simp only [State.bankAdd, hs]
    · refine next ((last ht hu hf).trans ?_)
      simp only [State.bankAdd, hs]
    · obtain ⟨hc, he⟩ := ht
      exact next (bankExecute_namo h (hopen hc) (earlyDue_none he) hu hf rfl)
    · have hcores : u.cores = s.cores := servedFrom_cores
      have hleas : u.leas = s.leas := servedFrom_leas
      have hcore : u.core o.core = s.core o.core := by rw [State.core, hcores]; rfl
      refine bankServe_last_mem hu hf ?_ (hcores ▸ hl)
      rw [hcore, groupCores_congr hleas hcores, hg]
  case elements =>
    intro s lea c pa i rows hd hs hr hv _ n f dec m x ys leaves wide g acc
    have hf : f = bankFmt c.fmt := bankFmt_eq c.fmt
    have run {v : Nat} (e : bankElemNew c m x ys = v) : leaves v := e ▸ bankRun_one (lea := lea) ⟨hd, hs, hr, hv⟩
    exact ⟨fun _ h => ⟨fun hc => run (bankElemNew_add_int hc h), fun hc => run (bankElemNew_max_int hc h)⟩,
      fun _ h => ⟨fun hc => run (bankElemNew_add_float hf hc h), fun hc => run (bankElemNew_max_float hf hc h),
        fun hc => run (bankElemNew_axpy hf hc)⟩,
      fun hc h => run (bankElemNew_red_int hc h), fun hc h => run (bankElemNew_red_wide hf hc h),
      fun hc h => run (bankElemNew_red_narrow hf hc h), fun _ hc => run (bankElemNew_fill hc),
      fun p mem r h1 h2 h3 => namoRun_eq h1 h2 (h3.trans hv.symm)⟩
  case fills =>
    intro s core f rest hf hl hn hup
    have next {t : State} (e : s.fillStep core f = t) : exec (.icacheFill core) s = .next t :=
      congrArg Host.Outcome.next ((icacheFill_first hf hl hup).trans e)
    refine ⟨fun e hb he => next (fillStep_begins hf hn hb he), fun b a hb => ⟨fun h => next (fillStep_waits hb h),
      fun h => ⟨cached s core f a, next (fillStep_ends hb h), ?_, codeLine_cached a, fun lea view n => codeLine_cached_other, rfl⟩⟩⟩
    rw [cached_core]
    refine (dropFill_fills hf hl).trans ?_
    cases rest <;> rfl

end Sys2Proof.Proofs

namespace Sys2Proof.Proofs

open Sys2Proof Sys2Proof.Machine Sys2Proof.Laws

/-! ## What a unit's writes change in a core -/

/-- The same slot acts, and every core is as it was but for its slots and its Dorent context. -/
structure UnitsKept (s t : State) : Prop where
  cur : t.cur = s.cur
  core : ∀ c, ∃ d l, t.core c = { s.core c with dorent := d, slots := l }

section
variable {s t u : State}

theorem UnitsKept.refl (s : State) : UnitsKept s s := ⟨rfl, fun _ => ⟨_, _, rfl⟩⟩

theorem UnitsKept.trans (h1 : UnitsKept s t) (h2 : UnitsKept t u) : UnitsKept s u := by
  refine ⟨h2.cur.trans h1.cur, fun c => ?_⟩
  obtain ⟨d1, l1, e1⟩ := h1.core c
  obtain ⟨d2, l2, e2⟩ := h2.core c
  exact ⟨d2, l2, e2.trans (by rw [e1])⟩

/-- What is no part of a core's slots or its context is as it was. -/
theorem UnitsKept.view {α : Type} {g : Core → α} (h : UnitsKept s t) (hg : ∀ x d l, g { x with dorent := d, slots := l } = g x)
    (c : Nat) : g (t.core c) = g (s.core c) := by
  obtain ⟨d, l, e⟩ := h.core c
  rw [e, hg]

theorem UnitsKept.engine (h : UnitsKept s t) (c : Nat) : (t.core c).engine = (s.core c).engine :=
  h.view (g := Core.engine) (fun _ _ _ => rfl) c

theorem unitsKept_of_cores (hc : t.cur = s.cur) (h : t.cores = s.cores) : UnitsKept s t :=
  ⟨hc, fun c => ⟨_, _, by rw [State.core, h]; rfl⟩⟩

theorem unitsKept_modCore (k : Nat) (f : Core → Core) (hf : ∀ x, ∃ d l, f x = { x with dorent := d, slots := l }) :
    UnitsKept s (s.modCore k f) := by
  refine ⟨rfl, fun c => ?_⟩
  by_cases h : c = k
  · rw [h, core_modCore]
    exact hf _
  · rw [core_modCore_other s f h]
    exact ⟨_, _, rfl⟩

theorem unitsKept_modSlot (k n : Nat) (f : Slot → Slot) : UnitsKept s (s.modSlot k n f) :=
  unitsKept_modCore k (fun x => x.modSlot n f) fun _ => ⟨_, _, rfl⟩

theorem unitsKept_modDor (k : Nat) (f : Dorent → Dorent) : UnitsKept s (s.modDor k f) :=
  unitsKept_modCore k (fun x => { x with dorent := f x.dorent }) fun _ => ⟨_, _, rfl⟩

theorem unitsKept_foldl {α : Type} {f : State → α → State} (hf : ∀ s a, UnitsKept s (f s a)) (l : List α) (s : State) :
    UnitsKept s (l.foldl f s) :=
  List.foldlRecOn (motive := UnitsKept s) l f (.refl s) fun t ht a _ => ht.trans (hf t a)

theorem unitsKept_bufFree (core : Nat) (b : DBuf) (o n : Nat) : UnitsKept s (s.bufFree core b o n) := by
  refine unitsKept_foldl (fun s i => ?_) _ s
  split
  · exact unitsKept_of_cores rfl rfl
  · exact .refl s

theorem unitsKept_spoil (core lea a n : Nat) : UnitsKept s (s.spoil core lea a n) := by
  have hat (k : Nat) (js : List Nat) (s : State) : UnitsKept s (s.spoilAt k js) := by
    refine unitsKept_foldl (fun s j => ?_) js s
    split
    · exact (unitsKept_modDor ..).trans (unitsKept_bufFree ..)
    · exact .refl s
  unfold State.spoil
  dsimp only
  split
  · exact .refl s
  · split
    · exact .refl s
    · exact unitsKept_foldl (fun _ _ => hat ..) _ s

theorem unitsKept_wakeReaders (a : Nat) : UnitsKept s (s.wakeReaders a) := by
  unfold State.wakeReaders
  split
  · exact unitsKept_modCore _ _ fun _ => ⟨_, _, rfl⟩
  · exact .refl s

theorem unitsKept_tryPart {id i : Nat} (h : s.tryPart id i = some t) : UnitsKept s t := by
  unfold State.tryPart at h
  repeat' split at h
  all_goals cases h
  · refine UnitsKept.trans ?_ (unitsKept_spoil ..)
    exact ⟨rfl, (unitsKept_modSlot (s := s) _ _ _).core⟩
  · exact ⟨rfl, (unitsKept_modSlot (s := s) _ _ _).core⟩

theorem unitsKept_retryFirst : ∀ {l : List (Nat × Nat × Nat)}, s.retryFirst l = some t → UnitsKept s t
  | [], h => by cases h
  | (_, id, i) :: l, h => by
    rw [State.retryFirst] at h
    split at h
    next u hu =>
      cases h
      exact unitsKept_tryPart hu
    · exact unitsKept_retryFirst h

theorem unitsKept_settle : ∀ (n : Nat) (ws : List Nat) (s : State), UnitsKept s (State.settle n ws s)
  | 0, _, s => .refl s
  | _ + 1, [], s => .refl s
  | n + 1, w :: ws, s => by
    rw [State.settle]
    refine (unitsKept_wakeReaders w).trans ?_
    dsimp only
    split
    · refine UnitsKept.trans ?_ (unitsKept_settle n _ _)
      refine UnitsKept.trans ?_ (unitsKept_modSlot ..)
      exact unitsKept_of_cores rfl rfl
    · split
      next u hu => exact (unitsKept_retryFirst hu).trans (unitsKept_settle n _ u)
      · exact unitsKept_settle n ws _

theorem unitsKept_unitStore (a n v : Nat) (bad : Bool) : UnitsKept s (s.unitStore a n v bad) := by
  unfold State.unitStore
  dsimp only
  split
  · refine UnitsKept.trans ?_ (unitsKept_settle _ _ _)
    exact unitsKept_of_cores rfl rfl
  · exact unitsKept_of_cores rfl rfl

theorem unitsKept_unitWrites : ∀ (n : Nat) (l : List (Nat × Byte × Bool)) (s : State), UnitsKept s (s.unitWrites n l)
  | 0, _, s => .refl s
  | _ + 1, [], s => .refl s
  | n + 1, (x, v) :: l, s => by
    unfold State.unitWrites
    dsimp only
    split
    · exact (unitsKept_unitStore ..).trans (unitsKept_unitWrites n _ _)
    · exact (unitsKept_unitStore ..).trans (unitsKept_unitWrites n _ _)

theorem unitsKept_flushFor (core lea : Nat) : UnitsKept s (s.flushFor core lea) := by
  refine unitsKept_foldl (fun s e => ?_) _ s
  unfold State.flushLate
  dsimp only
  split
  · exact .refl s
  · exact (unitsKept_modDor ..).trans (unitsKept_unitWrites ..)

/-! ### An engine's writes (R264) -/

theorem unitsKept_moveElem (core lea : Nat) (a : TActive) (x : Elem) : UnitsKept s (s.moveElem core lea a x) := by
  have hput (d n v : Nat) (bad : Bool) : UnitsKept s ((s.unitStore d n v bad).spoil core lea d n) :=
    (unitsKept_unitStore ..).trans (unitsKept_spoil ..)
  unfold State.moveElem
  dsimp only
  split
  · split
    · exact hput ..
    · split
      · exact hput ..
      · exact hput ..
      · exact .refl s
  · exact .refl s

theorem unitsKept_moveRanks (core lea : Nat) (a : TActive) (l : List Nat) : UnitsKept s (s.moveRanks core lea a l) :=
  unitsKept_foldl (fun _ _ => unitsKept_moveElem ..) l s

theorem unitsKept_moveSome (core lea : Nat) (a : TActive) : UnitsKept s (s.moveSome core lea a) := by
  refine UnitsKept.trans ?_ (unitsKept_moveRanks ..)
  exact (unitsKept_flushFor core lea).trans (unitsKept_of_cores rfl rfl)

end

/-! ## The status word (R267) -/

section
variable {c o m h p v : Bool} {so ao off : Nat}

/-- The fields of a status word: CANC, OOB, armed, held, parked, running, the owners of the two sets and the offset. -/
def statusNat (c o m h p v : Bool) (so ao off : Nat) : Nat :=
  c.toNat * 2 ^ 61 + o.toNat * 2 ^ 60 + m.toNat * 2 ^ 59 + h.toNat * 2 ^ 58 + p.toNat * 2 ^ 57 + v.toNat * 2 ^ 56 + so * 2 ^ 52
    + ao * 2 ^ 48 + off

/-- The status of an engine, by its fields. -/
theorem status_eq (e : Engine) : e.status = BitVec.ofNat 64 (statusNat e.canc e.oob (e.shadow.any fun h => h.armed.isSome)
    e.shadow.isSome (e.active.any fun a => a.parked.isSome) e.active.isSome (e.shadow.elim 0 fun h => h.owner)
    (e.active.elim 0 fun a => a.owner) (e.active.elim e.kept fun a => a.offset)) := by
  have hbit (b : Bool) (k : Nat) : (if b then 2 ^ k else 0) = b.toNat * 2 ^ k := by cases b <;> simp
  refine congrArg (BitVec.ofNat 64) ?_
  simp only [hbit, statusNat]
  cases e.shadow <;> cases e.active <;>
    simp only [Option.any_none, Option.any_some, Option.isSome_none, Option.isSome_some, Option.elim_none, Option.elim_some,
      Bool.toNat_true, Bool.toNat_false] <;> omega

theorem status_bit {n i : Nat} {b : Bool} (hi : i < 64) (h : n / 2 ^ i % 2 = b.toNat) : (BitVec.ofNat 64 n).getLsbD i = b := by
  rw [BitVec.getLsbD_ofNat, Nat.testBit_eq_decide_div_mod_eq, h, decide_eq_true hi]
  cases b <;> rfl

theorem status_field {n i k : Nat} (h64 : n < 2 ^ 64) : ((BitVec.ofNat 64 n).extractLsb' i k).toNat = n / 2 ^ i % 2 ^ k := by
  rw [BitVec.extractLsb'_toNat, BitVec.toNat_ofNat, Nat.mod_eq_of_lt h64, Nat.shiftRight_eq_div_pow]

/-- What a status word's fields read as, where each fits its place. -/
theorem statusNat_fields (hs : so < 16) (ha : ao < 16) (ho : off < 2 ^ 40) :
    let n := statusNat c o m h p v so ao off
    n / 2 ^ 62 = 0 ∧ n / 2 ^ 61 % 2 = c.toNat ∧ n / 2 ^ 60 % 2 = o.toNat ∧ n / 2 ^ 59 % 2 = m.toNat ∧ n / 2 ^ 58 % 2 = h.toNat
    ∧ n / 2 ^ 57 % 2 = p.toNat ∧ n / 2 ^ 56 % 2 = v.toNat ∧ n / 2 ^ 52 % 2 ^ 4 = so ∧ n / 2 ^ 48 % 2 ^ 4 = ao
    ∧ n / 2 ^ 40 % 2 ^ 8 = 0 ∧ n % 2 ^ 40 = off := by
  have hc := Bool.toNat_le c
  have ho' := Bool.toNat_le o
  have hm := Bool.toNat_le m
  have hh := Bool.toNat_le h
  have hp := Bool.toNat_le p
  have hv := Bool.toNat_le v
  simp only [statusNat]
  omega

end

/-- The fields of an engine's status, where its owners are slots and its offset is below 2^40. -/
theorem status_fields {e : Engine} (hs : ∀ h, e.shadow = some h → h.owner < 16)
    (ha : ∀ a, e.active = some a → a.owner < 16 ∧ a.offset < 2 ^ 40) (hk : e.kept < 2 ^ 40) :
    ∃ n, e.status = BitVec.ofNat 64 n ∧ n < 2 ^ 64 ∧ n / 2 ^ 62 = 0 ∧ n / 2 ^ 61 % 2 = e.canc.toNat ∧ n / 2 ^ 60 % 2 = e.oob.toNat
      ∧ n / 2 ^ 59 % 2 = (e.shadow.any fun h => h.armed.isSome).toNat ∧ n / 2 ^ 58 % 2 = e.shadow.isSome.toNat
      ∧ n / 2 ^ 57 % 2 = (e.active.any fun a => a.parked.isSome).toNat ∧ n / 2 ^ 56 % 2 = e.active.isSome.toNat
      ∧ n / 2 ^ 52 % 2 ^ 4 = (e.shadow.elim 0 fun h => h.owner) ∧ n / 2 ^ 48 % 2 ^ 4 = (e.active.elim 0 fun a => a.owner)
      ∧ n / 2 ^ 40 % 2 ^ 8 = 0 ∧ n % 2 ^ 40 = (e.active.elim e.kept fun a => a.offset) := by
  have hso : (e.shadow.elim 0 fun h => h.owner) < 16 := by
    cases hsh : e.shadow with
    | none => decide
    | some h => exact hs h hsh
  have hao : (e.active.elim 0 fun a => a.owner) < 16 := by
    cases hac : e.active with
    | none => decide
    | some a => exact (ha a hac).1
  have hoff : (e.active.elim e.kept fun a => a.offset) < 2 ^ 40 := by
    cases hac : e.active with
    | none => exact hk
    | some a => exact (ha a hac).2
  have hfields := statusNat_fields (c := e.canc) (o := e.oob) (m := e.shadow.any fun h => h.armed.isSome) (h := e.shadow.isSome)
    (p := e.active.any fun a => a.parked.isSome) (v := e.active.isSome) hso hao hoff
  exact ⟨_, status_eq e, by omega, hfields⟩

/-! ## EGO and ECAN (R263, R266) -/

section
variable {s : State} {e : Engine}

/-- The bits of EGO. -/
theorem egoBits : engineBits 4 0 0 0 0 = rrBits 0x13 0 0 4 0 0 0 := by decide

/-- Whether the acting thread's ECAN cancels the commands of a slot (R266). -/
def cancels (s : State) (k : Nat) : Bool := s.in15 || k == s.cur.2

theorem cancels_iff {k : Nat} : cancels s k = true ↔ s.in15 = true ∨ k = s.cur.2 := by simp [cancels]

/-- The state in which the shadow set is empty where ECAN cancels its command. -/
def emptied (s : State) : State :=
  s.modEngine s.cur.1 (fun e => { e with shadow := e.shadow.filter (fun h => !cancels s h.owner) })

/-- The state after ECAN's cancellations. -/
def canceled (s : State) : State :=
  match (emptied s).myCore.engine.active with
  | some a => if cancels s a.owner then (emptied s).cancelActive s.cur.1 else emptied s
  | none => emptied s

theorem ecan_go (h : s.myCore.lea = s.me.lea) : exec .ecan s = .next ((canceled s).issue 4) :=
  congrArg Host.Outcome.next (withPool_go h)

theorem modEngine_engine (s : State) (core : Nat) (f : Engine → Engine) :
    ((s.modEngine core f).core core).engine = f (s.core core).engine :=
  congrArg Core.engine (core_modCore ..)

theorem emptied_engine : (emptied s).myCore.engine =
    { s.myCore.engine with shadow := s.myCore.engine.shadow.filter (fun h => !cancels s h.owner) } := modEngine_engine ..

/-- A core's engine after its active command was cancelled. -/
theorem cancelActive_engine {core : Nat} {a : TActive} (h : (s.core core).engine.active = some a) :
    ((s.cancelActive core).core core).engine = (s.core core).engine.leave true a.oob := by
  have hmoved (l : Nat) : ((s.moveSome core l a).core core).engine = (s.core core).engine := (unitsKept_moveSome ..).engine core
  unfold State.cancelActive
  rw [h]
  dsimp only
  split
  next b l hb _ =>
    cases hb
    rw [modEngine_engine]
    split
    · rfl
    · rw [hmoved]
  next b hb _ =>
    cases hb
    exact modEngine_engine ..
  next hn => cases hn

theorem cancelActive_cur {core : Nat} : (s.cancelActive core).cur = s.cur := by
  unfold State.cancelActive
  split
  · dsimp only
    split
    · rfl
    · exact (unitsKept_moveSome ..).cur
  · rfl
  · rfl

theorem canceled_cur : (canceled s).cur = s.cur := by
  unfold canceled
  split
  · split
    · exact cancelActive_cur
    · rfl
  · rfl

/-- ECAN leaves the owner's engine with its cancellations made. -/
theorem canceled_engine : (canceled s).myCore.engine = match s.myCore.engine.active with
    | some a => if cancels s a.owner then (emptied s).myCore.engine.leave true a.oob else (emptied s).myCore.engine
    | none => (emptied s).myCore.engine := by
  have hactive : (emptied s).myCore.engine.active = s.myCore.engine.active := by rw [emptied_engine]
  rw [State.myCore, canceled_cur, canceled, hactive]
  split
  next a ha =>
    split
    · exact cancelActive_engine (hactive.trans ha)
    · rfl
  · rfl

theorem issue_engine (n : Nat) : (s.issue n).myCore.engine = s.myCore.engine :=
  (unitsKept_modSlot (s := s) _ _ _).engine s.cur.1

end

/-! ## The running command (R264, R326) -/

section
variable {s : State} {core l : Nat} {a : TActive} {w : List Elem} {x : Elem}

theorem start_armed {e : Engine} {h : TShadow} {n : Nat × Nat} (hs : e.shadow = some h) (ha : e.active = none)
    (hn : h.armed = some n) : e.start =
      { e with shadow := none, active := some ⟨h.owner, h.cmd, 0, n, none, [], none, false⟩, kept := 0 } := by
  simp only [Engine.start, hs, ha, hn]

theorem engineRun_waits (ha : (s.core core).engine.active = some a) (he : s.earlierDone a.edge.1 a.edge.2 false = false) :
    s.engineRun core = none := by
  unfold State.engineRun
  rw [ha]
  split
  next b k hb _ =>
    cases hb
    rw [he, Bool.not_false, Bool.or_true, if_pos rfl]
  · rfl

/-- A command that runs is the active one of the lea that holds the core. -/
theorem engineRun_some (h : s.engineRun core = some (a, l)) : (s.core core).engine.active = some a ∧ (s.core core).lea = some l := by
  unfold State.engineRun at h
  split at h
  next b k hb hk =>
    split at h
    · cases h
    · cases h
      exact ⟨hb, hk⟩
  · cases h

theorem windowCommit_eq (h : s.engineRun core = some (a, l)) (hw : s.windowHeld core l a (s.window core l a) = none) :
    exec (.engineWindowCommit core) s = .next (
      if a.rest.isEmpty then s.commitWindow core l a (s.window core l a)
      else if !(s.ranksServed core l a (s.ranksReady core l a)).isEmpty then
        s.writeSome core l a (s.ranksServed core l a (s.ranksReady core l a))
      else if (s.ranksReady core l a).isEmpty then s
      else s.windowBegin core l a (s.ranksReady core l a)) := by
  refine congrArg Host.Outcome.next ?_
  simp only [h, hw, Option.isSome_none, Bool.false_eq_true, if_false]

/-- A window's accesses of HBM begun for some ranks: each in a service slot that no access waits for (R326; log 48). -/
theorem windowBegin_spec (rs : List Nat) : ∃ flow, (s.windowBegin core l a rs).mem = s.mem ∧ a.flow ⊆ flow
    ∧ ((s.windowBegin core l a rs).core core).engine = { (s.core core).engine with active := some { a with flow := flow } }
    ∧ ∀ x ∈ flow, x ∈ a.flow ∨ (x.2 = s.now ∧ s.spareService l (channelOf x.1) = true
        ∧ channelOf x.1 ∈ (s.windowBegin core l a rs).served ∧ ∃ r ∈ rs, x.1 ∈ s.rankUnits core l a r) := by
  obtain ⟨sv, hstate, -, hflow, hnew⟩ := beginUnits_spec (lea := l) (rs.flatMap (s.rankUnits core l a)) s a.flow
  have hbegin : s.windowBegin core l a rs = { s with served := sv }.modEngine core (fun e =>
      { e with active := some { a with flow := (s.beginUnits l a.flow (rs.flatMap (s.rankUnits core l a))).2 } }) := by
    rw [← hstate]
    rfl
  refine ⟨_, hbegin ▸ rfl, hflow, hbegin ▸ modEngine_engine .., fun x hx => (hnew x hx).imp_right fun ⟨ht, hs, hc, hl⟩ =>
    ⟨ht, hs, hbegin ▸ hc, List.mem_flatMap.1 hl⟩⟩

theorem writeSome_active (rs : List Nat) : ((s.writeSome core l a rs).core core).engine.active =
    some { a with left := some (a.rest.filter (fun r => !(s.pickSome rs).contains r)) } :=
  congrArg Engine.active (modEngine_engine ..)

/-! ### One element -/

theorem elemHome_some {d : Nat} (h : s.elemHome core l a x = some d) :
    x.dst.map (fun y => s.placeOf core a.owner l a.cmd.dstSeg.space (dieOf core) y [.w]) = some (.at d) := by
  unfold State.elemHome at h
  split at h
  next hd =>
    cases h
    exact hd
  · cases h

/-- What a unit writes to a full word that no running collective names (R26, R220). -/
theorem put_full {d n v : Nat} {bad : Bool} (hf : s.mem.isFull (dwordOf d) = true)
    (hi : (s.core core).lea ≠ some l ∨ (s.dor core).state ≠ .running) :
    ((s.unitStore d n v bad).spoil core l d n).mem = (s.mem.store d n v bad).noteWriter none (dwordOf d) := by
  rw [unitStore_full hf]
  exact congrArg State.mem (if_pos hi)

/-- The element of an engine's command that is written: TFILL's value, 0, or the source's. -/
theorem moveElem_eq {d : Nat} (h : s.elemHome core l a x = some d) : s.moveElem core l a x =
    if a.cmd.kind = 3 then
      (s.unitStore d a.cmd.dst.esz (a.cmd.fill.val.toNat % 256 ^ a.cmd.dst.esz) a.cmd.fill.bad).spoil core l d a.cmd.dst.esz
    else match x.src.map (fun y => s.placeOf core a.owner l a.cmd.srcSeg.space (dieOf core) y [.r]) with
      | none => (s.unitStore d a.cmd.dst.esz 0 false).spoil core l d a.cmd.dst.esz
      | some (.at y) => (s.unitStore d a.cmd.dst.esz (s.mem.read y a.cmd.dst.esz) (s.mem.isBad y)).spoil core l d a.cmd.dst.esz
      | some _ => s := by
  unfold State.moveElem
  rw [elemHome_some h] <;> rfl

/-! ### A window's end (R264) -/

theorem addSem_engine (c : Core) (k n : Nat) : (c.addSem l k n).engine = c.engine := by
  unfold Core.addSem
  split <;> rfl

theorem commitWindow_engine : ((s.commitWindow core l a w).core core).engine =
    if a.windowEnd = a.cmd.dst.bytes then (s.core core).engine.leave false (a.oob || w.any (fun e => e.outside a.cmd.kind))
    else { (s.core core).engine with
      active := some { a with offset := a.windowEnd, left := none, flow := [], oob := a.oob || w.any (fun e => e.outside a.cmd.kind) } } := by
  have hpages : ((s.useWindow core l a w).core core).engine = (s.core core).engine :=
    (view_usePages (g := Core.engine) (fun _ _ => rfl) ..).trans (view_usePages (g := Core.engine) (fun _ _ => rfl) ..)
  unfold State.commitWindow
  dsimp only
  split
  · rw [State.addSem, core_modCore, addSem_engine, modEngine_engine, hpages]
  · rw [modEngine_engine, hpages]

theorem commitWindow_sem {k : Nat} (hl : (s.core core).lea = some l) (hk : a.cmd.sem = some k) :
    ((s.commitWindow core l a w).core core).sem k = ((s.core core).sem k).add (a.windowEnd - a.offset) := by
  have hpages {α : Type} {g : Core → α} (hg : ∀ x e, g (Core.gtbUse x e) = g x) :
      g ((s.useWindow core l a w).core core) = g (s.core core) := (view_usePages hg ..).trans (view_usePages hg ..)
  have hlea := (hpages (g := Core.lea) fun _ _ => rfl).trans hl
  have hsem := hpages (g := fun c => c.sem k) fun _ _ => rfl
  unfold State.commitWindow
  simp only [hk]
  rw [State.addSem, core_modCore, State.modEngine, core_modCore, Core.addSem, if_pos hlea, sem_addNow_same]
  exact congrArg (fun x : Sem => x.add _) hsem

/-! ### Parks, restarts and errors (R264, R404, R405) -/

theorem windowCommit_held {y : Place × Nat} (h : s.engineRun core = some (a, l))
    (hw : s.windowHeld core l a (s.window core l a) = some y) : exec (.engineWindowCommit core) s = .next s := by
  refine congrArg Host.Outcome.next ?_
  simp only [h, hw, Option.isSome_some, if_true]

theorem enginePark_free (h : s.engineRun core = some (a, l)) (hw : s.windowHeld core l a (s.window core l a) = none) :
    exec (.enginePark core) s = .next s := by
  refine congrArg Host.Outcome.next ?_
  simp only [h, hw]

theorem enginePark_page {f off : Nat} (h : s.engineRun core = some (a, l))
    (hw : s.windowHeld core l a (s.window core l a) = some (.page f, off)) :
    exec (.enginePark core) s = .next (((s.moveSome core l a).modEngine core (fun e =>
      { e with active := some { a with left := none, flow := [], parked := some (some f) } })).logPage l f) := by
  refine congrArg Host.Outcome.next ?_
  simp only [h, hw]

theorem engineRestart_resident {f : Nat} (ha : (s.core core).engine.active = some a) (hl : (s.core core).lea = some l)
    (hp : a.parked = some (some f)) (hr : s.resident l f = true) : exec (.engineRestart core) s =
      .next (s.modEngine core (fun e => { e with active := some { a with parked := none } })) := by
  refine congrArg Host.Outcome.next ?_
  simp only [ha, hl, hp, hr, if_true]

theorem engineInternalError_active (ha : (s.core core).engine.active = some a) : exec (.engineInternalError core) s =
    .next ((s.cancelActive core).headRecord core (s.core core).lea a.owner .engine 2 2 0x59 a.cmd.pc (BitVec.ofNat 64 a.offset)
      (BitVec.ofNat 64 a.offset)) := by
  refine congrArg Host.Outcome.next ?_
  simp only [ha]

end

/-! ## The three instructions (R263, R266, R267, R381) -/

section
variable {s : State}

theorem ego_arms {h : TShadow} (hp : s.myCore.lea = s.me.lea) (hs : s.myCore.engine.shadow = some h) (ho : h.owner = s.cur.2)
    (ha : h.armed = none) : exec .ego s = .next ((s.modMyCore (fun x =>
      { x with engine := { x.engine with shadow := some { h with armed := some (s.me.tid, s.nextId) } } })).issue 4) := by
  refine congrArg Host.Outcome.next ((withPool_go hp).trans ?_)
  simp only [hs, ho, ha, and_self, if_true]

theorem ego_empty (hp : s.myCore.lea = s.me.lea) (hs : s.myCore.engine.shadow = none) :
    exec .ego s = .next (s.raise 4 0x28 (rrBits 0x13 0 0 4 0 0 0)) := by
  refine congrArg Host.Outcome.next ((withPool_go hp).trans ?_)
  simp only [hs, egoBits]

theorem ego_other {h : TShadow} (hp : s.myCore.lea = s.me.lea) (hs : s.myCore.engine.shadow = some h)
    (hn : h.owner ≠ s.cur.2 ∨ h.armed ≠ none) : exec .ego s = .next (s.raise 4 0x28 (rrBits 0x13 0 0 4 0 0 0)) := by
  refine congrArg Host.Outcome.next ((withPool_go hp).trans ?_)
  simp only [hs, egoBits]
  exact if_neg (not_and_or.2 hn)

theorem estat_go {d : BitVec 5} (hp : s.myCore.lea = s.me.lea) (hr : s.Reads [] [d.toNat]) :
    exec (.estat d) s = .next (s.setW 4 d.toNat false s.myCore.engine.status) :=
  congrArg Host.Outcome.next ((withOperands_go (by exact hr)).trans (withPool_go hp))

theorem estat_parks {d : BitVec 5} (hp : s.myCore.lea ≠ s.me.lea) (hr : s.Reads [] [d.toNat]) :
    exec (.estat d) s = .next (s.park .pool) :=
  congrArg Host.Outcome.next ((withOperands_go (by exact hr)).trans (if_neg hp))

/-- ECAN empties the shadow set where the thread cancels its command. -/
theorem canceled_shadow : (canceled s).myCore.engine.shadow = s.myCore.engine.shadow.filter (fun h => !cancels s h.owner) := by
  rw [canceled_engine, emptied_engine]
  split
  · split <;> rfl
  · rfl

/-- ECAN cancels the active command of a slot whose commands it cancels. -/
theorem canceled_active {a : TActive} (ha : s.myCore.engine.active = some a) (hc : cancels s a.owner = true) :
    (canceled s).myCore.engine.active = none ∧ (canceled s).myCore.engine.canc = true := by
  rw [canceled_engine, ha]
  simp only [if_pos hc]
  exact ⟨rfl, rfl⟩

/-- ECAN has no effect on the active command of any other slot. -/
theorem canceled_others (h : ∀ a, s.myCore.engine.active = some a → cancels s a.owner = false) : canceled s = emptied s := by
  unfold canceled
  rw [emptied_engine]
  dsimp only
  split
  next a ha => rw [h a ha, if_neg Bool.false_ne_true]
  · rfl

end

/-- Settles O27: the instructions by the engine's sets, the status by its fields, and a window by what is left of it. -/
theorem engineControl : Obligations.EngineControl := by
  refine ⟨?instructions, ?status, ?windows⟩
  case instructions =>
    intro d s e mine sequence
    have hmine (k : Nat) : cancels s k = true ↔ mine k := cancels_iff
    refine ⟨fun hp => ⟨fun h hs ho ha => ego_arms hp hs ho ha, fun hs => ego_empty hp hs, fun h hs hn => ego_other hp hs hn,
      fun hr => estat_go hp hr, _, ecan_go hp, fun h hs => ?_, fun hs => ?_, fun a ha hm => ?_, fun hn => ?_⟩,
      fun hp => ⟨congrArg Host.Outcome.next (if_neg hp), congrArg Host.Outcome.next (if_neg hp), fun hr => estat_parks hp hr⟩⟩
    · rw [issue_engine, canceled_shadow, show s.myCore.engine.shadow = some h from hs]
      refine ⟨fun hm => ?_, fun hm => ?_⟩
      · simp [(hmine _).2 hm]
      · simp [mt (hmine _).1 hm]
    · rw [issue_engine, canceled_shadow, show s.myCore.engine.shadow = none from hs]
      rfl
    · rw [issue_engine]
      exact canceled_active ha ((hmine _).2 hm)
    · have hkeep : canceled s = emptied s :=
        canceled_others fun a ha => Bool.eq_false_iff.2 fun hc => hn a ha ((hmine _).1 hc)
      rw [issue_engine, issue_mem, hkeep, emptied_engine]
      exact ⟨rfl, rfl⟩
  case status =>
    intro e hs ha hk w
    obtain ⟨n, hw, h64, f62, f61, f60, f59, f58, f57, f56, f52, f48, f40, f0⟩ := status_fields hs ha hk
    rw [show w = BitVec.ofNat 64 n from hw]
    refine ⟨BitVec.eq_of_toNat_eq ?_, status_bit (by decide) f61, status_bit (by decide) f60, status_bit (by decide) f59,
      status_bit (by decide) f58, status_bit (by decide) f57, status_bit (by decide) f56, fun h hsh => ?_, fun a hac => ⟨?_, ?_⟩,
      BitVec.eq_of_toNat_eq ?_⟩
    · rw [status_field h64, f62]
      rfl
    · rw [status_field h64, f52, hsh]
      rfl
    · rw [status_field h64, f48, hac]
      rfl
    · rw [status_field h64, Nat.pow_zero, Nat.div_one, f0, hac]
      rfl
    · rw [status_field h64, f40]
      rfl
  case windows =>
    intro s core l a e w
    refine ⟨fun h n hs ha hn => ?_, fun ha he => ?_, fun hr hw => ⟨fun hl => ?_, fun hl hn => ?_, fun hl hn => ⟨fun hs => ?_, fun hs => ?_⟩,
      enginePark_free hr hw⟩, fun x d hd hf hi => ⟨fun hk => ?_, fun hk hx => ?_, fun v y hk hx hy => ?_⟩,
      fun hr => ⟨fun he => ?_, fun he => ?_, fun k hk => commitWindow_sem (engineRun_some hr).2 hk⟩,
      fun f off hr hw => ⟨windowCommit_held hr hw, enginePark_page hr hw⟩,
      fun f ha hl hp hr => engineRestart_resident ha hl hp hr, fun ha => engineInternalError_active ha⟩
    · refine congrArg Host.Outcome.next (congrArg (fun y : Engine => s.setCore core { s.core core with engine := y }) ?_)
      exact start_armed hs ha hn
    · refine congrArg Host.Outcome.next ?_
      simp only [engineRun_waits ha he]
    · rw [windowCommit_eq hr hw, hl]
      rfl
    · rw [windowCommit_eq hr hw, hn, if_neg (by simpa using hl)]
      rfl
    · obtain ⟨flow, hmem, hsub, heng, hnew⟩ := windowBegin_spec (s := s) (core := core) (l := l) (a := a) (s.ranksReady core l a)
      refine ⟨_, flow, (windowCommit_eq hr hw).trans ?_, hmem, hsub, heng, hnew⟩
      rw [if_neg (by simpa using hl), if_neg (by simpa using hs), if_neg (by simpa using hn)]
    · refine ⟨(windowCommit_eq hr hw).trans ?_, _, pickSome_ne_nil hs, fun r => mem_of_mem_pickSome, writeSome_active _⟩
      rw [if_neg (by simpa using hl), if_pos (by simpa using hs)]
    · rw [moveElem_eq hd, if_pos hk]
      exact put_full hf hi
    · rw [moveElem_eq hd, if_neg hk, hx]
      exact put_full hf hi
    · rw [moveElem_eq hd, if_neg hk, hx, Option.map_some, hy]
      exact put_full hf hi
    · rw [commitWindow_engine, if_neg he]
      exact ⟨_, rfl, rfl, rfl⟩
    · rw [commitWindow_engine, if_pos he]
      exact ⟨rfl, rfl⟩

end Sys2Proof.Proofs

namespace Sys2Proof.Proofs

open Sys2Proof Sys2Proof.Machine Sys2Proof.Laws

/-! ## Dorent words (R282) -/

/-- The Dorent decoder gives an instruction back from its own word, where its operands are well formed. -/
def DorentGivenBack (i : Instr) : Prop :=
  ∀ w : BitVec 64, i.dorentCode = some w → i.wellFormed = true → decodeDorent w = .ok i

namespace DorentGivenBack

/-! As for the core's instructions, a word is a row of fields: the decoder selects the instruction by OPC and by the fields that go with
it, and the rest are operands or reserved. -/

section
variable {i : Instr} {c : BitVec 64}

theorem of_no_word (h : i.dorentCode = none) : DorentGivenBack i := fun w hw => by
  cases h.symm.trans hw

/-- An instruction whose word the decoder reads as it, with its reserved fields zero. -/
theorem of_dword (hc : codeOf i = .dword c) (hd : decodeDorent c = chk true i) : DorentGivenBack i := by
  intro w hw hi
  simp only [Instr.dorentCode, hc, Option.some.injEq] at hw
  subst hw
  exact hd.trans (chk_of_wellFormed hi)

end

theorem dsend {b ch q e n l} : DorentGivenBack (.dsend b ch q e n l) := of_dword rfl (by simp [decodeDorent, chkD])
theorem drecv {b ch q e n l} : DorentGivenBack (.drecv b ch q e n l) := of_dword rfl (by simp [decodeDorent, chkD])
theorem dcopy {b s q e n o l} : DorentGivenBack (.dcopy b s q e n o l) := of_dword rfl (by simp [decodeDorent, chkD])
theorem dred {b t q e n o l} : DorentGivenBack (.dred b t q e n o l) := of_dword rfl (by simp [decodeDorent, chkD])
theorem dwait {n t b m i} : DorentGivenBack (.dwait n t b m i) := of_dword rfl (by simp [decodeDorent, chkD])
theorem dsig {n c a} : DorentGivenBack (.dsig n c a) := of_dword rfl (by simp [decodeDorent, chkD])
theorem dsigLoc {n a} : DorentGivenBack (.dsigLoc n a) := of_dword rfl (by simp [decodeDorent, chkD])
theorem dloop {q t} : DorentGivenBack (.dloop q t) := of_dword rfl (by simp [decodeDorent, chkD])
theorem dloopJmp {t} : DorentGivenBack (.dloopJmp t) := of_dword rfl (by simp [decodeDorent, chkD])
theorem dloopBz {q t} : DorentGivenBack (.dloopBz q t) := of_dword rfl (by simp [decodeDorent, chkD])
theorem dloopBnz {q t} : DorentGivenBack (.dloopBnz q t) := of_dword rfl (by simp [decodeDorent, chkD])
theorem dnextAdd {a m} : DorentGivenBack (.dnextAdd a m) := of_dword rfl (by simp [decodeDorent, chkD])
theorem dnextMod {a b m} : DorentGivenBack (.dnextMod a b m) := of_dword rfl (by simp [decodeDorent, chkD])
theorem dnextSet {a m} : DorentGivenBack (.dnextSet a m) := of_dword rfl (by simp [decodeDorent, chkD])
theorem dnextMov {a b m} : DorentGivenBack (.dnextMov a b m) := of_dword rfl (by simp [decodeDorent, chkD])
theorem dnextMul {a b m} : DorentGivenBack (.dnextMul a b m) := of_dword rfl (by simp [decodeDorent, chkD])
theorem dnextRnk {a m} : DorentGivenBack (.dnextRnk a m) := of_dword rfl (by simp [decodeDorent, chkD])
theorem djoinSend {c q r} : DorentGivenBack (.djoinSend c q r) := of_dword rfl (by simp [decodeDorent, chkD])
theorem djoinRecv {c q r} : DorentGivenBack (.djoinRecv c q r) := of_dword rfl (by simp [decodeDorent, chkD])
theorem djoinTree {t p c m r} : DorentGivenBack (.djoinTree t p c m r) := of_dword rfl (by simp [decodeDorent, chkD])
theorem dverRd {q} : DorentGivenBack (.dverRd q) := of_dword rfl (by simp [decodeDorent, chkD])
theorem dverAgree {q t} : DorentGivenBack (.dverAgree q t) := of_dword rfl (by simp [decodeDorent, chkD])
theorem dbar {t b m} : DorentGivenBack (.dbar t b m) := of_dword rfl (by simp [decodeDorent, chkD])
theorem dhalt {c} : DorentGivenBack (.dhalt c) := of_dword rfl (by simp [decodeDorent, chkD])

end DorentGivenBack

theorem dorentGivenBack (i : Instr) : DorentGivenBack i := by
  cases i with
  | dsend => exact .dsend | drecv => exact .drecv | dcopy => exact .dcopy | dred => exact .dred
  | dwait => exact .dwait | dsig => exact .dsig | dsigLoc => exact .dsigLoc | dloop => exact .dloop
  | dloopJmp => exact .dloopJmp | dloopBz => exact .dloopBz | dloopBnz => exact .dloopBnz | dnextAdd => exact .dnextAdd
  | dnextMod => exact .dnextMod | dnextSet => exact .dnextSet | dnextMov => exact .dnextMov | dnextMul => exact .dnextMul
  | dnextRnk => exact .dnextRnk | djoinSend => exact .djoinSend | djoinRecv => exact .djoinRecv
  | djoinTree => exact .djoinTree | dverRd => exact .dverRd | dverAgree => exact .dverAgree | dbar => exact .dbar
  | dhalt => exact .dhalt
  | _ => exact .of_no_word rfl

/-- Settles O56: the decoder reads each field of a word where the encoder put it, and finds the reserved ones zero. -/
theorem dorentDecodeEncode : Obligations.DorentDecodeEncode := fun i w hw hi => dorentGivenBack i w hw hi

end Sys2Proof.Proofs

namespace Sys2Proof.Proofs

open Sys2Proof Sys2Proof.Machine Sys2Proof.Laws

/-! ## A Running context that is not parked (R282) -/

section
variable {s : State} {r : DMember} {c : Nat}

theorem withCtx_running {f : Nat → Dorent → DMember → State} (hs : (s.dor s.cur.1).state = .running)
    (hp : (s.dor s.cur.1).park = none) (hm : (s.dor s.cur.1).mine = some r) :
    s.withCtx f = f s.cur.1 (s.dor s.cur.1) r := by
  simp [State.withCtx, hs, hp, hm]

theorem dAsk_room {dst : Nat} {w : DWaiting} {f : Dorent → Dorent} (h : s.exchangeFlits c (s.core c).lea < 16) :
    s.dAsk c dst w f =
      ((s.dPost c dst (.control 0)).modDor c (fun d => { f d with wait := w, parkedTides := 0 })).workedOn c :=
  if_neg (Nat.not_le.2 h)

theorem dAsk_full {dst : Nat} {w : DWaiting} {f : Dorent → Dorent} (h : 16 ≤ s.exchangeFlits c (s.core c).lea) :
    s.dAsk c dst w f = s := if_pos h

end

/-- Settles O38: each instruction by its effect on a Running context. -/
theorem dorentRegisters : Obligations.DorentRegisters := by
  intro s r qa qb n imm tgt c d hs hp hm a go jump set put fail
  have ctx (f) : Host.Outcome.next (s.withCtx f) = (.next (f c d r) : Out1) := congrArg _ (withCtx_running hs hp hm)
  refine ⟨ctx _, ctx _, ctx _, ctx _, ctx _, fun k hk => (ctx _).trans ?_, fun hk => (ctx _).trans ?_, (ctx _).trans ?_, ctx _,
    (ctx _).trans ?_, (ctx _).trans ?_, fun ho => (ctx _).trans ?_, ctx _, fun tb tmo hn => (ctx _).trans ?_,
    fun tb tmo hn hw => (ctx _).trans ?_, fun ho hw => ⟨fun code hc => (ctx _).trans ?_, fun hr => (ctx _).trans ?_,
    fun hf => (ctx _).trans ?_⟩, fun hb code => (ctx _).trans ?_, fun e => ctx _⟩
  · simp only [hk]; rfl
  · simp only [hk]; rfl
  · rw [ite_not]
    exact apply_ite _ _ _ _
  · exact apply_ite _ _ _ _
  · rw [ite_not]
    exact apply_ite _ _ _ _
  · rw [if_neg (Nat.not_le.2 ho)]; rfl
  · rw [if_pos hn]; rfl
  · rw [if_neg (BitVec.not_le.2 hn), if_pos hw]; rfl
  · rw [if_neg (by simp [ho, hw]), if_pos hc]
    rfl
  · rw [if_neg (by simp [ho, hw]), if_neg (by simp)]
    exact congrArg _ (dAsk_room hr)
  · rw [if_neg (by simp [ho, hw]), if_neg (by simp)]
    exact congrArg _ (dAsk_full hf)
  · rw [if_pos]
    rcases hb with hb | hb <;> simp [hb]

/-- Two checks of an instruction that do not stop it. -/
theorem ite_past {α : Type} {a b : Bool} {x y z : α} (ha : a = false) (hb : b = false) :
    (if a = true then x else if b = true then y else z) = z := by
  simp [ha, hb]

section
variable {s : State} {r : DMember} {idx rate : Nat} {send : Bool} {qp : Nat}

/-! ## DJOIN of a channel (R286) -/

section
variable (hs : (s.dor s.cur.1).state = .running) (hp : (s.dor s.cur.1).park = none) (hm : (s.dor s.cur.1).mine = some r)
  (hw : (s.dor s.cur.1).wait = .none) (hr : r.rank ≠ none) (hq : (s.dor s.cur.1).qv qp ≠ nilRank)
include hs hp hm hw hr hq

theorem dJoin_asks (hl : ((s.dor s.cur.1).qv qp).toNat < r.size) (h0 : rate ≠ 0) (hb : (s.dor s.cur.1).busyOn false idx = false) :
    s.dJoin send idx qp rate = s.dAsk s.cur.1 s.cur.1
      (.join ⟨false, idx, send, ((s.dor s.cur.1).qv qp).toNat, none, [], rate⟩ s.tide none) (fun d => d) := by
  refine (withCtx_running hs hp hm).trans ((if_neg (not_not_intro hw)).trans ((if_neg ?_).trans ((if_neg hq).trans ?_)))
  · simpa using hr
  · exact (if_neg (Nat.not_le.2 hl)).trans ((if_neg h0).trans (if_neg (ne_true_of_eq_false hb)))

theorem dJoin_noRank (hl : r.size ≤ ((s.dor s.cur.1).qv qp).toNat) :
    s.dJoin send idx qp rate = s.dFail s.cur.1 0x06 (s.dor s.cur.1).pc := by
  refine (withCtx_running hs hp hm).trans ((if_neg (not_not_intro hw)).trans ((if_neg ?_).trans ((if_neg hq).trans ?_)))
  · simpa using hr
  · exact if_pos hl

end

end

/-- Settles O39: each instruction by the checks that it passes, in their order. -/
theorem dorentTransfers : Obligations.DorentTransfers := by
  intro s r buf sbuf ch tree qo qs ce cnt op len rate c d hs hp hm off n k go asks fail room
  have ctx {f} {t : State} (h : f c d r = t) : Host.Outcome.next (s.withCtx f) = (.next t : Out1) :=
    congrArg _ ((withCtx_running hs hp hm).trans h)
  refine ⟨fun hw hb peer circ seq => ⟨fun hc => ctx ?_, fun hc => ctx ?_, fun hc => ctx ?_, fun hc => ctx ?_⟩,
    fun hw hb => ctx ?_, fun hw hb peer circ seq hc => ctx ?_,
    fun hw hb hb' => ⟨fun hm => ctx ?_, fun h1 h2 h3 => ctx ?_⟩,
    fun hw hb y hy hu hf => ctx ?_,
    fun ho peer circ seq hc => ctx ?_,
    fun hn hr => ⟨fun hq hl h0 hb => ?_, fun hq hl => ?_, fun hq h0 hb => ctx ?_⟩,
    fun hn => ⟨fun tgt tb tmo => ctx ?_, fun t ht => ctx ?_, fun t ht => ctx ?_⟩⟩
  · refine (ite_past hw hb).trans ?_
    rw [hc]
    rfl
  · refine (ite_past hw hb).trans ?_
    rw [hc]
    rfl
  · refine (ite_past hw hb).trans ?_
    rw [hc]
    rfl
  · refine (ite_past hw hb).trans ?_
    rw [hc]
    rfl
  · exact (if_neg (ne_true_of_eq_false hw)).trans (if_pos hb)
  · refine (ite_past hw hb).trans ?_
    rw [hc]
    rfl
  · exact (ite_past hw (by rw [hb, hb']; rfl)).trans (if_neg hm)
  · exact (ite_past hw (by rw [hb, hb']; rfl)).trans (if_pos ⟨h1, h2, h3⟩)
  · refine (ite_past hw hb).trans ?_
    rw [hy]
    exact ite_past (by rw [hu]; rfl) hf
  · refine (if_neg (Nat.not_le.2 ho)).trans ?_
    rw [hc]
    rfl
  · have h1 : ¬rate.toNat = 0 := fun h => h0 (BitVec.eq_of_toNat_eq h)
    have join (send) := congrArg (Host.Outcome.next : State → Out1) (dJoin_asks (send := send) hs hp hm hn hr hq hl h1 hb)
    exact ⟨join true, join false⟩
  · have join (send) := congrArg (Host.Outcome.next : State → Out1)
      (dJoin_noRank (send := send) (idx := ch.toNat) (rate := rate.toNat) hs hp hm hn hr hq hl)
    exact ⟨join true, join false⟩
  · have hq : d.qv qo.toNat = nilRank := hq
    refine (if_neg (not_not_intro hn)).trans ((if_neg ?_).trans ((if_neg h0).trans ((if_neg (ne_true_of_eq_false hb)).trans ?_)))
    · rw [hq]
      simp [hr]
    · rw [hq]
      rfl
  · exact if_neg (not_not_intro hn)
  · exact (if_neg (not_not_intro hn)).trans (if_pos ht)
  · exact (if_neg (not_not_intro hn)).trans (if_neg (Nat.not_le.2 ht))

end Sys2Proof.Proofs

namespace Sys2Proof.Proofs

open Sys2Proof Sys2Proof.Machine Sys2Proof.Laws

/-! ## What writes leave of the contexts (R220) -/

/-- The same slot acts, and every context is as it was but for its undefined buffers and its bytes on the way to memory. -/
structure ContextsKept (s t : State) : Prop where
  cur : t.cur = s.cur
  dor : ∀ c, ∃ sp la, t.dor c = { s.dor c with spoiled := sp, late := la }

section
variable {s t u : State}

theorem ContextsKept.refl (s : State) : ContextsKept s s := ⟨rfl, fun _ => ⟨_, _, rfl⟩⟩

theorem ContextsKept.trans (h1 : ContextsKept s t) (h2 : ContextsKept t u) : ContextsKept s u := by
  refine ⟨h2.cur.trans h1.cur, fun c => ?_⟩
  obtain ⟨_, _, e1⟩ := h1.dor c
  obtain ⟨sp, la, e2⟩ := h2.dor c
  exact ⟨sp, la, e2.trans (by rw [e1])⟩

/-- What is neither of the two is as it was. -/
theorem ContextsKept.view {α : Type} {g : Dorent → α} (h : ContextsKept s t)
    (hg : ∀ d sp la, g { d with spoiled := sp, late := la } = g d) (c : Nat) : g (t.dor c) = g (s.dor c) := by
  obtain ⟨_, _, e⟩ := h.dor c
  rw [e, hg]

theorem contextsKept_of_cores (hu : t.cur = s.cur) (hc : t.cores = s.cores) : ContextsKept s t :=
  ⟨hu, fun c => ⟨_, _, by rw [State.dor, State.core, hc]; rfl⟩⟩

theorem contextsKept_modCore (k : Nat) (f : Core → Core)
    (hf : ∀ x, ∃ sp la, (f x).dorent = { x.dorent with spoiled := sp, late := la }) : ContextsKept s (s.modCore k f) := by
  refine ⟨rfl, fun c => ?_⟩
  by_cases h : c = k
  · rw [h, State.dor, core_modCore]
    exact hf _
  · rw [State.dor, core_modCore_other s f h]
    exact ⟨_, _, rfl⟩

theorem contextsKept_modSlot (k n : Nat) (f : Slot → Slot) : ContextsKept s (s.modSlot k n f) :=
  contextsKept_modCore k (fun x => x.modSlot n f) fun _ => ⟨_, _, rfl⟩

theorem contextsKept_modDor (k : Nat) (f : Dorent → Dorent) (hf : ∀ d, ∃ sp la, f d = { d with spoiled := sp, late := la }) :
    ContextsKept s (s.modDor k f) := contextsKept_modCore k _ fun x => hf x.dorent

theorem contextsKept_foldl {α : Type} {f : State → α → State} (hf : ∀ s a, ContextsKept s (f s a)) (l : List α) (s : State) :
    ContextsKept s (l.foldl f s) :=
  List.foldlRecOn (motive := ContextsKept s) l f (.refl s) fun t ht a _ => ht.trans (hf t a)

theorem bufFree_cores (core : Nat) (b : DBuf) (o n : Nat) : (s.bufFree core b o n).cores = s.cores :=
  foldl_keeps (g := State.cores) (fun s i => by split <;> rfl) _ s

theorem bufFree_cur (core : Nat) (b : DBuf) (o n : Nat) : (s.bufFree core b o n).cur = s.cur :=
  foldl_keeps (g := State.cur) (fun s i => by split <;> rfl) _ s

theorem contextsKept_bufFree (core : Nat) (b : DBuf) (o n : Nat) : ContextsKept s (s.bufFree core b o n) :=
  contextsKept_of_cores (bufFree_cur ..) (bufFree_cores ..)

theorem contextsKept_spoilAt (core : Nat) (js : List Nat) : ContextsKept s (s.spoilAt core js) := by
  refine contextsKept_foldl (fun s j => ?_) js s
  split
  · refine ContextsKept.trans ?_ (contextsKept_bufFree ..)
    exact contextsKept_modDor _ _ fun _ => ⟨_, _, rfl⟩
  · exact .refl s

theorem contextsKept_spoil (core lea a n : Nat) : ContextsKept s (s.spoil core lea a n) := by
  unfold State.spoil
  dsimp only
  split
  · exact .refl s
  · split
    · exact .refl s
    · exact contextsKept_foldl (fun _ _ => contextsKept_spoilAt ..) _ s

theorem contextsKept_wakeReaders (a : Nat) : ContextsKept s (s.wakeReaders a) := by
  unfold State.wakeReaders
  split
  · exact contextsKept_modCore _ _ fun _ => ⟨_, _, rfl⟩
  · exact .refl s

theorem contextsKept_tryPart {id i : Nat} (h : s.tryPart id i = some t) : ContextsKept s t := by
  unfold State.tryPart at h
  repeat' split at h
  all_goals cases h
  · refine ContextsKept.trans ?_ (contextsKept_spoil ..)
    exact ⟨rfl, (contextsKept_modSlot (s := s) _ _ _).dor⟩
  · exact ⟨rfl, (contextsKept_modSlot (s := s) _ _ _).dor⟩

theorem contextsKept_retryFirst : ∀ {l : List (Nat × Nat × Nat)}, s.retryFirst l = some t → ContextsKept s t
  | [], h => by cases h
  | (_, id, i) :: l, h => by
    rw [State.retryFirst] at h
    split at h
    next u hu =>
      cases h
      exact contextsKept_tryPart hu
    · exact contextsKept_retryFirst h

theorem contextsKept_settle : ∀ (n : Nat) (ws : List Nat) (s : State), ContextsKept s (State.settle n ws s)
  | 0, _, s => .refl s
  | _ + 1, [], s => .refl s
  | n + 1, w :: ws, s => by
    rw [State.settle]
    refine (contextsKept_wakeReaders w).trans ?_
    dsimp only
    split
    · refine ContextsKept.trans ?_ (contextsKept_settle n _ _)
      refine ContextsKept.trans ?_ (contextsKept_modSlot ..)
      exact contextsKept_of_cores rfl rfl
    · split
      next u hu => exact (contextsKept_retryFirst hu).trans (contextsKept_settle n _ u)
      · exact contextsKept_settle n ws _

theorem contextsKept_fillWord (a : Nat) (v : PWord) : ContextsKept s (s.fillWord a v) := by
  unfold State.fillWord
  dsimp only
  split
  · exact contextsKept_of_cores rfl rfl
  · refine ContextsKept.trans ?_ (contextsKept_settle _ _ _)
    exact contextsKept_of_cores rfl rfl

theorem contextsKept_unitStore (a n v : Nat) (bad : Bool) : ContextsKept s (s.unitStore a n v bad) := by
  unfold State.unitStore
  dsimp only
  split
  · refine ContextsKept.trans ?_ (contextsKept_settle _ _ _)
    exact contextsKept_of_cores rfl rfl
  · exact contextsKept_of_cores rfl rfl

theorem contextsKept_unitWrites : ∀ (n : Nat) (l : List (Nat × Byte × Bool)) (s : State), ContextsKept s (s.unitWrites n l)
  | 0, _, s => .refl s
  | _ + 1, [], s => .refl s
  | n + 1, (x, v) :: l, s => by
    unfold State.unitWrites
    dsimp only
    split
    · exact (contextsKept_unitStore ..).trans (contextsKept_unitWrites n _ _)
    · exact (contextsKept_unitStore ..).trans (contextsKept_unitWrites n _ _)

theorem contextsKept_flushLate (core : Nat) : ContextsKept s (s.flushLate core) := by
  unfold State.flushLate
  dsimp only
  split
  · exact .refl s
  · refine ContextsKept.trans ?_ (contextsKept_unitWrites ..)
    exact contextsKept_modDor _ _ fun _ => ⟨_, _, rfl⟩

theorem contextsKept_wakeColl (core : Nat) : ContextsKept s (s.wakeColl core) := by
  refine contextsKept_foldl (fun s k => ?_) _ s
  split
  · dsimp only
    split
    · exact (contextsKept_fillWord ..).trans (contextsKept_modSlot ..)
    · exact .refl s
  · exact .refl s

theorem loseBufs_cores (core : Nat) (lost : DBuf → Bool) : (s.loseBufs core lost).cores = s.cores := by
  refine foldl_keeps (g := State.cores) (fun s b => ?_) _ s
  split
  · split
    · exact bufFree_cores ..
    · rfl
  · rfl

theorem loseBufs_cur (core : Nat) (lost : DBuf → Bool) : (s.loseBufs core lost).cur = s.cur := by
  refine foldl_keeps (g := State.cur) (fun s b => ?_) _ s
  split
  · split
    · exact bufFree_cur ..
    · rfl
  · rfl

end

end Sys2Proof.Proofs

namespace Sys2Proof.Proofs

open Sys2Proof Sys2Proof.Machine Sys2Proof.Laws

/-! ## A context changed (R272) -/

section
variable {s : State}

@[simp] theorem dor_modDor (s : State) (c : Nat) (f : Dorent → Dorent) : (s.modDor c f).dor c = f (s.dor c) := by
  rw [State.modDor, State.dor, core_modCore]
  rfl

theorem dor_modDor_other (s : State) {c k : Nat} (f : Dorent → Dorent) (h : k ≠ c) : (s.modDor c f).dor k = s.dor k := by
  rw [State.modDor, State.dor, core_modCore_other s _ h]
  rfl

@[simp] theorem dor_workedOn (s : State) (c k : Nat) : (s.workedOn k).dor c = s.dor c := rfl

@[simp] theorem dor_hush (s : State) (c k : Nat) (now : Bool) : (s.hush k now).dor c = s.dor c := rfl

theorem dor_of_cores {t : State} (h : t.cores = s.cores) (c : Nat) : t.dor c = s.dor c := by
  rw [State.dor, State.core, h]
  rfl

theorem dor_modSlot (s : State) (c k n : Nat) (f : Slot → Slot) : (s.modSlot k n f).dor c = s.dor c :=
  view_modCore (g := Core.dorent) (f := fun x => x.modSlot n f) (fun _ => rfl) s k c

theorem dor_issue (s : State) (c n : Nat) : (s.issue n).dor c = s.dor c := dor_modSlot ..

end

/-! ## A launch (R220, R280) -/

/-- The number of the group that a launch block names (R279). -/
def blockGid (w : Nat → Word) : Nat := (w 0).toNat % 2 ^ 16

/-- A run begun: the context as COLRUN sets it up, with the buffers undefined that a participant has written already (R220, R280). -/
def runBegun (s : State) (w : Nat → Word) (r : DMember) : State :=
  (((s.flushLate s.cur.1).modDor s.cur.1 (fun d => s.launch d w r)).workedOn s.cur.1).spoilAt s.cur.1 (s.spoiledIn s.cur.1 (blockGid w))

/-- A context launched: the buffers of a run that fails at once are lost (R281). -/
def launched (s : State) (w : Nat → Word) (r : DMember) : State :=
  if ((runBegun s w r).dor s.cur.1).state = .failed then (runBegun s w r).loseBufs s.cur.1 (fun _ => true) else runBegun s w r

section
variable {s : State} {w : Nat → Word} {r : DMember}

section
variable (hs : s.myCore.dorent.state = .loaded) (hr : s.myCore.dorent.record (blockGid w) = some r)
  (hj : (w 1).getLsbD 16 = r.rank.isNone) (hn : s.nsr = r.nsr) (hb : (List.range 8).findSome? (s.bufFail w) = none)
include hs hr hj hn hb

/-- R280: COLRUN past its checks. -/
theorem colrun_checked : s.colrun w = if !s.accessesDone false || s.myCore.dorent.copy.isSome then
    s.forfeit.modMe (fun x => { x with launch := some ((List.range 32).map w) }) else (launched s w r).issue 4 := by
  have hg : fieldAt (w 0) 0 16 = blockGid w := by rw [fieldAt, blockGid, pow_zero, Nat.div_one]
  rw [State.colrun]
  dsimp only
  rw [hs, if_neg (by simp), hg, hr]
  dsimp only
  rw [hj, if_neg (by simp), hn, if_neg (by simp), hb]
  rfl

theorem colrun_waits (hw : s.accessesDone false = false ∨ s.myCore.dorent.copy ≠ none) :
    s.colrun w = s.forfeit.modMe (fun x => { x with launch := some ((List.range 32).map w) }) := by
  refine (colrun_checked hs hr hj hn hb).trans (if_pos ?_)
  rcases hw with hw | hw <;> simp [hw, Option.isSome_iff_ne_none]

theorem colrun_launches (ha : s.accessesDone false = true) (hc : s.myCore.dorent.copy = none) :
    s.colrun w = (launched s w r).issue 4 :=
  (colrun_checked hs hr hj hn hb).trans (if_neg (by simp [ha, hc]))

end

/-- Marking buffers undefined changes nothing else of the context, and each that the context has is marked. -/
theorem spoilAt_dor (c : Nat) : ∀ (js : List Nat) (s : State), ∃ l, (s.spoilAt c js).dor c = { s.dor c with spoiled := l }
    ∧ (∀ j ∈ (s.dor c).spoiled, j ∈ l) ∧ ∀ j ∈ js, ∀ b, (s.dor c).bufs.getD j none = some b → j ∈ l
  | [], s => ⟨_, rfl, fun _ h => h, by simp⟩
  | i :: js, s => by
    cases hi : (s.dor c).bufs.getD i none with
    | none =>
      obtain ⟨l, he, hk, hl⟩ := spoilAt_dor c js s
      refine ⟨l, ?_, hk, fun j hj b hb => ?_⟩
      · rw [← he, State.spoilAt, List.foldl_cons, hi]
        rfl
      · rcases List.mem_cons.1 hj with rfl | hj
        · cases hi.symm.trans hb
        · exact hl j hj b hb
    | some x =>
      let t := (s.modDor c (fun d => { d with spoiled := natIns d.spoiled i })).bufFree c x 0 x.len
      have ht : t.dor c = { s.dor c with spoiled := natIns (s.dor c).spoiled i } := by
        exact (dor_of_cores (bufFree_cores ..) c).trans (dor_modDor ..)
      obtain ⟨l, he, hk, hl⟩ := spoilAt_dor c js t
      rw [ht] at he hk hl
      refine ⟨l, ?_, fun j hj => hk j ((mem_natIns ..).2 (.inr hj)), fun j hj b hb => ?_⟩
      · rw [← he, State.spoilAt, List.foldl_cons, hi]
        rfl
      · rcases List.mem_cons.1 hj with rfl | hj
        · exact hk j ((mem_natIns ..).2 (.inl rfl))
        · exact hl j hj b hb

theorem runBegun_dor (s : State) (w : Nat → Word) (r : DMember) : ∃ d l,
    (runBegun s w r).dor s.cur.1 = { s.launch d w r with spoiled := l }
    ∧ ∀ j ∈ s.spoiledIn s.cur.1 (blockGid w), ∀ b, (s.launch d w r).bufs.getD j none = some b → j ∈ l := by
  have hd : (((s.flushLate s.cur.1).modDor s.cur.1 (fun d => s.launch d w r)).workedOn s.cur.1).dor s.cur.1 =
      s.launch ((s.flushLate s.cur.1).dor s.cur.1) w r := by
    rw [dor_workedOn, dor_modDor]
  obtain ⟨l, he, -, hl⟩ := spoilAt_dor s.cur.1 (s.spoiledIn s.cur.1 (blockGid w))
    (((s.flushLate s.cur.1).modDor s.cur.1 (fun d => s.launch d w r)).workedOn s.cur.1)
  rw [hd] at he hl
  exact ⟨_, l, he, hl⟩

theorem launched_dor (s : State) (w : Nat → Word) (r : DMember) :
    ((launched s w r).issue 4).myCore.dorent = (runBegun s w r).dor s.cur.1 := by
  have hb : (runBegun s w r).cur = s.cur :=
    (contextsKept_spoilAt ..).cur.trans (contextsKept_flushLate (s := s) s.cur.1).cur
  have hcur : ((launched s w r).issue 4).cur = s.cur := by
    rw [issue_cur, launched]
    split
    · exact (loseBufs_cur ..).trans hb
    · exact hb
  have hd : ((launched s w r).issue 4).dor s.cur.1 = (runBegun s w r).dor s.cur.1 := by
    rw [dor_issue, launched]
    split
    · exact dor_of_cores (loseBufs_cores ..) _
    · rfl
  rw [State.myCore, hcur]
  exact hd

/-- R220: a run that begins with nothing on its way to memory and no buffer undefined leaves memory as it was. -/
theorem launched_mem (hl : s.myCore.dorent.late = []) (hs : s.spoiledIn s.cur.1 (blockGid w) = [])
    (hr : ((launched s w r).issue 4).myCore.dorent.state = .running) : ((launched s w r).issue 4).mem = s.mem := by
  have hf : s.flushLate s.cur.1 = s := by
    rw [State.flushLate, State.dor, show (s.core s.cur.1).dorent.late = [] from hl]
    rfl
  have hb : (runBegun s w r).mem = s.mem := by
    rw [runBegun, hs, hf]
    rfl
  rw [issue_mem, launched]
  rw [launched_dor] at hr
  rw [hr, if_neg (by decide)]
  exact hb

end

/-! ## COLLD, COLWT, COLST (R278, R281) -/

section
variable {s : State} {k : BitVec 3} {b a d : BitVec 5}

/-- R381: while another lea holds the core, an instruction whose operands are there parks. -/
theorem withPool_away {f : State → State} (h : s.myCore.lea ≠ s.me.lea) : s.withPool f = s.park .pool := if_neg h

section
variable (ho : s.Reads [a.toNat, b.toNat] []) (hl : s.myCore.lea = s.me.lea)
include ho hl

theorem colld_busy (hc : s.myCore.dorent.copy ≠ none) : exec (.colld k b a) s = .next s.forfeit := by
  refine congrArg Host.Outcome.next ((withOperands_go ho).trans ((withPool_go hl).trans ?_))
  exact if_pos (Option.isSome_iff_ne_none.2 hc)

variable (hc : s.myCore.dorent.copy = none) (ha : (s.w a.toNat).bad = false) (hb : (s.w b.toNat).bad = false)
include hc ha hb

theorem colld_range (hn : (s.w b.toNat).val.toNat = 0 ∨ 512 < (s.w b.toNat).val.toNat) :
    exec (.colld k b a) s = .next (s.raise 4 0x06 (s.w b.toNat).val) := by
  refine congrArg Host.Outcome.next ((withOperands_go ho).trans ((withPool_go hl).trans ?_))
  rw [hc, if_neg (by decide), needClean_go ha, State.withLoose, hb, if_neg (by decide)]
  exact if_pos hn

section
variable (h0 : 0 < (s.w b.toNat).val.toNat) (hn : (s.w b.toNat).val.toNat ≤ 512) (h8 : (s.w a.toNat).val.toNat % 8 = 0)
  (hs : segFail (s.seg k.toNat) (s.extent (s.seg k.toNat).space) (s.w a.toNat).val.toNat (8 * (s.w b.toNat).val.toNat)
    [if (s.seg k.toNat).space = 7 then .x else .r] [1, 2, 3, 4, 7] = none)
include h0 hn h8 hs

/-- R278: COLLD of a number of words that it may copy. -/
theorem colld_checked : exec (.colld k b a) s = .next (
    if s.myCore.dorent.state = .running ∨ s.myCore.dorent.state = .left then
      s.raise 4 0x44 (BitVec.ofNat 64 s.myCore.dorent.state.code)
    else ((s.modDor s.cur.1 (fun d => { d with
      copy := some ⟨s.cur.2, s.me.tid, s.pc, s.seg k.toNat, (s.w a.toNat).val.toNat, (s.w b.toNat).val.toNat, s.nextId, none,
        none⟩ })).issue 4).park .colld) := by
  refine congrArg Host.Outcome.next ((withOperands_go ho).trans ((withPool_go hl).trans ?_))
  rw [hc, if_neg (by decide), needClean_go ha, State.withLoose, hb, if_neg (by decide)]
  refine (if_neg (by omega)).trans ?_
  rw [hs]
  exact if_neg (not_not_intro h8)

end

end

end

/-! ## COLRUN (R280) -/

section
variable {s : State} {k : BitVec 3} {a : BitVec 5} {p : Nat}

/-- R280: a block that the thread has read already. -/
theorem colrun_kept {l : List Word} (h : s.me.launch = some l) (hl : s.myCore.lea = s.me.lea) :
    exec (.colrun k a) s = .next (s.colrun (fun i => l.getD i 0)) := by
  refine congrArg Host.Outcome.next ?_
  rw [h]
  exact withPool_go hl

/-- R280: a block read in this turn. -/
theorem colrun_read (h : s.me.launch = none) (ho : s.Reads [a.toNat] []) (hl : s.myCore.lea = s.me.lea)
    (ha : (s.w a.toNat).bad = false)
    (hs : segFail (s.seg k.toNat) (s.extent (s.seg k.toNat).space) (s.w a.toNat).val.toNat 256 [.r] [1, 2] = none)
    (h8 : (s.w a.toNat).val.toNat % 256 = 0) (hd : s.myCore.dorent.state = .loaded)
    (hp : s.flat s.cur.1 s.cur.2 s.me.lea (s.seg k.toNat).space ((s.seg k.toNat).base.toNat + (s.w a.toNat).val.toNat) = some p)
    (hw : s.ownStorePending p 256 = false) (hc : s.Clean ((List.range 32).map (fun i => p + 8 * i)))
    (hb : s.launchBad (mapWords s p) = false) : exec (.colrun k a) s = .next (s.colrun (mapWords s p)) := by
  refine congrArg Host.Outcome.next ?_
  rw [h]
  refine (withOperands_go ho).trans ((withPool_go hl).trans ?_)
  rw [needClean_go ha]
  dsimp only
  rw [hs]
  dsimp only
  rw [if_neg (not_not_intro h8), hd, if_neg (by decide), withBlock_go hs hp hw hc, if_neg (by simp), hb, if_neg (by decide)]

end

section
variable (s : State) (d : Dorent) (w : Nat → Word) (r : DMember) {i : Nat}

theorem launch_qv_low (h : i < 8) : (s.launch d w r).qv i = w (2 + i) := by
  have h16 : i < 16 := by omega
  simp [State.launch, Dorent.qv, List.getD_eq_getElem?_getD, h, h16]

theorem launch_qv_high (h : 8 ≤ i) : (s.launch d w r).qv i = 0 := by
  by_cases h16 : i < 16
  · simp [State.launch, Dorent.qv, List.getD_eq_getElem?_getD, h16, Nat.not_lt.2 h]
  · simp [State.launch, Dorent.qv, List.getD_eq_getElem?_getD, h16]

theorem launch_n (h : i < 8) : (s.launch d w r).n.getD i 1 = 0 := by
  show (List.replicate 8 (0 : BitVec 32)).getD i 1 = 0
  rw [List.getD_eq_getElem?_getD, List.getElem?_replicate, if_pos h]
  rfl

/-- R280: a run of a version that the record does not have fails at once. -/
theorem launch_state : (s.launch d w r).state =
    if (w 0).toNat / 2 ^ 32 % 2 ^ 32 = 0 ∨ (w 0).toNat / 2 ^ 32 % 2 ^ 32 = r.ver.toNat then .running else .failed := by
  simp only [State.launch, fieldAt, Bool.or_eq_true, beq_iff_eq]

end

/-- Settles O37: each instruction by its checks, and a launch by the context that it sets up. -/
theorem dorentLaunch : Obligations.DorentLaunch := by
  refine ⟨fun k b a d s hl => ?_, fun k b a d s hl => ?_⟩
  · intro away
    refine ⟨fun h => ?_, fun h => ?_, fun h => ⟨?_, ?_, ?_⟩⟩
    · exact congrArg Host.Outcome.next ((withOperands_go h).trans (withPool_away hl))
    · refine congrArg Host.Outcome.next ?_
      cases hx : s.me.launch with
      | some l => exact withPool_away hl
      | none => exact (withOperands_go (h.resolve_left (not_not_intro hx))).trans (withPool_away hl)
    · exact congrArg Host.Outcome.next ((withOperands_go h).trans (withPool_away hl))
    · exact congrArg Host.Outcome.next ((withOperands_go h).trans (withPool_away hl))
    · exact congrArg Host.Outcome.next ((withOperands_go h).trans (withPool_away hl))
  · intro x off n g
    refine ⟨fun ho hc => colld_busy ho hl hc, fun ho hc ha hb => ⟨fun hn => colld_range ho hl hc ha hb hn, fun h0 hn h8 hs => ?_⟩,
      fun ho => ⟨fun hr => ?_, fun hr => ?_, ?_, ?_⟩, fun p r => ?_, fun l r => ?_⟩
    · have h := colld_checked ho hl hc ha hb h0 hn h8 hs
      refine ⟨fun hr => ?_, fun hr => ?_, fun hr hf => ?_⟩
      · rw [h, if_pos (.inl hr), show s.myCore.dorent.state = .running from hr]
        rfl
      · rw [h, if_pos (.inr hr), show s.myCore.dorent.state = .left from hr]
        rfl
      · rw [h, if_neg (not_or.2 ⟨hr, hf⟩)]
    · exact congrArg Host.Outcome.next ((withOperands_go ho).trans ((withPool_go hl).trans (if_pos hr)))
    · exact congrArg Host.Outcome.next ((withOperands_go ho).trans ((withPool_go hl).trans (if_neg hr)))
    · exact congrArg Host.Outcome.next ((withOperands_go ho).trans (withPool_go hl))
    · exact congrArg Host.Outcome.next ((withOperands_go ho).trans (withPool_go hl))
    · intro w gid h ho ha hs h8 hd hp hw hc hb hr hj hn hf
      have he := colrun_read h ho hl ha hs h8 hd hp hw hc hb
      refine ⟨fun hw => he.trans (congrArg _ (colrun_waits hd hr hj hn hf hw)), fun hq hc => ?_⟩
      obtain ⟨e, l, hdor, hsp⟩ := runBegun_dor s (mapWords s p) r
      rw [← launched_dor] at hdor
      refine ⟨_, he.trans (congrArg _ (colrun_launches hd hr hj hn hf hq hc)),
        fun hr hl hs => launched_mem hl hs hr, fun _ j b hj hb => ?_, ?_⟩
      · rw [hdor] at hb ⊢
        exact hsp j hj b hb
      · rw [hdor]
        exact ⟨rfl, rfl, launch_state s e _ r, fun i => launch_n s e (mapWords s p) r, fun i => launch_qv_low s e _ r,
          fun i => launch_qv_high s e (mapWords s p) r⟩
    · intro w gid h hd hr hj hn hf hq hc
      obtain ⟨e, sp, hdor, -⟩ := runBegun_dor s w r
      rw [← launched_dor] at hdor
      refine ⟨_, (colrun_kept h hl).trans (congrArg _ (colrun_launches hd hr hj hn hf hq hc)),
        fun hr hl hs => launched_mem hl hs hr, ?_⟩
      rw [hdor]
      exact ⟨rfl, fun i => launch_qv_low s e _ r⟩

end Sys2Proof.Proofs

namespace Sys2Proof.Proofs

open Sys2Proof Sys2Proof.Machine Sys2Proof.Laws

/-! ## Running contexts (R273, R276) -/

section
variable {s : State} {c l gid : Nat} {d : Dorent} {r : DMember}

theorem running_iff : s.running c l gid = some (d, r) ↔
    (s.core c).lea = some l ∧ d = s.dor c ∧ d.state = .running ∧ d.gid = gid ∧ d.mine = some r := by
  unfold State.running
  dsimp only
  split
  next h =>
    obtain ⟨hl, hs, hg⟩ := h
    rw [Option.map_eq_some_iff]
    constructor
    · rintro ⟨q, hq, he⟩
      cases he
      exact ⟨hl, rfl, hs, hg, hq⟩
    · rintro ⟨-, rfl, -, -, hm⟩
      exact ⟨r, hm, rfl⟩
  next h =>
    constructor
    · intro he
      cases he
    · rintro ⟨hl, rfl, hs, hg, -⟩
      exact absurd ⟨hl, hs, hg⟩ h

theorem runningAt_iff : s.runningAt c = some (l, d, r) ↔
    (s.core c).lea = some l ∧ d = s.dor c ∧ d.state = .running ∧ d.mine = some r := by
  unfold State.runningAt
  split
  next k hk =>
    rw [Option.map_eq_some_iff]
    constructor
    · rintro ⟨⟨e, q⟩, hq, he⟩
      cases he
      obtain ⟨hl, he, hs, -, hm⟩ := running_iff.1 hq
      exact ⟨hl, he, hs, hm⟩
    · rintro ⟨hl, rfl, hs, hm⟩
      exact ⟨(s.dor c, r), running_iff.2 ⟨hk, rfl, hs, rfl, hm⟩, by rw [Option.some.inj (hk.symm.trans hl)]⟩
  next h =>
    constructor
    · intro he
      cases he
    · rintro ⟨hl, -⟩
      cases h.symm.trans hl

theorem running_of_runningAt (h : s.runningAt c = some (l, d, r)) : s.running c l d.gid = some (d, r) := by
  obtain ⟨hl, hd, hs, hm⟩ := runningAt_iff.1 h
  exact running_iff.2 ⟨hl, hd, hs, rfl, hm⟩

end

/-! ## Limits of waits (R286, R289, R294) -/

section
variable {s : State} {c l : Nat} {d : Dorent} {r : DMember} {start tmo : Nat}

/-- A wait that began in a tide has passed its limit (R289). -/
def Late (s : State) (d : Dorent) (start tmo : Nat) : Prop := tmo ≠ 0 ∧ tmo ≤ s.tide - start - d.parkedTides

theorem not_late_iff : ¬Late s d start tmo ↔ tmo = 0 ∨ s.dElapsed d start < tmo := by
  rw [Late, not_and_or, not_ne_iff, Nat.not_le]
  rfl

theorem late_iff : Late s d start tmo ↔ ¬(tmo = 0 ∨ s.dElapsed d start < tmo) := (not_iff_comm.1 not_late_iff).symm

/-- A wait over its limit: at its target, or Failed with 0x07 (R289). -/
def expired (s : State) (c : Nat) (d : Dorent) : Option Nat → State
  | some t => s.dJump c t (fun d => d)
  | none => s.dFail c 0x07 d.pc

/-- The other end of a DJOIN has not asked yet (R286). -/
def joinAlone (s : State) : Option Nat → Bool
  | none => true
  | some id => s.circuits.any (fun c => c.id == id && c.phase == .asking)

theorem joinAlone_iff {asked : Option Nat} :
    joinAlone s asked = true ↔ asked = none ∨ ∃ x ∈ s.circuits, asked = some x.id ∧ x.phase = .asking := by
  cases asked with
  | none => simp [joinAlone]
  | some id =>
    simp only [joinAlone, List.any_eq_true, Bool.and_eq_true, beq_iff_eq, Option.some.injEq, reduceCtorEq, false_or]
    exact exists_congr fun x => and_congr_right fun _ => and_congr_left fun _ => eq_comm

section
variable (h : s.runningAt c = some (l, d, r))
include h

theorem dorentTimeout_count {n thr : Nat} {j : Option Nat} (hw : d.wait = .count n thr start tmo j) : exec (.dorentTimeout c) s =
    .next (if thr ≤ (d.n.getD n 0).toNat then s else if tmo = 0 ∨ s.dElapsed d start < tmo then s else expired s c d j) := by
  refine congrArg Host.Outcome.next ?_
  rw [h]
  dsimp only
  rw [hw]
  rfl

theorem dorentTimeout_barrier {k : Nat} {j : Option Nat} (hw : d.wait = .barrier k start tmo j) : exec (.dorentTimeout c) s =
    .next (if tmo = 0 ∨ s.dElapsed d start < tmo then s else expired s c d j) := by
  refine congrArg Host.Outcome.next ?_
  rw [h]
  dsimp only
  rw [hw]
  rfl

theorem closingBarrierTimeout_closing (hw : d.wait = .closing start) : exec (.closingBarrierTimeout c) s =
    .next (if d.tmo = 0 ∨ s.dElapsed d start < d.tmo then s else s.dFail c 0x07 d.pc) := by
  refine congrArg Host.Outcome.next ?_
  rw [h]
  dsimp only
  rw [hw]

theorem djoinTimeout_join {q : DReq} {asked : Option Nat} (hw : d.wait = .join q start asked) : exec (.djoinTimeout c) s =
    .next (if d.tmo = 0 ∨ s.dElapsed d start < d.tmo ∨ !joinAlone s asked then s else s.dFail c 0x08 d.pc) := by
  refine congrArg Host.Outcome.next ?_
  rw [h]
  dsimp only
  rw [hw]
  rfl

end

end

/-! ## Contexts that go on and contexts that stop (R275, R282) -/

section
variable {s : State} {c k : Nat}

theorem dor_dNext (s : State) (c : Nat) (f : Dorent → Dorent) :
    (s.dNext c f).dor c = { f (s.dor c) with pc := ((s.dor c).pc + 1) % 512, wait := .none } := by
  rw [State.dNext, dor_hush, dor_workedOn, dor_modDor]

theorem dor_dNext_other (s : State) (f : Dorent → Dorent) (h : k ≠ c) : (s.dNext c f).dor k = s.dor k := by
  rw [State.dNext, dor_hush, dor_workedOn, dor_modDor_other _ _ h]

theorem tearDown_cores (core : Nat) (x : Circuit) (s : State) : (s.tearDown core x).cores = s.cores := by
  unfold State.tearDown
  split <;> rfl

theorem leaveCircuits_cores (s : State) (core : Nat) : (s.leaveCircuits core).cores = s.cores :=
  foldl_keeps (g := State.cores) (fun s x => tearDown_cores core x s) _ s

/-- A context that stops has the state, error and PC that it is given. -/
theorem dStop_stopped (s : State) (c : Nat) (st : DState) (err : BitVec 8) (pc : Nat) :
    ((s.dStop c st err pc).dor c).state = st ∧ ((s.dStop c st err pc).dor c).err = err := by
  unfold State.dStop
  dsimp only
  refine ⟨((contextsKept_wakeColl c).view (g := Dorent.state) (fun _ _ _ => rfl) c).trans ?_,
    ((contextsKept_wakeColl c).view (g := Dorent.err) (fun _ _ _ => rfl) c).trans ?_⟩
  · rw [dor_modDor]
  · rw [dor_modDor]

/-- A context that is Done leaves the others as they are, but for their undefined buffers and what is on its way to memory. -/
theorem dStop_done_view {α : Type} {g : Dorent → α} (hg : ∀ d sp la, g { d with spoiled := sp, late := la } = g d) (s : State)
    (err : BitVec 8) (pc : Nat) (h : c ≠ k) : g ((s.dStop k .done err pc).dor c) = g (s.dor c) := by
  unfold State.dStop
  dsimp only
  refine ((contextsKept_wakeColl k).view hg c).trans (congrArg g ?_)
  rw [dor_modDor_other _ _ h, if_pos rfl, dor_of_cores (loseBufs_cores ..)]
  exact dor_of_cores (leaveCircuits_cores (s.workedOn k) k) c

end

/-! ## Barriers (R289, R294, R300) -/

section
variable {s : State} {c l : Nat} {d : Dorent} {r : DMember} {y : Lea}

/-- A running core of a lea is once among the participants of its group. -/
theorem groupCores_split (h : s.runningAt c = some (l, d, r)) (hy : s.lea l = some y) (hn : y.cores.Nodup) (hc : c ∈ y.cores) :
    ∃ a b, s.groupCores l d.gid = a ++ (c, d, r) :: b ∧ (∀ p ∈ a, p.1 ≠ c) ∧ ∀ p ∈ b, p.1 ≠ c := by
  obtain ⟨a, b, hab⟩ := List.append_of_mem hc
  have hnc : c ∉ a ++ b := by
    rw [hab] at hn
    exact (List.nodup_middle.1 hn).notMem
  have other (m : List Nat) (hm : c ∉ m) :
      ∀ p ∈ m.filterMap (fun c => (s.running c l d.gid).map (fun p => (c, p.1, p.2))), p.1 ≠ c := by
    intro p hp
    obtain ⟨k, hk, he⟩ := List.mem_filterMap.1 hp
    obtain ⟨q, -, rfl⟩ := Option.map_eq_some_iff.1 he
    exact fun e => hm (e ▸ hk)
  refine ⟨_, _, ?_, other a (fun h => hnc (List.mem_append_left _ h)), other b (fun h => hnc (List.mem_append_right _ h))⟩
  rw [State.groupCores, hy]
  dsimp only
  rw [hab, List.filterMap_append, List.filterMap_cons, running_of_runningAt h]
  rfl

/-- The wait of a barrier of a number. -/
def inBarrier (k : Nat) : DWaiting → Bool
  | .barrier i _ _ _ => i == k
  | _ => false

/-- The wait of the closing barrier. -/
def inClosing : DWaiting → Bool
  | .closing _ => true
  | _ => false

/-- The turns of a group's participants: those before one's own leave a property of the state, its own turn another, and those after it
keep that one. -/
theorem foldl_groupCores {P Q : State → Prop} {f : State → Nat × Dorent × DMember → State}
    (h : s.runningAt c = some (l, d, r)) (hy : s.lea l = some y) (hn : y.cores.Nodup) (hc : c ∈ y.cores)
    (hs : P s) (hp : ∀ t p, p.1 ≠ c → P t → P (f t p)) (h0 : ∀ t, P t → Q (f t (c, d, r)))
    (hq : ∀ t p, p.1 ≠ c → Q t → Q (f t p)) : Q ((s.groupCores l d.gid).foldl f s) := by
  obtain ⟨a, b, he, ha, hb⟩ := groupCores_split h hy hn hc
  have hPa : P (a.foldl f s) := List.foldlRecOn (motive := P) a f hs fun t ht p hm => hp t p (ha p hm) ht
  rw [he, List.foldl_append, List.foldl_cons]
  exact List.foldlRecOn (motive := Q) b f (h0 _ hPa) fun t ht p hm => hq t p (hb p hm) ht

variable (h : s.runningAt c = some (l, d, r)) (hy : s.lea l = some y) (hn : y.cores.Nodup) (hc : c ∈ y.cores)
  (ha : r.list.all (s.atBarrier l d.gid r) = true)
include h hy hn hc ha

theorem dbarComplete_met {k start tmo : Nat} {j : Option Nat} (hw : d.wait = .barrier k start tmo j)
    (hb : s.allIn l d.gid r (inBarrier k) = true) :
    ∃ t, exec (.dbarComplete l d.gid) s = .next t ∧ (t.dor c).pc = (d.pc + 1) % 512 ∧ (t.dor c).wait = .none := by
  refine ⟨_, rfl, foldl_groupCores (P := fun t => t.dor c = d)
    (Q := fun t => (t.dor c).pc = (d.pc + 1) % 512 ∧ (t.dor c).wait = .none) h hy hn hc (runningAt_iff.1 h).2.1.symm
    (fun t p hp ht => ?_) (fun t ht => ?_) (fun t p hp ht => ?_)⟩
  · split
    · split
      · exact (dor_dNext_other t _ hp.symm).trans ht
      · exact ht
    · exact ht
  · rw [hw]
    dsimp only
    split
    · rw [dor_dNext, ht]
      exact ⟨rfl, rfl⟩
    next hf => exact absurd (Bool.and_eq_true_iff.2 ⟨ha, hb⟩) hf
  · split
    · split
      · rwa [dor_dNext_other t _ hp.symm]
      · exact ht
    · exact ht

theorem closingBarrierDone_met {start : Nat} (hw : d.wait = .closing start)
    (hb : s.allIn l d.gid r inClosing = true) :
    ∃ t, exec (.closingBarrierDone l d.gid) s = .next t ∧ (t.dor c).state = .done ∧ (t.dor c).err = 0 := by
  refine ⟨_, rfl, foldl_groupCores (P := fun _ => True) (Q := fun t => (t.dor c).state = .done ∧ (t.dor c).err = 0) h hy hn hc trivial
    (fun _ _ _ _ => trivial) (fun t _ => ?_) (fun t p hp ht => ?_)⟩
  · rw [hw]
    dsimp only
    split
    · exact dStop_stopped t c .done 0 d.pc
    next hf => exact absurd (Bool.and_eq_true_iff.2 ⟨ha, hb⟩) hf
  · split
    · split
      · rwa [dStop_done_view (g := Dorent.state) (fun _ _ _ => rfl) t _ _ hp.symm,
          dStop_done_view (g := Dorent.err) (fun _ _ _ => rfl) t _ _ hp.symm]
      · exact ht
    · exact ht

end

end Sys2Proof.Proofs

namespace Sys2Proof.Proofs

open Sys2Proof Sys2Proof.Machine Sys2Proof.Laws

/-! ## Agreement (R297-R299) -/

section
variable {s : State} {c l : Nat} {d : Dorent} {r : DMember}

theorem dPosts_cores (core : Nat) (msg : Nat → Msg) (l : List Nat) (s : State) :
    (l.foldl (fun s c => s.dPost core c (msg s.tide)) s).cores = s.cores :=
  foldl_keeps (g := State.cores) (f := fun s c => s.dPost core c (msg s.tide)) (fun _ _ => rfl) l s

theorem dPosts_agreements (core : Nat) (msg : Nat → Msg) (l : List Nat) (s : State) :
    (l.foldl (fun s c => s.dPost core c (msg s.tide)) s).agreements = s.agreements :=
  foldl_keeps (g := State.agreements) (f := fun s c => s.dPost core c (msg s.tide)) (fun _ _ => rfl) l s

/-- A message to each core of a list is on its way. -/
theorem dPosts_mail (core : Nat) (msg : Nat → Msg) : ∀ (l : List Nat) (s : State),
    (∀ m ∈ s.mail, m ∈ (l.foldl (fun s c => s.dPost core c (msg s.tide)) s).mail)
    ∧ ∀ v ∈ l, ∃ m ∈ (l.foldl (fun s c => s.dPost core c (msg s.tide)) s).mail, m.dst = v ∧ m.msg = msg s.tide
  | [], s => ⟨fun _ h => h, by simp⟩
  | x :: l, s => by
    obtain ⟨hk, hl⟩ := dPosts_mail core msg l (s.dPost core x (msg s.tide))
    refine ⟨fun m hm => hk m (List.mem_append_left _ hm), fun v hv => ?_⟩
    rcases List.mem_cons.1 hv with rfl | hv
    · exact ⟨_, hk _ (List.mem_append_right _ (List.mem_singleton_self _)), rfl, rfl⟩
    · exact hl v hv

section
variable (h : s.runningAt c = some (l, d, r)) {qa t att : Nat} {vote : Bool} {tau : Nat} {i : Option Nat}
include h

theorem agreeVoteArrive_unheard (hw : d.wait = .agree qa t att vote tau false i) (hn : s.heard l c (r.coord att) 0 = none) :
    exec (.agreeVoteArrive c) s = .next s := by
  refine congrArg Host.Outcome.next ?_
  rw [h]
  dsimp only
  rw [hw]
  dsimp only
  rw [hn]
  rfl

/-- The members that a round decides on: those that stay by rank, then those that come (R297, R299). -/
def members (r : DMember) (y : Lea) (a : Agreement) : List Nat :=
  r.list.filter (fun c => a.votes.any (fun v => v.1 == c && v.2)) ++ (a.joins.foldl (fun acc x => insJoin y x acc) []).map (fun x => x.2)

/-- R299: the first vote of a round, or the first request to join it, opens it at the coordinator. -/
theorem agreeVoteArrive_first {q : DMember} (hw : d.wait = .agree qa t att vote tau false i)
    (hh : (s.heard l c (r.coord att) 0).isSome = true) (hq : (s.dor (r.coord att)).record d.gid = some q) (hv : q.ver = r.ver)
    (hl : (s.core (r.coord att)).lea = some l) (ha : s.agreements = []) : exec (.agreeVoteArrive c) s = .next
      { s.modDor c (fun d => { d with wait := .agree qa t att vote tau true i }) with
        agreements := [⟨l, d.gid, r.ver, r.coord att, if r.rank.isSome then [(c, vote)] else [],
          if r.rank.isSome then [] else [(s.now, c)], none⟩] } := by
  refine congrArg Host.Outcome.next ?_
  rw [h]
  dsimp only
  rw [hw]
  dsimp only
  rw [if_neg (by simpa [Option.isSome_iff_ne_none] using hh), hq]
  dsimp only
  rw [if_neg (by simp [hv, hl]), ha]
  cases hr : r.rank <;> rfl

section
variable {a : Agreement} {y : Lea} (hw : d.wait = .agree qa t att vote tau true i) (hy : s.lea l = some y) (hc : r.coord att = c)
  (ha : s.agreements = [a]) (hl : a.lea = l) (hg : a.gid = d.gid) (hv : a.ver = r.ver) (hk : a.coord = c) (hd : a.decision = none)
include hw hy hc ha hl hg hv hk hd

/-- R299: the one round of a coordinator, past its checks. -/
theorem agreeDeadline_one : exec (.agreeDeadline c) s = .next (
    if (r.list.all (fun c => a.votes.any (fun v => v.1 == c)) || decide (tau + t + d.parkedTides ≤ s.tide)) = true then
      ((a.votes.map (fun v => v.1)) ++ (a.joins.map (fun v => v.2))).foldl
        (fun s m => s.dPost c m (.decision d.gid r.ver (members r y a) (s.tide + t)))
        { s with agreements := [{ a with decision := some (members r y a, s.tide + t) }] }
    else s) := by
  refine congrArg Host.Outcome.next ?_
  rw [h]
  dsimp only
  rw [hw, hy]
  dsimp only
  have hi : (a.lea == l && a.gid == d.gid && a.ver == r.ver && a.coord == c) = true := by simp [hl, hg, hv, hk]
  rw [ha]
  simp only [List.find?_cons, hi, List.map_singleton, if_true]
  by_cases hdue : (r.list.all (fun c => a.votes.any (fun v => v.1 == c)) || decide (tau + t + d.parkedTides ≤ s.tide)) = true
  · rw [if_neg (by simp [hc, hd, hdue]), if_pos hdue]
    rfl
  · rw [if_pos (.inr (.inr (by simpa using hdue))), if_neg hdue]

theorem agreeDeadline_due (due : (∀ m ∈ r.list, ∃ v ∈ a.votes, v.1 = m) ∨ tau + t + d.parkedTides ≤ s.tide) :
    ∃ u, exec (.agreeDeadline c) s = .next u ∧ u.cores = s.cores
      ∧ u.agreements = [{ a with decision := some (members r y a, s.tide + t) }]
      ∧ (∀ v ∈ a.votes, ∃ m ∈ u.mail, m.dst = v.1 ∧ m.msg = .decision d.gid r.ver (members r y a) (s.tide + t))
      ∧ (∀ v ∈ a.joins, ∃ m ∈ u.mail, m.dst = v.2 ∧ m.msg = .decision d.gid r.ver (members r y a) (s.tide + t)) := by
  let msg (n : Nat) : Msg := .decision d.gid r.ver (members r y a) (n + t)
  refine ⟨_, (agreeDeadline_one h hw hy hc ha hl hg hv hk hd).trans (congrArg _ (if_pos (by simpa using due))), dPosts_cores c msg ..,
    dPosts_agreements c msg .., fun v hm => (dPosts_mail c msg ..).2 v.1 (List.mem_append_left _ (List.mem_map_of_mem hm)),
    fun v hm => (dPosts_mail c msg ..).2 v.2 (List.mem_append_right _ (List.mem_map_of_mem (f := fun v => v.2) hm))⟩

theorem agreeDeadline_early (due : ¬((∀ m ∈ r.list, ∃ v ∈ a.votes, v.1 = m) ∨ tau + t + d.parkedTides ≤ s.tide)) :
    exec (.agreeDeadline c) s = .next s := by
  refine (agreeDeadline_one h hw hy hc ha hl hg hv hk hd).trans (congrArg _ (if_neg ?_))
  simpa using due

end

section
variable {sent : Bool}

theorem agreeDecisionArrive_waiting (hw : d.wait = .agree qa t att vote tau sent none) (ht : s.told l d.gid r.ver (r.coord att) c = none) :
    exec (.agreeDecisionArrive c) s = .next s := by
  refine congrArg Host.Outcome.next ?_
  rw [h]
  dsimp only
  rw [hw]
  dsimp only
  rw [ht]

/-- R299: a decision that has come. -/
theorem agreeDecisionArrive_told {m : List Nat} {n : Nat} (hw : d.wait = .agree qa t att vote tau sent none)
    (ht : s.told l d.gid r.ver (r.coord att) c = some (m, n)) : exec (.agreeDecisionArrive c) s = .next (
      if m.contains c then s.modDor c (fun d => { d with wait := .agree qa t att vote tau sent (some n) })
      else (s.modDor c (fun d => (d.putOutcome qa r 3).setRecord { r with rank := none })).dStop c .left 0 d.pc) := by
  refine congrArg Host.Outcome.next ?_
  rw [h]
  dsimp only
  rw [hw]
  dsimp only
  rw [ht]

theorem agreeNoDecision_agree (hw : d.wait = .agree qa t att vote tau sent none) : exec (.agreeNoDecision c) s =
    .next (if s.tide < tau + 3 * t + d.parkedTides then s else s.dNext c (fun d => d.putOutcome qa r 1)) := by
  refine congrArg Host.Outcome.next ?_
  rw [h]
  dsimp only
  rw [hw]

theorem agreeInstall_told {m : List Nat} {n j : Nat} (hw : d.wait = .agree qa t att vote tau sent (some n))
    (ht : s.told l d.gid r.ver (r.coord att) c = some (m, j)) : exec (.agreeInstall c) s = .next (if s.tide < n then s
      else s.install c (r.become c (r.ver + 1) m) (fun d => d.putOutcome qa (r.become c (r.ver + 1) m) 0)) := by
  refine congrArg Host.Outcome.next ?_
  rw [h]
  dsimp only
  rw [hw]
  dsimp only
  rw [ht]

end

end

end

/-! ## Records of another version (R297) -/

section
variable {s : State} {c l p : Nat} {d : Dorent} {r q : DMember}

/-- The record of a group after it is replaced (R276, R297). -/
theorem record_setRecord {r1 : DMember} (hr : d.record r.gid = some r) (hg : r1.gid = r.gid) :
    (d.setRecord r1).record r.gid = some r1 := by
  have hp : ((fun x : DMember => x.gid == r.gid) ∘ fun x => if x.gid = r1.gid then r1 else x) = fun x => x.gid == r.gid := by
    funext x
    by_cases hx : x.gid = r1.gid
    · simp [hx]
    · simp [hx]
  have hf : d.recs.find? (fun x => x.gid == r.gid) = some r := hr
  rw [Dorent.record, Dorent.setRecord, List.find?_map, hp, hf, Option.map_some, hg, if_pos rfl]

/-- A version installed: the instruction is over, the record is the new one, and nothing is bound (R297). -/
theorem install_dor (s : State) (c : Nat) (r : DMember) (f : Dorent → Dorent) : (s.install c r f).dor c =
    { f { ((s.dor c).setRecord r) with
        chans := List.replicate 8 .unbound, trees := List.replicate 4 none, ops := (s.dor c).ops.filter (fun o => o.kind == 2),
        barriers := 0 } with pc := ((s.dor c).pc + 1) % 512, wait := .none } := by
  rw [State.install, dor_dNext, dor_hush, dor_of_cores (leaveCircuits_cores s c)]

section
variable (h : s.runningAt c = some (l, d, r))
include h

theorem catchUpRecord_unsent (hp : (s.core p).lea = some l) (hq : (s.dor p).record d.gid = some q)
    (hm : s.recordMail l d.gid p c = none) :
    let spoke : Prop := d.speaksTo r p = true
      ∨ ((s.dor p).state = .running ∧ (s.dor p).gid = d.gid ∧ (s.dor p).speaksTo q c = true)
    ((q.ver.toNat ≤ r.ver.toNat ∨ ¬spoke) → exec (.catchUpRecord c p) s = .next s)
    ∧ (r.ver.toNat < q.ver.toNat → spoke → exec (.catchUpRecord c p) s =
        .next (if 16 ≤ s.exchangeFlits p (some l) then s else s.dPost p c (.record d.gid q.ver q.list))) := by
  intro spoke
  have hk : s.knowsMore l c p d r =
      if r.ver.toNat < q.ver.toNat && (d.speaksTo r p || ((s.dor p).state == .running && (s.dor p).gid == d.gid && (s.dor p).speaksTo q c))
      then some q else none := by
    rw [State.knowsMore]
    rw [if_pos hp, hq]
  have hs : spoke ↔ (d.speaksTo r p || ((s.dor p).state == .running && (s.dor p).gid == d.gid && (s.dor p).speaksTo q c)) = true := by
    simp only [spoke, Bool.or_eq_true, Bool.and_eq_true, beq_iff_eq, and_assoc]
  refine ⟨fun hn => congrArg Host.Outcome.next ?_, fun hv hsp => congrArg Host.Outcome.next ?_⟩
  · rw [h]
    dsimp only
    rw [hm]
    dsimp only
    rw [hk, if_neg]
    rw [Bool.and_eq_true, decide_eq_true_eq, ← hs, not_and_or, Nat.not_lt]
    exact hn
  · rw [h]
    dsimp only
    rw [hm]
    dsimp only
    rw [hk, if_pos (Bool.and_eq_true_iff.2 ⟨decide_eq_true hv, hs.1 hsp⟩), ← hp]

/-- R297: a record on its way, or come. -/
theorem catchUpRecord_sent {m : Mail} {v : BitVec 32} {z : List Nat} (hm : s.recordMail l d.gid p c = some (m, v, z)) :
    exec (.catchUpRecord c p) s = .next (if !s.arrives m then s else if v.toNat ≤ r.ver.toNat then s.dropMail m.id
      else (s.dropMail m.id).catchUp c d (r.become c v z)) := by
  refine congrArg Host.Outcome.next ?_
  rw [h]
  dsimp only
  rw [hm]

end

theorem catchUp_agree {r1 : DMember} {qa t att tau : Nat} {vote sent : Bool} {i : Option Nat}
    (hw : d.wait = .agree qa t att vote tau sent i) : s.catchUp c d r1 = s.install c r1 (fun x => x.putOutcome qa r1 2) := by
  rw [State.catchUp, hw]

/-- R297: a record of a higher version taken: the wait is over, the record is the new one, and nothing is bound; PC goes on where
an instruction waited. -/
theorem catchUp_dor {r1 : DMember} (hd : s.dor c = d) (hr : d.record d.gid = some r) (hg : r1.gid = d.gid) :
    let x := (s.catchUp c d r1).dor c
    x.wait = .none ∧ x.record d.gid = some r1 ∧ x.pc = (if d.wait = .none then d.pc else (d.pc + 1) % 512)
      ∧ ∀ k, x.chans.getD k .unbound = .unbound ∧ x.trees.getD k none = none := by
  have hgid : r.gid = d.gid := by simpa using List.find?_some hr
  have hrec : (d.setRecord r1).record d.gid = some r1 := by
    rw [← hgid] at hr hg ⊢
    exact record_setRecord hr hg
  have hun (k : Nat) : (List.replicate 8 DChan.unbound).getD k .unbound = .unbound
      ∧ (List.replicate 4 (none : Option DTree)).getD k none = none := by
    constructor <;> rw [List.getD_eq_getElem?_getD, List.getElem?_replicate] <;> split <;> rfl
  intro x
  have hx : x = (s.catchUp c d r1).dor c := rfl
  subst hd
  rw [State.catchUp] at hx
  split at hx
  next hw =>
    rw [dor_modDor, install_dor] at hx
    rw [hx, if_pos hw]
    exact ⟨rfl, hrec, rfl, hun⟩
  next hw =>
    rw [install_dor] at hx
    rw [hx, if_neg (by simp [hw])]
    exact ⟨rfl, hrec, rfl, hun⟩
  next hn _ =>
    rw [install_dor] at hx
    rw [hx, if_neg hn]
    exact ⟨rfl, hrec, rfl, hun⟩

end

/-- Settles O46: each event by what the waiting instruction finds, a barrier by its member's turn among the others', an installed
version by the context that it leaves. -/
theorem collectiveWaits : Obligations.CollectiveWaits := by
  intro c l d r s h late jump fail
  have past (j : Option Nat) : Host.Outcome.next (expired s c d j) = (match j with
      | some t => jump t
      | none => fail 0x07) := by
    cases j <;> rfl
  refine ⟨fun n thr start tmo j hw => ⟨fun hc => ?_, fun hn hl => ?_⟩, fun k start tmo j hw => ⟨fun hl => ?_, fun hl => ?_⟩,
    fun q start asked hw => ⟨fun ha hl => ?_, fun ha => ?_⟩, fun start hw => ⟨fun hl => ?_, fun hl => ?_⟩,
    fun y k start tmo j hy hn hc hw ha hb => dbarComplete_met h hy hn hc ha hw hb,
    fun y start hy hn hc hw ha hb => closingBarrierDone_met h hy hn hc ha hw hb,
    fun qa t att vote tau i hw => ⟨agreeVoteArrive_unheard h hw, fun q hh hq hv hl ha => ?_⟩,
    fun qa t att vote tau i y a hw hy hc ha hl hg hv hk hd => ⟨agreeDeadline_due h hw hy hc ha hl hg hv hk hd,
      agreeDeadline_early h hw hy hc ha hl hg hv hk hd⟩,
    fun qa t att vote tau sent hw => ⟨agreeDecisionArrive_waiting h hw, fun m i ht => ⟨fun hc => ?_, fun hc => ?_⟩,
      agreeNoDecision_agree h hw⟩,
    fun p q hp hq hm => catchUpRecord_unsent h hp hq hm,
    fun p m v z hm => ⟨fun ha => ?_, fun ha hv => ?_, fun ha hv => ⟨fun qa t att vote tau sent i hw => ?_, ?_⟩⟩,
    fun qa t att vote tau sent i m j hw ht => agreeInstall_told h hw ht⟩
  · rw [dorentTimeout_count h hw]
    rcases hc with hc | hc
    · rw [if_pos hc]
    · rw [if_pos (not_late_iff.1 hc), ite_self]
  · rw [dorentTimeout_count h hw, if_neg (Nat.not_le.2 hn), if_neg (late_iff.1 hl)]
    exact past j
  · rw [dorentTimeout_barrier h hw, if_pos (not_late_iff.1 hl)]
  · rw [dorentTimeout_barrier h hw, if_neg (late_iff.1 hl)]
    exact past j
  · rw [djoinTimeout_join h hw, if_neg (fun e => not_or.2 ⟨late_iff.1 hl, by simp [joinAlone_iff.2 ha]⟩ (or_assoc.2 e))]
    rfl
  · rw [djoinTimeout_join h hw, if_pos (or_assoc.1 ?_)]
    rcases ha with ha | ha
    · exact .inr (by simpa using fun e => ha (joinAlone_iff.1 e))
    · exact .inl (not_late_iff.1 ha)
  · rw [closingBarrierTimeout_closing h hw, if_neg (late_iff.1 hl)]
    rfl
  · rw [closingBarrierTimeout_closing h hw, if_pos (not_late_iff.1 hl)]
  · exact ⟨_, agreeVoteArrive_first h hw hh hq hv hl ha, rfl, congrArg Dorent.wait
      (dor_modDor s c (fun d => { d with wait := .agree qa t att vote tau true i }))⟩
  · rw [agreeDecisionArrive_told h hw ht, if_pos (List.contains_iff_mem.2 hc)]
  · rw [agreeDecisionArrive_told h hw ht, if_neg (fun e => hc (List.contains_iff_mem.1 e))]
  · rw [catchUpRecord_sent h hm, if_pos (by simp [ha])]
  · rw [catchUpRecord_sent h hm, if_neg (by simp [ha]), if_pos hv]
  · rw [catchUpRecord_sent h hm, if_neg (by simp [ha]), if_neg (Nat.not_le.2 hv), catchUp_agree hw]
  · obtain ⟨hl, hd, -, hr⟩ := runningAt_iff.1 h
    have hg : r.gid = d.gid := by simpa using List.find?_some hr
    refine ⟨_, (catchUpRecord_sent h hm).trans (congrArg _ ?_), catchUp_dor (s := s.dropMail m.id) hd.symm hr hg⟩
    rw [if_neg (by simp [ha]), if_neg (Nat.not_le.2 hv)]

end Sys2Proof.Proofs

namespace Sys2Proof.Proofs

open Sys2Proof Sys2Proof.Machine Sys2Proof.Laws

/-! ## Membership records (R276, R302) -/

/-- What a fold establishes for each element of its list: the element's step makes it hold, and no step undoes it. -/
theorem foldl_establishes {α : Type} {P : State → Prop} {Q : α → State → Prop} {f : State → α → State}
    (hP : ∀ s a, P s → P (f s a)) (h0 : ∀ s a, P s → Q a (f s a)) (hk : ∀ s a b, P s → Q a s → Q a (f s b)) :
    ∀ (l : List α) (s : State), P s → ∀ a ∈ l, Q a (l.foldl f s)
  | [], _, _, _, ha => absurd ha List.not_mem_nil
  | b :: l, s, hs, a, ha => by
    have hb : P (f s b) := hP s b hs
    rcases List.mem_cons.1 ha with rfl | ha
    · exact (List.foldlRecOn (motive := fun t => P t ∧ Q a t) l f ⟨hb, h0 s a hs⟩
        fun t ht c _ => ⟨hP t c ht.1, hk t a c ht.1 ht.2⟩).2
    · exact foldl_establishes hP h0 hk l (f s b) hb a ha

section
variable {s : State} {l core k : Nat} {r x : DMember} {y : Lea}

theorem keyFind_modPoolSave (c : Core) (l : Nat) (f : PoolSave → PoolSave) :
    keyFind (c.modPoolSave l f).saves l = (keyFind c.saves l).map (fun a => { a with pool := a.pool.map f }) := by
  unfold Core.modPoolSave
  dsimp only
  induction c.saves with
  | nil => rfl
  | cons e t ih =>
    obtain ⟨n, a⟩ := e
    by_cases h : l = n
    · subst h
      simp [keyFind]
    · simp [keyFind, h, Ne.symm h, ih]

/-- A record installed is the last of those of its lea on its core. -/
theorem recsOf_addRec (h : s.lea l = some y) : (s.addRec l core r).recsOf l core = s.recsOf l core ++ [r] := by
  unfold State.addRec State.recsOf
  dsimp only
  by_cases hc : (s.core core).lea = some l
  · rw [if_pos hc, if_pos hc, State.modDor, core_modCore, if_pos hc]
  · rw [if_neg hc, if_neg hc]
    cases hp : (keyFind (s.core core).saves l).bind (fun a => a.pool) with
    | some p =>
      dsimp only
      rw [core_modCore, if_neg (by exact hc), keyFind_modPoolSave]
      obtain ⟨a, ha, hap⟩ := Option.bind_eq_some_iff.1 hp
      rw [ha]
      simp [hap]
    | none =>
      dsimp only
      rw [show ((s.modLea l (fun l => { l with recs := l.recs ++ [(core, r)] })).core core) = s.core core by
        rw [State.core, modLea_cores]; rfl, if_neg hc, hp, lea_modLea h, h]
      simp [Lea.recsFor]

/-- Elsewhere the lea's records are as they were. -/
theorem recsOf_addRec_other (h : s.lea l = some y) (hk : k ≠ core) : (s.addRec l core r).recsOf l k = s.recsOf l k := by
  have congr {t : State} (ht : t.core k = s.core k)
      (hr : (t.lea l).elim [] (fun l => l.recsFor k) = (s.lea l).elim [] (fun l => l.recsFor k)) : t.recsOf l k = s.recsOf l k := by
    rw [State.recsOf, State.recsOf, ht, hr]
  unfold State.addRec
  dsimp only
  split
  · exact congr (core_modCore_other s _ hk) rfl
  · split
    · exact congr (core_modCore_other s _ hk) rfl
    · refine congr (by rw [State.core, modLea_cores]; rfl) ?_
      rw [lea_modLea h, h]
      simp [Lea.recsFor, Ne.symm hk]

theorem lea_addRec (h : s.lea l = some y) : ∃ z, (s.addRec l core r).lea l = some z := by
  unfold State.addRec
  dsimp only
  split
  · exact ⟨y, h⟩
  · split
    · exact ⟨y, h⟩
    · exact ⟨_, lea_modLea h _⟩

theorem mem_recsOf_addRec (h : s.lea l = some y) (hx : x ∈ s.recsOf l k) : x ∈ (s.addRec l core r).recsOf l k := by
  by_cases hk : k = core
  · rw [hk, recsOf_addRec h, ← hk]
    exact List.mem_append_left _ hx
  · rwa [recsOf_addRec_other h hk]

/-- The record of a place among a new group's members and candidates (R276). -/
def newRecord (y : Lea) (gid : Nat) (ms : List Nat) (nsr : Bool) (p : Nat) : DMember :=
  { gid := gid, ver := 1, rank := if p < ms.length then some p else none, size := ms.length, nsr := nsr,
    list := ms.map (fun i => y.cores.getD i 0) }

/-- A new group's records installed. -/
def recorded (s : State) (l : Nat) (y : Lea) (gid : Nat) (ms cs : List Nat) (nsr : Bool) : State :=
  (ms ++ cs).zipIdx.foldl (fun s p => s.addRec l (y.cores.getD p.1 0) (newRecord y gid ms nsr p.2)) s

theorem recorded_mem {gid : Nat} {ms cs : List Nat} {nsr : Bool} : (recorded s l y gid ms cs nsr).mem = s.mem :=
  foldl_keeps (g := State.mem) (fun _ _ => addRec_mem ..) _ s

theorem recorded_recsOf {gid : Nat} {ms cs : List Nat} {nsr : Bool} {p j : Nat} (h : s.lea l = some y) (hp : (ms ++ cs)[p]? = some j) :
    newRecord y gid ms nsr p ∈ (recorded s l y gid ms cs nsr).recsOf l (y.cores.getD j 0) := by
  have hm : (j, p) ∈ (ms ++ cs).zipIdx := List.mem_zipIdx_iff_getElem?.2 hp
  refine foldl_establishes (P := fun t => ∃ z, t.lea l = some z)
    (Q := fun q t => newRecord y gid ms nsr q.2 ∈ t.recsOf l (y.cores.getD q.1 0)) (fun t q ht => ?_) (fun t q ht => ?_)
    (fun t q b ht hq => ?_) _ s ⟨y, h⟩ _ hm
  · obtain ⟨z, hz⟩ := ht
    exact lea_addRec hz
  · obtain ⟨z, hz⟩ := ht
    rw [recsOf_addRec hz]
    exact List.mem_append_right _ (List.mem_singleton_self _)
  · obtain ⟨z, hz⟩ := ht
    exact mem_recsOf_addRec hz hq

end

/-- A group request that R276 does not allow. -/
def GroupBad (s : State) (l gid : Nat) (ms cs : List Nat) (y : Lea) : Prop :=
  ms = [] ∨ 65536 ≤ gid ∨ (∃ i ∈ ms ++ cs, y.leal ≤ i) ∨ (∃ c ∈ y.cores, ∃ r ∈ s.recsOf l c, r.gid = gid)

section
variable {s : State} {l gid : Nat} {ms cs : List Nat} {nsr : Bool} {y : Lea}

theorem groupBad_iff : GroupBad s l gid ms cs y ↔ (ms.isEmpty || (ms ++ cs).any (fun i => decide (y.leal ≤ i)) || decide (65536 ≤ gid)
    || y.cores.any (fun c => (s.recsOf l c).any (fun r => r.gid == gid))) = true := by
  simp only [GroupBad, Bool.or_eq_true, List.isEmpty_iff, List.any_eq_true, decide_eq_true_eq, beq_iff_eq, or_assoc]
  exact or_congr_right or_left_comm

theorem groupCreate_bad (h : s.lea l = some y) (hb : GroupBad s l gid ms cs y) : exec (.groupCreate l gid ms cs nsr) s = .next s := by
  refine congrArg Host.Outcome.next ?_
  rw [h]
  exact if_pos (groupBad_iff.1 hb)

theorem groupCreate_good (h : s.lea l = some y) (hb : ¬GroupBad s l gid ms cs y) :
    exec (.groupCreate l gid ms cs nsr) s = .next (recorded s l y gid ms cs nsr) := by
  refine congrArg Host.Outcome.next ?_
  rw [h]
  exact if_neg (mt groupBad_iff.2 hb)

end

/-! ## Changes that are whole (R325) -/

section
variable {s : State} {x : Circuit}

theorem readyAll_one (hc : s.circuits = [x]) : s.readyAll = s.readyOne x.id := by
  rw [State.readyAll, hc]
  rfl

/-- A channel's change whose other end has not asked waits for it. -/
theorem readyAll_half (hc : s.circuits = [x]) (ht : x.tree = false) (hh : (x.srcIdx.isSome && x.dstIdx.isSome) = false) :
    s.readyAll = s := by
  rw [readyAll_one hc, State.readyOne, hc, List.find?_cons, beq_self_eq_true]
  dsimp only
  rw [ht, hh]
  exact if_neg (by simp)

/-- A channel's change is ready once both ends have asked. -/
theorem readyAll_channel (hc : s.circuits = [x]) (ht : x.tree = false) (hh : (x.srcIdx.isSome && x.dstIdx.isSome) = true)
    (hp : x.phase = .asking) : s.readyAll = { s with
      circuits := [{ x with phase := .ready s.tide s.nextId, change := s.nextId }], nextId := s.nextId + 1 } := by
  rw [readyAll_one hc, State.readyOne, hc, List.find?_cons, beq_self_eq_true]
  dsimp only
  rw [ht, hh, if_pos ⟨hp, by simp⟩]
  simp [ht]

/-- A tree record that names no other member is ready as it comes (R287). -/
theorem readyAll_tree (hc : s.circuits = [x]) (ht : x.tree = true) (hi : x.srcIdx.isSome = true) (hl : x.links = [])
    (hp : x.phase = .asking) : s.readyAll = { s with
      circuits := [{ x with phase := .ready s.tide s.nextId, change := s.nextId }], nextId := s.nextId + 1 } := by
  obtain ⟨i, hi⟩ := Option.isSome_iff_exists.1 hi
  have ha : Circuit.asks x.lea x.gid (x.srcIdx.getD 0) x.ver x = true := by simp [Circuit.asks, hi, hp]
  have hn : s.neighbours x = [x.src] := by
    simp [State.neighbours, hc, ht, ha, hl, State.joined]
  have hnode : s.treeNode (Circuit.asks x.lea x.gid (x.srcIdx.getD 0) x.ver) x.src = some x := by
    simp [State.treeNode, hc, ht, ha]
  rw [readyAll_one hc, State.readyOne, hc, List.find?_cons, beq_self_eq_true]
  dsimp only
  rw [if_pos ht, hn, List.map_singleton, hnode, if_pos ⟨hp, by simp⟩]
  simp

end

/-! ## Requests that reach Harbour (R286, R287) -/

/-- The circuit that a DJOIN asks for, with its own end alone. -/
def askedCircuit (s : State) (l c : Nat) (d : Dorent) (m : DMember) (r : DReq) : Circuit :=
  let peer := (m.core r.peer).getD c
  { id := s.nextId, change := s.nextId, lea := l, gid := d.gid, ver := m.ver, tree := false,
    src := if r.send then c else peer, dst := if r.send then peer else c,
    srcIdx := if r.send then some r.idx else none, dstIdx := if r.send then none else some r.idx, parent := none, kids := [],
    req := r, rate := r.rate, reached := s.tide, phase := .asking, granted := false, old := oldCircuit d r }

/-- The tree record that a DJOIN.TREE asks for. -/
def askedTree (s : State) (l c : Nat) (d : Dorent) (m : DMember) (r : DReq) : Circuit :=
  { id := s.nextId, change := s.nextId, lea := l, gid := d.gid, ver := m.ver, tree := true, src := c, dst := c, srcIdx := some r.idx,
    dstIdx := none, parent := r.parent.bind m.core, kids := r.kids.map (fun k => k.bind m.core), req := r, rate := r.rate,
    reached := s.tide, phase := .asking, granted := false, old := oldCircuit d r }

/-- A circuit asked for, and the context waiting for it. -/
def asking (s : State) (c : Nat) (r : DReq) (start : Nat) (x : Circuit) : State :=
  { s with circuits := s.circuits ++ [x], nextId := s.nextId + 1 }.modDor c (fun d => { d with wait := .join r start (some x.id) })

section
variable {s : State} {c l start : Nat} {d : Dorent} {m : DMember} {r : DReq}

@[simp] theorem asking_circuits {x : Circuit} : (asking s c r start x).circuits = s.circuits ++ [x] := rfl

theorem askChannel_alone (hc : s.circuits = []) :
    s.askChannel l c d m r start = asking s c r start (askedCircuit s l c d m r) := by
  rw [State.askChannel, hc]
  cases hr : r.send <;> simp [asking, askedCircuit, hr, hc]

/-- A tree record that names no other member cannot contradict itself. -/
theorem recordsDiffer_self {x : Circuit} (hp : x.parent = none) (hk : x.kids = [none, none, none, none]) : recordsDiffer x x = false := by
  simp [recordsDiffer, hp, hk]

theorem askTree_alone (hc : s.circuits = []) (hp : r.parent = none) (hk : r.kids = [none, none, none, none]) :
    s.askTree l c d m r start = asking s c r start (askedTree s l c d m r) := by
  have hone : (asking s c r start (askedTree s l c d m r)).circuits = [askedTree s l c d m r] := by
    simp [hc]
  have hfoes : (m.list.filter (fun x => ((asking s c r start (askedTree s l c d m r)).treeNode
      (Circuit.asks l d.gid r.idx m.ver) x).any (recordsDiffer (askedTree s l c d m r)))) = [] := by
    refine List.filter_eq_nil_iff.2 fun x _ => ?_
    have hself : recordsDiffer (askedTree s l c d m r) (askedTree s l c d m r) = false :=
      recordsDiffer_self (by simp [askedTree, hp]) (by simp [askedTree, hk])
    rw [State.treeNode, hone, List.filter_singleton]
    cases (askedTree s l c d m r).tree && Circuit.asks l d.gid r.idx m.ver (askedTree s l c d m r)
      && (askedTree s l c d m r).src == x <;> simp [hself]
  exact if_pos (List.isEmpty_iff.2 hfoes)

/-- A waiting circuit, with the other end's request too. -/
def pairedCircuit (s : State) (d : Dorent) (r : DReq) (x : Circuit) : Circuit :=
  { if r.send then { x with srcIdx := some r.idx } else { x with dstIdx := some r.idx } with
    rate := if (Config.freeWord s.free).getLsbD 0 then x.rate else r.rate, old := x.old ++ oldCircuit d r, reached := s.tide }

/-- The other end's request taken, and the context waiting for the circuit. -/
def pairing (s : State) (c : Nat) (d : Dorent) (r : DReq) (start : Nat) (x : Circuit) : State :=
  { s with circuits := [pairedCircuit s d r x], free := s.free + 1 }.modDor c (fun d => { d with wait := .join r start (some x.id) })

theorem pairing_wait {x : Circuit} : ((pairing s c d r start x).dor c).wait = .join r start (some x.id) :=
  congrArg Dorent.wait (dor_modDor ..)

theorem asking_wait {x : Circuit} : ((asking s c r start x).dor c).wait = .join r start (some x.id) :=
  congrArg Dorent.wait (dor_modDor ..)

/-- A circuit that waits for the end which asks. -/
def Awaits (c : Nat) (m : DMember) (r : DReq) (x : Circuit) : Prop :=
  if r.send then x.src = c ∧ x.dst = (m.core r.peer).getD c ∧ x.srcIdx = none ∧ x.dstIdx.isSome = true
  else x.dst = c ∧ x.src = (m.core r.peer).getD c ∧ x.dstIdx = none ∧ x.srcIdx.isSome = true

section
variable {x : Circuit}

theorem pairedCircuit_tree : (pairedCircuit s d r x).tree = x.tree := by
  unfold pairedCircuit
  split <;> rfl

theorem pairedCircuit_phase : (pairedCircuit s d r x).phase = x.phase := by
  unfold pairedCircuit
  split <;> rfl

theorem pairedCircuit_own : (if r.send then (pairedCircuit s d r x).srcIdx else (pairedCircuit s d r x).dstIdx) = some r.idx := by
  unfold pairedCircuit
  split <;> rfl

theorem pairedCircuit_rate : (pairedCircuit s d r x).rate = x.rate ∨ (pairedCircuit s d r x).rate = r.rate :=
  ite_eq_or_eq _ _ _

/-- A waiting circuit has both ends once the awaited one asks. -/
theorem pairedCircuit_ends (h : Awaits c m r x) :
    ((pairedCircuit s d r x).srcIdx.isSome && (pairedCircuit s d r x).dstIdx.isSome) = true := by
  unfold Awaits at h
  unfold pairedCircuit
  split at h
  next hr =>
    obtain ⟨-, -, -, hdst⟩ := h
    rw [if_pos hr]
    exact hdst
  next hr =>
    obtain ⟨-, -, -, hsrc⟩ := h
    rw [if_neg hr]
    exact Bool.and_eq_true_iff.2 ⟨hsrc, rfl⟩

theorem askChannel_pairs (hc : s.circuits = [x]) (ht : x.tree = false) (hl : x.lea = l) (hg : x.gid = d.gid)
    (hv : x.ver = m.ver) (hp : x.phase = .asking) (hends : Awaits c m r x) :
    s.askChannel l c d m r start = pairing s c d r start x := by
  rw [State.askChannel, hc]
  unfold Awaits at hends
  split at hends
  next hr =>
    obtain ⟨hsrc, hdst, hidx, -⟩ := hends
    simp [pairing, pairedCircuit, hr, ht, hl, hg, hv, hp, hsrc, hdst, hidx]
  next hr =>
    obtain ⟨hdst, hsrc, hidx, -⟩ := hends
    simp [pairing, pairedCircuit, hr, ht, hl, hg, hv, hp, hsrc, hdst, hidx]

end

end

section
variable {s : State} {c l start : Nat} {d : Dorent} {m : DMember} {r : DReq} (hs : s.runningAt c = some (l, d, m))
include hs

theorem circuitRequestArrive_unheard (h : s.heard l c c 0 = none) : exec (.circuitRequestArrive c) s = .next s := by
  refine congrArg Host.Outcome.next ?_
  rw [hs]
  exact if_pos (Option.isNone_iff_eq_none.2 h)

theorem circuitRequestArrive_join (h : (s.heard l c c 0).isSome = true) (hw : d.wait = .join r start none) :
    exec (.circuitRequestArrive c) s =
      .next ((if r.tree then s.askTree l c d m r start else s.askChannel l c d m r start).readyAll) := by
  refine congrArg Host.Outcome.next ?_
  rw [hs]
  refine (if_neg (by simpa using Option.isSome_iff_ne_none.1 h)).trans ?_
  rw [hw]

theorem circuitRequestArrive_unjoin {tree : Bool} {idx id : Nat} (h : (s.heard l c c 0).isSome = true)
    (hw : d.wait = .unjoin tree idx id false) :
    exec (.circuitRequestArrive c) s = match s.circuits.find? (fun y => y.id == id) with
      | some x => .next ((s.tearDown c x).modDor c (fun d => { d with wait := .unjoin tree idx id true }))
      | none => .next (s.dNext c (fun d => d.unbind tree idx)) := by
  have he : exec (.circuitRequestArrive c) s = .next (match s.circuits.find? (fun y => y.id == id) with
      | some x => (s.tearDown c x).modDor c (fun d => { d with wait := .unjoin tree idx id true })
      | none => s.dNext c (fun d => d.unbind tree idx)) := by
    refine congrArg Host.Outcome.next ?_
    rw [hs]
    refine (if_neg (by simpa using Option.isSome_iff_ne_none.1 h)).trans ?_
    rw [hw] <;> rfl
  rw [he]
  cases s.circuits.find? (fun y => y.id == id) <;> rfl

/-- The first end of a channel waits for the other. -/
theorem join_waits (h : (s.heard l c c 0).isSome = true) (hw : d.wait = .join r start none) (ht : r.tree = false)
    (hc : s.circuits = []) : exec (.circuitRequestArrive c) s = .next (asking s c r start (askedCircuit s l c d m r)) := by
  rw [circuitRequestArrive_join hs h hw, ht]
  exact congrArg _ ((congrArg State.readyAll (askChannel_alone hc)).trans
    (readyAll_half (x := askedCircuit s l c d m r) (by simp [hc]) rfl (by cases hr : r.send <;> simp [askedCircuit, hr])))

/-- The second end of a channel pairs with the first, and the change is ready. -/
theorem join_pairs {x : Circuit} (h : (s.heard l c c 0).isSome = true) (hw : d.wait = .join r start none) (ht : r.tree = false)
    (hc : s.circuits = [x]) (hx : x.tree = false) (hl : x.lea = l) (hg : x.gid = d.gid) (hv : x.ver = m.ver) (hp : x.phase = .asking)
    (hends : Awaits c m r x) : ∃ t y, exec (.circuitRequestArrive c) s = .next t ∧ (t.dor c).wait = .join r start (some x.id)
      ∧ t.circuits = [y] ∧ y.phase = .ready s.tide s.nextId ∧ (if r.send then y.srcIdx else y.dstIdx) = some r.idx
      ∧ (y.rate = x.rate ∨ y.rate = r.rate) := by
  have hjoin := (circuitRequestArrive_join hs h hw).trans (congrArg _ ((congrArg State.readyAll ((if_neg (by simp [ht])).trans
    (askChannel_pairs hc hx hl hg hv hp hends))).trans (readyAll_channel rfl (pairedCircuit_tree.trans hx) (pairedCircuit_ends hends)
      (pairedCircuit_phase.trans hp))))
  exact ⟨_, { pairedCircuit s d r x with phase := .ready s.tide s.nextId, change := s.nextId }, hjoin,
    (congrArg Dorent.wait (dor_of_cores rfl c)).trans pairing_wait, rfl, rfl, pairedCircuit_own (s := s) (d := d),
    pairedCircuit_rate (s := s) (d := d)⟩

/-- A tree record that names no other member is ready as it comes. -/
theorem join_tree (h : (s.heard l c c 0).isSome = true) (hw : d.wait = .join r start none) (ht : r.tree = true)
    (hc : s.circuits = []) (hp : r.parent = none) (hk : r.kids = [none, none, none, none]) :
    exec (.circuitRequestArrive c) s = .next { asking s c r start (askedTree s l c d m r) with
      circuits := [{ askedTree s l c d m r with phase := .ready s.tide (s.nextId + 1), change := s.nextId + 1 }]
      nextId := s.nextId + 2 } := by
  have hlinks : (askedTree s l c d m r).links = [] := by simp [Circuit.links, askedTree, hp, hk]
  rw [circuitRequestArrive_join hs h hw, ht]
  exact congrArg _ ((congrArg State.readyAll (askTree_alone hc hp hk)).trans
    (readyAll_tree (by simp [hc]) rfl rfl hlinks rfl))

end

/-! ## Changes taken and installed (R325) -/

/-- A change that Harbour takes now. -/
def Due (s : State) (c : Circuit) (k o : Nat) : Prop :=
  s.tideSlot = 0 ∧ k < s.tide ∧ s.changesTaken c.lea < 4
    ∧ ∀ x ∈ s.circuits, x.lea = c.lea → ∀ w, x.waits = some w → w.1 < s.tide → o ≤ w.2

/-- The parts of a circuit's change. -/
def changeParts (s : State) (c : Circuit) : List Circuit :=
  if c.tree then s.circuits.filter (fun x => x.tree && c.with x) else [c]

section
variable {s : State} {c : Circuit} {id k o : Nat}

theorem due_iff : Due s c k o ↔ ¬(s.tideSlot ≠ 0 ∨ s.tide ≤ k ∨ 4 ≤ s.changesTaken c.lea
    ∨ s.circuits.any (fun x => x.lea == c.lea && x.waits.any (fun w => decide (w.1 < s.tide ∧ w.2 < o))) = true) := by
  simp only [Due, not_or, not_not, not_le, List.any_eq_true, Bool.and_eq_true, beq_iff_eq, Option.any_eq_true, decide_eq_true_eq,
    not_exists, not_and, not_lt]

section
variable (hf : s.circuits.find? (fun y => y.id == id) = some c) (hw : c.waits = some (k, o))
include hf hw

theorem circuitDecide_waits (h : ¬Due s c k o) : exec (.circuitDecide id) s = .next s := by
  refine congrArg Host.Outcome.next ?_
  rw [hf]
  dsimp only
  rw [hw]
  exact if_pos (not_not.1 (mt due_iff.2 h))

theorem circuitDecide_closing (h : Due s c k o) (hp : c.phase = .closing k o) :
    exec (.circuitDecide id) s = .next (s.setPhase [c] (.closed s.tide o) (fun x => x.granted)) := by
  refine congrArg Host.Outcome.next ?_
  rw [hf]
  dsimp only
  rw [hw]
  refine (if_neg (due_iff.1 h)).trans ?_
  rw [hp]

theorem circuitDecide_ready (h : Due s c k o) (hp : c.phase = .ready k o) : exec (.circuitDecide id) s = .next (
    if !(changeParts s c).all s.whole then s.breakChange 0x0E (changeParts s c)
    else if s.refuses c.lea (changeParts s c) then
      (changeParts s c).foldl (State.failEnds · 0x0B)
        (({ s with free := s.free + 1 } : State).setPhase (changeParts s c) (.refused s.tide o) (fun _ => false))
    else ({ s with free := s.free + 1 } : State).setPhase (changeParts s c) (.decided s.tide o) (fun x => x.tree && s.grants x)) := by
  refine congrArg Host.Outcome.next ?_
  rw [hf]
  dsimp only
  rw [hw]
  refine (if_neg (due_iff.1 h)).trans ?_
  rw [hp]
  rfl

end

section
variable (hf : s.circuits.find? (fun y => y.id == id) = some c)
include hf

theorem circuitSwitch_slot (h : s.tideSlot ≠ 0) : exec (.circuitSwitch id) s = .next s := by
  refine congrArg Host.Outcome.next ?_
  rw [hf]
  exact if_pos h

theorem circuitSwitch_closed (h : s.tideSlot = 0) (hp : c.phase = .closed k o) : exec (.circuitSwitch id) s = .next (
    if s.tide < k + 2 then s
    else if s.entriesLost c k = true then (s.setPhase [c] (.closing s.tide o) (fun x => x.granted)).failUnjoins c
    else s.dropCircuit c) := by
  refine congrArg Host.Outcome.next ?_
  rw [hf]
  refine (if_neg (not_not.2 h)).trans ?_
  rw [hp]

theorem circuitSwitch_refused (h : s.tideSlot = 0) (hp : c.phase = .refused k o) : exec (.circuitSwitch id) s = .next (
    if s.tide ≤ k then s else { s with circuits := s.circuits.filter (fun x => x.id != id) }) := by
  refine congrArg Host.Outcome.next ?_
  rw [hf]
  refine (if_neg (not_not.2 h)).trans ?_
  rw [hp]

/-- A change that the routers switch to. -/
def switched (s : State) (c : Circuit) (id : Nat) : State :=
  let s1 : State :=
    { s with circuits := s.circuits.map (fun (x : Circuit) => if x.id = id then { x with phase := .up, old := [] } else x) }
  let s2 := s1.endUp c c.src c.srcIdx
  if c.tree then s2 else s2.endUp c c.dst c.dstIdx

theorem circuitSwitch_decided (h : s.tideSlot = 0) (hp : c.phase = .decided k o) : exec (.circuitSwitch id) s = .next (
    if s.tide < k + 2 then s
    else if !(s.circuits.filter (fun x => x.tree == c.tree && c.with x)).all s.whole then
      s.breakChange 0x0E (s.circuits.filter (fun x => x.tree == c.tree && c.with x))
    else if (s.circuits.filter (fun x => x.tree == c.tree && c.with x)).any (s.entriesLost · k) then
      s.breakChange 0x0B (s.circuits.filter (fun x => x.tree == c.tree && c.with x))
    else ((switched s c id).circuits.filter (fun x => c.old.contains x.id)).foldl State.dropCircuit (switched s c id)) := by
  refine congrArg Host.Outcome.next ?_
  rw [hf]
  refine (if_neg (not_not.2 h)).trans ?_
  rw [hp]
  rfl

end

end

/-! ## A channel that comes up (R286) -/

section
variable {s t : State} {c : Circuit} {x i k st id : Nat} {idx : Option Nat} {d : Dorent} {m : DMember} {r : DReq}

/-- The channel that an end of a circuit binds. -/
def boundEnd (c : Circuit) (x : Nat) (m : DMember) (r : DReq) : DChan :=
  .bound ((m.rankOf (if x = c.src then c.dst else c.src)).getD r.peer) r.send c.id 0 true

theorem endUp_circuits : (s.endUp c x idx).circuits = s.circuits := by
  unfold State.endUp
  split
  · split
    · split
      · rfl
      · rfl
    · rfl
  · rfl

theorem core_dNext_other (f : Dorent → Dorent) (h : k ≠ x) : (s.dNext x f).core k = s.core k :=
  core_modCore_other s (fun co => { co with dorent := { f co.dorent with pc := (co.dorent.pc + 1) % 512, wait := .none } }) h

theorem core_endUp_other (h : k ≠ x) : (s.endUp c x idx).core k = s.core k := by
  unfold State.endUp
  split
  · split
    · split
      · rfl
      · exact core_dNext_other _ h
    · rfl
  · rfl

theorem running_of_core {l gid : Nat} (h : t.core k = s.core k) : t.running k l gid = s.running k l gid := by
  rw [State.running, State.running, State.dor, State.dor, h]

/-- The waiting context of a channel's end is bound and goes on. -/
theorem endUp_binds (hr : s.running x c.lea c.gid = some (d, m)) (hw : d.wait = .join r st (some c.id)) (ht : c.tree = false) :
    s.endUp c x (some i) = s.dNext x (fun d => { d with chans := d.chans.set i (boundEnd c x m r) }) := by
  unfold State.endUp
  rw [hr]
  dsimp only
  rw [hw]
  refine (if_neg (not_not.2 rfl)).trans ?_
  rw [ht]
  rfl

/-- What a context is once its end of a channel is up. -/
structure EndUp (u : Dorent) (d : Dorent) (i : Nat) (ch : DChan) : Prop where
  wait : u.wait = .none
  pc : u.pc = (d.pc + 1) % 512
  chan : u.chans.getD i .unbound = ch

theorem endUp_end (hr : s.running x c.lea c.gid = some (d, m)) (hw : d.wait = .join r st (some c.id)) (ht : c.tree = false)
    (hi : i < d.chans.length) : EndUp ((s.endUp c x (some i)).dor x) d i (boundEnd c x m r) := by
  obtain ⟨-, rfl, -⟩ := running_iff.1 hr
  rw [endUp_binds hr hw ht, dor_dNext]
  exact ⟨rfl, rfl, by simp [hi]⟩

/-- Both ends of a channel that comes up are bound. -/
theorem switched_end {q : Bool} (ht : c.tree = false) (hne : c.src ≠ c.dst) (hidx : (if q then c.srcIdx else c.dstIdx) = some i)
    (hr : s.running (if q then c.src else c.dst) c.lea c.gid = some (d, m)) (hw : d.wait = .join r st (some c.id))
    (hi : i < d.chans.length) :
    EndUp ((switched s c id).dor (if q then c.src else c.dst)) d i (boundEnd c (if q then c.src else c.dst) m r) := by
  unfold switched
  dsimp only
  rw [ht, if_neg Bool.false_ne_true]
  cases q with
  | true =>
    simp only [if_true] at hidx hr ⊢
    rw [State.dor, core_endUp_other hne, hidx]
    exact endUp_end ((running_of_core rfl).trans hr) hw ht hi
  | false =>
    simp only [Bool.false_eq_true, if_false] at hidx hr ⊢
    rw [hidx]
    exact endUp_end ((running_of_core (core_endUp_other hne.symm)).trans hr) hw ht hi

theorem switched_circuits : (switched s c id).circuits =
    s.circuits.map (fun x => if x.id = id then { x with phase := .up, old := [] } else x) := by
  unfold switched
  dsimp only
  split
  · exact endUp_circuits
  · rw [endUp_circuits, endUp_circuits]

end

/-- Settles O44: group records as a fold of installs, requests at Harbour by what is already there, and changes by their phase. -/
theorem circuits : Obligations.Circuits := by
  refine ⟨?groups, ?requests, ?decide, ?switch⟩
  case groups =>
    intro l gid ms cs nsr y s hy
    refine ⟨groupCreate_bad hy, fun hb => ⟨_, groupCreate_good hy hb, recorded_mem, fun p j hp => ?_⟩⟩
    exact ⟨_, recorded_recsOf hy hp, rfl, rfl, rfl, rfl, rfl, rfl⟩
  case requests =>
    intro c l d m s hs
    refine ⟨circuitRequestArrive_unheard hs, fun _ _ => circuitRequestArrive_join hs, fun r start h hw ht hc => ?waits,
      fun r start x h hw ht hc hx hl hg hv hp hends => join_pairs hs h hw ht hc hx hl hg hv hp hends,
      fun r start h hw ht hc hp hk => ?tree, fun _ _ _ => circuitRequestArrive_unjoin hs⟩
    case waits =>
      refine ⟨_, join_waits hs h hw ht hc, asking_wait, askedCircuit s l c d m r, by simp [hc],
        rfl, rfl, rfl, rfl, rfl, rfl, rfl, ?_, ?_⟩
      · intro hr
        simp [askedCircuit, hr]
      · intro hr
        simp [askedCircuit, hr]
    case tree =>
      exact ⟨_, _, join_tree hs h hw ht hc hp hk,
        (congrArg Dorent.wait (dor_of_cores rfl c)).trans asking_wait, rfl, rfl, rfl, rfl, rfl, rfl⟩
  case decide =>
    intro id k o c s hf hw
    refine ⟨circuitDecide_waits hf hw, fun due hp => ⟨_, circuitDecide_closing hf hw due hp, ?_⟩, fun due hp => ?_⟩
    · exact List.map_congr_left fun x _ => by simp [eq_comm]
    · have hready := circuitDecide_ready hf hw due hp
      have whole (ha : (changeParts s c).all s.whole = true) : ¬(!(changeParts s c).all s.whole) = true := by simp [ha]
      refine ⟨fun ha => hready.trans (congrArg _ (if_pos ((Bool.not_eq_true' _).mpr ha))), fun ha hr => ?_, fun ha hr => ?_⟩
      · exact ⟨_, hready.trans (congrArg _ ((if_neg (whole ha)).trans (if_neg (Bool.eq_false_iff.1 hr)))), rfl, rfl⟩
      · exact hready.trans (congrArg _ ((if_neg (whole ha)).trans (if_pos hr)))
  case switch =>
    intro id k o c s hf
    refine ⟨circuitSwitch_slot hf, fun h => ⟨circuitSwitch_closed hf h, circuitSwitch_refused hf h, fun hp => ?_⟩⟩
    have hdec := circuitSwitch_decided hf h hp
    have whole {b : Bool} (ha : b = true) : ¬(!b) = true := by simp [ha]
    refine ⟨fun early => hdec.trans (congrArg _ (if_pos early)),
      fun hk ha => hdec.trans (congrArg _ ((if_neg (by omega)).trans (if_pos ((Bool.not_eq_true' _).mpr ha)))),
      fun hk ha hl => hdec.trans (congrArg _ ((if_neg (by omega)).trans ((if_neg (whole ha)).trans (if_pos hl)))),
      fun hk ha hl hold ht hne => ⟨switched s c id, ?_, switched_circuits, ?_⟩⟩
    · refine hdec.trans (congrArg _ ((if_neg (by omega)).trans ((if_neg (whole ha)).trans ((if_neg (Bool.eq_false_iff.1 hl)).trans ?_))))
      rw [hold]
      simp
    · intro d m r st i q hidx hr hw hi
      obtain ⟨h1, h2, h3⟩ := switched_end (id := id) ht hne hidx hr hw hi
      refine ⟨h1, h2, h3.trans ?_⟩
      cases q
      · simp [boundEnd, hne.symm]
      · simp [boundEnd]

end Sys2Proof.Proofs

namespace Sys2Proof.Proofs

open Sys2Proof Sys2Proof.Machine Sys2Proof.Laws

/-! ## Accesses of HBM that a piece makes (R326) -/

section
variable {s : State} {lea : Nat} {f : DFlow}

/-- One access of a piece: it begins in a spare service slot, or is left. -/
def serveUnit (lea : Nat) (p : State × List Nat) (a : Nat) : State × List Nat :=
  if p.1.spareService lea (channelOf a) then (p.1.takeService (channelOf a), p.2) else (p.1, p.2 ++ [a])

/-- Accesses offered in turn take service slots, and those left are the others; each that began did so in a slot that was spare. -/
theorem serveUnits_spec : ∀ (l sv left : List Nat), s.served ⊆ sv → ∃ sv' left',
    l.foldl (serveUnit lea) ({ s with served := sv }, left) = ({ s with served := sv' }, left') ∧ left ⊆ left' ∧ left' ⊆ left ++ l
    ∧ ∀ a ∈ l, a ∈ left' ∨ s.spareService lea (channelOf a) = true
  | [], sv, left, _ => ⟨sv, left, rfl, List.Subset.refl _, by simp, by simp⟩
  | a :: l, sv, left, hs => by
    rw [List.foldl_cons, serveUnit]
    by_cases h : State.spareService { s with served := sv } lea (channelOf a) = true
    · obtain ⟨sv', left', he, h1, h2, h3⟩ := serveUnits_spec l (channelOf a :: sv) left (List.subset_cons_of_subset _ hs)
      refine ⟨sv', left', (congrArg (List.foldl _ · l) (if_pos h)).trans he, h1, fun x hx => ?_, ?_⟩
      · rcases List.mem_append.1 (h2 hx) with hx | hx <;> simp [hx]
      · exact List.forall_mem_cons.2 ⟨.inr (spareService_of_served hs h), h3⟩
    · obtain ⟨sv', left', he, h1, h2, h3⟩ := serveUnits_spec l sv (left ++ [a]) hs
      obtain ⟨hleft, ha⟩ := List.append_subset.1 h1
      exact ⟨sv', left', (congrArg (List.foldl _ · l) (if_neg h)).trans he, hleft, by simpa using h2,
        List.forall_mem_cons.2 ⟨.inl (ha (List.mem_singleton_self _)), h3⟩⟩

/-- What a piece's accesses change: service slots are taken, and its flow keeps those that found none. -/
theorem flowOn_spec (s : State) (lea : Nat) (f : DFlow) : ∃ sv, (s.flowOn lea f).1 = { s with served := sv }
    ∧ (∀ a ∈ (s.flowOn lea f).2.wants, a ∈ f.wants)
    ∧ ∀ a ∈ f.wants, a ∈ (s.flowOn lea f).2.wants ∨ s.spareService lea (channelOf a) = true := by
  obtain ⟨sv, left, he, -, h2, h3⟩ := serveUnits_spec (s := s) (lea := lea) f.wants s.served [] (List.Subset.refl _)
  have hp : (s.flowOn lea f).2.wants = left := congrArg Prod.snd he
  exact ⟨sv, congrArg Prod.fst he, fun a ha => h2 (hp ▸ ha), fun a ha => (h3 a ha).imp_left (hp ▸ ·)⟩

theorem flowOn_idle (h : f.wants = []) : s.flowOn lea f = (s, f) := by
  obtain ⟨w, t, k⟩ := f
  cases h
  rfl

theorem served_iff {now : Nat} : f.served now = true ↔ f.wants = [] ∧ f.due ≤ now := by
  simp [DFlow.served]

/-- A flow that has accesses to begin, or whose accesses are not over, is not over now. -/
theorem flowOn_unserved (h : f.wants ≠ [] ∨ s.now < f.due) : (s.flowOn lea f).2.served s.now = false := by
  refine Bool.eq_false_iff.2 fun hv => ?_
  obtain ⟨hw, hd⟩ := served_iff.1 hv
  by_cases h0 : f.wants = []
  · rw [flowOn_idle h0] at hd
    exact absurd hd (Nat.not_le.2 (h.resolve_left (not_not.2 h0)))
  · have hfewer : (s.flowOn lea f).2.wants.length < f.wants.length := by
      rw [hw]
      exact List.length_pos_iff.2 h0
    have hdue : (s.flowOn lea f).2.due = s.now + 96 := if_pos hfewer
    omega

end

/-! ## A piece on its way (R223, R301, R326) -/

section
variable {s : State} {lea a b : Nat} {e : Option DFlow} {reads writes : List Nat}

/-- A piece's way as far as its source: the accesses of its source, and once they are over, its sending. -/
def sending (s : State) (lea : Nat) (e : Option DFlow) (reads writes : List Nat) : State × DFlow :=
  match e with
  | some ⟨w, t, some k⟩ => (s, ⟨w, t, some k⟩)
  | _ =>
    let p := s.flowOn lea (e.getD ⟨reads, s.now, none⟩)
    (p.1, if p.2.served s.now then ⟨writes, p.2.due, some p.2.due⟩ else p.2)

theorem flowPiece_sending : s.flowPiece lea e reads writes a b =
    if (sending s lea e reads writes).2.sent.any (fun t => s.crossed t (dieOf a) (dieOf b)) then
      (((sending s lea e reads writes).1.flowOn lea (sending s lea e reads writes).2).1,
        ((sending s lea e reads writes).1.flowOn lea (sending s lea e reads writes).2).2,
        ((sending s lea e reads writes).1.flowOn lea (sending s lea e reads writes).2).2.served s.now)
    else ((sending s lea e reads writes).1, (sending s lea e reads writes).2, false) := by
  unfold State.flowPiece sending
  rcases e with _ | ⟨w, t, _ | k⟩ <;> rfl

theorem sending_state (s : State) (lea : Nat) (e : Option DFlow) (reads writes : List Nat) :
    ∃ sv, (sending s lea e reads writes).1 = { s with served := sv } := by
  unfold sending
  split
  · exact ⟨s.served, rfl⟩
  · obtain ⟨sv, h, -⟩ := flowOn_spec s lea (e.getD ⟨reads, s.now, none⟩)
    exact ⟨sv, h⟩

/-- A piece on its way changes nothing but the service slots taken. -/
theorem flowPiece_state (s : State) (lea : Nat) (e : Option DFlow) (reads writes : List Nat) (a b : Nat) :
    ∃ sv, (s.flowPiece lea e reads writes a b).1 = { s with served := sv } := by
  obtain ⟨sv, h⟩ := sending_state s lea e reads writes
  rw [flowPiece_sending]
  split
  · obtain ⟨sv', h', -⟩ := flowOn_spec (sending s lea e reads writes).1 lea (sending s lea e reads writes).2
    exact ⟨sv', h'.trans (by rw [h])⟩
  · exact ⟨sv, h⟩

/-- A piece is there once it was sent, has crossed, and the accesses of its destination are over. -/
theorem flowPiece_there (h : (s.flowPiece lea e reads writes a b).2.2 = true) :
    (s.flowPiece lea e reads writes a b).2.1.wants = [] ∧ (s.flowPiece lea e reads writes a b).2.1.due ≤ s.now
    ∧ ∃ t, (s.flowPiece lea e reads writes a b).2.1.sent = some t ∧ s.crossed t (dieOf a) (dieOf b) = true := by
  rw [flowPiece_sending] at h ⊢
  split at h
  next hc =>
    rw [if_pos hc]
    obtain ⟨hw, hd⟩ := served_iff.1 h
    exact ⟨hw, hd, (Option.any_eq_true ..).1 hc⟩
  · cases h

theorem flowPiece_begins (h : reads ≠ []) :
    (s.flowPiece lea none reads writes a b).2.2 = false ∧ (s.flowPiece lea none reads writes a b).2.1.sent = none := by
  have hs : (sending s lea none reads writes).2 = (s.flowOn lea ⟨reads, s.now, none⟩).2 :=
    if_neg (Bool.eq_false_iff.1 (flowOn_unserved (.inl h)))
  have hsent : (sending s lea none reads writes).2.sent = none := by rw [hs]; rfl
  rw [flowPiece_sending, hsent]
  exact ⟨rfl, hsent⟩

theorem flowPiece_writes {t : Nat} (h : writes ≠ []) : (s.flowPiece lea (some ⟨writes, t, some t⟩) reads writes a b).2.2 = false := by
  rw [flowPiece_sending]
  split
  · exact flowOn_unserved (.inl h)
  · rfl

theorem crossed_same {d : Nat} : s.crossed s.now d d = true := by
  simp [State.crossed, dieRoute, dieRun, boundaries]

theorem flowPiece_at_once (h : dieOf a = dieOf b) :
    (s.flowPiece lea none [] [] a b).2.2 = true ∧ (s.flowPiece lea none [] [] a b).1 = s := by
  have hs : sending s lea none [] [] = (s, ⟨[], s.now, some s.now⟩) := by simp [sending, flowOn_idle, DFlow.served]
  rw [flowPiece_sending, hs, if_pos (by simp [h, crossed_same]), flowOn_idle rfl]
  simp [DFlow.served]

end

/-! ## A piece moved (R273, R301, R306) -/

section
variable {s : State} {a b xo yo n : Nat} {x y : DBuf} {last : Bool}

theorem dorent_late_nil (h : ∀ e ∈ s.cores, e.2.dorent.late = []) (c : Nat) : (s.dor c).late = [] := by
  unfold State.dor State.core
  generalize s.cores = l at h
  induction l with
  | nil => rfl
  | cons e t ih =>
    obtain ⟨he, ht⟩ := List.forall_mem_cons.1 h
    rw [keyGet]
    split
    · exact he
    · exact ih ht

theorem flushLate_idle (h : (s.dor a).late = []) : s.flushLate a = s := if_pos (by simp [h])

theorem flushGroup_idle (h : ∀ e ∈ s.cores, e.2.dorent.late = []) : s.flushGroup a = s := by
  unfold State.flushGroup
  exact List.foldlRecOn (motive := fun t => t = s) _ _ rfl fun t ht p _ => ht ▸ flushLate_idle (by rw [ht]; exact dorent_late_nil h _)

@[simp] theorem dor_usePiece (s : State) (k o n c : Nat) (b : DBuf) (need : List Right) : (s.usePiece k b o n need).dor c = s.dor c :=
  view_usePages (g := Core.dorent) (fun _ _ => rfl) ..

/-- The bytes that a piece moves. -/
def pieceBytes (s : State) (a : Nat) (x : DBuf) (xo n : Nat) : List (Byte × Bool) := (s.flushGroup a).bufRead a x xo n

/-- The state with a piece's bytes delivered. -/
def delivered (s : State) (a : Nat) (x : DBuf) (xo b : Nat) (y : DBuf) (yo n : Nat) (last : Bool) : State :=
  State.deliver { s.flushGroup a with free := (s.flushGroup a).free + n } b y yo (pieceBytes s a x xo n) last

/-- The state with a piece's bytes in memory. -/
def written (s : State) (a : Nat) (x : DBuf) (xo b : Nat) (y : DBuf) (yo n : Nat) : State :=
  State.bufWrite { s.flushGroup a with free := (s.flushGroup a).free + n + 1 } b y yo (pieceBytes s a x xo n)

/-- The state with a piece's bytes kept for later. -/
def kept (s : State) (a : Nat) (x : DBuf) (xo b : Nat) (y : DBuf) (yo n : Nat) : State :=
  { s.flushGroup a with free := (s.flushGroup a).free + n + 1 }.modDor b (fun d =>
    { d with late := d.late ++ (s.flushGroup a).bufBytes b y yo (pieceBytes s a x xo n) })

/-- A context that notes poison. -/
def notesPoison (bad : Bool) (d : Dorent) : Dorent := { d with psn := d.psn || bad }

theorem movePiece_eq : s.movePiece a x xo b y yo n last =
    ((((delivered s a x xo b y yo n last).usePiece a x xo n [.r]).usePiece b y yo n [.w]).modDor a
      (notesPoison ((pieceBytes s a x xo n).any (fun p => p.2)))).modDor b (notesPoison ((pieceBytes s a x xo n).any (fun p => p.2))) := rfl

theorem movePiece_mem : (s.movePiece a x xo b y yo n last).mem = (delivered s a x xo b y yo n last).mem :=
  (usePiece_mem ..).trans (usePiece_mem ..)

theorem movePiece_late : ((s.movePiece a x xo b y yo n last).dor b).late = ((delivered s a x xo b y yo n last).dor b).late := by
  rw [movePiece_eq, dor_modDor]
  by_cases h : b = a
  · subst h
    rw [dor_modDor, dor_usePiece, dor_usePiece]
    rfl
  · rw [dor_modDor_other _ _ h, dor_usePiece, dor_usePiece]
    rfl

theorem delivered_written (h : last = false ∨ (y.space ≠ 3 ∧ y.space ≠ 4)) :
    delivered s a x xo b y yo n last = written s a x xo b y yo n := by
  refine if_neg fun hc => ?_
  simp only [Bool.and_eq_true, Bool.or_eq_true, beq_iff_eq] at hc
  obtain ⟨⟨hl, hs⟩, -⟩ := hc
  rcases h with h | ⟨h3, h4⟩
  · cases h.symm.trans hl
  · exact hs.elim h3 h4

theorem delivered_cases : delivered s a x xo b y yo n last = written s a x xo b y yo n
    ∨ delivered s a x xo b y yo n last = kept s a x xo b y yo n := by
  unfold delivered State.deliver
  dsimp only
  split
  · exact .inr rfl
  · exact .inl rfl

theorem movePiece_poison (h : ∃ p ∈ pieceBytes s a x xo n, p.2 = true) :
    ((s.movePiece a x xo b y yo n last).dor a).psn = true ∧ ((s.movePiece a x xo b y yo n last).dor b).psn = true := by
  have hb : (pieceBytes s a x xo n).any (fun p => p.2) = true := List.any_eq_true.2 h
  rw [movePiece_eq, hb]
  refine ⟨?_, by rw [dor_modDor]; exact Bool.or_true _⟩
  by_cases hab : a = b
  · subst hab
    rw [dor_modDor]
    exact Bool.or_true _
  · rw [dor_modDor_other _ _ hab, dor_modDor]
    exact Bool.or_true _

end

/-! ## Outstanding instructions of a context (R283, R285, R286) -/

section
variable {s : State} {c op : Nat}

theorem dorentOpComplete_none (h : ∀ e ∈ (s.dor c).ops, e.num ≠ op) : exec (.dorentOpComplete c op) s = .next (
    if s.dieUp (dieOf c) = false ∨ (s.dor c).late = [] then s
    else if (Config.freeWord s.free).getLsbD 0 = true then { s.flushLate c with free := s.free + 1 }
    else { s with free := s.free + 1 }) := by
  have hany : (!(s.dor c).ops.any (fun o => o.num == op)) = true := by simpa using h
  refine congrArg Host.Outcome.next ((if_pos hany).trans ?_)
  cases hd : s.dieUp (dieOf c)
  · simp
  · simp [State.drainLate]

section
variable {l : Nat} {d : Dorent} {m : DMember} (hs : s.runningAt c = some (l, d, m))
include hs

theorem dorentOpComplete_held (hh : d.park ≠ none ∨ s.dieUp (dieOf c) = false) (he : ∃ e ∈ d.ops, e.num = op) :
    exec (.dorentOpComplete c op) s = .next s := by
  obtain ⟨-, rfl, -⟩ := runningAt_iff.1 hs
  have hany : ¬(!(s.dor c).ops.any (fun o => o.num == op)) = true := by simpa using he
  refine congrArg Host.Outcome.next ((if_neg hany).trans ?_)
  rw [hs]
  exact if_pos (by simpa [Option.isSome_iff_ne_none] using hh)

theorem reductionSlotCombine_held (hh : d.park ≠ none ∨ s.dieUp (dieOf c) = false) : exec (.reductionSlotCombine c op) s = .next s := by
  refine congrArg Host.Outcome.next ?_
  rw [hs]
  exact if_pos (by
    rw [Bool.or_eq_true, Bool.or_eq_true, Option.isSome_iff_ne_none, Bool.not_eq_true']
    exact hh.imp_left .inl)

section
variable (hp : d.park = none) (hd : s.dieUp (dieOf c) = true)
include hp hd

theorem reductionSlotCombine_first {o : DOp} {t : DTree} {k : Nat} (ht : d.trees.getD k none = some t) (ho : d.firstRed k = some o) :
    exec (.reductionSlotCombine c k) s = .next (if 16 ≤ s.tideSlot ∧ t.granted = true then s.stepNode c o else s) := by
  refine congrArg Host.Outcome.next ?_
  rw [hs]
  dsimp only
  rw [hp, hd, ht, ho]
  by_cases h : s.tideSlot < 16
  · rw [if_pos (by simp [h]), if_neg (by omega)]
  · rw [if_neg (by simp [h])]
    simp [Nat.not_lt.1 h]

section
variable {o : DOp} (ho : d.ops.find? (fun e => e.num == op) = some o)
include ho

/-- What an outstanding instruction of each kind does next. -/
def opStep (s : State) (c : Nat) (d : Dorent) (o : DOp) : State :=
  match o.kind with
  | 2 => s.stepCopy c o
  | 3 => if (d.trees.getD o.chan none).any (fun t => t.granted) || decide (s.tideSlot < 16) then s else s.stepNode c o
  | 4 => s
  | _ =>
    if s.tideSlot < 16 || d.behind o then s
    else match s.pairOf c d o with
      | some (a, x, b, y) => s.stepTransfer a x b y
      | none => s

theorem dorentOpComplete_steps : exec (.dorentOpComplete c op) s = .next (opStep s c d o) := by
  have hdor : d = s.dor c := (runningAt_iff.1 hs).2.1
  have hany : ¬(!(s.dor c).ops.any (fun o => o.num == op)) = true := by
    rw [← hdor, Bool.not_eq_true', Bool.not_eq_false]
    exact List.any_eq_true.2 ⟨o, List.mem_of_find?_eq_some ho, List.find?_some (p := fun e : DOp => e.num == op) ho⟩
  refine congrArg Host.Outcome.next ((if_neg hany).trans ?_)
  rw [hs]
  dsimp only
  rw [hp, hd, ho]
  rfl

end
end
end
end

section
variable {s : State} {c : Nat} {d : Dorent} {o : DOp}

theorem opStep_copy (h : o.kind = 2) : opStep s c d o = s.stepCopy c o := by
  rw [opStep, h]
  rfl

theorem opStep_reduction (h : o.kind = 3) : opStep s c d o =
    if (d.trees.getD o.chan none).any (fun t => t.granted) ∨ s.tideSlot < 16 then s else s.stepNode c o := by
  rw [opStep, h]
  simp

theorem opStep_transfer (h : o.kind ≤ 1) : opStep s c d o =
    if s.tideSlot < 16 || d.behind o then s
    else match s.pairOf c d o with
      | some (a, x, b, y) => s.stepTransfer a x b y
      | none => s := by
  rcases Nat.le_one_iff_eq_zero_or_eq_one.1 h with h | h <;> rw [opStep, h] <;> rfl

theorem behind_iff : d.behind o = true ↔ ∃ e ∈ d.ops, e.kind = o.kind ∧ e.chan = o.chan ∧ e.num < o.num := by
  simp [Dorent.behind, and_assoc]

theorem opStep_waits (h : o.kind ≤ 1)
    (hw : s.tideSlot < 16 ∨ s.pairOf c d o = none ∨ ∃ e ∈ d.ops, e.kind = o.kind ∧ e.chan = o.chan ∧ e.num < o.num) :
    opStep s c d o = s := by
  rw [opStep_transfer h]
  by_cases hb : (decide (s.tideSlot < 16) || d.behind o) = true
  · exact if_pos hb
  · rw [if_neg hb]
    rw [Bool.or_eq_true, not_or, decide_eq_true_eq, behind_iff] at hb
    rcases hw with hw | hw | hw
    · exact absurd hw hb.1
    · rw [hw]
    · exact absurd hw hb.2

theorem opStep_pair {a b : Nat} {x y : DOp} (h : o.kind ≤ 1) (ht : 16 ≤ s.tideSlot)
    (hf : ∀ e ∈ d.ops, e.kind = o.kind → e.chan = o.chan → o.num ≤ e.num) (hp : s.pairOf c d o = some (a, x, b, y)) :
    opStep s c d o = s.stepTransfer a x b y := by
  have hb : ¬(decide (s.tideSlot < 16) || d.behind o) = true := by
    rw [Bool.or_eq_true, decide_eq_true_eq, behind_iff]
    rintro (hlt | ⟨e, he, hk, hc, hn⟩)
    · omega
    · exact absurd (hf e he hk hc) (Nat.not_le.2 hn)
  rw [opStep_transfer h, if_neg hb, hp]

end

/-! ## A piece of a DCOPY (R285) -/

section
variable {s : State} {c l : Nat} {o : DOp} {p q : DBuf} (hl : (s.core c).lea = some l)
  (hp : (s.dor c).bufs.getD o.sbuf none = some p) (hq : (s.dor c).bufs.getD o.buf none = some q)

/-- Whether a DCOPY's piece may be on its way. -/
def copyReady (s : State) (c : Nat) (o : DOp) (p q : DBuf) : Bool :=
  s.pieceReady c p (o.soff + o.done) c q (o.off + o.done) o.piece

/-- A DCOPY's piece on its way. -/
def copyFlow (s : State) (c l : Nat) (o : DOp) (p q : DBuf) : State × DFlow × Bool :=
  s.flowPiece l o.flow (s.pieceUnits c p (o.soff + o.done) o.piece) (s.pieceUnits c q (o.off + o.done) o.piece) c c

include hl hp hq

theorem stepCopy_eq : s.stepCopy c o =
    if !copyReady s c o p q then s
    else if (copyFlow s c l o p q).2.2 then
      ((copyFlow s c l o p q).1.movePiece c p (o.soff + o.done) c q (o.off + o.done) o.piece
        (o.done + o.piece == o.len)).opMoved c o o.piece
    else (copyFlow s c l o p q).1.modOp c o.num (fun e => { e with flow := some (copyFlow s c l o p q).2.1 }) := by
  rw [State.stepCopy, hp, hq]
  dsimp only
  rw [hl]
  rfl

end

/-! ## A piece of a transfer (R286) -/

section
variable {s : State} {a b k : Nat} {x y : DOp} {p q : DBuf}

theorem stepTransfer_differs (h : x.len ≠ y.len) : s.stepTransfer a x b y = (s.dFail a 0x09 x.pc).dFail b 0x09 y.pc := if_pos h

/-- Whether a transfer's piece may be on its way. -/
def transferReady (s : State) (a : Nat) (x : DOp) (b : Nat) (y : DOp) (p q : DBuf) : Bool :=
  s.pieceReady a p (x.off + x.done) b q (y.off + y.done) y.piece

/-- A transfer's piece on its way. -/
def transferFlow (s : State) (k a : Nat) (x : DOp) (b : Nat) (y : DOp) (p q : DBuf) : State × DFlow × Bool :=
  s.flowPiece k y.flow (s.pieceUnits a p (x.off + x.done) y.piece) (s.pieceUnits b q (y.off + y.done) y.piece) a b

theorem stepTransfer_eq (hk : (s.core b).lea = some k) (h : x.len = y.len) (hp : (s.dor a).bufs.getD x.buf none = some p)
    (hq : (s.dor b).bufs.getD y.buf none = some q) : s.stepTransfer a x b y =
    if !transferReady s a x b y p q then s
    else if (transferFlow s k a x b y p q).2.2 then
      (((transferFlow s k a x b y p q).1.movePiece a p (x.off + x.done) b q (y.off + y.done) y.piece
        (y.done + y.piece == y.len)).opMoved a x y.piece).opMoved b y y.piece
    else (transferFlow s k a x b y p q).1.modOp b y.num (fun e => { e with flow := some (transferFlow s k a x b y p q).2.1 }) := by
  refine (if_neg (not_not.2 h)).trans ?_
  rw [hp, hq, hk]
  rfl

/-- The two ends of a piece moved, of instructions that have moved as much. -/
theorem opMoved_both {u : State} {n : Nat} (hl : x.len = y.len) (hd : x.done = y.done) : (u.opMoved a x n).opMoved b y n =
    if y.done + n = y.len then (u.dDone a x.num).dDone b y.num
    else (u.modOp a x.num (fun e => { e with done := e.done + n, flow := none })).modOp b y.num
      (fun e => { e with done := e.done + n, flow := none }) := by
  unfold State.opMoved
  rw [hl, hd]
  split <;> rfl

end

/-! ## A held piece parks its context (R301, R387) -/

section
variable {s : State} {c l : Nat} {d : Dorent} {m : DMember}

@[simp] theorem dor_headRecord (s : State) (k : Nat) (lea : Option Nat) (slot : Nat) (u : RecUnit) (kind ilen : Nat) (cause : BitVec 8)
    (pc tval aux : Word) (c : Nat) : (s.headRecord k lea slot u kind ilen cause pc tval aux).dor c = s.dor c := by
  unfold State.headRecord
  refine view_modCore (g := Core.dorent) ?_ ..
  exact fun _ => rfl

@[simp] theorem dor_logFault (s : State) (lea cause tval c : Nat) : (s.logFault lea cause tval).dor c = s.dor c := by
  unfold State.logFault
  split <;> rfl

variable (hs : s.runningAt c = some (l, d, m))
include hs

theorem dorentPark_idle (h : d.park ≠ none ∨ d.ops.findSome? (s.dHeld c d) = none) : exec (.dorentPark c) s = .next s := by
  refine congrArg Host.Outcome.next ?_
  rw [hs]
  dsimp only
  by_cases hp : d.park = none
  · rw [hp, h.resolve_left (not_not.2 hp)]
    rfl
  · exact if_pos (Option.isSome_iff_ne_none.2 hp)

theorem dorentPark_page {f off : Nat} (hp : d.park = none) (h : d.ops.findSome? (s.dHeld c d) = some (off, .page f)) :
    exec (.dorentPark c) s = .next ((s.modDor c (fun d => { d with park := some (some f) })).logPage l f) := by
  refine congrArg Host.Outcome.next ?_
  rw [hs]
  dsimp only
  rw [hp, h]
  rfl

theorem dorentPark_fault {e off : Nat} (hp : d.park = none) (h : d.ops.findSome? (s.dHeld c d) = some (off, .fault e)) :
    ∃ t, exec (.dorentPark c) s = .next t ∧ t.dor c = { d with park := some none } ∧ t.mem = s.mem := by
  have hrun : exec (.dorentPark c) s = .next (
      ((s.modDor c (fun d => { d with park := some none })).headRecord c (some l) d.owner .dorent 1 0 (BitVec.ofNat 8 e) 0
        (BitVec.ofNat 64 off) ((s.modDor c (fun d => { d with park := some none })).dor c).status).logFault l e off) := by
    refine congrArg Host.Outcome.next ?_
    rw [hs]
    dsimp only
    rw [hp, h]
    rfl
  refine ⟨_, hrun, ?_, (logFault_mem ..).trans (headRecord_mem ..)⟩
  rw [dor_logFault, dor_headRecord, dor_modDor, (runningAt_iff.1 hs).2.1]

end

/-! ## A signal that comes (R290, R297) -/

section
variable {s : State} {c l op : Nat}

@[simp] theorem dropMail_dor (id k : Nat) : (s.dropMail id).dor k = s.dor k := rfl

/-- A completed instruction is no longer outstanding. -/
theorem dDone_ops {o : DOp} (ho : (s.dor c).ops.find? (fun e => e.num == op) = some o) :
    ((s.dDone c op).dor c).ops = (s.dor c).ops.filter (fun e => e.num != op) := by
  rw [State.dDone, dor_workedOn, dor_modDor, ho]

theorem dDone_other {k : Nat} (h : k ≠ c) : (s.dDone c op).dor k = s.dor k := by
  rw [State.dDone, dor_workedOn, dor_modDor_other _ _ h]

/-- A completed instruction without a counter leaves the counters. -/
theorem dDone_counters {o : DOp} (ho : (s.dor c).ops.find? (fun e => e.num == op) = some o) (hc : o.cnt = none) :
    ((s.dDone c op).dor c).n = (s.dor c).n := by
  rw [State.dDone, dor_workedOn, dor_modDor, ho]
  dsimp only
  rw [hc]
  rfl

/-- A signal added to a counter of a core. -/
def signalled (s : State) (dst : Nat) (o : DOp) (id : Nat) : State := (s.dropMail id).modDor dst (fun e => e.addN o.ctr o.amt)

theorem signalled_ops {dst id k : Nat} {o : DOp} : ((signalled s dst o id).dor k).ops = (s.dor k).ops := by
  unfold signalled
  by_cases h : k = dst
  · rw [h, dor_modDor]
    rfl
  · rw [dor_modDor_other _ _ h]
    rfl

theorem signalled_counter {dst id : Nat} {o : DOp} (h : o.ctr < (s.dor dst).n.length) :
    ((signalled s dst o id).dor dst).n.getD o.ctr 0 = (s.dor dst).n.getD o.ctr 0 + o.amt := by
  rw [signalled, dor_modDor]
  simp [Dorent.addN, h]

variable {d : Dorent} {m : DMember} {o : DOp} {x : Circuit} {e : Dorent × DMember}

/-- A DSIG whose circuit is up and whose peer runs the group. -/
structure Signals (s : State) (c l op : Nat) (d : Dorent) (m : DMember) (o : DOp) (x : Circuit) (e : Dorent × DMember) : Prop where
  running : s.runningAt c = some (l, d, m)
  found : d.ops.find? (fun e => e.num == op) = some o
  kind : o.kind = 4
  chan : ∃ peer dir seq, d.chans.getD o.chan .unbound = .bound peer dir x.id seq true
  circuit : s.circuits.find? (fun y => y.id == x.id) = some x
  peer : s.running x.dst l d.gid = some e

/-- No earlier DSEND on the channel is outstanding. -/
def Clear (d : Dorent) (o : DOp) : Prop := ∀ e ∈ d.ops, e.kind = 0 → e.chan = o.chan → o.num ≤ e.num

theorem clear_iff : Clear d o ↔ ¬d.ops.any (fun e => e.kind == 0 && e.chan == o.chan && decide (e.num < o.num)) = true := by
  simp only [Clear, List.any_eq_true, Bool.and_eq_true, beq_iff_eq, decide_eq_true_eq, not_exists, not_and, not_lt, and_imp]

theorem find_signal (ho : d.ops.find? (fun e => e.num == op) = some o) (hk : o.kind = 4) :
    d.ops.find? (fun e => e.num == op && e.kind == 4) = some o := by
  obtain ⟨hn, l1, l2, hl, hf⟩ := List.find?_eq_some_iff_append.1 ho
  refine List.find?_eq_some_iff_append.2 ⟨by simp [hn, hk], l1, l2, hl, fun a ha => ?_⟩
  have hne : (a.num == op) = false := by simpa using hf a ha
  simp [hne]

theorem dsigArrive_behind (h : Signals s c l op d m o x e) (hc : ¬Clear d o) : exec (.dsigArrive c op) s = .next s := by
  refine congrArg Host.Outcome.next ?_
  rw [h.running]
  dsimp only
  rw [find_signal h.found h.kind]
  exact if_pos (not_not.1 (mt clear_iff.2 hc))

theorem dsigArrive_unheard (h : Signals s c l op d m o x e) (hc : Clear d o) (hn : s.heard l c x.dst (op + 1) = none) :
    exec (.dsigArrive c op) s = .next s := by
  obtain ⟨peer, dir, seq, hch⟩ := h.chan
  refine congrArg Host.Outcome.next ?_
  rw [h.running]
  dsimp only
  rw [find_signal h.found h.kind]
  refine (if_neg (clear_iff.1 hc)).trans ?_
  rw [hch]
  dsimp only
  rw [h.circuit]
  dsimp only
  rw [h.peer, hn]

theorem dsigArrive_heard {z : Mail} (h : Signals s c l op d m o x e) (hc : Clear d o) (hz : s.heard l c x.dst (op + 1) = some z) :
    exec (.dsigArrive c op) s = .next (
      if m.ver.toNat < e.2.ver.toNat then s.dropMail z.id
      else if e.2.ver.toNat < m.ver.toNat then s
      else (signalled s x.dst o z.id).dDone c op) := by
  obtain ⟨peer, dir, seq, hch⟩ := h.chan
  refine congrArg Host.Outcome.next ?_
  rw [h.running]
  dsimp only
  rw [find_signal h.found h.kind]
  refine (if_neg (clear_iff.1 hc)).trans ?_
  rw [hch]
  dsimp only
  rw [h.circuit]
  dsimp only
  rw [h.peer, hz]
  rfl

/-- A signal that comes adds to the peer's counter, and is no longer outstanding. -/
theorem dsigArrive_adds (h : Signals s c l op d m o x e) (hc : Clear d o) (hv : m.ver = e.2.ver)
    (hz : (s.heard l c x.dst (op + 1)).isSome = true) : ∃ t, exec (.dsigArrive c op) s = .next t
      ∧ ((x.dst = c → o.cnt = none) → o.ctr < (s.dor x.dst).n.length →
          (t.dor x.dst).n.getD o.ctr 0 = (s.dor x.dst).n.getD o.ctr 0 + o.amt)
      ∧ (t.dor c).ops = d.ops.filter (fun e => e.num != op) := by
  obtain ⟨z, hz⟩ := Option.isSome_iff_exists.1 hz
  have hd : d = s.dor c := (runningAt_iff.1 h.running).2.1
  have hfound : ((signalled s x.dst o z.id).dor c).ops.find? (fun e => e.num == op) = some o := by
    rw [signalled_ops, ← hd]
    exact h.found
  have hlt : ¬m.ver.toNat < m.ver.toNat := Nat.lt_irrefl _
  have hcounters (hcnt : x.dst = c → o.cnt = none) :
      (((signalled s x.dst o z.id).dDone c op).dor x.dst).n = ((signalled s x.dst o z.id).dor x.dst).n := by
    by_cases hx : x.dst = c
    · rw [hx]
      exact dDone_counters (hx ▸ hfound) (hcnt hx)
    · rw [dDone_other hx]
  refine ⟨(signalled s x.dst o z.id).dDone c op, (dsigArrive_heard h hc hz).trans (by rw [← hv, if_neg hlt, if_neg hlt]),
    fun hcnt hlen => ?_, ?_⟩
  · rw [hcounters hcnt]
    exact signalled_counter hlen
  · rw [dDone_ops hfound, signalled_ops, hd]

end

/-! ## A node's elements (R104, R288) -/

theorem dCombine_sum32 (x y : Nat) : dCombine 4 0 x y = (x + y) % 2 ^ 32 := rfl

theorem dCombine_sum64 (x y : Nat) : dCombine 5 0 x y = (x + y) % 2 ^ 64 := rfl

section
variable {fmt o : Nat} {own kid : PWord} {fresh : Word}

theorem nodeElem_clean (ho : own.bad = false) (hk : kid.bad = false) :
    nodeElem fmt o own [some kid] fresh = ⟨BitVec.ofNat 64 (dCombine fmt o own.val.toNat kid.val.toNat), false⟩ := by
  simp [nodeElem, ho, hk]

theorem nodeElem_poisoned (hk : kid.bad = true) : nodeElem fmt o own [some kid] fresh = ⟨fresh, true⟩ := by
  simp [nodeElem, hk]

end

/-! ## COLLD's copy (R278) -/

/-- The words of a list by their places, from a place on, without those that are zero. -/
theorem keyGet_words (i : Nat) : ∀ (l : List Word) (k : Nat),
    keyGet 0 (((l.zipIdx k).map (fun p => (p.2, p.1))).filter (fun p => p.2 != 0)) i = if k ≤ i then l.getD (i - k) 0 else 0
  | [], k => by simp [keyGet]
  | w :: t, k => by
    have hlater := keyGet_words i t (k + 1)
    rw [List.zipIdx_cons, List.map_cons]
    have hhead : keyGet 0 (((k, w) :: (t.zipIdx (k + 1)).map (fun p => (p.2, p.1))).filter (fun p => p.2 != 0)) i = if i = k then w
        else keyGet 0 (((t.zipIdx (k + 1)).map (fun p => (p.2, p.1))).filter (fun p => p.2 != 0)) i := by
      by_cases hw : w = 0
      · rw [List.filter_cons_of_neg (by simp [hw])]
        split
        next h => rw [hlater, hw, if_neg (by omega)]
        · rfl
      · rw [List.filter_cons_of_pos (by simpa using hw)]
        rfl
    rw [hhead, hlater]
    rcases Nat.lt_trichotomy i k with h | h | h
    · rw [if_neg (by omega : ¬i = k), if_neg (by omega : ¬k + 1 ≤ i), if_neg (by omega : ¬k ≤ i)]
    · simp [h]
    · rw [if_neg (by omega : ¬i = k), if_pos (by omega : k + 1 ≤ i), if_pos (by omega : k ≤ i), show i - k = i - (k + 1) + 1 by omega,
        List.getD_cons_succ]

/-- The first of the places of a range that a test accepts. -/
theorem find?_range_map {P : Nat → Place} {Q : Nat × Place → Bool} {n i : Nat} (hi : i < n) (hq : Q (i, P i) = true)
    (hb : ∀ j, j < i → Q (j, P j) = false) : ((List.range n).map (fun i => (i, P i))).find? Q = some (i, P i) := by
  have hfind : (List.range n).find? (fun i => Q (i, P i)) = some i :=
    List.find?_range_eq_some.2 ⟨hq, List.mem_range.2 hi, fun j hj => by simp [hb j hj]⟩
  rw [List.find?_map]
  exact congrArg (Option.map _) hfind

section
variable {s u : State} {c l : Nat} {y : DCopy}

/-- What a copy waits for before it reads. -/
def CopyHeld (s : State) (c l : Nat) (y : DCopy) : Prop :=
  y.parked ≠ none ∨ s.copyWaits c l y = true ∨ s.dieUp (dieOf c) = false
    ∨ (y.seg.space = 1 ∧ (s.core c).slotSaved l y.slot = true)

theorem copyHeld_iff : CopyHeld s c l y ↔ (y.parked.isSome || s.copyWaits c l y || !s.dieUp (dieOf c)
    || (y.seg.space == 1 && (s.core c).slotSaved l y.slot)) = true := by
  simp [CopyHeld, Option.isSome_iff_ne_none, or_assoc]

/-- The accesses of HBM that a doubleword of a copy's source takes. -/
def copyUnits : Place → List Nat
  | .at a => hbmUnits a 8
  | _ => []

/-- The word that a copy reads at a place. -/
def copyWord (u : State) (l i : Nat) : Place → Word
  | .at a => if u.mem.isBad a then u.undef (some l) (u.free + i) else BitVec.ofNat 64 (u.mem.read a 8)
  | _ => 0

/-- The accesses of HBM of a copy, as they stand. -/
def copyAccesses (s : State) (c l : Nat) (y : DCopy) : DFlow :=
  y.flow.getD ⟨((List.range y.words).flatMap (fun i => copyUnits (s.copyPlace c l y i))).dedup, s.now, none⟩

/-- The words that a copy reads. -/
def copyWords (s u : State) (c l : Nat) (y : DCopy) : List Word :=
  ((List.range y.words).map (fun i => (i, s.copyPlace c l y i))).map (fun p => copyWord u l p.1 p.2)

/-- The context with a copy in its store. -/
def storeCopied (y : DCopy) (ws : List Word) (d : Dorent) : Dorent :=
  { d with store := (ws.zipIdx.map (fun p => (p.2, p.1))).filter (fun p => p.2 != 0), loaded := y.words,
           state := if d.state = DState.running then DState.running else DState.loaded, copy := none }

/-- A slot whose thread a copy wakes. -/
def wokenBy (y : DCopy) (x : Slot) : Slot := if x.tid = y.tid ∧ x.wait = .colld then x.wake else x

/-- The state with a copy in its context's store, and its thread woken. -/
def copied (s u : State) (c l : Nat) (y : DCopy) : State :=
  ({ u with free := u.free + y.words }.modDor c (storeCopied y (copyWords s u c l y))).modCore c (fun x =>
    { x with slots := x.slots.map (wokenBy y) })

theorem dor_copied : (copied s u c l y).dor c = storeCopied y (copyWords s u c l y) (u.dor c) := by
  rw [copied, State.dor, core_modCore]
  exact dor_modDor ..

theorem slot_copied {k : Nat} (hk : k < (u.core c).slots.length) : (copied s u c l y).slot c k = wokenBy y (u.slot c k) := by
  have hslots : ((copied s u c l y).core c).slots = (u.core c).slots.map (wokenBy y) := by
    rw [copied, core_modCore, State.modDor, core_modCore]
    rfl
  rw [State.slot, State.slot, Core.slot, Core.slot, hslots, List.getD_eq_getElem _ _ hk, List.getD_eq_getElem _ _ (by simpa using hk),
    List.getElem_map]

/-- The store holds the words that the copy read. -/
theorem store_copied {i a : Nat} (hi : i < y.words) (ha : s.copyPlace c l y i = .at a) (hb : u.mem.isBad a = false) :
    keyGet 0 ((copied s u c l y).dor c).store i = BitVec.ofNat 64 (u.mem.read a 8) := by
  rw [dor_copied]
  refine (keyGet_words i (copyWords s u c l y) 0).trans ?_
  rw [if_pos (Nat.zero_le _), Nat.sub_zero, copyWords, List.getD_eq_getElem _ _ (by simpa using hi), List.getElem_map, List.getElem_map,
    List.getElem_range, ha, copyWord, hb]
  rfl

section
variable (hl : (s.core c).lea = some l) (hy : (s.dor c).copy = some y)
include hl hy

theorem colldCopyDone_held (h : CopyHeld s c l y) : exec (.colldCopyDone c) s = .next s := by
  refine congrArg Host.Outcome.next ?_
  dsimp only
  rw [hl, hy]
  exact if_pos (copyHeld_iff.1 h)

variable (hh : ¬CopyHeld s c l y)
include hh

theorem colldCopyDone_page {i f : Nat} (hi : i < y.words) (hb : ∀ j, j < i → ∃ a, s.copyPlace c l y j = .at a)
    (hp : s.copyPlace c l y i = .page f) : exec (.colldCopyDone c) s =
      .next ((s.modDor c (fun d => { d with copy := some { y with parked := some (some f) } })).logPage l f) := by
  refine congrArg Host.Outcome.next ?_
  dsimp only
  rw [hl, hy]
  refine (if_neg (mt copyHeld_iff.2 hh)).trans ?_
  rw [find?_range_map (P := s.copyPlace c l y) hi]
  · rw [hp]
  · rw [hp]
  · intro j hj
    obtain ⟨a, ha⟩ := hb j hj
    rw [ha]

theorem colldCopyDone_reads (ha : ∀ i, i < y.words → ∃ a, s.copyPlace c l y i = .at a) : exec (.colldCopyDone c) s = .next (
    if !(s.flowOn l (copyAccesses s c l y)).2.served s.now then
      (s.flowOn l (copyAccesses s c l y)).1.modDor c (fun d =>
        { d with copy := some { y with flow := some (s.flowOn l (copyAccesses s c l y)).2 } })
    else copied s ((s.flowOn l (copyAccesses s c l y)).1.flushFor c l) c l y) := by
  have hflow : copyAccesses s c l y = y.flow.getD
      ⟨(((List.range y.words).map (fun i => (i, s.copyPlace c l y i))).flatMap (fun p => copyUnits p.2)).dedup, s.now, none⟩ := by
    rw [List.flatMap_map]
    rfl
  refine congrArg Host.Outcome.next ?_
  dsimp only
  rw [hl, hy]
  refine (if_neg (mt copyHeld_iff.2 hh)).trans ?_
  rw [List.find?_eq_none.2, hflow]
  · rfl
  · intro p hp
    obtain ⟨i, hi, rfl⟩ := List.mem_map.1 hp
    obtain ⟨a, ha⟩ := ha i (List.mem_range.1 hi)
    rw [ha]
    exact Bool.false_ne_true

end
end

section
variable {s : State} {c l : Nat} {y : DCopy}

/-- A copy whose accesses are over is in its context's store. -/
theorem colldCopyDone_served (hl : (s.core c).lea = some l) (hy : (s.dor c).copy = some y) (hh : ¬CopyHeld s c l y)
    (ha : ∀ i, i < y.words → ∃ a, s.copyPlace c l y i = .at a) (hw : (copyAccesses s c l y).wants = [])
    (hd : (copyAccesses s c l y).due ≤ s.now) : exec (.colldCopyDone c) s = .next (copied s (s.flushFor c l) c l y) := by
  rw [colldCopyDone_reads hl hy hh ha, flowOn_idle hw, served_iff.2 ⟨hw, hd⟩]
  rfl

/-- A copy whose accesses are not over keeps them. -/
theorem colldCopyDone_unserved (hl : (s.core c).lea = some l) (hy : (s.dor c).copy = some y) (hh : ¬CopyHeld s c l y)
    (ha : ∀ i, i < y.words → ∃ a, s.copyPlace c l y i = .at a)
    (hw : (copyAccesses s c l y).wants ≠ [] ∨ s.now < (copyAccesses s c l y).due) : exec (.colldCopyDone c) s = .next (
      (s.flowOn l (copyAccesses s c l y)).1.modDor c (fun d =>
        { d with copy := some { y with flow := some (s.flowOn l (copyAccesses s c l y)).2 } })) := by
  rw [colldCopyDone_reads hl hy hh ha, flowOn_unserved hw]
  rfl

end

/-- A piece that waits, goes on its way or moves. -/
theorem piece_cases {out : Out1} {ready go : Bool} {x y z : State} (h : out = .next (if !ready then x else if go then y else z)) :
    (ready = false → out = .next x) ∧ (ready = true → go = false → out = .next z)
    ∧ (ready = true → go = true → out = .next y) := by
  refine ⟨?_, ?_, ?_⟩
  · rintro rfl
    exact h
  · rintro rfl rfl
    exact h
  · rintro rfl rfl
    exact h

/-- Settles O45: copies and pieces by how far their accesses of HBM are, outstanding instructions by their kind, signals by the two
versions. -/
theorem collectiveData : Obligations.CollectiveData := by
  intro c l op s
  refine ⟨?copy, ?held, dorentOpComplete_none, ?flow, ?move, ?step, ?combine, ?park, ?signal, ?sums, ?elems⟩
  case copy =>
    intro y hl hy
    refine ⟨colldCopyDone_held hl hy, fun hp hc hd ha => ?_⟩
    have hh : ¬CopyHeld s c l y := by
      rintro (h | h | h | h)
      · exact h hp
      · cases h.symm.trans hc
      · cases h.symm.trans hd
      · exact ha h
    refine ⟨fun hat hw hdue => ⟨_, colldCopyDone_served hl hy hh hat hw hdue, ?_⟩, fun hat hw => ?_,
      fun i f hi hb hf => colldCopyDone_page hl hy hh hi hb hf⟩
    · refine ⟨fun hst => ?_, by rw [dor_copied]; rfl, by rw [dor_copied]; rfl, fun i a => store_copied, fun k => slot_copied⟩
      rw [dor_copied]
      exact if_neg hst
    · obtain ⟨sv, hsv, h1, h2⟩ := flowOn_spec s l (copyAccesses s c l y)
      refine ⟨_, (s.flowOn l (copyAccesses s c l y)).2, colldCopyDone_unserved hl hy hh hat hw, flowOn_mem .., ?_, rfl, h1, h2, rfl⟩
      rw [dor_modDor]
  case held =>
    exact fun d m hs hh => ⟨dorentOpComplete_held hs hh, reductionSlotCombine_held hs hh⟩
  case flow =>
    intro e reads writes a b
    refine ⟨flowPiece_mem .., ?_, flowPiece_there, ?_, ?_, ?_⟩
    · obtain ⟨sv, hsv⟩ := flowPiece_state s l e reads writes a b
      exact (congrArg State.cores hsv).trans rfl
    · rintro rfl
      exact flowPiece_begins
    · rintro t rfl
      exact flowPiece_writes
    · rintro rfl rfl rfl
      exact flowPiece_at_once
  case move =>
    intro a b xo yo n x y last
    refine ⟨fun h => movePiece_mem.trans (congrArg State.mem (delivered_written h)), ?_, movePiece_poison, flushGroup_idle⟩
    rcases delivered_cases (s := s) (a := a) (b := b) (xo := xo) (yo := yo) (n := n) (x := x) (y := y) (last := last) with h | h
    · exact .inl (movePiece_mem.trans (congrArg State.mem h))
    · refine .inr ⟨movePiece_mem.trans ((congrArg State.mem h).trans rfl), movePiece_late.trans ?_⟩
      rw [h, kept, dor_modDor]
      rfl
  case step =>
    intro d m o hs hp hd ho
    have hstep := dorentOpComplete_steps hs hp hd ho
    obtain ⟨hl, hdor, -⟩ := runningAt_iff.1 hs
    refine ⟨fun p q hk hb hb' => ?copy, fun hk hw => hstep.trans (congrArg _ (opStep_waits hk hw)),
      fun a x b y k hk ht hf hpair hlea => ?transfer, fun hk => hstep.trans (congrArg _ (opStep_reduction hk))⟩
    case copy =>
      rw [hdor] at hb hb'
      have hcopy := hstep.trans (congrArg _ ((opStep_copy hk).trans (stepCopy_eq hl hb hb')))
      exact piece_cases hcopy
    case transfer =>
      have hpiece := hstep.trans (congrArg _ (opStep_pair hk ht hf hpair))
      refine ⟨fun hne => hpiece.trans (congrArg _ (stepTransfer_differs hne)), fun p q hlen hb hb' => ?_⟩
      have hmove := hpiece.trans (congrArg _ (stepTransfer_eq hlea hlen hb hb'))
      obtain ⟨hwait, hway, hthere⟩ := piece_cases hmove
      exact ⟨hwait, hway, fun hr hg hdone => (hthere hr hg).trans (congrArg _ (opMoved_both hlen hdone))⟩
  case combine =>
    exact fun d m o t k hs hp hd ht ho => reductionSlotCombine_first hs hp hd ht ho
  case park =>
    intro d m hs
    refine ⟨dorentPark_idle hs, fun f off => dorentPark_page hs, fun e off hp h => ?_⟩
    obtain ⟨t, ht, hdor, hmem⟩ := dorentPark_fault hs hp h
    exact ⟨t, ht, by rw [hdor], by rw [hdor], hmem⟩
  case signal =>
    intro d m o x e peer dir seq hs ho hk hch hx he
    have h : Signals s c l op d m o x e := ⟨hs, ho, hk, ⟨peer, dir, seq, hch⟩, hx, he⟩
    refine ⟨fun hw => ?_, fun z hc hz hlt => (dsigArrive_heard h hc hz).trans (congrArg _ (if_pos hlt)), fun hc hlt => ?_,
      dsigArrive_adds h⟩
    · by_cases hc : Clear d o
      · exact dsigArrive_unheard h hc (hw.resolve_left (not_not.2 hc))
      · exact dsigArrive_behind h hc
    · rcases hz : s.heard l c x.dst (op + 1) with _ | z
      · exact dsigArrive_unheard h hc hz
      · exact (dsigArrive_heard h hc hz).trans (congrArg _ ((if_neg (Nat.not_lt.2 hlt.le)).trans (if_pos hlt)))
  case sums => exact fun x y => ⟨dCombine_sum32 x y, dCombine_sum64 x y⟩
  case elems => exact fun fmt o own kid fresh ho => ⟨nodeElem_clean ho, nodeElem_poisoned⟩

end Sys2Proof.Proofs
